-- ==== Sys2Proof/Word.lean ====
section
/-! DEFINITION. The word types of the VG6480's boundaries, and the type of a sparse table: a list of key and value
pairs with keys rising and no pair equal to the table's default (the operations stand in Machine/Sparse.lean). -/
namespace Sys2Proof

/-- One byte of a message, a posted write or a record. -/
abbrev Byte := BitVec 8

/-- One register of the register map: 32 bits (R353). -/
abbrev Word := BitVec 32

/-- A table over natural-number keys, held as plain data: only the entries that differ from the default. -/
abbrev Sparse (α : Type) := List (Nat × α)

end Sys2Proof
end

