-- ==== Sys2Proof/Syntax.lean ====
section
/-! DEFINITION. The commands of the block, one constructor for each row of spec/opcode_table.json, and the types of
their operands. The table gives its rows no operand fields: the operands here are what the row's rule says the VG6480
is given from outside at that step (a value written, an address, a payload, a measurement, an elapsed time). -/
namespace Sys2Proof

/-- The thirteen units of R12, in the order of their index. -/
inductive UnitId where
  | host | link | lamp | intake | media | front | back | tun | grist | wick | power | snuff | clock
  deriving DecidableEq, Repr

/-- The causes of the error reports (R195, R256, R317, R399, R434, R441). -/
inductive Cause where
  | hostLinkDown | hostTrainFail | hostRxEcc | hostRingEcc
  | linkRxEcc
  | lampSealOverrun
  | intakeMemUncorr | intakeMemNoSpare
  | mediaDieFail | mediaChannelFail | mediaBusCheck | mediaStripeLost | mediaQueueEcc
  | frontWatchdog | frontMemUncorr | frontMemNoSpare
  | backWatchdog | backMemUncorr | backMemNoSpare
  | tunUncorr | tunMacroHard
  | gristUncorr | gristNoSpare
  | wickAnchorTie | wickErasedAccess | wickSectorRetired | wickSectorLimit | wickLargeFail | wickOtpUncorr | wickQueueEcc
  | powerRailUv | powerRailOv | powerRailOc | powerChargeTimeout | powerGaugeFail | powerThermTrip | powerVinOv
  | snuffDryRun
  | clockPllUnlock
  deriving DecidableEq, Repr

/-- The rails of R250, in the order of RAIL_SEL (R288). -/
inductive Rail where
  | vcore | vccqPhy | vwk | vcc | vccq
  deriving DecidableEq, Repr

/-- The PLLs of R27, in the order of R499. -/
inductive Pll where
  | tick | fabric | nand | pcie
  deriving DecidableEq, Repr

/-- The two cores (R12). -/
inductive Core where
  | front | back
  deriving DecidableEq, Repr

/-- The three frontiers that are read through a _LO and a _HI register (R89). -/
inductive Frontier where
  | accept | durable | trim
  deriving DecidableEq, Repr

/-- Why the port lost its link (R317, R499). -/
inductive LinkLoss where
  | surpriseDown | hotReset | linkDisable | dlDown
  deriving DecidableEq, Repr

/-- What the dry run measures outside the state (R284): items 1 to 4, and a fresh blank check for item 7. -/
structure DryIn where
  removalSeen : Bool
  brownSeen   : Bool
  /-- Charge pump voltage above VBANK, in mV (item 2). -/
  pumpMv      : Nat
  /-- External gate capacitance, in pF (item 2). -/
  gatePf      : Nat
  /-- The journal tail pointer and its version read without an uncorrectable word (item 3). -/
  tailReads   : Bool
  /-- The pending lists read without an uncorrectable word and agree with the counts (item 4). -/
  listsAgree  : Bool
  /-- The next anchor slots read blank, when read afresh (item 7). -/
  slotsBlank  : Bool
  deriving DecidableEq, Repr

/-- What a marker takes from outside: the ended cycle's length in periods of the 100 MHz tick clock (R39, R210),
whether PHASE_TICK edges have resumed (R39), and the dry run's measurements (R284). -/
structure MarkerIn where
  clocks       : Nat
  edgesResumed : Bool
  dry          : DryIn
  deriving DecidableEq, Repr

/-- A media descriptor, field by field (R165). -/
structure MDesc where
  op        : BitVec 8
  die       : BitVec 4
  mode      : BitVec 2
  acc       : Bool
  cls       : BitVec 3
  ladder    : BitVec 2
  planes    : BitVec 8
  block     : BitVec 16
  wl        : BitVec 16
  tunAddr   : Word
  cwFirst   : BitVec 16
  cwCount   : BitVec 16
  accAddr   : Word
  band      : BitVec 24
  tag       : Word
  submitter : BitVec 8
  deriving DecidableEq, Repr

/-- A codeword header (R180). -/
structure Header where
  band : BitVec 24
  /-- Codeword index within the page. -/
  cw   : BitVec 2
  /-- 0 stream piece, 1 random-region unit, 2 journal, 3 map page, 4 pad, 5 snuff band content, 6 parity. -/
  kind : BitVec 4
  /-- Page index within the band. -/
  page : BitVec 24
  /-- The journal sequence current when the unit was programmed. -/
  seq  : BitVec 64
  deriving DecidableEq, Repr

/-- What the reads of one rung gave: the most bit errors in any addressed codeword, the unsatisfied parity checks (R182), whether a decode
that the hard capability does not promise succeeded (R181), and the header of each codeword decoded (R180). -/
structure RungIn where
  errors  : Nat
  checks  : Nat
  decoded : Bool
  headers : List Header
  deriving DecidableEq, Repr

/-- What the dies answered to one READ (R182, R183): at least 99.5 % of the raw bits of every addressed codeword read as 1, what
each rung from 0 gave, and the channels of the row's other units that rung 18 could not read. -/
structure ReadIn where
  ones  : Bool
  rungs : List RungIn
  lost  : List (BitVec 5)
  deriving DecidableEq, Repr

/-- What the reads of a move gave (R231): of step 1, by the place of the source codeword in the batch, and of step 3, by the place of the
target codeword among those that wait to be verified. A codeword that is not listed read without an error. -/
structure MoveIn where
  reads  : List (Nat × ReadIn)
  verify : List (Nat × ReadIn)
  deriving DecidableEq, Repr

/-- How the die ended an operation: its last status byte, and the elapsed time in µs (R168). -/
structure DieEnd where
  status  : BitVec 8
  elapsed : Word
  deriving DecidableEq, Repr

/-- A die profile (R154). Times are in µs. -/
structure Profile where
  /-- JEDEC manufacturer identifier. -/
  maker      : Byte
  /-- Device model of the parameter page. -/
  model      : List Byte
  /-- Bits per cell of the native mode: 1 SLC, 3 TLC, 4 QLC. -/
  bits       : Nat
  /-- Feature address and values that select SLC-mode program and read. -/
  slcMode    : Option (Byte × List Byte)
  planes     : Nat
  /-- Spare bytes of a 16 KiB page. -/
  spare      : Nat
  wordlines  : Nat
  /-- Blocks per plane. -/
  blocks     : Nat
  /-- The program unit, native and SLC mode. -/
  unitKiB    : Nat
  slcUnitKiB : Nat
  tProg      : Nat
  tProgSlc   : Nat
  tRead      : Nat
  tReadSlc   : Nat
  tErase     : Nat
  tReset     : Nat
  /-- The threshold-shift steps, each a set of feature addresses and values. -/
  retry      : List (List (Byte × Word))
  /-- The shift δ of the soft reads. -/
  soft       : Nat
  /-- Maximum suspended time, where erase suspend is declared. -/
  suspend    : Option Nat
  /-- Rated program and erase cycles, native mode. -/
  rated      : Nat
  /-- Rated program and erase cycles, SLC mode. -/
  ratedSlc   : Nat
  /-- Code of the highest NV-LPDDR4 rate of R152: 1 to 4. -/
  topRate    : Nat
  deriving DecidableEq, Repr

/-- What discovery found at one die (R157): its channel, its die index, the manufacturer and the model it reports, and whether it
needs a part of ONFI 5.1 that R152 does not list. -/
structure FoundDie where
  channel : BitVec 5
  die     : BitVec 4
  maker   : Byte
  model   : List Byte
  beyond  : Bool
  deriving DecidableEq, Repr

/-- What discovery meets on the magazine: the profile table of the image in use, the dies that answered, and for each channel
whose training ends with discovery the rates at which it passes, bit i for rate code i + 1 (R154, R157, R161). -/
structure DiscoveryIn where
  table   : List Profile
  dies    : List FoundDie
  passes  : List (BitVec 5 × BitVec 4)
  rawGB10 : BitVec 16
  deriving DecidableEq, Repr

/-- What recovery meets outside the state: bytes that no copy gives back (R139), whether free bands can supply two
snuff bands (R141), whether unit 3 of the OTP row reads (R432), and the time it took, in ms (R375). -/
structure RecoveryIn where
  missing    : List (BitVec 10 × Nat)
  /-- journal sequences of the parts that neither copy gives back valid (R117, R118) -/
  badSeqs    : List Nat
  snuffBands : Bool
  ms         : Nat
  /-- blocks, as (channel, die, block), whose factory mark is found when they are first taken for a band (R160) -/
  marked     : List (Nat × Nat × Nat)
  /-- blocks whose erase fails (R190) -/
  eraseFails : List (Nat × Nat × Nat)
  /-- blocks whose first wordline does not read ERASED after the erase (R174) -/
  notErased  : List (Nat × Nat × Nat)
  deriving DecidableEq, Repr

/-- What the Snuffer's programs meet in a flush. -/
structure FlushIn where
  /-- the programs of the snuff bands that fail, each as the place of its band in the order of R239, 0 or 1, its channel and its row (R178,
  R239, R279) -/
  fails : List (Nat × Nat × Nat)
  /-- copies of the anchor pair that end PROG_FAIL before one is verified, in area A and in area B (R272 step 8, R424) -/
  failA : Nat
  failB : Nat
  deriving DecidableEq, Repr

/-- What a configuration write sets beside the addresses and the bus enables: Relaxed Ordering and ASPM L1 in the PCI Express capability, ECRC
generation and checking in AER (R290). -/
structure DevCtl where
  relaxed   : Bool
  aspmL1    : Bool
  ecrcGen   : Bool
  ecrcCheck : Bool
  deriving DecidableEq, Repr

/-- The parity errors of the characters that one side sends for a Novven command (R348): how many characters are sent again, and which one, if
any, fails its fourth sending. -/
structure CharFails where
  again : Nat
  lost  : Option Nat
  deriving DecidableEq, Repr

/-- The parity errors of a header, and of the characters that the VG6480 sends for the command: 0 is its answer to the header, and the result
character and the data follow (R346, R348). -/
structure HeaderFails where
  header : CharFails
  answer : CharFails
  deriving DecidableEq, Repr

/-- The words that a Novven WRITE's data characters carry, and the parity errors of these characters (R346, R348). -/
structure NovvenData where
  words : List Word
  fails : CharFails
  deriving DecidableEq, Repr

/-- One host read completion or its failure (R304, R307, R413). -/
inductive HostRead where
  | ok (data : List Byte)
  | failed
  deriving DecidableEq, Repr

/-- A data or check error found in a selectable memory (R393, R395). -/
structure EccHit where
  mem     : BitVec 3
  word    : BitVec 24
  uncorr  : Bool
  scrub   : Bool
  /-- requester unit index, 15 for the scrubber -/
  req     : BitVec 4
  /-- Tun: the macros of the erroneous symbols; SECDED memories: the bit position. -/
  places  : List Byte
  deriving DecidableEq, Repr

/-- The commands: one constructor for each row of spec/opcode_table.json, in the table's order. -/
inductive Instr where
  | phaseInEdge (sinceNs pos : Nat)
  | marker (pos : Nat) (m : MarkerIn)
  | generatedMarker (m : MarkerIn)
  | acquireSynthMarker (m : MarkerIn)
  | flywheelSynthMarker (m : MarkerIn)
  | tickLimitMarker (m : MarkerIn)
  | tickLost (pos edges spanClocks : Nat)
  | windowOpen (pos : Nat)
  | windowEnd (pos : Nat)
  | tailGraceExpire (pos : Nat)
  | sealStart
  | sealComplete
  | closeDoorbell (stream : BitVec 10) (c : BitVec 64)
  | cycSrcWrite (v mask : Word)
  | cycPeriodWrite (v : Word)
  | cycCountRead
  | cycCountHiWrite (v : Word)
  | cycCountWrite (v : Word)
  | planWinWrite (v : Word)
  | registerWrite (addr : BitVec 7) (v mask : Word)
  | stCmdOpen
  | stCmdEnd
  | stCmdResume
  | stCmdDelete
  | apertureWrite (off : BitVec 32) (data : List Byte) (be : BitVec 4) (ep eccBad : Bool)
  | tunAck (stream : BitVec 10)
  | mirrorWrite (stream : BitVec 10)
  | frontierLoRead (f : Frontier)
  | stTrimHiWrite (v : Word)
  | stTrimLoWrite (v : Word)
  | streamSelWrite (v : Word)
  | creditGrant
  | energyShortfallTimeout
  | wtFlushStart
  | throughNoteProgrammed
  | cryptoErase
  | softReset
  | bootHoldWrite (hold : Bool)
  | journalTailCommit
  | perstAssert
  | recovery (r : RecoveryIn)
  | mediaDiscovery (d : DiscoveryIn)
  | channelTraining (ch : BitVec 5) (pass : BitVec 4)
  | zqCalibrationShort (ch : BitVec 5)
  | retrainCheck (ch : BitVec 5) (pass : Bool)
  | tempRetrain (ch : BitVec 5) (elapsedS : Nat)
  | channelRetrain (ch : BitVec 5) (pass : Bool)
  | descriptorStart (ch : BitVec 5) (subs : List MDesc) (slot : BitVec 8) (eccBad : Bool)
  | tokenWaitAge (ch : BitVec 5) (slot : BitVec 8)
  | mediaRead (ch : BitVec 5) (slot : BitVec 8) (r : ReadIn)
  | mediaProgram (ch : BitVec 5) (slot : BitVec 8) (notErased : List (BitVec 5)) (failed : Bool)
  | mediaParity (ch : BitVec 5) (slot : BitVec 8) (failed : Bool)
  | mediaErase (ch : BitVec 5) (slot : BitVec 8) (failed : Bool)
  | markRead (ch : BitVec 5) (slot : BitVec 8) (marked : Bool)
  | feature (ch : BitVec 5) (slot : BitVec 8)
  | resetDie (ch : BitVec 5) (slot : BitVec 8) (idMatches : Bool)
  | dieTimeout (ch : BitVec 5) (slot : BitVec 8) (readyAgain idMatches inSecond : Bool)
  | descriptorComplete (ch : BitVec 5) (slot : BitVec 8) (e : DieEnd)
  | rebuild (ch : BitVec 5) (m : MoveIn)
  | kilnBatch (m : MoveIn)
  | spargeCopy (band : BitVec 24) (m : MoveIn)
  | refreshRewrite (ch : BitVec 5) (band : BitVec 24) (m : MoveIn)
  | refreshUrgentAge (ch : BitVec 5) (band : BitVec 24)
  | bandRelease (band : BitVec 24)
  | piecePlacement (stream : BitVec 10)
  | runPageWrite
  | gristMiss (page : BitVec 32)
  | cellarPageFetched (page : BitVec 32) (r : HostRead)
  | snuffBandCheck (firstErased secondErased : Bool)
  | scrubVisit (ch : BitVec 5) (band : BitVec 24) (last further : ReadIn)
  | healthMinute
  | indAddrWrite (v : Word)
  | indDataAccess (w : Option Word)
  | vinPor
  | railUv (r : Rail) (below : Bool)
  | railOv (r : Rail)
  | railOc (r : Rail) (beyond : Bool)
  | chargeTimeout (vbankMv : Nat)
  | tempSample (ctrl0 ctrl1 ctrl2 ctrl3 pwr wick : Int)
  | thermalLimitRecompute (higherForMs : Nat)
  | gaugeMeasurement
  | gaugeNow
  | gaugeDeferFail
  | gaugeMeasurementDone (v0 v1 v2 : Nat)
  | energyAvailUpdate (vbankMv : Nat)
  | removalDetect (pos : Nat)
  | presentLowQualify
  | brownOut (beyond : Bool) (pos : Nat)
  | vauxLoss
  | snufferFlush (f : FlushIn)
  | bankLowAbort
  | perstDeassert
  | trainFail
  | surpriseDown (kind : LinkLoss)
  | functionLevelReset
  | d3hotEntry
  | d0Return
  | bar0Read (off : BitVec 32) (len : Nat)
  | tailDoorbell (ring : BitVec 5) (v : Word)
  | headDoorbell (ring : BitVec 5) (v : Word)
  | setupRecordWrite (completion : Bool) (ring : BitVec 5) (off : BitVec 5) (data : List Byte)
  | mirrorBaseWrite (v : BitVec 64)
  | setMailboxWrite (slot : BitVec 3) (data : List Byte)
  | bar2BadWrite (off : BitVec 20) (len : Nat)
  | descriptorFetch (r : HostRead) (eccBad : Bool)
  | readStream (id : Nat) (back : List (Nat × Option (List Byte)))
  | readRandom (id : Nat) (back : List (Nat × Option (List Byte)))
  | writeRandom (id : Nat)
  | dataFetchDone (id : Nat) (r : HostRead)
  | caskQuery (id : Nat)
  | completionPost (id : Nat)
  | coalesceTimeout (ring : BitVec 5)
  | sealMarkAbandon
  | linkReset
  | linkDeselect
  | protocolSelect (ch : Byte) (parityFails : Nat)
  | chainedIFrame (ns : BitVec 3) (info : List Byte)
  | messageReceive (ns nr : BitVec 3) (info : List Byte)
  | hostRFrame (nr : BitVec 3) (reason : Byte)
  | frameCrcError
  | length255Frame
  | resyncReq
  | abortReq
  | checkReq (pattern : List Byte)
  | switchRevert
  | readReg (addr : BitVec 8) (count : BitVec 8)
  | writeReg (addr : BitVec 8) (data : List Word)
  | writeMasked (addr : BitVec 8) (mask v : Word)
  | indRead (addr : Word) (count : BitVec 16)
  | indWrite (addr : Word) (data : List Word)
  | resetCmdLink
  | resetCmdWarm
  | resetCmdCold
  | switch (width : BitVec 8) (rate : BitVec 8)
  | sleep
  | wake
  | echo (data : List Byte)
  | novvenHeader (op addr count chk : Byte) (fails : HeaderFails)
  | novvenRead
  | novvenWrite (data : NovvenData) (chk : Byte)
  | novvenReset
  | irqEnableWrite (v : Word)
  | faultAckWrite (units : BitVec 13)
  | faultAckSelf
  | setCtrlWrite (v : Word)
  | memRetireWrite (target : BitVec 20)
  | memPwrWrite (st : BitVec 2)
  | memTestEnWrite (en : Bool)
  | memTestRead
  | memTestWriteRaw
  | memTestWriteChecked
  | wickSubmit (tag : Byte)
  | wickDoneTake
  | cellarBaseWrite (size : Bool) (hi : Word)
  | errorReport (u : UnitId) (fresh : Option (Cause × BitVec 56))
  | unitRestartRelease (u : UnitId)
  | shadowEnd (u : UnitId)
  | dupMismatch (addr : BitVec 8) (other : Word) (persists : Bool)
  | watchdog (c : Core)
  | wickReadMargin (pass : Bool)
  | wickProgram (blank verified : Bool) (src : HostRead)
  | wickErase (fetchOn : Bool)
  | wickEraseSuspend
  | wickEraseResume
  | otpProgram (verified : Bool) (src : HostRead)
  | rotate
  | wickDescComplete (eraseOk imageValid slotsBlank : Bool)
  | planeAccessSuspend (sector : BitVec 6) (req : BitVec 4)
  | eraseAutoResume
  | wickBrownout (low : Bool)
  | anchorPairWrite (aged waited : Bool) (failA failB : Nat) (slotsBlank : Bool)
  | anchorTokenAdd
  | scrubAccess (h : Option EccHit) (mem : BitVec 3) (lapMs : Option Nat)
  | eccEntryExamine
  | poisonRebuild (mem : BitVec 3) (word : BitVec 24)
  | memoryFill
  | vauxPorAssert
  | vauxPorRelease (straps : BitVec 4)
  | fuseMapRead (bad : List (BitVec 6))
  | pllLock (p : Pll)
  | pllLockTimeout (p : Pll)
  | pllUnlock (p : Pll)
  | holdWindowEnd
  | bootImageLoad (aValid bValid : Bool)
  | firmwareStart
  | dlActive
  | configWrite (bar0 bar2 : BitVec 64) (mse bme : Bool) (ctl : DevCtl) (mps mrrs : Nat) (msixOn msixMask : Bool) (msix : List (Nat × Word))
  | vauxReturn
  deriving DecidableEq, Repr

end Sys2Proof
end

