-- ==== Sys2Proof/Config.lean ====
section
/-! DEFINITION. The values that the manual leaves open, as constants without a body: nothing can be proved of what they
are, so a statement about them holds whatever they are. -/
namespace Sys2Proof

/-- The order of the symbols of a Tun word in its code polynomial: symbol 0 stands at the highest power, or at the lowest. The manual gives
the code but not this (R385, log 10). -/
opaque Config.tunOrder : Bool

/-- The check bits of a SECDED word (R386): the manual gives no check matrix (log 10). -/
opaque Config.secdedCheck : BitVec 64 → BitVec 8

/-- What the SECDED decoder makes of a raw word that it corrects: data, check bits (R386; log 10). -/
opaque Config.correct : BitVec 64 → BitVec 8 → BitVec 64

/-- What a word of a memory in use holds, data then check bits: memory, word, draw. The manual lays out no structure of
the memories word by word (log 10). -/
opaque Config.heldData : Nat → Nat → Nat → BitVec 512

/-- The check bits of such a word (log 10). -/
opaque Config.heldCheck : Nat → Nat → Nat → BitVec 64

/-- Bytes of the OTP row's SECDED-uncorrectable unit as the indirect space shows them: byte, draw (R432, log 10). -/
opaque Config.otpBad : Nat → Nat → BitVec 8

/-- Tun addresses that a descriptor names: of a unit's data by its tag (0), of a row's accumulator by band and row (1). The manual
lays out no addresses in the Tun (R165, log 108). -/
opaque Config.tunAddr : Nat → Nat → Nat → BitVec 32

/-- The 512 bytes of LDPC parity of a codeword, by its other bytes: the manual gives no code matrix (R179, R181, log 123). -/
opaque Config.ldpcParity : List (BitVec 8) → BitVec 4096

/-- The 32-bit map entry of a unit that lies in no random band, by band and codeword: a copy in staging, for which the entry format of
R218 has no ordinal (R109, R124, R214, log 124). -/
opaque Config.stagedEntry : Nat → Nat → BitVec 32

/-- Bytes of a snuff band's header, tail and trailer, whose layout the manual does not give: item of R277, the values that it holds, byte
index (R277, log 150). -/
opaque Config.snuffByte : Nat → List Nat → Nat → BitVec 8

/-- Bytes of a checkpoint's body, whose layout the manual does not give: sequence of the record, byte index (R128, log 117). -/
opaque Config.checkpointByte : Nat → Nat → BitVec 8

/-- The value of the features set in a die: draw, channel, die. R152 names them and gives no values, and a FEATURE descriptor has no place for
one (R165; log 143). -/
opaque Config.dieFeature : Nat → Nat → Nat → BitVec 8

/-- The completion status of a RESET_DIE whose READ ID does not match: the manual states none (log 12). -/
opaque Config.resetDieStatus : Nat → BitVec 8

/-- What the on-chip random source gave for the magazine key at a draw: the 512-bit XTS key pair (R101, log 7). -/
opaque Config.magazineKey : Nat → BitVec 512

/-- What the on-chip random source gave for the Cellar key at a draw (R223, log 7). -/
opaque Config.cellarKey : Nat → BitVec 256

/-- RAIL_STATUS.VOLT as measured: rail, draw. No rule computes it from the state (R288, log 13). -/
opaque Config.railVolt : Nat → Nat → BitVec 13

/-- RAIL_STATUS.CURR as measured: rail, draw (R288, log 13). -/
opaque Config.railCurr : Nat → Nat → BitVec 12

end Sys2Proof
end

