-- ==== Sys2Proof/Machine/Aes.lean ====
section
/-! DEFINITION. AES-256 (FIPS 197), its use as AES-256-XTS (IEEE 1619, R100), the key wrap of RFC 3394 (R101), and AES-CMAC
(RFC 4493, R224). A block is a list of 16 bytes, column by column, as FIPS 197 numbers them. -/
namespace Sys2Proof.Machine
open Sys2Proof

/-! ### Bytes -/

/-- Byte by byte exclusive or. -/
def xorBytes (a b : List Byte) : List Byte := List.zipWith (fun x y => x ^^^ y) a b

/-- Multiplication by x in the field of AES. -/
def xtime (b : Byte) : Byte := (b <<< 1) ^^^ (if b.msb then 0x1B else 0)

/-- Entry b of a table of 256 bytes that stands as eight numbers of 32 bytes, the lowest byte first. -/
def tableByte (t : List Nat) (b : Byte) : Byte := BitVec.ofNat 8 ((t.getD (b.toNat / 32) 0) >>> (8 * (b.toNat % 32)))

/-- The S-box (FIPS 197). -/
def sboxTable : List Nat :=
  [0xC072A49CAFA2D4ADF04759FA7DC982CA76ABD7FE2B670130C56F6BF27B777C63,
   0x75B227EBE28012079A059618C323C7041531D871F1E5A534CCF73F362693FDB7,
   0xCF584C4A39BECB6A5BB1FC20ED00D153842FE329B3D63B52A05A6E1B1A2C8309,
   0xD2F3FF1021DAB6BCF5389D928F40A351A89F3C507F02F94585334D43FBAAEFD0,
   0xDB0B5EDE14B8EE4688902A22DC4F816073195D643D7EA7C41744975FEC130CCD,
   0x08AE7A65EAF4566CA94ED58D6D37C8E779E4959162ACD3C25C2406490A3A32E0,
   0x9E1DC186B95735610EF6034866B53E708A8BBD4B1F74DDE8C6B4A61C2E2578BA,
   0x16BB54B00F2D99416842E6BF0D89A18CDF2855CEE9871E9B948ED9691198F8E1]

/-- The inverse S-box (FIPS 197). -/
def invSboxTable : List Nat :=
  [0xCBE9DEC444438E3487FF2F9B8239E37CFBD7F3819EA340BF38A53630D56A0952,
   0x25D18B6D49A25B76B224D92866A12E084EC3FA420B954CEE3D23C2A632947B54,
   0x849D8DA75746155EDAB9EDFD5048706C92B6655DCC5CA4D41698688664F6F872,
   0x6B8A130103BDAFC1020F3FCA8F1E2CD00645B3B80558E4F70AD3BC8C00ABD890,
   0x6EDF751CE837F9E28535ADE72274AC9673E6B4F0CECFF297EADC674F4111913A,
   0xF45ACD78FEC0DB9A2079D2C64B3E56FC1BBE18AA0E62B76F89C5291D711AF147,
   0xEF9CC9939F7AE52D0D4AB519A97F51605FEC8027591012B131C7078833A8DD1F,
   0x7D0C2155631469E126D677BA7E042B17619953833CBBEBC8B0F52AAE4D3BE0A0]

/-- SubBytes. -/
def subBytes (s : List Byte) : List Byte := s.map (tableByte sboxTable)

/-- InvSubBytes. -/
def invSubBytes (s : List Byte) : List Byte := s.map (tableByte invSboxTable)

/-- ShiftRows. -/
def shiftRows (s : List Byte) : List Byte := (List.range 16).map fun k => s.getD ((k + 4 * (k % 4)) % 16) 0

/-- InvShiftRows. -/
def invShiftRows (s : List Byte) : List Byte := (List.range 16).map fun k => s.getD ((k + 12 * (k % 4)) % 16) 0

/-- One column of MixColumns. -/
def mixColumn : List Byte → List Byte
  | a :: b :: c :: d :: rest =>
    (xtime a ^^^ xtime b ^^^ b ^^^ c ^^^ d) :: (a ^^^ xtime b ^^^ xtime c ^^^ c ^^^ d) ::
    (a ^^^ b ^^^ xtime c ^^^ xtime d ^^^ d) :: (xtime a ^^^ a ^^^ b ^^^ c ^^^ xtime d) :: mixColumn rest
  | _ => []

/-- InvMixColumns: MixColumns after a first step over each column. -/
def unmixStep : List Byte → List Byte
  | a :: b :: c :: d :: rest =>
    let u := xtime (xtime (a ^^^ c))
    let v := xtime (xtime (b ^^^ d))
    (a ^^^ u) :: (b ^^^ v) :: (c ^^^ u) :: (d ^^^ v) :: unmixStep rest
  | _ => []

/-! ### The key schedule and the rounds -/

/-- Word i of the key schedule, from the words before it, newest first. -/
def keyWord (i : Nat) (ws : List (List Byte)) : List Byte :=
  let t := ws.headD []
  let u := if i % 8 = 0 then xorBytes (subBytes (t.drop 1 ++ t.take 1)) [BitVec.ofNat 8 (1 <<< (i / 8 - 1)), 0, 0, 0]
    else if i % 8 = 4 then subBytes t else t
  xorBytes (ws.getD 7 []) u

/-- n further words of the key schedule, from word i on. -/
def expandKey : Nat → Nat → List (List Byte) → List (List Byte)
  | 0, _, ws => ws
  | n + 1, i, ws => expandKey n (i + 1) (keyWord i ws :: ws)

/-- n pieces of k bytes each. -/
def chunksOf (k : Nat) : Nat → List Byte → List (List Byte)
  | 0, _ => []
  | n + 1, bs => bs.take k :: chunksOf k n (bs.drop k)

/-- The 15 round keys of a 256-bit key. -/
def roundKeys (key : List Byte) : List (List Byte) :=
  chunksOf 16 15 (expandKey 52 8 (chunksOf 4 8 key).reverse).reverse.flatten

/-- The rounds of the cipher after the first round key. -/
def encRounds : List (List Byte) → List Byte → List Byte
  | [], s => s
  | [k], s => xorBytes (shiftRows (subBytes s)) k
  | k :: ks, s => encRounds ks (xorBytes (mixColumn (shiftRows (subBytes s))) k)

/-- The rounds of the inverse cipher after the last round key, round keys in descending order. -/
def decRounds : List (List Byte) → List Byte → List Byte
  | [], s => s
  | [k], s => xorBytes (invSubBytes (invShiftRows s)) k
  | k :: ks, s => decRounds ks (mixColumn (unmixStep (xorBytes (invSubBytes (invShiftRows s)) k)))

/-- AES-256 on one block. -/
def aesEnc (key block : List Byte) : List Byte :=
  match roundKeys key with
  | k :: ks => encRounds ks (xorBytes block k)
  | [] => block

/-- The inverse of AES-256 on one block. -/
def aesDec (key block : List Byte) : List Byte :=
  match (roundKeys key).reverse with
  | k :: ks => decRounds ks (xorBytes block k)
  | [] => block

/-! ### AES-256-XTS (IEEE 1619) -/

/-- Multiplication by α in the field of 2^128 elements, low byte first. -/
def xtsNext (t : BitVec 128) : BitVec 128 := (t <<< 1) ^^^ (if t.msb then 0x87 else 0)

/-- n multiplications by α. -/
def xtsAt : Nat → BitVec 128 → BitVec 128
  | 0, t => t
  | n + 1, t => xtsAt n (xtsNext t)

/-- The 16 bytes of a number, low byte first. -/
def blockLe (t : BitVec 128) : List Byte := (List.range 16).map fun i => BitVec.ofNat 8 (t.toNat >>> (8 * i))

/-- The number of a block, low byte first. -/
def ofBlockLe (bs : List Byte) : BitVec 128 := BitVec.ofNat 128 (bs.foldr (fun b n => b.toNat + 256 * n) 0)

/-- The mask of block j of a data unit with a tweak: the key pair is data key, then tweak key. -/
def xtsMask (key : List Byte) (tweak : BitVec 128) (j : Nat) : List Byte :=
  blockLe (xtsAt j (ofBlockLe (aesEnc (key.drop 32) (blockLe tweak))))

/-- Block j of a data unit, encrypted. -/
def xtsEnc (key : List Byte) (tweak : BitVec 128) (j : Nat) (block : List Byte) : List Byte :=
  let m := xtsMask key tweak j
  xorBytes (aesEnc (key.take 32) (xorBytes block m)) m

/-- Block j of a data unit, decrypted. -/
def xtsDec (key : List Byte) (tweak : BitVec 128) (j : Nat) (block : List Byte) : List Byte :=
  let m := xtsMask key tweak j
  xorBytes (aesDec (key.take 32) (xorBytes block m)) m

/-! ### Key wrap (RFC 3394) -/

/-- The 8 bytes of a step number, high byte first. -/
def stepBytes (t : Nat) : List Byte := ((List.range 8).map fun i => BitVec.ofNat 8 (t >>> (8 * i))).reverse

/-- One pass of the wrap over the registers: t is the number of the next step. -/
def wrapPass (kek : List Byte) : List (List Byte) → Nat → List Byte → List Byte × List (List Byte)
  | [], _, a => (a, [])
  | r :: rs, t, a =>
    let b := aesEnc kek (a ++ r)
    let x := wrapPass kek rs (t + 1) (xorBytes (b.take 8) (stepBytes t))
    (x.1, b.drop 8 :: x.2)

/-- One pass of the unwrap over the registers in descending order: t is the number of the next step. -/
def unwrapPass (kek : List Byte) : List (List Byte) → Nat → List Byte → List Byte × List (List Byte)
  | [], _, a => (a, [])
  | r :: rs, t, a =>
    let b := aesDec kek (xorBytes a (stepBytes t) ++ r)
    let x := unwrapPass kek rs (t - 1) (b.take 8)
    (x.1, b.drop 8 :: x.2)

/-- n passes of the wrap; t is the number of the next step. -/
def wrapPasses (kek : List Byte) : Nat → Nat → List Byte × List (List Byte) → List Byte × List (List Byte)
  | 0, _, x => x
  | n + 1, t, x => wrapPasses kek n (t + x.2.length) (wrapPass kek x.2 t x.1)

/-- n passes of the unwrap. -/
def unwrapPasses (kek : List Byte) : Nat → Nat → List Byte × List (List Byte) → List Byte × List (List Byte)
  | 0, _, x => x
  | n + 1, t, x => unwrapPasses kek n (t - x.2.length) (unwrapPass kek x.2 t x.1)

/-- The initial value of RFC 3394. -/
def wrapIv : List Byte := List.replicate 8 0xA6

/-- Key data of n × 8 bytes, wrapped. -/
def keyWrap (kek key : List Byte) : List Byte :=
  let x := wrapPasses kek 6 1 (wrapIv, chunksOf 8 (key.length / 8) key)
  x.1 ++ x.2.flatten

/-- Wrapped key data, unwrapped; no answer where the integrity check fails. -/
def keyUnwrap (kek wrapped : List Byte) : Option (List Byte) :=
  let n := wrapped.length / 8 - 1
  let x := unwrapPasses kek 6 (6 * n) (wrapped.take 8, (chunksOf 8 n (wrapped.drop 8)).reverse)
  if x.1 = wrapIv then some x.2.reverse.flatten else none

/-! ### AES-CMAC (RFC 4493) -/

/-- Doubling of a subkey, high byte first. -/
def cmacDouble (b : List Byte) : List Byte :=
  (blockLe (xtsNext (ofBlockLe b.reverse))).reverse

/-- The chain over all blocks but the last, then the last block under its subkey. -/
def cmacChain (key : List Byte) (k1 k2 : List Byte) : Nat → List Byte → List Byte → List Byte
  | 0, x, _ => x
  | n + 1, x, m =>
    if 16 < m.length then cmacChain key k1 k2 n (aesEnc key (xorBytes x (m.take 16))) (m.drop 16)
    else if m.length = 16 then aesEnc key (xorBytes x (xorBytes m k1))
    else aesEnc key (xorBytes x (xorBytes (m ++ [0x80] ++ List.replicate (15 - m.length) 0) k2))

/-- AES-CMAC of a message under a 256-bit key. -/
def cmac (key m : List Byte) : List Byte :=
  let k1 := cmacDouble (aesEnc key (List.replicate 16 0))
  cmacChain key k1 (cmacDouble k1) (m.length / 16 + 1) (List.replicate 16 0) m

end Sys2Proof.Machine
end

