-- ==== Sys2Proof/Machine/Sparse.lean ====
section
/-! DEFINITION. The operations of a sparse table: read, write, erase, map. A table lists only the entries that differ
from its default, with keys strictly rising, so that equal tables are equal data. -/
namespace Sys2Proof.Machine
open Sys2Proof

/-- Read: the entry under the key, or the default. -/
def tget {α : Type} (d : α) : Sparse α → Nat → α
  | [], _ => d
  | (k, v) :: m, a => if k = a then v else tget d m a

/-- Take every entry under the key away. -/
def tdel {α : Type} (m : Sparse α) (a : Nat) : Sparse α := m.filter fun e => e.1 != a

/-- Put an entry at its place in the rising order. -/
def tins {α : Type} (a : Nat) (v : α) : Sparse α → Sparse α
  | [] => [(a, v)]
  | (k, w) :: m => if a < k then (a, v) :: (k, w) :: m else (k, w) :: tins a v m

/-- Write: the default value leaves no entry. -/
def tset {α : Type} [DecidableEq α] (d : α) (m : Sparse α) (a : Nat) (v : α) : Sparse α :=
  if v = d then tdel m a else tins a v (tdel m a)

/-- Change every listed entry; one that becomes the default leaves the list. -/
def tmap {α : Type} [DecidableEq α] (d : α) (f : Nat → α → α) : Sparse α → Sparse α
  | [] => []
  | (k, v) :: m => if f k v = d then tmap d f m else (k, f k v) :: tmap d f m

/-- The canonical form: keys strictly rising and no entry equal to the default. -/
def twf {α : Type} [DecidableEq α] (d : α) : Sparse α → Bool
  | [] => true
  | (k, v) :: m => decide (v ≠ d) && m.all (fun e => decide (k < e.1)) && twf d m

end Sys2Proof.Machine
end

