-- ==== Sys2Proof/Machine/State.lean ====
section
/-! DEFINITION. The state of the block, as plain data: every register, table, queue, buffer, counter, mode and wire
that the spec gives the VG6480, the magazine's records that outlive a power cycle, and the queue of waiting commands.
Each field's comment gives its width or range, the rule of spec/ that names it, and its reset value. "log n" names the
entry notes/assumptions/n.md for a value the spec does not give. -/
namespace Sys2Proof.Machine
open Sys2Proof

/-- Why the model stops with a fault. -/
inductive Fault where
  /-- Raised by a meaning whose command is not well formed (WellFormed.lean): an information field longer than 254 bytes, a
  report whose cause is not one of its unit's, a completed host read of another length than the one asked for. No outside
  party can present such a command, so nothing the hardware does is cut short. Safe. -/
  | illFormedCommand
  deriving DecidableEq, Repr

/-- Why the model gives a command no meaning. -/
inductive Refusal where
  /-- Raised by an arm of exec that has no meaning yet. Safe. -/
  | notModelled (mnemonic : String)
  deriving DecidableEq, Repr

/-- LINK status codes (R336). -/
inductive Status where
  | ok | werr | nopwr | badmsg | range | skipped
  deriving DecidableEq, Repr

/-- DEV_STATE.STATE (R358). -/
inductive DevState where
  | boot | recover | ready | degraded | readOnly | snuffed | halted | download
  deriving DecidableEq, Repr

/-- How far start-up has come (R473): the part of BOOT that runs now. -/
inductive BootPhase where
  | off | rails | plls | fill | hold | image | discovery | firmware | done
  deriving DecidableEq, Repr

/-- CYC_CTRL.LOCK_STATE (R42). -/
inductive LockState where
  | free | acquire | locked | coast
  deriving DecidableEq, Repr

/-- CYC_CTRL.TICK_SRC (R46). -/
inductive TickSrc where
  | internal | phaseTick | substitute
  deriving DecidableEq, Repr

/-- One window of the cycle plan (R51). -/
structure Window where
  /-- 26 bits; R51; reset 0 (R47) -/
  start : Nat
  /-- 1 to 67,108,863; R51; reset 1 (R47) -/
  len   : Nat
  /-- 0 to 15; R53; reset 0, NONE (R47) -/
  kind  : Nat
  deriving DecidableEq, Repr

/-- The Lamplighter (LAMP). -/
structure LampState where
  /-- CYC_SRC.MODE in force, 2 bits; R35; reset 1 (R47) -/
  mode        : BitVec 2
  /-- pending CYC_SRC.MODE; R36; reset none -/
  modeP       : Option (BitVec 2)
  /-- CYC_SRC.TICK_DIV in force, 16 bits; R36; reset 100 (R47) -/
  tickDiv     : Nat
  /-- pending TICK_DIV; R36; reset none -/
  tickDivP    : Option Nat
  /-- CYC_PERIOD.PERIOD in force, 26 bits; R41; reset 100,000 (R47) -/
  period      : Nat
  /-- pending PERIOD; R41; reset none -/
  periodP     : Option Nat
  /-- CYC_CTRL.JITTER_WIN in force, 16 bits; R40; reset 64 (R47) -/
  jitterWin   : Nat
  /-- pending JITTER_WIN; R40; reset none -/
  jitterWinP  : Option Nat
  /-- CYC_CTRL.MARK_TRIM in force, 6 bits; R68; reset 0 (R47) -/
  markTrim    : Nat
  /-- pending MARK_TRIM; R68; reset none -/
  markTrimP   : Option Nat
  /-- TAIL_GRACE.PERMIL in force, 10 bits; R62; reset 50 (R47) -/
  permil      : Nat
  /-- pending PERMIL; R62; reset none -/
  permilP     : Option Nat
  /-- CYC_CTRL.LOCK_STATE; R42; reset ACQUIRE (R47) -/
  lock        : LockState
  /-- CYC_CTRL.TICK_SRC; R46; reset 0 internal (R363) -/
  tickSrc     : TickSrc
  /-- CYC_CTRL.STRAYS, 6 bits, saturating; R363; reset 0 (R363) -/
  strays      : Nat
  /-- cycle number, 64 bits; R47; reset 0 (R47) -/
  cycle       : Nat
  /-- latched bits [63:32] of the cycle number for CYC_COUNT_HI; R48; reset none -/
  latchHi     : Option Word
  /-- staged CYC_COUNT_HI; R49; reset none -/
  stagedHi    : Option Word
  /-- pending cycle number; R49; reset none -/
  cycleP      : Option Nat
  /-- cycle number that recovery asks for at the next marker; R50; reset none -/
  cycleFloor  : Option Nat
  /-- opening position O of the cycle; R45; reset 0 (R47) -/
  openPos     : Nat
  /-- tick position of the cycle; R37; reset 0 (R47) -/
  tickPos     : Nat
  /-- counted intervals since ACQUIRE was entered, newest first, at most eight; R41; reset empty -/
  intervals   : List Nat
  /-- the marker that opened this cycle was real; R41; reset false -/
  openedReal  : Bool
  /-- an accepted PHASE_IN edge waits for its trim delay; R44; reset false -/
  edgeTaken   : Bool
  /-- synthesised-marker count, 0 to 7; R42; reset 0 (R47) -/
  synthCount  : Nat
  /-- edges, rising and falling, re-driven on PHASE_OUT since VAUX POR; R34; reset 0; the model's own count of the pin's edges (log 5) -/
  phaseOut    : Nat
  /-- duration of the last completed cycle, in 10 ns periods; R39, R210; reset none -/
  lastClocks  : Option Nat
  /-- ticks of the last completed cycle; R39, R122; reset 0 -/
  lastTicks   : Nat
  /-- a cycle has completed since ACQUIRE was entered or VAUX POR; R39; reset false -/
  cycleSince  : Bool
  /-- substitute tick interval as clock periods over ticks; R39; reset none -/
  subInterval : Option (Nat × Nat)
  /-- the plan in force: windows that are not (0, 1, NONE); R51; reset empty (R47) -/
  plan        : Sparse Window
  /-- the pending plan; R51; reset none -/
  planP       : Option (Sparse Window)
  /-- number of the window that is open; R57; reset none -/
  openWin     : Option Nat
  /-- an extended SEAL window: the cycle whose seal it serves and the markers seen since it opened; R58; reset none -/
  sealExt     : Option (Nat × Nat)
  /-- the CONTAIN reaction to SEAL_OVERRUN holds until this cycle's seal completes; R442; reset none -/
  containSeal : Option Nat
  /-- cycles that a synthesised marker opened and that are not yet sealed; R124; reset empty -/
  synthCycles : List Nat
  deriving DecidableEq, Repr

/-- ST_STATE.STATE (R72). -/
inductive SState where
  | free | open | draining | closed | faulted
  deriving DecidableEq, Repr

/-- One entry of the stream table (R71). -/
structure Stream where
  /-- ST_STATE.STATE; R72; reset 0 FREE (R354: rec., reads 0) -/
  st          : SState
  /-- REPLAY; R77; reset 0 -/
  replay      : Bool
  /-- DELETE_PEND; R81; reset 0 -/
  delPend     : Bool
  /-- ST_CLASS.CLASS, 3 bits; R95; reset 0 -/
  cls         : BitVec 3
  /-- ST_CLASS.MIRROR_EN; R95; reset 0 -/
  mirrorEn    : Bool
  /-- ST_QUOTA.LIMIT, 24 bits, 4 KiB units; R96; reset 0 -/
  quota       : Nat
  /-- pending LIMIT; R367; reset none -/
  quotaP      : Option Nat
  /-- ST_ACCEPT, 64 bits; R88; reset 0 -/
  accept      : Nat
  /-- ST_DURABLE, 64 bits; R88; reset 0 -/
  durable     : Nat
  /-- ST_TRIM, 64 bits; R90; reset 0 -/
  trim        : Nat
  /-- intake frontier F, 64 bits; R76; reset 0 -/
  front       : Nat
  /-- open cycle; R59; reset 0 -/
  openCycle   : Nat
  /-- stream epoch, 52 bits; R74; reset 0 -/
  epoch       : Nat
  /-- the entry's epoch is to be rebuilt before OPEN; R80; reset false -/
  epochLost   : Bool
  /-- ST_FAULT, 9 bits; R366; reset 0 -/
  fault       : BitVec 9
  /-- running CRC-32C register of the piece at the frontier; R71, R98; reset 0xFFFF_FFFF (R98's initial value) -/
  crc         : Word
  /-- first offset of the piece at the frontier; R97; reset 0 -/
  pieceStart  : Nat
  /-- plaintext of the partial 16-byte block at the frontier; R71; reset empty -/
  partialBlk  : List Byte
  /-- bytes credited to each cycle not yet sealed; R59, R66; reset empty -/
  credited    : Sparse Nat
  /-- close frontiers of the cycles closed and not yet sealed; R125; reset empty -/
  closes      : Sparse Nat
  /-- cycles for which the stream was force-closed late; R63; reset empty -/
  late        : List Nat
  /-- bytes credited to the last closed cycle; R210; reset 0 -/
  lastBytes   : Nat
  /-- cycles not yet sealed for which OVER_QUOTA attention was raised; R96; reset empty -/
  quotaSaid   : List Nat
  /-- cycles not yet sealed for which STREAM_POISON attention was raised; R296; reset empty -/
  poisonSaid  : List Nat
  /-- the cycle in which DELETE was applied; R81; reset none -/
  delCycle    : Option Nat
  /-- what changed in each cycle not yet sealed: 256 + the flag bits of cask byte 3; R124; reset empty -/
  changed     : Sparse Nat
  /-- mirror sequence, 32 bits; R92; reset 0 -/
  mirrorSeq   : Word
  /-- a mirror event waits to be written; R93; reset false -/
  mirrorDue   : Bool
  /-- it became FAULTED: it has no open cycle and counts as having closed every cycle, until RESUME; R65; reset false -/
  closedAll   : Bool
  /-- a RESUME waits until ST_ACCEPT equals the intake frontier; R81; reset false -/
  resumeDue   : Bool
  /-- ST_TRIM as the last cask recorded it; R90; reset 0 -/
  trimSealed  : Nat
  deriving DecidableEq, Repr

/-- The default entry: a FREE stream with every field 0. -/
def Stream.none : Stream :=
  { st := .free, replay := false, delPend := false, cls := 0, mirrorEn := false, quota := 0, quotaP := Option.none,
    accept := 0, durable := 0, trim := 0, front := 0, openCycle := 0, epoch := 0, epochLost := false, fault := 0,
    crc := 0xFFFFFFFF, pieceStart := 0, partialBlk := [], credited := [], closes := [], late := [], lastBytes := 0,
    quotaSaid := [], poisonSaid := [], delCycle := Option.none, changed := [], mirrorSeq := 0, mirrorDue := false,
    closedAll := false, resumeDue := false, trimSealed := 0 }

/-- A flash location (R206): lead band, width, SLC mode, codeword offset. -/
structure Loc where
  band  : Nat
  width : Nat
  slc   : Bool
  q     : Nat
  deriving DecidableEq, Repr

/-- A piece (R97), or a random-region unit (one chunk with one piece), held in the Tun, on flash or both. The bytes stand
as plaintext beside the key generation under which the part keeps them (log 8). -/
structure Piece where
  /-- the random-region unit, or none for a stream piece; R97 -/
  unit    : Option Nat
  /-- stream index, 10 bits; R97 -/
  stream  : Nat
  /-- stream epoch; R100 -/
  epoch   : Nat
  /-- first byte offset in the stream; R97 -/
  off     : Nat
  /-- the bytes; R97 -/
  data    : List Byte
  /-- CRC-32C of the bytes, as in the trailer; R98, R99 -/
  crc     : Word
  /-- the cycle it is credited to; R99 -/
  cycle   : Nat
  /-- generation of the key it is encrypted under; R101 -/
  keyGen  : Nat
  /-- goes to staging whatever its class's mode, or by its class's mode once that is taken; R210, R211 -/
  staged  : Bool
  /-- the piece is complete and the mode of its class at that time stands in `staged`; R210 -/
  fixed   : Bool
  /-- where it is placed on flash; R206 -/
  loc     : Option Loc
  /-- the program that holds it has completed; R18 stage 7 -/
  done    : Bool
  /-- its run is in a committed journal tail; R123 -/
  noted   : Bool
  /-- the Tun still holds it; R85 -/
  inTun   : Bool
  /-- where its spill copy lies in staging, while the Tun retains it for a native unit; R214 -/
  spill   : Option Loc
  /-- the program of the spill copy has completed; R214 -/
  spillOk : Bool
  /-- entry sequence of a random-region write; R219 -/
  seq     : Nat
  /-- where its source copy still lies, from the commit of a move to the seal of it; R140, R231 -/
  src     : Option Loc
  deriving DecidableEq, Repr

/-- INTAKE: the stream table, credits, the energy gate and write-through. -/
structure IntakeState where
  /-- the 1,024 entries of the stream table; R71; reset every entry FREE, 0 -/
  streams     : Sparse Stream
  /-- posted data credits granted and not consumed, 16 bytes each; R85; reset 0 -/
  credits     : Nat
  /-- posted header credits granted and not consumed; R86; reset 0 -/
  hdrCredits  : Nat
  /-- the initial advertisement was admitted at this training; R87; reset false -/
  advertised  : Bool
  /-- bytes reserved for random-region writes and not yet taken; R85; reset 0 -/
  reserved    : Nat
  /-- writes taken that TUN has not acknowledged: stream, start and end, oldest first; R78; reset empty -/
  unacked     : List (Nat × Nat × Nat)
  /-- high-word latch of ST_ACCEPT; R89; reset none -/
  latchAccept : Option Word
  /-- high-word latch of ST_DURABLE; R89; reset none -/
  latchDurable : Option Word
  /-- high-word latch of ST_TRIM; R89; reset none -/
  latchTrim   : Option Word
  /-- staged ST_TRIM_HI; R90; reset none -/
  trimHi      : Option Word
  /-- passes still owed by the dry run after a failure, 0 to 3; R111; reset 0 -/
  dryOwed     : Nat
  /-- passes still owed by the gauge after a failure, 0 to 3; R111; reset 0 -/
  gaugeOwed   : Nat
  /-- no dry run has passed since power-up of the main domain; R108; reset true (R287: set from power-up) -/
  dryFirst    : Bool
  /-- no measurement has passed since power-up of the main domain; R108; reset true (R287) -/
  gaugeFirst  : Bool
  /-- the reported capacitance lies below 687.5 µF; R108; reset false -/
  wtCap       : Bool
  /-- R107 holds; reset false -/
  wtEnergy    : Bool
  /-- the present write-through was entered under the power-up cause alone; R108; reset false -/
  wtPowerUp   : Bool
  /-- write-through flushes started and not yet noted: the frontiers each covers, oldest first; R109; reset empty -/
  flushes     : List (Sparse Nat)
  /-- frontiers that a final flush still owes after write-through ended; R109; reset empty -/
  wtTail      : Sparse Nat
  /-- SPACE_LOW holds; R201; reset false -/
  spaceLow    : Bool
  /-- SPACE_FULL holds; R201; reset false -/
  spaceFull   : Bool
  /-- entry sequence of the last random-region write, 64 bits; R219; reset 0 -/
  entrySeq    : Nat
  /-- key generation in use; R101; reset 0, no key -/
  keyGen      : Nat
  /-- the magazine key is unwrapped; R473; reset false -/
  keyReady    : Bool
  /-- the magazine key, unwrapped: the 64 bytes of the XTS key pair; R101; reset empty, no key -/
  key         : List Byte
  /-- DIRECT classes of this cycle, one bit each; R210; reset 0, every class STAGED -/
  direct      : BitVec 8
  deriving DecidableEq, Repr

/-- The record of the last message executed (R341). -/
structure LinkLast where
  /-- 1 native, 2 Novven; R342 -/
  proto    : Nat
  /-- N(S) of the final frame, 0xFF for Novven; R342 -/
  ns       : Byte
  /-- message length in bytes; R341 -/
  len      : Nat
  /-- CRC-32C over the message; R341 -/
  crc      : Word
  /-- the full response; R341 -/
  response : List Byte
  /-- restored by recovery; R342 -/
  restored : Bool
  deriving DecidableEq, Repr

/-- What a message leaves to be done after its response (R333, R338 to R340, R359). -/
inductive LinkAct where
  | none | resetLink | resetWarm | resetCold | softReset | switch (width rate : Nat) | sleep | wake
  deriving DecidableEq, Repr

/-- The areas of the indirect space that are read through a snapshot (R240, R342, R393). -/
inductive SnapArea where
  | health | linkLast | ecc
  deriving DecidableEq, Repr

/-- The frame the VG6480 sent last (R324, R325): type and kind bits, N(S), N(R) and the information field. -/
structure Frame where
  /-- control byte; R325 -/
  control : Byte
  /-- information field; R324 -/
  info    : List Byte
  /-- width of the mode it is sent in: 0 1-bit, 1 4-bit; R319, R339 -/
  width   : Nat
  deriving DecidableEq, Repr

/-- A Novven command whose header was accepted (R346). -/
structure NovvenCmd where
  op    : Byte
  addr  : Byte
  count : Byte
  /-- parity errors of the characters that answer it; R348 -/
  fails : CharFails
  deriving DecidableEq, Repr

/-- One operation of a message (R333). -/
inductive LOp where
  | readReg (a : Byte) (n : Nat)
  | writeReg (a : Byte) (ws : List Word)
  | writeMasked (a : Byte) (mask v : Word)
  | indRead (a : Word) (n : Nat)
  | indWrite (a : Word) (ws : List Word)
  | reset (kind : Byte)
  | switch (width rate : Byte)
  | sleep
  | wake
  | echo (data : List Byte)
  deriving DecidableEq, Repr

/-- What an execution in LINK waits for (R81): the stream whose RESUME was accepted in write-through, and what is left of the operation that
asked for it: words to write, from an address on with a step. -/
structure LinkWait where
  stream : Nat
  addr   : Nat
  step   : Nat
  words  : List Word
  deriving DecidableEq, Repr

/-- What is in execution in LINK: a native message, a Novven command with the bytes of its message, or one access by itself. -/
inductive RunKind where
  | native (ns : BitVec 3) (msg : List Byte)
  | novven (c : NovvenCmd) (msg : List Byte)
  | single
  deriving DecidableEq, Repr

/-- An execution in LINK that waits (R81, R337). -/
structure LinkRun where
  kind   : RunKind
  /-- results of the whole message; R335 -/
  count  : Nat
  /-- results so far; R335 -/
  out    : List Byte
  /-- opcode of the operation that waits; R333 -/
  code   : Byte
  /-- operations after it; R333 -/
  rest   : List LOp
  /-- a link reset or a deselection came meanwhile: the response is not sent; R337 -/
  silent : Bool
  deriving DecidableEq, Repr

/-- LINK: the link protocol, and the registers LINK holds in the VAUX domain (R356, R357). -/
structure LinkState where
  /-- WSEL# is low; R320; reset false -/
  selected   : Bool
  /-- the selection character is awaited; R323; reset false -/
  awaiting   : Bool
  /-- the selection failed four times; R323; reset false -/
  dead       : Bool
  /-- LINK_MODE.PROTO: Novven; R351; reset 0 (R351) -/
  novven     : Bool
  /-- LINK_MODE.WIDTH; R351; reset 0 (R351) -/
  width      : Nat
  /-- LINK_MODE.RATE; R351; reset 0 (R351) -/
  rate       : Nat
  /-- LINK_MODE.ASLEEP; R351; reset 0 (R351) -/
  asleep     : Bool
  /-- LINK_MODE.MATCH_OPEN; R351; reset 1 (R351) -/
  matchOpen  : Bool
  /-- V(R), 3 bits; R328; reset 0 (R328) -/
  vr         : BitVec 3
  /-- V(S), 3 bits; R328; reset 0 (R328) -/
  vs         : BitVec 3
  /-- LINK_MODE as it stood when the message in execution began; R351; reset none -/
  modeSeen   : Option Word
  /-- information fields of the host's chain so far; R331; reset empty -/
  chain      : List Byte
  /-- frames of the host's chain so far; R331; reset 0 -/
  chainN     : Nat
  /-- frames of the response not yet sent; R331; reset empty -/
  toSend     : List (List Byte)
  /-- the last frame sent, for a resend; R329; reset none -/
  sent       : Option Frame
  /-- the last I-frame sent, for the resend of the frame numbered N(R); R329; reset none -/
  lastI      : Option Frame
  /-- what the execution in progress waits for; R81; reset none -/
  paused     : Option LinkWait
  /-- an execution that waits; R81, R337; reset none -/
  run        : Option LinkRun
  /-- LINK_LAST; R341; reset none (R351: LAST_VALID 0) -/
  last       : Option LinkLast
  /-- LINK_LAST waits to be restored by recovery; R343; reset true (after VAUX POR) -/
  restoring  : Bool
  /-- the last Lantern string; R322; reset empty: none sent -/
  lantern    : List Byte
  /-- raw capacity code from the most recent discovery since VAUX POR; R322; reset 0 (R322) -/
  rawCode    : BitVec 16
  /-- firmware version of the running image; R322; reset 0 (R322) -/
  fwVersion  : Word
  /-- act that follows the response; R333; reset none -/
  act        : LinkAct
  /-- SWITCH in progress: old width, old rate, CHECK_RSP sent; R339; reset none -/
  switching  : Option (Nat × Nat × Bool)
  /-- accepted Novven header; R346; reset none -/
  command    : Option NovvenCmd
  /-- Novven answer characters of the last step, or the bytes of the last ECHO; R333, R346; reset empty -/
  answer     : List Byte
  /-- the OP byte that the selection character gave; R323; reset none -/
  opSeen     : Option Byte
  /-- status of the last register or indirect access; R336; reset OK; the model's own field for a bus access's outcome -/
  status     : Status
  /-- words of the last register or indirect read; R333; reset empty; the model's own field for a bus access's data -/
  rdata      : List Word
  /-- the snapshot held: area and words; R240; reset none -/
  snap       : Option (SnapArea × List Word)
  /-- STREAM_SEL, 10 bits; R366; reset 0 -/
  streamSel  : BitVec 10
  /-- CHAN_SEL, 5 bits; R368; reset 0 -/
  chanSel    : BitVec 5
  /-- MEM_SEL, 3 bits; R372; reset 0 -/
  memSel     : BitVec 3
  /-- PLAN_SEL.WINDOW, 4 bits; R363; reset 0 -/
  planWin    : BitVec 4
  /-- PLAN_SEL.FIELD, 2 bits; R363; reset 0 -/
  planField  : BitVec 2
  /-- PLAN_SEL.VIEW; R363; reset 0 -/
  planView   : Bool
  /-- FAULT_POLICY_SEL, 4 bits; R369; reset 0 -/
  policySel  : BitVec 4
  /-- FAULT_SYND_SEL, 4 bits; R369; reset 0 -/
  syndSel    : BitVec 4
  /-- SET_PEER_SEL, 3 bits; R370; reset 0 -/
  peerSel    : BitVec 3
  /-- RAIL_SEL, 3 bits; R288; reset 0 -/
  railSel    : BitVec 3
  /-- IND_ADDR, 32 bits; R375; reset 0 -/
  indAddr    : Word
  /-- IRQ_STATUS, 20 bits; R361; reset 0 -/
  irqStatus  : BitVec 20
  /-- IRQ_ENABLE, 20 bits; R361; reset 0x0_0001 -/
  irqEnable  : BitVec 20
  /-- SET_CTRL.SET_ID, 16 bits; R370; reset 0 -/
  setId      : BitVec 16
  /-- SET_CTRL.MEMBER, 0 to 5; R370; reset 0 -/
  member     : Nat
  /-- SET_CTRL.COUNT, 1 to 6; R370; reset 1 -/
  count      : Nat
  /-- SET_CTRL.WAIT, 1 to 255; R370; reset 8 -/
  wait       : Nat
  /-- SET_CTRL was written since VAUX POR; R322; reset false -/
  setWritten : Bool
  /-- LINK_ECHO, 32 bits; R352; reset 0 -/
  echoReg    : Word
  deriving DecidableEq, Repr

/-- A report that a unit holds (R436). -/
structure Report where
  /-- cause; R436; the reset state holds no report -/
  cause    : Cause
  /-- 56 bits of detail; R436; none at reset -/
  detail   : BitVec 56
  /-- units in whose open shadow the report arrived; R446; none at reset -/
  inShadow : List UnitId
  deriving DecidableEq, Repr

/-- The collector's record of one unit (R369, R438, R443). -/
structure UnitFault where
  /-- FAULT_STATUS bit; R437; reset 0 -/
  latched   : Bool
  /-- FAULT_LEVEL field, 0 to 3; R437; reset 0 -/
  level     : Nat
  /-- cause code of the first report, 8 bits; R438; reset 0 -/
  cause     : Byte
  /-- detail of the first report, 56 bits; R438; reset 0 -/
  detail    : BitVec 56
  /-- level acted on for the latest report; R438, R443; reset 0 -/
  lastLevel : Nat
  /-- ESCALATED; R438; reset 0 -/
  escalated : Bool
  /-- SHADOWED; R438; reset 0 -/
  shadowed  : Bool
  /-- reports taken, saturating at 255; R438; reset 0 -/
  count     : Nat
  /-- bits [31:0] of the cycle number at the first report; R438; reset 0 -/
  cycle     : Word
  /-- FAULT_CONSEQ bit; R446; reset 0 -/
  conseq    : Bool
  /-- FAULT_POLICY.BASE, 0 to 3; R440; reset 0 -/
  base      : Nat
  /-- FAULT_POLICY.SNUFF_END; R442; reset per unit (R442's default column) -/
  snuffEnd  : Bool
  /-- the unit is in a RESTART reset; R442; reset false -/
  restart   : Bool
  /-- the unit's shadow is open; R446; reset false -/
  shadow    : Bool
  /-- it opened, or was open, together with that of a unit that covers this one and is covered by it; R457; reset false -/
  paired    : Bool
  /-- held causes whose condition holds, with their detail; R448; reset empty -/
  held      : List (Cause × BitVec 56)
  /-- held causes taken as consequential in the open shadow of a unit; R448; reset empty -/
  heldShad  : List (UnitId × Cause)
  /-- the report the unit holds until the collector takes it; R436; reset none -/
  waiting   : Option Report
  /-- further reports merged into the waiting one, oldest first; R436, R443; reset empty -/
  merged    : List Report
  deriving DecidableEq, Repr

/-- A unit with nothing latched and SNUFF_END 0. -/
def UnitFault.none : UnitFault :=
  { latched := false, level := 0, cause := 0, detail := 0, lastLevel := 0, escalated := false, shadowed := false,
    count := 0, cycle := 0, conseq := false, base := 0, snuffEnd := false, restart := false, shadow := false, paired := false,
    held := [], heldShad := [], waiting := Option.none, merged := [] }

/-- The fault collector. -/
structure FaultState where
  /-- the records of the thirteen units, by unit index; R369; reset nothing latched, BASE 0, SNUFF_END per R442 -/
  units    : Sparse UnitFault
  /-- FAULT_STATUS[31]; R449; reset 0 -/
  self     : Bool
  /-- register address in the collector's own syndrome, 8 bits; R449; reset 0 -/
  selfAddr : Byte
  /-- cycle number bits [31:0] in the collector's own syndrome; R438; reset 0 -/
  selfCyc  : Word
  /-- the collector's own reports since the last acknowledgement, saturating at 255; R438; reset 0 -/
  selfCnt  : Nat
  /-- the two copies still differ: the last mismatch persists; R449; reset false -/
  differs  : Bool
  /-- PLL named by CLOCK's RESTART, whose consumers its shadow covers; R447; reset none -/
  pllShad  : Option Pll
  deriving DecidableEq, Repr

/-- One PLL (R470). -/
structure PllState where
  /-- locked, or on its fallback with consumers released; R470; reset false -/
  up       : Bool
  /-- on its fallback source; R471; reset false -/
  fallback : Bool
  deriving DecidableEq, Repr

/-- CLOCK: resets, clocks, straps and the start-up registers. -/
structure ClockState where
  /-- DEV_STATE.STATE; R358; reset 0 BOOT -/
  dev        : DevState
  /-- DEV_STATE.MAIN_ON: the main domain is powered and out of reset; R358; reset 0 -/
  mainOn     : Bool
  /-- the rails of the main domain are up or coming up; R252, R460; reset false -/
  mainPwr    : Bool
  /-- part of start-up that runs; R473; reset off -/
  phase      : BootPhase
  /-- RESET_CAUSE.SOURCES, 14 bits; R376; reset 0x0001 (R375) -/
  cause      : BitVec 14
  /-- RESET_CAUSE.FLUSH_BY, 3 bits; R375; reset 0 -/
  flushBy    : BitVec 3
  /-- STRAP_SAMPLE.BOOT_SRC, 2 bits; R464; reset pins: 0b00, the pull-downs (log 4) -/
  bootSrc    : BitVec 2
  /-- STRAP_SAMPLE.CLK_MODE, 2 bits; R464; reset pins: 0b00, the pull-downs (log 4) -/
  clkMode    : BitVec 2
  /-- STRAP_SAMPLE.CLK_FALLBACK; R470; reset 0 (R375) -/
  fallback   : Bool
  /-- STRAP_SAMPLE.PINMAP_CONFLICT; R468; reset 0 (R375) -/
  pinConf    : Bool
  /-- the fuse map in force, its bytes; R468; reset none -/
  fuseMap    : Option (List Byte)
  /-- the fuse map has been read since VAUX POR; R466; reset false -/
  fuseRead   : Bool
  /-- serial hash copied at the fuse-map read, 64 bits; R322, R433; reset 0 -/
  serialHash : BitVec 64
  /-- BOOT_STATUS.RECOVERY, 3 bits; R142; reset 0 (R375) -/
  recCode    : BitVec 3
  /-- BOOT_STATUS.IMAGE, 2 bits; R375; reset 0 -/
  image      : BitVec 2
  /-- BOOT_STATUS.STEP, 8 bits; R375; reset 0 -/
  step       : Byte
  /-- BOOT_STATUS.RECOVER_MS, 16 bits, saturating; R375; reset 0 -/
  recMs      : BitVec 16
  /-- DEV_CTRL.BOOT_HOLD; R358; reset 0 -/
  bootHold   : Bool
  /-- DEV_CTRL.REFRESH_PCT in force, 50 to 95; R184; reset 75 (R358) -/
  refreshPct : Nat
  /-- pending REFRESH_PCT; R184; reset none -/
  refreshP   : Option Nat
  /-- VAUX POR is asserted; R458; reset false: the state after its release -/
  vauxPor    : Bool
  /-- VAUX at the pin is above its threshold; R459; reset true -/
  vauxPin    : Bool
  /-- the VAUX domain runs from the power die's path; R24, R459; reset false -/
  vauxAlt    : Bool
  /-- VIN POR is armed; R460; reset true (armed at the release of VAUX POR) -/
  vinArmed   : Bool
  /-- tick PLL; R470; reset not locked -/
  pllTick    : PllState
  /-- fabric PLL; R470; reset not locked -/
  pllFabric  : PllState
  /-- NAND PLL; R470; reset not locked -/
  pllNand    : PllState
  /-- PCIe PHY PLL; R470; reset not locked -/
  pllPcie    : PllState
  /-- the memory fill has ended since the last power-up or clearing reset; R388; reset false -/
  filled     : Bool
  /-- the next boot takes BOOT_SRC as 0b00; R478; reset false -/
  bootAs00   : Bool
  /-- recovery alone follows: the return of R450 mounts READ_ONLY; R450; reset false -/
  snuffMount : Bool
  /-- seconds the magazine has recovered: firmware started; R473; reset false -/
  fwUp       : Bool
  deriving DecidableEq, Repr

/-- Die codes of CH_DIES (R158). -/
inductive DieCode where
  | absent | active | retired | unsupported
  deriving DecidableEq, Repr

/-- CH_STATE.STATE (R161). -/
inductive ChanState where
  | off | discover | train | active | quiesced | failed | absent
  deriving DecidableEq, Repr

/-- Where a queue entry stands (R164, R167). -/
inductive EntryPhase where
  | queued | started | ended
  deriving DecidableEq, Repr

/-- A completion entry as it stands for its submitter (R168). -/
structure Completion where
  tag     : Word
  status  : Byte
  rung    : Byte
  corr    : BitVec 16
  elapsed : Word
  last    : Byte
  deriving DecidableEq, Repr

/-- One entry of a channel's descriptor queue (R164). -/
structure QEntry where
  /-- entry index in the queue, 0 to 255; R164 -/
  slot    : Nat
  /-- the descriptor; R165 -/
  d       : MDesc
  /-- order of submission; R167 -/
  order   : Nat
  /-- where it stands; R167 -/
  phase   : EntryPhase
  /-- it has waited 10 ms for tokens; R188 -/
  aged    : Bool
  /-- status of the action once it ran, 8 bits; R169 -/
  status  : Option Byte
  /-- highest rung used; R168 -/
  rung    : Nat
  /-- highest corrected count; R168 -/
  corr    : Nat
  /-- an ERASE suspended for a read; R167 -/
  held    : Bool
  /-- the READ has reached rung 18: it reads the other units of its row; R182 -/
  climbed : Bool
  /-- the other dies, as (channel, die), that it then reads; R182 -/
  fan     : List (Nat × Nat)
  /-- s*, the step of its soft reads, once it has reached rung 17; R182 -/
  soft    : Nat
  /-- its completion entry, until the submitter takes it; R164 -/
  comp    : Option Completion
  deriving DecidableEq, Repr

/-- One flash channel (R161, R368). -/
structure Channel where
  /-- CH_STATE.STATE; R161; reset 0 OFF (R368) -/
  st        : ChanState
  /-- the channel state lets MEDIA drive WP# high; R155; reset low (R155: the channel is OFF) -/
  wp        : Bool
  /-- CH_STATE.RATE, 0 to 4; R161; reset 0 (R368) -/
  rate      : Nat
  /-- the data interface: NV-LPDDR4, or SDR timing mode 0; R152; reset SDR (R157 step 1) -/
  lpddr4    : Bool
  /-- LUNs found on each target, by CE#; R152, R157 step 5; reset none -/
  luns      : Sparse Nat
  /-- the features set in each die, by die index: what value they have is free; R152, R157 step 6 (log 143); reset none -/
  feats     : Sparse Byte
  /-- second of powered time of the last ZQ CALIBRATION, LONG or SHORT; R152, R162; reset 0 -/
  zqAt      : Nat
  /-- die codes by die index; R158; reset ABSENT (R368: 0) -/
  dies      : Sparse DieCode
  /-- CH_ERRS.RETRY, 8 bits, saturating; R368; reset 0 -/
  eRetry    : Nat
  /-- CH_ERRS.SOFT, 6 bits; R368; reset 0 -/
  eSoft     : Nat
  /-- CH_ERRS.REBUILT, 6 bits; R368; reset 0 -/
  eRebuilt  : Nat
  /-- CH_ERRS.UNCORR, 4 bits; R368; reset 0 -/
  eUncorr   : Nat
  /-- CH_ERRS.PROG_FAIL, 4 bits; R368; reset 0 -/
  eProg     : Nat
  /-- CH_ERRS.ERASE_FAIL, 4 bits; R368; reset 0 -/
  eErase    : Nat
  /-- CH_RETIRED.BLOCKS: retired blocks as (die, block), factory marks included; R190, R368; reset rec., empty -/
  blocks    : List (Nat × Nat)
  /-- CH_RETIRED.DIES, 16 bits; R368; reset rec., 0 -/
  retDies   : BitVec 16
  /-- the channel is in the grown-defect list; R161; reset false -/
  retired   : Bool
  /-- the descriptor queue, in queue order; R164; reset empty -/
  queue     : List QEntry
  /-- descriptors whose submitter waits for a free entry, oldest first; R164; reset empty -/
  waits     : List MDesc
  /-- failed retrainings since it was QUIESCED; R161; reset 0 -/
  trainFails : Nat
  /-- TEMP_NOW at the last training, °C; R162; reset 0 (log 4) -/
  trainTemp : Int
  /-- timeouts as (die, second of powered time); R191; reset empty -/
  timeouts  : List (Nat × Nat)
  /-- blocks whose reads reached rung 18, as (die, block, second of powered time); R191; reset empty -/
  rung18    : List (Nat × Nat × Nat)
  /-- wordlines at which reads reached rung 17 in this scrub lap, as (die, block, wordline); R190; reset empty -/
  rung17    : List (Nat × Nat × Nat)
  deriving DecidableEq, Repr

/-- An OFF channel with no die. -/
def Channel.none : Channel :=
  { st := .off, wp := false, rate := 0, dies := [], eRetry := 0, eSoft := 0, eRebuilt := 0, eUncorr := 0, eProg := 0, eErase := 0,
    lpddr4 := false, luns := [], feats := [], zqAt := 0
    blocks := [], retDies := 0, retired := false, queue := [], waits := [], trainFails := 0, trainTemp := 0, timeouts := [],
    rung18 := [], rung17 := [] }

/-- A block on the refresh list (R184, R230): the member block of a band on a channel; or what a failed block or row holds and is to be
relocated by a move (R178, R236). -/
structure Refresh where
  band   : Nat
  chan   : Nat
  /-- the one row that is relocated after its PARITY failed; R178 -/
  row    : Option Nat
  /-- the kind of its moves: 3 a refresh, 1 or 2 a relocation after a failed move of the Kiln or the Sparge; R230, R236 -/
  kind   : Nat
  /-- the rung reached by the read that listed it; R184 -/
  rung   : Nat
  /-- R230; rung 17 or higher, or 24 hours on the list -/
  urgent : Bool
  deriving DecidableEq, Repr

/-- MEDIA: channels, queues, tokens and the read ladder's records. -/
structure MediaState where
  /-- the 32 channels; R161; reset every channel OFF -/
  chans     : Sparse Channel
  /-- the magazine profile; R158; reset none -/
  profile   : Option Profile
  /-- queue order of the next descriptor; R167; reset 1; the model's own counter: 0 goes before all (R174) -/
  orderNext : Nat
  /-- completions that their submitters have taken, newest first; R164, R168; reset empty; the model's own record -/
  done      : List Completion
  /-- the refresh list; R184, R230; reset empty -/
  refresh   : List Refresh
  /-- rows reported STRIPE_LOST; R183; reset 0 -/
  stripes   : List (Nat × Nat)
  /-- channels with rebuild work pending, and dies as (channel, die); R193; reset empty -/
  rebuilds  : List (Nat × Option Nat)
  /-- erase count of each block, by (channel × 16 + die) × 65,536 + block; R242; reset 0; flash keeps it -/
  wear      : Sparse Nat
  /-- last scrub lap in hours; R185; reset 0 -/
  scrubLap  : Nat
  /-- blocks visited in this scrub lap, as (band, channel); R185; reset empty -/
  visited   : List (Nat × Nat)
  /-- second of powered time at which this scrub lap began; R185; reset 0 -/
  lapStart  : Nat
  /-- the rotating wordline of the next visit, by (channel × 16 + die) × 65,536 + block; R185; reset 0 (log 102) -/
  rotate    : Sparse Nat
  /-- tag of the next descriptor the cores submit; R165; reset 0; the model's own counter -/
  tagNext   : Word
  deriving DecidableEq, Repr

/-- The pools of R198. -/
inductive Pool where
  | journal | snuff | staging | random | stream
  deriving DecidableEq, Repr

/-- Where a band stands (R204, R227, R232). -/
inductive BandPhase where
  | open | closed | released | erasable
  deriving DecidableEq, Repr

/-- One band of the band table (R171, R198). -/
structure Band where
  /-- its pool; R198 -/
  pool     : Pool
  /-- SLC mode; R198 -/
  slc      : Bool
  /-- member channels in ascending order with their block numbers; R171 -/
  members  : List (Nat × Nat)
  /-- the bands of the group it leads, in ascending die index; R203 -/
  group    : List Nat
  /-- where it stands; R232 -/
  phase    : BandPhase
  /-- channels dropped after a failure, each with the first row in which it takes no data slot: rows in which codewords have been placed keep
  the numbering that they were placed by; R178, R205 -/
  drops    : List (Nat × Nat)
  /-- channels dropped after a failure, each with the first row in which it has no programmed unit; R178 -/
  fails    : List (Nat × Nat)
  /-- first wordlines read ERASED or erased again since it was formed; R174 -/
  checked  : Bool
  /-- channels of a new journal band whose first wordline has read ERASED; R174 -/
  firstOk  : List Nat
  /-- units programmed, as (row, channel); R173 -/
  units    : List (Nat × Nat)
  /-- what the headers of a programmed unit give, as (row, channel, journal sequence, kind of each codeword); R180 -/
  heads    : List (Nat × Nat × Nat × List Nat)
  /-- the band is left: its open rows are closed early and it takes no further row; R176, R178, R212 -/
  left     : Bool
  /-- rows whose parity is programmed; R175 -/
  parity   : List Nat
  /-- rows with units XORed into an accumulator and no parity yet; R173 -/
  accs     : List Nat
  /-- what the accumulators of those rows hold: the XOR of the units transferred, header, data area and trailer area of each codeword;
  R173, R179 -/
  accBuf   : List (Nat × List Byte)
  /-- sequence of the cask that lists it released; R232 -/
  relSeq   : Nat
  /-- locations of its codewords that a move found UNCORRECTABLE: no victim of the Sparge while one is mapped; R237 -/
  stuck    : List Loc
  deriving DecidableEq, Repr

/-- The groups kept open (R212). -/
inductive GroupRole where
  | lane (stream : Nat) | pack (cls : Nat) | staging | random | fold | sparge | spargeRandom
  deriving DecidableEq, Repr

/-- One open group (R203, R205, R212). -/
structure Group where
  /-- whom it serves; R212 -/
  role  : GroupRole
  /-- member bands in ascending die index, the lead band first; R203 -/
  bands : List Nat
  /-- SLC mode; R212 -/
  slc   : Bool
  /-- next free codeword of its data space; R205 -/
  next  : Nat
  deriving DecidableEq, Repr

/-- One entry of the run table (R208): a run, or a leaf for a run page. -/
structure Run where
  stream : Nat
  off    : Nat
  len    : Nat
  /-- 0 intake, 1 Kiln, 2 Sparge, 3 refresh; R124 -/
  kind   : Nat
  loc    : Loc
  /-- entries in the run page; 0 for a run entry; R208 -/
  leaf   : Nat
  deriving DecidableEq, Repr

/-- A frame of the Grist (R221). -/
inductive FrameState where
  | clean | unflushed | dirty | fetching
  deriving DecidableEq, Repr

/-- One Grist frame's record (R221). -/
structure GFrame where
  /-- state; R221 -/
  st    : FrameState
  /-- last use, a count; R222 -/
  used  : Nat
  /-- dirty lines; R221 -/
  lines : List Nat
  /-- entry sequences of the entries that the frame holds, by their place in the page: the entries themselves locate the units with those
  sequences; R226 -/
  seqs  : Sparse Nat
  deriving DecidableEq, Repr

/-- A run page (R208). -/
structure RunPage where
  /-- journal sequence when the page was written; R208 -/
  seq     : Nat
  stream  : Nat
  /-- 1 if the page holds runs, 2 or 3 if it holds leaves; R208 -/
  depth   : Nat
  /-- 1 to 170 entries; R208 -/
  entries : List Run
  deriving DecidableEq, Repr

/-- A map page, or with bit 31 of its index set a directory page (R220). -/
structure MapPage where
  page    : Nat
  /-- the highest entry sequence in the page when it was formed; R220 -/
  seq     : Nat
  /-- map entries that are not unmapped, by their place in the page, 0 to 1,019; R218, R220 -/
  entries : Sparse Nat
  deriving DecidableEq, Repr

/-- What a page whose program is submitted holds; a run page may replace an older one (R208, R209, R222). -/
inductive PageBody where
  | map (m : MapPage)
  | run (r : RunPage) (old : Option Loc)
  deriving DecidableEq, Repr

/-- A move that has passed its copy and waits for its seal (R231). -/
structure Move where
  /-- 1 Kiln, 2 Sparge, 3 refresh -/
  kind   : Nat
  stream : Nat
  off    : Nat
  len    : Nat
  dest     : Loc

  /-- every target codeword has been verified; R231 step 3 -/
  checked : Bool
  /-- in a committed journal tail; R231 step 4 -/
  noted  : Bool
  deriving DecidableEq, Repr

/-- BACK and FRONT: placement, the run table, the random region's map and the Cellar. -/
structure PlaceState where
  /-- pieces and random-region units held anywhere in the part; R97, R85; reset empty -/
  pieces    : List Piece
  /-- the band table; R171; reset empty -/
  bands     : Sparse Band
  /-- the counters k_d, 20 bits each; R202; reset 0 (R202) -/
  kd        : Sparse Nat
  /-- good blocks of each die index; R200; reset 0 -/
  good      : Sparse Nat
  /-- shares of the staging and random reservations at each die index; R200; reset 0 -/
  heldBlk   : Sparse Nat
  /-- blocks of the staging reservation; R200; reset 0: fixed at initialization -/
  stagingRes : Nat
  /-- blocks of the random reservation; R200; reset 0: fixed at initialization -/
  randomRes : Nat
  /-- open groups; R212; reset empty -/
  groups    : List Group
  /-- the run table; R208; reset empty -/
  runs      : List Run
  /-- run pages on flash, by their codeword's location; R208; reset empty -/
  runPages  : List (Loc × RunPage)
  /-- the random pool's band list: a band's place in it is its random band ordinal; R218; reset empty -/
  randBands : List Nat
  /-- the run pages that the Back core's TCM holds, at most 64, the one used last first; R208; reset empty -/
  runCache  : List Loc
  /-- map and directory pages on flash, by their codeword's location: the directory and the top directory; R220; reset empty -/
  mapPages  : List (Loc × MapPage)
  /-- run, map and directory pages whose programs have not completed; R209, R222; reset empty -/
  pageJobs  : List (Loc × PageBody)
  /-- moves copied and verified and not yet sealed; R231; reset empty -/
  moves     : List Move
  /-- C_stream × the common denominator of R200's shares, as computed at the last seal; R200; reset 0 -/
  cHeld     : Nat
  /-- STAGING_HIGH was raised and occupancy has not fallen below 80 % since; R217; reset false -/
  stagingHi : Bool
  /-- the pools that are short of space; R228; reset empty -/
  short     : List Pool
  /-- the two snuff bands held, and whether each is checked; R238; reset empty -/
  snuff     : List (Nat × Bool)
  /-- random-region size in bytes; R199; reset 0: fixed at initialization -/
  randSize  : Nat
  /-- Grist frames by page index; R221; reset empty -/
  frames    : Sparse GFrame
  /-- use counter of the Grist; R222; reset 0; the model's own counter -/
  useClock  : Nat
  /-- Cellar base, 64 bits; R378; reset 0 (R378) -/
  cellBase  : BitVec 64
  /-- Cellar size, 64 bits; R378; reset 0 (R378) -/
  cellSize  : BitVec 64
  /-- staged low word of the Cellar base; R378; reset 0 -/
  cellBaseLo : Word
  /-- staged low word of the Cellar size; R378; reset 0 -/
  cellSizeLo : Word
  /-- pages whose Cellar-current bit is set; R225; reset empty -/
  cellCur   : List Nat
  /-- tag failures since the base was last written; R225; reset 0 -/
  cellFails : Nat
  /-- the Cellar is no longer used; R225; reset false -/
  cellOff   : Bool
  /-- the Cellar key in force, by its draw; R223; reset 0: none drawn -/
  cellKey   : Nat
  /-- run pages that the next checkpoint programs again, by their location; R227, R230; reset empty -/
  runDue    : List Loc
  /-- pages changed since they were programmed; R222, R128; reset empty -/
  pagesDue  : List Nat
  deriving DecidableEq, Repr

/-- A stream entry of a cask (R124). -/
structure CaskEntry where
  stream  : Nat
  st      : SState
  flags   : BitVec 8
  cls     : BitVec 3
  mirror  : Bool
  quota   : Nat
  epoch   : Nat
  close   : Nat
  trim    : Nat
  deriving DecidableEq, Repr

/-- A map delta (R124). -/
structure MapDelta where
  unit  : Nat
  loc   : Loc
  /-- entry sequence; R219 -/
  seq   : Nat
  /-- the new map entry, 32 bits; R218 -/
  entry : Nat
  deriving DecidableEq, Repr

/-- The body of a cask or a through note (R124, R127). -/
structure Cask where
  cycle     : Nat
  setSealed : Nat
  missing   : BitVec 6
  joined    : Bool
  recovered : Bool
  cut       : Bool
  synth     : Bool
  degraded  : Bool
  free      : Bool
  ticks     : Nat
  entries   : List CaskEntry
  runs      : List Run
  /-- R124 -/
  deltas    : List MapDelta
  released  : List Nat
  deriving DecidableEq, Repr

/-- A health log: words by their offset (R242); 64-bit counts stand at their low word's offset. -/
abbrev HealthLog := Sparse Nat

/-- The complete state from which recovery starts (R128), and what a journal tail states in absolute values (R122, R138). -/
structure Snapshot where
  streams  : Sparse Stream
  pieces   : List Piece
  runs     : List Run
  runPages : List (Loc × RunPage)
  randBands : List Nat
  mapPages : List (Loc × MapPage)
  bands    : Sparse Band
  kd       : Sparse Nat
  retBlk   : Sparse (List (Nat × Nat))
  retDies  : Sparse (BitVec 16)
  retChan  : List Nat
  memRet   : Sparse (List Nat)
  good     : Sparse Nat
  heldBlk  : Sparse Nat
  stagingRes : Nat
  randomRes  : Nat
  randSize : Nat
  entrySeq : Nat
  ticks    : Sparse Nat
  link     : Option LinkLast
  health   : HealthLog
  deriving DecidableEq, Repr

/-- The body of a journal record (R118). -/
inductive Body where
  | cask (c : Cask)
  | note (c : Cask)
  | checkpoint (s : Snapshot)
  | bandLink (addr : BitVec 64)
  deriving DecidableEq, Repr

/-- One cask, note, checkpoint or band link in the journal, with its parts (R118, R124, R128). -/
structure JRec where
  /-- journal sequence of its first part; R118 -/
  seq   : Nat
  /-- how many parts it has, with consecutive sequences; R124, R128 -/
  parts : Nat
  /-- cycle number that it belongs to; R118 -/
  cycle : Nat
  /-- bytes of its parts, headers and CRCs with them; R118 -/
  len   : Nat
  /-- journal address of its first page; R120 -/
  addr  : BitVec 64
  body  : Body
  deriving DecidableEq, Repr

/-- One anchor copy (R130). -/
structure Anchor where
  gen      : Nat
  copyB    : Bool
  snuff    : Bool
  readOnly : Bool
  headSeq  : Nat
  headAddr : BitVec 64
  lastCask : Nat
  /-- the snuff band, whose first page bytes 36 to 43 address; R130 -/
  snuffLoc : Option Nat
  intent   : Option Nat
  intKind  : Nat
  wbase    : Nat
  doneSec  : Option Nat
  serial   : Word
  powerUps : Word
  /-- magic, format and CRC match; R130 -/
  intact   : Bool
  /-- where it stands: 128 times its physical parameter sector, and the slot in the sector; R417, R420 -/
  place    : Nat
  deriving DecidableEq, Repr

/-- The committed journal tail (R122). -/
structure Tail where
  /-- sequence of the last record that completed a cask or a through note; R122 -/
  base   : Nat
  /-- the last cycle sealed when it was committed; R122 -/
  sealed : Option Nat
  /-- sequence of the last record written when it was committed: what the absolute values of `snap` include; the model's own field -/
  upTo   : Nat
  snap   : Snapshot
  /-- the link frames executed since its base, oldest first; R122 -/
  frames : List LinkLast
  deriving DecidableEq, Repr

/-- A seal in progress (R125). -/
structure Seal where
  cycle     : Nat
  /-- close frontiers of the streams with bytes in the cycle; R125 step 1 -/
  fronts    : Sparse Nat
  setSealed : Nat
  missing   : BitVec 6
  /-- the changed pages that its checkpoint names have been submitted; R128, R209 -/
  pages     : Bool
  deriving DecidableEq, Repr

/-- An entry of the piece directory (R278). -/
structure DirEntry where
  /-- 0 stream piece, 1 random-region unit, 2 row accumulator -/
  kind   : Nat
  stream : Nat
  /-- stream epoch of a piece, band number of an accumulator -/
  epoch  : Nat
  /-- chunk number, unit number, or the accumulator's row -/
  chunk  : Nat
  /-- its first codeword lies in the second snuff band -/
  second : Bool
  /-- offset of its first codeword in the data space of that band -/
  first  : Nat
  count  : Nat
  deriving DecidableEq, Repr

/-- The resets that a reset flush precedes (R462). -/
inductive ResetKind where
  | warm | cold | soft
  deriving DecidableEq, Repr

/-- What the Snuffer wrote to its snuff bands (R277). -/
structure SnuffImage where
  /-- the bands written, the one that the anchor names first; R239, R279 -/
  bands    : List Nat
  /-- the piece directory, in the order of the pieces and then the accumulators; R278 -/
  dir      : List DirEntry
  /-- 1 PRESENT#, 2 VIN droop, 3 VIN over, 4 fault reaction; R277 -/
  trigger  : BitVec 3
  cycle    : Nat
  tickPos  : Nat
  powerUps : Word
  tail     : Tail
  pieces   : List Piece
  /-- the accumulators of the open rows, as (band, row, what it holds); R277 -/
  accs     : List (Nat × Nat × List Byte)
  /-- the dirty Grist lines, as (page index, line number, its 64 bytes); R277 -/
  lines    : List (Nat × Nat × List Byte)
  link     : Option LinkLast
  deriving DecidableEq, Repr

/-- The journal and what the magazine keeps (R117 to R134). -/
structure JournalState where
  /-- records on flash, oldest first; R117; reset empty -/
  recs      : List JRec
  /-- sequence of the next record; R118; reset 1 (log 4) -/
  nextSeq   : Nat
  /-- the committed tail; R122; reset none -/
  tail      : Option Tail
  /-- lengths in ticks of the cycles ended since the tail's base; R122; reset empty -/
  ticks     : Sparse Nat
  /-- a seal in progress; R125; reset none -/
  sealing   : Option Seal
  /-- the last cycle sealed; R66; reset none -/
  lastSeal  : Option Nat
  /-- the cycle current when READY or DEGRADED was entered, the first to be sealed; R126; reset 0 -/
  firstSeal : Nat
  /-- journal bytes since the last checkpoint; R128; reset 0 -/
  sinceCp   : Nat
  /-- 10 ns periods of the cycles ended since the last checkpoint; R128; reset 0 -/
  cpClocks  : Nat
  /-- cycles ended and not yet sealed, oldest first; R66; reset empty -/
  ended     : List Nat
  /-- sequence of the newest checkpoint; R131; reset none -/
  newestCp  : Option Nat
  /-- journal bytes after the newest anchor's head; R129; reset 0 -/
  sinceHead : Nat
  /-- the snuff band's content on flash; R277; reset none -/
  snuff     : Option SnuffImage
  /-- main-domain power-up count, 32 bits; R130; reset 0 -/
  powerUps  : Word
  /-- the journal bands in the order of their links, the open one last; R117, R120; reset empty -/
  bands     : List Nat
  /-- the next free page of the open journal band; R120; reset 0 -/
  page      : Nat
  /-- the next journal band, formed and erased; R120, R198; reset none -/
  spare     : Option Nat
  /-- link frames executed since the last cask or note, oldest first; R122; reset empty -/
  frames    : List LinkLast
  deriving DecidableEq, Repr

/-- A submission ring (R299, R302). -/
structure SRing where
  base    : BitVec 64
  entries : Nat
  cq      : Nat
  enable  : Bool
  head    : Nat
  tail    : Nat
  error   : BitVec 4
  deriving DecidableEq, Repr

/-- A ring record never written. -/
def SRing.none : SRing := { base := 0, entries := 0, cq := 0, enable := false, head := 0, tail := 0, error := 0 }

/-- A completion ring (R299, R308, R309). -/
structure CRing where
  base    : BitVec 64
  entries : Nat
  coCount : Nat
  coTime  : Nat
  enable  : Bool
  /-- the host's head: next entry it will take; R303 -/
  head    : Nat
  /-- where the next completion is posted; R308 -/
  post    : Nat
  phase   : Bool
  /-- entries posted since the last signal, NO_IRQ not counted; R309 -/
  since   : Nat
  deriving DecidableEq, Repr

/-- A ring record never written. -/
def CRing.none : CRing :=
  { base := 0, entries := 0, coCount := 0, coTime := 0, enable := false, head := 0, post := 0, phase := false, since := 0 }

/-- A host descriptor in progress (R304 to R308). -/
structure HDesc where
  /-- order of fetch; the model's own name for it -/
  id      : Nat
  ring    : Nat
  /-- the completion ring that its ring named at the fetch; R304 -/
  cq      : Nat
  opcode  : Byte
  noIrq   : Bool
  stream  : BitVec 16
  tag     : Word
  start   : BitVec 64
  len     : Word
  buffer  : BitVec 64
  /-- a reserved byte is not 0; R308 -/
  badRes  : Bool
  /-- head of the ring after the fetch; R308 -/
  headAft : Nat
  /-- units or bytes done; R308 -/
  count   : Nat
  /-- units reserved of a WRITE_RANDOM; R307 -/
  reserved : Nat
  /-- status once the action has ended; R308 -/
  status  : Option Byte
  /-- entry sequences whose map deltas must be noted before posting; R307 step 4 -/
  awaits  : List Nat
  deriving DecidableEq, Repr

/-- A posted request that HOST issued upstream (R312): the model's record of what left the port. -/
inductive Upstream where
  /-- the last field is the Relaxed Ordering attribute -/
  | data (addr : BitVec 64) (bytes : List Byte) (ro : Bool)
  | completion (addr : BitVec 64) (bytes : List Byte)
  | mirror (addr : BitVec 64) (bytes : List Byte)
  | cellar (addr : BitVec 64) (bytes : List Byte)
  | vector (v : Nat)
  | sealMark (addr : BitVec 64) (bytes : List Byte)
  deriving DecidableEq, Repr

/-- HOST: the PCI Express port. -/
structure HostState where
  /-- PERST# is asserted; R294; reset false (log 4) -/
  perst     : Bool
  /-- DL_Active; R294; reset false -/
  dlActive  : Bool
  /-- training runs; R294; reset false -/
  training  : Bool
  /-- the function is in D3hot; R314; reset false -/
  d3hot     : Bool
  /-- BAR0 and BAR1: address of the 4 GiB intake apertures; R293; reset 0 (PCI Express reset value, log 4) -/
  bar0      : BitVec 64
  /-- BAR2 and BAR3: address of the 1 MiB control region; R293; reset 0 (PCI Express reset value, log 4) -/
  bar2      : BitVec 64
  /-- Memory Space Enable; R296; reset 0 (PCI Express reset value, log 4) -/
  mse       : Bool
  /-- Bus Master Enable; R312; reset 0 (PCI Express reset value, log 4) -/
  bme       : Bool
  /-- Relaxed Ordering, ASPM L1, ECRC generation and checking; R290, R312; reset: Relaxed Ordering 1, the others 0 (PCI Express reset values, log 4) -/
  ctl       : DevCtl
  /-- Max Payload Size, bytes; R290; reset 128 (PCI Express reset value, log 4) -/
  mps       : Nat
  /-- Max Read Request Size, bytes; R290; reset 512 (PCI Express reset value, log 4) -/
  mrrs      : Nat
  /-- submission rings; R299; reset cleared -/
  sqs       : Sparse SRing
  /-- completion rings; R299; reset cleared -/
  cqs       : Sparse CRing
  /-- ring fetched from last; R304; reset 31: the round starts at ring 0 (log 4) -/
  lastRing  : Nat
  /-- descriptors in progress, in fetch order; R304; reset empty -/
  active    : List HDesc
  /-- descriptors fetched so far; reset 0; the model's own counter -/
  nextId    : Nat
  /-- accept mirror base, 64 bits; R301; reset 0 -/
  mirBase   : BitVec 64
  /-- set mailbox slots: last mark accepted; R297; reset empty -/
  mailbox   : Sparse (List Byte)
  /-- m_p of each peer; R148; reset 0 -/
  mp        : Sparse Nat
  /-- SET_STATUS.MISSING, 6 bits; R150; reset 0 (R370) -/
  missing   : BitVec 6
  /-- SET_PEER_ADDR of each peer; R370; reset 0 -/
  peerAddr  : Sparse (BitVec 64)
  /-- MSI-X table words written by the host, by word index 0 to 255; R297; reset cleared -/
  msix      : Sparse Word
  /-- MSI-X Enable of the capability's message control; R290; reset 0 (PCI Express reset value, log 4) -/
  msixOn    : Bool
  /-- MSI-X Function Mask; R290; reset 0 (PCI Express reset value, log 4) -/
  msixMask  : Bool
  /-- MSI-X pending bit array, 64 bits; R297; reset 0 -/
  pba       : BitVec 64
  /-- seal marks due and not sent: peer and bytes; R147; reset empty -/
  marksDue  : List (Nat × List Byte)
  /-- completion data of the last BAR read; R296; reset empty; the model's own field -/
  barRead   : List Byte
  /-- posted requests issued, oldest first; R312; reset empty; the model's own record -/
  out       : List Upstream
  deriving DecidableEq, Repr

/-- RAIL_STATUS.STATE (R288). -/
inductive RailState where
  | off | ramp | on | limit | shut
  deriving DecidableEq, Repr

/-- One rail (R288). -/
structure RailRec where
  /-- STATE; R288; reset 0 OFF -/
  st : RailState
  /-- UV: below the UV trip now; R288; reset 0 -/
  uv : Bool
  /-- OV trip since VIN POR; R288; reset 0 -/
  ov : Bool
  deriving DecidableEq, Repr

/-- How the gauge stands (R262, R263). -/
inductive GaugeState where
  | idle | running
  deriving DecidableEq, Repr

/-- POWER: rails, bank, gauge, temperature and the removal wires. -/
structure PowerState where
  /-- the rails that are not OFF; R288; reset every rail OFF -/
  rails     : Sparse RailRec
  /-- VIN_SNS at or above 10.6 V and at or below 14.5 V; R252, R269; reset false (log 4) -/
  vin       : Bool
  /-- PRESENT# counts as high; R268; reset true: the pull-up (log 4) -/
  absent    : Bool
  /-- the removal wire; R268; reset false -/
  removal   : Bool
  /-- the brown-out wire; R269; reset false -/
  brown     : Bool
  /-- VIN_BLK holds the blocking switch on; R249; reset off (R466) -/
  vinBlk    : Bool
  /-- HU_GATE on; R249; reset off (R466) -/
  huGate    : Bool
  /-- the charger runs; R261; reset false -/
  charging  : Bool
  /-- the bleed sink is on; R282; reset false -/
  bleed     : Bool
  /-- live bank voltage, mV; R286; reset 0 -/
  vbank     : Nat
  /-- reported capacitance, µF; R264; reset 0 (R287) -/
  cap       : Nat
  /-- reported ESR, mΩ; R264; reset 0 (R287) -/
  esr       : Nat
  /-- a measurement has passed since power-up of the main domain or a RESTART of POWER; R255, R265; reset false -/
  gauged    : Bool
  /-- ENERGY_AVAIL held, in pJ, that is µF · mV² ÷ 2; R265; reset 0 (R286) -/
  avail     : Nat
  /-- gauge; R262; reset idle -/
  gauge     : GaugeState
  /-- a measurement is requested; R262; reset false -/
  gaugeReq  : Bool
  /-- TEMP_NOW sensors 0 to 3, °C; R257; reset 0 (R289) -/
  tCtrl     : Int
  /-- TEMP_NOW power-die sensor; R257; reset 0 (R289) -/
  tPwr      : Int
  /-- TEMP_NOW Wick-die sensor; R257; reset 0 (R289) -/
  tWick     : Int
  /-- hottest sensor of the last sample, 0 to 5; R260; reset 0 -/
  hottest   : Nat
  /-- consecutive samples at or above 112 °C; R260; reset 0 -/
  tripRun   : Nat
  /-- thermal limit, mW; R259; reset 62,000 -/
  thermal   : Nat
  /-- PWR_CTRL.FLASH_BUDGET, 0.25 W units; R258; reset 248 (R289) -/
  budget    : Nat
  /-- PWR_CTRL.THROTTLE_T, °C; R259; reset 100 (R289) -/
  throttle  : Nat
  /-- HOLDUP_CTRL.FORCE_WT; R287; reset 0 -/
  forceWt   : Bool
  /-- ENERGY_AVAIL stays 0 until a measurement passes; R255; reset true -/
  blind     : Bool
  deriving DecidableEq, Repr

/-- SNUFF: the trigger it holds. -/
structure SnuffState where
  /-- the reset that follows the flush that waits, which is its reset flush; R462; reset none -/
  after    : Option ResetKind
  /-- a trigger waits for its flush, coded as FLUSH_BY; R271; reset none -/
  trigger  : Option (BitVec 3)
  /-- the flush is a reset flush, or that of R450, and keeps VIN; R450, R462; reset false -/
  keepVin  : Bool
  /-- SNUFF_END of the unit whose fault triggered; R450, R451; reset false -/
  endHalt  : Bool
  /-- tick position at the trigger; R277; reset 0 -/
  trigPos  : Nat
  deriving DecidableEq, Repr

/-- Who submitted a Wick descriptor (R409). -/
inductive WickFrom where
  | front | back | snuff | hostSw
  deriving DecidableEq, Repr

/-- One Wick descriptor in the queue (R409, R411). -/
structure WDesc where
  who    : WickFrom
  tag    : Byte
  w0     : Word
  w1     : Word
  w2     : Word
  /-- completion status once its action ended; R413 -/
  status : Option Byte
  deriving DecidableEq, Repr

/-- A running or suspended erase (R410, R415, R416). -/
structure WErase where
  /-- sector field of R409 -/
  sector  : Nat
  /-- suspended by host software; R416 -/
  hostSus : Bool
  /-- suspended by WICK for accesses or a program; R415, R416 -/
  autoSus : Bool
  deriving DecidableEq, Repr

/-- A copy of a record in the parameter plane (R419). -/
structure WRec where
  /-- 1 KEY, 2 BOOT, 3 WEAR -/
  kind   : Nat
  copyB  : Bool
  seq    : Nat
  /-- bytes 12 to 123 -/
  body   : List Byte
  /-- magic, kind and CRC match -/
  intact : Bool
  /-- where it stands: 64 times its physical parameter sector, and the place in the sector -/
  place  : Nat
  deriving DecidableEq, Repr

/-- What a BOOT record says (R419). -/
structure BootRec where
  active : Bool
  trial  : Bool
  starts : Nat
  verA   : Word
  verB   : Word
  deriving DecidableEq, Repr

/-- WICK: queue, window, records, anchors and the OTP row. -/
structure WickState where
  /-- WICK_QCTRL.AUTO_SUSPEND; R374; reset 1 -/
  autoSus   : Bool
  /-- WICK_DESC0 to WICK_DESC2; R374; reset 0 -/
  desc0     : Word
  /-- WICK_DESC1; R374; reset 0 -/
  desc1     : Word
  /-- WICK_DESC2; R374; reset 0 -/
  desc2     : Word
  /-- WICK_SUBMIT.TAG; R374; reset 0 -/
  tag       : Byte
  /-- the queue, at most 16, in queue order; R409; reset empty -/
  queue     : List WDesc
  /-- host completions not yet taken: tag and status, oldest first; R374; reset empty -/
  hostDone  : List (Byte × Byte)
  /-- the erase in progress; R411; reset none -/
  erase     : Option WErase
  /-- WBASE, 0 to 47; R417; reset rec., 0 -/
  wbase     : Nat
  /-- retired physical parameter sectors; R424; reset rec., empty -/
  retired   : List Nat
  /-- WICK_WINDOW.SLOT: slot B runs; R374; reset rec., 0 -/
  slotB     : Bool
  /-- anchor copies present in the plane, newest first; R131; reset empty -/
  anchors   : List Anchor
  /-- anchor tokens, 0 to 16; R132; reset 0: none before the main domain powers up -/
  tokens    : Nat
  /-- intent that waits for the next pair: sector and kind; R133; reset none -/
  intent    : Option (Nat × Nat)
  /-- the waiting intent is in a programmed pair; R133; reset false -/
  intentOn  : Bool
  /-- done entry that waits for the next pair; R133; reset none -/
  doneSec   : Option Nat
  /-- SUSPECT sectors, as the sector field of R409; R425; reset empty -/
  suspect   : List Nat
  /-- the 2 s of R422 have passed since the last pair; R422; reset false -/
  pairAged  : Bool
  /-- the next free slots of both areas read blank when last checked; R421; reset true (log 4) -/
  slotsOk   : Bool
  /-- anchor-sector erases since the last ROTATE; R418; reset 0 -/
  erases    : Nat
  /-- erases of any sector since the last WEAR record; R419; reset 0 -/
  sinceWear : Nat
  /-- erase counts of the physical parameter sectors; R419; reset 0 -/
  wearP     : Sparse Nat
  /-- erase counts of the large sectors; R419; reset 0 -/
  wearL     : Sparse Nat
  /-- programs of each physical parameter sector that failed since its erase; R424; reset 0 -/
  progFails : Sparse Nat
  /-- slot write pointer of area A, 0 to 2,047 in slots of the area; R420; reset 0 -/
  slotA     : Nat
  /-- slot write pointer of area B; R420; reset 0 -/
  slotBp    : Nat
  /-- physical parameter sectors that are not blank; R420; reset empty -/
  usedP     : List Nat
  /-- version field of the image header in slot A; R427; reset 0 -/
  hdrA      : Word
  /-- version field of the image header in slot B; R427; reset 0 -/
  hdrB      : Word
  /-- the copies of records in the parameter plane, newest first; R419; reset empty -/
  recs      : List WRec
  /-- copies that found no free place and wait for a ROTATE, oldest first; R419; reset empty -/
  recsDue   : List WRec
  /-- units of plane L that were programmed since their erase, by 8,192 times the large sector and the unit: 32 bytes each; R404, R410;
  reset empty: what the plane holds from its maker is not listed (log 129) -/
  lUnits    : Sparse (List Byte)
  /-- large sectors that are erased; R427; reset empty -/
  blankL    : List Nat
  /-- large sectors invalid until erased and programmed; R434; reset empty -/
  badL      : List Nat
  /-- bytes of the OTP row that are not 0xFF; R430; reset blank, 0xFF (log 4) -/
  otp       : Sparse Byte
  /-- OTP units programmed; R413; reset empty -/
  otpDone   : List Nat
  /-- OTP units that read uncorrectable; R432; reset empty -/
  otpBad    : List Nat
  /-- the brown-out detector is tripped; R408; reset false -/
  tripped   : Bool
  deriving DecidableEq, Repr

/-- One word of a selectable memory: data and check bits (R379, R385, R386). -/
inductive MemCell where
  | coded (data : BitVec 512)
  | raw (data : BitVec 512) (check : BitVec 64)
  deriving DecidableEq, Repr

/-- MEM_PWR states (R389). -/
inductive MemPwr where
  | on | retain | off
  deriving DecidableEq, Repr

/-- One selectable memory (R372, R379). -/
structure MemRec where
  /-- MEM_PWR.STATE; R372; reset 0 ON -/
  req     : MemPwr
  /-- MEM_PWR.NOW; R372; reset 0 ON -/
  now     : MemPwr
  /-- MEM_ECC_STAT.CORR, 16 bits, saturating; R372; reset 0 -/
  corr    : Nat
  /-- MEM_ECC_STAT.UNCORR, 8 bits, saturating; R372; reset 0 -/
  uncorr  : Nat
  /-- MEM_SCRUB_LAP.LAST, ms; R372; reset 0 -/
  lap     : Nat
  /-- MEM_RETIRE.RETIRED: retired Tun arrays or rows; R372; reset rec., empty -/
  retired : List Nat
  /-- MEM_TEST_CTRL.EN; R372; reset 0 -/
  testEn  : Bool
  /-- MEM_TEST_CTRL.LANE, 4 bits, while MEM_SEL selects the memory; R357, R372; reset 0 -/
  lane     : Nat
  /-- MEM_TEST_CTRL.DONE, likewise; R357, R372; reset 0 -/
  testDone : Bool
  /-- MEM_TEST_ADDR, 24 bits, likewise; R357, R372; reset 0 -/
  addr     : BitVec 24
  /-- data lanes of the staging word; R401; reset 0 -/
  stage    : BitVec 512
  /-- check lanes of the staging word; R401; reset 0 -/
  stageChk : BitVec 64
  /-- words that are not zero data with valid check bits; R388; reset empty: every word filled with zero -/
  cells   : Sparse MemCell
  /-- words poisoned and not written whole since; R387, R400; reset empty -/
  poison  : List Nat
  /-- words corrected since they were last written; R393; reset empty -/
  fixed   : List Nat
  /-- scrub laps completed; R395; reset 0; the model's own counter of the laps -/
  laps    : Nat
  /-- the access of the lap at which the scrubber last found an error; R391; reset 0 -/
  scrubAt : Nat
  deriving DecidableEq, Repr

/-- A memory as the fill leaves it. -/
def MemRec.none : MemRec :=
  { req := .on, now := .on, corr := 0, uncorr := 0, lap := 0, retired := [], testEn := false, lane := 0, testDone := false, addr := 0,
    stage := 0, stageChk := 0, cells := [], poison := [], fixed := [], laps := 0, scrubAt := 0 }

/-- One entry of the ECC log (R393). -/
structure EccEntry where
  hit     : EccHit
  recur   : Bool
  waiting : Bool
  seq     : Nat
  /-- scrub laps of its memory when it was logged; R395 -/
  lap     : Nat
  deriving DecidableEq, Repr

/-- A slot of the ECC log that has not been written: its sequence is 0 (R393). -/
def EccEntry.none : EccEntry :=
  { hit := { mem := 0, word := 0, uncorr := false, scrub := false, req := 0, places := [] }, recur := false,
    waiting := false, seq := 0, lap := 0 }

/-- The on-chip memories and the ECC log. -/
structure MemState where
  /-- the five memories; R379; reset as filled -/
  mems     : Sparse MemRec
  /-- the 64 slots of the ECC log, by slot; R393; reset empty -/
  log      : Sparse EccEntry
  /-- sequence of the last entry; R393; reset 0 -/
  seq      : Nat
  deriving DecidableEq, Repr

/-- FRONT's health log (R240 to R247). -/
structure HealthState where
  /-- the words; R242; reset 0 -/
  words     : HealthLog
  /-- HEALTH_SUMMARY.SPARE_LOW as last seen; R247; reset 0 (R246) -/
  spareLow  : Bool
  /-- HEALTH_SUMMARY.WEAR_HIGH as last seen; R247; reset 0 (R246) -/
  wearHigh  : Bool
  /-- HEALTH_SUMMARY.TEMP_BIN, bin of the latest sample; R246; reset 0 -/
  tempBin   : Nat
  deriving DecidableEq, Repr

/-- The block. -/
structure State where
  clock   : ClockState
  lamp    : LampState
  link    : LinkState
  fault   : FaultState
  intake  : IntakeState
  media   : MediaState
  place   : PlaceState
  journal : JournalState
  host    : HostState
  power   : PowerState
  snuff   : SnuffState
  wick    : WickState
  mem     : MemState
  health  : HealthState
  /-- random draws taken so far (R101, R223); reset 0; the model's own counter, the free value's argument (log 7) -/
  draws   : Nat
  /-- commands that wait, first in, first out; reset empty -/
  pending : List Instr
  deriving DecidableEq, Repr

/-- LAMP at the release of VAUX POR (R47). -/
def LampState.reset : LampState :=
  { mode := 1, modeP := none, tickDiv := 100, tickDivP := none, period := 100000, periodP := none, jitterWin := 64,
    jitterWinP := none, markTrim := 0, markTrimP := none, permil := 50, permilP := none, lock := .acquire,
    tickSrc := .internal, strays := 0, cycle := 0, latchHi := none, stagedHi := none, cycleP := none, cycleFloor := none,
    openPos := 0, tickPos := 0, intervals := [], openedReal := false, edgeTaken := false, synthCount := 0, phaseOut := 0,
    lastClocks := none, lastTicks := 0, cycleSince := false, subInterval := none, plan := [], planP := none,
    openWin := none, sealExt := none, containSeal := none, synthCycles := [] }

/-- INTAKE at the reset that clears it (R354). -/
def IntakeState.reset : IntakeState :=
  { streams := [], credits := 0, hdrCredits := 0, advertised := false, reserved := 0, unacked := [], latchAccept := none,
    latchDurable := none, latchTrim := none, trimHi := none, dryOwed := 0, gaugeOwed := 0, dryFirst := true,
    gaugeFirst := true, wtCap := false, wtEnergy := false, wtPowerUp := false, flushes := [], wtTail := [],
    spaceLow := false, spaceFull := false, entrySeq := 0, keyGen := 0, keyReady := false, key := [], direct := 0 }

/-- LINK at the release of VAUX POR (R351, R357, R361, R370, R375). -/
def LinkState.reset : LinkState :=
  { selected := false, awaiting := false, dead := true, novven := false, width := 0, rate := 0, asleep := false,
    matchOpen := true, vr := 0, vs := 0, modeSeen := none, chain := [], chainN := 0, toSend := [], sent := none,
    lastI := none, paused := none, run := none,
    last := none, restoring := true, lantern := [], rawCode := 0, fwVersion := 0, act := .none, switching := none,
    command := none, answer := [], opSeen := none, status := .ok, rdata := [], snap := none, streamSel := 0,
    chanSel := 0, memSel := 0, planWin := 0, planField := 0, planView := false, policySel := 0, syndSel := 0,
    peerSel := 0, railSel := 0, indAddr := 0, irqStatus := 0, irqEnable := 1, setId := 0, member := 0, count := 1,
    wait := 8, setWritten := false, echoReg := 0 }

/-- The units whose SNUFF_END is 1 in R442's default column: TUN, POWER, SNUFF and CLOCK. -/
def FaultState.resetUnits : Sparse UnitFault :=
  [(7, { UnitFault.none with snuffEnd := true }), (10, { UnitFault.none with snuffEnd := true }),
   (11, { UnitFault.none with snuffEnd := true }), (12, { UnitFault.none with snuffEnd := true })]

/-- The fault collector at the release of VAUX POR (R369, R440, R442). -/
def FaultState.reset : FaultState :=
  { units := FaultState.resetUnits, self := false, selfAddr := 0, selfCyc := 0, selfCnt := 0, differs := false,
    pllShad := none }

/-- CLOCK at the release of VAUX POR (R375, R376, R460). -/
def ClockState.reset : ClockState :=
  { dev := .boot, mainOn := false, mainPwr := false, phase := .off, cause := 1, flushBy := 0, bootSrc := 0, clkMode := 0,
    fallback := false, pinConf := false, fuseMap := none, fuseRead := false, serialHash := 0, recCode := 0, image := 0,
    step := 0, recMs := 0, bootHold := false, refreshPct := 75, refreshP := none, vauxPor := false, vauxPin := true,
    vauxAlt := false, vinArmed := true, pllTick := ⟨false, false⟩, pllFabric := ⟨false, false⟩,
    pllNand := ⟨false, false⟩, pllPcie := ⟨false, false⟩, filled := false, bootAs00 := false, snuffMount := false,
    fwUp := false }

/-- MEDIA while the main domain is off (R161, R368). -/
def MediaState.reset : MediaState :=
  { chans := [], profile := none, orderNext := 1, done := [], refresh := [], stripes := [], rebuilds := [], wear := [], scrubLap := 0,
    visited := [], lapStart := 0, rotate := [], tagNext := 0 }

/-- Placement before recovery: nothing known (R199, R202, R378). -/
def PlaceState.reset : PlaceState :=
  { pieces := [], bands := [], kd := [], good := [], heldBlk := [], stagingRes := 0, randomRes := 0, groups := [], runs := [], runPages := [], runCache := [], randBands := [], mapPages := [], pageJobs := [], moves := [], cHeld := 0,
    stagingHi := false, short := [], snuff := [], randSize := 0, frames := [], useClock := 0, cellBase := 0, cellSize := 0,
    cellBaseLo := 0, cellSizeLo := 0, cellCur := [], cellFails := 0, cellOff := false, cellKey := 0, runDue := [], pagesDue := [] }

/-- The journal of a blank magazine (R144; log 4). -/
def JournalState.reset : JournalState :=
  { recs := [], nextSeq := 1, tail := none, ticks := [], sealing := none, lastSeal := none,
    firstSeal := 0, sinceCp := 0, cpClocks := 0, ended := [], newestCp := none, sinceHead := 0, snuff := none, powerUps := 0,
    bands := [], page := 0, spare := none, frames := [] }

/-- Relaxed Ordering enabled, ASPM and ECRC not: PCI Express reset values (R290; log 4). -/
def DevCtl.reset : DevCtl := { relaxed := true, aspmL1 := false, ecrcGen := false, ecrcCheck := false }

/-- HOST before the link trains (R297, R314). -/
def HostState.reset : HostState :=
  { perst := false, dlActive := false, training := false, d3hot := false, bar0 := 0, bar2 := 0, mse := false, bme := false, ctl := DevCtl.reset,
    mps := 128, mrrs := 512, sqs := [], cqs := [], lastRing := 31, active := [], nextId := 0, mirBase := 0, mailbox := [],
    mp := [], missing := 0, peerAddr := [], msix := [], msixOn := false,
    msixMask := false, pba := 0, marksDue := [], barRead := [], out := [] }

/-- POWER before VIN POR (R286 to R289, R466). -/
def PowerState.reset : PowerState :=
  { rails := [], vin := false, absent := true, removal := false, brown := false, vinBlk := false, huGate := false,
    charging := false, bleed := false, vbank := 0, cap := 0, esr := 0, gauged := false, avail := 0, gauge := .idle,
    gaugeReq := false, tCtrl := 0, tPwr := 0, tWick := 0, hottest := 0, tripRun := 0, thermal := 62000, budget := 248,
    throttle := 100, forceWt := false, blind := true }

/-- WICK of a new module on a blank magazine (R374; log 4). -/
def WickState.reset : WickState :=
  { autoSus := true, desc0 := 0, desc1 := 0, desc2 := 0, tag := 0, queue := [], hostDone := [], erase := none, wbase := 0,
    retired := [], slotB := false, anchors := [], tokens := 0, intent := none, intentOn := false,
    doneSec := none, suspect := [], pairAged := false, slotsOk := true, erases := 0, sinceWear := 0, wearP := [], wearL := [],
    progFails := [], slotA := 0, slotBp := 0, usedP := [], hdrA := 0, hdrB := 0, recs := [], recsDue := [], lUnits := [], blankL := [], badL := [], otp := [], otpDone := [],
    otpBad := [], tripped := false }

/-- The memories after a fill (R372, R388). -/
def MemState.reset : MemState :=
  { mems := [], log := [], seq := 0 }

/-- The machine right after reset: the release of VAUX POR, the one reset that reaches every unit (R458, R461), with the
main domain off and a blank magazine. -/
def State.reset : State :=
  { clock := .reset, lamp := .reset, link := .reset, fault := .reset, intake := .reset, media := .reset, place := .reset,
    journal := .reset, host := .reset, power := .reset,
    snuff := { after := none, trigger := none, keepVin := false, endHalt := false, trigPos := 0 },
    wick := .reset, mem := .reset,
    health := { words := [], spareLow := false, wearHigh := false, tempBin := 0 }, draws := 0, pending := [] }

end Sys2Proof.Machine
end

