-- ==== Sys2Proof/Machine/Tables.lean ====
section
/-! DEFINITION. Constant tables of the spec: unit indexes and domains, causes with their codes and levels, dependency
rows of the reaction shadow, attention bits, die tables, and the sizes of the memories. -/
namespace Sys2Proof.Machine
open Sys2Proof

/-- Unit index of R12. -/
def unitIdx : UnitId → Nat
  | .host => 0 | .link => 1 | .lamp => 2 | .intake => 3 | .media => 4 | .front => 5 | .back => 6
  | .tun => 7 | .grist => 8 | .wick => 9 | .power => 10 | .snuff => 11 | .clock => 12

/-- The thirteen units in the order of their index (R12). -/
def allUnits : List UnitId :=
  [.host, .link, .lamp, .intake, .media, .front, .back, .tun, .grist, .wick, .power, .snuff, .clock]

/-- The unit of an index below 13 (R12). -/
def unitOf (n : Nat) : Option UnitId := allUnits[n]?

/-- Units of the VAUX domain (R23). -/
def unitVaux : UnitId → Bool
  | .link | .lamp | .clock => true
  | .host | .intake | .media | .front | .back | .tun | .grist | .wick | .power | .snuff => false

/-- The unit that reports a cause (R441). -/
def causeUnit : Cause → UnitId
  | .hostLinkDown | .hostTrainFail | .hostRxEcc | .hostRingEcc => .host
  | .linkRxEcc => .link
  | .lampSealOverrun => .lamp
  | .intakeMemUncorr | .intakeMemNoSpare => .intake
  | .mediaDieFail | .mediaChannelFail | .mediaBusCheck | .mediaStripeLost | .mediaQueueEcc => .media
  | .frontWatchdog | .frontMemUncorr | .frontMemNoSpare => .front
  | .backWatchdog | .backMemUncorr | .backMemNoSpare => .back
  | .tunUncorr | .tunMacroHard => .tun
  | .gristUncorr | .gristNoSpare => .grist
  | .wickAnchorTie | .wickErasedAccess | .wickSectorRetired | .wickSectorLimit | .wickLargeFail | .wickOtpUncorr
  | .wickQueueEcc => .wick
  | .powerRailUv | .powerRailOv | .powerRailOc | .powerChargeTimeout | .powerGaugeFail | .powerThermTrip
  | .powerVinOv => .power
  | .snuffDryRun => .snuff
  | .clockPllUnlock => .clock

/-- The cause codes of R441. -/
def causeCode : Cause → Byte
  | .hostLinkDown => 0x01 | .hostTrainFail => 0x02 | .hostRxEcc => 0x03 | .hostRingEcc => 0x04
  | .linkRxEcc => 0x01
  | .lampSealOverrun => 0x01
  | .intakeMemUncorr => 0x20 | .intakeMemNoSpare => 0x21
  | .mediaDieFail => 0x01 | .mediaChannelFail => 0x02 | .mediaBusCheck => 0x03 | .mediaStripeLost => 0x04
  | .mediaQueueEcc => 0x05
  | .frontWatchdog => 0x01 | .frontMemUncorr => 0x20 | .frontMemNoSpare => 0x21
  | .backWatchdog => 0x01 | .backMemUncorr => 0x20 | .backMemNoSpare => 0x21
  | .tunUncorr => 0x01 | .tunMacroHard => 0x02
  | .gristUncorr => 0x01 | .gristNoSpare => 0x02
  | .wickAnchorTie => 0x01 | .wickErasedAccess => 0x02 | .wickSectorRetired => 0x03 | .wickSectorLimit => 0x04
  | .wickLargeFail => 0x05 | .wickOtpUncorr => 0x06 | .wickQueueEcc => 0x07
  | .powerRailUv => 0x01 | .powerRailOv => 0x02 | .powerRailOc => 0x03 | .powerChargeTimeout => 0x04
  | .powerGaugeFail => 0x05 | .powerThermTrip => 0x06 | .powerVinOv => 0x07
  | .snuffDryRun => 0x01
  | .clockPllUnlock => 0x01

/-- The cause levels of R441: 0 NOTE, 1 CONTAIN, 2 RESTART, 3 SNUFF. -/
def causeLevel : Cause → Nat
  | .hostLinkDown => 0 | .hostTrainFail => 0 | .hostRxEcc => 1 | .hostRingEcc => 0
  | .linkRxEcc => 0
  | .lampSealOverrun => 0
  | .intakeMemUncorr => 1 | .intakeMemNoSpare => 0
  | .mediaDieFail => 1 | .mediaChannelFail => 1 | .mediaBusCheck => 1 | .mediaStripeLost => 0 | .mediaQueueEcc => 0
  | .frontWatchdog => 2 | .frontMemUncorr => 0 | .frontMemNoSpare => 0
  | .backWatchdog => 2 | .backMemUncorr => 0 | .backMemNoSpare => 0
  | .tunUncorr => 0 | .tunMacroHard => 0
  | .gristUncorr => 0 | .gristNoSpare => 0
  | .wickAnchorTie => 2 | .wickErasedAccess => 0 | .wickSectorRetired => 0 | .wickSectorLimit => 0
  | .wickLargeFail => 0 | .wickOtpUncorr => 0 | .wickQueueEcc => 0
  | .powerRailUv => 0 | .powerRailOv => 3 | .powerRailOc => 0 | .powerChargeTimeout => 0
  | .powerGaugeFail => 0 | .powerThermTrip => 3 | .powerVinOv => 0
  | .snuffDryRun => 0
  | .clockPllUnlock => 2

/-- The held causes of R441: each names a condition. -/
def causeHeld : Cause → Bool
  | .hostLinkDown | .powerRailUv | .powerRailOc | .powerChargeTimeout | .powerVinOv => true
  | _ => false

/-- The dependency rows of R447; for CLOCK, the consumers of the PLL named (R27). -/
def shadowRow (r : UnitId) (p : Option Pll) : List UnitId :=
  match r with
  | .host => [.intake, .front]
  | .link => []
  | .lamp => [.intake, .media, .back, .snuff]
  | .intake => [.host, .back, .snuff]
  | .media => [.intake, .back, .snuff]
  | .front => [.host, .intake, .grist]
  | .back => [.lamp, .intake, .media, .snuff]
  | .tun => [.host, .intake, .media, .front, .back, .snuff]
  | .grist => [.host, .intake, .front, .snuff]
  | .wick => [.front, .back, .snuff]
  | .power => [.media, .wick, .snuff]
  | .snuff => [.power]
  | .clock =>
    match p with
    | none => []
    | some .tick => [.link, .lamp]
    | some .fabric => [.host, .intake, .media, .front, .back, .tun, .grist, .wick, .snuff]
    | some .nand => [.media]
    | some .pcie => [.host]

/-- The attention causes of R360. -/
inductive Attn where
  | fault | phaseLost | tickLost | planReject | streamFault | overQuota | streamPoison | wtEnter | wtExit | setDegraded
  | setRestored | spaceLow | spaceFull | stagingHigh | cellarOff | scrubSlow | healthSpare | healthWear | stateChange
  | wickDone
  deriving DecidableEq, Repr

/-- Bit numbers of R360. -/
def attnBit : Attn → Nat
  | .fault => 0 | .phaseLost => 1 | .tickLost => 2 | .planReject => 3 | .streamFault => 4 | .overQuota => 5
  | .streamPoison => 6 | .wtEnter => 7 | .wtExit => 8 | .setDegraded => 9 | .setRestored => 10 | .spaceLow => 11
  | .spaceFull => 12 | .stagingHigh => 13 | .cellarOff => 14 | .scrubSlow => 15 | .healthSpare => 16 | .healthWear => 17
  | .stateChange => 18 | .wickDone => 19

/-- DEV_STATE.STATE codes (R358). -/
def devCode : DevState → Nat
  | .boot => 0 | .recover => 1 | .ready => 2 | .degraded => 3 | .readOnly => 4 | .snuffed => 5 | .halted => 6
  | .download => 7

/-- ST_STATE.STATE codes (R72). -/
def sstateCode : SState → Nat
  | .free => 0 | .open => 1 | .draining => 2 | .closed => 3 | .faulted => 4

/-- CYC_CTRL.LOCK_STATE codes (R42). -/
def lockCode : LockState → Nat
  | .free => 0 | .acquire => 1 | .locked => 2 | .coast => 3

/-- CYC_CTRL.TICK_SRC codes (R46). -/
def tickSrcCode : TickSrc → Nat
  | .internal => 0 | .phaseTick => 1 | .substitute => 2

/-- CH_STATE.STATE codes (R161). -/
def chanCode : ChanState → Nat
  | .off => 0 | .discover => 1 | .train => 2 | .active => 3 | .quiesced => 4 | .failed => 5 | .absent => 6

/-- CH_DIES codes (R158). -/
def dieCode : DieCode → Nat
  | .absent => 0 | .active => 1 | .retired => 2 | .unsupported => 3

/-- LINK status codes (R336). -/
def statusCode : Status → Byte
  | .ok => 0x00 | .werr => 0x01 | .nopwr => 0x02 | .badmsg => 0x03 | .range => 0x04 | .skipped => 0x05

/-- RAIL_SEL codes (R288). -/
def railCode : Rail → Nat
  | .vcore => 0 | .vccqPhy => 1 | .vwk => 2 | .vcc => 3 | .vccq => 4

/-- PLL codes (R499). -/
def pllCode : Pll → Nat
  | .tick => 0 | .fabric => 1 | .nand => 2 | .pcie => 3

/-- Link-loss codes (R499). -/
def lossCode : LinkLoss → Nat
  | .surpriseDown => 0 | .hotReset => 1 | .linkDisable => 2 | .dlDown => 3

/-- Pack syndrome items, each a width and a value, from bit 0 upward (R499). -/
def packBits : List (Nat × Nat) → Nat
  | [] => 0
  | (w, v) :: rest => v % 2 ^ w + 2 ^ w * packBits rest

/-- The detail of a report (R499). -/
def detail (items : List (Nat × Nat)) : BitVec 56 := BitVec.ofNat 56 (packBits items)

/-- The default of the band table, which no band is: it has no member. -/
def bandNone : Band :=
  { pool := .stream, slc := false, members := [], group := [], phase := .open, drops := [], fails := [], checked := false, firstOk := []
    units := [], heads := [], left := false, parity := [], accs := [], accBuf := [], relSeq := 0, stuck := [] }

/-- A default for Grist frames: no frame. -/
def frameNone : GFrame := { st := .clean, used := 0, lines := [], seqs := [] }

/-- 2^26 − 1, the most ticks of a cycle (R38). -/
def maxTick : Nat := 67108863

end Sys2Proof.Machine
end

