-- ==== Sys2Proof/Machine/Ops.lean ====
section
/-! DEFINITION. The named operations that the meanings share: change one unit's state, read and write the entries of
the tables, count in the health log, raise attention, signal a vector, change DEV_STATE, assert an error line. -/
namespace Sys2Proof.Machine
open Sys2Proof

/-! ### Order in a list -/

/-- Put an element before the first that it may precede. -/
def insertBy {α : Type} (le : α → α → Bool) (a : α) : List α → List α
  | [] => [a]
  | b :: bs => if le a b then a :: b :: bs else b :: insertBy le a bs

/-- A list in an order; equal elements stay as they stand. -/
def sortBy {α : Type} (le : α → α → Bool) : List α → List α
  | [] => []
  | a :: as => insertBy le a (sortBy le as)

/-! ### Changing one unit's state -/

/-- Change CLOCK's state. -/
def State.onClock (s : State) (f : ClockState → ClockState) : State := { s with clock := f s.clock }
/-- Change LAMP's state. -/
def State.onLamp (s : State) (f : LampState → LampState) : State := { s with lamp := f s.lamp }
/-- Change LINK's state. -/
def State.onLink (s : State) (f : LinkState → LinkState) : State := { s with link := f s.link }
/-- Change the fault collector's state. -/
def State.onFault (s : State) (f : FaultState → FaultState) : State := { s with fault := f s.fault }
/-- Change INTAKE's state. -/
def State.onIntake (s : State) (f : IntakeState → IntakeState) : State := { s with intake := f s.intake }
/-- Change MEDIA's state. -/
def State.onMedia (s : State) (f : MediaState → MediaState) : State := { s with media := f s.media }
/-- Change the placement state. -/
def State.onPlace (s : State) (f : PlaceState → PlaceState) : State := { s with place := f s.place }
/-- Change the journal. -/
def State.onJournal (s : State) (f : JournalState → JournalState) : State := { s with journal := f s.journal }
/-- Change HOST's state. -/
def State.onHost (s : State) (f : HostState → HostState) : State := { s with host := f s.host }
/-- Change POWER's state. -/
def State.onPower (s : State) (f : PowerState → PowerState) : State := { s with power := f s.power }
/-- Change SNUFF's state. -/
def State.onSnuff (s : State) (f : SnuffState → SnuffState) : State := { s with snuff := f s.snuff }
/-- Change WICK's state. -/
def State.onWick (s : State) (f : WickState → WickState) : State := { s with wick := f s.wick }
/-- Change the on-chip memories. -/
def State.onMem (s : State) (f : MemState → MemState) : State := { s with mem := f s.mem }
/-- Change the health log. -/
def State.onHealth (s : State) (f : HealthState → HealthState) : State := { s with health := f s.health }

/-! ### Table entries -/

/-- The entry of a stream (R71). -/
def State.stream (s : State) (i : Nat) : Stream := tget Stream.none s.intake.streams i
/-- Write the entry of a stream. -/
def State.setStream (s : State) (i : Nat) (e : Stream) : State :=
  s.onIntake fun t => { t with streams := tset Stream.none t.streams i e }
/-- Change the entry of a stream. -/
def State.modStream (s : State) (i : Nat) (f : Stream → Stream) : State := s.setStream i (f (s.stream i))
/-- Change every stream entry that is not all default. -/
def State.mapStreams (s : State) (f : Nat → Stream → Stream) : State :=
  s.onIntake fun t => { t with streams := tmap Stream.none f t.streams }

/-- A channel (R161). -/
def State.chan (s : State) (c : Nat) : Channel := tget Channel.none s.media.chans c
/-- Write a channel. -/
def State.setChan (s : State) (c : Nat) (x : Channel) : State :=
  s.onMedia fun m => { m with chans := tset Channel.none m.chans c x }
/-- Change a channel. -/
def State.modChan (s : State) (c : Nat) (f : Channel → Channel) : State := s.setChan c (f (s.chan c))

/-- The collector's record of a unit (R369). -/
def State.unit (s : State) (u : UnitId) : UnitFault := tget UnitFault.none s.fault.units (unitIdx u)
/-- Write the collector's record of a unit. -/
def State.setUnit (s : State) (u : UnitId) (r : UnitFault) : State :=
  s.onFault fun f => { f with units := tset UnitFault.none f.units (unitIdx u) r }
/-- Change the collector's record of a unit. -/
def State.modUnit (s : State) (u : UnitId) (f : UnitFault → UnitFault) : State := s.setUnit u (f (s.unit u))

/-- Every PLL that clocks the unit runs, or its fallback does (R27, R470): no consumer of a PLL is released before, and a relock
gates its consumers' clocks (R442). -/
def State.clocked (s : State) (u : UnitId) : Bool :=
  match u with
  | .link | .lamp => s.clock.pllTick.up
  | .host => s.clock.pllFabric.up && s.clock.pllPcie.up
  | .media => s.clock.pllFabric.up && s.clock.pllNand.up
  | .intake | .front | .back | .tun | .grist | .wick | .snuff => s.clock.pllFabric.up
  | .power | .clock => true

/-- The unit does nothing: it is in a RESTART reset, or its clock is gated. -/
def State.stopped (s : State) (u : UnitId) : Bool := (s.unit u).restart || !s.clocked u

/-- A selectable memory (R379). -/
def State.memory (s : State) (i : Nat) : MemRec := tget MemRec.none s.mem.mems i
/-- Change a selectable memory. -/
def State.modMemory (s : State) (i : Nat) (f : MemRec → MemRec) : State :=
  s.onMem fun m => { m with mems := tset MemRec.none m.mems i (f (tget MemRec.none m.mems i)) }

/-! ### The health log's counts (R242) -/

/-- A word of the health log. -/
def State.hget (s : State) (w : Nat) : Nat := tget 0 s.health.words w
/-- Write a word of the health log. -/
def State.hset (s : State) (w v : Nat) : State := s.onHealth fun h => { h with words := tset 0 h.words w v }
/-- Add to a 32-bit count, which saturates (R242). -/
def State.count32 (s : State) (w n : Nat) : State := s.hset w (min (s.hget w + n) 0xFFFFFFFF)
/-- Add to a 64-bit count, held whole at its low word's offset (R242). The manual does not say what it does beyond 64 bits: it saturates, as
the counts of 32 and 16 bits do (DESIGN CHOICE, log 137). -/
def State.count64 (s : State) (w n : Nat) : State := s.hset w (min (s.hget w + n) (2 ^ 64 - 1))
/-- Add to the 16-bit count in the low half of a word, which saturates (R242). -/
def State.countLo (s : State) (w n : Nat) : State :=
  s.hset w (min (s.hget w % 65536 + n) 0xFFFF + 65536 * (s.hget w / 65536))
/-- Add to the 16-bit count in the high half of a word, which saturates (R242). -/
def State.countHi (s : State) (w n : Nat) : State :=
  s.hset w (s.hget w % 65536 + 65536 * min (s.hget w / 65536 + n) 0xFFFF)

/-! ### Upstream requests and vectors -/

/-- HOST may issue an upstream request: the main domain runs, the link is up, the function is in D0 or D3hot with Bus
Master Enable set, and no trigger has come (R273, R312). -/
def State.upstreamOpen (s : State) : Bool :=
  s.clock.mainOn && s.host.dlActive && s.host.bme && s.snuff.trigger.isNone

/-- Issue a posted request upstream. -/
def State.issue (s : State) (u : Upstream) : State := s.onHost fun h => { h with out := h.out ++ [u] }

/-- The mask of a vector: the function mask or bit 0 of its vector control word (R290, R297). -/
def HostState.vectorMasked (h : HostState) (v : Nat) : Bool :=
  h.msixMask || (tget 0 h.msix (4 * v + 3)).getLsbD 0

/-- Signal a vector (R311). With MSI-X disabled nothing is signalled; a vector that is masked, or whose message cannot
be issued now, sets its pending bit, as PCI Express defines. -/
def State.signal (s : State) (v : Nat) : State :=
  if !(s.clock.mainOn && s.host.msixOn) then s
  else if s.host.vectorMasked v || !s.upstreamOpen then
    s.onHost fun h => { h with pba := h.pba ||| (1#64 <<< v) }
  else s.issue (.vector v)

/-! ### Attention (R360) -/

/-- Raise attention with a cause: its bit is set; vector 32 is signalled when an enabled bit goes from 0 to 1. -/
def State.raise (s : State) (a : Attn) : State :=
  let bit := 1#20 <<< attnBit a
  let s' := s.onLink fun l => { l with irqStatus := l.irqStatus ||| bit }
  if s.link.irqStatus &&& bit = 0 ∧ s.link.irqEnable &&& bit ≠ 0 then s'.signal 32 else s'

/-! ### Mirror events (R93) -/

/-- The accept mirror base: bits [11:0] ignored; 0 means none (R301). -/
def HostState.mirrorBase (h : HostState) : BitVec 64 := h.mirBase &&& ~~~0xFFF#64

/-- A mirror event at a stream: a mirror write falls due if the mirror is enabled and a base is set (R93). -/
def State.mirrorEvent (s : State) (i : Nat) : State :=
  if (s.stream i).mirrorEn && s.host.mirrorBase != 0 then s.modStream i fun e => { e with mirrorDue := true } else s

/-- The stream changes state: a mirror event (R81, R93). -/
def State.setSState (s : State) (i : Nat) (t : SState) : State :=
  if (s.stream i).st = t then s else (s.modStream i fun e => { e with st := t }).mirrorEvent i

/-- Every OPEN stream becomes DRAINING: a port reset, a link loss, or the entry into READ_ONLY, SNUFFED or HALTED (R81). -/
def State.drainOpen (s : State) : State :=
  let due := s.host.mirrorBase != 0
  s.mapStreams fun _ e =>
    if e.st = .open then { e with st := .draining, mirrorDue := e.mirrorDue || (e.mirrorEn && due) } else e

/-! ### DEV_STATE -/

/-- DEV_STATE.STATE takes a value: attention STATE_CHANGE when it changes (R360), and OPEN streams drain on READ_ONLY,
SNUFFED and HALTED (R81). -/
def State.setDev (s : State) (d : DevState) : State :=
  if s.clock.dev = d then s
  else
    let t := (s.onClock fun c => { c with dev := d }).raise .stateChange
    match d with
    | .readOnly | .snuffed | .halted => t.drainOpen
    | .boot | .recover | .ready | .degraded | .download => t

/-- READY or DEGRADED. -/
def State.running (s : State) : Bool := s.clock.dev = .ready || s.clock.dev = .degraded

/-! ### Error lines (R436) -/

/-- The units in whose open shadow a report of u falls: those whose row names u (R446, R447), and u itself where its shadow and another's cover
each other (R457). -/
def State.shadowsOver (s : State) (u : UnitId) : List UnitId :=
  allUnits.filter fun r => (s.unit r).shadow && ((shadowRow r s.fault.pllShad).contains u || (r == u && (s.unit r).paired))

/-- A unit asserts its error line. It holds one report until the collector takes it; a further report is merged into it. A report arrives when
its line is asserted: the shadows open then decide whether it is consequential (R446; DEDUCED, log 155). While the main domain is off, the
lines of its units are ignored (R25). -/
def State.assertError (s : State) (c : Cause) (d : BitVec 56) : State :=
  let u := causeUnit c
  let w : Report := { cause := c, detail := d, inShadow := s.shadowsOver u }
  if !s.clock.mainOn && !unitVaux u then s
  else s.modUnit u fun r =>
    match r.waiting with
    | none => { r with waiting := some w, merged := [] }
    | some _ => { r with merged := r.merged ++ [w] }

/-- The condition of a held cause arises: it is reported, and stands until it ends (R448). -/
def State.holdCause (s : State) (c : Cause) (d : BitVec 56) : State :=
  let r := s.unit (causeUnit c)
  if r.held.any (fun h => h.1 = c && h.2 = d) then s
  else (s.setUnit (causeUnit c) { r with held := r.held ++ [(c, d)] }).assertError c d

/-- The condition of a held cause ends (R448). -/
def State.dropCause (s : State) (c : Cause) : State :=
  s.modUnit (causeUnit c) fun r => { r with held := r.held.filter fun h => h.1 ≠ c }

/-- The condition of a held cause ends for one detail only. -/
def State.dropCauseAt (s : State) (c : Cause) (d : BitVec 56) : State :=
  s.modUnit (causeUnit c) fun r => { r with held := r.held.filter fun h => !(h.1 = c && h.2 = d) }

/-- Unit u has a fault latched and unacknowledged, or is in a RESTART reset (R108). -/
def State.unitDown (s : State) (u : UnitId) : Bool := (s.unit u).latched || (s.unit u).restart

end Sys2Proof.Machine
end

