-- ==== Sys2Proof/Machine/Energy.lean ====
section
/-! DEFINITION. What acceptance costs and what pays for it: the pending byte count, ENERGY_NEED and the energy gate
(R85, R104, R105), the stream space left (R200, R201), and the causes of write-through (R108, R111). -/
namespace Sys2Proof.Machine
open Sys2Proof

/-! ### Profile arithmetic -/

/-- Program unit of a mode, in bytes (R154). -/
def profUnit (p : Profile) (slc : Bool) : Nat := 1024 * (if slc then p.slcUnitKiB else p.unitKiB)

/-- C_u, the codewords of a unit: 4 for each 16 KiB page (R205). -/
def profCu (p : Profile) (slc : Bool) : Nat := 4 * (profUnit p slc / 16384)

/-- Unit bytes of a mode under the magazine profile; 0 without one. -/
def State.unitBytes (s : State) (slc : Bool) : Nat :=
  match s.media.profile with
  | none => 0
  | some p => profUnit p slc

/-- C_u under the magazine profile; 0 without one. -/
def State.cu (s : State) (slc : Bool) : Nat :=
  match s.media.profile with
  | none => 0
  | some p => profCu p slc

/-! ### B_pend (R85) -/

/-- Data blocks of 16 bytes that the bytes off to off + len - 1 touch (R100). -/
def blocksOf (off len : Nat) : Nat := if len = 0 then 0 else (off + len - 1) / 16 - off / 16 + 1

/-- Bytes a piece takes in the intake region: its whole blocks and its trailer (R85). -/
def Piece.tunBytes (p : Piece) : Nat := if p.inTun then 16 * blocksOf p.off p.data.length + 16 else 0

/-- Sum over a list. -/
def sumBy {α : Type} (f : α → Nat) (l : List α) : Nat := l.foldl (fun a x => a + f x) 0

/-- Bytes of the row accumulators of the open rows (R173). -/
def State.accBytes (s : State) : Nat := sumBy (fun e => e.2.accs.length * s.unitBytes e.2.slc) s.place.bands

/-- B_pend: credits granted and not consumed at 16 bytes each, reservations, the pieces the Tun still holds and the row
accumulators (R85). -/
def State.bPend (s : State) : Nat :=
  16 * s.intake.credits + s.intake.reserved + sumBy Piece.tunBytes s.place.pieces + s.accBytes

/-- The map page of a random-region unit, and the line of the page's frame that holds its entry (R220, R221). -/
def unitLine (u : Nat) : Nat × Nat := (u / 1020, (u % 1020 + 4) / 16)

/-- The line is dirty (R221). -/
def State.lineDirty (s : State) (x : Nat × Nat) : Bool :=
  s.place.frames.any fun e => e.1 == x.1 && e.2.lines.contains x.2

/-- Lines reserved with random-region units that are not yet accepted (R307 step 1), each once. -/
def State.reservedLines (s : State) : List (Nat × Nat) :=
  ((s.host.active.flatMap fun d =>
    if d.opcode = 3 ∧ d.status = none then
      (List.range' (d.start.toNat + d.count) (d.reserved - d.count)).map unitLine
    else []).eraseDups).filter fun x => !s.lineDirty x

/-- Dirty lines of the Grist, with those reserved (R221, R307). -/
def State.dirtyLines (s : State) : Nat := sumBy (fun e => e.2.lines.length) s.place.frames + s.reservedLines.length

/-- Dirty Grist bytes (R221). -/
def State.dirtyBytes (s : State) : Nat := 64 * s.dirtyLines

/-! ### ENERGY_NEED and the gate -/

/-- 2^20: energies are compared in pJ × 2^20, which makes 4.0 mJ/MiB a whole number per byte. -/
def escale : Nat := 1048576

/-- The cost of n pending bytes at 4.0 mJ/MiB, in pJ × 2^20 (R104). -/
def byteCost (n : Nat) : Nat := 4000000000 * n

/-- ENERGY_NEED in pJ × 2^20 (R104). -/
def State.energyNeed (s : State) : Nat := 150000000000 * escale + byteCost (s.bPend + s.dirtyBytes)

/-- ENERGY_NEED in mJ, rounded up (R286). -/
def State.needMJ (s : State) : Nat := (s.energyNeed + (1000000000 * escale - 1)) / (1000000000 * escale)

/-- ENERGY_AVAIL of R104 in pJ: nothing at or below 8.0 V, and nothing until a measurement has passed (R265). -/
def PowerState.availNow (p : PowerState) (vbankMv : Nat) : Nat :=
  if p.blind || vbankMv ≤ 8000 then 0 else p.cap * (vbankMv * vbankMv - 64000000) / 2

/-- ENERGY_AVAIL in mJ, rounded down (R286). -/
def State.availMJ (s : State) : Nat := s.power.avail / 1000000000

/-- The gate of R105 for b data bytes and g dirty Grist bytes more. -/
def State.gate (s : State) (b g : Nat) : Bool :=
  decide (4 * (s.power.avail * escale) ≥ 5 * (s.energyNeed + byteCost (b + g)))

/-- ENERGY_AVAIL lies below ENERGY_NEED (R107). -/
def State.shortfall (s : State) : Bool := decide (s.power.avail * escale < s.energyNeed)

/-! ### Stream space (R200, R201) -/

/-- The least common multiple of 1 to 32: a common denominator for the shares (W − 1) ÷ W of R200. -/
def shareDen : Nat := 144403552893600

/-- Channels whose die at index d is ACTIVE; a FAILED channel has none (R159, R192). -/
def State.activeAt (s : State) (d : Nat) : List Nat :=
  (List.range 32).filter fun c => tget DieCode.absent (s.chan c).dies d = .active && (s.chan c).st ≠ .failed

/-- A die index is in use when ACTIVE dies occupy it on at least 17 channels (R159). -/
def State.dieInUse (s : State) (d : Nat) : Bool := decide (17 ≤ (s.activeAt d).length)

/-- The code of a die as CH_DIES shows it: an ACTIVE die at an index that is not in use is UNSUPPORTED (R158, R159). -/
def State.dieAt (s : State) (ch d : Nat) : DieCode :=
  let x := tget DieCode.absent (s.chan ch).dies d
  if x = .active && !s.dieInUse d then .unsupported else x

/-- The die indexes in use. -/
def State.indexes (s : State) : List Nat := (List.range 16).filter s.dieInUse

/-- ACTIVE dies in use, N of R110 and R196. -/
def State.activeDies (s : State) : Nat := sumBy (fun d => (s.activeAt d).length) s.indexes

/-- Blocks at a die index that the journal and snuff bands hold (R200). -/
def State.servedBlocks (s : State) (d : Nat) : Nat :=
  sumBy (fun x => if x.1 % 16 = d ∧ (x.2.pool = .journal ∨ x.2.pool = .snuff) ∧ x.2.phase ≠ .erasable then x.2.members.length else 0)
    s.place.bands

/-- Q_d: the blocks that the other pools hold or reserve at a die index (R200). -/
def State.heldAt (s : State) (d : Nat) : Nat := tget 0 s.place.heldBlk d + s.servedBlocks d

/-- C_stream × shareDen, as its terms stand now (R200). -/
def State.cStream (s : State) : Nat :=
  match s.media.profile with
  | none => 0
  | some p =>
    sumBy (fun d =>
      let w := (s.activeAt d).length
      (tget 0 s.place.good d - s.heldAt d) * (p.wordlines * profCu p false) * 4096 * (w - 1) * (shareDen / w))
      s.indexes

/-- V_stream: the valid bytes of the streams, from the chunk that holds ST_TRIM on (R200, R229). -/
def State.vStream (s : State) : Nat :=
  sumBy (fun e => e.2.front - 4096 * (e.2.trim / 4096)) s.intake.streams

/-- C_stream is computed again (R200). -/
def State.holdC (s : State) : State := s.onPlace fun p => { p with cHeld := s.cStream }

/-- L is below 1 % of C_stream (R201). -/
def State.lowSpace (s : State) : Bool := decide (95 * s.place.cHeld < 100 * s.vStream * shareDen)

/-- L is below B_pend + 64 MiB (R201). -/
def State.noSpace (s : State) : Bool :=
  decide (96 * s.place.cHeld < 100 * (s.vStream + s.bPend + 67108864) * shareDen)

/-- SPACE_LOW and SPACE_FULL, each raised on entry (R201). -/
def State.spaceCheck (s : State) : State :=
  let s1 := if s.lowSpace && !s.intake.spaceLow then s.raise .spaceLow else s
  let s2 := if s.noSpace && !s.intake.spaceFull then s1.raise .spaceFull else s1
  s2.onIntake fun i => { i with spaceLow := s.lowSpace, spaceFull := s.noSpace }

/-! ### Write-through -/

/-- A cause of R108 holds, or a self-test still owes passes (R111). -/
def State.wtCause (s : State) : Bool :=
  s.intake.dryFirst || s.intake.gaugeFirst || decide (0 < s.intake.dryOwed) || decide (0 < s.intake.gaugeOwed) ||
  s.intake.wtCap || s.intake.wtEnergy || s.power.forceWt || s.unitDown .power || s.unitDown .snuff

/-- Write-through is in force: DEV_STATE shows DEGRADED (R108). -/
def State.writeThrough (s : State) : Bool := s.clock.dev = .degraded

/-- The key under which a flush's frontiers give the random region's: the entry sequence reached. -/
def randKey : Nat := 1024

/-- Frontiers of a flush: of the streams that satisfy g, and of the random region while the Tun holds a unit that no program covers, or a
host write waits for its note. -/
def State.frontiersOf (s : State) (g : Nat → Stream → Bool) : Sparse Nat :=
  (s.intake.streams.filterMap fun e => if g e.1 e.2 then some (e.1, e.2.front) else none) ++
  (if (s.place.pieces.any fun p => p.unit.isSome && p.inTun && !p.done) || s.host.active.any fun d => !d.awaits.isEmpty then
    [(randKey, s.intake.entrySeq)] else [])

/-- The frontiers that taken bytes have reached beyond what the notes cover: the streams whose F lies above ST_ACCEPT. -/
def State.owedFrontiers (s : State) : Sparse Nat := s.frontiersOf fun _ e => decide (e.accept < e.front)

/-- The Tun holds a piece of stream i that is not on flash. -/
def State.pendingOf (s : State) (i : Nat) : Bool :=
  s.place.pieces.any fun p => p.unit.isNone && p.stream == i && p.inTun && !(p.done || (p.spill.isSome && p.spillOk))

/-- The frontiers that a write-through flush covers: every taken byte, and the data accepted before entry that is not yet on flash
(R109). -/
def State.openFrontiers (s : State) : Sparse Nat :=
  s.frontiersOf fun i e => decide (e.accept < e.front) || s.pendingOf i

/-- Compare the causes with DEV_STATE: enter write-through (R108) or leave it (R111). Leaving owes one final flush of
every byte that no programmed note covers (R109). -/
def State.wtUpdate (s : State) : State :=
  if s.clock.dev = .ready ∧ s.wtCause then
    ((s.setDev .degraded).raise .wtEnter).count32 0x46 1 |>.onIntake fun i => { i with wtPowerUp := false }
  else if s.clock.dev = .degraded ∧ !s.wtCause then
    ((s.setDev .ready).raise .wtExit).onIntake fun i => { i with wtPowerUp := false, wtTail := s.owedFrontiers }
  else s

end Sys2Proof.Machine
end

