-- ==== Sys2Proof/Machine/Crc.lean ====
section
/-! DEFINITION. The two checks the manual writes out: CRC-32C (R98) and the link's CRC-16 (R326), bit by bit, and the
little-endian byte fields of the records. -/
namespace Sys2Proof.Machine
open Sys2Proof

/-- The polynomial 0x1EDC_6F41 of R98 with its bits reflected. -/
def crc32cPoly : Word := 0x82F63B78

/-- n bits of the reflected CRC-32C register. -/
def crc32cBits : Nat → Word → Word
  | 0, r => r
  | n + 1, r => crc32cBits n (if r.getLsbD 0 then (r >>> 1) ^^^ crc32cPoly else r >>> 1)

/-- One byte into the CRC-32C register. -/
def crc32cByte (r : Word) (b : Byte) : Word := crc32cBits 8 (r ^^^ b.setWidth 32)

/-- Bytes into the CRC-32C register, in order. -/
def crc32cRun (r : Word) (bs : List Byte) : Word := bs.foldl crc32cByte r

/-- CRC-32C (R98): initial value and final XOR 0xFFFF_FFFF. -/
def crc32c (bs : List Byte) : Word := crc32cRun 0xFFFFFFFF bs ^^^ 0xFFFFFFFF

/-- n bits of the link CRC's register, most significant bit first (R326). -/
def crc16Bits : Nat → BitVec 16 → BitVec 16
  | 0, r => r
  | n + 1, r => crc16Bits n (if r.getLsbD 15 then (r <<< 1) ^^^ 0x1021 else r <<< 1)

/-- One byte into the link CRC's register. -/
def crc16Byte (r : BitVec 16) (b : Byte) : BitVec 16 := crc16Bits 8 (r ^^^ (b.setWidth 16 <<< 8))

/-- The link CRC (R326): initial value 0xFFFF, no final XOR. -/
def crc16 (bs : List Byte) : BitVec 16 := bs.foldl crc16Byte 0xFFFF

/-- The n low bytes of a number, least significant first. -/
def leBytes : Nat → Nat → List Byte
  | 0, _ => []
  | n + 1, v => BitVec.ofNat 8 v :: leBytes n (v / 256)

/-- The number that bytes hold, least significant first. -/
def leNat : List Byte → Nat
  | [] => 0
  | b :: bs => b.toNat + 256 * leNat bs

end Sys2Proof.Machine
end

