-- ==== Sys2Proof/Machine/Sha256.lean ====
section
/-! DEFINITION. SHA-256 (FIPS 180-4), which the image header uses for the body and for the key digest (R427, R430). -/
namespace Sys2Proof.Machine
open Sys2Proof

/-! ### The constants: fractions of roots of primes (FIPS 180-4, 4.2.2 and 5.3.3) -/

/-- The largest r below 2^n with r^k at most x, added to what is found of it, from the top bit down. -/
def rootBits (k x : Nat) : Nat → Nat → Nat
  | 0, r => r
  | n + 1, r => rootBits k x n (if (r + 2 ^ n) ^ k ≤ x then r + 2 ^ n else r)

/-- The first 32 bits of the fraction of the k-th root of a number below 2^9. -/
def rootFraction (k p : Nat) : Word := BitVec.ofNat 32 (rootBits k (p * 2 ^ (32 * k)) 41 0)

/-- No number from 2 on divides n before n itself. -/
def isPrime (n : Nat) : Bool := decide (2 ≤ n) && (List.range' 2 (n - 2)).all fun d => n % d != 0

/-- The first n primes; 311 is the 64th. -/
def firstPrimes (n : Nat) : List Nat := ((List.range 312).filter isPrime).take n

/-- The round constants: the cube roots of the first 64 primes. -/
def shaRoundConstants : List Word := (firstPrimes 64).map (rootFraction 3)

/-- The eight chaining words. -/
structure ShaState where
  a : Word
  b : Word
  c : Word
  d : Word
  e : Word
  f : Word
  g : Word
  h : Word
  deriving DecidableEq, Repr

/-- The chaining word that stands at a place before the first block: the square root of that prime. -/
def shaFirst (i : Nat) : Word := rootFraction 2 ((firstPrimes 8).getD i 0)

/-- The initial chaining words. -/
def shaInit : ShaState :=
  { a := shaFirst 0, b := shaFirst 1, c := shaFirst 2, d := shaFirst 3, e := shaFirst 4, f := shaFirst 5, g := shaFirst 6, h := shaFirst 7 }

/-- Three rotations to the right, combined. -/
def rot3 (x : Word) (i j k : Nat) : Word := x.rotateRight i ^^^ x.rotateRight j ^^^ x.rotateRight k

/-- One round. -/
def shaRound (x : ShaState) (k w : Word) : ShaState :=
  let t1 := x.h + rot3 x.e 6 11 25 + ((x.e &&& x.f) ^^^ (~~~x.e &&& x.g)) + k + w
  let t2 := rot3 x.a 2 13 22 + ((x.a &&& x.b) ^^^ (x.a &&& x.c) ^^^ (x.b &&& x.c))
  ⟨t1 + t2, x.a, x.b, x.c, x.d + t1, x.e, x.f, x.g⟩

/-- The next word of the message schedule from the sixteen before it, newest first. -/
def shaNext (ws : List Word) : Word :=
  let w := fun (i : Nat) => ws.getD i 0
  let s0 := (w 14).rotateRight 7 ^^^ (w 14).rotateRight 18 ^^^ (w 14) >>> 3
  let s1 := (w 1).rotateRight 17 ^^^ (w 1).rotateRight 19 ^^^ (w 1) >>> 10
  s1 + w 6 + s0 + w 15

/-- n further words of the schedule, newest first. -/
def shaExtend : Nat → List Word → List Word
  | 0, ws => ws
  | n + 1, ws => shaExtend n (shaNext ws :: ws)

/-- A word from four bytes, the first the most significant. -/
def beWord (bs : List Byte) : Word := bs.foldl (fun (a : Word) b => (a <<< 8) ||| b.setWidth 32) 0

/-- The words of bytes, four to a word; the first argument bounds their number. -/
def beWords : Nat → List Byte → List Word
  | 0, _ => []
  | n + 1, bs => beWord (bs.take 4) :: beWords n (bs.drop 4)

/-- The four bytes of a word, most significant first. -/
def beBytes (w : Word) : List Byte := [(w >>> 24).setWidth 8, (w >>> 16).setWidth 8, (w >>> 8).setWidth 8, w.setWidth 8]

/-- One block of 64 bytes. -/
def shaBlock (x : ShaState) (bs : List Byte) : ShaState :=
  let ws := (shaExtend 48 (beWords 16 bs).reverse).reverse
  let y := (shaRoundConstants.zip ws).foldl (fun (s : ShaState) kw => shaRound s kw.1 kw.2) x
  ⟨x.a + y.a, x.b + y.b, x.c + y.c, x.d + y.d, x.e + y.e, x.f + y.f, x.g + y.g, x.h + y.h⟩

/-- n blocks in order. -/
def shaBlocks : Nat → ShaState → List Byte → ShaState
  | 0, x, _ => x
  | n + 1, x, bs => shaBlocks n (shaBlock x (bs.take 64)) (bs.drop 64)

/-- The message padded to whole blocks: a 1 bit, zeros, and its length in bits. -/
def shaPad (bs : List Byte) : List Byte :=
  let n := bs.length
  bs ++ 0x80 :: List.replicate ((119 - n % 64) % 64) 0 ++ beBytes (BitVec.ofNat 32 (8 * n / 4294967296)) ++ beBytes (BitVec.ofNat 32 (8 * n))

/-- SHA-256: 32 bytes. -/
def sha256 (bs : List Byte) : List Byte :=
  let p := shaPad bs
  let x := shaBlocks (p.length / 64) shaInit p
  [x.a, x.b, x.c, x.d, x.e, x.f, x.g, x.h].flatMap beBytes

end Sys2Proof.Machine
end

