-- ==== Sys2Proof/Machine/P256.lean ====
section
/-! DEFINITION. ECDSA verification on curve P-256 with SHA-256 (FIPS 186-4), which the image header uses for its signature (R427). -/
namespace Sys2Proof.Machine
open Sys2Proof

/-- The prime of the field. -/
def p256P : Nat := 0xffffffff00000001000000000000000000000000ffffffffffffffffffffffff

/-- The order of the base point. -/
def p256N : Nat := 0xffffffff00000000ffffffffffffffffbce6faada7179e84f3b9cac2fc632551

/-- The coefficient b; the coefficient a is -3. -/
def p256B : Nat := 0x5ac635d8aa3a93e7b3ebbd55769886bc651d06b0cc53b0f63bce3c3e27d2604b

/-- The base point. -/
def p256G : Nat × Nat :=
  (0x6b17d1f2e12c4247f8bce6e563a440f277037d812deb33a0f4a13945d898c296,
   0x4fe342e2fe1a7f9b8ee7eb4a7c0f9e162bce33576b315ececbb6406837bf51f5)

/-- x to the power k modulo m, by squaring; the first argument counts the bits of k. -/
def powMod (m : Nat) : Nat → Nat → Nat → Nat
  | 0, _, _ => 1 % m
  | n + 1, x, k =>
    let r := powMod m n (x * x % m) (k / 2)
    if k % 2 = 1 then r * x % m else r

/-- The inverse modulo a prime below 2^256. -/
def invMod (m x : Nat) : Nat := powMod m 256 (x % m) (m - 2)

/-- The difference modulo p. -/
def subP (a b : Nat) : Nat := (a + p256P - b % p256P) % p256P

/-- A point of the curve: its coordinates, or none for the point at infinity. -/
def onCurve (q : Nat × Nat) : Bool :=
  decide (q.1 < p256P) && decide (q.2 < p256P) &&
  q.2 * q.2 % p256P == subP (q.1 * q.1 % p256P * q.1 + p256B) (3 * q.1)

/-- The sum of two points. -/
def addPoint (x y : Option (Nat × Nat)) : Option (Nat × Nat) :=
  match x, y with
  | none, _ => y
  | some u, none => some u
  | some u, some v =>
    if u.1 = v.1 ∧ (u.2 + v.2) % p256P = 0 then none
    else
      let m := if u = v then subP (3 * u.1 * u.1) 3 * invMod p256P (2 * u.2) % p256P
        else subP v.2 u.2 * invMod p256P (subP v.1 u.1) % p256P
      let a := subP (subP (m * m) u.1) v.1
      some (a, subP (m * subP u.1 a) u.2)

/-- k times a point, by doubling; the first argument counts the bits of k. -/
def mulPoint : Nat → Nat → Option (Nat × Nat) → Option (Nat × Nat)
  | 0, _, _ => none
  | n + 1, k, q =>
    let r := mulPoint n (k / 2) (addPoint q q)
    if k % 2 = 1 then addPoint r q else r

/-- The number that bytes hold, most significant first. -/
def beNat (bs : List Byte) : Nat := bs.foldl (fun a b => 256 * a + b.toNat) 0

/-- The signature r, s over a message verifies under the public key x, y: 64 bytes each. -/
def ecdsaOk (key sig msg : List Byte) : Bool :=
  let q := (beNat (key.take 32), beNat (key.drop 32))
  let r := beNat (sig.take 32)
  let s := beNat (sig.drop 32)
  let w := invMod p256N s
  let z := beNat (sha256 msg)
  onCurve q && decide (1 ≤ r) && decide (r < p256N) && decide (1 ≤ s) && decide (s < p256N) &&
  match addPoint (mulPoint 256 (z * w % p256N) (some p256G)) (mulPoint 256 (r * w % p256N) (some q)) with
  | none => false
  | some u => u.1 % p256N == r

end Sys2Proof.Machine
end

