-- ==== Sys2Proof/Machine/WickRecords.lean ====
section
/-! DEFINITION. What the Wick array holds: the parameter window (R417), the records of its record region (R419, R426, R429), the
firmware images (R427) and the bytes of the OTP row (R404, R430). -/
namespace Sys2Proof.Machine
open Sys2Proof

/-! ### Descriptor fields (R409, R410) -/

/-- Opcode. -/
def WDesc.op (d : WDesc) : Nat := d.w0.toNat % 16
/-- Sector field. -/
def WDesc.sector (d : WDesc) : Nat := d.w0.toNat / 16 % 64
/-- First unit. -/
def WDesc.first (d : WDesc) : Nat := d.w0.toNat / 1024 % 8192
/-- Units addressed. -/
def WDesc.count (d : WDesc) : Nat := d.w0.toNat / 8388608 + 1
/-- The descriptor has not ended. -/
def WDesc.live (d : WDesc) : Bool := d.status.isNone

/-- Opcode numbers of R410. -/
def wopReadMargin : Nat := 1
/-- PROGRAM. -/
def wopProgram : Nat := 2
/-- ERASE. -/
def wopErase : Nat := 3
/-- ERASE_SUSPEND. -/
def wopSuspend : Nat := 4
/-- ERASE_RESUME. -/
def wopResume : Nat := 5
/-- OTP_PROGRAM. -/
def wopOtp : Nat := 6
/-- ROTATE. -/
def wopRotate : Nat := 7

/-! ### The window (R417) -/

/-- The physical parameter sector of a logical one. -/
def WickState.phys (w : WickState) (l : Nat) : Nat := (w.wbase + l) % 48

/-- A physical parameter sector is SUSPECT: nothing is read from it (R425). -/
def WickState.suspectP (w : WickState) (k : Nat) : Bool := w.suspect.any fun x => decide (16 ≤ x) && w.phys (x - 16) == k

/-- Logical sector l when the window stood at base, as a logical sector now. -/
def WickState.relog (w : WickState) (base l : Nat) : Nat := (base + l + 48 - w.wbase % 48) % 48

/-- The sector field of R409 when the window stood at base, as it names the same sector now. -/
def WickState.resector (w : WickState) (base x : Nat) : Nat := if x < 16 then x else 16 + w.relog base (x - 16)

/-- A physical parameter sector is not blank any more. -/
def WickState.useSector (w : WickState) (k : Nat) : WickState :=
  { w with usedP := if w.usedP.contains k then w.usedP else k :: w.usedP }

/-! ### Records (R419) -/

/-- Record kinds. -/
def recKey : Nat := 1
/-- The BOOT record. -/
def recBoot : Nat := 2
/-- The WEAR record. -/
def recWear : Nat := 3

/-- The 128 bytes of a record copy. -/
def WRec.bytes (r : WRec) : List Byte :=
  let head := leBytes 2 0x5752 ++ [BitVec.ofNat 8 r.kind, if r.copyB then 1 else 0] ++ leBytes 8 r.seq ++ r.body
  head ++ leBytes 4 (crc32c head).toNat

/-- The key generation of a KEY record. -/
def WRec.gen (r : WRec) : Nat := leNat (r.body.take 4)

/-- What decides between two copies of a kind: for KEY the key generation, then the sequence; otherwise the sequence. -/
def WRec.rank (r : WRec) : Nat × Nat := (if r.kind = recKey then r.gen else 0, r.seq)

/-- A copy can be read: it is intact and not in a SUSPECT sector (R425). -/
def WickState.reads (w : WickState) (r : WRec) : Bool := r.intact && !w.suspectP (r.place / 64)

/-- One copy decides over another. -/
def WRec.above (a b : WRec) : Bool := decide (b.rank.1 < a.rank.1) || (a.rank.1 == b.rank.1 && decide (b.rank.2 < a.rank.2))

/-- The copy that decides among some. -/
def topRec (rs : List WRec) : Option WRec :=
  rs.foldl (fun b r =>
    match b with
    | none => some r
    | some x => if r.above x then some r else b) none

/-- The newest copy A or B of a kind that can be read. -/
def WickState.copyOf (w : WickState) (kind : Nat) (copyB : Bool) : Option WRec :=
  topRec (w.recs.filter fun r => r.kind == kind && r.copyB == copyB && w.reads r)

/-- The live record of a kind, taken from either copy, from copy A where both stand. -/
def WickState.liveRec (w : WickState) (kind : Nat) : Option WRec :=
  match w.copyOf kind false, w.copyOf kind true with
  | some a, some b => if b.above a then some b else some a
  | some a, none => some a
  | none, b => b

/-- A copy is live: no copy of its kind decides over it. -/
def WickState.isLive (w : WickState) (r : WRec) : Bool :=
  w.reads r && (w.liveRec r.kind).any fun x => !x.above r

/-- The first free place of some logical sectors for a copy of a kind: not in a retired or SUSPECT sector, and not in one that holds
the live record of the other copy of its kind. -/
def WickState.freePlaceIn (w : WickState) (ls : List Nat) (kind : Nat) (copyB : Bool) : Option Nat :=
  let other := (w.copyOf kind (!copyB)).map fun r => r.place / 64
  (ls.flatMap fun l =>
    let k := w.phys l
    if w.retired.contains k || w.suspectP k || other == some k then []
    else (List.range' (64 * k) 64).filter fun p => !(w.recs.any fun r => r.place == p)).head?

/-- The logical sectors of a copy: 0 to 3 for copies A, 4 to 7 for copies B (R417). -/
def copySectors (copyB : Bool) : List Nat := if copyB then [4, 5, 6, 7] else [0, 1, 2, 3]

/-- The next free place for a copy of a kind. -/
def WickState.freePlace (w : WickState) (kind : Nat) (copyB : Bool) : Option Nat := w.freePlaceIn (copySectors copyB) kind copyB

/-- A copy is programmed at a place. -/
def WickState.placeRec (w : WickState) (r : WRec) (p : Nat) : WickState :=
  ({ w with recs := { r with place := p } :: w.recs } : WickState).useSector (p / 64)

/-- A copy is programmed in its next free place, or waits for a ROTATE. -/
def WickState.putCopy (w : WickState) (r : WRec) : WickState :=
  match w.freePlace r.kind r.copyB with
  | some p => w.placeRec r p
  | none => { w with recsDue := w.recsDue ++ [r] }

/-- The sequence of the next version of a kind. -/
def WickState.nextRec (w : WickState) (kind : Nat) : Nat :=
  (w.recs ++ w.recsDue).foldl (fun m r => if r.kind = kind then max m (r.seq + 1) else m) 1

/-- A new version of a record: copy A, then copy B. -/
def WickState.putRec (w : WickState) (kind : Nat) (body : List Byte) : WickState :=
  let r : WRec := { kind := kind, copyB := false, seq := w.nextRec kind, body := body, intact := true, place := 0 }
  (w.putCopy r).putCopy { r with copyB := true }

/-- The copies that wait are programmed where a place is free now. -/
def WickState.putDue (w : WickState) : WickState := w.recsDue.foldl WickState.putCopy { w with recsDue := [] }

/-- An erased sector holds no record and no anchor. -/
def WickState.wipeSector (w : WickState) (k : Nat) : WickState :=
  { w with recs := w.recs.filter fun r => r.place / 64 != k, anchors := w.anchors.filter fun a => a.place / 128 != k }

/-! ### WEAR (R419) -/

/-- The body of a WEAR record: the erase counts of the 48 physical parameter sectors in units of 2, and of the 16 large sectors in units
of 64. -/
def WickState.wearBody (w : WickState) : List Byte :=
  (List.range 48).flatMap (fun k => leBytes 2 (min (tget 0 w.wearP k / 2) 65535)) ++
  (List.range 16).flatMap fun k => leBytes 1 (min (tget 0 w.wearL k / 64) 255)

/-- A WEAR record is written. -/
def WickState.putWear (w : WickState) : WickState := { w.putRec recWear w.wearBody with sinceWear := 0 }

/-- An erase has ended; the 32nd since the last WEAR record writes the next. -/
def WickState.countErase (w : WickState) : WickState :=
  if 31 ≤ w.sinceWear then w.putWear else { w with sinceWear := w.sinceWear + 1 }

/-- A copy moves from a sector to the same slots of another (R418). -/
def WickState.copyRec (w : WickState) (dest : Nat) (r : WRec) : WickState := w.placeRec r (64 * dest + r.place % 64)

/-- Step 2 of a ROTATE: the live records of logical sector 0 are programmed into logical sector 8; where that is retired, into free slots
of logical sectors 1 to 7 (R418, R424). -/
def WickState.rotateRecs (w : WickState) : WickState :=
  let live := w.recs.filter fun r => r.place / 64 == w.phys 0 && w.isLive r
  live.foldr (fun r u =>
    if u.retired.contains (u.phys 8) then
      match u.freePlaceIn (List.range' 1 7) r.kind r.copyB with
      | some p => u.placeRec r p
      | none => { u with recsDue := u.recsDue ++ [r] }
    else u.copyRec (u.phys 8) r) w

/-! ### KEY (R101, R426) -/

/-- The body of a KEY record: the key generation and the wrapped key. -/
def keyBody (gen : Nat) (wrapped : List Byte) : List Byte :=
  let b := leBytes 4 gen ++ wrapped.take 72
  b ++ List.replicate (112 - b.length) 0

/-- Bytes 16 to 87 of a KEY record: the magazine key wrapped. -/
def WRec.wrapped (r : WRec) : List Byte := (r.body.drop 4).take 72

/-- The generation of KEY copy A; 0 if none is intact. -/
def WickState.keyA (w : WickState) : Nat := ((w.copyOf recKey false).map WRec.gen).getD 0

/-- The generation of KEY copy B; 0 if none is intact. -/
def WickState.keyB (w : WickState) : Nat := ((w.copyOf recKey true).map WRec.gen).getD 0

/-- The wrapped key of KEY copy A. -/
def WickState.wrapA (w : WickState) : List Byte := ((w.copyOf recKey false).map WRec.wrapped).getD []

/-- The wrapped key of KEY copy B. -/
def WickState.wrapB (w : WickState) : List Byte := ((w.copyOf recKey true).map WRec.wrapped).getD []

/-- The live wrapped key. -/
def WickState.liveKey (w : WickState) : List Byte := ((w.liveRec recKey).map WRec.wrapped).getD []

/-- Every unit of the KEY records below the highest generation is programmed to zeros: they are not intact any more (R426). -/
def WickState.zeroStale (w : WickState) : WickState :=
  let top := max w.keyA w.keyB
  let stale := fun (r : WRec) => r.kind == recKey && decide (r.gen < top)
  { w with recs := w.recs.map fun r => if stale r then { r with body := List.replicate 112 0, intact := false } else r
           recsDue := w.recsDue.filter fun r => !stale r }

/-- The key-wrap key: unit 3 of the OTP row, whose unprogrammed bits read as 1 (R101, R430). -/
def WickState.wrapKey (w : WickState) : List Byte := (List.range 32).map fun i => tget 0xFF w.otp (96 + i)

/-! ### BOOT (R429) -/

/-- The body of a BOOT record. -/
def BootRec.body (b : BootRec) : List Byte :=
  [if b.active then 1#8 else 0, if b.trial then 1 else 0, BitVec.ofNat 8 b.starts, 0] ++ leBytes 4 b.verA.toNat ++ leBytes 4 b.verB.toNat ++
  List.replicate 100 0

/-- What the body of a BOOT record says. -/
def bootOf (b : List Byte) : BootRec :=
  { active := b.getD 0 0 != 0, trial := (b.getD 1 0).getLsbD 0, starts := (b.getD 2 0).toNat
    verA := BitVec.ofNat 32 (leNat ((b.drop 4).take 4)), verB := BitVec.ofNat 32 (leNat ((b.drop 8).take 4)) }

/-- What the live BOOT record says. -/
def WickState.boot (w : WickState) : Option BootRec := (w.liveRec recBoot).map fun r => bootOf r.body

/-- A BOOT record is written. -/
def WickState.putBoot (w : WickState) (b : BootRec) : WickState := w.putRec recBoot b.body

/-! ### The OTP row (R404, R430) -/

/-- n bytes of the OTP row from a byte on: unprogrammed bits read as 1 (R404). -/
def WickState.otpBytes (w : WickState) (from_ n : Nat) : List Byte :=
  (List.range n).map fun i => tget 0xFF w.otp (from_ + i)

/-! ### Firmware images (R427) -/

/-- A unit of a slot that was programmed since its erase; none where it was not. -/
def WickState.slotUnit (w : WickState) (slotB : Bool) (u : Nat) : List Byte := tget [] w.lUnits ((if slotB then 65536 else 0) + u)

/-- n units of a slot from a unit on, where all of them were programmed. -/
def WickState.slotUnits (w : WickState) (slotB : Bool) (from_ n : Nat) : Option (List Byte) :=
  let us := (List.range' from_ n).map (w.slotUnit slotB)
  if us.any List.isEmpty then none else some us.flatten

/-- The header's own fields make an image valid: magic, length, CRC, key digest, and the signature over bytes 0 to 47. -/
def headerValid (digest h : List Byte) : Bool :=
  h.take 4 == [0x56, 0x47, 0x46, 0x57] && decide (256 + leNat ((h.drop 8).take 4) ≤ 2097152) &&
  leNat ((h.drop 252).take 4) == (crc32c (h.take 252)).toNat &&
  sha256 ((h.drop 112).take 64) == digest && ecdsaOk ((h.drop 112).take 64) ((h.drop 48).take 64) (h.take 48)

/-- The body has the hash that the header names. -/
def bodyValid (h body : List Byte) : Bool := sha256 (body.take (leNat ((h.drop 8).take 4))) == (h.drop 16).take 32

/-- The sectors of a slot: 0 to 7 for A, 8 to 15 for B (R427). -/
def inSlot (slotB : Bool) (sector : Nat) : Bool := if slotB then decide (8 ≤ sector) && decide (sector < 16) else decide (sector < 8)

/-- The image of a slot is valid: margin says that every unit passes its program-verify margin read; no sector of the slot has failed
(R434). Of a header or a body that the maker programmed, whose bytes are not listed, margin says whether it is valid as well (log 129); an
erased header is not. -/
def WickState.imageValid (w : WickState) (slotB margin : Bool) : Bool :=
  margin && !(w.badL.any (inSlot slotB)) &&
  match w.slotUnits slotB 0 8 with
  | none => !(w.blankL.contains (if slotB then 8 else 0)) && (List.range 8).all fun u => (w.slotUnit slotB u).isEmpty
  | some h =>
    headerValid (w.otpBytes 64 32) h &&
    match w.slotUnits slotB 8 ((leNat ((h.drop 8).take 4) + 31) / 32) with
    | none => true
    | some b => bodyValid h b

end Sys2Proof.Machine
end

