-- ==== Sys2Proof/Machine/Cipher.lean ====
section
/-! DEFINITION. What INTAKE stores of a piece: its trailer (R99), its encrypted blocks (R100), what read-out checks (R103), and the
magazine key in its wrapped form (R101, R426). -/
namespace Sys2Proof.Machine
open Sys2Proof

/-! ### The trailer and the blocks (R99, R100) -/

/-- First byte of a piece within its chunk (R99). -/
def Piece.first (p : Piece) : Nat := if p.unit.isSome then 0 else p.off % 4096

/-- The trailer of a piece (R99). -/
def Piece.trailer (p : Piece) : List Byte :=
  leBytes 4 p.crc.toNat ++ leBytes 2 p.first ++ leBytes 2 p.data.length ++ leBytes 4 (p.cycle % 4294967296) ++ leBytes 4 0

/-- The tweak of a piece's chunk (R100). -/
def Piece.tweak (p : Piece) : BitVec 128 :=
  match p.unit with
  | none => (BitVec.ofNat 52 p.epoch).setWidth 128 <<< 74 ||| (BitVec.ofNat 10 p.stream).setWidth 128 <<< 64 |||
      (BitVec.ofNat 64 (p.off / 4096)).setWidth 128
  | some u => 1#128 <<< 126 ||| (BitVec.ofNat 64 u).setWidth 128

/-- The whole data blocks that a piece touches: the bytes outside the piece are zero (R100). -/
def Piece.blocks (p : Piece) : List (List Byte) :=
  let lead := p.first % 16
  let n := (lead + p.data.length + 15) / 16
  chunksOf 16 n (List.replicate lead 0 ++ p.data ++ List.replicate (16 * n - lead - p.data.length) 0)

/-- Blocks of a data unit from number j on, encrypted. -/
def xtsEncAll (key : List Byte) (tweak : BitVec 128) : Nat → List (List Byte) → List Byte
  | _, [] => []
  | j, b :: bs => xtsEnc key tweak j b ++ xtsEncAll key tweak (j + 1) bs

/-- n blocks of a data unit from number j on, decrypted. -/
def xtsDecAll (key : List Byte) (tweak : BitVec 128) : Nat → Nat → List Byte → List Byte
  | 0, _, _ => []
  | n + 1, j, bs => xtsDec key tweak j (bs.take 16) ++ xtsDecAll key tweak n (j + 1) (bs.drop 16)

/-- What the Tun and the flash hold of a piece: its data blocks and its trailer, encrypted; the trailer is block 256 + (first byte of
the piece) (R100). -/
def Piece.stored (p : Piece) (key : List Byte) : List Byte :=
  xtsEncAll key p.tweak (p.first / 16) p.blocks ++ xtsEnc key p.tweak (256 + p.first) p.trailer

/-- What read-out makes of bytes that came back for a piece: decrypted, the CRC recomputed and compared with the trailer, and the
trailer's first byte, length and cycle compared with what the map expects (R103). No answer: a CRC failure (R21). -/
def Piece.readBack (p : Piece) (key bytes : List Byte) : Option (List Byte) :=
  let n := p.blocks.length
  let plain := xtsDecAll key p.tweak n (p.first / 16) bytes
  let data := (plain.drop (p.first % 16)).take p.data.length
  let t := xtsDec key p.tweak (256 + p.first) (bytes.drop (16 * n))
  if t.take 4 = leBytes 4 (crc32c data).toNat ∧ (t.drop 4).take 8 = (p.trailer.drop 4).take 8 then some data else none

/-! ### The magazine key (R101, R426) -/

/-- The 64 bytes that the random source gives for the magazine key at a draw (R101). -/
def keyBytes (draw : Nat) : List Byte := leBytes 64 (Config.magazineKey draw).toNat

/-- A new magazine key of a generation: drawn, in use in INTAKE, and stored wrapped in both KEY records; then the records of the
older generation are programmed to zeros (R101, R102, R426). -/
def State.newKey (s : State) (gen : Nat) : State :=
  let k := keyBytes s.draws
  let w := keyWrap s.wick.wrapKey k
  let s1 := s.onWick fun x => (x.putRec recKey (keyBody gen w)).zeroStale
  let s2 := s1.onIntake fun t => { t with keyGen := gen, keyReady := true, key := k }
  { s2 with draws := s2.draws + 1 }

/-- INTAKE unwraps the magazine key (R101). -/
def State.unwrapKey (s : State) : State :=
  let gen := max s.wick.keyA s.wick.keyB
  if gen = 0 then s.onIntake fun t => { t with keyGen := 0, keyReady := false, key := [] }
  else
    let k := keyUnwrap s.wick.wrapKey s.wick.liveKey
    s.onIntake fun t => { t with keyGen := gen, keyReady := k.isSome, key := k.getD [] }

end Sys2Proof.Machine
end

