-- ==== Sys2Proof/Machine/Streams.lean ====
section
/-! DEFINITION. The stream table's operations: closes and force-closes (R59 to R65), the taking of bytes into pieces
(R97, R98), the classes of an aperture write (R76, R77), faults of a stream (R80), and the acknowledgement of the Tun
(R78). -/
namespace Sys2Proof.Machine
open Sys2Proof

/-! ### What the next cask must say of a stream (R124) -/

/-- Bits of cask byte 3 (R124). -/
inductive SFlag where
  | late | ended | resumed | deleted | opened | faulted | classChanged | trimmed
  deriving DecidableEq, Repr

/-- The bit of a flag; a trim has none of its own. -/
def sflagBits : SFlag → Nat
  | .late => 1 | .ended => 2 | .resumed => 4 | .deleted => 8 | .opened => 16 | .faulted => 32 | .classChanged => 64
  | .trimmed => 0

/-- A table field changed during cycle n: the flags collect, and bit 8 says that the stream has an entry. -/
def Stream.note (e : Stream) (n : Nat) (f : SFlag) : Stream :=
  { e with changed := tset 0 e.changed n (256 ||| tget 0 e.changed n ||| sflagBits f) }

/-- A table field of stream i changed during the current cycle. -/
def State.noteChange (s : State) (i : Nat) (f : SFlag) : State := s.modStream i fun e => e.note s.lamp.cycle f

/-! ### Cuts and closes -/

/-- The chunk is cut at the frontier: the next byte begins a new piece (R97). -/
def Stream.cut (e : Stream) : Stream := { e with pieceStart := e.front, crc := 0xFFFFFFFF, partialBlk := [] }

/-- The stream's open cycle is closed at the frontier of now (R60, R125 step 1); n is the new open cycle. -/
def Stream.closeTo (e : Stream) (c n : Nat) : Stream :=
  let b := tget 0 e.credited e.openCycle
  { e.cut with
    closes := if b = 0 then e.closes else tset 0 e.closes e.openCycle e.front
    lastBytes := if c = e.openCycle then b else 0
    openCycle := n }

/-- Cycles o to c are closed for the stream (R60). -/
def State.applyClose (s : State) (i c : Nat) : State :=
  (s.modStream i fun e => e.closeTo c (c + 1)).mirrorEvent i

/-- What a close doorbell write of cycle c does (R60, R65). -/
inductive CloseKind where
  | repeated | applied | ahead
  deriving DecidableEq, Repr

/-- The stream has no open cycle: it is CLOSED or FAULTED, or DRAINING after a fault (R65). -/
def Stream.noOpen (e : Stream) : Bool := e.closedAll || !(e.st = .open || e.st = .draining)

/-- The row of R60 that a doorbell write of c takes. -/
def State.closeKind (s : State) (i c : Nat) : CloseKind :=
  let e := s.stream i
  if !e.noOpen then
    if c < e.openCycle then .repeated else if c ≤ s.lamp.cycle then .applied else .ahead
  else .repeated

/-- A close doorbell write of 8 bytes (R60). -/
def State.closeDoorbell (s : State) (i c : Nat) : State :=
  match s.closeKind i c with
  | .repeated => s.count32 0x26 1
  | .applied => s.applyClose i c
  | .ahead => (s.modStream i fun e => { e with fault := e.fault ||| 0x20 }).count32 0x27 1

/-- The stream closes every cycle up to the current one, as END does (R81). -/
def State.closeUpTo (s : State) (i : Nat) : State :=
  if (s.stream i).openCycle ≤ s.lamp.cycle then s.applyClose i s.lamp.cycle else s

/-- Whether R63 closes stream e for the cycles before n. -/
def Stream.overdue (e : Stream) (n : Nat) : Bool :=
  !e.noOpen && decide (e.openCycle < n)

/-- The stream had bytes credited to its open cycle: the force-close is late (R63). -/
def Stream.lateNow (e : Stream) : Bool := tget 0 e.credited e.openCycle != 0

/-- One stream's force-close: its open cycle becomes n (R63). -/
def Stream.forceClose (e : Stream) (n : Nat) (due : Bool) : Stream :=
  if e.overdue n then
    let o := e.openCycle
    let e1 := e.closeTo o n
    let e2 := if e.lateNow then
        { (e1.note o .late) with fault := e1.fault ||| 0x10, late := o :: e1.late } else e1
    { e2 with mirrorDue := e2.mirrorDue || (e2.mirrorEn && due) }
  else e

/-- Every OPEN or DRAINING stream whose open cycle lies before n is force-closed and takes n (R63, R64). -/
def State.forceCloses (s : State) (n : Nat) : State :=
  let k := (s.intake.streams.filter fun x => x.2.overdue n && x.2.lateNow).length
  (s.mapStreams fun _ e => e.forceClose n (s.host.mirrorBase != 0)).count32 0x25 k

/-! ### Faults of a stream -/

/-- The stream becomes FAULTED: its open cycle is closed at the frontier without an advance, its chunk cut (R65). -/
def State.faultStream (s : State) (i : Nat) (bit : BitVec 9) : State :=
  ((s.modStream i fun e =>
    { (e.closeTo e.openCycle e.openCycle).note s.lamp.cycle .faulted with
      fault := e.fault ||| bit, closedAll := true, resumeDue := false }).setSState i .faulted)

/-- CONTAIN for a stream (R80). -/
def State.containStream (s : State) (i : Nat) : State :=
  match (s.stream i).st with
  | .open | .draining => s.faultStream i 0x80
  | .faulted | .closed => s.modStream i fun e => { e with fault := e.fault ||| 0x80 }
  | .free => s.modStream i fun e => { e with epochLost := true }

/-! ### Taking bytes -/

/-- Whether p is the piece at the frontier of stream i, as the Tun holds it. -/
def Piece.isOpen (p : Piece) (i epoch start : Nat) : Bool :=
  p.inTun && p.unit.isNone && decide (p.stream = i) && decide (p.epoch = epoch) && decide (p.off = start)

/-- The piece grows in the Tun: its CRC covers the accepted prefix (R98). What was programmed of it before (R109) stays on
flash as a copy of the shorter piece. -/
def Piece.grow (p : Piece) (bs : List Byte) (crc : Word) (staged : Bool) : List Piece :=
  let q := { p with data := p.data ++ bs, crc := crc, staged := p.staged || staged, loc := none, spill := none, spillOk := false,
                    done := false, noted := false, fixed := false }
  if p.done then [{ p with inTun := false }, q] else [q]

/-- The plaintext that INTAKE holds of the partial 16-byte block at the frontier (R71). -/
def partialOf (held bs : List Byte) (front : Nat) : List Byte :=
  let all := held ++ bs
  all.drop (all.length - min all.length (front % 16))

/-- Bytes of one chunk, taken at the frontier of stream i (R97, R98). -/
def State.takeSeg (s : State) (i : Nat) (bs : List Byte) (staged : Bool) : State :=
  let e := s.stream i
  let f := e.front + bs.length
  let r := crc32cRun e.crc bs
  let crc := r ^^^ 0xFFFFFFFF
  let ps :=
    if e.pieceStart < e.front then
      s.place.pieces.flatMap fun p => if p.isOpen i e.epoch e.pieceStart then p.grow bs crc staged else [p]
    else s.place.pieces ++
      [{ unit := none, stream := i, epoch := e.epoch, off := e.front, data := bs, crc := crc, cycle := e.openCycle,
         keyGen := s.intake.keyGen, staged := staged, fixed := false, loc := none, done := false, noted := false, inTun := true,
         spill := none, spillOk := false, seq := 0, src := none }]
  let start := if e.pieceStart < e.front then e.pieceStart else e.front
  let e1 := { e with front := f, pieceStart := start, crc := r, partialBlk := partialOf e.partialBlk bs f }
  (s.onPlace fun p => { p with pieces := ps }).setStream i (if f % 4096 = 0 then e1.cut else e1)

/-- Bytes taken chunk by chunk; n bounds the number of chunks touched. -/
def State.takeSegs : Nat → State → Nat → List Byte → Bool → State
  | 0, s, _, _, _ => s
  | n + 1, s, i, bs, staged =>
    if bs.isEmpty then s
    else
      let k := 4096 - (s.stream i).front % 4096
      State.takeSegs n (s.takeSeg i (bs.take k) staged) i (bs.drop k) staged

/-- Bytes are credited to the open cycle; the first excess over the quota is said once (R59, R96). -/
def State.credit (s : State) (i n : Nat) : State :=
  let e := s.stream i
  let c := tget 0 e.credited e.openCycle + n
  let say := decide (0 < e.quota) && decide (e.quota * 4096 < c) && !e.quotaSaid.contains e.openCycle
  let s1 := s.modStream i fun e => { e with
    credited := tset 0 e.credited e.openCycle c
    fault := if say then e.fault ||| 0x40 else e.fault
    quotaSaid := if say then e.openCycle :: e.quotaSaid else e.quotaSaid }
  if say then (s1.raise .overQuota).count32 0x29 1 else s1

/-- The stream is over its quota in its open cycle (R96). -/
def Stream.overQuota (e : Stream) : Bool :=
  decide (0 < e.quota) && decide (e.quota * 4096 < tget 0 e.credited e.openCycle)

/-- INTAKE takes bytes at the frontier: they are credited, cut into chunks and written to the Tun (R59, R78, R97). Pieces
of a stream over quota, and all pieces in write-through, go to staging (R211). -/
def State.takeBytes (s : State) (i : Nat) (bs : List Byte) : State :=
  let f := (s.stream i).front
  let s1 := s.credit i bs.length
  let staged := (s1.stream i).overQuota || s1.writeThrough
  let s2 := State.takeSegs (bs.length / 4096 + 2) s1 i bs staged
  s2.onIntake fun t => { t with unacked := t.unacked ++ [(i, f, f + bs.length)] }

/-! ### Aperture writes (R75 to R78) -/

/-- The 64-bit offset of a write from its aperture offset a and the frontier F (R76). -/
def reconstruct (f a : Nat) : Nat :=
  let l := f - 2097152
  l + (a + 4194304 - l % 4194304) % 4194304

/-- The classes of R77. -/
inductive WClass where
  | isNew | stale | trimmed | overlap | gap
  deriving DecidableEq, Repr

/-- The class of a write of n bytes at s to an OPEN stream with frontier f (R77). -/
def classify (f s n : Nat) (replay : Bool) : WClass :=
  if s = f then .isNew
  else if f < s then .gap
  else if s + n ≤ f then .stale
  else if replay then .trimmed else .overlap

/-- A poisoned write to a stream (R296): attention is raised once for each open cycle. -/
def State.poisonStream (s : State) (i : Nat) : State :=
  let said := (s.stream i).poisonSaid.contains (s.stream i).openCycle
  let s1 := s.modStream i fun e => { e with
    fault := e.fault ||| 0x100, poisonSaid := if said then e.poisonSaid else e.openCycle :: e.poisonSaid }
  if said then s1 else s1.raise .streamPoison

/-- A write that finds no OPEN stream: discarded, counted, ST_FAULT.DISCARD set (R77). -/
def State.discardWrite (s : State) (i n : Nat) : State :=
  (s.modStream i fun e => { e with fault := e.fault ||| 0x08 }).count64 0x22 n

/-- A write to an OPEN stream: its class decides (R77, R80). -/
def State.openClass (s : State) (i st : Nat) (bs : List Byte) (c : WClass) : State :=
  match c with
  | .isNew => (s.modStream i fun e => { e with replay := false }).takeBytes i bs
  | .stale => (s.modStream i fun e => { e with fault := e.fault ||| 0x04 }).count64 0x20 bs.length
  | .trimmed =>
    let k := (s.stream i).front - st
    ((s.modStream i fun e => { e with replay := false }).count64 0x20 k).takeBytes i (bs.drop k)
  | .overlap => (((s.faultStream i 0x02).raise .streamFault).count32 0x24 1)
  | .gap => (((s.faultStream i 0x01).raise .streamFault).count32 0x24 1)

/-- A write at aperture offset a to an OPEN stream: its place, its class, and what that class does (R76, R77). -/
def State.openWrite (s : State) (i a : Nat) (bs : List Byte) : State :=
  let e := s.stream i
  let st := reconstruct e.front a
  s.openClass i st bs (classify e.front st bs.length e.replay)

/-- One posted write to stream i at aperture offset a (R77, R296): the credits it took are free again or stand as pieces. -/
def State.streamWrite (s : State) (i a : Nat) (bs : List Byte) (mse ep : Bool) : State :=
  if bs.isEmpty then s
  else
    let s1 := if ep then s.poisonStream i else s
    if mse && (s1.stream i).st = .open then s1.openWrite i a bs else s1.discardWrite i bs.length

/-! ### The Tun's acknowledgement (R78) -/

/-- Where the bytes of stream i that the Tun has acknowledged end. -/
def State.ackedEnd (s : State) (i : Nat) : Nat :=
  match s.intake.unacked.find? fun w => w.1 = i with
  | some w => w.2.1
  | none => (s.stream i).front

/-- ST_ACCEPT moves up to f; crossing a multiple of 64 KiB is a mirror event (R93). -/
def State.moveAccept (s : State) (i f : Nat) : State :=
  let a := (s.stream i).accept
  if f ≤ a then s
  else
    let s1 := s.modStream i fun e => { e with accept := f }
    if a / 65536 < f / 65536 then s1.mirrorEvent i else s1

/-- TUN has acknowledged every byte of a piece: stage 6 has finished for it (R18). -/
def State.tunHas (s : State) (p : Piece) : Bool :=
  p.unit.isSome || decide (p.epoch ≠ (s.stream p.stream).epoch) || decide (p.off + p.data.length ≤ s.ackedEnd p.stream)

/-- The oldest unacknowledged write of stream i leaves the list. -/
def dropFirst (i : Nat) : List (Nat × Nat × Nat) → List (Nat × Nat × Nat)
  | [] => []
  | w :: ws => if w.1 = i then ws else w :: dropFirst i ws

/-- ST_ACCEPT of stream i is held for a through note: write-through is in force, or its last flush is still owed (R109). -/
def State.acceptHeld (s : State) (i : Nat) : Bool := s.writeThrough || s.intake.wtTail.any fun x => x.1 == i

/-- TUN acknowledges the oldest write of stream i (R15, R19, R78). -/
def State.tunAck (s : State) (i : Nat) : State :=
  let s1 := s.onIntake fun t => { t with unacked := dropFirst i t.unacked }
  if s1.acceptHeld i then s1 else s1.moveAccept i (s1.ackedEnd i)

/-- ST_ACCEPT of every stream takes the acknowledged end: outside write-through (R78). -/
def State.settleAll (s : State) : State :=
  s.intake.streams.foldl (fun t x => if t.acceptHeld x.1 then t else t.moveAccept x.1 (t.ackedEnd x.1)) s

/-- A DRAINING stream whose every accepted byte is durable (R81, R125). -/
def Stream.drained (e : Stream) : Bool := e.st = .draining && e.durable = e.accept

/-- Stream i begins anew, or leaves the table: no write, flush or frontier of its old epoch counts for it any more (R19, R74, R109). -/
def State.forgetStream (s : State) (i : Nat) : State :=
  s.onIntake fun t => { t with
    unacked := t.unacked.filter fun w => w.1 ≠ i
    flushes := t.flushes.map fun f => f.filter fun x => x.1 ≠ i
    wtTail := t.wtTail.filter fun x => x.1 ≠ i }

/-- DRAINING streams whose last accepted byte is durable become CLOSED (R81). -/
def State.closeDrained (s : State) : State :=
  let due := s.host.mirrorBase != 0
  s.mapStreams fun _ e =>
    if e.drained then { e with st := .closed, mirrorDue := e.mirrorDue || (e.mirrorEn && due) } else e

end Sys2Proof.Machine
end

