-- ==== Sys2Proof/Machine/Media.lean ====
section
/-! DEFINITION. The media engine: descriptor queues (R164 to R170), power tokens (R186 to R189), channel states (R161),
and the failure of blocks, dies and channels (R190 to R194). -/
namespace Sys2Proof.Machine
open Sys2Proof

/-! ### Descriptors -/

/-- The opcodes of R166. -/
inductive MOp where
  | read | program | parity | erase | markRead | feature | resetDie
  deriving DecidableEq, Repr

/-- The opcode a byte names (R166). -/
def mopOf (b : Byte) : Option MOp :=
  match b.toNat with
  | 1 => some .read | 2 => some .program | 3 => some .parity | 4 => some .erase | 5 => some .markRead
  | 6 => some .feature | 7 => some .resetDie
  | _ => none

/-- The code of an opcode (R166). -/
def mopCode : MOp → Byte
  | .read => 1 | .program => 2 | .parity => 3 | .erase => 4 | .markRead => 5 | .feature => 6 | .resetDie => 7

/-- The status codes of R169. -/
inductive MStatus where
  | ok | okRetry | okSoft | okRebuilt | erased | uncorrectable | misplaced | programFail | eraseFail | timeout | dieRetired
  | channelFailed | aborted | refused | badMark
  deriving DecidableEq, Repr

/-- Codes of R169. -/
def mstatusCode : MStatus → Byte
  | .ok => 0x00 | .okRetry => 0x01 | .okSoft => 0x02 | .okRebuilt => 0x03 | .erased => 0x04 | .uncorrectable => 0x10
  | .misplaced => 0x11 | .programFail => 0x12 | .eraseFail => 0x13 | .timeout => 0x14 | .dieRetired => 0x15
  | .channelFailed => 0x16 | .aborted => 0x17 | .refused => 0x18 | .badMark => 0x19

/-- A SNUFF descriptor: its submitting unit index is 11 (R165). -/
def snuffDesc (d : MDesc) : Bool := d.submitter == 11

/-- The queue entry of a slot. -/
def Channel.entry (c : Channel) (slot : Nat) : Option QEntry := c.queue.find? fun e => e.slot = slot

/-- Change the entry of a slot. -/
def Channel.modEntry (c : Channel) (slot : Nat) (f : QEntry → QEntry) : Channel :=
  { c with queue := c.queue.map fun e => if e.slot = slot then f e else e }

/-- The lowest entry index that is free for a submitter: 240 to 255 take SNUFF descriptors only (R164). -/
def Channel.freeSlot (c : Channel) (snuff : Bool) : Option Nat :=
  (List.range (if snuff then 256 else 240)).find? fun i => (c.entry i).isNone

/-- The queue entry of a new descriptor. -/
def newEntry (slot : Nat) (d : MDesc) (order : Nat) : QEntry :=
  { slot := slot, d := d, order := order, phase := .queued, aged := false, status := none, rung := 0, corr := 0
    held := false, climbed := false, fan := [], soft := 0, comp := none }

/-- A descriptor takes the lowest entry that is free for it, or its submitter waits (R164). -/
def State.enter (s : State) (ch : Nat) (d : MDesc) : State :=
  match (s.chan ch).freeSlot (snuffDesc d) with
  | none => s.modChan ch fun c => { c with waits := c.waits ++ [d] }
  | some i =>
    (s.modChan ch fun c => { c with queue := c.queue ++ [newEntry i d s.media.orderNext] }).onMedia
      fun m => { m with orderNext := m.orderNext + 1 }

/-- The submitters that wait for an entry of channel ch try again, the oldest first (R164). -/
def State.letIn (s : State) (ch : Nat) : State :=
  (s.chan ch).waits.foldl (fun t d => t.enter ch d) (s.modChan ch fun c => { c with waits := [] })

/-- A descriptor is submitted after those whose submitters already wait (R164). -/
def State.submit (s : State) (ch : Nat) (d : MDesc) : State :=
  ((s.modChan ch fun c => { c with waits := c.waits ++ [d] }).letIn ch).onMedia fun m => { m with tagNext := m.tagNext + 1 }

/-- SLC-mode program and read are a feature of the profile (R154). -/
def profHasSlc (p : Profile) : Bool := p.slcMode.isSome

/-- The planes of one die (R154, R165). -/
def planeMask (p : Profile) : BitVec 8 := BitVec.ofNat 8 (2 ^ p.planes - 1)

/-- Codewords of one wordline in the mode of a descriptor (R154, R205). -/
def descCu (p : Profile) (d : MDesc) : Nat := profCu p (d.mode = 1)

/-- The address of a descriptor lies in the geometry of the profile: block, wordline, planes, and the codewords of a READ or a
PROGRAM (R166). -/
def inGeometry (p : Profile) (d : MDesc) : Bool :=
  decide (d.block.toNat < p.blocks) && decide (d.wl.toNat < p.wordlines) && d.planes &&& ~~~planeMask p == 0 &&
  match mopOf d.op with
  | some .read | some .program => decide (d.cwFirst.toNat + d.cwCount.toNat ≤ descCu p d)
  | _ => true

/-- A descriptor is valid (R166): its opcode, its die, its address and its mode. The mode codes 2 and 3, which R165 does not
define, make it invalid (DESIGN CHOICE, log 103). -/
def descValid (p : Profile) (die : DieCode) (d : MDesc) : Bool :=
  (mopOf d.op).isSome && (die == .active || die == .retired) && inGeometry p d &&
  (d.mode == 0 || (d.mode == 1 && (profHasSlc p || p.bits == 1)))

/-! ### Tokens (R186 to R189) -/

/-- The array cost of an operation in mW (R187). -/
def opCost (p : Profile) (d : MDesc) : Nat :=
  match mopOf d.op with
  | some .program | some .parity =>
    if d.mode = 1 ∨ p.bits = 1 then 120 else if p.bits = 3 then 105 else 95
  | some .read | some .markRead => 60
  | some .erase => 80
  | some .feature | some .resetDie | none => 0

/-- MT/s of a rate code (R161). -/
def rateMTs (r : Nat) : Nat :=
  match r with
  | 1 => 1600 | 2 => 2400 | 3 => 3200 | 4 => 3600
  | _ => 0

/-- The entry moves data over its channels: a program or parity from its start to its confirm, a READ from the end of its array work to its
completion (R187; log 18). -/
def QEntry.transfers (e : QEntry) : Bool :=
  e.phase = .started &&
  match mopOf e.d.op with
  | some .program | some .parity => e.status.isNone
  | some .read => e.status.isSome
  | _ => false

/-- The entry holds an array token: a program or parity from its confirm to its ready status, any other from its start until its array
work ends; a suspended erase holds none (R187; log 18). -/
def QEntry.holdsToken (e : QEntry) : Bool :=
  e.phase = .started && !e.held &&
  match mopOf e.d.op with
  | some .program | some .parity => e.status.isSome
  | _ => e.status.isNone

/-- The array operations of an entry on channel ch, as (channel, die, cost): a read that has reached rung 18 reads the row's other dies
instead of its own (R182, R187). -/
def QEntry.ops (p : Profile) (ch : Nat) (e : QEntry) : List (Nat × Nat × Nat) :=
  if !e.holdsToken then []
  else if e.climbed then e.fan.map fun f => (f.1, f.2, opCost p e.d)
  else if opCost p e.d = 0 then [] else [(ch, e.d.die.toNat, opCost p e.d)]

/-- The channels over which an entry of channel ch moves data. -/
def QEntry.wires (ch : Nat) (e : QEntry) : List Nat :=
  if !e.transfers then [] else if e.climbed then e.fan.map Prod.fst else [ch]

/-- The token sum of some channels in mW: the operations in progress, the transfers, and the idle charge of every die that is
ACTIVE or RETIRED and holds no operation token (R186, R187). -/
def tokens (p : Profile) (chans : Sparse Channel) : Nat :=
  let ops := chans.flatMap fun x => x.2.queue.flatMap (QEntry.ops p x.1)
  let wires := chans.flatMap fun x => x.2.queue.flatMap (QEntry.wires x.1)
  sumBy (fun o => o.2.2) ops +
  sumBy (fun x => if wires.contains x.1 then 900 * rateMTs x.2.rate / 3600 else 0) chans +
  sumBy (fun x => 5 * (x.2.dies.filter fun d =>
    (d.2 = .active || d.2 = .retired) && !ops.any fun o => o.1 = x.1 && o.2.1 = d.1).length) chans

/-- The token sum (R186). -/
def State.tokenSum (s : State) : Nat :=
  match s.media.profile with
  | none => 0
  | some p => tokens p s.media.chans

/-- The budget in force, in mW: 24 W during a flush (R275), else the lower of FLASH_BUDGET and the thermal limit (R258). -/
def State.budgetMw (s : State) : Nat :=
  if s.snuff.trigger.isSome then 24000 else min (250 * s.power.budget) s.power.thermal

/-- An operation that takes the channels to chans may start: the sum is within the budget before and after (R186, R189). -/
def State.affords (s : State) (chans : Sparse Channel) : Bool :=
  match s.media.profile with
  | none => true
  | some p => decide (tokens p s.media.chans ≤ s.budgetMw) && decide (tokens p chans ≤ s.budgetMw)

/-! ### Starting (R167, R188) -/

/-- A READ: served by rebuild where its channel is QUIESCED or FAILED, or its die RETIRED (R163, R192). -/
def QEntry.isRead (e : QEntry) : Bool := mopOf e.d.op = some .read

/-- A program or an erase: what MEDIA holds while a channel is QUIESCED (R163). -/
def QEntry.writes (e : QEntry) : Bool :=
  match mopOf e.d.op with
  | some .program | some .parity | some .erase => true
  | _ => false

/-- The channel starts descriptors like this one: every one while ACTIVE, all but programs and erases while QUIESCED, reads while
FAILED (R163, R192). -/
def Channel.takes (c : Channel) (e : QEntry) : Bool :=
  c.st = .active || (c.st = .quiesced && !e.writes) || (c.st = .failed && e.isRead)

/-- The read is served by rebuild, as if its die were unreadable (R163, R192). -/
def Channel.rebuilds (c : Channel) (e : QEntry) : Bool :=
  e.isRead && (c.st ≠ .active || tget DieCode.absent c.dies e.d.die.toNat = .retired)

/-- a stands before b in the queue order. -/
def QEntry.earlier (a b : QEntry) : Bool := decide (a.order < b.order) || (a.order == b.order && decide (a.slot < b.slot))

/-- The die order of R167 lets entry e start on channel c. A read that is served by rebuild does not use the die. -/
def dieOrder (p : Profile) (c : Channel) (e : QEntry) : Bool :=
  c.rebuilds e || c.queue.all fun x =>
    if x.slot = e.slot ∨ x.d.die ≠ e.d.die ∨ x.phase = .ended ∨ (x.phase = .queued ∧ e.earlier x) then true
    else
      match mopOf e.d.op, mopOf x.d.op, x.phase with
      | some .read, some .erase, .started =>
        p.suspend.isSome && decide (e.d.cls.toNat ≤ 3)
      | some .read, some .program, .queued => x.d.block != e.d.block
      | some .read, some .erase, .queued => x.d.block != e.d.block
      | _, _, _ => false

/-- The parity channel of band b (R172). -/
def parityChan (b : Nat) (members : List Nat) : Nat :=
  let p0 := (b / 16 + b % 16) % 32
  match members.find? fun c => p0 ≤ c with
  | some c => c
  | none => members.headD 0

/-- The data slots of band b, in slot order (R172). -/
def dataSlots (b : Nat) (members : List Nat) : List Nat :=
  let p := parityChan b members
  (members.filter fun c => p < c) ++ members.filter fun c => c < p

/-- Member channels of a band. -/
def Band.channels (x : Band) : List Nat := x.members.map Prod.fst

/-- Member channels whose slots number the units of a row: a dropped member is none from the first row in which no codeword had been placed
(R178, R205). -/
def Band.membersAt (x : Band) (row : Nat) : List Nat :=
  x.channels.filter fun c => !(x.drops.any fun d => d.1 = c && decide (d.2 ≤ row))

/-- A member has failed before a row: it is dropped for that row and every later one (R178). -/
def Band.failedAt (x : Band) (row c : Nat) : Bool := x.fails.any fun d => d.1 == c && decide (d.2 ≤ row)

/-- The parity channel of a band's row. -/
def Band.parityAt (x : Band) (b row : Nat) : Nat := parityChan b (x.membersAt row)

/-- The other units of a row that hold something, as (channel, die): the programmed units of band b but that of channel ch, and the parity
unit once it is programmed; of a journal page, its mirror copy on the channel 16 away (R117, R173, R182). -/
def State.mates (s : State) (b row ch : Nat) : List (Nat × Nat) :=
  let x := tget bandNone s.place.bands b
  let units := (x.units.filter fun u => u.1 = row).map Prod.snd
  let at_ := if x.pool = .journal then units.filter fun c => c % 16 = ch % 16
    else units ++ if x.parity.contains row then [x.parityAt b row] else []
  (at_.filter fun c => c ≠ ch).map fun c => (c, b % 16)

/-- A row can be rebuilt: a journal page has its mirror copy; another row has its parity unit, or, while it is incomplete, the accumulator
that replaces it (R182). -/
def State.rowCovered (s : State) (b row ch : Nat) : Bool :=
  let x := tget bandNone s.place.bands b
  if x.pool = .journal then !(s.mates b row ch).isEmpty
  else x.parityAt b row == ch || x.parity.contains row || x.accs.contains row

/-- Channel c as the start of entry e leaves it: e runs, an erase on its die is suspended for a READ (R167), and a read that is
served by rebuild reads the row's other dies (rung 18). -/
def State.started (s : State) (c : Channel) (ch : Nat) (e : QEntry) : Channel :=
  let rb := c.rebuilds e
  { c with queue := c.queue.map fun x =>
      if x.slot = e.slot then
        { x with phase := .started, climbed := rb, fan := if rb then s.mates e.d.band.toNat e.d.wl.toNat ch else [] }
      else if !rb ∧ x.d.die = e.d.die ∧ x.phase = .started ∧ mopOf x.d.op = some .erase ∧ mopOf e.d.op = some .read then
        { x with held := true }
      else x }

/-- Entry e of channel ch may start: its channel takes it, the die order and the tokens allow it, and a flush lets only SNUFF's
descriptors start (R163, R167, R170, R186). -/
def State.mayStart (s : State) (p : Profile) (ch : Nat) (e : QEntry) : Bool :=
  let c := s.chan ch
  e.phase = .queued && c.takes e && dieOrder p c e && (s.snuff.trigger.isNone || snuffDesc e.d) &&
  s.affords (tset Channel.none s.media.chans ch (s.started c ch e))

/-- The order of R188: the class, with a descriptor of class 2 to 7 that has waited 10 ms before all of those. -/
def QEntry.rank (e : QEntry) : Nat :=
  if e.aged && decide (2 ≤ e.d.cls.toNat) then 2 else if 2 ≤ e.d.cls.toNat then e.d.cls.toNat + 1 else e.d.cls.toNat

/-- a goes before b (R188). -/
def goesBefore (a b : QEntry) : Bool :=
  decide (a.rank < b.rank) || (a.rank == b.rank && a.earlier b)

/-- No other entry that may start goes before e (R167, R188). -/
def State.isNext (s : State) (p : Profile) (e : QEntry) : Bool :=
  s.media.chans.all fun x => x.2.queue.all fun q => !(goesBefore q e && s.mayStart p x.1 q)

/-- An entry's action has ended with a status. -/
def QEntry.end (e : QEntry) (st : MStatus) : QEntry := { e with phase := .ended, status := some (mstatusCode st) }

/-- The block is in the grown-defect list: it is never programmed or erased again (R190). -/
def Channel.barred (c : Channel) (e : QEntry) : Bool :=
  e.writes && c.blocks.any fun b => b = (e.d.die.toNat, e.d.block.toNat)

/-- MEDIA starts the descriptor in a slot, or ends it at once: DIE_RETIRED, CHANNEL_FAILED, REFUSED (R166, R169). A program or
erase of a retired block ends REFUSED (R190; DESIGN CHOICE, log 104). With no magazine profile no die is ACTIVE, and every descriptor names
an absent or unsupported one (R158, R166). -/
def State.startDesc (s : State) (ch slot : Nat) : State :=
  let c := s.chan ch
  match s.media.profile, c.entry slot with
  | none, some e => if e.phase = .queued then s.modChan ch fun c => c.modEntry slot fun e => e.end .refused else s
  | some p, some e =>
    if e.phase ≠ .queued then s
    else if c.st = .failed && !e.isRead then s.modChan ch fun c => c.modEntry slot fun e => e.end .channelFailed
    else if !descValid p (s.dieAt ch e.d.die.toNat) e.d || c.barred e then
      s.modChan ch fun c => c.modEntry slot fun e => e.end .refused
    else if tget DieCode.absent c.dies e.d.die.toNat = .retired && !e.isRead then
      s.modChan ch fun c => c.modEntry slot fun e => e.end .dieRetired
    else if s.mayStart p ch e && s.isNext p e then s.setChan ch (s.started c ch e)
    else s
  | _, none => s

/-- The erase in a slot resumes: no READ runs on its die any more, and the tokens allow it (R167, R186). -/
def State.resumeErase (s : State) (ch slot : Nat) : State :=
  let c := s.chan ch
  match c.entry slot with
  | none => s
  | some e =>
    let c1 := c.modEntry slot fun x => { x with held := false }
    if e.held && !(c.queue.any fun x => x.d.die = e.d.die && x.phase = .started && x.isRead && x.status.isNone) &&
        s.affords (tset Channel.none s.media.chans ch c1) then s.setChan ch c1
    else s

/-- Every suspended erase that can resumes (R167). -/
def State.resumeErases (s : State) : State :=
  s.media.chans.foldl (fun t x => x.2.queue.foldl (fun u e => if e.held then u.resumeErase x.1 e.slot else u) t) s

/-- QUEUE_ECC: the entry's descriptor completes ABORTED and is resubmitted (R195, R499). -/
def State.queueEcc (s : State) (ch slot : Nat) : State :=
  match (s.chan ch).entry slot with
  | none => s
  | some e =>
    ((s.modChan ch fun c => c.modEntry slot fun e => e.end .aborted).submit ch e.d).assertError .mediaQueueEcc
      (detail [(5, ch), (8, slot)])

/-- A flush has begun: every descriptor of another unit than SNUFF that has not started completes ABORTED (R170). -/
def State.abortQueued (s : State) : State :=
  s.onMedia fun m => { m with
    chans := tmap Channel.none (fun _ c =>
      { c with
        queue := c.queue.map fun e => if e.phase = .queued ∧ !snuffDesc e.d then e.end .aborted else e
        waits := c.waits.filter snuffDesc }) m.chans }

/-! ### Completions (R164, R168) -/

/-- The unit that submitted a descriptor runs, and takes its completions: FRONT, BACK or SNUFF (R164). -/
def State.takerRuns (s : State) (d : MDesc) : Bool :=
  if d.submitter = 5 then !s.stopped .front else if d.submitter = 6 then !s.stopped .back else true

/-- The submitters take the completions that stand in the queue of a channel: their entries are free again, and submitters that
wait for one are admitted (R164). -/
def State.takeDone (s : State) (ch : Nat) : State :=
  let out := (s.chan ch).queue.filter fun e => e.comp.isSome && s.takerRuns e.d
  if out.isEmpty then s
  else
    ((s.modChan ch fun c => { c with queue := c.queue.filter fun e => !(e.comp.isSome && s.takerRuns e.d) }).onMedia fun m =>
      { m with done := (out.filterMap QEntry.comp).reverse ++ m.done }).letIn ch

/-- Completions are taken on every channel. -/
def State.takeAll (s : State) : State := s.media.chans.foldl (fun t x => t.takeDone x.1) s

/-- The completion entry (R168). -/
def QEntry.completion (e : QEntry) (st : Byte) (elapsed : Word) (last : Byte) : Completion :=
  { tag := e.d.tag, status := st, rung := BitVec.ofNat 8 e.rung, corr := BitVec.ofNat 16 e.corr
    elapsed := elapsed, last := last }

/-! ### Failures of blocks, dies and channels -/

/-- Retired blocks of a die (R191). -/
def Channel.retiredOf (c : Channel) (die : Nat) : Nat := (c.blocks.filter fun b => b.1 = die).length

/-- Good blocks at a die index: of its ACTIVE dies, those not retired (R200). -/
def State.goodAt (s : State) (d : Nat) : Nat :=
  match s.media.profile with
  | none => 0
  | some p => sumBy (fun c => p.blocks - (s.chan c).retiredOf d) (s.activeAt d)

/-- Good blocks of every die index. -/
def State.countGood (s : State) : State :=
  s.onPlace fun p => { p with good := (List.range 16).foldl (fun t d => tset 0 t d (s.goodAt d)) [] }

/-- Count a program or erase failure (R169, R242). -/
def State.countFail (s : State) (ch : Nat) (erase : Bool) : State :=
  if erase then (s.modChan ch fun c => { c with eErase := min (c.eErase + 1) 15 }).count32 0x16 1
  else (s.modChan ch fun c => { c with eProg := min (c.eProg + 1) 15 }).count32 0x15 1

/-- A channel takes a state; WP# is high while it is ACTIVE or QUIESCED, and low in every other state (R155, R161). -/
def Channel.go (c : Channel) (st : ChanState) : Channel :=
  { c with st := st, wp := st = .active || st = .quiesced }

/-- Word 0x05 of the health log: retired dies and channels (R242). More than 255 dies can be retired, and the manual does not say what its
byte then shows: 255 (DESIGN CHOICE, log 137). -/
def State.retiredWord (s : State) : State :=
  let dies := sumBy (fun x => ((List.range 16).filter x.2.retDies.getLsbD).length) s.media.chans
  let chans := (s.media.chans.filter fun x => x.2.retired).length
  s.hset 0x05 (min dies 255 + 256 * min chans 255)

/-- A die is declared failed: RETIRED, its descriptors not started, READs among them, complete DIE_RETIRED, rebuild work is due, its blocks
are good no more, and the error line carries DIE_FAIL (R191, R192). -/
def State.failDie (s : State) (ch die : Nat) : State :=
  let c := s.chan ch
  if tget DieCode.absent c.dies die ≠ .active then s
  else
    let c1 := { c with
      dies := tset DieCode.absent c.dies die .retired
      retDies := c.retDies ||| (1#16 <<< die)
      queue := c.queue.map fun e => if e.d.die.toNat = die ∧ e.phase = .queued then e.end .dieRetired else e }
    (((s.setChan ch c1).onMedia fun m => { m with
      rebuilds := m.rebuilds ++ [(ch, some die)] }).countGood.retiredWord).assertError
      .mediaDieFail (detail [(5, ch), (4, die)])

/-- The dies of a channel that its entry in the grown-defect list records with it: those ACTIVE or RETIRED (R158; log 105). -/
def Channel.dieMask (c : Channel) : BitVec 16 :=
  c.dies.foldl (fun m d => if d.2 = .active ∨ d.2 = .retired then m ||| (1#16 <<< d.1) else m) 0

/-- A channel fails: FAILED, recorded in the grown-defect list, its held programs and erases complete CHANNEL_FAILED, rebuild work
is due (R161, R192). -/
def State.failChannel (s : State) (ch : Nat) : State :=
  let c := s.chan ch
  if c.st = .failed then s
  else
    let c1 := { c.go .failed with
      retired := true, retDies := c.retDies ||| c.dieMask
      queue := c.queue.map fun e => if e.phase = .queued ∧ !e.isRead then e.end .channelFailed else e }
    (((s.setChan ch c1).onMedia fun m => { m with
      rebuilds := m.rebuilds ++ [(ch, none)] }).countGood.retiredWord).assertError
      .mediaChannelFail (detail [(5, ch)])

/-- A channel whose every die is failed is failed (R191). -/
def State.checkChannel (s : State) (ch : Nat) : State :=
  let c := s.chan ch
  if c.dies.any (fun d => d.2 = .retired) && !c.dies.any (fun d => d.2 = .active) && (c.st = .active || c.st = .quiesced)
  then s.failChannel ch else s

/-- A block goes to the grown-defect list (R190); the die fails when its retired blocks exceed 2 % (R191). -/
def State.retireBlock (s : State) (ch die block : Nat) (factory : Bool) : State :=
  let c := s.chan ch
  if c.blocks.any fun b => b = (die, block) then s
  else
    let s1 := s.modChan ch fun c => { c with blocks := c.blocks ++ [(die, block)] }
    let s2 := if factory then s1 else s1.count32 0x04 1
    let s3 := s2.countGood
    match s.media.profile with
    | none => s3
    | some p =>
      if p.blocks * 2 < 100 * (s3.chan ch).retiredOf die then (s3.failDie ch die).checkChannel ch else s3

/-- A channel becomes QUIESCED with cause BUS_CHECK (R161). -/
def State.busCheck (s : State) (ch : Nat) : State :=
  if (s.chan ch).st = .active then
    (s.modChan ch fun c => { c.go .quiesced with trainFails := 0 }).assertError .mediaBusCheck (detail [(5, ch)])
  else s

/-- CONTAIN for a channel: ACTIVE becomes QUIESCED (R161, R442). -/
def State.containChannel (s : State) (ch : Nat) : State :=
  if (s.chan ch).st = .active then s.modChan ch fun c => { c.go .quiesced with trainFails := 0 } else s

/-- A MEDIA reset or the main domain off: every channel OFF with WP# low, queued descriptors complete ABORTED (R155, R161). -/
def State.channelsOff (s : State) : State :=
  s.onMedia fun m => { m with
    chans := tmap Channel.none (fun _ c =>
      { c.go .off with
               rate := 0, dies := [], eRetry := 0, eSoft := 0, eRebuilt := 0, eUncorr := 0, eProg := 0,
               eErase := 0, trainFails := 0, queue := [], waits := [], rung17 := [], rung18 := [], timeouts := []
               lpddr4 := false, luns := [], feats := [] }) m.chans
    done := (m.chans.flatMap fun x => x.2.queue.map fun e =>
      (e.comp.getD (e.completion (e.status.getD (mstatusCode .aborted)) 0 0))).reverse }

/-- The counts of CH_ERRS at their reset value: they run from the last MEDIA reset (R368). -/
def Channel.noErrs (c : Channel) : Channel :=
  { c with eRetry := 0, eSoft := 0, eRebuilt := 0, eUncorr := 0, eProg := 0, eErase := 0 }

/-- A RESTART of MEDIA: descriptors not started complete ABORTED and are resubmitted; operations in progress run on, and channel states and
training stand (R442); the counts of CH_ERRS start again (R354, R368; DEDUCED, log 157). -/
def State.restartMedia (s : State) : State :=
  s.media.chans.foldl (fun t x =>
    let waiting := x.2.queue.filter fun e => e.phase = .queued
    waiting.foldl (fun u e =>
      (u.modChan x.1 fun c => c.modEntry e.slot fun e => e.end .aborted).submit x.1 e.d) (t.modChan x.1 Channel.noErrs)) s

/-! ### The read ladder (R182 to R185) -/

/-- Rungs that a ladder limit admits (R165). The code 3, which R165 does not define, admits rung 0 only (DESIGN CHOICE,
log 106). -/
def ladderTop (l : BitVec 2) : Nat := if l = 0 then 18 else if l = 1 then 17 else 0

/-- The rungs that a read may climb, in order: a retry table with fewer than 16 steps shortens rungs 1 to 16 (R182). -/
def ladder (p : Profile) (top : Nat) : List Nat :=
  (0 :: (List.range' 1 (min p.retry.length 16) ++ [17, 18])).filter fun k => decide (k ≤ top)

/-- The page index within its band of a page of a unit: wordline by wordline, then channel by channel (log 107). -/
def pageIndex (p : Profile) (slc : Bool) (row ch page : Nat) : Nat := (row * 32 + ch) * (profCu p slc / 4) + page

/-- Bytes 0 to 15 of a codeword (R179, R180). -/
def headerBytes (h : Header) : List Byte :=
  leBytes 3 h.band.toNat ++ [BitVec.ofNat 8 (h.cw.toNat + 16 * h.kind.toNat)] ++ leBytes 3 h.page.toNat ++ [0] ++
  leBytes 8 h.seq.toNat

/-- Bytes 0 to 6 of a header: what MEDIA compares after a decode (R180). -/
def headerKey (h : Header) : List Byte := (headerBytes h).take 7

/-- The header of codeword q of a unit of band b, its kind and the journal sequence given (R180). -/
def unitHeader (p : Profile) (slc : Bool) (b row ch kind seq q : Nat) : Header :=
  { band := BitVec.ofNat 24 b, cw := BitVec.ofNat 2 (q % 4), kind := BitVec.ofNat 4 kind
    page := BitVec.ofNat 24 (pageIndex p slc row ch (q / 4)), seq := BitVec.ofNat 64 seq }

/-- What the headers of the unit of band x on channel ch of a row were programmed with: journal sequence and kinds. -/
def Band.headsAt (x : Band) (row ch : Nat) : Option (Nat × List Nat) :=
  (x.heads.find? fun h => h.1 == row && h.2.1 == ch).map fun h => h.2.2

/-- Bytes 0 to 6 that codeword q of the unit of a band on channel ch of a row reads with. Those of a parity unit are the XOR of the headers
that it covers, recomputed (R180); a unit that nothing records reads as none does. -/
def State.expectHeader (s : State) (p : Profile) (slc : Bool) (b row ch q : Nat) : Option (List Byte) :=
  let x := tget bandNone s.place.bands b
  let of := fun (c : Nat) => (x.headsAt row c).map fun h => headerKey (unitHeader p slc b row c (h.2.getD q 4) h.1 q)
  if x.pool ≠ .journal ∧ x.parityAt b row = ch then
    some (((x.units.filter fun u => u.1 = row).filterMap fun u => of u.2).foldl xorBytes (List.replicate 7 0))
  else of ch

/-- What the headers of a read's codewords must be (R180). -/
def State.expectHeaders (s : State) (p : Profile) (ch : Nat) (d : MDesc) : List (Option (List Byte)) :=
  (List.range d.cwCount.toNat).map fun j => s.expectHeader p (d.mode = 1) d.band.toNat d.wl.toNat ch (d.cwFirst.toNat + j)

/-- What rung k gave, nothing decoded if nothing was read. -/
def rungAt (r : ReadIn) (k : Nat) : RungIn := r.rungs.getD k ⟨321, 321, false, []⟩

/-- s*: the step of rungs 0 to 16 with the fewest unsatisfied parity checks, at which rung 17 reads softly; the first among equals
(R182; DEDUCED, log 144). -/
def softStep (r : ReadIn) : Nat :=
  (List.range (min 17 r.rungs.length)).foldl (fun m k => if (rungAt r k).checks < (rungAt r m).checks then k else m) 0

/-- Every addressed codeword decodes at rung k: up to 320 errors at a hard decode always (R181); at rung 18 if no other unit of
the row fails (R182, R183). -/
def decodesAt (r : ReadIn) (mates : List (Nat × Nat)) (k : Nat) : Bool :=
  if k = 18 then !mates.any fun m => r.lost.any fun c => c.toNat = m.1
  else (decide (k ≤ 16) && decide ((rungAt r k).errors ≤ 320)) || (rungAt r k).decoded

/-- The end of a read: its status, the highest rung used, the highest corrected count (R168). -/
structure ReadEnd where
  status : MStatus
  rung   : Nat
  corr   : Nat
  deriving DecidableEq, Repr

/-- The status of a read that a rung has corrected (R169). -/
def rungStatus (k : Nat) : MStatus := if k = 0 then .ok else if k ≤ 16 then .okRetry else if k = 17 then .okSoft else .okRebuilt

/-- A read climbs some rungs and stops at the first at which every codeword decodes with a matching header; rung 0 ends it ERASED
without decoding; a mismatch at every rung reached ends it MISPLACED, and a rung that did not decode UNCORRECTABLE (R180, R182, R183). -/
def climb (r : ReadIn) (decodes : Nat → Bool) (want : List (Option (List Byte))) (rungs : List Nat) : ReadEnd :=
  if rungs.head? = some 0 ∧ r.ones then ⟨.erased, 0, 0⟩
  else
    match rungs.find? fun k => decodes k && decide ((rungAt r k).headers.map (fun h => some (headerKey h)) = want) with
    | some k => ⟨rungStatus k, k, min (rungAt r k).errors 65535⟩
    | none =>
      let last := rungs.getLast?.getD 0
      if rungs.all decodes then ⟨.misplaced, last, min (rungAt r last).errors 65535⟩ else ⟨.uncorrectable, last, 0⟩

/-- The refresh threshold in bits: floor(320 × REFRESH_PCT ÷ 100) (R184). -/
def State.refreshLimit (s : State) : Nat := 320 * s.clock.refreshPct / 100

/-- Whether a read schedules a refresh (R184). -/
def State.wantsRefresh (s : State) (st : MStatus) (corrected : Nat) : Bool :=
  match st with
  | .ok => decide (s.refreshLimit < corrected)
  | .okRetry | .okSoft | .okRebuilt => true
  | _ => false

/-- What a block or one row of it holds, the member of a band on channel ch, goes on the list of what is moved, with the kind of its moves
and the rung reached; rung 17 or higher is urgent (R178, R184, R230, R236). -/
def State.listMove (s : State) (kind : Nat) (row : Option Nat) (band ch rung : Nat) : State :=
  s.onMedia fun m =>
    if m.refresh.any fun x => x.band = band && x.chan = ch && x.row == row then
      { m with refresh := m.refresh.map fun x =>
          if x.band = band && x.chan = ch && x.row == row then
            { x with rung := max x.rung rung, urgent := x.urgent || decide (17 ≤ rung) } else x }
    else { m with refresh := m.refresh ++
      [{ band := band, chan := ch, row := row, kind := kind, rung := rung, urgent := decide (17 ≤ rung) }] }

/-- A block goes on the refresh list (R184, R230). -/
def State.listRefresh (s : State) (band ch rung : Nat) : State := s.listMove 3 none band ch rung

/-- Count a read's ending in CH_ERRS and in the health log (R169, R242). -/
def State.countRead (s : State) (ch : Nat) (st : MStatus) : State :=
  match st with
  | .okRetry => (s.modChan ch fun c => { c with eRetry := min (c.eRetry + 1) 255 }).count32 0x10 1
  | .okSoft => (s.modChan ch fun c => { c with eSoft := min (c.eSoft + 1) 63 }).count32 0x11 1
  | .okRebuilt => (s.modChan ch fun c => { c with eRebuilt := min (c.eRebuilt + 1) 63 }).count32 0x12 1
  | .uncorrectable => (s.modChan ch fun c => { c with eUncorr := min (c.eUncorr + 1) 15 }).count32 0x13 1
  | .misplaced => s.count32 0x14 1
  | _ => s

/-- STRIPE_LOST for a row, reported when first found (R183, R194). -/
def State.stripeLost (s : State) (band row : Nat) : State :=
  if s.media.stripes.any fun x => x = (band, row) then s
  else
    ((s.onMedia fun m => { m with stripes := m.stripes ++ [(band, row)] }).count32 0x18 1).assertError
      .mediaStripeLost (detail [(24, band), (16, row)])

/-- The powered time in seconds, as the health log keeps it (R242). -/
def State.nowS (s : State) : Nat := s.hget 0x02

/-- A read of a wordline reached rung 17: another wordline of its block has done so within this scrub lap (R190). -/
def Channel.rung17Twice (c : Channel) (die block wl : Nat) : Bool :=
  c.rung17.any fun x => x.1 = die && x.2.1 = block && x.2.2 != wl

/-- The record of reads that reached rung 17 or 18 (R190, R191). -/
def State.recordRung (s : State) (ch die block wl rung : Nat) : State :=
  let now := s.nowS
  s.modChan ch fun c =>
    let c1 := if rung < 17 then c
      else { c with rung17 := (die, block, wl) :: c.rung17.filter fun x => x ≠ (die, block, wl) }
    if rung < 18 then c1
    else { c1 with rung18 := (die, block, now) ::
      c1.rung18.filter fun x => !(x.1 = die && x.2.1 = block) && decide (now ≤ x.2.2 + 86400) }

/-- Reads in four different blocks of the die reached rung 18 within 24 hours (R191). -/
def State.rung18Four (s : State) (ch die : Nat) : Bool :=
  decide (4 ≤ ((s.chan ch).rung18.filter fun x => x.1 = die && decide (s.nowS ≤ x.2.2 + 86400)).length)

/-- Timeouts of a die within the last hour (R191). -/
def State.recentTimeouts (s : State) (ch die : Nat) : Nat :=
  ((s.chan ch).timeouts.filter fun x => x.1 = die && decide (s.nowS ≤ x.2 + 3600)).length

end Sys2Proof.Machine
end

