-- ==== Sys2Proof/Machine/Placement.lean ====
section
/-! DEFINITION. Where bytes go on flash: bands and their slots (R171, R172, R202), groups and their data space (R203,
R205, R212), locations (R206), the placement of pieces (R213), spill and pad (R214), and the choice of mode (R210). -/
namespace Sys2Proof.Machine
open Sys2Proof

/-- A member of a list, entered once. -/
def addOnce {α : Type} [DecidableEq α] (x : α) (l : List α) : List α := if l.contains x then l else l ++ [x]

/-! ### Bands -/

/-- A band. -/
def State.band (s : State) (b : Nat) : Band := tget bandNone s.place.bands b

/-- Write a band. -/
def State.setBand (s : State) (b : Nat) (x : Band) : State :=
  s.onPlace fun p => { p with bands := tset bandNone p.bands b x }

/-- Change a band. -/
def State.modBand (s : State) (b : Nat) (f : Band → Band) : State := s.setBand b (f (s.band b))

/-- The units of one group row, in the order of R205: by slot position, then by member band. -/
def State.rowUnits (s : State) (bands : List Nat) (row : Nat) : List (Nat × Nat) :=
  (List.range 32).flatMap fun j =>
    bands.filterMap fun b => ((dataSlots b ((s.band b).membersAt row))[j]?).map fun c => (b, c)

/-- The member bands of the group at a location: the lead band records them (R203). -/
def State.groupBands (s : State) (l : Loc) : List Nat := (s.band l.band).group

/-- Group unit u counted from a row on: its row, band and channel; n bounds the rows looked at. -/
def State.findUnit (s : State) (bands : List Nat) : Nat → Nat → Nat → Option (Nat × Nat × Nat)
  | 0, _, _ => none
  | n + 1, row, u =>
    let us := s.rowUnits bands row
    match us[u]? with
    | some x => some (row, x.1, x.2)
    | none => s.findUnit bands n (row + 1) (u - us.length)

/-- Wordlines of a block under the magazine profile. -/
def State.wordlines (s : State) : Nat :=
  match s.media.profile with
  | none => 0
  | some p => p.wordlines

/-- The unit a location lies in: row, band and channel (R205). -/
def State.unitAt (s : State) (l : Loc) : Option (Nat × Nat × Nat) :=
  let cu := s.cu l.slc
  if cu = 0 then none else s.findUnit (s.groupBands l) s.wordlines 0 (l.q / cu)

/-- Blocks of the die at (channel c, index d) that no band holds, or an erasable one, and that are not retired (R204). -/
def State.freeBlocks (s : State) (c d : Nat) : List Nat :=
  match s.media.profile with
  | none => []
  | some p =>
    let used := s.place.bands.filterMap fun x =>
      if x.1 % 16 = d ∧ x.2.phase ≠ .erasable then (x.2.members.find? fun m => m.1 = c).map Prod.snd else none
    (List.range p.blocks).filter fun b => !used.contains b && !(s.chan c).blocks.contains (d, b)

/-- Free blocks at a die index, over its ACTIVE dies. -/
def State.freeAt (s : State) (d : Nat) : Nat := sumBy (fun c => (s.freeBlocks c d).length) (s.activeAt d)

/-- The next value of k_d whose band number no band holds (R202). -/
def nextK (used : List Nat) (d : Nat) : Nat → Nat → Nat
  | 0, k => k
  | n + 1, k => if used.contains (16 * k + d) then nextK used d n ((k + 1) % 1048576) else k

/-- Class of the ERASE that takes a block for a band (R204). -/
def eraseClass (pool : Pool) (intake : Bool) : BitVec 3 :=
  match pool with
  | .journal | .snuff => 1
  | .staging | .random | .stream => if intake then 2 else 7

/-- The planes of a member block: every plane of its die (R154, R171). -/
def State.planes (s : State) : BitVec 8 :=
  match s.media.profile with
  | none => 0
  | some p => planeMask p

/-- An ERASE descriptor for a block (R165). -/
def eraseDesc (planes : BitVec 8) (d block band : Nat) (slc : Bool) (cls : BitVec 3) (tag : Word) : MDesc :=
  { op := 0x04, die := BitVec.ofNat 4 d, mode := if slc then 1 else 0, acc := false, cls := cls, ladder := 0,
    planes := planes, block := BitVec.ofNat 16 block, wl := 0, tunAddr := 0, cwFirst := 0, cwCount := 0, accAddr := 0,
    band := BitVec.ofNat 24 band, tag := tag, submitter := 6 }

/-- A PROGRAM or PARITY descriptor for one unit (R165, R173). -/
def unitDesc (op : Byte) (planes : BitVec 8) (d block row band cu : Nat) (slc acc : Bool) (cls : BitVec 3) (tag : Word) : MDesc :=
  { op := op, die := BitVec.ofNat 4 d, mode := if slc then 1 else 0, acc := acc, cls := cls, ladder := 0,
    planes := planes, block := BitVec.ofNat 16 block, wl := BitVec.ofNat 16 row
    tunAddr := Config.tunAddr 0 tag.toNat 0, cwFirst := 0, cwCount := BitVec.ofNat 16 cu
    accAddr := Config.tunAddr 1 band row, band := BitVec.ofNat 24 band, tag := tag, submitter := 6 }

/-- The block that a band's member holds. -/
def State.memberBlock (s : State) (b c : Nat) : Nat :=
  (((s.band b).members.find? fun m => m.1 = c).map Prod.snd).getD 0

/-- The channels with an operation in progress beside those of the queues, at a stage of its action (R186). -/
def State.withOp (s : State) (c : Nat) (d : MDesc) (st : Option Byte) : Sparse Channel :=
  let ch := s.chan c
  let e := newEntry 256 d s.media.orderNext
  let rb := ch.rebuilds e
  tset Channel.none s.media.chans c { ch with queue := ch.queue ++
    [{ e with phase := .started, status := st, climbed := rb, fan := if rb then s.mates d.band.toNat d.wl.toNat c else [] }] }

/-- An operation that a command performs by itself may start on channel c: the tokens of its transfer and of its array work are within the
budget, and no descriptor that goes before it may start (R186, R188; log 18). -/
def State.canDo (s : State) (c : Nat) (d : MDesc) : Bool :=
  match s.media.profile with
  | none => true
  | some p =>
    s.affords (s.withOp c d none) && s.affords (s.withOp c d (some 0)) &&
    s.media.chans.all fun x => x.2.queue.all fun q => !(goesBefore q (newEntry 256 d s.media.orderNext) && s.mayStart p x.1 q)

/-- An operation on the unit of a band in a class: a READ, or the PROGRAM of one unit. -/
def State.unitOp (s : State) (op : Byte) (cls : BitVec 3) (u : Nat × Nat × Nat) : MDesc :=
  let x := s.band u.2.1
  unitDesc op s.planes (u.2.1 % 16) (s.memberBlock u.2.1 u.2.2) u.1 u.2.1 (s.cu x.slc) x.slc false cls s.media.tagNext

/-- The units may be read, or programmed, one after another in a class (R186 to R188). -/
def State.canUse (s : State) (op : Byte) (cls : BitVec 3) (us : List (Nat × Nat × Nat)) : Bool :=
  us.eraseDups.all fun u => s.canDo u.2.2 (s.unitOp op cls u)

/-- The codewords at some locations may be read in a class. -/
def State.canRead (s : State) (cls : BitVec 3) (ls : List Loc) : Bool := s.canUse 0x01 cls (ls.filterMap s.unitAt)

/-- A MARK_READ descriptor for a block (R160, R166). -/
def markDesc (planes : BitVec 8) (d block band : Nat) (cls : BitVec 3) (tag : Word) : MDesc :=
  { eraseDesc planes d block band false cls tag with op := 0x05 }

/-- The key of a block's erase count. -/
def wearKey (ch die block : Nat) : Nat := (ch * 16 + die) * 65536 + block

/-- A band takes a block: its factory mark is read when it is first taken, and it is erased (R160, R204). -/
def State.takeBlock (s : State) (d : Nat) (m : Nat × Nat) (b : Nat) (slc : Bool) (cls : BitVec 3) : State :=
  let s1 := if tget 0 s.media.wear (wearKey m.1 d m.2) = 0 then s.submit m.1 (markDesc s.planes d m.2 b cls s.media.tagNext) else s
  s1.submit m.1 (eraseDesc s.planes d m.2 b slc cls s1.media.tagNext)

/-- Blocks that the bands of a pool hold. -/
def State.poolBlocks (s : State) (pool : Pool) : Nat :=
  sumBy (fun x => if x.2.pool = pool ∧ x.2.phase ≠ .erasable then x.2.members.length else 0) s.place.bands

/-- Blocks at die index d that the bands of a pool hold. -/
def State.poolBlocksAt (s : State) (pool : Pool) (d : Nat) : Nat :=
  sumBy (fun x => if x.1 % 16 = d ∧ x.2.pool = pool ∧ x.2.phase ≠ .erasable then x.2.members.length else 0) s.place.bands

/-- Free blocks at die index d that the staging and random reservations still hold there (R198, R200). -/
def State.reservedAt (s : State) (d : Nat) : Nat :=
  tget 0 s.place.heldBlk d - (s.poolBlocksAt .staging d + s.poolBlocksAt .random d)

/-- A pool may take another band of n blocks at die index d: the staging and the random pool keep within their reservations, and a stream
band leaves them the free blocks that they still hold (R198, R200, R217). -/
def State.poolRoom (s : State) (pool : Pool) (d n : Nat) : Bool :=
  match pool with
  | .staging => decide (s.poolBlocks .staging + n ≤ s.place.stagingRes)
  | .random => decide (s.poolBlocks .random + n ≤ s.place.randomRes)
  | .stream => decide (s.reservedAt d + n ≤ s.freeAt d)
  | .journal | .snuff => true

/-- Bands of a pool that are in use. -/
def State.poolBands (s : State) (pool : Pool) : Nat :=
  (s.place.bands.filter fun x => x.2.pool = pool && x.2.phase ≠ .erasable).length

/-- The free bands of a pool: those that it could form from the free blocks that are its own, erased or erasable: of the stream pool, the
blocks that no pool reserves; of the random pool, what its reservation still holds (R200, R228; DEDUCED, log 43). -/
def State.freeBands (s : State) (pool : Pool) : Nat :=
  match pool with
  | .random => (s.place.randomRes - s.poolBlocks .random) / max 1 (s.activeAt (s.indexes.headD 0)).length
  | .staging => (s.place.stagingRes - s.poolBlocks .staging) / max 1 (s.activeAt (s.indexes.headD 0)).length
  | .stream | .journal | .snuff => sumBy (fun d => (s.freeAt d - s.reservedAt d) / max 1 (s.activeAt d).length) s.indexes

/-- The pool is short of space: it has fewer free bands than max(8, 2 % of its bands), and stays short until it has max(12, 3 %) (R228). -/
def State.poolShort (s : State) (pool : Pool) : Bool :=
  let n := s.freeBands pool
  let all := s.poolBands pool + n
  decide (n < 8) || decide (100 * n < 2 * all) ||
  (s.place.short.contains pool && (decide (n < 12) || decide (100 * n < 3 * all)))

/-- Which pools are short is noted whenever bands are formed or released (R228). -/
def State.noteShort (s : State) : State :=
  s.onPlace fun p => { p with short := [Pool.stream, Pool.random].filter s.poolShort }

/-- Another band of the group that band b belongs to is still in use: the numbering of its data space counts the slots of b (R205). -/
def State.groupInUse (s : State) (b : Nat) : Bool :=
  s.place.bands.any fun y => y.2.group.contains b && y.2.group.any fun z => z != b && (s.band z).phase ≠ .erasable

/-- The random pool's band list with a new band: it takes the ordinal of the first band that has left the pool, or the next one;
the manual does not say which ordinal it takes (R218; DESIGN CHOICE, log 128). -/
def State.withRandom (s : State) (b : Nat) : List Nat :=
  match s.place.randBands.findIdx? fun x => (s.band x).pool ≠ .random || (s.band x).phase = .erasable with
  | some k => s.place.randBands.set k b
  | none => s.place.randBands ++ [b]

/-- A band is entered in the band table at die index d (R171, R202): on every channel where the die is ACTIVE and a good block is
free, the lowest such block; at least 17 members. -/
def State.newBand (s : State) (d : Nat) (pool : Pool) (slc : Bool) : Option (State × Nat) :=
  let members := (s.activeAt d).filterMap fun c => ((s.freeBlocks c d).head?).map fun b => (c, b)
  if members.length < 17 || !s.poolRoom pool d members.length then none
  else
    let used := s.place.bands.map Prod.fst
    let k := nextK used d (used.length + 1) (tget 0 s.place.kd d)
    let b := 16 * k + d
    let s1 := s.onPlace fun p => { p with
      kd := tset 0 p.kd d ((k + 1) % 1048576)
      randBands := if pool = .random then s.withRandom b else p.randBands
      bands := tset bandNone (p.bands.filter fun x =>
          !(x.1 % 16 = d && x.2.phase = .erasable && x.2.members.any members.contains && !s.groupInUse x.1))
        b { bandNone with pool := pool, slc := slc, members := members } }
    some (s1.noteShort, b)

/-- A band is formed at die index d; the erases of its blocks are submitted (R204). -/
def State.formBand (s : State) (d : Nat) (pool : Pool) (slc intake : Bool) : Option (State × Nat) :=
  (s.newBand d pool slc).map fun r =>
    ((r.1.band r.2).members.foldl (fun t m => t.takeBlock d m r.2 slc (eraseClass pool intake)) r.1, r.2)

/-- One more erase of a block (R242). -/
def State.wearBlock (s : State) (ch die block : Nat) : State :=
  s.onMedia fun m => { m with wear := tset 0 m.wear (wearKey ch die block) (tget 0 m.wear (wearKey ch die block) + 1) }

/-- The blocks that a band formed at die index d would take now, as (channel, block). -/
def State.nextBlocks (s : State) (d : Nat) : List (Nat × Nat) :=
  (s.activeAt d).filterMap fun c => ((s.freeBlocks c d).head?).map fun b => (c, b)

/-- In recovery, blocks are taken and erased within the command: one whose factory mark is found, or whose erase fails, is retired, and the
next free block is taken in its place (R160, R190). n bounds the rounds. -/
def State.takeNow (r : RecoveryIn) (d : Nat) : Nat → State → State
  | 0, s => s
  | n + 1, s =>
    let next := s.nextBlocks d
    let marked := next.filter fun m => tget 0 s.media.wear (wearKey m.1 d m.2) = 0 && r.marked.contains (m.1, d, m.2)
    let failed := next.filter fun m => !marked.contains m && r.eraseFails.contains (m.1, d, m.2)
    if marked.isEmpty && failed.isEmpty then s
    else
      State.takeNow r d n (failed.foldl (fun t m => ((t.wearBlock m.1 d m.2).countFail m.1 true).retireBlock m.1 d m.2 false)
        (marked.foldl (fun t m => t.retireBlock m.1 d m.2 true) s))

/-- In recovery, a band of a pool in SLC mode is formed and erased at once; a block whose first wordline does not read ERASED then is erased
again (R174). Its number leads a group of its own. -/
def State.formNow (s : State) (r : RecoveryIn) (pool : Pool) (d : Nat) : State × Option Nat :=
  let s1 := State.takeNow r d (r.marked.length + r.eraseFails.length + 1) s
  match s1.newBand d pool true with
  | none => (s1, none)
  | some (t, b) =>
    let t1 := (t.band b).members.foldl (fun u m =>
      let v := u.wearBlock m.1 d m.2
      if r.notErased.contains (m.1, d, m.2) then v.wearBlock m.1 d m.2 else v) t
    (t1.modBand b fun y => { y with group := [b], checked := true }, some b)

/-- The n die indexes in use with the most free blocks, the lowest index first among equals (R203), in ascending order. -/
def State.bestIndexes (s : State) (n : Nat) : List Nat :=
  let ranked := sortBy (fun a b =>
    decide (s.freeAt b < s.freeAt a) || (s.freeAt a == s.freeAt b && decide (a ≤ b))) s.indexes
  sortBy (fun a b => decide (a ≤ b)) (ranked.take n)

/-- Form one band at each index; none if any cannot be formed. -/
def formBands (pool : Pool) (slc intake : Bool) : State → List Nat → Option (State × List Nat)
  | s, [] => some (s, [])
  | s, d :: ds =>
    match s.formBand d pool slc intake with
    | none => none
    | some (t, b) => (formBands pool slc intake t ds).map fun r => (r.1, b :: r.2)

/-! ### Groups (R203, R212) -/

/-- The pool of a group (R212). -/
def rolePool : GroupRole → Pool
  | .lane _ | .pack _ | .fold | .sparge => .stream
  | .staging => .staging
  | .random | .spargeRandom => .random

/-- The mode of a group: the staging group is in SLC mode (R212). -/
def roleSlc : GroupRole → Bool
  | .staging => true
  | _ => false

/-- Groups that serve intake (R204). -/
def roleIntake : GroupRole → Bool
  | .lane _ | .pack _ | .staging | .random => true
  | .fold | .sparge | .spargeRandom => false

/-- W: members per band at the index where a new group would lead, the one with the most free blocks (R196, R212). Where die
indexes in use have different numbers of member channels, the manual does not say which of them W counts: DESIGN CHOICE, log 126. -/
def State.bandWidth (s : State) : Nat :=
  match s.bestIndexes 1 with
  | d :: _ => (s.activeAt d).length
  | [] => 0

/-- The smallest width up to 8 that carries a demand of n bytes in t nanoseconds (R212). -/
def State.widthFor (s : State) (slc : Bool) (n t : Nat) : Nat :=
  match s.media.profile with
  | none => 1
  | some p =>
    let tp := if slc then p.tProgSlc else p.tProg
    match (List.range' 1 8).find? fun w =>
      decide (125 * n * tp * 1000 ≤ w * 54 * (s.bandWidth - 1) * profUnit p slc * t) with
    | some w => w
    | none => 8

/-! ### Modes of the classes (R196, R210) -/

/-- T of R210 in nanoseconds: the last cycle on the crystal, or PERIOD times the tick period in force, or nothing. -/
def State.cycleNs (s : State) : Option Nat :=
  match s.lamp.lastClocks with
  | some n => some (10 * n)
  | none =>
    match s.lamp.tickSrc with
    | .internal => some (s.lamp.period * s.lamp.tickDiv * 10)
    | .phaseTick | .substitute =>
      match s.lamp.subInterval with
      | some (c, t) => if t = 0 then none else some (s.lamp.period * c * 10 / t)
      | none => none

/-- Demand of a stream in bytes per cycle: max(LIMIT × 4,096, bytes of its last closed cycle) (R210). -/
def Stream.demand (e : Stream) : Nat := max (e.quota * 4096) e.lastBytes

/-- Demand of a class in bytes per cycle, over its OPEN streams (R210). -/
def State.classDemand (s : State) (c : Nat) : Nat :=
  sumBy (fun x => if x.2.st = .open ∧ x.2.cls.toNat = c then x.2.demand else 0) s.intake.streams

/-- The class has an OPEN stream. -/
def State.classOpen (s : State) (c : Nat) : Bool :=
  s.intake.streams.any fun x => x.2.st = .open && x.2.cls.toNat == c

/-- Program cost in mW of a native unit (R187). -/
def progCost (p : Profile) : Nat := if p.bits = 1 then 120 else if p.bits = 3 then 105 else 95

/-- n < d × (the rate R of R196 for the native mode), with rates in bytes per second: every term is compared as a cross
product, so that nothing is rounded. n and d scale the demand as bytes × scale. -/
def State.belowRate (s : State) (num den : Nat) : Bool :=
  match s.media.profile with
  | none => false
  | some p =>
    let n := s.activeDies
    let w := s.bandWidth
    let u := profUnit p false
    let t := p.tProg
    let rates := sumBy (fun x => if x.2.st = .active then rateMTs x.2.rate else 0) s.media.chans
    let b := min (250 * s.power.budget) s.power.thermal
    decide (2 ≤ w) && decide (0 < t) && decide (0 < u) &&
    -- 26.0 GB/s
    decide (num ≤ 26000000000 * den) &&
    -- R_dies = 0.54 N (U ÷ t) (W − 1) ÷ W, U in bytes, t in µs
    decide (num * 100 * t * w ≤ 54 * n * u * (w - 1) * 1000000 * den) &&
    -- R_chan = Σ rates × 10^6 ÷ (1.1328 W ÷ (W − 1))
    decide (num * 11328 * w ≤ rates * 1000000 * 10000 * (w - 1) * den) &&
    -- 0.95 R_budget, k = (W ÷ (W − 1)) ((c − 0.005) ÷ (U ÷ t) + 1.1328 × 0.9 ÷ 3.6) in W per GB/s
    decide (5 * n ≤ b) &&
    decide (num * 100 * w * ((progCost p - 5) * t * 1000 * 10000 + 2832 * 1000 * u) ≤
      95 * (b - 5 * n) * (w - 1) * 1000000000 * u * 10000 * den)

/-- Data codewords of a band at index d in a mode (R200). -/
def State.bandCodewords (s : State) (d : Nat) (slc : Bool) : Nat :=
  match s.media.profile with
  | none => 0
  | some p => p.wordlines * profCu p slc * ((s.activeAt d).length - 1)

/-- Codewords programmed in the staging pool's bands. -/
def State.stagingUsed (s : State) : Nat :=
  sumBy (fun x => if x.2.pool = .staging ∧ x.2.phase ≠ .erasable then x.2.units.length * s.cu true else 0) s.place.bands

/-- Data codewords of the staging pool: its reservation's blocks in SLC mode, without the parity units (R198, R200, R217). -/
def State.stagingCap (s : State) : Nat :=
  match s.media.profile with
  | none => 0
  | some p => s.place.stagingRes * (p.wordlines * profCu p true) * (s.bandWidth - 1) / max 1 s.bandWidth

/-- Step 6 of R210: less than 10 % of the staging pool's data capacity is free. -/
def State.stagingTight (s : State) : Bool := decide (90 * s.stagingCap < 100 * s.stagingUsed)

/-- A class is eligible for direct writing: T − G_T ≥ 2 t_d + 1 ms (R210). -/
def State.eligible (s : State) (t : Nat) : Bool :=
  match s.media.profile with
  | none => false
  | some p => decide (2000 * p.tProg + 1000000 ≤ t - t * s.lamp.permil / 1000)

/-- Steps 2 to 6 of R210 over the classes in ascending order: the DIRECT set, and the demand already taken. -/
def State.chooseClasses (s : State) (t : Nat) : List Nat → BitVec 8 → Nat → BitVec 8
  | [], m, _ => m
  | c :: cs, m, taken =>
    if !s.classOpen c then s.chooseClasses t cs m taken
    else
      let d := s.classDemand c
      if s.eligible t && (s.stagingTight || s.belowRate ((taken + d) * 1000000000 * 10) (8 * t)) then
        s.chooseClasses t cs (m ||| (1#8 <<< c)) (taken + d)
      else s.chooseClasses t cs (m &&& ~~~(1#8 <<< c)) taken

/-- The DIRECT classes at a marker (R210). Where no T exists, every class with an OPEN stream is STAGED. -/
def State.classModes (s : State) : BitVec 8 :=
  match s.cycleNs with
  | some t => s.chooseClasses t (List.range 8) s.intake.direct 0
  | none => (List.range 8).foldl (fun m c => if s.classOpen c then m &&& ~~~(1#8 <<< c) else m) s.intake.direct

/-- Streams that get a lane: of a DIRECT class, with a demand of at least C_u codewords a cycle, at most 16, the highest
demand first (R212). -/
def State.laneStreams (s : State) : List Nat :=
  let can := s.intake.streams.filter fun x =>
    x.2.st = .open && s.intake.direct.getLsbD x.2.cls.toNat && decide (s.cu false * 4096 ≤ x.2.demand) &&
    decide (0 < s.cu false)
  ((sortBy (fun a b => decide (b.2.demand ≤ a.2.demand)) can).take 16).map Prod.fst

/-- Bytes that the open groups take of the intake region: w accumulators and one filling unit each (R212). -/
def State.groupBytes (s : State) : Nat := sumBy (fun g => (g.bands.length + 1) * s.unitBytes g.slc) s.place.groups

/-- 24 MiB: the most that the open groups take (R212). -/
def groupMax : Nat := 25165824

/-- The width that carries a demand in a mode, in the cycle time in force; the manual states no cycle time for a staging group where none
exists: 1 ms (R212; DESIGN CHOICE, log 110). -/
def State.widthOf (s : State) (slc : Bool) (demand : Nat) : Nat := s.widthFor slc demand (s.cycleNs.getD 1000000)

/-- Stream i has a lane, or may open one: a lane that would take the open groups beyond 24 MiB leaves its stream in its class's pack group
(R212). -/
def State.lanes (s : State) (i : Nat) : Bool :=
  s.laneStreams.contains i &&
  (s.place.groups.any (fun g => g.role = .lane i) ||
    decide (s.groupBytes + (s.widthOf false (s.stream i).demand + 1) * s.unitBytes false ≤ groupMax))

/-- The demand a new group must carry; a pack group serves every stream of its class that has no lane (R212). -/
def State.roleDemand (s : State) : GroupRole → Nat
  | .lane i => (s.stream i).demand
  | .pack c => sumBy (fun x =>
      if x.2.st = .open ∧ x.2.cls.toNat = c ∧ !s.lanes x.1 then x.2.demand else 0) s.intake.streams
  | .staging => sumBy (fun x =>
      if x.2.st = .open ∧ !s.intake.direct.getLsbD x.2.cls.toNat then x.2.demand else 0) s.intake.streams
  | .random | .fold | .sparge | .spargeRandom => 0

/-- The widest group of a mode that keeps the open groups within 24 MiB; at least 1 (R212; DESIGN CHOICE, log 145). -/
def State.widthLeft (s : State) (slc : Bool) : Nat := max 1 ((groupMax - s.groupBytes) / max 1 (s.unitBytes slc) - 1)

/-- The width of a new group (R212). The manual states no width for a fold group or a Sparge group: 1 (DESIGN CHOICE, log 109); the random
group has width 1 (R218). A group other than a lane is no wider than the 24 MiB leave room for (log 145). -/
def State.roleWidth (s : State) (role : GroupRole) : Nat :=
  match role with
  | .lane _ | .pack _ | .staging => min (s.widthOf (roleSlc role) (s.roleDemand role)) (s.widthLeft (roleSlc role))
  | .random | .fold | .sparge | .spargeRandom => 1

/-- The group that serves the pieces of a stream (R211, R212): staging, its lane, or its class's pack group. -/
def State.roleFor (s : State) (i : Nat) (staged : Bool) : GroupRole :=
  if staged then .staging else if s.lanes i then .lane i else .pack (s.stream i).cls.toNat

/-- The open group of a role, formed if there is none (R203, R212). -/
def State.openGroup (s : State) (role : GroupRole) : Option (State × Group) :=
  match s.place.groups.find? fun g => g.role = role with
  | some g => some (s, g)
  | none =>
    match formBands (rolePool role) (roleSlc role) (roleIntake role) s (s.bestIndexes (s.roleWidth role)) with
    | none => none
    | some (t, bs) =>
      match bs with
      | [] => none
      | b :: rest =>
        let g : Group := { role := role, bands := b :: rest, slc := roleSlc role, next := 0 }
        some ((t.modBand b fun x => { x with group := b :: rest }).onPlace fun p => { p with groups := p.groups ++ [g] }, g)

/-- Codewords of a group's data space; a random band serves data only in its first 2^22 (R218). -/
def State.groupSize (s : State) (g : Group) : Nat :=
  match s.media.profile with
  | none => 0
  | some p =>
    let n := sumBy (fun r => (s.rowUnits g.bands r).length) (List.range p.wordlines) * profCu p g.slc
    match g.role with
    | .random | .spargeRandom => min n 4194304
    | .lane _ | .pack _ | .staging | .fold | .sparge => n

/-- The class of the programs of a group (R188): intake programs 2, random-region and map page programs 4, moves 6. -/
def roleClass : GroupRole → BitVec 3
  | .lane _ | .pack _ | .staging => 2
  | .random => 4
  | .fold | .sparge | .spargeRandom => 6

/-- The PROGRAM descriptor of a unit is submitted, under ACC (R173). -/
def State.programUnit (s : State) (row b c : Nat) (cls : BitVec 3) : State :=
  let x := s.band b
  match x.members.find? fun m => m.1 = c with
  | none => s
  | some m => s.submit c (unitDesc 0x02 s.planes (b % 16) m.2 row b (s.cu x.slc) x.slc true cls s.media.tagNext)

/-- Group units are programmed in a class. -/
def State.launch (s : State) (g : Group) (units : List Nat) (cls : BitVec 3) : State :=
  units.foldl (fun t u =>
    match t.findUnit g.bands t.wordlines 0 u with
    | none => t
    | some (row, b, c) => t.programUnit row b c cls) s

/-! ### What codewords hold (R179, R180, R206, R208, R218, R220) -/

/-- The 64 bits of a flash location (R206). -/
def Loc.bits (l : Loc) : Nat :=
  l.band % 16777216 + 16777216 * ((l.width - 1) % 8) + (if l.slc then 134217728 else 0) + 4294967296 * l.q

/-- Where a piece lies on flash now: its own program, or its spill copy (R214). -/
def Piece.place (p : Piece) : Option Loc := if p.done then p.loc else p.spill

/-- The map entry of an unmapped unit or page (R218). -/
def unmapped : Nat := 4294967295

/-- The map entry of a location in the random pool: its band's ordinal, and the codeword within the band (R218). -/
def State.mapEntry (s : State) (l : Loc) : Nat :=
  match s.place.randBands.findIdx? fun b => b == l.band with
  | some k => k % 1024 * 4194304 + l.q % 4194304
  | none => (Config.stagedEntry l.band l.q).toNat

/-- The units of a map page that lie on flash, the newest write of each. -/
def State.pageUnits (s : State) (p : Nat) : List Piece :=
  let us := s.place.pieces.filter fun x => x.unit.any (fun u => u / 1020 == p) && x.place.isSome
  us.filter fun x => us.all fun y => y.unit != x.unit || decide (y.seq ≤ x.seq)

/-- Where a map page lies, or will lie once its program has completed. -/
def State.pageLoc (s : State) (p : Nat) : Option Loc :=
  match s.place.pageJobs.reverse.find? fun x => match x.2 with
    | .map m => m.page == p
    | .run _ _ => false with
  | some x => some x.1
  | none => (s.place.mapPages.find? fun x => x.2.page == p).map Prod.fst

/-- A map page or a directory page as it stands now (R220). A directory page's sequence is the highest of the map pages that it
locates. -/
def State.formPage (s : State) (p : Nat) : MapPage :=
  if p < 2147483648 then
    let us := s.pageUnits p
    { page := p, seq := us.foldl (fun m x => max m x.seq) 0
      entries := us.filterMap fun x =>
        match x.unit, x.place with
        | some u, some l => some (u % 1020, s.mapEntry l)
        | _, _ => none }
  else
    let k := p - 2147483648
    { page := p
      seq := s.place.mapPages.foldl (fun m x => if x.2.page / 1020 = k then max m x.2.seq else m) 0
      entries := (List.range 1020).filterMap fun i => (s.pageLoc (1020 * k + i)).map fun l => (i, s.mapEntry l) }

/-- The 4,080 bytes of entries of a page (R220). -/
def MapPage.entryBytes (m : MapPage) : List Byte := (List.range 1020).flatMap fun k => leBytes 4 (tget unmapped m.entries k)

/-- The 4,096 bytes of a map or directory page (R220). -/
def MapPage.bytes (m : MapPage) : List Byte := leBytes 8 m.seq ++ leBytes 4 m.page ++ leBytes 4 0 ++ m.entryBytes

/-- The 24 bytes of an entry of the run table (R208). -/
def Run.bytes (r : Run) : List Byte :=
  leBytes 8 r.off ++ leBytes 6 r.len ++ [if r.leaf = 0 then 0 else 1, BitVec.ofNat 8 r.leaf] ++ leBytes 8 r.loc.bits

/-- The 4,096 bytes of a run page (R208). -/
def RunPage.bytes (r : RunPage) : List Byte :=
  leBytes 8 r.seq ++ leBytes 2 r.stream ++ [BitVec.ofNat 8 r.depth, BitVec.ofNat 8 r.entries.length] ++ leBytes 4 0 ++
  r.entries.flatMap Run.bytes ++ List.replicate (24 * (170 - r.entries.length)) 0

/-- The data area and the trailer area of a codeword that holds a piece: its blocks stand at their places in the chunk (R100, R179,
R207). -/
def Piece.codeword (p : Piece) (key : List Byte) : List Byte :=
  let n := 16 * p.blocks.length
  let lead := 16 * (p.first / 16)
  let st := p.stored key
  List.replicate lead 0 ++ st.take n ++ List.replicate (4096 - lead - n) 0 ++ st.drop n

/-- Codewords that a move has written. -/
def Move.codewords (m : Move) : Nat :=
  if m.stream = randKey then 1 else (m.off + m.len + 4095) / 4096 - m.off / 4096

/-- The piece whose codeword a move writes at a location: what was read of it is encoded again there (R153, R207, R231). -/
def State.movedTo (s : State) (l : Loc) : Option Piece :=
  (s.place.moves.find? fun m => { m.dest with q := l.q } == l && decide (m.dest.q ≤ l.q) && decide (l.q < m.dest.q + m.codewords)).bind fun m =>
    s.place.pieces.find? fun p =>
      if m.stream = randKey then p.unit == some m.off && p.seq == m.len
      else p.unit.isNone && p.stream == m.stream && decide (m.off ≤ p.off) && decide (p.off + p.data.length ≤ m.off + m.len) &&
        decide (p.off / 4096 = m.off / 4096 + (l.q - m.dest.q))

/-- The piece whose bytes a codeword holds: one placed there, or one that a move copies there. -/
def State.pieceAt (s : State) (l : Loc) : Option Piece :=
  match s.place.pieces.find? fun p => p.loc == some l || p.spill == some l with
  | some p => some p
  | none => s.movedTo l

/-- The kind, and the data and trailer areas, of the codeword at a location (R179, R180): a piece, a page, or pad. -/
def State.codewordAt (s : State) (l : Loc) : Nat × List Byte :=
  match s.pieceAt l with
  | some p => (if p.unit.isSome then 1 else 0, p.codeword s.intake.key)
  | none =>
    match s.place.pageJobs.find? fun x => x.1 == l with
    | some (_, .map m) => (3, m.bytes ++ leBytes 16 0)
    | some (_, .run r _) => (3, r.bytes ++ leBytes 16 0)
    | none => (4, List.replicate 4112 0)

/-- A codeword as it stands on flash, its LDPC parity behind it (R179). -/
def codewordOnFlash (w : List Byte) : List Byte := w ++ leBytes 512 (Config.ldpcParity w).toNat

/-- A PROGRAM's range of codewords takes in codeword k of its unit (R165, R166). -/
def inRange (d : MDesc) (k : Nat) : Bool := decide (d.cwFirst.toNat ≤ k) && decide (k < d.cwFirst.toNat + d.cwCount.toNat)

/-- The kinds and the contents of the codewords of the unit that a PROGRAM on channel c programs; a codeword outside its range is pad
(R166, R179, R180). -/
def State.unitWords (s : State) (d : MDesc) (c : Nat) : List (Nat × List Byte) :=
  let b := d.band.toNat
  let row := d.wl.toNat
  let x := s.band b
  let cu := s.cu x.slc
  let lead := ((s.place.groups.find? fun g => g.bands.contains b).map Group.bands).getD x.group
  let unit := ((List.range (row + 1)).flatMap fun r => (s.rowUnits lead r).map fun u => (r, u)).findIdx? fun y => y == (row, (b, c))
  (List.range cu).map fun k =>
    if inRange d k then s.codewordAt { band := lead.headD b, width := lead.length, slc := x.slc, q := unit.getD 0 * cu + k }
    else (4, List.replicate 4112 0)

/-- The codewords of a unit as MEDIA encodes them: header, data area, trailer area and LDPC parity each (R179, R180). -/
def State.unitContent (s : State) (d : MDesc) (c seq : Nat) : List (List Byte) :=
  match s.media.profile with
  | none => []
  | some p => (s.unitWords d c).zipIdx.map fun w =>
      codewordOnFlash (headerBytes (unitHeader p (s.band d.band.toNat).slc d.band.toNat d.wl.toNat c w.1.1 seq w.2) ++ w.1.2)

/-! ### Programmed units and parity (R173, R175) -/

/-- A codeword lies in a unit. -/
def State.liesIn (s : State) (l : Option Loc) (row b c : Nat) : Bool :=
  match l with
  | some l => (s.groupBands l).contains b && s.unitAt l == some (row, b, c)
  | none => false

/-- A descriptor of a unit waits, runs, or has ended well. -/
def State.pendingOp (s : State) (op : MOp) (b row c : Nat) : Bool :=
  let mine := fun (d : MDesc) => mopOf d.op = some op && decide (d.band.toNat = b) && decide (d.wl.toNat = row)
  ((s.chan c).queue.any fun e => mine e.d && (e.status.isNone || e.status == some 0)) || (s.chan c).waits.any mine

/-- Every data unit of a row is programmed, or was left when its member failed (R178). -/
def State.rowFull (s : State) (b row : Nat) : Bool :=
  let x := s.band b
  (dataSlots b (x.membersAt row)).all fun c =>
    x.units.contains (row, c) || (x.failedAt row c && !s.pendingOp .program b row c)

/-- The member that would take a row's parity has failed: the row ends without it, and its accumulator is kept (R178). -/
def State.rowForsaken (s : State) (b row : Nat) : Bool :=
  (s.band b).failedAt row ((s.band b).parityAt b row) && s.rowFull b row

/-- Rows of a band that have a data unit programmed or on its way, or an accumulator, and whose parity is still to come. -/
def State.openRows (s : State) (b : Nat) : List Nat :=
  let x := s.band b
  (List.range s.wordlines).filter fun r =>
    !x.parity.contains r &&
    (x.accs.contains r || x.units.any (fun u => u.1 = r) || x.channels.any (s.pendingOp .program b r)) && !s.rowForsaken b r

/-- An open band closes with its last row, or once it is left and its open rows are complete (R176, R227). -/
def State.closeBand (s : State) (b : Nat) : State :=
  let x := s.band b
  if x.phase = .open && (decide (x.parity.length = s.wordlines) || x.left) && (s.openRows b).isEmpty then
    s.modBand b fun y => { y with phase := .closed }
  else s

/-- The parity of a row is programmed: its accumulator is released, and the band closes with its last row (R173, R227). -/
def State.parityDone (s : State) (b row : Nat) : State :=
  (s.modBand b fun x => { x with
    parity := if x.parity.contains row then x.parity else x.parity ++ [row]
    accs := x.accs.filter fun r => r ≠ row, accBuf := x.accBuf.filter fun r => r.1 ≠ row }).closeBand b

/-- The PARITY of a full row is issued once, in the class of the row's programs (R175). -/
def State.issueParity (s : State) (b row : Nat) (cls : BitVec 3) : State :=
  let x := s.band b
  let p := parityChan b (x.membersAt row)
  if !x.accs.contains row || !s.rowFull b row || s.pendingOp .parity b row p || x.failedAt row p then s
  else
    match x.members.find? fun m => m.1 = p with
    | none => s
    | some m => s.submit p (unitDesc 0x03 s.planes (b % 16) m.2 row b (s.cu x.slc) x.slc false cls s.media.tagNext)

/-- The bytes of a run lie within another, at the codewords that its arithmetic gives (R207). -/
def runWithin (r x : Run) : Bool :=
  x.leaf == 0 && x.stream == r.stream && decide (x.off ≤ r.off) && decide (r.off + r.len ≤ x.off + x.len) &&
  r.loc == { x.loc with q := x.loc.q + (r.off / 4096 - x.off / 4096) }

/-- The headers of a unit that is programmed are recorded (R180). -/
def Band.addHeads (x : Band) (row c seq : Nat) (kinds : List Nat) : Band :=
  if (x.headsAt row c).isSome then x else { x with heads := x.heads ++ [(row, c, seq, kinds)] }

/-- A unit of a band is programmed. -/
def Band.addUnit (x : Band) (row c seq : Nat) (kinds : List Nat) : Band :=
  if x.units.contains (row, c) then x else { x.addHeads row c seq kinds with units := x.units ++ [(row, c)] }

/-- A unit is XORed into the accumulator of its row, or out of it (R173, R178). -/
def Band.xorUnit (x : Band) (row : Nat) (u : List Byte) : Band :=
  if x.parity.contains row then x
  else { x with
    accs := if x.accs.contains row then x.accs else x.accs ++ [row]
    accBuf := if x.accBuf.any fun y => y.1 = row then x.accBuf.map fun y => if y.1 = row then (row, xorBytes y.2 u) else y
              else x.accBuf ++ [(row, u)] }

/-- A data unit is transferred under ACC: its row has an accumulator, and the unit is XORed into it; its codewords' headers carry the
journal sequence current now (R173, R180). -/
def State.accUnit (s : State) (d : MDesc) (c : Nat) : State :=
  let seq := s.journal.nextSeq - 1
  let u := (s.unitContent d c seq).flatten
  s.modBand d.band.toNat fun x => (x.addHeads d.wl.toNat c seq ((s.unitWords d c).map Prod.fst)).xorUnit d.wl.toNat u

/-- A programmed unit is XORed out of the accumulator of its row again, and holds nothing that counts (R178 step 1, R236). -/
def State.unaccUnit (s : State) (d : MDesc) (c : Nat) : State :=
  let b := d.band.toNat
  let row := d.wl.toNat
  let u := (s.unitContent d c (((s.band b).headsAt row c).map Prod.fst |>.getD 0)).flatten
  if (s.band b).parity.contains row || !(s.band b).units.contains (row, c) then s
  else s.modBand b fun x =>
    { x.xorUnit row u with
      units := x.units.filter fun y => y ≠ (row, c), heads := x.heads.filter fun h => !(h.1 == row && h.2.1 == c) }

/-- The open rows of a band are closed early (R176): each data unit not yet programmed is programmed, with pad codewords where it
holds nothing, and the parity follows; the band takes no further row. -/
def State.closeRows (s : State) (b : Nat) (cls : BitVec 3) : State :=
  let s1 := s.modBand b fun x => { x with left := true }
  let missing := (s1.openRows b).flatMap fun r =>
    ((dataSlots b ((s1.band b).membersAt r)).filter fun c =>
      !(s1.band b).units.contains (r, c) && !s1.pendingOp .program b r c && !(s1.band b).failedAt r c).map fun c => (r, c)
  let s2 := missing.foldl (fun t u => t.programUnit u.1 b u.2 cls) s1
  ((s2.openRows b).foldl (fun t r => t.issueParity b r cls) s2).closeBand b

/-- A group closes: the unit that still holds other pieces than spilled ones is programmed, its open rows are closed early, its
retained pieces leave the Tun once a committed tail records them (R123), and their spill copies become their only copies (R176,
R212, R215). -/
def State.closeGroup (s : State) (g : Group) : State :=
  let mine := fun (p : Piece) => match p.loc with
    | some l => decide (g.bands.head? = some l.band)
    | none => false
  let s1 := s.onPlace fun p => { p with
    groups := p.groups.filter fun x => x.role ≠ g.role
    pieces := p.pieces.map fun x =>
      match x.spill with
      | some l =>
        if mine x then { x with loc := some l, spill := none, spillOk := false, done := x.spillOk, inTun := !(x.spillOk && x.noted) }
        else x
      | none => x }
  let cu := s.cu g.slc
  let left := s1.place.pieces.any fun p => p.inTun && !p.done && mine p && p.loc.any fun l => l.q / cu == g.next / cu
  let s2 := if decide (0 < cu) && left then s1.launch g [g.next / cu] (roleClass g.role) else s1
  g.bands.foldl (fun t b => t.closeRows b (roleClass g.role)) s2

/-- Take n codewords of a role's group; a group that cannot take them closes and a new one is formed. The answer names the group,
the first codeword and the group units that the codewords fill. -/
def State.allocate (s : State) (role : GroupRole) (n : Nat) : Option (State × Group × Loc × List Nat) :=
  match s.openGroup role with
  | none => none
  | some (t, g) =>
    let fits := decide (g.next + n ≤ t.groupSize g)
    let r := if fits then some (t, g) else (t.closeGroup g).openGroup role
    match r with
    | none => none
    | some (t, g) =>
      let cu := t.cu g.slc
      if cu = 0 ∨ g.bands = [] then none
      else
        let loc : Loc := { band := g.bands.headD 0, width := g.bands.length, slc := g.slc, q := g.next }
        let t1 := t.onPlace fun p => { p with groups := p.groups.map fun x =>
          if x.role = role then { x with next := x.next + n } else x }
        some (t1, g, loc, (List.range ((g.next + n) / cu - g.next / cu)).map fun j => g.next / cu + j)

/-! ### Pieces of intake (R213) -/

/-- p is a piece of stream i that INTAKE has completed, held in the Tun and not yet placed. -/
def State.completed (s : State) (i : Nat) (p : Piece) : Bool :=
  let e := s.stream i
  p.inTun && p.loc.isNone && p.unit.isNone && decide (p.stream = i) &&
  !(decide (p.epoch = e.epoch) && decide (p.off = e.pieceStart) && decide (e.pieceStart < e.front))

/-- p is a completed piece of stream i that the Tun has acknowledged (R18). -/
def State.heldPiece (s : State) (i : Nat) (p : Piece) : Bool := s.completed i p && s.tunHas p

/-- Stream i writes a lane, whose pieces are written as INTAKE completes them (R213). -/
def State.inLane (s : State) (i : Nat) : Bool := s.roleFor i false = .lane i

/-- A piece goes to staging: always (R211), or by the mode that its class had when INTAKE completed it (R210). -/
def State.goesStaged (s : State) (p : Piece) : Bool :=
  p.staged || (!p.fixed && !s.intake.direct.getLsbD (s.stream p.stream).cls.toNat)

/-- p is held apart for a pack group or for staging (R213). -/
def State.heldApart (s : State) (i : Nat) (p : Piece) : Bool := s.heldPiece i p && (s.goesStaged p || !s.inLane i)

/-- Bytes of all pieces held apart (R213). -/
def State.heldBytes (s : State) : Nat :=
  sumBy (fun p => if s.heldApart p.stream p then p.tunBytes else 0) s.place.pieces

/-- Bytes of the pieces of stream i held apart. -/
def State.heldOf (s : State) (i : Nat) : Nat := sumBy Piece.tunBytes (s.place.pieces.filter (s.heldApart i))

/-- No stream holds more bytes for placement than stream i (R213). -/
def State.mostHeld (s : State) (i : Nat) : Bool := s.intake.streams.all fun x => decide (s.heldOf x.1 ≤ s.heldOf i)

/-- Location q codewords further on. -/
def Loc.plus (l : Loc) (n : Nat) : Loc := { l with q := l.q + n }

/-- Give the pieces that satisfy f consecutive locations from l, in the order of the list. -/
def assignLocs (f : Piece → Bool) : List Piece → Loc → List Piece
  | [], _ => []
  | p :: ps, l => if f p then { p with loc := some l } :: assignLocs f ps (l.plus 1) else p :: assignLocs f ps l

/-- All held pieces of stream i with a given staged flag go to consecutive codewords, in offset order (R207, R213). -/
def State.placeStream (s : State) (i : Nat) (staged : Bool) : State :=
  let f := fun (p : Piece) => s.heldPiece i p && (s.goesStaged p == staged)
  let n := (s.place.pieces.filter f).length
  if n = 0 then s
  else
    match s.allocate (s.roleFor i staged) n with
    | none => s
    | some (t, g, l, us) => (t.onPlace fun p => { p with pieces := assignLocs f p.pieces l }).launch g us (roleClass g.role)

/-- All random-region units held in the Tun without a place go to consecutive codewords of the random group, or in
write-through of the staging group (R109, R211, R219). -/
def State.placeUnits (s : State) (staged : Bool) : State :=
  let f := fun (p : Piece) => p.inTun && p.loc.isNone && p.unit.isSome && (p.staged == staged)
  let n := (s.place.pieces.filter f).length
  if n = 0 then s
  else
    match s.allocate (if staged then .staging else .random) n with
    | none => s
    | some (t, g, l, us) => (t.onPlace fun p => { p with pieces := assignLocs f p.pieces l }).launch g us (roleClass g.role)

/-- The pieces of stream i that are held apart are placed (R213): a close of the stream has been applied, 24 codewords are held, or
more than 16 MiB are held in all and stream i holds the most. -/
def State.placeDue (s : State) (i : Nat) : Bool :=
  let e := s.stream i
  let mine := s.place.pieces.filter (s.heldApart i)
  (mine.any fun p => decide (p.cycle < e.openCycle) || e.st ≠ .open) || decide (24 ≤ mine.length) ||
  (decide (16777216 < s.heldBytes) && s.mostHeld i)

/-- PIECE_PLACEMENT of stream i: its lane's pieces, and those held apart that are due (R213). -/
def State.placeHeld (s : State) (i : Nat) : State :=
  let s1 := if s.inLane i then s.placeStream i false else s
  if !s.placeDue i then s1
  else if s.inLane i then s1.placeStream i true else (s1.placeStream i false).placeStream i true

/-! ### The seal's units (R214, R215) -/

/-- Codewords by which the staging group's last unit falls short of full. -/
def Group.short (g : Group) (cu : Nat) : Nat := if cu = 0 then 0 else (cu - g.next % cu) % cu

/-- The unit of a group that is not full is completed with pad codewords (kind 4) and programmed (R214). -/
def State.padGroup (s : State) (role : GroupRole) (cls : BitVec 3) : State :=
  match s.place.groups.find? fun g => g.role = role with
  | none => s
  | some g =>
    let k := g.short (s.cu g.slc)
    if k = 0 then s else
      match s.allocate role k with
      | none => s
      | some (t, g, _, us) => t.launch g us cls

/-- Pad the staging unit in a seal or a write-through flush, at class 1 (R188, R214). -/
def State.padStaging (s : State) : State := s.padGroup .staging 1

/-- A native unit of a group that is not yet full. -/
def State.partialUnit (s : State) (l : Loc) : Bool :=
  match s.place.groups.find? fun g => g.bands.head? = some l.band with
  | none => false
  | some g => !g.slc && decide (g.next / s.cu g.slc = l.q / s.cu g.slc) && decide (g.next % s.cu g.slc ≠ 0)

/-! ### Pages (R208, R209, R220, R222) -/

/-- A page takes the next codeword of the random group, and its program is submitted at class 4 (R188, R212). -/
def State.pageJob (s : State) (body : State → PageBody) : State :=
  match s.allocate .random 1 with
  | none => s
  | some (t, g, l, us) => (t.onPlace fun p => { p with pageJobs := p.pageJobs ++ [(l, body t)] }).launch g us 4

/-- The directory page that locates a map page (R220). -/
def dirPage (p : Nat) : Nat := 2147483648 + p / 1020

/-- An entry of the directory page of a map page changes: it is due, its Cellar copy is not current, and its frame is changed (R221, R222,
R225). -/
def State.touchDirectory (s : State) (p : Nat) : State :=
  if 2147483648 ≤ p then s
  else s.onPlace fun x => { x with
    pagesDue := addOnce (dirPage p) x.pagesDue
    cellCur := x.cellCur.filter fun q => q ≠ dirPage p
    frames := x.frames.map fun f => if f.1 = dirPage p ∧ f.2.st = .clean then (f.1, { f.2 with st := .unflushed }) else f }

/-- A map or directory page is programmed as it stands; a map page's directory page is changed by it (R220, R222). -/
def State.programMap (s : State) (p : Nat) : State :=
  let n := s.place.pageJobs.length
  let t := s.pageJob fun u => .map (u.formPage p)
  if t.place.pageJobs.length = n then s
  else
    (t.onPlace fun x => { x with pagesDue := x.pagesDue.filter fun q => q ≠ p }).touchDirectory p

/-- A run page is programmed again where it lies in the way of the Sparge or a refresh (R227, R230); while no codeword can be had for it, it
stays due. -/
def State.programRun (s : State) (l : Loc) : State :=
  match s.place.runPages.find? fun x => x.1 = l with
  | none => s.onPlace fun p => { p with runDue := p.runDue.filter fun x => x ≠ l }
  | some (_, g) =>
    let t := s.pageJob fun u => .run { g with seq := u.journal.nextSeq - 1 } (some l)
    if t.place.pageJobs.length = s.place.pageJobs.length then s
    else t.onPlace fun p => { p with runDue := p.runDue.filter fun x => x ≠ l }

/-- Every changed page is submitted: run pages, map pages, then the directory pages that locate them (R128, R209, R222). -/
def State.submitPages (s : State) : State :=
  let s1 := s.place.runDue.foldl State.programRun s
  let s2 := (s1.place.pagesDue.filter fun p => p < 2147483648).foldl State.programMap s1
  let s3 := (s2.place.pagesDue.filter fun p => 2147483648 ≤ p).foldl State.programMap s2
  if s3.place.pageJobs.isEmpty then s3 else s3.padGroup .random 4

/-! ### The end of a unit's program (R173, R208, R214, R220) -/

/-- A page has changed since it was programmed: it is due, or its program has not completed (R221). -/
def State.pageStale (s : State) (p : Nat) : Bool :=
  s.place.pagesDue.contains p || s.place.pageJobs.any fun x => match x.2 with
    | .map m => m.page == p
    | .run _ _ => false

/-- The state of a frame that has its page, by its dirty lines (R221). -/
def State.frameState (s : State) (p : Nat) (lines : List Nat) : FrameState :=
  if !lines.isEmpty then .dirty else if s.pageStale p then .unflushed else .clean

/-- The Grist takes an entry of a unit with its entry sequence: its line is dirty, its page is changed and has no current Cellar copy (R221,
R225, R226). -/
def State.takeEntry (s : State) (u seq : Nat) : State :=
  let (p, l) := unitLine u
  s.onPlace fun x =>
    let f := tget frameNone x.frames p
    { x with
      useClock := x.useClock + 1
      pagesDue := addOnce p x.pagesDue
      cellCur := x.cellCur.filter fun q => q ≠ p
      frames := tset frameNone x.frames p
        { st := if f.st = .fetching then .fetching else .dirty, used := x.useClock + 1, lines := addOnce l f.lines
          seqs := tset 0 f.seqs (u % 1020) seq } }

/-- A leaf follows the replacement of its page: it covers what the page's entries cover (R208). -/
def Run.moveTo (old new : Loc) (g : RunPage) (r : Run) : Run :=
  if r.leaf = 0 ∨ r.loc ≠ old then r
  else
    match g.entries, g.entries.getLast? with
    | a :: _, some z => { r with loc := new, leaf := g.entries.length, off := a.off, len := z.off + z.len - a.off }
    | _, _ => r

/-- The first unit of a page whose program has completed is on flash: a map page is the page on flash from now on, its directory page
changes, and its frame is CLEAN if nothing has changed since (R220, R222); a run page's leaf takes the place of its entries, or of the leaf
of the page that it replaces; where that leaf lies in a page of leaves, this page is replaced in turn (R208, R209). -/
def State.landPage (s : State) (x : Loc × PageBody) : State :=
  let s1 := s.onPlace fun p => { p with pageJobs := p.pageJobs.filter fun y => y ≠ x }
  match x.2 with
  | .map m => (s1.onPlace fun p => { p with
      mapPages := (p.mapPages.filter fun y => y.2.page ≠ m.page) ++ [(x.1, m)]
      cellCur := p.cellCur.filter fun q => q ≠ m.page ∧ q ≠ dirPage m.page
      frames := p.frames.map fun f =>
        if f.1 = m.page ∧ f.2.st = .unflushed ∧ !p.pagesDue.contains m.page then (f.1, { f.2 with st := .clean }) else f })
  | .run g none =>
    match g.entries, g.entries.getLast? with
    | a :: _, some z =>
      if g.entries.all s.place.runs.contains then s1.onPlace fun p => { p with
        runPages := p.runPages ++ [(x.1, g)]
        runs := (p.runs.filter fun r => !g.entries.contains r) ++
          [{ stream := g.stream, off := a.off, len := z.off + z.len - a.off, kind := 0, loc := x.1, leaf := g.entries.length }] }
      else s1
    | _, _ => s1
  | .run g (some l) =>
    let moved : State := s1.onPlace fun p => { p with
      runPages := p.runPages.map fun y => if y.1 = l then (x.1, g) else y
      runs := (p.runs.filter fun r => r.leaf ≠ 0 || r.stream ≠ g.stream || !g.entries.any (runWithin r)).map (Run.moveTo l x.1 g) }
    match s.place.runPages.find? fun y => y.2.entries.any fun r => r.leaf ≠ 0 && r.loc == l with
    | none => moved
    | some y => (moved.pageJob fun u => .run { y.2 with
        seq := u.journal.nextSeq - 1, entries := y.2.entries.map (Run.moveTo l x.1 g) } (some y.1)).padGroup .random 4

/-- A codeword lies in the unit of a PROGRAM on channel c, within its range (R166). -/
def State.inUnit (s : State) (d : MDesc) (c : Nat) (l : Option Loc) : Bool :=
  s.liesIn l d.wl.toNat d.band.toNat c && l.any fun x => inRange d (x.q % max 1 (s.cu x.slc))

/-- The pages in a unit whose program has completed are on flash. -/
def State.landPages (s : State) (d : MDesc) (c : Nat) : State :=
  (s.place.pageJobs.filter fun x => s.inUnit d c (some x.1)).foldl State.landPage s

/-- A piece after the program of a unit: it is on flash if it lies there, and so is its spill copy. -/
def State.pieceDone (s : State) (d : MDesc) (c : Nat) (x : Piece) : Piece :=
  if x.inTun && !x.done && s.inUnit d c x.loc then { x with done := true, spill := none, spillOk := false }
  else if s.inUnit d c x.spill then { x with spillOk := true }
  else x

/-- The run extension by which a native unit supersedes a spill copy that a tail has recorded (R214). -/
def Piece.supersede (x : Piece) : Option Move :=
  x.loc.map fun l =>
    { kind := 0, stream := if x.unit.isSome then randKey else x.stream, off := x.unit.getD x.off
      len := if x.unit.isSome then x.seq else x.data.length, dest := l, checked := true, noted := false }

/-- The program of a data unit has completed: the pieces and the spill copies in it are on flash (R82, R214). -/
def State.unitDone (s : State) (d : MDesc) (c : Nat) : State :=
  let b := d.band.toNat
  let row := d.wl.toNat
  let s1 := (s.onPlace fun p => { p with pieces := p.pieces.map fun x => s.pieceDone d c x }).landPages d c
  let beyond := (s.place.pieces.filter fun x => x.spillOk && x.noted && s.inUnit d c x.loc).filterMap Piece.supersede
  let s2 := (s1.onPlace fun p => { p with moves := p.moves ++ beyond }).modBand b fun x =>
    x.addUnit row c (s.journal.nextSeq - 1) ((s.unitWords d c).map Prod.fst)
  (s2.issueParity b row d.cls).closeBand b

/-- A piece is on flash: its program has completed, or that of its spill copy. -/
def Piece.onFlash (p : Piece) : Bool := p.done || (p.spill.isSome && p.spillOk)

/-- Two pieces wait in one unit. -/
def State.sameUnit (s : State) (p q : Piece) : Bool :=
  match p.loc, q.loc with
  | some l, some m => decide (l.band = m.band) && decide (l.q / s.cu l.slc = m.q / s.cu l.slc)
  | _, _ => false

/-- p is spilled at the seal of cycle n: its native unit is not full, holds a piece credited to n or earlier, and is not already on
flash as it stands (R214). -/
def State.spills (s : State) (n : Nat) (p : Piece) : Bool :=
  p.inTun && !p.done && p.loc.any s.partialUnit &&
  (s.place.pieces.any fun q => q.inTun && !q.done && s.sameUnit p q && decide (q.cycle ≤ n)) &&
  s.place.pieces.any fun q => q.inTun && !q.onFlash && s.sameUnit p q

/-- Give spilled pieces their copies in the staging group. -/
def assignSpills (f : Piece → Bool) : List Piece → Loc → List Piece
  | [], _ => []
  | p :: ps, l => if f p then { p with spill := some l, spillOk := false } :: assignSpills f ps (l.plus 1) else p :: assignSpills f ps l

/-- Spill (R214). -/
def State.spillUnits (s : State) (n : Nat) : State :=
  let f := s.spills n
  let k := (s.place.pieces.filter f).length
  if k = 0 then s
  else
    match s.allocate .staging k with
    | none => s
    | some (t, g, l, us) => (t.onPlace fun p => { p with pieces := assignSpills f p.pieces l }).launch g us 1

/-- A stream of the class still completes pieces (R210, R212). -/
def State.classServed (s : State) (c : Nat) : Bool :=
  s.intake.streams.any fun x =>
    (x.2.st = .open || x.2.st = .draining || x.2.st = .faulted) && x.2.cls.toNat == c

/-- At a marker, the pieces completed before it take the mode that their class had (R210). -/
def State.fixModes (s : State) : State :=
  s.onPlace fun p => { p with pieces := p.pieces.map fun x =>
    if x.unit.isNone && !x.fixed && s.completed x.stream x then { x with staged := s.goesStaged x, fixed := true } else x }

/-- A stream still completes pieces, which may come to staging: over quota, spilled, or of a STAGED class (R96, R211, R212, R214). -/
def State.stagingServes (s : State) : Bool :=
  s.intake.streams.any fun x => x.2.st = .open || x.2.st = .draining || x.2.st = .faulted

/-- At a marker: the modes of the classes, and the lanes, pack groups and the staging group that no longer serve a stream close (R210, R212,
R215; that the staging group serves every stream that completes pieces: DEDUCED, log 146). -/
def State.chooseModes (s : State) : State :=
  let s1 := s.fixModes.onIntake fun i => { i with direct := s.classModes }
  let gone := s1.place.groups.filter fun g =>
    match g.role with
    | .lane i => !(s1.laneStreams.contains i)
    | .pack c => !(s1.intake.direct.getLsbD c) || !(s1.classServed c)
    | .staging => !s1.stagingServes
    | .random | .fold | .sparge | .spargeRandom => false
  gone.foldl State.closeGroup s1

/-! ### Space and staging attention -/

/-- Staging occupancy in 90 % and 80 % of its capacity: STAGING_HIGH (R217). -/
def State.stagingCheck (s : State) : State :=
  if s.stagingCap = 0 then s
  else if !s.place.stagingHi && decide (90 * s.stagingCap < 100 * s.stagingUsed) then
    (s.raise .stagingHigh).onPlace fun p => { p with stagingHi := true }
  else if s.place.stagingHi && decide (100 * s.stagingUsed < 80 * s.stagingCap) then
    s.onPlace fun p => { p with stagingHi := false }
  else s

/-- A location's codeword lies in band b (R205). -/
def State.locIn (s : State) (b : Nat) (l : Loc) : Bool := (s.groupBands l).contains b && (s.unitAt l).any fun u => u.2.1 == b

/-- A piece's bytes lie in band b. -/
def State.pieceIn (s : State) (b : Nat) (p : Piece) : Bool :=
  match p.spill, p.loc with
  | some l, _ => s.locIn b l
  | none, some l => s.locIn b l
  | none, none => false

/-- The chunk of a piece is invalid: ST_TRIM has passed its last byte (R229). -/
def State.trimmedOff (s : State) (p : Piece) : Bool :=
  p.unit.isNone && decide (4096 * (p.off / 4096 + 1) ≤ (s.stream p.stream).trim)

/-- Run, map and directory pages in band b, those whose programs have not completed with them. -/
def State.pagesIn (s : State) (b : Nat) : List Loc :=
  (s.place.runPages.map Prod.fst ++ s.place.mapPages.map Prod.fst ++ s.place.pageJobs.map Prod.fst).filter (s.locIn b)

/-- A host write waits for the through note that holds the map delta of an entry sequence (R109, R307): the unit is not accepted yet. -/
def State.awaited (s : State) (seq : Nat) : Bool := s.host.active.any fun d => d.awaits.contains seq

/-- A later write of the same random unit has completed (R229). -/
def State.overwritten (s : State) (p : Piece) : Bool :=
  p.unit.isSome && s.place.pieces.any fun r => r.unit == p.unit && decide (p.seq < r.seq) && !s.awaited r.seq

/-- The codeword of a piece is invalid (R229). -/
def State.invalid (s : State) (p : Piece) : Bool := s.trimmedOff p || s.overwritten p

/-- Pieces of valid data in band b. -/
def State.validIn (s : State) (b : Nat) : List Piece := s.place.pieces.filter fun p => s.pieceIn b p && !s.invalid p

end Sys2Proof.Machine
end

