-- ==== Sys2Proof/Machine/Journal.lean ====
section
/-! DEFINITION. The journal: its tail and what a commit releases (R122, R123), runs (R207, R208), casks and through notes
(R124, R127), the seal (R66, R125), checkpoints (R128), seal marks and the set-sealed cycle (R146 to R150). -/
namespace Sys2Proof.Machine
open Sys2Proof

/-! ### Runs (R207, R208) -/

/-- Run b continues run a: it begins where a ends, in the same group and mode, at the codeword that a's arithmetic gives
(R207). -/
def runJoins (a b : Run) : Bool :=
  a.stream = b.stream && a.leaf = 0 && b.leaf = 0 && a.off + a.len = b.off &&
  a.loc.band = b.loc.band && a.loc.width = b.loc.width && a.loc.slc = b.loc.slc &&
  a.loc.q + (b.off / 4096 - a.off / 4096) = b.loc.q

/-- What a new run leaves of a run entry: the parts of it outside the new run, each still at the codeword that R207 gives. -/
def cutRun (r x : Run) : List Run :=
  if x.stream ≠ r.stream ∨ x.leaf ≠ 0 ∨ x.off + x.len ≤ r.off ∨ r.off + r.len ≤ x.off then [x]
  else
    let e := r.off + r.len
    (if x.off < r.off then [{ x with len := r.off - x.off }] else []) ++
    (if e < x.off + x.len then
      [{ x with off := e, len := x.off + x.len - e, loc := { x.loc with q := x.loc.q + (e / 4096 - x.off / 4096) } }] else [])

/-- Two runs that join become one. -/
def joinRuns (a b : Run) : Run := { a with len := a.len + b.len }

/-- Enter a run: it takes the place of what the table held for its bytes, and merges with the run before it and the run after it
(R207). -/
def addRun (rs : List Run) (r : Run) : List Run :=
  let kept := rs.flatMap (cutRun r)
  let before := kept.find? fun x => runJoins x r
  let r1 := match before with
    | some x => joinRuns x r
    | none => r
  let after := kept.find? fun x => runJoins r1 x
  let r2 := match after with
    | some x => joinRuns r1 x
    | none => r1
  (kept.filter fun y => before != some y && after != some y) ++ [r2]

/-- The run of one piece. -/
def Piece.run (p : Piece) (kind : Nat) : Option Run :=
  match p.unit, p.place with
  | none, some l => some { stream := p.stream, off := p.off, len := p.data.length, kind := kind, loc := l, leaf := 0 }
  | _, _ => none

/-! ### Journal bands (R117, R120) -/

/-- Channels c of a journal band's mirrored pairs c and c + 16 at a row (R117): a member that has failed before it takes no part (R178, R190);
with fewer than four pairs left the row holds nothing (R159). -/
def Band.pairsAt (x : Band) (row : Nat) : List Nat :=
  let live := fun (c : Nat) => x.channels.contains c && !x.failedAt row c
  let ps := (List.range 16).filter fun c => live c && live (c + 16)
  if ps.length < 4 then [] else ps

/-- Pairs c and c + 16 with both dies ACTIVE at a die index (R117, R159). -/
def State.pairsAt (s : State) (d : Nat) : List Nat :=
  (List.range 16).filter fun c => (s.activeAt d).contains c && (s.activeAt d).contains (c + 16)

/-- Pages of 16 KiB in an SLC unit. -/
def State.unitPages (s : State) : Nat := s.unitBytes true / 16384

/-- The first page of a row of a journal band; of the row after the last, the number of its pages: each stands on both channels of a pair
(R117). -/
def State.rowPage (s : State) (b row : Nat) : Nat :=
  sumBy (fun r => ((s.band b).pairsAt r).length * s.unitPages) (List.range row)

/-- Pages of a journal band. -/
def State.journalPages (s : State) (b : Nat) : Nat := s.rowPage b s.wordlines

/-- A journal address: band and page index (R120). -/
def journalAddr (b page : Nat) : BitVec 64 := BitVec.ofNat 64 (16777216 * (b % 16777216) + page % 16777216)

/-- The row, and the lower channel of the pair, that hold a page of a journal band. -/
def State.journalUnit (s : State) (b page : Nat) : Option (Nat × Nat) :=
  let k := s.unitPages
  ((List.range s.wordlines).find? fun r => decide (page < s.rowPage b (r + 1))).map fun r =>
    (r, ((s.band b).pairsAt r).getD ((page - s.rowPage b r) / max 1 k) 0)

/-- The units that hold n pages of a journal band from a page on, as (row, band, channel), both copies (R117). -/
def State.recordUnits (s : State) (b first n : Nat) : List (Nat × Nat × Nat) :=
  ((List.range n).flatMap fun i =>
    match s.journalUnit b (first + i) with
    | some (r, c) => [(r, b, c), (r, b, c + 16)]
    | none => []).eraseDups

/-- n pages of a journal band are programmed from a page on, each on both channels of its pair; their headers name kind 2 (R117, R180). -/
def State.programPages (s : State) (b first n : Nat) : State :=
  s.modBand b fun x => (s.recordUnits b first n).foldl (fun y u =>
    y.addUnit u.1 u.2.2 (s.journal.nextSeq - 1) (List.replicate (s.cu true) 2)) x

/-- A member of a band can be programmed: its channel has not failed, its die is ACTIVE, and its block is not retired (R190, R192). -/
def State.memberLive (s : State) (b c : Nat) : Bool :=
  (s.chan c).st != .failed && tget DieCode.absent (s.chan c).dies (b % 16) == .active &&
  !(s.chan c).blocks.contains (b % 16, s.memberBlock b c)

/-- The members of the open journal band that can no longer be programmed take no part from the next row on that nothing is programmed in,
and the journal goes on in that row (R178, R190, R192). -/
def State.settleJournal (s : State) : State :=
  let b := (s.journal.bands.getLast?).getD 0
  let dead := (s.band b).channels.filter fun c => !s.memberLive b c && !(s.band b).fails.any fun d => d.1 == c
  if dead.isEmpty then s
  else
    match (List.range (s.wordlines + 1)).find? fun r => decide (s.journal.page ≤ s.rowPage b r) with
    | none => s
    | some r =>
      (s.modBand b fun x => { x with fails := x.fails ++ dead.map fun c => (c, r) }).onJournal fun j => { j with page := s.rowPage b r }

/-- Die indexes at which a journal band can be formed: with at least four mirrored pairs (R117, R159). -/
def State.journalIndexes (s : State) : List Nat := s.indexes.filter fun d => decide (4 ≤ (s.pairsAt d).length)

/-- In recovery, a journal band is formed and erased within the command, at the first index where one can be (R117, R120). -/
def State.formJournal (s : State) (r : RecoveryIn) : State × Option Nat :=
  s.journalIndexes.foldl (fun (a : State × Option Nat) d =>
    match a.2 with
    | some _ => a
    | none => a.1.formNow r .journal d) (s, none)

/-! ### Records (R118) -/

/-- Bytes of a cask body (R124). -/
def Cask.size (c : Cask) : Nat :=
  32 + 32 * c.entries.length + 24 * c.runs.length + 16 * c.deltas.length + 4 * c.released.length

/-- Bytes of a checkpoint's body. The manual lays out no checkpoint: the model takes the entry widths of R124 and R208 and 4 bytes for
each block number, page location and ordinal (DESIGN CHOICE, log 117). -/
def Snapshot.size (x : Snapshot) : Nat :=
  32 * x.streams.length + 24 * x.runs.length + sumBy (fun e => 8 + 4 * e.2.members.length) x.bands +
  sumBy (fun e => 4 * e.2.length) x.retBlk + 4 * x.mapPages.length + 4 * x.randBands.length

/-- Bytes of a record's body. -/
def Body.size : Body → Nat
  | .cask c | .note c => c.size
  | .checkpoint x => x.size
  | .bandLink _ => 8

/-- The most bytes of a body that one part of 262,144 bytes carries beside its header and its CRC (R118). -/
def partMax : Nat := 262108

/-- How many parts a body of n bytes takes. -/
def partsOf (n : Nat) : Nat := max 1 ((n + (partMax - 1)) / partMax)

/-- Bytes of a part with n bytes of body: header, body and CRC, a multiple of 16 (R118). -/
def partLen (n : Nat) : Nat := 16 * ((n + 51) / 16)

/-- Bytes of all parts of a body of n bytes. -/
def recordLen (n : Nat) : Nat := 262144 * (partsOf n - 1) + partLen (n - partMax * (partsOf n - 1))

/-- Pages that the parts take. Each part begins on a page of its own: the manual does not say how records share pages (DESIGN
CHOICE, log 118). -/
def recordPages (n : Nat) : Nat := 16 * (partsOf n - 1) + (partLen (n - partMax * (partsOf n - 1)) + 16383) / 16384

/-- The kind byte of a record (R118). -/
def Body.kind : Body → Nat
  | .cask _ => 1
  | .note _ => 2
  | .checkpoint _ => 3
  | .bandLink _ => 4

/-- One part of a record: header, body, padding and CRC (R118). -/
def partBytes (kind seq cycle idx count : Nat) (body : List Byte) : List Byte :=
  let flags := (if idx = 0 then 1 else 0) + if idx + 1 = count then 2 else 0
  let n := partLen body.length
  let head := leBytes 2 0x4A4C ++ [BitVec.ofNat 8 kind, BitVec.ofNat 8 flags] ++ leBytes 4 n ++ leBytes 8 seq ++ leBytes 8 cycle ++
    leBytes 2 idx ++ leBytes 2 0
  let all := head ++ leBytes 4 (crc32c head).toNat ++ body ++ List.replicate (n - 36 - body.length) 0
  all ++ leBytes 4 (crc32c all).toNat

/-- The parts of a record from part idx on; n bounds them. -/
def partsBytes (kind seq cycle count : Nat) : Nat → Nat → List Byte → List (List Byte)
  | 0, _, _ => []
  | n + 1, idx, body =>
    partBytes kind (seq + idx) cycle idx count (body.take partMax) :: partsBytes kind seq cycle count n (idx + 1) (body.drop partMax)

/-- A record is programmed on both copies of the next free pages of the open journal band, and takes the next sequences (R117 to
R119). The header gives the cycle that the record belongs to (R118); the manual does not say which that is for a checkpoint part and a band
link: the last cycle sealed, 0 before the first (DESIGN CHOICE, log 134). -/
def State.append (s : State) (b : Body) : State :=
  let n := b.size
  let cur := (s.journal.bands.getLast?).getD 0
  let cycle := match b with
    | .cask c | .note c => c.cycle
    | .checkpoint _ | .bandLink _ => s.journal.lastSeal.getD 0
  (s.programPages cur s.journal.page (recordPages n)).onJournal fun j => { j with
    recs := j.recs ++ [{ seq := j.nextSeq, parts := partsOf n, cycle := cycle, len := recordLen n, addr := journalAddr cur j.page, body := b }]
    nextSeq := j.nextSeq + partsOf n, page := j.page + recordPages n
    sinceCp := j.sinceCp + recordLen n, sinceHead := j.sinceHead + recordLen n }

/-- The next journal band is held, erased, its first wordlines checked (R120, R174). -/
def State.spareReady (s : State) : Bool :=
  s.journal.spare.any fun b => (s.band b).checked && !((s.band b).pairsAt 0).isEmpty

/-- A next journal band that has fewer than four pairs left, or that recovery finds unchecked, gives its blocks back. -/
def State.dropSpare (s : State) (now : Bool) : State :=
  match s.journal.spare with
  | none => s
  | some b =>
    if ((s.band b).pairsAt 0).isEmpty || (now && !(s.band b).checked) then
      (s.modBand b fun y => { y with phase := .erasable }).onJournal fun j => { j with spare := none }
    else s

/-- The next journal band is formed, so that the pool holds at least two (R120, R198): in recovery, with what recovery meets, it is erased
within the command; else the erases of its blocks are submitted at class 1 (R204). -/
def State.spareJournal (s : State) (r : Option RecoveryIn) : State :=
  let s1 := s.dropSpare r.isSome
  if s1.journal.spare.isSome then s1
  else
    let f : State × Option Nat := match r with
      | some r => s1.formJournal r
      | none =>
        match s1.journalIndexes.findSome? fun d => s1.formBand d .journal true false with
        | some (t, b) => (t.modBand b fun y => { y with group := [b] }, some b)
        | none => (s1, none)
    f.1.onJournal fun j => { j with spare := f.2 }

/-- The band link that names the next journal band is programmed, once that band is erased, and the journal goes on there (R120). -/
def State.linkBand (s : State) (r : Option RecoveryIn) : State :=
  let s1 := if s.spareReady then s else s.spareJournal r
  match s1.journal.spare with
  | none => s1
  | some b =>
    if !s1.spareReady then s1
    else
      ((s1.append (.bandLink (journalAddr b 0))).onJournal fun j =>
        { j with bands := j.bands ++ [b], page := 0, spare := none }).spareJournal r

/-- The open journal band has room for n pages and the link after them. -/
def State.roomFor (s : State) (n : Nat) : Bool :=
  decide (s.journal.page + n + 1 ≤ s.journalPages ((s.journal.bands.getLast?).getD 0))

/-- A record is written: a band that has no room for it and the link after it is left first (R118 to R120). -/
def State.record (s : State) (b : Body) (r : Option RecoveryIn) : State :=
  let s1 := s.settleJournal
  (if s1.roomFor (recordPages b.size) then s1 else s1.linkBand r).append b

/-- Records of n pages in all can be written now: they find room in the open journal band or in the next, which is ready, and their programs
may start at class 1 (R120, R186, R188). -/
def State.canRecord (s : State) (n : Nat) : Bool :=
  let s1 := s.settleJournal
  let cur := (s1.journal.bands.getLast?).getD 0
  if n = 0 then true
  else if s1.roomFor n then s1.canUse 0x02 1 (s1.recordUnits cur s1.journal.page n)
  else s1.spareReady && s1.canUse 0x02 1 (s1.recordUnits cur s1.journal.page 1 ++ s1.recordUnits (s1.journal.spare.getD 0) 0 n)

/-- Bytes of the records that follow a head (R129). -/
def State.bytesAfter (s : State) (head : Nat) : Nat := sumBy (fun r => if head < r.seq then r.len else 0) s.journal.recs

/-- Sequence of the last part of the last cask or through note; 0 with none (R122). -/
def State.tailBase (s : State) : Nat :=
  s.journal.recs.foldl (fun b r =>
    match r.body with
    | .cask _ | .note _ => r.seq + r.parts - 1
    | .checkpoint _ | .bandLink _ => b) 0

/-! ### Accepted bytes (R19, R109, R114) -/

/-- The accepted bytes of a piece: those below its stream's ST_ACCEPT; of a random-region unit all, once no note is awaited for it. -/
def State.acceptedPart (s : State) (p : Piece) : Option Piece :=
  match p.unit with
  | some _ => if s.awaited p.seq then none else some p
  | none =>
    let e := s.stream p.stream
    if p.epoch ≠ e.epoch ∨ p.off + p.data.length ≤ e.accept then some p
    else if e.accept ≤ p.off then none
    else
      let d := p.data.take (e.accept - p.off)
      some { p with data := d, crc := crc32c d }

/-- Every byte of a piece is accepted. -/
def State.allAccepted (s : State) (p : Piece) : Bool := s.acceptedPart p == some p

/-- A through note on flash records the bytes of a piece (R127). -/
def Cask.notes (c : Cask) (p : Piece) : Bool :=
  match p.unit with
  | some u => c.deltas.any fun d => d.unit == u && d.seq == p.seq
  | none =>
    (c.entries.any fun e => e.stream == p.stream && e.epoch == p.epoch) &&
    c.runs.any fun r => r.stream == p.stream && decide (r.off ≤ p.off) && decide (p.off + p.data.length ≤ r.off + r.len)

/-- A programmed run of the committed tail, or of a through note, records the bytes of a piece (R122, R127). -/
def State.recorded (s : State) (p : Piece) : Bool :=
  (s.place.pieces.any fun q => q.onFlash && q.noted && q.epoch == p.epoch && q.stream == p.stream && q.unit == p.unit &&
    (if p.unit.isSome then q.seq == p.seq else decide (q.off ≤ p.off) && decide (p.off + p.data.length ≤ q.off + q.data.length))) ||
  s.journal.recs.any fun r =>
    match r.body with
    | .note c => c.notes p
    | .cask _ | .checkpoint _ | .bandLink _ => false

/-- What a journal tail or a checkpoint states, as absolute values (R122, R128, R138): of the pieces on flash those whose bytes are all
accepted (R114), ST_TRIM as the last cask recorded it (R90). -/
def State.snapshot (s : State) : Snapshot :=
  { streams := tmap Stream.none (fun _ e => { e with trim := e.trimSealed }) s.intake.streams
    pieces := s.place.pieces.filter fun p => p.onFlash && s.allAccepted p
    runs := s.place.runs, runPages := s.place.runPages, randBands := s.place.randBands, mapPages := s.place.mapPages
    bands := tmap bandNone (fun _ y => { y with accBuf := [] }) s.place.bands, kd := s.place.kd
    retBlk := s.media.chans.filterMap fun x => if x.2.blocks = [] then none else some (x.1, x.2.blocks)
    retDies := s.media.chans.filterMap fun x => if x.2.retDies = 0 then none else some (x.1, x.2.retDies)
    retChan := s.media.chans.filterMap fun x => if x.2.retired then some x.1 else none
    memRet := s.mem.mems.filterMap fun x => if x.2.retired = [] then none else some (x.1, x.2.retired)
    good := s.place.good, heldBlk := s.place.heldBlk, stagingRes := s.place.stagingRes
    randomRes := s.place.randomRes, randSize := s.place.randSize, entrySeq := s.intake.entrySeq
    ticks := s.journal.ticks, link := s.link.last, health := s.health.words }

/-! ### Replacement of run pages (R208) -/

/-- The part of a run within the bytes of a leaf. -/
def clipRun (leaf r : Run) : Run :=
  let a := max leaf.off r.off
  let b := min (leaf.off + leaf.len) (r.off + r.len)
  { r with off := a, len := b - a, loc := { r.loc with q := r.loc.q + (a / 4096 - r.off / 4096) } }

/-- Runs of the table that a leaf's page does not agree with: they change bytes that the leaf covers. -/
def State.overLeaf (s : State) (leaf : Run) (g : RunPage) : List Run :=
  s.place.runs.filter fun r =>
    r.leaf == 0 && r.stream == leaf.stream && decide (r.off < leaf.off + leaf.len) && decide (leaf.off < r.off + r.len) &&
    !(g.entries.any (runWithin (clipRun leaf r)))

/-- The leaf that names a run page: in the table, or in a page of leaves (R208). -/
def State.leafOf (s : State) (l : Loc) : Option Run :=
  (s.place.runs ++ s.place.runPages.flatMap fun x => x.2.entries).find? fun r => r.leaf ≠ 0 && r.loc == l

/-- A change to runs that a page holds: a replacement page is submitted, its leaf to follow it, in the table or in a page of leaves that is
replaced in turn. Of more than 170 entries the page takes the first 170, and the others come into the table (R208; DESIGN CHOICE, log
121). -/
def State.replacePage (s : State) (x : Loc × RunPage) : State :=
  match s.leafOf x.1 with
  | none => s
  | some leaf =>
    let new := s.overLeaf leaf x.2
    if x.2.depth ≠ 1 || new.isEmpty || s.place.pageJobs.any (fun j => match j.2 with
        | .run _ old => old == some x.1
        | .map _ => false) then s
    else
      let es := sortBy (fun (a b : Run) => decide (a.off ≤ b.off)) (new.foldl (fun es r => addRun es (clipRun leaf r)) x.2.entries)
      ((s.onPlace fun p => { p with runs := (es.drop 170).foldl addRun p.runs }).pageJob fun u =>
        .run { x.2 with seq := u.journal.nextSeq - 1, entries := es.take 170 } (some x.1)).padGroup .random 4

/-- The run pages that the run table has overtaken are replaced. -/
def State.replacePages (s : State) : State := s.place.runPages.foldl State.replacePage s

/-! ### The journal tail (R122, R123) -/

/-- The tail in bytes, by the entry widths of R124: run extensions and moves, stream entries and map deltas since its base. -/
def State.tailBytes (s : State) : Nat :=
  let since := s.place.pieces.filter fun p => p.onFlash && match s.journal.lastSeal with
    | some n => decide (n < p.cycle)
    | none => true
  24 * (since.length + (s.place.moves.filter fun m => m.noted).length) + 32 * (s.intake.streams.filter fun e => e.2.changed ≠ []).length

/-- A move leaves the bytes that now lie below ST_TRIM or belong to a deleted stream, and a random unit written since (R231
step 4). A random unit's move stands under randKey, with the unit and its entry sequence. -/
def State.moveDropped (s : State) (m : Move) : Bool :=
  if m.stream = randKey then
    !(s.place.pieces.any fun p => p.unit = some m.off && p.seq == m.len) ||
    s.place.pieces.any fun p => p.unit = some m.off && decide (m.len < p.seq)
  else
    let e := s.stream m.stream
    e.delPend || e.st = .free || decide (m.off + m.len ≤ e.trim)

/-- A move without the bytes that now lie below ST_TRIM (R231 step 4, R235). -/
def State.trimMove (s : State) (m : Move) : Move :=
  let t := (s.stream m.stream).trim
  if m.stream = randKey ∨ t ≤ m.off ∨ m.off + m.len ≤ t then m
  else { m with off := t, len := m.off + m.len - t, dest := { m.dest with q := m.dest.q + (t / 4096 - m.off / 4096) } }

/-- A piece's codeword lies within the bytes from off on, of a length: its first bytes may lie below off, where ST_TRIM has passed them (R207,
R231). -/
def Piece.within (p : Piece) (off len : Nat) : Bool :=
  decide (off / 4096 ≤ p.off / 4096) && decide (off < p.off + p.data.length) && decide (p.off + p.data.length ≤ off + len)

/-- The move's target is where its pieces lie from now on; the source copy stays on flash until a cask has the move (R140, R231). -/
def Move.apply (m : Move) (p : Piece) : Piece :=
  if m.stream = randKey then
    if p.unit = some m.off ∧ p.seq = m.len then
      { p with loc := some m.dest, spill := none, spillOk := false, done := true, src := p.place } else p
  else if p.unit.isNone ∧ p.stream = m.stream ∧ p.within m.off m.len ∧ p.onFlash then
    { p with loc := some (m.dest.plus (p.off / 4096 - m.off / 4096)), spill := none, spillOk := false, done := true, src := p.place }
  else p

/-- The map entry of a moved unit changes: its page is changed, its Cellar copy is not current, and the line of its frame is dirty; the unit
keeps its entry sequence (R221, R222, R225, R230). -/
def State.touchEntry (s : State) (u seq : Nat) : State :=
  let p := (unitLine u).1
  if s.place.frames.any fun f => f.1 == p then s.takeEntry u seq
  else s.onPlace fun x => { x with pagesDue := addOnce p x.pagesDue, cellCur := x.cellCur.filter fun q => q ≠ p }

/-- Every target codeword of a move is programmed (R231 step 2). -/
def State.moveReady (s : State) (m : Move) : Bool :=
  (List.range m.codewords).all fun k =>
    match s.unitAt { m.dest with q := m.dest.q + k } with
    | some (row, b, c) => (s.band b).units.contains (row, c)
    | none => false

/-- The Tun holds the open piece of a stream at its frontier. -/
def State.openPiece (s : State) (p : Piece) : Bool :=
  let e := s.stream p.stream
  p.isOpen p.stream e.epoch e.pieceStart && decide (e.pieceStart < e.front)

/-- The committed tail states everything up to now (R122). -/
def State.setTail (s : State) : State :=
  s.onJournal fun j => { j with
    tail := some { base := s.tailBase, sealed := j.lastSeal, upTo := j.nextSeq - 1, snap := s.snapshot, frames := j.frames } }

/-- The Back core commits a new version of the journal tail: moves and programmed pieces whose bytes are accepted enter it (R114, R122,
R231), the run table follows, and TUN releases the pieces whose programs it records (R123). While the tail exceeds 3.5 MiB no further move
enters it (R276). -/
def State.commitTail (s : State) : State :=
  let keep := (s.place.moves.filter fun m => !s.moveDropped m).map fun m => if m.noted then m else s.trimMove m
  let fresh := keep.filter fun m => !m.noted && m.checked && s.moveReady m && decide (s.tailBytes ≤ 3670016)
  let s1 := s.onPlace fun p => { p with
    moves := keep.map fun m => { m with noted := m.noted || fresh.contains m }
    pieces := p.pieces.map fun x => fresh.foldl (fun y m => m.apply y) x }
  let s1 := (fresh.filter fun m => m.stream = randKey).foldl (fun t m => t.touchEntry m.off m.len) s1
  let on := fun (p : Piece) => p.onFlash && s1.allAccepted p
  let runs := (s1.place.pieces.filter fun p => on p && (!p.noted || fresh.any fun m => m.stream = p.stream)).filterMap
    fun p => p.run 0
  let s2 := s1.onPlace fun p => { p with
    runs := runs.foldl addRun p.runs
    pieces := p.pieces.map fun x =>
      if on x then { x with noted := true, inTun := x.inTun && (!x.done || s1.openPiece x) } else x }
  s2.replacePages.setTail

/-! ### The joined set (R146 to R150) -/

/-- m_p of a peer. -/
def State.mOf (s : State) (p : Nat) : Nat := tget 0 s.host.mp p

/-- The configured members other than the part itself (R147). -/
def State.peers (s : State) : List Nat := (List.range s.link.count).filter fun p => p != s.link.member

/-- The member's own last sealed cycle; 0 before the first seal. -/
def State.ownSealed (s : State) : Nat := s.journal.lastSeal.getD 0

/-- The set-sealed cycle (R149). -/
def State.setSealed (s : State) : Nat := s.peers.foldl (fun a p => min a (s.mOf p)) s.ownSealed

/-- Bytes 0 to 11 of a seal mark (R146). In RECOVER, READ_ONLY is 0 even where the mount will end READ_ONLY: it says what DEV_STATE shows
at the post (DESIGN CHOICE, log 119). -/
def State.markHead (s : State) (cycle : Nat) (recovered : Bool) : List Byte :=
  leBytes 2 s.link.setId.toNat ++ [BitVec.ofNat 8 s.link.member] ++
  [BitVec.ofNat 8 ((if recovered then 1 else 0) + (if s.clock.dev = .readOnly then 2 else 0))] ++ leBytes 8 cycle

/-- A seal mark (R146). -/
def State.markBytes (s : State) (cycle : Nat) (recovered : Bool) : List Byte :=
  let h := s.markHead cycle recovered
  h ++ leBytes 4 (crc32c h).toNat

/-- The seal mark of a cycle goes to every peer with an address, in index order; one that cannot be issued now waits, and
with Bus Master Enable clear it is not sent (R147, R312, R313, R371). -/
def State.postMarks (s : State) (cycle : Nat) (recovered : Bool) : State :=
  let bs := s.markBytes cycle recovered
  s.peers.foldl (fun t p =>
    let a := tget 0 t.host.peerAddr p
    if a = 0 ∨ !t.clock.mainOn ∨ !t.host.bme ∨ t.snuff.trigger.isSome then t
    else if t.upstreamOpen then
      t.issue (.sealMark (a + 0x3000 + 16 * BitVec.ofNat 64 t.link.member) bs)
    else t.onHost fun h => { h with marksDue := (h.marksDue.filter fun m => m.1 ≠ p) ++ [(p, bs)] }) s

/-- The marks that wait are posted once the port may issue them, in member index order (R147, R313). -/
def State.sendMarks (s : State) : State :=
  if s.upstreamOpen then
    (s.host.marksDue.foldl (fun t m =>
      t.issue (.sealMark (tget 0 t.host.peerAddr m.1 + 0x3000 + 16 * BitVec.ofNat 64 t.link.member) m.2)) s).onHost fun h => { h with marksDue := [] }
  else s

/-! ### Casks (R124) -/

/-- Entries of a per-cycle table at or below cycle n. -/
def upTo (n : Nat) (t : Sparse Nat) : Sparse Nat := t.filter fun x => x.1 ≤ n

/-- Entries of a per-cycle table above cycle n. -/
def above (n : Nat) (t : Sparse Nat) : Sparse Nat := t.filter fun x => n < x.1

/-- The close frontier of a stream at the seal of cycle n: of its last close at or below n (R125 step 1). -/
def Stream.closeFront (e : Stream) (n : Nat) : Nat := ((upTo n e.closes).getLast?.map Prod.snd).getD e.durable

/-- A stream has an entry in the cask of cycle n: bytes credited, or a change (R124). -/
def Stream.inCask (e : Stream) (n : Nat) : Bool := (upTo n e.credited) ≠ [] || (upTo n e.changed) ≠ []

/-- The stream as the seal of cycle n leaves it, with its frontier at f (R125); its entry in the cask records its ST_TRIM (R90). -/
def Stream.sealed (e : Stream) (n f : Nat) : Stream :=
  let e1 := { e with durable := max e.durable f, trimSealed := if e.inCask n then e.trim else e.trimSealed, credited := above n e.credited, closes := above n e.closes,
                     changed := above n e.changed, late := e.late.filter fun c => n < c, quotaSaid := e.quotaSaid.filter fun c => n < c,
                     poisonSaid := e.poisonSaid.filter fun c => n < c }
  if e1.drained then { e1 with st := .closed } else e1

/-- DELETE was applied in cycle n or before (R81). -/
def Stream.deleteDue (e : Stream) (n : Nat) : Bool :=
  e.st = .closed && e.delPend && match e.delCycle with
    | .some c => decide (c ≤ n)
    | .none => false

/-- An entry cleared except its epoch, and the mirror's sequence (R81, R92). -/
def Stream.cleared (e : Stream) (due : Bool) : Stream :=
  { Stream.none with epoch := e.epoch, mirrorSeq := e.mirrorSeq, mirrorDue := due }

/-- The entry of a stream in the cask of cycle n (R124). -/
def Stream.caskEntry (e : Stream) (i n f : Nat) : CaskEntry :=
  let a := e.sealed n f
  let flags := (upTo n e.changed).foldl (fun x y => x ||| y.2) 0 % 256
  let del := a.deleteDue n
  { stream := i, st := if del then .free else a.st
    flags := BitVec.ofNat 8 (if del then flags ||| 128 else flags)
    cls := a.cls, mirror := a.mirrorEn, quota := a.quota, epoch := a.epoch, close := a.durable, trim := a.trim }

/-- A band that the moves of the tail leave without valid data (R231 step 5). -/
def State.emptied (s : State) : List Nat :=
  (s.place.bands.filter fun x =>
    x.2.phase = .closed && x.2.pool ≠ .journal && x.2.pool ≠ .snuff && (s.validIn x.1).isEmpty && (s.pagesIn x.1).isEmpty &&
    !(s.place.groups.any fun g => g.bands.contains x.1)).map Prod.fst

/-- p is credited to cycle n or earlier, and to a cycle after the last seal. -/
def State.unsealed (s : State) (n : Nat) (p : Piece) : Bool :=
  decide (p.cycle ≤ n) && match s.journal.lastSeal with
    | some m => decide (m < p.cycle)
    | none => true

/-- The map delta of a unit (R124). -/
def State.delta (s : State) (u : Nat) (l : Loc) (seq : Nat) : MapDelta := { unit := u, loc := l, seq := seq, entry := s.mapEntry l }

/-- Map deltas of random-region units credited to n or earlier and not yet sealed, and of those that moved (R124). -/
def State.deltasOf (s : State) (n : Nat) : List MapDelta :=
  (s.place.pieces.filterMap fun p =>
    match p.unit, p.place with
    | some u, some l => if s.unsealed n p then some (s.delta u l p.seq) else none
    | _, _ => none) ++
  (s.place.moves.filter fun m => m.noted && m.stream == randKey).map fun m => s.delta m.off m.dest m.len

/-- Run extensions of a cask: intake pieces credited to n or earlier since the last seal, and the moves of the tail
(R124). -/
def State.runsOf (s : State) (n : Nat) : List Run :=
  (s.place.pieces.filterMap fun p =>
    if s.unsealed n p then p.run 0 else none) ++
  (s.place.moves.filter fun m => m.noted && m.stream != randKey).map fun m =>
    { stream := m.stream, off := m.off, len := m.len, kind := m.kind, loc := m.dest, leaf := 0 }

/-- The cask of a seal, composed from the committed tail (R124, R125 step 5). -/
def State.composeCask (s : State) (x : Seal) : Cask :=
  { cycle := x.cycle, setSealed := x.setSealed, missing := x.missing, joined := decide (1 < s.link.count)
    recovered := false, cut := false, synth := s.lamp.synthCycles.contains x.cycle
    degraded := s.clock.dev = .degraded, free := s.lamp.lock = .free
    ticks := tget 0 s.journal.ticks x.cycle
    entries := s.intake.streams.filterMap fun e =>
      if e.2.inCask x.cycle then some (e.2.caskEntry e.1 x.cycle (tget 0 x.fronts e.1)) else none
    runs := s.runsOf x.cycle, deltas := s.deltasOf x.cycle, released := s.emptied }

/-- ST_CLASS and ST_QUOTA as a cask holds them in bytes 4 to 7 (R124). -/
def CaskEntry.classWord (e : CaskEntry) : Nat := e.cls.toNat + (if e.mirror then 8 else 0) + 256 * e.quota

/-- The body of a cask, byte by byte (R124). -/
def Cask.body (c : Cask) : List Byte :=
  leBytes 8 c.setSealed ++
  [BitVec.ofNat 8 (c.missing.toNat + if c.joined then 128 else 0)] ++
  [BitVec.ofNat 8 ((if c.recovered then 1 else 0) + (if c.cut then 2 else 0) + (if c.synth then 4 else 0) +
    (if c.degraded then 8 else 0) + (if c.free then 16 else 0))] ++
  leBytes 2 c.entries.length ++ leBytes 4 c.runs.length ++ leBytes 4 c.deltas.length ++ leBytes 4 c.released.length ++
  leBytes 8 c.ticks ++
  (c.entries.flatMap fun e =>
    leBytes 2 e.stream ++ [BitVec.ofNat 8 (sstateCode e.st), e.flags] ++ leBytes 4 e.classWord ++ leBytes 8 e.epoch ++
    leBytes 8 e.close ++ leBytes 8 e.trim) ++
  (c.runs.flatMap fun r =>
    leBytes 2 r.stream ++ [BitVec.ofNat 8 r.kind, 0] ++ leBytes 4 r.len ++ leBytes 8 r.off ++ leBytes 8 r.loc.bits) ++
  (c.deltas.flatMap fun d => leBytes 4 d.unit ++ leBytes 4 d.entry ++ leBytes 8 d.seq) ++
  (c.released.flatMap fun b => leBytes 4 b)

/-- The bytes of a record's body (R120, R124); a checkpoint's are free values, by the sequence of its record (log 117). -/
def Body.bytes (seq : Nat) : Body → List Byte
  | .cask c | .note c => c.body
  | .checkpoint x => (List.range x.size).map (Config.checkpointByte seq)
  | .bandLink a => leBytes 8 a.toNat

/-- A record as it stands on the pages that it takes: its parts, each from the start of a page on (R118; log 118). -/
def JRec.bytes (r : JRec) : List Byte :=
  (partsBytes r.body.kind r.seq r.cycle r.parts r.parts 0 (r.body.bytes r.seq)).flatMap fun p =>
    p ++ List.replicate ((16384 - p.length % 16384) % 16384) 0

/-- The codewords of a record's pages on one channel of their pairs, in page order, as MEDIA encodes them: kind 2 (R117, R179, R180). -/
def State.journalWords (s : State) (r : JRec) (upper : Bool) : List (List Byte) :=
  match s.media.profile with
  | none => []
  | some p =>
    let b := r.addr.toNat / 16777216
    (List.range (recordPages r.body.size)).flatMap fun i =>
      let page := r.addr.toNat % 16777216 + i
      match s.journalUnit b page with
      | none => []
      | some (row, c) =>
        let ch := if upper then c + 16 else c
        let first := 4 * ((page - s.rowPage b row) % max 1 s.unitPages)
        let seq := (((s.band b).headsAt row ch).map Prod.fst).getD r.seq
        (List.range 4).map fun k =>
          codewordOnFlash (headerBytes (unitHeader p true b row ch 2 seq (first + k)) ++ (r.bytes.drop (16384 * i + 4096 * k)).take 4096 ++
            List.replicate 16 0)

/-! ### The seal (R66, R125) -/

/-- The next cycle to seal: the oldest cycle ended, from the first that READY or DEGRADED saw (R66, R126). -/
def State.nextSeal (s : State) : Option Nat := s.journal.ended.find? fun c => s.journal.firstSeal ≤ c

/-- Every stream with bytes credited to cycle n or before has closed it (R66). -/
def State.allClosed (s : State) (n : Nat) : Bool :=
  s.intake.streams.all fun x =>
    !(!x.2.noOpen && decide (x.2.openCycle ≤ n) && x.2.lateNow)

/-- The seal of cycle n may start (R66, R126). -/
def State.sealReady (s : State) (n : Nat) : Bool :=
  s.running && s.journal.sealing.isNone && s.snuff.trigger.isNone && !s.stopped .back && decide (n < s.lamp.cycle) &&
  s.allClosed n

/-- Step 1 of R125: the close frontiers are frozen; step 2: held pieces are placed, partial native units spilled, the staging unit padded.
The set-sealed cycle and the missing bits are taken here: R124 says at the start of the seal, R125 and R149 at its step 4 (DESIGN CHOICE,
log 135). -/
def State.beginSeal (s : State) (n : Nat) : State :=
  let fronts : Sparse Nat := s.intake.streams.filterMap fun e =>
    if (upTo n e.2.credited) ≠ [] then some (e.1, e.2.closeFront n) else none
  let s0 := (s.placeUnits false).placeUnits true
  let s1 := s.intake.streams.foldl (fun t e => t.placeHeld e.1) s0
  let s2 := (s1.spillUnits n).padStaging
  s2.onJournal fun j => { j with
    sealing := some { cycle := n, fronts := fronts, setSealed := s.setSealed, missing := s.host.missing, pages := false }
    ended := j.ended.filter fun c => n < c }

/-- Steps 2 and 3 of R125 are done: every piece credited to n or before is on flash, ST_ACCEPT has reached the close
frontiers. While INTAKE is in a RESTART reset no stream changes state (R442), and so no seal completes. -/
def State.sealDone (s : State) (x : Seal) : Bool :=
  (s.place.pieces.all fun p => decide (x.cycle < p.cycle) || p.onFlash) &&
  (x.fronts.all fun f => decide (f.2 ≤ (s.stream f.1).accept)) &&
  s.running && s.snuff.trigger.isNone && !s.stopped .back && !s.stopped .media && !s.stopped .intake

/-- The pieces of a stream whose delete is sealed are invalid, and so are the trimmed chunks (R229). -/
def State.dropPieces (s : State) (gone : List Nat) : List Piece :=
  s.place.pieces.filter fun p => p.unit.isSome || !(gone.contains p.stream || s.invalid p)

/-- A line of a page holds an entry that no cask up to cycle n has: a unit written in a later cycle (R125, R221). -/
def State.lineAfter (s : State) (n page line : Nat) : Bool :=
  s.place.pieces.any fun p => decide (n < p.cycle) && p.unit.any fun u => unitLine u == (page, line)

/-- The Grist frame of a page after the seal of cycle n: the lines whose entries' deltas the cask holds are clean, and with none left
every change is sealed; the frame is CLEAN if its page on flash holds them all, and UNFLUSHED if not (R125, R221, R222). -/
def State.frameSealed (s : State) (n page : Nat) (f : GFrame) : GFrame :=
  let lines := f.lines.filter (s.lineAfter n page)
  { f with st := if f.st = .dirty then s.frameState page lines else f.st, lines := lines }

/-- The words of the health log that each seal updates (R244). The manual does not say what word 0x06 shows where V_stream lies above 0.96
C_stream, nor how it is rounded: 0, and down (R242; DESIGN CHOICE, log 137). -/
def State.sealWords (s : State) : State :=
  let c := s.cStream / shareDen
  let v := s.vStream
  let l := (96 * c - 100 * v) * 1000 / (100 * max 1 c)
  (((s.hset 0x06 l).hset 0x0E (c / 1048576)).hset 0x0F ((v + 1048575) / 1048576)).hset 0x07
    (min (s.freeBands .stream) 65535 + 65536 * min (s.freeBands .random) 65535)

/-- Random units superseded by a later write of the same unit leave (R229). -/
def newestUnits (ps : List Piece) : List Piece :=
  ps.filter fun p =>
    match p.unit with
    | none => true
    | some u => !(ps.any fun r => r.unit = some u && decide (p.seq < r.seq) && r.onFlash)

/-- The blocks that the bands of some pools hold, by the keys of their erase counts. -/
def State.poolKeys (s : State) (pools : List Pool) : List Nat :=
  s.place.bands.flatMap fun x =>
    if pools.contains x.2.pool && x.2.phase != .erasable then x.2.members.map fun m => wearKey m.1 (x.1 % 16) m.2 else []

/-- The block of a key is good: its die is ACTIVE, and it is not retired. -/
def State.keyGood (s : State) (k : Nat) : Bool :=
  let c := s.chan (k / 65536 / 16)
  tget DieCode.absent c.dies (k / 65536 % 16) == .active && !c.blocks.contains (k / 65536 % 16, k % 65536)

/-- How many blocks some pools have, and the erase counts of those that have been erased: the stream pool has every good block that no other
pool holds (R198, R200). -/
def State.wearCounts (s : State) (pools : List Pool) : Nat × List Nat :=
  if pools.contains .stream then
    let others := s.poolKeys [.staging, .random, .journal, .snuff]
    (sumBy (fun d => tget 0 s.place.good d) (List.range 16) - (others.filter s.keyGood).length,
      (s.media.wear.filter fun x => s.keyGood x.1 && !others.contains x.1).map Prod.snd)
  else
    let keys := s.poolKeys pools
    (keys.length, keys.map (tget 0 s.media.wear))

/-- One word of wear: mean and highest erase count of the blocks of some pools, in thousandths of the rated cycles (R242). The manual does not
say how they are rounded: down (DESIGN CHOICE, log 137). -/
def State.poolWear (s : State) (pools : List Pool) (slc : Bool) : Nat :=
  match s.media.profile with
  | none => 0
  | some p =>
    let rated := if slc then p.ratedSlc else p.rated
    let (n, counts) := s.wearCounts pools
    if n = 0 ∨ rated = 0 then 0
    else min (sumBy id counts * 1000 / (n * rated)) 65535 + 65536 * min (counts.foldl max 0 * 1000 / rated) 65535

/-- The words of the health log that each checkpoint updates (R244). -/
def State.wearWords (s : State) : State :=
  let top := fun (t : Sparse Nat) => t.foldl (fun a x => max a x.2) 0
  (((((s.hset 0x08 (s.poolWear [.stream] false)).hset 0x09 (s.poolWear [.staging] true)).hset 0x0A
    (s.poolWear [.random] false)).hset 0x0B (s.poolWear [.journal, .snuff] true)).hset 0x0C (top s.wick.wearP)).hset 0x0D
    (top s.wick.wearL)

/-- The checkpoint of R128. -/
def State.checkpoint (s : State) (r : Option RecoveryIn) : State :=
  let s1 := s.wearWords
  let seq := s1.journal.nextSeq
  (s1.record (.checkpoint { s1.snapshot with ticks := [] }) r).onJournal fun j => { j with newestCp := some seq, sinceCp := 0, cpClocks := 0 }

/-- A checkpoint falls due with the seal of a cask (R128). -/
def State.checkpointDue (s : State) (c : Cask) : Bool :=
  decide (100000000 ≤ s.journal.cpClocks) || decide (268435456 ≤ s.journal.sinceCp + recordLen c.size)

/-- Pages have changed since they were programmed, or their programs have not completed. -/
def State.pagesOpen (s : State) : Bool :=
  !s.place.pageJobs.isEmpty || !s.place.runDue.isEmpty || !s.place.pagesDue.isEmpty

/-- The pages that the checkpoint of a seal names are programmed: every changed page has been submitted, and its program has completed
(R128, R209, R222). -/
def State.pagesDone (s : State) (x : Seal) : Bool := !s.pagesOpen || (x.pages && s.place.pageJobs.isEmpty)

/-- The changed pages that the checkpoint of a seal names are submitted. -/
def State.submitSealPages (s : State) (x : Seal) : State :=
  s.submitPages.onJournal fun j => { j with sealing := some { x with pages := true } }

/-- Pieces of valid data in the block that band b holds on channel c. -/
def State.blockPieces (s : State) (b c : Nat) : List Piece :=
  (s.validIn b).filter fun p => (p.place.bind s.unitAt).any fun u => u.2.1 == b && u.2.2 == c

/-- Run pages in the block that band b holds on channel c. -/
def State.blockPages (s : State) (b c : Nat) : List Loc :=
  (s.pagesIn b).filter fun l => (s.unitAt l).any fun u => u.2.1 == b && u.2.2 == c

/-- A location lies in the part of a block that an entry of the refresh list names: all of it, or one row. -/
def State.listed (s : State) (x : Refresh) (l : Loc) : Bool := x.row.all fun r => (s.unitAt l).any fun u => u.1 == r

/-- The valid pieces of an entry of the refresh list. -/
def State.listedPieces (s : State) (x : Refresh) : List Piece :=
  (s.blockPieces x.band x.chan).filter fun p => p.place.any (s.listed x)

/-- The pages of an entry of the refresh list. -/
def State.listedPages (s : State) (x : Refresh) : List Loc := (s.blockPages x.band x.chan).filter (s.listed x)

/-- A block leaves the refresh list when it holds no valid data: no piece, no page, and no record of a journal band that is kept; the
refresh is counted (R230, R242). -/
def State.refreshCheck (s : State) : State :=
  let gone := s.media.refresh.filter fun x =>
    (s.listedPieces x).isEmpty && (s.listedPages x).isEmpty && !s.journal.bands.contains x.band
  if gone.isEmpty then s
  else (s.onMedia fun m => { m with refresh := m.refresh.filter fun x => !gone.contains x }).count32 0x19
    (gone.filter fun x => x.kind = 3 && x.row.isNone).length

/-- The accumulators of a closed band whose PARITY failed are released once nothing of their rows is mapped there any more and the rows into
which it was relocated are complete: no group of the movers has an open row (R178; DEDUCED, log 147). -/
def State.releaseAccs (s : State) : State :=
  let movers := s.place.groups.any fun g =>
    (g.role == .fold || g.role == .sparge || g.role == .spargeRandom) && g.bands.any fun b => !(s.band b).accs.isEmpty
  if movers then s
  else s.onPlace fun p => { p with bands := tmap bandNone (fun b y =>
    if y.phase = .open then y
    else
      let kept := y.accs.filter fun r => (s.validIn b).any fun x => (x.place.bind s.unitAt).any fun u => u.1 == r && u.2.1 == b
      { y with accs := kept, accBuf := y.accBuf.filter fun a => kept.contains a.1 }) p.bands }

/-- Everything that the completion of a seal does at once (R125), and what follows it: the mark (R147), the checkpoint
(R128), the end of an extended window (R58), the space attention (R201). -/
def State.completeSeal (s : State) (x : Seal) : State :=
  let n := x.cycle
  let c := s.composeCask x
  let due := s.host.mirrorBase != 0
  let seq := s.journal.nextSeq
  let gone := s.intake.streams.filterMap fun e => if (e.2.sealed n (tget 0 x.fronts e.1)).deleteDue n then some e.1 else none
  let s1 := gone.foldl State.forgetStream (s.record (.cask c) none)
  let s2 := s1.mapStreams fun i e =>
    let a := e.sealed n (tget 0 x.fronts i)
    if a.deleteDue n then a.cleared (a.mirrorEn && due)
    else { a with mirrorDue := a.mirrorDue || (a.mirrorEn && due && a.st ≠ e.st) }
  let s3 := s2.onPlace fun p => { p with
    pieces := (newestUnits (s2.dropPieces gone)).map fun y => { y with src := none }
    runs := p.runs.filter fun r => !gone.contains r.stream
    bands := tmap bandNone (fun b y => if c.released.contains b then { y with phase := .released, relSeq := seq } else y)
      p.bands
    moves := p.moves.filter fun m => !m.noted
    frames := tmap frameNone (s2.frameSealed n) p.frames }
  let s4 := s3.onJournal fun j => { j with
    sealing := none, lastSeal := some n, ticks := above n j.ticks, frames := [] }
  let s5 := s4.onLamp fun l => { l with
    sealExt := match l.sealExt with
      | some e => if e.1 ≤ n then none else some e
      | none => none
    containSeal := if l.containSeal = some n then none else l.containSeal
    synthCycles := l.synthCycles.filter fun k => n < k }
  let s6 := s5.sealWords.postMarks n false
  let s7 := if s.checkpointDue c then s6.checkpoint none else s6
  s7.refreshCheck.releaseAccs.setTail.holdC.spaceCheck

/-! ### Through notes (R109, R127) -/

/-- Pieces that a flush covers: stream pieces that begin below the flush's frontier of their stream, and random units up to
its entry sequence. -/
def covered (f : Sparse Nat) (p : Piece) : Bool :=
  match p.unit with
  | none => decide (p.off < tget 0 f p.stream)
  | some _ => decide (p.seq ≤ tget 0 f randKey)

/-- The unit programs of pieces that satisfy g take class 1: write-through flushes and through notes (R188). -/
def State.promote (s : State) (g : Piece → Bool) : State :=
  s.onMedia fun m => { m with
    chans := tmap Channel.none (fun ch c =>
      { c with queue := c.queue.map fun e =>
          if mopOf e.d.op = some .program && decide (1 < e.d.cls.toNat) && (s.place.pieces.any fun p =>
            g p && (s.liesIn p.loc e.d.wl.toNat e.d.band.toNat ch || s.liesIn p.spill e.d.wl.toNat e.d.band.toNat ch)) then
            { e with d := { e.d with cls := 1 } } else e }) m.chans }

/-- Pieces of a list go to consecutive codewords of the staging group, by their own place or as spill copies, and their units are
programmed at class 1 (R109, R211, R214). -/
def State.toStaging (s : State) (spill : Bool) (g : Piece → Bool) : State :=
  let n := (s.place.pieces.filter g).length
  if n = 0 then s
  else
    match s.allocate .staging n with
    | none => s
    | some (t, gr, l, us) =>
      (t.onPlace fun p => { p with
        pieces := if spill then assignSpills g p.pieces l else assignLocs g p.pieces l }).launch gr us 1

/-- The programs of a flush (R109): its pieces that have no place go to staging, in SLC; those in a native unit that is not full get
a copy there; the staging unit is padded; and the programs already submitted take class 1. -/
def State.flushProgram (s : State) (f : Sparse Nat) : State :=
  let mine := fun (p : Piece) => p.inTun && !p.onFlash && covered f p && s.tunHas p
  let s1 := s.toStaging true fun p => mine p && p.loc.any s.partialUnit
  ((s1.toStaging false fun p => mine p && p.loc.isNone).padStaging).promote mine

/-- Every byte of a flush is on flash, and TUN has acknowledged its writes (R18, R19, R109). -/
def State.flushOnFlash (s : State) (f : Sparse Nat) : Bool :=
  !(s.place.pieces.any fun p => p.inTun && covered f p && !p.onFlash) &&
  !(s.intake.unacked.any fun w => decide (w.2.1 < tget 0 f w.1))

/-- Cycles to which the bytes of a flush are credited, in order (R127). -/
def State.flushCycles (s : State) (f : Sparse Nat) : List Nat :=
  (sortBy (fun a b => decide (a ≤ b)) ((s.place.pieces.filter fun p => covered f p && (if p.unit.isSome then
      (p.inTun && !p.noted) || s.awaited p.seq
    else decide ((s.stream p.stream).accept < p.off + p.data.length))).map Piece.cycle)).eraseDups

/-- The frontier that the note of cycle c gives for stream i: the end of its bytes credited to c or before. -/
def State.noteFront (s : State) (f : Sparse Nat) (c i : Nat) : Nat :=
  s.place.pieces.foldl (fun a p =>
    if covered f p ∧ p.unit = none ∧ p.stream = i ∧ p.cycle ≤ c then max a (min (p.off + p.data.length) (tget 0 f i)) else a)
    (s.stream i).accept

/-- The through note of one cycle (R127). -/
def State.noteCask (s : State) (f : Sparse Nat) (c : Nat) : Cask :=
  { cycle := c, setSealed := 0, missing := 0, joined := false, recovered := false, cut := true, synth := false
    degraded := false, free := false, ticks := 0
    entries := (f.filter fun x => x.1 ≠ randKey).map fun x =>
      let e := s.stream x.1
      { stream := x.1, st := e.st, flags := 0, cls := e.cls, mirror := e.mirrorEn, quota := e.quota, epoch := e.epoch,
        close := s.noteFront f c x.1, trim := e.trim }
    runs := s.place.pieces.filterMap fun p => if covered f p ∧ p.cycle = c then p.run 0 else none
    deltas := s.place.pieces.filterMap fun p =>
      match p.unit, p.place with
      | some u, some l => if covered f p ∧ p.cycle = c then some (s.delta u l p.seq) else none
      | _, _ => none
    released := [] }

/-- The notes of a flush on flash are programmed, one for each cycle in order, and ST_ACCEPT reaches what they record (R109,
R127). -/
def State.programNotes (s : State) (f : Sparse Nat) : State :=
  let cs := s.flushCycles f
  let s1 := cs.foldl (fun t c => t.record (.note (t.noteCask f c)) none) s
  let s2 := if cs.isEmpty then s1 else s1.onJournal fun j => { j with frames := [] }
  let s3 := s2.onIntake fun t => { t with wtTail := t.wtTail.filter fun w => tget 0 f w.1 < w.2 }
  let s4 := f.foldl (fun t x => if x.1 = randKey then t else t.moveAccept x.1 x.2) s3
  s4.settleAll

end Sys2Proof.Machine
end

