-- ==== Sys2Proof/Machine/Blocks.lean ====
section
/-! DEFINITION. The ends of reads (R163, R182 to R184, R190, R194), the failures of blocks and units (R178, R190, R192, R236), and the
first wordlines of a new journal band (R174). -/
namespace Sys2Proof.Machine
open Sys2Proof

/-! ### Members that fail (R178, R192) -/

/-- The first row of a band in which its open group has placed no codeword yet; of a snuff band, which holds nothing, the first. -/
def State.nextRow (s : State) (b : Nat) : Nat :=
  match s.place.groups.find? fun g => g.bands.contains b with
  | none => if (s.band b).pool = .snuff then 0 else s.wordlines
  | some g =>
    let cu := s.cu g.slc
    if cu = 0 then s.wordlines
    else
      match s.findUnit g.bands s.wordlines 0 ((g.next + cu - 1) / cu) with
      | some (row, _, _) => if g.next = 0 then 0 else row + 1
      | none => s.wordlines

/-- The first row of a band in which a member's unit is not programmed. -/
def State.firstUndone (s : State) (b c : Nat) : Nat :=
  ((List.range s.wordlines).find? fun r =>
    !(s.band b).units.contains (r, c) && !((s.band b).parityAt b r == c && (s.band b).parity.contains r)).getD s.wordlines

/-- A piece loses its place in a unit that was not programmed; it is still in the Tun (R123, R192). -/
def State.unplace (s : State) (b c : Nat) (p : Piece) : Piece :=
  match p.loc with
  | some l =>
    if p.inTun && !p.done && (s.groupBands l).contains b && (s.unitAt l).any fun u => u.2.1 == b && u.2.2 == c then
      { p with loc := none }
    else p
  | none => p

/-- A move has a target codeword in a unit of a member that was not programmed: it is done again (R236). -/
def State.moveHit (s : State) (b c : Nat) (m : Move) : Bool :=
  (List.range m.codewords).any fun k =>
    match s.unitAt { m.dest with q := m.dest.q + k } with
    | some (row, x, y) => x == b && y == c && !(s.band b).units.contains (row, c)
    | none => false

/-- A page was to be programmed in a unit of a member that fails: it is due again (R178, R209, R222). -/
def State.jobHit (s : State) (b c : Nat) (x : Loc × PageBody) : Bool :=
  (s.unitAt x.1).any fun u => u.2.1 == b && u.2.2 == c

/-- Random units that lost their place are placed anew in the random group (R219). -/
def State.replaceUnits (s : State) : State :=
  let f := fun (p : Piece) => p.inTun && p.unit.isSome && p.loc.isNone
  let n := (s.place.pieces.filter f).length
  if n = 0 then s
  else
    match s.allocate .random n with
    | none => s
    | some (t, g, l, us) => (t.onPlace fun p => { p with pieces := assignLocs f p.pieces l }).launch g us (roleClass g.role)

/-- A new journal band has been checked once the first wordline of every member that is left has read ERASED (R174). -/
def State.settleFirst (s : State) (b : Nat) : State :=
  s.modBand b fun x => { x with checked := x.checked || x.channels.all fun c => x.failedAt 0 c || x.firstOk.contains c }

/-- What was to be programmed in a member's units is without a place again: pieces still in the Tun, moves not yet in a tail, pages (R123,
R178, R236). -/
def State.unplaceAll (s : State) (b c : Nat) : State :=
  s.onPlace fun p => { p with
    pieces := p.pieces.map (s.unplace b c), moves := p.moves.filter fun m => m.noted || !s.moveHit b c m
    pageJobs := p.pageJobs.filter fun x => !s.jobHit b c x
    pagesDue := p.pagesDue ++ (p.pageJobs.filter (s.jobHit b c)).filterMap fun x => match x.2 with
      | .map m => if p.pagesDue.contains m.page then none else some m.page
      | .run _ _ => none
    runDue := p.runDue ++ (p.pageJobs.filter (s.jobHit b c)).filterMap fun x => match x.2 with
      | .run _ old => old
      | .map _ => none }

/-- A member leaves its band (R178): from the first row in which its unit is not programmed on it takes no part, and its programs not started end
ABORTED; the rows in which codewords have been placed keep their numbering (R205). What its units were to hold is without a place. A member of
the journal band that is being written is dropped at the next record. -/
def State.cutMember (s : State) (b c : Nat) : State :=
  let x := s.band b
  if !x.channels.contains c || x.fails.any fun d => d.1 == c then s
  else if x.pool = .journal then
    if s.journal.spare = some b then (s.modBand b fun y => { y with fails := y.fails ++ [(c, 0)] }).settleFirst b else s
  else
    let s1 := (s.unplaceAll b c).modChan c fun y => { y with queue := y.queue.map fun e =>
      if e.phase = .queued ∧ e.d.band.toNat = b ∧ !e.isRead then e.end .aborted else e }
    s1.modBand b fun y => { y with drops := y.drops ++ [(c, s.nextRow b)], fails := y.fails ++ [(c, s.firstUndone b c)] }

/-- A band drops a member, and what its units were to hold is placed again (R178). -/
def State.dropMember (s : State) (b c : Nat) : State := (s.cutMember b c).replaceUnits

/-- The parities of rows that a dropped member leaves full are issued, and the band closes if nothing else is open (R178 step 3). -/
def State.closeFull (s : State) (b : Nat) (cls : BitVec 3) : State :=
  ((s.band b).accs.foldl (fun t r => t.issueParity b r cls) s).closeBand b

/-- The kind of the moves that relocate what a band's block held: of the same kind as the moves that the band takes, else a refresh
(R230, R236). -/
def State.moveKind (s : State) (b : Nat) : Nat :=
  match s.place.groups.find? fun g => g.bands.contains b with
  | some g =>
    match g.role with
    | .fold => 1
    | .sparge | .spargeRandom => 2
    | .lane _ | .pack _ | .staging | .random => 3
  | none => 3

/-- What a block holds is to be relocated: pieces and pages (R178, R190, R236). -/
def State.relocate (s : State) (b c : Nat) : State :=
  if (s.blockPieces b c).isEmpty && (s.blockPages b c).isEmpty then s else s.listMove (s.moveKind b) none b c 17

/-- A block fails: it is retired, its band drops the member, and the data it holds is to be relocated (R178, R190). -/
def State.blockFailed (s : State) (ch : Nat) (d : MDesc) (factory : Bool) : State :=
  let b := d.band.toNat
  (((s.retireBlock ch d.die.toNat d.block.toNat factory).relocate b ch).dropMember b ch).closeFull b d.cls

/-- The band is left after a failure: its group closes, its open rows are closed early, and what the failed member was to hold goes to other
bands (R176, R178, R192 step 4). -/
def State.leaveBand (s : State) (b : Nat) (cls : BitVec 3) : State :=
  ((s.place.groups.filter fun g => g.bands.contains b).foldl State.closeGroup s).closeRows b cls

/-- A program ended because its die or channel failed: the member is dropped, and what it was to hold is programmed into other bands (R192
step 4). -/
def State.programLost (s : State) (ch : Nat) (d : MDesc) : State :=
  let b := d.band.toNat
  ((s.cutMember b ch).leaveBand b d.cls).replaceUnits

/-- A PARITY was not programmed: the band is left with its last row closed early without it, the accumulator stays, and the row's data is to
be relocated into another band (R178, R192). -/
def State.parityLost (s : State) (ch : Nat) (d : MDesc) : State :=
  let b := d.band.toNat
  let s1 := s.modBand b fun x => { x with fails := x.fails ++ [(ch, d.wl.toNat)] }
  let s2 := s1.leaveBand b d.cls
  (s2.band b).channels.foldl (fun t c =>
    if (t.blockPieces b c).any fun p => (p.place.bind t.unitAt).any fun u => u.1 == d.wl.toNat then
      t.listMove (s.moveKind b) (some d.wl.toNat) b c 17 else t) s2

/-- A PARITY failed: besides, its block is retired (R178, R190). -/
def State.parityFailed (s : State) (ch : Nat) (d : MDesc) : State :=
  (((s.countFail ch false).retireBlock ch d.die.toNat d.block.toNat false).relocate d.band.toNat ch).parityLost ch d

/-! ### The ends of reads (R182 to R184, R190, R191, R194) -/

/-- A read of a wordline reached rung 17 or 18: repeated cases retire the block or the die (R190, R191). -/
def State.noteRung (s : State) (ch : Nat) (d : MDesc) (rung : Nat) : State :=
  let die := d.die.toNat
  let twice := decide (17 ≤ rung) && (s.chan ch).rung17Twice die d.block.toNat d.wl.toNat
  let s1 := s.recordRung ch die d.block.toNat d.wl.toNat rung
  let s2 := if twice then s1.blockFailed ch d false else s1
  if 18 ≤ rung ∧ s2.rung18Four ch die = true then (s2.failDie ch die).checkChannel ch else s2

/-- The row cannot be rebuilt: neither parity nor accumulator covers it, or another of its units lies on a FAILED channel or a RETIRED die
(R182, R194). -/
def State.matesGone (s : State) (b row ch : Nat) : Bool :=
  !s.rowCovered b row ch ||
  (s.mates b row ch).any fun m => (s.chan m.1).st = .failed || tget DieCode.absent (s.chan m.1).dies m.2 = .retired

/-- The climb of a read of entry e over some rungs; rung 18 fails where the row cannot be rebuilt (R182, R183, R194). -/
def State.readOver (s : State) (p : Profile) (ch : Nat) (e : QEntry) (r : ReadIn) (rungs : List Nat) : ReadEnd :=
  let b := e.d.band.toNat
  let row := e.d.wl.toNat
  climb r (fun k => decodesAt r (s.mates b row ch) k && !(k == 18 && s.matesGone b row ch)) (s.expectHeaders p ch e.d) rungs

/-- The rungs of a read: those of its ladder, or, where its die is not read, rung 18 alone whatever its limit (R163, R182, R192). -/
def State.rungsOf (s : State) (p : Profile) (ch : Nat) (e : QEntry) : List Nat :=
  if (s.chan ch).rebuilds e then [18] else ladder p (ladderTop e.d.ladder)

/-- The end of a read of entry e. -/
def State.readEnd (s : State) (p : Profile) (ch : Nat) (e : QEntry) (r : ReadIn) : ReadEnd := s.readOver p ch e r (s.rungsOf p ch e)

/-- A read ended well. -/
def goodRead : MStatus → Bool
  | .ok | .okRetry | .okSoft | .okRebuilt => true
  | _ => false

/-- The read needs rung 18, which it has not reached: no rung below has ended it (R182). -/
def State.mustClimb (s : State) (p : Profile) (ch : Nat) (e : QEntry) (r : ReadIn) : Bool :=
  let rungs := s.rungsOf p ch e
  let x := s.readOver p ch e r (rungs.filter fun k => k ≠ 18)
  !e.climbed && rungs.contains 18 && !goodRead x.status && x.status ≠ .erased

/-- Channel ch with the read in a slot at rung 18: it reads the row's other dies (R182, R187). -/
def State.climbed (s : State) (ch slot : Nat) (e : QEntry) : Channel :=
  (s.chan ch).modEntry slot fun y => { y with climbed := true, fan := s.mates e.d.band.toNat e.d.wl.toNat ch }

/-- A read's ending outside a flush: status, counts, refresh, repeated rungs, a lost stripe (R169, R182 to R184, R190). -/
def State.endRead (s : State) (p : Profile) (ch slot : Nat) (e : QEntry) (r : ReadIn) : State :=
  let x := s.readEnd p ch e r
  let only := (s.chan ch).rebuilds e
  let band := e.d.band.toNat
  let s1 := (s.modChan ch fun c => c.modEntry slot fun y =>
    { y with status := some (mstatusCode x.status), rung := x.rung, corr := x.corr
             soft := if 17 ≤ x.rung then softStep r else y.soft }).countRead ch x.status
  let s2 := if s.wantsRefresh x.status x.corr then s1.listRefresh band ch x.rung else s1
  let s3 := if only || x.status = .erased then s2 else s2.noteRung ch e.d x.rung
  if x.status = .uncorrectable ∧ x.rung = 18 then s3.stripeLost band e.d.wl.toNat else s3

/-- The READ of the codeword at a location, as MEDIA starts it, with its channel (R165). -/
def State.codewordRead (s : State) (cls : BitVec 3) (ladder : BitVec 2) (l : Loc) : Option (Nat × QEntry) :=
  (s.unitAt l).map fun u =>
    (u.2.2, newEntry 256 { s.unitOp 0x01 cls u with
      cwFirst := BitVec.ofNat 16 (l.q % max 1 (s.cu l.slc)), cwCount := 1, ladder := ladder } s.media.orderNext)

/-- The end of the read of a codeword by a command, with what it does (R169, R182 to R184). -/
def State.readCodeword (s : State) (cls : BitVec 3) (ladder : BitVec 2) (l : Loc) (r : ReadIn) : Option (ReadEnd × State) :=
  match s.media.profile, s.codewordRead cls ladder l with
  | some p, some (ch, e) => some (s.readEnd p ch e r, s.endRead p ch 256 e r)
  | _, _ => none

/-! ### New journal bands (R174, R204) -/

/-- An erase of a member of the next journal band has ended: its first wordline is read, rung 0 only (R174). -/
def State.readFirst (s : State) (ch : Nat) (d : MDesc) : State :=
  let b := d.band.toNat
  if s.journal.spare = some b ∧ !(s.band b).checked then
    s.submit ch { s.unitOp 0x01 1 (0, b, ch) with ladder := 2, tag := s.media.tagNext }
  else s

/-- The first wordline of a member of the next journal band has been read: it reads ERASED, or the member is erased again (R174). -/
def State.firstRead (s : State) (ch : Nat) (d : MDesc) (erased : Bool) : State :=
  let b := d.band.toNat
  if s.journal.spare = some b ∧ !(s.band b).checked ∧ d.wl = 0 then
    if erased then (s.modBand b fun x => { x with firstOk := addOnce ch x.firstOk }).settleFirst b
    else s.submit ch (eraseDesc s.planes (b % 16) (s.memberBlock b ch) b true 1 s.media.tagNext)
  else s

end Sys2Proof.Machine
end

