-- ==== Sys2Proof/Machine/Arbiter.lean ====
section
/-! DEFINITION. The arbiter in front of each on-chip memory: who is granted in a clock (R381), requests to one word (R382), masked and
alias writes (R383), and COLLIDE (R384). The commands reach the memories one at a time, so that they never meet here (log 15). -/
namespace Sys2Proof.Machine
open Sys2Proof

/-- Who requests: a unit, or with none the scrubber, whose place test-mode accesses use. -/
abbrev Requester := Option UnitId

/-- The fixed priority of a memory's requesters, highest first (R381). -/
def memOrder (m : Nat) : List Requester :=
  match m with
  | 0 => [some .snuff, some .media, some .intake, some .host, some .back, some .front, none]
  | 1 => [some .snuff, some .intake, some .host, some .back, some .front, none]
  | 2 => [some .front, none]
  | 3 => [some .back, none]
  | 4 => [some .intake, some .back, some .front, none]
  | _ => []

/-- What a request does to its word (R383). -/
inductive MemAct where
  | read
  /-- a write of the bits that the mask selects; of the whole word where it selects all -/
  | write (mask v : BitVec 512)
  /-- through the set alias -/
  | set (bits : BitVec 512)
  /-- through the clear alias -/
  | clear (bits : BitVec 512)
  deriving DecidableEq, Repr

/-- What a requester is answered. -/
inductive MemAnswer where
  /-- granted: the word as it stood; a read and an alias write receive it -/
  | granted (was : BitVec 512)
  /-- it presents the same request at the next clock -/
  | stalled
  /-- dropped; COLLIDE acknowledges nothing in the sense of R15 and R19, and the core reads the word again (R384) -/
  | collide
  deriving DecidableEq, Repr

/-- The word after an act. -/
def MemAct.apply (a : MemAct) (x : BitVec 512) : BitVec 512 :=
  match a with
  | .read => x
  | .write mask v => (x &&& ~~~mask) ||| (v &&& mask)
  | .set b => x ||| b
  | .clear b => x &&& ~~~b

/-- An alias write. -/
def MemAct.alias (a : MemAct) : Bool :=
  match a with
  | .set _ | .clear _ => true
  | .read | .write _ _ => false

/-- One write or read of a word is granted, the first in the list; other writes collide and reads stall. -/
def grantFirst (x : BitVec 512) : List MemAct → List MemAnswer
  | [] => []
  | a :: as => .granted x :: as.map fun b => if b = .read ∨ a = .read then .stalled else .collide

/-- Requests to one word in one clock, highest priority first: the word after it, and each answer (R382). Writes go before reads. Alias
writes alone are all applied, the highest-priority one last, so that it decides a bit that both name. -/
def resolveWord (x : BitVec 512) (rs : List MemAct) : BitVec 512 × List MemAnswer :=
  let ws := rs.filter fun r => r ≠ .read
  if ws.isEmpty then (x, grantFirst x rs)
  else if ws.all MemAct.alias then
    (ws.foldr MemAct.apply x, rs.map fun r => if r = .read then .stalled else .granted x)
  else
    match ws with
    | [] => (x, [])
    | w :: _ =>
      let k := rs.findIdx fun r => r ≠ .read
      (w.apply x, rs.mapIdx fun i r => if i = k then .granted x else if r = .read then .stalled else .collide)

/-- The request that the fixed priority puts first (R381). -/
def firstRequest {α : Type} (m : Nat) (rs : List (Requester × α)) : Option (Requester × α) :=
  (memOrder m).findSome? fun q => rs.find? fun r => r.1 == q

end Sys2Proof.Machine
end

