-- ==== Sys2Proof/Machine/Power.lean ====
section
/-! DEFINITION. The power manager: rails (R250 to R254, R288), temperature and the thermal limit (R257 to R260), charger and
gauge (R261 to R265), and the health log's power words (R242 to R244). -/
namespace Sys2Proof.Machine
open Sys2Proof

/-! ### Rails -/

/-- The default of the rail table: OFF. -/
def railNone : RailRec := { st := .off, uv := false, ov := false }

/-- A rail. -/
def State.rail (s : State) (r : Rail) : RailRec := tget railNone s.power.rails (railCode r)

/-- Write a rail. -/
def State.setRail (s : State) (r : Rail) (x : RailRec) : State :=
  s.onPower fun p => { p with rails := tset railNone p.rails (railCode r) x }

/-- Steps 3 to 6 of R252: the rails that ramp together, one step after the other. -/
def railSteps : List (List Rail) := [[.vcore], [.vwk], [.vcc], [.vccq, .vccqPhy]]

/-- The five rails in the order of R252. -/
def allRails : List Rail := railSteps.flatten

/-- A rail starts to ramp: one that an OV trip shut stays off until VIN POR (R254). -/
def State.rampRail (vinPor : Bool) (s : State) (r : Rail) : State :=
  let x := s.rail r
  if x.st = .shut ∧ !vinPor then s else s.setRail r { st := .ramp, uv := false, ov := if vinPor then false else x.ov }

/-- The rails ramp up step by step; a step follows only where no rail of the one before it is shut off (R252, R254). -/
def State.railsUp (s : State) (vinPor : Bool) : State :=
  (railSteps.foldl (fun (a : State × Bool) g =>
    if a.2 then
      let t := g.foldl (State.rampRail vinPor) a.1
      (t, g.all fun r => (t.rail r).st != .shut)
    else a) (s, true)).1

/-- The rails that ramp have reached power good (R252). -/
def State.railsGood (s : State) : State :=
  allRails.foldl (fun t r => if (t.rail r).st = .ramp then t.setRail r { t.rail r with st := .on } else t) s

/-- A rail is shut down; an OV trip stays recorded (R288). -/
def State.dropRail (s : State) (r : Rail) : State :=
  s.setRail r { s.rail r with st := if (s.rail r).st = .shut then .shut else .off, uv := false }

/-- A rail is shut down and discharged to below 10 % of its nominal voltage (R253). -/
def RailRec.low (x : RailRec) : Bool := x.st = .off || x.st = .shut

/-- The rails go down in the reverse order of R252, each step once the rails of the one before it are below 10 % of nominal (R253). -/
def State.railsDown (s : State) : State :=
  (railSteps.reverse.foldl (fun (a : State × Bool) g =>
    if a.2 then
      let t := g.foldl State.dropRail a.1
      (t, g.all fun r => (t.rail r).low)
    else a) (s, true)).1

/-- Nominal output in mV (R250). -/
def railMv : Rail → Nat
  | .vcore => 750 | .vccqPhy => 1200 | .vwk => 1800 | .vcc => 2500 | .vccq => 1200

/-- UV trip and OV trip in mV (R250). -/
def railTrips : Rail → Nat × Nat
  | .vcore => (698, 803) | .vccqPhy => (1116, 1284) | .vwk => (1674, 1926) | .vcc => (2325, 2675) | .vccq => (1116, 1284)

/-- Maximum current in mA (R250). -/
def railMa : Rail → Nat
  | .vcore => 45000 | .vccqPhy => 5500 | .vwk => 150 | .vcc => 16000 | .vccq => 18300

/-- A free value between lo and hi. -/
def freeIn (lo hi raw : Nat) : Nat := lo + raw % (hi - lo + 1)

/-- The output voltage of a rail in mV, within the bounds that its state gives: below 10 % of nominal where it is off, up to the upper end of its
regulation while it ramps, below its UV trip while UV shows, else within 3 % of nominal, or in current limit anywhere between its trips
(R250, R253, R254, R288; raw is free, log 13). -/
def RailRec.volt (x : RailRec) (r : Rail) (raw : Nat) : Nat :=
  let n := railMv r
  match x.st with
  | .off | .shut => freeIn 0 ((n - 1) / 10) raw
  | .ramp => freeIn 0 (103 * n / 100) raw
  | .on => if x.uv then freeIn 0 ((railTrips r).1 - 1) raw else freeIn ((97 * n + 99) / 100) (103 * n / 100) raw
  | .limit => if x.uv then freeIn 0 ((railTrips r).1 - 1) raw else freeIn (railTrips r).1 (railTrips r).2 raw

/-- The output current of a rail in units of 20 mA: none where it is off, up to its maximum while it runs, up to 110 % of it in current limit
(R250, R254, R288; raw is free, log 13). -/
def RailRec.curr (x : RailRec) (r : Rail) (raw : Nat) : Nat :=
  match x.st with
  | .off | .shut => 0
  | .ramp | .on => freeIn 0 (railMa r / 20) raw
  | .limit => freeIn 0 (11 * railMa r / 200) raw

/-- The rail a RAIL_SEL value names (R288). -/
def railOf (n : Nat) : Option Rail :=
  match n with
  | 0 => some .vcore | 1 => some .vccqPhy | 2 => some .vwk | 3 => some .vcc | 4 => some .vccq
  | _ => none

/-- RAIL_STATUS.STATE codes (R288). -/
def railStateCode : RailState → Nat
  | .off => 0 | .ramp => 1 | .on => 2 | .limit => 3 | .shut => 4

/-! ### Temperature -/

/-- TEMP_NOW.TEMP: the highest of the six sensors (R257). -/
def PowerState.temp (p : PowerState) : Int := max p.tCtrl (max p.tPwr p.tWick)

/-- The thermal limit that R259 computes, in mW. -/
def PowerState.limitNow (p : PowerState) : Nat :=
  if p.temp < (p.throttle : Int) then 62000
  else max 10000 (62000 - 6000 * (p.temp - p.throttle + 1).toNat)

/-- The bin of a temperature (R243). -/
def tempBin (t : Int) : Nat := if t < 35 then 0 else if 105 ≤ t then 15 else ((t - 30) / 5).toNat

/-- A temperature as a byte in two's complement. -/
def byteOf (t : Int) : Nat := (BitVec.ofInt 8 t).toNat

/-- The two's complement value of a byte. -/
def ofByte (n : Nat) : Int := (BitVec.ofNat 8 n).toInt

/-- Word 0x40: highest and lowest TEMP_NOW ever sampled (R242). -/
def State.tempWord (s : State) (t : Int) : State :=
  let w := s.hget 0x40
  s.hset 0x40 (byteOf (max (ofByte (w % 256)) t) + 256 * byteOf (min (ofByte (w / 256 % 256)) t))

/-! ### HEALTH_SUMMARY (R246, R247) -/

/-- SPARE_PCT (R246). -/
def State.sparePct (s : State) : Nat :=
  let a := s.hget 0x03
  let r := s.hget 0x04
  if a = 0 then (if r = 0 then 100 else 0) else 100 * (a - r) / a

/-- WEAR_PCT: the highest pool maximum in words 0x08 to 0x0B, in percent (R246). -/
def State.wearPct (s : State) : Nat :=
  let m := max (max (s.hget 0x08 / 65536) (s.hget 0x09 / 65536)) (max (s.hget 0x0A / 65536) (s.hget 0x0B / 65536))
  min (m / 10) 255

/-- SPARE_LOW and WEAR_HIGH turning 1 raise attention, once per change (R247); before DEV_STATE leaves RECOVER they read 0
(R246). -/
def State.healthCheck (s : State) : State :=
  if !s.clock.mainOn || s.clock.dev = .boot || s.clock.dev = .recover then s else
  let lo := decide (s.sparePct ≤ 10)
  let hi := decide (90 ≤ s.wearPct)
  let s1 := if lo && !s.health.spareLow then s.raise .healthSpare else s
  let s2 := if hi && !s.health.wearHigh then s1.raise .healthWear else s1
  s2.onHealth fun h => { h with spareLow := lo, wearHigh := hi }

/-- BANK_LOW (R246): the latest capacitance is below 1,500 µF or below 80 % of the initial value. -/
def State.bankLow (s : State) : Bool :=
  let c := s.hget 0x42 % 65536
  let c0 := s.hget 0x41 % 65536
  decide (s.hget 0x42 ≠ 0) && (decide (c < 1500) || decide (100 * c < 80 * c0))

/-! ### The charger and the gauge -/

/-- The charger runs unless HU_GATE is on, a measurement runs, or DEV_STATE is SNUFFED (R261). -/
def State.chargerUpdate (s : State) : State :=
  s.onPower fun p => { p with charging := s.clock.mainPwr && !p.huGate && p.gauge = .idle && s.clock.dev ≠ .snuffed }

/-- The conditions under which a measurement starts (R262). -/
def State.gaugeCan (s : State) : Bool :=
  s.power.vin && !s.power.huGate && decide (27000 ≤ s.power.vbank) && s.power.gauge = .idle && s.clock.mainOn &&
  !(s.unit .power).restart

/-- A measurement starts: the charger stops (R263). -/
def State.gaugeStart (s : State) : State :=
  if s.gaugeCan then
    (s.onPower fun p => { p with gauge := .running, gaugeReq := false }).chargerUpdate
  else s

/-- A failed measurement: three passes are owed, GAUGE_FAIL is asserted, the failure counted; reason as R256 (R108, R111,
R264). -/
def State.gaugeFails (s : State) (reason : Nat) : State :=
  (((((s.onPower fun p => { p with gauge := .idle, gaugeReq := false }).chargerUpdate).onIntake fun i =>
    { i with gaugeOwed := 3 }).countLo 0x43 1).assertError .powerGaugeFail (detail [(2, reason)])).wtUpdate

/-- A passing measurement with reported values (R264): ENERGY_AVAIL is no longer held at 0, the owed passes count down,
the words 0x41 and 0x42 follow (R242). -/
def State.gaugePasses (s : State) (cap esr esrTenth : Nat) : State :=
  let s1 := (s.onPower fun p =>
    { p with gauge := .idle, gaugeReq := false, cap := cap, esr := esr, gauged := true, blind := false }).chargerUpdate
  let s3 := s1.onIntake fun i =>
    { i with gaugeOwed := i.gaugeOwed - 1, gaugeFirst := false, wtCap := decide (cap * 720 < 495000) }
  let w := s.hget 0x41
  let w41 := if w = 0 then cap + 65536 * cap else w % 65536 + 65536 * min (w / 65536) cap
  ((s3.hset 0x41 w41).hset 0x42 (cap % 65536 + 65536 * min esrTenth 65535)).wtUpdate

/-- The rise of an integer quotient. -/
def ceilDiv (a b : Nat) : Nat := if b = 0 then 0 else (a + (b - 1)) / b

/-- C_meas × 0.97 in µF, from V1 − V2 in µV: I_g (t2 − t1) ÷ (V1 − V2), 0.25 A × 1,980 µs (R263, R264). The samples are
given in µV. -/
def gaugeCap (v1 v2 : Nat) : Nat := if v1 ≤ v2 then 0 else 97 * (495 * 1000000) / (100 * (v1 - v2))

/-- ESR_meas × scale in µΩ-based units: (V0 − V1) ÷ I_g − t1 ÷ C_meas, as a fraction over 495 (R263). t1 ÷ C_meas is
20 µs × (V1 − V2) ÷ (0.25 A × 1,980 µs) = (V1 − V2) × 20 ÷ 495. In µΩ: 4 (V0 − V1) − 20 (V1 − V2) ÷ 495. -/
def gaugeEsrNum (v0 v1 v2 : Nat) : Int := 1980 * ((v0 : Int) - v1) - 20 * ((v1 : Int) - v2)

/-- The reported ESR in mΩ, rounded up (R264). -/
def gaugeEsr (v0 v1 v2 : Nat) : Nat := ceilDiv (gaugeEsrNum v0 v1 v2).toNat 495000

/-! ### Switches -/

/-- The power path of normal running: VIN through the blocking switch (R249). -/
def PowerState.onVin (p : PowerState) : PowerState := { p with vinBlk := true, huGate := false }

/-- Step 3 of R272: the two switches change places. -/
def PowerState.onBank (p : PowerState) : PowerState := { p with vinBlk := false, huGate := true }

end Sys2Proof.Machine
end

