-- ==== Sys2Proof/Machine/Reset.lean ====
section
/-! DEFINITION. What the resets clear: the main domain's reset and its going down (R253, R282, R459, R460, R461), the
port reset (R314), and the sources of RESET_CAUSE (R376). -/
namespace Sys2Proof.Machine
open Sys2Proof

/-- Set a bit of RESET_CAUSE.SOURCES (R376). -/
def State.resetSource (s : State) (bit : Nat) : State :=
  s.onClock fun c => { c with cause := c.cause ||| (1#14 <<< bit) }

/-- A memory after a reset that fills it and does not power it up: the counts and laps since power-up stand; its
retirements wait for recovery to apply them again (R372, R388, R389, R398). -/
def MemRec.refill (m : MemRec) : MemRec :=
  { MemRec.none with corr := m.corr, uncorr := m.uncorr, laps := m.laps }

/-- The copies of a piece that flash keeps when the Tun is cleared: its program or else its spill copy (R214), and the source copy of
a move that no cask has (R140, R233). -/
def Piece.flashCopies (p : Piece) : List Piece :=
  let at_ := fun (l : Option Loc) => { p with inTun := false, loc := l, spill := none, spillOk := false, done := true, src := none }
  (if p.done then [at_ p.loc] else if p.spill.isSome && p.spillOk then [at_ p.spill] else []) ++
  (if p.src.isSome then [at_ p.src] else [])

/-- What flash keeps of the pieces. -/
def flashPieces (ps : List Piece) : List Piece := ps.flatMap Piece.flashCopies

/-- The port's state after a reset of HOST; its inputs and the record of what it issued are not its own. -/
def HostState.cleared (h : HostState) (keepSet : Bool) : HostState :=
  { HostState.reset with
    perst := h.perst, out := h.out, lastRing := h.lastRing
    mailbox := if keepSet then h.mailbox else [], mp := if keepSet then h.mp else []
    missing := 0, peerAddr := [] }

/-- The configuration values that PERST# and a Function Level Reset put back (R314). -/
def HostState.configReset (h : HostState) : HostState :=
  { h with bar0 := 0, bar2 := 0, mse := false, bme := false, ctl := DevCtl.reset, mps := 128, mrrs := 512, msixOn := false, msixMask := false }

/-- BAR2 setup, ring state, MSI-X table and mirror base cleared; descriptors in progress abandoned; the set mailbox is kept (R314). -/
def HostState.setupClear (h : HostState) : HostState :=
  { h with sqs := [], cqs := [], msix := [], pba := 0, mirBase := 0, active := [] }

/-- A port reset: PERST#, surprise-down or a RESTART of HOST (R314). Credits granted and not consumed are released, mirror
writes and seal marks in flight abandoned, OPEN streams drain (R81). -/
def State.portReset (s : State) : State :=
  let s1 := s.onHost fun h => { h.configReset.setupClear with dlActive := false, training := false, d3hot := false,
                                                              marksDue := [] }
  let s2 := s1.onIntake fun i => { i with credits := 0, hdrCredits := 0, advertised := false, reserved := 0 }
  s2.drainOpen

/-- A Function Level Reset: as a port reset, but the link and the credits stay (R314). -/
def State.functionReset (s : State) : State :=
  let s1 := s.onHost fun h => { h.configReset.setupClear with d3hot := false, marksDue := [] }
  (s1.onIntake fun i => { i with reserved := 0 }).drainOpen

/-- INTAKE after a main-domain reset: the write-through causes stand unless the domain powered up (R108, R287), and a staged
ST_TRIM_HI stands until VAUX POR (R90, R357). -/
def IntakeState.cleared (i : IntakeState) (powerUp : Bool) : IntakeState :=
  { IntakeState.reset with
    keyGen := i.keyGen, entrySeq := i.entrySeq, trimHi := i.trimHi
    dryOwed := if powerUp then 0 else i.dryOwed, gaugeOwed := if powerUp then 0 else i.gaugeOwed
    dryFirst := powerUp || i.dryFirst, gaugeFirst := powerUp || i.gaugeFirst
    wtCap := !powerUp && i.wtCap, wtEnergy := !powerUp && i.wtEnergy }

/-- POWER's registers at a power-up of the main domain (R286 to R289); the wires and the pins are not registers. -/
def PowerState.cleared (p : PowerState) : PowerState :=
  { p with cap := 0, esr := 0, gauged := false, vbank := 0, avail := 0, gauge := .idle, gaugeReq := false, tCtrl := 0, tPwr := 0,
           tWick := 0, hottest := 0, tripRun := 0, thermal := 62000, budget := 248, throttle := 100, forceWt := false,
           blind := true, charging := false }

/-- WICK's controller after a reset: the queue and the window registers; what the array holds stands. A pulse in progress
ends as in R408. -/
def WickState.cleared (w : WickState) : WickState :=
  { w with autoSus := true, desc0 := 0, desc1 := 0, desc2 := 0, tag := 0, queue := [], hostDone := [], erase := none,
           intentOn := false }

/-- The record of a main-domain unit in the collector: a report it holds goes with the unit (R25). -/
def UnitFault.quiet (r : UnitFault) : UnitFault :=
  { r with restart := false, shadow := false, paired := false, held := [], waiting := .none, merged := [] }

/-- The collector's records after the main domain's reset. -/
def FaultState.mainCleared (f : FaultState) : FaultState :=
  { f with units := tmap UnitFault.none (fun k r => if (unitOf k).any unitVaux then r else r.quiet) f.units }

/-- MEDIA after the main domain's reset: the lists that the magazine keeps stand. -/
def State.mediaCleared (s : State) : MediaState :=
  let m := s.channelsOff.media
  { m with profile := none, done := [] }

/-- The placement state after the main domain's reset: flash keeps the pieces it holds. -/
def PlaceState.cleared (p : PlaceState) : PlaceState :=
  { p with
    pieces := flashPieces p.pieces, groups := [], moves := [], frames := [], useClock := 0, cellBase := 0,
    cellSize := 0, cellBaseLo := 0, cellSizeLo := 0, cellCur := [], cellFails := 0, cellOff := false, runDue := [], pagesDue := [], pageJobs := [], runCache := [],
    stagingHi := false }

/-- The memories after the main domain's reset; the ECC log runs since power-up (R393). -/
def MemState.cleared (m : MemState) (powerUp : Bool) : MemState :=
  if powerUp then MemState.reset
  else { MemState.reset with mems := tmap MemRec.none (fun _ x => x.refill) m.mems, log := m.log, seq := m.seq }

/-- CLOCK's registers that the main domain's reset clears; BOOT_STATUS.STEP stands until BOOT starts (R375). -/
def ClockState.mainCleared (c : ClockState) : ClockState :=
  { c with filled := false, fwUp := false, bootHold := false, refreshPct := 75, refreshP := none,
           mainOn := false }

/-- Every main-domain unit except POWER is reset; POWER too when the domain powers up (R461). Flash, the Wick array and the
VAUX domain stand. -/
def State.mainReset (s : State) (powerUp : Bool) : State :=
  { s with
    intake := s.intake.cleared powerUp
    media := s.mediaCleared
    place := s.place.cleared
    journal := { s.journal with tail := none, sealing := none, cpClocks := 0 }
    host := (s.host.cleared (!powerUp)).configReset
    snuff := { after := none, trigger := none, keepVin := false, endHalt := false, trigPos := 0 }
    wick := { s.wick.cleared with tokens := if powerUp then 1 else s.wick.tokens }
    mem := s.mem.cleared powerUp
    health := { words := [(0x40, 0x7F80)], spareLow := false, wearHigh := false, tempBin := 0 }
    power := if powerUp then s.power.cleared else s.power
    link := { s.link with snap := if powerUp then none else s.link.snap, fwVersion := 0 }
    fault := s.fault.mainCleared
    clock := s.clock.mainCleared }

/-- VIN is absent: neither in its range nor above it (R282). -/
def State.vinAbsent (s : State) : Bool :=
  !s.power.vin && !(s.unit .power).held.any fun h => h.1 = .powerVinOv

/-- The main domain goes down: rails in reverse order, its units unpowered, and the bank bled when VIN is absent (R253,
R282). With PRESENT# high or VIN absent, VIN POR is armed at once (R460). -/
def State.mainDown (s : State) : State :=
  let gone := s.vinAbsent
  let arm := s.power.absent || gone
  let s1 := (s.mainReset true).railsDown
  let s2 := s1.onPower fun p => { p with vinBlk := false, huGate := false, charging := false, bleed := gone, avail := 0 }
  s2.onClock fun c => { c with
    mainPwr := false, phase := .off, vinArmed := c.vinArmed || arm
    pllFabric := ⟨false, false⟩, pllNand := ⟨false, false⟩, pllPcie := ⟨false, false⟩
    vauxAlt := false, snuffMount := false }

/-- VAUX lost while the main domain was powered: VAUX POR follows when the domain has gone down with VAUX absent (R459). -/
def State.vauxCheck (s : State) : State :=
  if !s.clock.mainPwr && !s.clock.vauxPin then s.onClock fun c => { c with vauxPor := true } else s

/-- The main domain's rails come up and its PLLs are enabled (R252, R470). -/
def State.mainUp (s : State) (vinPor : Bool) : State :=
  let s1 := (s.railsUp vinPor).onPower fun p => { p.onVin with bleed := false }
  s1.onClock fun c => { c with
    mainPwr := true, phase := .plls, pllFabric := ⟨false, false⟩, pllNand := ⟨false, false⟩, pllPcie := ⟨false, false⟩ }

/-- At each power-up of the main domain every m_p takes the current cycle number (R148). -/
def State.peersNow (s : State) : State :=
  s.onHost fun h => { h with mp := (List.range 6).foldl (fun m p => tset 0 m p s.lamp.cycle) [] , missing := 0 }

/-- BOOT begins: DEV_STATE shows BOOT, STEP is 0 (R375, R473). -/
def State.bootBegin (s : State) : State := (s.setDev .boot).onClock fun c => { c with step := 0, bootHold := false }

/-- The power-up of the main domain that VIN POR and RESET_CMD COLD make (R461); the charger starts (R252 step 7). -/
def State.powerUp (s : State) (vinPor : Bool) : State :=
  let s1 := (s.mainReset true).mainUp vinPor
  (s1.peersNow.onJournal fun j => { j with
    powerUps := if j.powerUps.toNat = 0xFFFFFFFF then j.powerUps else j.powerUps + 1 }).bootBegin.chargerUpdate

end Sys2Proof.Machine
end

