-- ==== Sys2Proof/Machine/LinkCore.lean ====
section
/-! DEFINITION. The link reset and the Lantern string (R320, R322), and the level of ATTN# (R332). -/
namespace Sys2Proof.Machine
open Sys2Proof

/-- ATTN# is driven low (R332). -/
def LinkState.attnLow (l : LinkState) : Bool := l.irqStatus &&& l.irqEnable != 0

/-! ### Symbols on the wire (R319, R324) -/

/-- The lines WDAT3 to WDAT0 while 1-bit mode sends a bit on WDAT0: a line at rest is high. -/
def bitSymbol (b : Bool) : BitVec 4 := if b then 0xF else 0xE

/-- A byte on the wire: in 1-bit mode (width 0) most significant bit first; in 4-bit mode the high nibble first, WDAT3 its most
significant bit. -/
def byteSymbols (width : Nat) (b : Byte) : List (BitVec 4) :=
  if width = 0 then (List.range 8).map fun i => bitSymbol (b.getMsbD i) else [(b >>> 4).setWidth 4, b.setWidth 4]

/-- The start symbol: every data line of the mode in force is low. -/
def startSymbol (width : Nat) : BitVec 4 := if width = 0 then 0xE else 0x0

/-- Bytes on the wire behind a start symbol, one symbol for each WCLK. -/
def wireOf (width : Nat) (bs : List Byte) : List (BitVec 4) := startSymbol width :: bs.flatMap (byteSymbols width)

/-- A byte from the symbols that a receiver samples. -/
def byteOfWire (width : Nat) (ws : List (BitVec 4)) : Byte :=
  if width = 0 then ws.foldl (fun b w => (b <<< 1) ||| (w.setWidth 8 &&& 1)) 0 else ws.foldl (fun b w => (b <<< 4) ||| w.setWidth 8) 0

/-- The bytes of a native frame: control byte, LEN, information field, CRC-16 high byte first (R324, R326). -/
def Frame.bytes (f : Frame) : List Byte :=
  let h := f.control :: BitVec.ofNat 8 f.info.length :: f.info
  h ++ (leBytes 2 (crc16 h).toNat).reverse

/-- A control byte carries no reserved value (R325, R326, R330). -/
def controlOk (c : Byte) : Bool :=
  match c.toNat / 64 with
  | 0 | 1 => true
  | 2 => decide (c.toNat / 8 % 8 = 0)
  | _ => decide (c.toNat / 8 % 8 ≤ 5) && decide (c.toNat % 8 = 0)

/-- The control byte and the information field of a received frame, if it is valid: its CRC matches, its LEN is not 255, and its control byte
carries no reserved value (R326). -/
def receivedFrame : List Byte → Option (Byte × List Byte)
  | c :: n :: bs =>
    let info := bs.take n.toNat
    if n ≠ 255 ∧ bs.length = n.toNat + 2 ∧ bs.drop n.toNat = (leBytes 2 (crc16 (c :: n :: info)).toNat).reverse ∧ controlOk c = true then
      some (c, info)
    else none
  | _ => none

/-- The parity bit of a Novven character: data and parity together hold an even number of ones (R345). -/
def evenParity (b : Byte) : Bool := (List.range 8).foldl (fun p i => p != b.getLsbD i) false

/-- A Novven character on the wire, one symbol for each of its 12 clocks: start bit, data least significant bit first, parity, and two guard
clocks in which the sender releases WDAT0 (R345). -/
def novvenSymbols (b : Byte) : List (BitVec 4) :=
  bitSymbol false :: ((List.range 8).map fun i => bitSymbol (b.getLsbD i)) ++ [bitSymbol (evenParity b), 0xF, 0xF]

/-- The byte that a receiver reads from a character's first 10 symbols; nothing where it finds a parity error (R345, R348). -/
def novvenByte (ws : List (BitVec 4)) : Option Byte :=
  let b : Byte := (List.range 8).foldl (fun v i => if (ws.getD (i + 1) 0xF).getLsbD 0 then v ||| (1 <<< i) else v) 0
  if (ws.getD 9 0xF).getLsbD 0 = evenParity b then some b else none

/-- What LINK drives on WDAT for the frame it sent last, in the mode that was then in force, or after a link reset for the Lantern string, which
goes in 1-bit mode; in the Novven protocol, its answer characters (R319, R322, R324, R345). -/
def LinkState.wire (l : LinkState) : List (BitVec 4) :=
  if l.novven then l.answer.flatMap novvenSymbols
  else
    match l.sent with
    | some f => wireOf f.width f.bytes
    | none => wireOf 0 l.lantern

/-! ### The pins (R318, R321) -/

/-- What LINK does with a pin. -/
inductive PinLevel where
  | undriven | highZ | low | high
  /-- data: driven as the symbols on the wire say -/
  | data
  deriving DecidableEq, Repr

/-- What the link does in a clock (R320, R327, R348). -/
inductive LinkPhase where
  /-- from edge 16 of a link reset to the Lantern start bit -/
  | starting
  /-- the host transmits, the link idles between frames or sleeps -/
  | idle
  | busy | ready | sending
  /-- guard clock 11 of a Novven character with a parity error -/
  | guard
  deriving DecidableEq, Repr

/-- The VAUX domain is powered, from the VAUX pin or from the power die's path (R24, R34, R459). -/
def State.vauxOn (s : State) : Bool := s.clock.vauxPin || s.clock.vauxAlt

/-- WDAT0, WDAT1 to WDAT3, and ATTN# (R321, R466). -/
def State.linkPins (s : State) (p : LinkPhase) : PinLevel × PinLevel × PinLevel :=
  let wide := s.link.width = 1 && !s.link.novven
  if s.clock.vauxPor && !s.vauxOn then (.undriven, .undriven, .undriven)
  else if !s.clock.fuseRead then (.highZ, .highZ, .highZ)
  else
    let attn := if s.link.attnLow then PinLevel.low else .highZ
    if !s.link.selected then (.highZ, .highZ, attn)
    else
      match p with
      | .starting => (.high, .highZ, attn)
      | .idle => (.highZ, .highZ, attn)
      | .busy => (.low, .highZ, attn)
      | .ready => (.high, if wide then .high else .highZ, attn)
      | .sending => (.data, if wide then .data else .highZ, attn)
      | .guard => (.low, .highZ, attn)

/-! ### The link reset -/

/-- Bytes 0 to 29 of the Lantern string (R322). -/
def State.lanternHead (s : State) : List Byte :=
  let role := if s.link.setWritten then
      s.link.member + 8 * (s.link.count - 1) + (if 1 < s.link.count then 128 else 0) else 0
  [0x56, 0x47, 1, 0x03, 52, 4] ++ leBytes 2 s.link.rawCode.toNat ++ [BitVec.ofNat 8 role] ++
  [BitVec.ofNat 8 (devCode s.clock.dev)] ++ leBytes 4 s.link.fwVersion.toNat ++ leBytes 8 s.clock.serialHash.toNat ++
  List.replicate 8 0

/-- The Lantern string: 32 bytes, the check least significant byte first (R322). -/
def State.lanternString (s : State) : List Byte :=
  let h := s.lanternHead
  h ++ leBytes 2 (crc16 h).toNat

/-- What a link reset does to LINK's protocol state: 1-bit mode, no chain, both counts 0, the match window open (R320,
R351). An act whose response has not been sent to its end is not done (R338); an execution goes on, and its response is not sent (R337). -/
def LinkState.protoReset (l : LinkState) : LinkState :=
  { l with awaiting := false, dead := false, novven := false, width := 0, rate := 0, asleep := false, matchOpen := true,
           vr := 0, vs := 0, chain := [], chainN := 0, toSend := [], sent := none, lastI := none, switching := none, command := none,
           answer := [], opSeen := none, act := .none, run := l.run.map fun r => { r with silent := true } }

/-- A link reset (R320): the Lantern string is sent, and the selection character is awaited. -/
def State.linkReset (s : State) : State :=
  s.onLink fun l => { l.protoReset with lantern := s.lanternString, awaiting := true }

/-- A link reset where WSEL# is low; with WSEL# high the protocol state alone is reset, and the Lantern string waits for
the next selection. -/
def State.linkResetIfSelected (s : State) : State :=
  if s.link.selected then s.linkReset else s.onLink LinkState.protoReset

end Sys2Proof.Machine
end

