-- ==== Sys2Proof/Machine/Snuffer.lean ====
section
/-! DEFINITION. The Snuffer: triggers (R271), the flush and what it leaves (R272 to R282), reset flushes (R462), and the
dry run (R284). -/
namespace Sys2Proof.Machine
open Sys2Proof

/-! ### Anchors (R130, R131, R134) -/

/-- An anchor is intact: magic, format and CRC match, and so does its serial hash (R130). None is read from a SUSPECT sector (R425). -/
def State.anchorOk (s : State) (a : Anchor) : Bool :=
  a.intact && a.serial == s.clock.serialHash.setWidth 32 && !s.wick.suspectP (a.place / 128)

/-- The newest anchor of a copy that is intact. -/
def State.newestAnchor (s : State) (copyB : Bool) : Option Anchor :=
  (s.wick.anchors.filter fun a => a.copyB = copyB && s.anchorOk a).foldl (fun b a =>
    match b with
    | none => some a
    | some x => if x.gen < a.gen then some a else b) none

/-- The highest generation of any anchor copy; 0 with none. -/
def State.topGen (s : State) : Nat := s.wick.anchors.foldl (fun g a => max g a.gen) 0

/-- The journal address of the record with a sequence; 0 with none (R130). -/
def State.recAddr (s : State) (seq : Nat) : BitVec 64 :=
  match s.journal.recs.find? fun r => r.seq = seq with
  | some r => r.addr
  | none => 0

/-- The logical sector that an area's slot pointer lies in (R417, R420). -/
def areaSector (copyB : Bool) (slot : Nat) : Nat := (if copyB then 24 else 8) + slot / 128 % 16

/-- The next slot pointer, passing over retired sectors (R420). -/
def WickState.skipRetired (w : WickState) (copyB : Bool) : Nat → Nat → Nat
  | 0, slot => slot
  | n + 1, slot =>
    if w.retired.contains (w.phys (areaSector copyB slot)) then
      w.skipRetired copyB n (((slot / 128 + 1) * 128) % 2048)
    else slot

/-- The place of the next free slot of an area (R131, R420). -/
def WickState.slotPlace (w : WickState) (copyB : Bool) : Nat :=
  let p := w.skipRetired copyB 16 (if copyB then w.slotBp else w.slotA)
  128 * w.phys (areaSector copyB p) + p % 128

/-- The anchor that a pair writes in a copy (R130, R133). In RECOVER, READ_ONLY is 0 even where the mount will end READ_ONLY: bit 2 says
what DEV_STATE shows at the write (DESIGN CHOICE, log 119). -/
def State.composeAnchor (s : State) (gen : Nat) (copyB snuff : Bool) (head : Nat) (band : Option Nat) : Anchor :=
  { gen := gen, copyB := copyB, snuff := snuff, readOnly := s.clock.dev = .readOnly, headSeq := head, headAddr := s.recAddr head
    lastCask := s.ownSealed, snuffLoc := band, intent := s.wick.intent.map Prod.fst
    intKind := (s.wick.intent.map Prod.snd).getD 0, wbase := s.wick.wbase, doneSec := s.wick.doneSec
    serial := s.clock.serialHash.setWidth 32, powerUps := s.journal.powerUps, intact := true, place := s.wick.slotPlace copyB }

/-- The 64 bytes of an anchor (R130). -/
def Anchor.bytes (a : Anchor) : List Byte :=
  let sec := fun (x : Option Nat) => leBytes 2 (x.getD 0xFFFF)
  let head := leBytes 2 0x56A7 ++ [1#8, BitVec.ofNat 8 ((if a.copyB then 1 else 0) + (if a.snuff then 2 else 0) + if a.readOnly then 4 else 0)] ++
    leBytes 8 a.gen ++ leBytes 8 a.headSeq ++ leBytes 8 a.headAddr.toNat ++ leBytes 8 a.lastCask ++
    leBytes 8 (match a.snuffLoc with
      | some b => (journalAddr b 0).toNat
      | none => 0) ++
    sec a.intent ++ [BitVec.ofNat 8 a.intKind, BitVec.ofNat 8 a.wbase] ++ sec a.doneSec ++ leBytes 2 0 ++ leBytes 4 a.serial.toNat ++
    leBytes 4 a.powerUps.toNat
  head ++ leBytes 4 (crc32c head).toNat

/-- n further slots of an area are used. -/
def WickState.useSlots (w : WickState) (copyB : Bool) (n : Nat) : WickState :=
  let p := w.skipRetired copyB 16 (if copyB then w.slotBp else w.slotA)
  let w1 := w.useSector (w.phys (areaSector copyB p))
  if copyB then { w1 with slotBp := (p + n) % 2048 } else { w1 with slotA := (p + n) % 2048 }

/-- Both copies of a pair are programmed; the intent that waits is in a programmed pair now, and the done entry is carried
(R131, R133). Slots advance (R420). -/
def State.writePair (s : State) (gen : Nat) (snuff : Bool) (head : Nat) (band : Option Nat) : State :=
  let a := s.composeAnchor gen false snuff head band
  let b := s.composeAnchor gen true snuff head band
  s.onWick fun w =>
    let w1 := (w.useSlots false 1).useSlots true 1
    { w1 with anchors := a :: b :: w1.anchors, intentOn := w1.intent.isSome, doneSec := none, pairAged := false }

/-! ### The snuff band (R277) -/

/-- Row accumulators of the open rows, as (band, row, content) (R277 item 3). -/
def State.openAccs (s : State) : List (Nat × Nat × List Byte) :=
  s.place.bands.flatMap fun x => x.2.accs.map fun r => (x.1, r, ((x.2.accBuf.find? fun a => a.1 == r).map Prod.snd).getD [])

/-- Dirty Grist lines, as (page, line, its 64 bytes) (R277 item 4). -/
def State.openLines (s : State) : List (Nat × Nat × List Byte) :=
  s.place.frames.flatMap fun x => x.2.lines.map fun l => (x.1, l, ((s.formPage x.1).bytes.drop (64 * l)).take 64)

/-- The pending pieces of a flush as they stand in the Tun, each with its accepted bytes (R98, R114, R277). In write-through they are the
bytes accepted before its entry that no programmed run records yet (R109, R145; DEDUCED, log 127). -/
def State.snuffPending (s : State) : List Piece :=
  ((s.place.pieces.filter Piece.inTun).filterMap s.acceptedPart).filter fun p => !(s.writeThrough && s.recorded p)

/-- The directory entry of a piece (R278), its place apart. -/
def Piece.dirEntry (p : Piece) : DirEntry :=
  match p.unit with
  | some u => { kind := 1, stream := 0, epoch := 0, chunk := u, second := false, first := 0, count := 1 }
  | none => { kind := 0, stream := p.stream, epoch := p.epoch, chunk := p.off / 4096, second := false, first := 0, count := 1 }

/-- Entries take consecutive codewords from k on; the first snuff band holds cap of them (R278, R279). -/
def placeDir (cap : Nat) : Nat → List DirEntry → List DirEntry
  | _, [] => []
  | k, e :: es =>
    { e with second := decide (cap ≤ k), first := if cap ≤ k then k - cap else k } :: placeDir cap (k + e.count) es

/-- The 32 bytes of a directory entry (R278). -/
def DirEntry.bytes (e : DirEntry) : List Byte :=
  let head := [BitVec.ofNat 8 e.kind, 0] ++ leBytes 2 e.stream ++ leBytes 8 e.epoch ++ leBytes 8 e.chunk ++
    leBytes 4 (e.first + if e.second then 2147483648 else 0) ++ leBytes 4 e.count
  head ++ leBytes 4 (crc32c head).toNat

/-- The piece directory of a flush: pieces, then row accumulators, from the codeword after the header on (R277, R278). -/
def State.snuffDir (s : State) (cap : Nat) : List DirEntry :=
  placeDir cap 1 (s.snuffPending.map Piece.dirEntry ++ s.openAccs.map fun a =>
    { kind := 2, stream := 0, epoch := a.1, chunk := a.2.1, second := false, first := 0, count := s.cu (s.band a.1).slc })

/-- Codewords of a whole flush (R277). -/
def State.snuffCodewords (s : State) : Nat :=
  let d := s.snuffDir 0
  2 + sumBy DirEntry.count d + (s.openLines.length + 55) / 56 + (d.length + 127) / 128 + (s.tailBytes + 4095) / 4096

/-- The units of one row of a snuff band that take its data in turn, and the members left: a member whose program fails is dropped, and with
fewer than 17 the band is left (R178, R239). -/
def snuffRow (b row : Nat) (fails : List (Nat × Nat)) (live : List Nat) : List (Nat × Nat) × List Nat :=
  (dataSlots b live).foldl (fun a c =>
    if a.2.length < 17 then a
    else if fails.contains (c, row) then (a.1, a.2.filter fun x => x ≠ c)
    else (a.1 ++ [(row, c)], a.2)) ([], live)

/-- The units of a snuff band that take its data, row by row; a PARITY that fails ends it (R178, R239). -/
def snuffUnits (b : Nat) (fails : List (Nat × Nat)) : List Nat → List Nat → List (Nat × Nat)
  | [], _ => []
  | r :: rs, live =>
    if live.length < 17 then []
    else
      let x := snuffRow b r fails live
      x.1 ++ (if fails.contains (parityChan b live, r) then [] else snuffUnits b fails rs x.2)

/-- The members of a snuff band that take part in its first row. -/
def State.snuffLive (s : State) (b : Nat) : List Nat := (s.band b).membersAt 0

/-- Data codewords that a snuff band takes, given the programs that fail there (R238, R239). -/
def State.snuffCap (s : State) (b : Nat) (fails : List (Nat × Nat)) : Nat :=
  (snuffUnits b fails (List.range s.wordlines) (s.snuffLive b)).length * s.cu true

/-- The programs of one snuff band that fail, as (channel, row). -/
def failsAt (f : FlushIn) (k : Nat) : List (Nat × Nat) := (f.fails.filter fun x => x.1 == k).map Prod.snd

/-- The snuff bands that are held and checked, in the order in which the Snuffer writes them: the lower-numbered one first (R239). -/
def State.snuffBands (s : State) : List Nat :=
  sortBy (fun a b => decide (a ≤ b)) ((s.place.snuff.filter fun b => b.2).map Prod.fst)

/-- The codewords that go to the first band: all of them, until it is full or is left with fewer than 17 members (R279). -/
def State.firstCap (s : State) (f : FlushIn) (b : Nat) : Nat := s.snuffCap b (failsAt f 0)

/-- What the Snuffer programs: the pending pieces as they stand, accumulators, lines, the directory, the committed tail and the link
entry (R277). It continues in the second band when the first is full or left (R279). -/
def State.snuffImage (s : State) (trig : BitVec 3) (f : FlushIn) (bands : List Nat) : SnuffImage :=
  let cap := s.firstCap f (bands.headD 0)
  { bands := if s.snuffCodewords ≤ cap then bands.take 1 else bands.take 2
    dir := s.snuffDir cap
    trigger := trig, cycle := s.lamp.cycle, tickPos := s.snuff.trigPos, powerUps := s.journal.powerUps
    tail := s.journal.tail.getD { base := s.tailBase, sealed := s.journal.lastSeal, upTo := s.journal.nextSeq - 1, snap := s.snapshot,
                                   frames := s.journal.frames }
    pieces := s.snuffPending
    accs := s.openAccs, lines := s.openLines, link := s.link.last }

/-- A page of 4,096 bytes and a trailer area of zeros: the codeword of an item that is no piece (R179, R277). -/
def plainWord (bs : List Byte) : List Byte := bs ++ List.replicate (4112 - bs.length) 0

/-- Bytes cut into codewords of n bytes; fuel bounds them. -/
def inWords (n : Nat) : Nat → List Byte → List (List Byte)
  | 0, _ => []
  | k + 1, bs => if bs.isEmpty then [] else plainWord (bs.take n) :: inWords n k (bs.drop n)

/-- The values of the header: magic, format, trigger, cycle, tick position, power-ups, base of the tail, and the count of each item (R277). -/
def SnuffImage.header (x : SnuffImage) : List Nat :=
  [0x534E, 1, x.trigger.toNat, x.cycle, x.tickPos, x.powerUps.toNat, x.tail.base] ++
  [x.pieces.length, x.accs.length, x.lines.length, x.dir.length]

/-- An item of R277 whose layout the manual does not give. -/
def freeItem (item : Nat) (vals : List Nat) (n : Nat) : List Byte := (List.range n).map (Config.snuffByte item vals)

/-- The link entry of the trailer, as values (R277, R341). -/
def LinkLast.values (x : LinkLast) : List Nat := [x.proto, x.ns.toNat, x.len, x.crc.toNat] ++ x.response.map BitVec.toNat

/-- What the Snuffer programs, codeword by codeword in the order of R277: the kind, and the data and trailer areas (R179, R180). The tail
takes n bytes; accumulators take the codewords that the directory gives them. -/
def SnuffImage.words (x : SnuffImage) (key : List Byte) (n : Nat) : List (Nat × List Byte) :=
  let head := freeItem 1 x.header 4096
  let five : List (List Byte) → List (Nat × List Byte) := fun ws => ws.map fun w => (5, w)
  let counts := (x.header.drop 7).flatMap (leBytes 4)
  five [plainWord head] ++
  (x.pieces.map fun p => (if p.unit.isSome then 1 else 0, p.codeword key)) ++
  five ((x.accs.zip (x.dir.filter fun d => d.kind == 2)).flatMap fun a =>
    (List.range a.2.count).map fun k => (a.1.2.2.drop (4640 * k + 16)).take 4112) ++
  five (inWords 4032 ((x.lines.length + 55) / 56) (x.lines.flatMap fun l => leBytes 4 l.1 ++ leBytes 4 l.2.1 ++ l.2.2)) ++
  five (inWords 4096 ((x.dir.length + 127) / 128) (x.dir.flatMap DirEntry.bytes)) ++
  five (inWords 4096 ((n + 4095) / 4096) (freeItem 6 [x.tail.base, x.tail.upTo] n)) ++
  five [plainWord (freeItem 7 ((crc32c (head ++ counts)).toNat :: (x.link.map LinkLast.values).getD []) 4096)]

/-- A list in pieces of n; fuel bounds them. -/
def groupsOf {α : Type} (n : Nat) : Nat → List α → List (List α)
  | 0, _ => []
  | k + 1, l => if l.isEmpty then [] else l.take n :: groupsOf n k (l.drop n)

/-- Codewords of some kinds are programmed in a snuff band; members whose programs fail are dropped and their blocks retired; the last row is
closed early with pad codewords, kind 4, and its parity (R176 to R178, R180, R190, R239, R277). -/
def State.fillRows (s : State) (b : Nat) (fails : List (Nat × Nat)) (kinds : List Nat) : State :=
  let x := s.band b
  let cu := s.cu true
  let n := kinds.length
  let used := (snuffUnits b fails (List.range s.wordlines) (s.snuffLive b)).take (if cu = 0 then 0 else (n + (cu - 1)) / cu)
  let last := (used.getLast?.map Prod.fst).getD 0
  let rows := if used.isEmpty then [] else List.range (last + 1)
  let met := fails.filter fun f => x.channels.contains f.1 && rows.contains f.2
  let seq := s.journal.nextSeq - 1
  let s1 := s.modBand b fun y =>
    let y1 := { y with drops := y.drops ++ met, fails := y.fails ++ met }
    let data := used.zip (groupsOf cu used.length kinds)
    let pads := (rows.flatMap fun r => (dataSlots b (y1.membersAt r)).map fun c => (r, c)).filter fun u => !used.contains u
    let y2 := data.foldl (fun z u => z.addUnit u.1.1 u.1.2 seq (u.2 ++ List.replicate (cu - u.2.length) 4)) y1
    let y3 := pads.foldl (fun z u => z.addUnit u.1 u.2 seq (List.replicate cu 4)) y2
    { y3 with parity := rows.filter fun r => !met.contains (parityChan b (y.membersAt r), r) }
  met.foldl (fun t f => (t.countFail f.1 false).retireBlock f.1 (b % 16) (s.memberBlock b f.1) false) s1

/-- The rows of the bands that a flush has written. -/
def State.snuffRows (s : State) (f : FlushIn) (img : SnuffImage) : State :=
  let kinds := (img.words s.intake.key s.tailBytes).map Prod.fst
  match img.bands with
  | [] => s
  | [a] => s.fillRows a (failsAt f 0) kinds
  | a :: b :: _ =>
    let cap := s.firstCap f a
    (s.fillRows a (failsAt f 0) (kinds.take cap)).fillRows b (failsAt f 1) (kinds.drop cap)

/-- Steps 2 and 4 to 8 of R272: credits end, the snuff bands and one anchor pair are written (R134, R273). FLUSH_BY takes the trigger. With no
snuff band held, no band and no anchor can be written. -/
def State.flushWrite (s : State) (trig : BitVec 3) (f : FlushIn) : State :=
  let s1 := s.onIntake fun i => { i with credits := 0, hdrCredits := 0, reserved := 0, unacked := [] }
  let s2 := s1.onClock fun c => { c with flushBy := trig }
  match s2.snuffBands with
  | [] => s2
  | b :: rest =>
    let head := match s2.newestAnchor false with
      | some a => a.headSeq
      | none => s2.journal.newestCp.getD 0
    let img := s2.snuffImage trig f (b :: rest)
    (((s2.snuffRows f img).onJournal fun j => { j with snuff := some img }).writePair (s2.topGen + 1) true head (some b)).onClock
      fun c => { c with vauxAlt := c.vauxAlt && !c.vauxPin }

/-- The Snuffer's first program may start: no unit that it waits for is in a RESTART reset (R445), it has the highest class, and its tokens
are within the 24 W of a flush (R188, R272 step 5, R275). -/
def State.flushStarts (s : State) : Bool :=
  !([UnitId.tun, .grist, .media, .wick, .snuff].any fun u => (s.unit u).restart) &&
  match s.snuffBands with
  | [] => true
  | b :: _ => s.canUse 0x02 0 (((dataSlots b (s.snuffLive b)).take 1).map fun c => (0, b, c))

/-- A trigger before SNUFF runs a flush: the rails go down with no snuff band and no anchor (R271, R475). -/
def State.earlyDown (s : State) : State := ((s.mainDown).setDev .boot).vauxCheck

/-! ### Triggers (R271) -/

/-- A gauge measurement under way ends, uncounted (R267). -/
def State.gaugeCut (s : State) : State :=
  (s.onPower fun p => { p with gauge := .idle }).chargerUpdate

/-- A flush begins: descriptors not started end, credits stop, and the Snuffer's programs wait to start (R170, R272). -/
def State.beginFlush (s : State) (code : BitVec 3) (keep halt : Bool) (after : Option ResetKind) : State :=
  s.abortQueued.onSnuff fun x => { x with trigger := some code, keepVin := keep, endHalt := halt, trigPos := s.lamp.tickPos, after := after }

/-- A wire is asserted during a reset flush: the power path changes over at once, the flush ends with steps 9 and 10, and the reset is not
carried out (R462). -/
def State.cutReset (s : State) (bit : Nat) : State :=
  ((s.resetSource bit).onPower PowerState.onBank).onSnuff fun x => { x with keepVin := false, after := none }

/-- A trigger: bit is its RESET_CAUSE source, code its FLUSH_BY code; wire says that it came on a wire; halt is the end state that a fault
asks for (R271, R376, R450, R453). A trigger that meets a flush has no effect (R283); a wire that meets a reset flush cuts it short (R462),
a fault that does has no effect either (DESIGN CHOICE, log 148). After a trigger on a wire in READ_ONLY or HALTED, R271 gives no DEV_STATE: it
shows SNUFFED, as after a flush (DESIGN CHOICE, log 138). -/
def State.trigger (s : State) (bit : Nat) (code : BitVec 3) (wire halt : Bool) : State :=
  if !s.clock.mainPwr then s
  else if s.snuff.trigger.isSome then (if wire && s.snuff.after.isSome then s.cutReset bit else s)
  else
    let s1 := (s.resetSource bit).gaugeCut
    match s1.clock.dev with
    | .ready | .degraded => s1.beginFlush code (!wire) halt none
    | .boot | .recover | .download => s1.earlyDown
    | .readOnly | .halted => (s1.mainDown.setDev (if wire then .snuffed else .halted)).vauxCheck
    | .snuffed => s1

/-- Steps 9 and 10 of R272: WP# low, rails down, DEV_STATE SNUFFED, and HALTED at once where the fault asks for it
(R451). -/
def State.flushEnd (s : State) (halt : Bool) : State :=
  let s1 := s.mainDown.setDev .snuffed
  (if halt then s1.setDev .halted else s1).vauxCheck

/-- The end of a flush that keeps VIN and does not halt, the recovery of R450: every main-domain unit except POWER is reset, the memories
refilled, and recovery mounts READ_ONLY. -/
def State.flushRecover (s : State) : State :=
  (((s.mainReset false).onClock fun c => { c with
    mainOn := true, filled := true, snuffMount := true, phase := .done, step := 2, fwUp := true }).setDev .recover).unwrapKey.onHost
      fun h => { h with training := !h.perst }

/-- R280: VBANK fell below 7.0 V before the anchor: no anchor, steps 9 and 10. -/
def State.flushAbort (s : State) : State :=
  match s.snuff.trigger with
  | none => s
  | some code => (s.onClock fun c => { c with flushBy := code }).flushEnd s.snuff.endHalt

/-! ### Reset commands (R461 to R463, R478) -/


/-- WARM and SOFT_RESET are refused while SNUFFED, HALTED with MAIN_ON clear, or in a flush (R463). With the main domain
off for any other reason there is nothing to reset either. -/
def State.warmRefused (s : State) : Bool :=
  s.clock.dev = .snuffed || (s.clock.dev = .halted && !s.clock.mainOn) || s.snuff.trigger.isSome

/-- COLD is refused while PRESENT# is high or VIN is below 10.6 V, or in a flush (R463). -/
def State.coldRefused (s : State) : Bool := s.power.absent || !s.power.vin || s.snuff.trigger.isSome

/-- RESET_CMD WARM and SOFT_RESET after their reset flush: every main-domain unit except POWER is reset and boots; from DOWNLOAD, BOOT_SRC is
taken as 0b00 once (R461, R478). -/
def State.warmReset (s : State) (bit : Nat) : State :=
  if !s.clock.mainPwr then s
  else
    let dl := s.clock.dev = .download
    let s1 := (s.gaugeCut.resetSource bit).mainReset false
    (s1.onClock fun c => { c with phase := .fill, bootAs00 := dl, snuffMount := false }).bootBegin

/-- RESET_CMD COLD, the way out of SNUFFED beside a VIN POR (R281), after its reset flush: the main domain goes down and comes up from step 2
of R252 (R461); with VAUX absent VAUX POR follows instead (R24, R459). -/
def State.coldReset (s : State) : State :=
  let s1 := if s.clock.mainPwr then (s.gaugeCut.mainDown).vauxCheck else s
  let s2 := (s1.resetSource 8).onClock fun c => { c with bootAs00 := false }
  if s2.clock.vauxPor then s2 else s2.powerUp false

/-- A reset is carried out; a link reset follows it (R338, R461). -/
def State.carryReset (s : State) : ResetKind → State
  | .warm => (s.warmReset 7).linkResetIfSelected
  | .cold => s.coldReset.linkResetIfSelected
  | .soft => (s.warmReset 13).linkResetIfSelected

/-- A reset that is refused now (R463). -/
def State.resetRefused (s : State) : ResetKind → Bool
  | .warm | .soft => s.warmRefused
  | .cold => s.coldRefused

/-- A reset command after its response (R462): in READY or DEGRADED its reset flush begins, with trigger 4; in the other states nothing is
written, and the reset follows at once. One that meets a flush, or that would be refused by now, is not carried out (R463; DESIGN CHOICE, log
148). -/
def State.startReset (s : State) (k : ResetKind) : State :=
  if s.resetRefused k then s
  else if s.running then s.gaugeCut.beginFlush 4 true false (some k)
  else s.carryReset k

/-- The flush of R272 for the trigger that waits, with its end: that of R450, the reset that a reset flush precedes (R462), or steps 9 and
10. -/
def State.flush (s : State) (f : FlushIn) : State :=
  match s.snuff.trigger with
  | none => s
  | some code =>
    let halt := s.snuff.endHalt
    let keep := s.snuff.keepVin
    let s1 := if keep then s else s.onPower PowerState.onBank
    let s2 := s1.flushWrite code f
    match s.snuff.after with
    | some k => s2.carryReset k
    | none => if keep && !halt then s2.flushRecover else s2.flushEnd halt

/-! ### The dry run (R284) -/

/-- The 16 SNUFF entries are free in the queue of every channel that holds a snuff band member (R284 item 5). -/
def State.snuffQueuesFree (s : State) : Bool :=
  s.place.snuff.all fun b => (s.band b.1).channels.all fun c =>
    (s.chan c).queue.all fun e => decide (e.slot < 240)

/-- The first item of the dry run that fails, of 1 to 7. -/
def State.dryFails (s : State) (d : DryIn) : Option Nat :=
  if !d.removalSeen || !d.brownSeen then some 1
  else if d.pumpMv < 9000 || 11000 < d.pumpMv || d.gatePf < 1000 || 50000 < d.gatePf then some 2
  else if !d.tailReads then some 3
  else if !d.listsAgree then some 4
  else if !s.snuffQueuesFree then some 5
  else if s.snuffBands.isEmpty then some 6
  else if !(if s.wick.erase.any fun e => decide (16 ≤ e.sector) then s.wick.slotsOk else d.slotsBlank) then some 7
  else none

/-- The dry run at a marker in READY or DEGRADED (R284): a failure asserts SNUFF's error line and owes three passes; a pass
counts one off (R111). -/
def State.dryRun (s : State) (d : DryIn) : State :=
  if !s.running || s.snuff.trigger.isSome || s.stopped .snuff then s
  else
    match s.dryFails d with
    | some n =>
      (((s.onIntake fun i => { i with dryOwed := 3 }).countHi 0x43 1).assertError .snuffDryRun (detail [(3, n)])).wtUpdate
    | none => (s.onIntake fun i => { i with dryOwed := i.dryOwed - 1, dryFirst := false }).wtUpdate

end Sys2Proof.Machine
end

