-- ==== Sys2Proof/Machine/Faults.lean ====
section
/-! DEFINITION. The fault collector: reports, levels and reactions (R436 to R445), the reaction shadow (R446 to R448), its
own faults (R449), and acknowledgement (R455). -/
namespace Sys2Proof.Machine
open Sys2Proof

/-- The lowest width bits of a detail from a bit upward (R499). -/
def detailBits (d : BitVec 56) (lo width : Nat) : Nat := d.toNat / 2 ^ lo % 2 ^ width

/-! ### Reactions (R442) -/

/-- CONTAIN: the target that the cause names is quiesced; a cause that names none acts as NOTE (R439, R442). Row r of the
stream table is stream r, 16 words (R80, R379); MEM_NO_SPARE names the row itself (R399, R499), and so, acted on at CONTAIN, its stream
(DEDUCED, log 154). -/
def State.contain (s : State) (c : Cause) (d : BitVec 56) : State :=
  match c with
  | .hostRxEcc => s.containStream (detailBits d 0 10)
  | .intakeMemUncorr => s.containStream (detailBits d 0 24 / 16)
  | .intakeMemNoSpare => s.containStream (detailBits d 0 16)
  | .mediaDieFail | .mediaChannelFail | .mediaBusCheck | .mediaQueueEcc => s.containChannel (detailBits d 0 5)
  | .lampSealOverrun => s.onLamp fun l => { l with containSeal := some (detailBits d 0 56) }
  | _ => s

/-- Marker detector, tick transfer and window sequencer are reset; every value of R47 stands (R442). -/
def LampState.restart (l : LampState) : LampState :=
  { l with edgeTaken := false, openWin := none, sealExt := none }

/-- A memory after a RESTART of its unit: the scrubber begins its lap anew, the MEM registers take their reset values, and so the memory is
ON, filled if it was OFF; the words, the counts since power-up and the retirements stand (R354, R372, R388, R389, R442; DEDUCED, log 157). -/
def MemRec.restarted (m : MemRec) : MemRec :=
  { m with req := .on, now := .on, lap := 0, testEn := false, lane := 0, testDone := false, addr := 0, stage := 0, stageChk := 0, scrubAt := 0 }

/-- A RESTART of INTAKE: a staged half of ST_TRIM and its memory's scrubber and registers; the stream table, the frontiers and the pending
count are kept (R388, R442). -/
def State.restartIntake (s : State) : State := (s.onIntake fun t => { t with trimHi := none }).modMemory 4 MemRec.restarted

/-- A RESTART of BACK ends every move that is not yet in a committed tail (R234); its TCM is kept (R388). -/
def State.restartBack (s : State) : State :=
  (s.onPlace fun p => { p with moves := p.moves.filter fun m => m.noted }).modMemory 3 MemRec.restarted

/-- A RESTART of FRONT: DEV_CTRL takes its reset values (R354, R358), and during start-up the boot ROM runs again from step 5 of R473 (R479);
its TCM is kept (R388). -/
def State.restartFront (s : State) : State :=
  (s.onClock fun c => { c with
    phase := if c.phase = .discovery then .image else c.phase, refreshPct := 75, refreshP := none, bootHold := false }).modMemory 2 MemRec.restarted

/-- POWER's control logic, registers, gauge and charger control are reset; the switches, the rails, the removal wires and the thermal limit
keep running, on a budget of 62 W and the throttle threshold's reset value (R255). -/
def State.restartPower (s : State) : State :=
  s.onPower fun p => { p with
    cap := 0, esr := 0, gauged := false, vbank := 0, avail := 0, blind := true, gauge := .idle, gaugeReq := false, hottest := 0, tripRun := 0
    budget := 248, throttle := 100, forceWt := false, charging := false }

/-- Every descriptor of the Wick queue ends ABORTED, code 0x09; host completions are shown (R413, R442). An erase cut this way
starts again under its existing intent: its descriptor, which is not a host's to lose, is queued anew. -/
def State.restartWick (s : State) : State :=
  let hostTags := (s.wick.queue.filter fun d => d.who = .hostSw).map fun d => (d.tag, (0x09 : Byte))
  let s1 := s.onWick fun w => { w with
    autoSus := true, desc0 := 0, desc1 := 0, desc2 := 0, tag := 0, erase := none
    hostDone := w.hostDone ++ hostTags
    queue := match w.erase with
      | some e => [{ who := .back, tag := 0, w0 := BitVec.ofNat 32 (3 + 16 * e.sector), w1 := 0, w2 := 0, status := none }]
      | none => [] }
  if hostTags.isEmpty then s1 else s1.raise .wickDone

/-- The PLL that a detail names (R499). -/
def pllOf (n : Nat) : Pll := if n = 0 then .tick else if n = 1 then .fabric else if n = 2 then .nand else .pcie

/-- A PLL's record. -/
def ClockState.pll (c : ClockState) : Pll → PllState
  | .tick => c.pllTick | .fabric => c.pllFabric | .nand => c.pllNand | .pcie => c.pllPcie

/-- Write a PLL's record. -/
def ClockState.setPll (c : ClockState) (p : Pll) (x : PllState) : ClockState :=
  match p with
  | .tick => { c with pllTick := x } | .fabric => { c with pllFabric := x }
  | .nand => { c with pllNand := x } | .pcie => { c with pllPcie := x }

/-- What the RESTART of a unit does to its state (R442). -/
def State.restartEffect (s : State) (u : UnitId) (d : BitVec 56) : State :=
  match u with
  | .host => s.portReset
  | .link => s.linkResetIfSelected
  | .lamp => s.onLamp LampState.restart
  | .media => s.restartMedia
  | .back => s.restartBack
  | .wick => s.restartWick
  | .power => s.restartPower
  | .front => s.restartFront
  | .intake => s.restartIntake
  | .tun => s.modMemory 0 MemRec.restarted
  | .grist => s.modMemory 1 MemRec.restarted
  | .snuff => s
  | .clock =>
    let p := pllOf (detailBits d 0 2)
    (s.onClock fun c => c.setPll p ⟨false, false⟩).onFault fun f => { f with pllShad := some p }

/-- The RESET_CAUSE bit of a RESTART: 9 or 10 for a watchdog, otherwise 11 (R439, R376). -/
def restartBit (c : Cause) : Nat :=
  match c with
  | .frontWatchdog => 9
  | .backWatchdog => 10
  | _ => 11

/-- The units other than u with an open shadow that covers u, and that the shadow of u covers (R457). -/
def State.partners (s : State) (u : UnitId) : List UnitId :=
  allUnits.filter fun p => p != u && (s.unit p).shadow && (shadowRow p s.fault.pllShad).contains u && (shadowRow u s.fault.pllShad).contains p

/-- The shadow of u begins; with that of a unit that covers it in turn, the reports of either are consequential until both end (R446, R457;
DEDUCED, log 155). -/
def State.openShadow (s : State) (u : UnitId) : State :=
  let ps := s.partners u
  ps.foldl (fun t p => t.modUnit p fun r => { r with paired := true })
    (s.modUnit u fun r => { r with restart := true, shadow := true, paired := r.paired || !ps.isEmpty })

/-- RESTART of a unit: not started again while the unit is in a RESTART reset (R442); its shadow begins (R446). -/
def State.restart (s : State) (u : UnitId) (bit : Nat) (d : BitVec 56) : State :=
  if (s.unit u).restart then s else ((s.resetSource bit).openShadow u).restartEffect u d

/-- Carry out a level (R439). A SNUFF reaction of a unit ends as its SNUFF_END says (R450, R451). -/
def State.react (s : State) (u : UnitId) (level : Nat) (c : Cause) (d : BitVec 56) : State :=
  match level with
  | 0 => s
  | 1 => s.contain c d
  | 2 => s.restart u (restartBit c) d
  | _ => s.trigger 12 4 false (s.unit u).snuffEnd

/-! ### Reports (R437, R440, R443) -/


/-- The level acted on for a report: R440 with nothing latched, R443 with a fault latched; while FAULT_STATUS[31] is set
every report is acted on at SNUFF (R449). -/
def reportLevel (r : UnitFault) (self : Bool) (c : Cause) : Nat :=
  if self then 3
  else if r.latched then min 3 (max (max r.base (causeLevel c)) (r.lastLevel + 1))
  else max r.base (causeLevel c)

/-- The report that a unit holds, and those merged into it (R436). -/
def UnitFault.reports (r : UnitFault) : List Report := r.waiting.toList ++ r.merged

/-- The report is consequential: it arrived in a shadow that covers its unit, and its cause level is not SNUFF (R446). -/
def Report.echo (w : Report) : Bool := !w.inShadow.isEmpty && decide (causeLevel w.cause < 3)

/-- Of reports that are taken together, the first of the highest level: they count as one report at that level (R443), and its action is the
one carried out (DEDUCED, log 156). -/
def topReport (w : Report) (ws : List Report) : Report :=
  ws.foldl (fun a b => if causeLevel a.cause < causeLevel b.cause then b else a) w

/-- The record after n reports that are not consequential and are taken together (R437, R438): the syndrome is that of the first, w; top is the
cause of highest level among them. -/
def UnitFault.take (r : UnitFault) (level : Nat) (w : Report) (top : Cause) (n cyc : Nat) : UnitFault :=
  let up := decide (max r.base (causeLevel top) < level)
  if r.latched then
    { r with level := level, lastLevel := level, escalated := r.escalated || up, count := min 255 (r.count + n) }
  else
    { r with latched := true, level := level, cause := causeCode w.cause, detail := w.detail, lastLevel := level, escalated := up,
             count := min 255 (r.count + n), cycle := BitVec.ofNat 32 cyc }

/-- The record once its reports are taken, es the consequential ones (R446): a held cause is remembered for the end of each shadow in which it
arrived (R448). -/
def UnitFault.handOver (r : UnitFault) (es : List Report) : UnitFault :=
  { r with conseq := r.conseq || !es.isEmpty, shadowed := r.shadowed || !es.isEmpty, waiting := .none, merged := []
           heldShad := r.heldShad ++ (es.filter fun w => causeHeld w.cause).flatMap fun w => w.inShadow.map fun u => (u, w.cause) }

/-- The held causes of u that the shadow of r covered, and that hold still, are reported (R448). -/
def State.reportShadowed (s : State) (r u : UnitId) : State :=
  let x := s.unit u
  let due := (x.heldShad.filter fun h => h.1 = r).map Prod.snd
  let s1 := s.setUnit u { x with heldShad := x.heldShad.filter fun h => h.1 ≠ r }
  (x.held.filter fun h => due.contains h.1).foldl (fun t h => t.assertError h.1 h.2) s1

/-- Consequential reports that are taken after a shadow in which they arrived has ended: what the end of that shadow reports again is reported
now (R448). -/
def State.lateEchoes (s : State) (u : UnitId) (es : List Report) : State :=
  ((es.flatMap Report.inShadow).filter fun r => !(s.unit r).shadow).foldl (fun t r => t.reportShadowed r u) s

/-- The collector takes the report that unit u holds, with those merged into it (R436, R437, R446, R457). -/
def State.takeReport (s : State) (u : UnitId) : State :=
  let r := s.unit u
  let es := r.reports.filter Report.echo
  let x := r.handOver es
  match r.reports.filter fun w => !w.echo with
  | [] => if es.isEmpty then s else ((s.setUnit u x).raise .fault).lateEchoes u es
  | w :: ws =>
    let top := topReport w ws
    let level := reportLevel r s.fault.self top.cause
    let s1 := s.setUnit u (x.take level w top.cause (1 + ws.length) s.lamp.cycle)
    let s2 := if r.latched then s1 else s1.count32 (0x48 + unitIdx u) 1
    ((((s2.count32 (0x55 + level) 1).raise .fault).react u level top.cause top.detail).wtUpdate).lateEchoes u es

/-! ### Shadows and releases -/

/-- The shadow of a unit that has been released ends (R446). -/
def State.endShadow (s : State) (r : UnitId) : State :=
  if !(s.unit r).shadow || (s.unit r).restart then s
  else
    let s1 := s.modUnit r fun x => { x with shadow := false, paired := false }
    let s2 := if r = .clock then s1.onFault fun f => { f with pllShad := none } else s1
    allUnits.foldl (fun t u => t.reportShadowed r u) s2

/-- A unit is released from its RESTART reset (R442). A PLL must have locked or fallen back first; the port trains again; a core
takes the completions that waited for it (R164). -/
def State.releaseUnit (s : State) (u : UnitId) : State :=
  if !(s.unit u).restart then s
  else if u = .clock && (s.fault.pllShad.any fun p => !(s.clock.pll p).up) then s
  else
    let s1 := s.modUnit u fun r => { r with restart := false }
    let s2 := match u with
      | .host => s1.onHost fun h => { h with training := !h.perst }
      | .power => (s1.onPower fun p => { p with tCtrl := 0, tPwr := 0, tWick := 0 }).chargerUpdate
      | .link | .lamp | .intake | .media | .front | .back | .tun | .grist | .wick | .snuff | .clock => s1
    s2.takeAll.wtUpdate

/-! ### Acknowledgement (R455) -/

/-- A record acknowledged. -/
def UnitFault.acked (r : UnitFault) : UnitFault :=
  { r with latched := false, level := 0, cause := 0, detail := 0, lastLevel := 0, escalated := false, shadowed := false,
           count := 0, cycle := 0 }

/-- Acknowledge one unit: with a fault latched its held causes are reported again (R448); with nothing latched SHADOWED
alone is cleared. -/
def State.ackUnit (s : State) (u : UnitId) : State :=
  let r := s.unit u
  if r.latched then r.held.foldl (fun t h => t.assertError h.1 h.2) (s.setUnit u r.acked)
  else s.setUnit u { r with shadowed := false }

/-- The units that a mask names. -/
def unitsOf (m : BitVec 13) : List UnitId := allUnits.filter fun u => m.getLsbD (unitIdx u)

/-- FAULT_ACK.UNITS is refused whole if a unit it names is in a RESTART reset (R455). -/
def State.ackRefused (s : State) (m : BitVec 13) : Bool := (unitsOf m).any fun u => (s.unit u).restart

/-- FAULT_ACK.UNITS. -/
def State.ackUnits (s : State) (m : BitVec 13) : State := ((unitsOf m).foldl State.ackUnit s).wtUpdate

/-- The policies at their reset values (R440, R442). -/
def UnitFault.policyReset (r : UnitFault) (u : UnitId) : UnitFault :=
  { r with base := 0, snuffEnd := u = .tun || u = .power || u = .snuff || u = .clock }

/-- FAULT_ACK.SELF clears FAULT_STATUS[31], every latch, count and FAULT_CONSEQ bit, and returns the policies to their reset
values (R455). -/
def State.ackSelf (s : State) : State :=
  let s1 := allUnits.foldl (fun t u => t.modUnit u fun r => { r.acked.policyReset u with conseq := false }) s
  (s1.onFault fun f => { f with self := false, selfAddr := 0, selfCyc := 0, selfCnt := 0 }).wtUpdate

/-! ### The collector's own fault (R449) -/

/-- The two copies of a record are made equal: latches and flags take the OR, levels and counts the higher, the policies
their reset values. The register at addr shows what the other copy held. -/
def UnitFault.mend (r : UnitFault) (u : UnitId) (addr : Nat) (other : Word) : UnitFault :=
  let i := unitIdx u
  if addr = 0x30 then { r with latched := r.latched || other.getLsbD i }
  else if addr = 0x31 then { r with level := max r.level (other.toNat / 4 ^ i % 4) }
  else if addr = 0x33 then { r with conseq := r.conseq || other.getLsbD i }
  else if addr = 0x35 then r.policyReset u
  else r

/-- DUP_MISMATCH: FAULT_STATUS[31], the collector's own syndrome, a SNUFF reaction whose end is READ_ONLY, and the copies
made equal (R449). -/
def State.dupMismatch (s : State) (addr : Byte) (other : Word) (persists : Bool) : State :=
  let s1 := s.onFault fun f =>
    if f.self then { f with selfCnt := min 255 (f.selfCnt + 1), differs := persists }
    else { f with self := true, selfAddr := addr, selfCyc := BitVec.ofNat 32 s.lamp.cycle, selfCnt := 1,
                  differs := persists }
  let s2 := allUnits.foldl (fun t u => t.modUnit u fun r => r.mend u addr.toNat other) s1
  ((((s2.count32 0x59 1).count32 0x58 1).raise .fault).trigger 12 4 false false).wtUpdate

/-! ### What the collector shows -/

/-- FAULT_LEVEL.GOVERNING (R444). -/
def State.governing (s : State) : Nat :=
  allUnits.foldl (fun g u => if (s.unit u).latched then max g (s.unit u).level else g) 0

/-- FAULT# is driven low: before the fuse-map read (R466), and by a governing level of RESTART or SNUFF or by FAULT_STATUS[31]
(R454). -/
def State.faultLow (s : State) : Bool := !s.clock.fuseRead || decide (2 ≤ s.governing) || s.fault.self

/-- A fault acted on at SNUFF is latched (R452). -/
def State.snuffLatched (s : State) : Bool :=
  s.fault.self || allUnits.any fun u => (s.unit u).latched && decide ((s.unit u).level = 3)

/-! ### QUEUE_ECC of the Wick queue (R434) -/

/-- The entry failed its memory check: its descriptor completes ABORTED. An erase cut this way leaves its sector SUSPECT (R425). -/
def WickState.queueEcc (w : WickState) (i : Nat) : WickState :=
  match w.queue[i]? with
  | none => w
  | some d =>
    if !d.live then w
    else
      let cut := d.op == wopErase && w.erase.any fun e => e.sector == d.sector
      let own := (d.op == wopErase || d.op == wopRotate) && w.intent.any fun x => x.1 == d.sector
      { w with queue := w.queue.modify i fun x => { x with status := some 0x09 }
               erase := if cut then none else w.erase
               suspect := if cut then w.suspect ++ [d.sector] else w.suspect
               intent := if own then none else w.intent
               intentOn := w.intentOn && !own }

/-- What the unit that detects an error does at once, before its line is taken: QUEUE_ECC of WICK ends the descriptor (R434). -/
def State.ownReaction (s : State) (c : Cause) (d : BitVec 56) : State :=
  match c with
  | .wickQueueEcc => s.onWick fun w => w.queueEcc (detailBits d 0 8)
  | _ => s

/-! ### The commands -/

/-- ERROR_REPORT: a fresh report, if one is given, reaches the line, and the collector takes what the unit holds (R436,
R437). -/
def execErrorReport (u : UnitId) (fresh : Option (Cause × BitVec 56)) (s : State) : Host.Outcome State Fault Refusal :=
  match fresh with
  | none => .next (s.takeReport u)
  | some (c, d) => if causeUnit c = u then .next (((s.ownReaction c d).assertError c d).takeReport u) else .fault .illFormedCommand

/-- UNIT_RESTART_RELEASE (R442). -/
def execUnitRestartRelease (u : UnitId) (s : State) : Host.Outcome State Fault Refusal := .next (s.releaseUnit u)

/-- SHADOW_END (R446). -/
def execShadowEnd (u : UnitId) (s : State) : Host.Outcome State Fault Refusal := .next (s.endShadow u)

/-- DUP_MISMATCH (R449). -/
def execDupMismatch (addr : BitVec 8) (other : Word) (persists : Bool) (s : State) : Host.Outcome State Fault Refusal :=
  .next (s.dupMismatch addr other persists)

/-- A core runs: FRONT from its release, with the boot ROM; BACK from the release that follows the image's load (R472). -/
def State.coreRuns (s : State) (c : Core) : Bool :=
  match c with
  | .front => s.clock.mainOn && s.clock.filled && !s.stopped .front
  | .back => s.clock.mainOn && (s.clock.fwUp || s.clock.phase = .discovery) && !s.stopped .back

/-- WATCHDOG: a core that has not serviced its watchdog for 10 ms asserts its line, and the collector takes the report
(R441). A core that is held in reset services nothing and raises nothing. -/
def execWatchdog (c : Core) (s : State) : Host.Outcome State Fault Refusal :=
  let u := match c with
    | .front => UnitId.front
    | .back => UnitId.back
  let cause := match c with
    | .front => Cause.frontWatchdog
    | .back => Cause.backWatchdog
  if s.coreRuns c then .next ((s.assertError cause 0).takeReport u) else .next s

end Sys2Proof.Machine
end

