-- ==== Sys2Proof/Machine/TunCode.lean ====
section
/-! DEFINITION. The Reed–Solomon code of the Tun (R385): 64 data symbols and 8 check symbols over GF(2^8), and the correction of symbols
whose places are known. -/
namespace Sys2Proof.Machine
open Sys2Proof

/-! ### GF(2^8) with x^8 + x^4 + x^3 + x^2 + 1 -/

/-- The product of two field elements; the first argument counts the bits of b. -/
def gfMulBits : Nat → Byte → Byte → Byte
  | 0, _, _ => 0
  | n + 1, a, b => (if b.getLsbD 0 then a else 0) ^^^ gfMulBits n ((a <<< 1) ^^^ (if a.msb then 0x1D else 0)) (b >>> 1)

/-- The product of two field elements. -/
def gfMul (a b : Byte) : Byte := gfMulBits 8 a b

/-- A power of a field element. -/
def gfPow (a : Byte) : Nat → Byte
  | 0 => 1
  | n + 1 => gfMul a (gfPow a n)

/-- The inverse of a field element other than 0. -/
def gfInv (a : Byte) : Byte := gfPow a 254

/-- A polynomial, lowest coefficient first, at a point. -/
def gfEval (f : List Byte) (x : Byte) : Byte := f.foldr (fun c y => c ^^^ gfMul x y) 0

/-- The polynomial (x + r) f. -/
def gfTimes (f : List Byte) (r : Byte) : List Byte := List.zipWith (fun a b => a ^^^ gfMul r b) (0 :: f) (f ++ [0])

/-! ### Words of the Tun -/

/-- The locator of symbol j: its power of α in the code polynomial. The manual does not say from which end the symbols stand in it
(log 10). -/
def tunLocator (j : Nat) : Byte := gfPow 2 (if Config.tunOrder then 71 - j else j)

/-- The 72 symbols of a word: data bytes 0 to 63, then check bytes 0 to 7 (R385). -/
def tunSymbols (d : BitVec 512) (c : BitVec 64) : List Byte := leBytes 64 d.toNat ++ leBytes 8 c.toNat

/-- The syndrome of a root: the word's polynomial at α^i; all 8 are 0 for a word of the code. -/
def tunSyndrome (ys : List Byte) (i : Nat) : Byte :=
  (List.zip (List.range 72) ys).foldl (fun a e => a ^^^ gfMul e.2 (gfPow (tunLocator e.1) i)) 0

/-- The symbols at known places, at most 8, made to fit the others: the word of the code that agrees with ys elsewhere (R385). -/
def tunRepair (places : List Nat) (ys : List Byte) : List Byte :=
  let ss := (List.range 8).map (tunSyndrome ys)
  places.foldl (fun zs k =>
    let l := (places.filter fun i => i ≠ k).foldl (fun f i => gfTimes f (tunLocator i)) [1]
    let e := gfMul ((List.zip l ss).foldl (fun a x => a ^^^ gfMul x.1 x.2) 0) (gfInv (gfEval l (tunLocator k)))
    zs.modify k fun y => y ^^^ e) ys

/-- Data bits of 72 symbols. -/
def tunData (ys : List Byte) : BitVec 512 := BitVec.ofNat 512 (leNat (ys.take 64))

/-- Check bits of 72 symbols. -/
def tunCheckOf (ys : List Byte) : BitVec 64 := BitVec.ofNat 64 (leNat (ys.drop 64))

/-- The eight check bytes of a word's data (R385). -/
def tunCheck (d : BitVec 512) : BitVec 64 := tunCheckOf (tunRepair (List.range' 64 8) (tunSymbols d 0))

/-- The symbol of a word that lies in a macro: macro 72 (w mod 2) + j holds symbol j (R385). -/
def macroSymbol (w k : Nat) : Option Nat := if k / 72 = w % 2 ∧ k < 144 then some (k % 72) else none

end Sys2Proof.Machine
end

