-- ==== Sys2Proof/Machine/Memories.lean ====
section
/-! DEFINITION. The on-chip memories (R379 to R402): power states, the ECC log, scrubbing, retirement, the test mode. -/
namespace Sys2Proof.Machine
open Sys2Proof

/-! ### Organisation (R379) -/

/-- Words of a memory; 0 for a MEM_SEL value that names none. -/
def memWords (m : Nat) : Nat :=
  match m with
  | 0 => 1048576 | 1 => 2097152 | 2 => 131072 | 3 => 131072 | 4 => 16384
  | _ => 0

/-- Words of one access of the port: two of the Tun and of the smaller memories, eight of the Grist. -/
def memAccessWords (m : Nat) : Nat := if m = 1 then 8 else 2

/-- Words of a row. -/
def memRowWords (m : Nat) : Nat := if m = 4 then 16 else 64

/-- Rows of a SECDED memory, or the 144 macros of the Tun: what MEM_RETIRE.TARGET may name. -/
def memTargets (m : Nat) : Nat :=
  match m with
  | 0 => 144 | 1 => 32768 | 2 => 2048 | 3 => 2048 | 4 => 1024
  | _ => 0

/-- Spare rows, or the one macro that may be retired (R396). -/
def memSpares (m : Nat) : Nat :=
  match m with
  | 0 => 1 | 1 => 64 | 2 => 16 | 3 => 16 | 4 => 8
  | _ => 0

/-- The unit that owns a memory (R356). -/
def memUnit (m : Nat) : UnitId :=
  match m with
  | 0 => .tun | 1 => .grist | 2 => .front | 3 => .back
  | _ => .intake

/-! ### Power states (R389, R390) -/

/-- DOWNLOAD, or HALTED with MAIN_ON set. -/
def State.testable (s : State) : Bool := s.clock.dev = .download || (s.clock.dev = .halted && s.clock.mainOn)

/-- The Back core is held in reset: no image runs, or a RESTART. -/
def State.backHeld (s : State) : Bool := !s.clock.fwUp || (s.unit .back).restart

/-- The selected memory is quiesced for MEM_PWR.STATE, or for MEM_TEST_CTRL.EN (R390). -/
def State.memQuiet (s : State) (m : Nat) (power : Bool) : Bool :=
  s.testable && (m != 3 || s.backHeld) && (m != 2 || !power)

/-- MEM_PWR.NOW codes (R372). -/
def memPwrCode : MemPwr → Nat
  | .on => 0 | .retain => 1 | .off => 2

/-- A memory changes its power state: OFF loses the contents, and the way back fills (R389). -/
def MemRec.toPower (m : MemRec) (t : MemPwr) : MemRec :=
  match t with
  | .off => { m with req := .off, now := .off, cells := [], poison := [], fixed := [] }
  | .on => { m with req := .on, now := .on }
  | .retain => { m with req := .retain, now := .retain }

/-- MEM_PWR.STATE is written (R353, R372, R389, R390). RETAIN from OFF is no transition of R389 and is refused. -/
def State.writeMemPwr (s : State) (m : Nat) (v : BitVec 2) : Except Status State :=
  let t : Option MemPwr := if v = 0 then some .on else if v = 1 then some .retain else if v = 2 then some .off else none
  match t with
  | none => .error .werr
  | some t =>
    let x := s.memory m
    if x.req = t then .ok s
    else if !s.memQuiet m true || (x.now = .off && t = .retain) then .error .werr
    else .ok (s.modMemory m fun y => y.toPower t)

/-! ### Test mode (R373, R401) -/

/-- The word's data and check bits, raw. A word that no test wrote holds zero data after the fill; outside DOWNLOAD the
memory is in use and the word's content is not given (log 10). -/
def State.memRaw (s : State) (m w : Nat) : BitVec 512 × BitVec 64 :=
  let free := (Config.heldData m w s.draws, Config.heldCheck m w s.draws)
  let listed := (s.memory m).cells.any fun c => c.1 = w
  if !listed && s.clock.dev ≠ .download then free
  else
    match tget (MemCell.coded 0) (s.memory m).cells w with
    | .coded d => (d, if m = 0 then tunCheck d else (Config.secdedCheck (d.setWidth 64)).setWidth 64)
    | .raw d c => (d, c)

/-- Write one word whole: it is no longer poisoned nor a corrected word (R387, R393). -/
def State.memPut (s : State) (m w : Nat) (c : MemCell) : State :=
  s.modMemory m fun x => { x with
    cells := tset (MemCell.coded 0) x.cells w c, poison := x.poison.filter fun k => k ≠ w
    fixed := x.fixed.filter fun k => k ≠ w }

/-- The staging word's data in the width of the words of memory m. -/
def MemRec.stageData (x : MemRec) (m : Nat) : BitVec 512 := if m = 0 then x.stage else (x.stage.setWidth 64).setWidth 512

/-- The staging word's check bits in the width of the words of memory m. -/
def MemRec.stageCheck (x : MemRec) (m : Nat) : BitVec 64 :=
  if m = 0 then x.stageChk else (x.stageChk.setWidth 8).setWidth 64

/-- An OP can act on the selected memory's word: the memory is ON and the word exists. -/
def State.testOpOk (s : State) (m : Nat) : Bool :=
  (s.memory m).now = .on && decide ((s.memory m).addr.toNat < memWords m)

/-- OP 1: the word raw into the staging word, without decoding, logging or counting. -/
def State.testRead (s : State) (m : Nat) : State :=
  let r := s.memRaw m (s.memory m).addr.toNat
  { s.modMemory m fun x => { x with stage := r.1, stageChk := r.2, testDone := true } with draws := s.draws + 1 }

/-- OP 2: data and check bits exactly as staged. -/
def State.testWriteRaw (s : State) (m : Nat) : State :=
  let x := s.memory m
  (s.memPut m x.addr.toNat (.raw (x.stageData m) (x.stageCheck m))).modMemory m fun y => { y with testDone := true }

/-- OP 3: data as staged, check bits computed by the code. -/
def State.testWriteChecked (s : State) (m : Nat) : State :=
  let x := s.memory m
  (s.memPut m x.addr.toNat (.coded (x.stageData m))).modMemory m fun y => { y with testDone := true }

/-- Carry out MEM_TEST_CTRL.OP; 0 asks for nothing. -/
def State.testOp (s : State) (m : Nat) (op : Nat) : State :=
  match op with
  | 1 => s.testRead m
  | 2 => s.testWriteRaw m
  | 3 => s.testWriteChecked m
  | _ => s

/-- MEM_TEST_CTRL is written: EN, OP and LANE, each if the mask selects it; the OP acts under the EN that the write leaves
(R353, R373, R390, R401). -/
def State.writeTestCtrl (s : State) (m : Nat) (en : Option Bool) (op lane : Option Nat) : Except Status State :=
  let x := s.memory m
  let enNew := en.getD x.testEn
  let enBad := decide (enNew ≠ x.testEn) && !s.memQuiet m false
  let o := op.getD 0
  let opBad := decide (o ≠ 0) && (!enNew || !s.testOpOk m)
  let l := lane.getD x.lane
  let laneBad := decide (l ≠ x.lane) && decide ((if m = 0 then 15 else 1) < l)
  if enBad || opBad || laneBad then .error .werr
  else .ok ((s.modMemory m fun y => { y with testEn := enNew, lane := l }).testOp m o)

/-- MEM_TEST_DATA shows the data lane LANE of the staging word. -/
def MemRec.dataLane (x : MemRec) : Word := (x.stage >>> (32 * x.lane)).setWidth 32

/-- MEM_TEST_DATA is written: its lane changes. -/
def MemRec.setDataLane (x : MemRec) (v : Word) : MemRec :=
  let k := 32 * x.lane
  { x with stage := (x.stage &&& ~~~((0xFFFFFFFF#512) <<< k)) ||| (v.setWidth 512 <<< k) }

/-- The check lane in bits: LANE mod 2 for the Tun, else the one lane of 8 bits. -/
def MemRec.checkShift (x : MemRec) (m : Nat) : Nat := if m = 0 then 32 * (x.lane % 2) else 0

/-- MEM_TEST_CHECK. -/
def MemRec.checkLane (x : MemRec) (m : Nat) : Word :=
  let w : Word := (x.stageChk >>> x.checkShift m).setWidth 32
  if m = 0 then w else w &&& 0xFF

/-- MEM_TEST_CHECK is written. -/
def MemRec.setCheckLane (x : MemRec) (m : Nat) (v : Word) : MemRec :=
  let k := x.checkShift m
  if m = 0 then { x with stageChk := (x.stageChk &&& ~~~((0xFFFFFFFF#64) <<< k)) ||| (v.setWidth 64 <<< k) }
  else { x with stageChk := (v &&& 0xFF).setWidth 64 }

/-! ### Retirement (R395 to R398) -/

/-- The detail of a memory cause: an address or a row or a macro, the memory, the requester, SCRUB (R499). -/
def memDetail (a m : Nat) (h : Option EccHit) : BitVec 56 :=
  match h with
  | some h => detail [(24, a), (3, m), (4, if h.scrub then 15 else h.req.toNat), (1, if h.scrub then 1 else 0)]
  | none => detail [(24, a), (3, m)]

/-- NO_SPARE or MEM_NO_SPARE of the unit that owns a memory. -/
def noSpareCause (m : Nat) : Cause :=
  match m with
  | 1 => .gristNoSpare | 2 => .frontMemNoSpare | 3 => .backMemNoSpare
  | _ => .intakeMemNoSpare

/-- UNCORR or MEM_UNCORR of the unit that owns a memory. -/
def uncorrCause (m : Nat) : Cause :=
  match m with
  | 0 => .tunUncorr | 1 => .gristUncorr | 2 => .frontMemUncorr | 3 => .backMemUncorr
  | _ => .intakeMemUncorr

/-- Word 0x1D of the health log: retired macros, and retired rows of the other memories (R242, R398). -/
def State.memRetWord (s : State) : State :=
  let rows := sumBy (fun k => (s.memory k).retired.length) [1, 2, 3, 4]
  s.hset 0x1D (min (s.memory 0).retired.length 255 + 256 * min rows 16777215)

/-- A row's words are copied, corrected, to a spare row; a poisoned word stays poisoned (R397). -/
def MemRec.copyRow (x : MemRec) (m t : Nat) : MemRec :=
  let inRow := fun w => w / memRowWords m == t
  { x with
    cells := tmap (MemCell.coded 0) (fun w c =>
      match c with
      | .raw d k =>
        if inRow w && !x.poison.contains w then .coded ((Config.correct (d.setWidth 64) (k.setWidth 8)).setWidth 512) else c
      | .coded _ => c) x.cells
    fixed := x.fixed.filter fun w => !inRow w }

/-- A macro or a row is retired (R396, R397). -/
def State.retireOne (s : State) (m t : Nat) : State :=
  (s.modMemory m fun x =>
    let y := if m = 0 then x else x.copyRow m t
    { y with retired := x.retired ++ [t] }).memRetWord

/-- A hard macro or row: retired if the memory can, else reported (R396, R397). -/
def State.retireHard (s : State) (m t : Nat) (h : Option EccHit) : State :=
  if m = 0 ∧ (s.memory 0).retired.contains t then s
  else if (s.memory m).retired.length < memSpares m then s.retireOne m t
  else s.assertError (if m = 0 then .tunMacroHard else noSpareCause m) (memDetail t m h)

/-- MEM_RETIRE.TARGET is written (R373, R395, R397). -/
def State.writeMemRetire (s : State) (m t : Nat) : Except Status State :=
  let x := s.memory m
  if memTargets m ≤ t then .error .werr
  else if m = 0 ∧ x.retired.contains t then .ok s
  else if memSpares m ≤ x.retired.length then .error .werr
  else .ok (s.retireOne m t)

/-! ### The ECC log (R393, R394) -/

/-- The slot of an entry: that of its sequence, unless the entry there still waits and another does not; with all 64
waiting an uncorrectable entry takes the oldest correctable one, and a correctable one is dropped. -/
def eccSlot (log : Sparse EccEntry) (seq : Nat) (uncorr : Bool) : Option Nat :=
  let p := (seq - 1) % 64
  let at_ := fun i => tget EccEntry.none log i
  let oldest := fun (f : EccEntry → Bool) =>
    (List.range 64).foldl (fun (b : Option Nat) i =>
      if f (at_ i) then
        match b with
        | none => some i
        | some j => if (at_ i).seq < (at_ j).seq then some i else b
      else b) none
  if !(at_ p).waiting then some p
  else
    match oldest fun e => !e.waiting with
    | some i => some i
    | none => if uncorr then oldest fun e => !e.hit.uncorr else none

/-- An entry is added, or dropped (R394). -/
def State.eccLog (s : State) (h : EccHit) (recur : Bool) : State :=
  let seq := s.mem.seq + 1
  match eccSlot s.mem.log seq h.uncorr with
  | none => s
  | some i =>
    let e : EccEntry := { hit := h, recur := recur, waiting := true, seq := seq, lap := (s.memory h.mem.toNat).laps }
    s.onMem fun x => { x with log := tset EccEntry.none x.log i e, seq := seq }

/-- Count a hit in MEM_ECC_STAT and in health-log words 0x1A to 0x1C (R394). -/
def State.eccCount (s : State) (h : EccHit) : State :=
  let m := h.mem.toNat
  if h.uncorr then (s.modMemory m fun x => { x with uncorr := min (x.uncorr + 1) 255 }).count32 0x1C 1
  else (s.modMemory m fun x => { x with corr := min (x.corr + 1) 65535 }).count32 (if m = 0 then 0x1A else 0x1B) 1

/-- A Tun word corrected: the symbols in error, and that of a retired macro, which counts as erased (R385, R396). -/
def MemRec.tunCorrect (x : MemRec) (w : Nat) (places : List Byte) (d : BitVec 512) (c : BitVec 64) : MemCell :=
  let at_ := ((places.map BitVec.toNat ++ x.retired).filterMap (macroSymbol w)).eraseDups
  let ys := tunRepair at_ (tunSymbols d c)
  .raw (tunData ys) (tunCheckOf ys)

/-- A SECDED word corrected: the bit in error, a data bit from 0 to 63 or a check bit from 64 to 71, is inverted (R386). -/
def bitCorrect (places : List Byte) (d : BitVec 512) (c : BitVec 64) : MemCell :=
  let k := ((places.head?).getD 0).toNat
  if k < 64 then .raw (d ^^^ (1#512 <<< k)) c else .raw d (c ^^^ (1#64 <<< (k - 64)))

/-- The scrubber writes a corrected word back (R391). -/
def State.scrubBack (s : State) (m w : Nat) (places : List Byte) : State :=
  s.modMemory m fun x =>
    match tget (MemCell.coded 0) x.cells w with
    | .raw d c =>
      { x with cells := tset (MemCell.coded 0) x.cells w (if m = 0 then x.tunCorrect w places d c else bitCorrect places d c) }
    | .coded _ => x

/-- The scrubber has come to a word's access (R391). -/
def State.scrubTo (s : State) (h : EccHit) : State :=
  if h.scrub then s.modMemory h.mem.toNat fun x => { x with scrubAt := h.word.toNat / memAccessWords h.mem.toNat } else s

/-- An error found in a memory, by its scrubber or by a requester: it is counted and logged; a corrected word is written
back by the scrubber; an uncorrectable word is poisoned, and reported once until it is written (R387, R391, R393, R400). -/
def State.eccHit (s : State) (h : EccHit) : State :=
  let m := h.mem.toNat
  let w := h.word.toNat
  let x := s.memory m
  let s1 := ((s.scrubTo h).eccCount h).eccLog h (x.fixed.contains w)
  if h.uncorr then
    if x.poison.contains w then s1
    else (s1.modMemory m fun y => { y with poison := w :: y.poison }).assertError (uncorrCause m) (memDetail w m (some h))
  else
    let s2 := if h.scrub then s1.scrubBack m w h.places else s1
    s2.modMemory m fun y => { y with fixed := w :: y.fixed.filter fun k => k ≠ w }

/-- A memory can be read: the main domain runs and the memory is ON. -/
def State.memUp (s : State) (m : Nat) : Bool := s.clock.mainOn && (s.memory m).now = .on

/-- The hit names a word of a memory that can be read; the scrubber finds nothing while test mode holds it, or while its
unit is in a RESTART reset, and it reads in ascending order (R388, R391, R401). -/
def State.hitOk (s : State) (h : EccHit) : Bool :=
  let m := h.mem.toNat
  s.memUp m && decide (h.word.toNat < memWords m) && !(h.scrub && ((s.memory m).testEn || s.stopped (memUnit m) || decide (h.word.toNat / memAccessWords m < (s.memory m).scrubAt)))

/-- The scrubber of a memory completes a lap of a duration in ms (R372, R391). -/
def State.endLap (s : State) (m ms : Nat) : State :=
  if s.memUp m then s.modMemory m fun x => { x with lap := min ms 0xFFFFFF, laps := x.laps + 1, scrubAt := 0 } else s

/-- The oldest entry that waits. -/
def MemState.firstWaiting (x : MemState) : Option (Nat × EccEntry) :=
  (x.log.filter fun e => e.2.waiting).foldl (fun b e =>
    match b with
    | none => some e
    | some y => if e.2.seq < y.2.seq then some e else b) none

/-- A Tun macro is hard: the entry that names it has RECUR, or the log shows errors in it at 4 word addresses within one
lap (R395). -/
def MemState.macroHard (x : MemState) (e : EccEntry) (k : Byte) : Bool :=
  e.recur ||
  decide (4 ≤ (((x.log.filter fun y => y.2.hit.mem = 0 && !y.2.hit.uncorr && y.2.lap == e.lap && y.2.hit.places.contains k).map
    fun y => y.2.hit.word).eraseDups).length)

/-- The oldest waiting entry is examined against the hard-fault rules, and what is hard is retired (R395). -/
def State.examine (s : State) : State :=
  match s.mem.firstWaiting with
  | none => s
  | some (i, e) =>
    let m := e.hit.mem.toNat
    let s1 := s.onMem fun x => { x with log := tset EccEntry.none x.log i { e with waiting := false } }
    if m = 0 then
      if e.hit.uncorr then s1
      else (e.hit.places.filter fun k => k.toNat < 144 && s.mem.macroHard e k).foldl
        (fun t k => t.retireHard 0 k.toNat (some e.hit)) s1
    else if e.recur || e.hit.uncorr then s1.retireHard m (e.hit.word.toNat / memRowWords m) (some e.hit)
    else s1

/-- The word's place 2 of an ECC log entry (R393). -/
def EccEntry.placeWord (e : EccEntry) : Nat :=
  if e.hit.mem = 0 then leNat ((e.hit.places.take 4) ++ List.replicate (4 - min 4 e.hit.places.length) 0xFF)
  else if e.hit.uncorr then 0xFF else ((e.hit.places.head?).getD 0).toNat

/-- Symbols found in error, for the Tun (R393). -/
def EccEntry.symbols (e : EccEntry) : Nat := if e.hit.mem = 0 ∧ !e.hit.uncorr then min 4 e.hit.places.length else 0

/-- Four words of an ECC log entry (R393). -/
def EccEntry.words (e : EccEntry) : List Word :=
  if e.seq = 0 then [0, 0, 0, 0]
  else
    let b := fun (x : Bool) => if x then 1 else 0
    [BitVec.ofNat 32 (packBits [(3, e.hit.mem.toNat), (1, b e.hit.uncorr), (1, b e.recur), (1, b e.hit.scrub),
       (1, b e.waiting), (1, 0), (4, if e.hit.scrub then 15 else e.hit.req.toNat), (4, 0), (3, e.symbols)]),
     BitVec.ofNat 32 e.hit.word.toNat, BitVec.ofNat 32 e.placeWord, BitVec.ofNat 32 e.seq]

/-- The 256 words of the ECC log (R393). -/
def MemState.logWords (x : MemState) : List Word := (List.range 64).flatMap fun i => (tget EccEntry.none x.log i).words

/-! ### The commands -/

/-- SCRUB_ACCESS: a read of a memory finds nothing, or an error; a scrub lap may end with it (R391, R393). -/
def execScrubAccess (h : Option EccHit) (mem : BitVec 3) (lapMs : Option Nat) (s : State) :
    Host.Outcome State Fault Refusal :=
  let s1 := match h with
    | some h => if s.hitOk h then s.eccHit h else s
    | none => s
  match lapMs with
  | some ms => .next (s1.endLap mem.toNat ms)
  | none => .next s1

/-- ECC_ENTRY_EXAMINE (R395). -/
def execEccEntryExamine (s : State) : Host.Outcome State Fault Refusal :=
  if s.clock.mainOn then .next s.examine else .next s

/-- POISON_REBUILD: a poisoned Grist line or TCM structure is rebuilt; its words are written whole (R387). -/
def execPoisonRebuild (mem : BitVec 3) (word : BitVec 24) (s : State) : Host.Outcome State Fault Refusal :=
  let m := mem.toNat
  if s.memUp m && (m == 1 || m == 2 || m == 3) && (s.memory m).poison.contains word.toNat then
    .next (s.modMemory m fun x => { x with
      cells := tdel x.cells word.toNat, poison := x.poison.filter fun k => k ≠ word.toNat
      fixed := x.fixed.filter fun k => k ≠ word.toNat })
  else .next s

end Sys2Proof.Machine
end

