-- ==== Sys2Proof/Machine/Wick.lean ====
section
/-! DEFINITION. WICK: the descriptor queue (R409 to R416), erases under their intents (R133, R420), the parameter window
(R417, R418), sector retirement (R424), firmware slots (R427, R428), the OTP row (R430) and anchor pairs (R422, R423). -/
namespace Sys2Proof.Machine
open Sys2Proof

/-! ### Descriptors (R409, R412) -/

/-- Units of 32 bytes in a sector (R403, R404). -/
def sectorUnits (sector : Nat) : Nat := if sector < 16 then 8192 else 256

/-- A valid opcode and a range within one sector, or within the OTP row (R409, R412). -/
def WDesc.valid (d : WDesc) : Bool :=
  let o := d.op
  if o = wopReadMargin ∨ o = wopProgram then decide (d.first + d.count ≤ sectorUnits d.sector)
  else if o = wopOtp then decide (d.first + d.count ≤ 64)
  else o == wopErase || o == wopSuspend || o == wopResume || o == wopRotate

/-- The units of a descriptor. -/
def WDesc.units (d : WDesc) : List Nat := List.range' d.first d.count

/-- The plane a descriptor addresses: 0 L, 1 P, 2 the OTP row. -/
def WDesc.plane (d : WDesc) : Nat :=
  if d.op = wopOtp then 2 else if d.op = wopRotate then 1 else if d.sector < 16 then 0 else 1

/-- WICK_QCTRL.FREE (R374). -/
def WickState.free (w : WickState) : Nat := 16 - w.queue.length

/-- The large sector lies in the inactive slot; in DOWNLOAD in either (R412, R427). -/
def State.slotInactive (s : State) (sector : Nat) : Bool :=
  decide (sector < 16) && (s.clock.dev = .download || (if s.wick.slotB then decide (sector < 8) else decide (8 ≤ sector)))

/-- Host software has an ERASE of the sector in the queue. -/
def WickState.hostErase (w : WickState) (sector : Nat) : Bool :=
  w.queue.any fun d => d.who = .hostSw && d.live && d.op == wopErase && d.sector == sector

/-- A host descriptor is refused at the GO write (R412). -/
def State.hostWickRefused (s : State) (d : WDesc) : Bool :=
  let o := d.op
  s.clock.dev = .boot || s.clock.dev = .recover || !d.valid ||
  (if o = wopReadMargin then false
   else if o = wopProgram ∨ o = wopErase then !s.slotInactive d.sector
   else if o = wopSuspend ∨ o = wopResume then !s.wick.hostErase d.sector
   else if o = wopOtp then
     s.clock.dev ≠ .download || d.units.any fun u => u != 1 && !(decide (8 ≤ u) && decide (u ≤ 15))
   else true)

/-! ### Intents (R133, R411, R420) -/

/-- Intent kinds of R130. -/
def intentKind (sector op : Nat) : Nat := if op = wopRotate then 3 else if sector < 16 then 2 else 1

/-- The sector ahead of an area's pointer that is to be erased: the next one that is not retired, unless it is blank (R420). -/
def WickState.eraseAhead (w : WickState) (copyB : Bool) : Option Nat :=
  let p := if copyB then w.slotBp else w.slotA
  let q := w.skipRetired copyB 16 (((p / 128 + 1) * 128) % 2048)
  let l := areaSector copyB q
  if w.usedP.contains (w.phys l) ∧ l ≠ areaSector copyB p then some (16 + l) else none

/-- Append a core's descriptor. -/
def WickState.push (w : WickState) (who : WickFrom) (op sector : Nat) : WickState :=
  if w.free = 0 then w
  else { w with queue := w.queue ++
    [{ who := who, tag := 0, w0 := BitVec.ofNat 32 (op + 16 * sector), w1 := 0, w2 := 0, status := none }] }

/-- The precondition of a ROTATE: area A writes logical sector 23, and logical sectors 8, 24 and 40 are blank (R418); where logical
sector 8 is retired, the records go to free slots of other sectors (R424). -/
def WickState.rotateReady (w : WickState) : Bool :=
  areaSector false w.slotA == 23 && (w.retired.contains (w.phys 8) || !w.usedP.contains (w.phys 8)) &&
  !w.usedP.contains (w.phys 24) &&
  !w.usedP.contains (w.phys 40)

/-- A sector of the spare ring that is not blank yet: it is erased before it reaches logical 40 (R420). -/
def WickState.spareUsed (w : WickState) : Option Nat :=
  ((List.range' 40 8).find? fun l => w.usedP.contains (w.phys l) && !w.retired.contains (w.phys l)).map fun l => 16 + l

/-- Sectors whose erase is due: SUSPECT ones, those ahead of the areas' pointers, and the spares (R420, R425). -/
def WickState.eraseDue (w : WickState) : List Nat :=
  w.suspect.take 1 ++ (w.eraseAhead false).toList ++ (w.eraseAhead true).toList ++ w.spareUsed.toList

/-- The queue holds a descriptor of an opcode for a sector. -/
def WickState.has (w : WickState) (op sector : Nat) : Bool := w.queue.any fun d => d.live && d.op == op && d.sector == sector

/-- The sectors of a list ask for their erases. -/
def WickState.askErases (w : WickState) (xs : List Nat) : WickState :=
  xs.foldl (fun u x => if u.has wopErase x then u else u.push .back wopErase x) w

/-- A ROTATE falls due at the first moment at which its precondition holds after every 32nd anchor-sector erase, and when a record found
no free slot (R418, R419). -/
def WickState.rotateDue (w : WickState) : Bool :=
  w.rotateReady && (decide (32 ≤ w.erases) || !w.recsDue.isEmpty) && !w.has wopRotate 24

/-- WICK's own erases and ROTATEs are submitted. -/
def WickState.upkeep (w : WickState) : WickState :=
  let w1 := w.askErases w.eraseDue
  if w1.rotateDue then w1.push .back wopRotate 24 else w1

/-- A ROTATE whose precondition holds no more waits without its intent (R435). -/
def WickState.dropRotate (w : WickState) : WickState :=
  if (w.intent.any fun x => x.2 == 3) && !w.rotateReady then { w with intent := none, intentOn := false } else w

/-- The next ERASE or ROTATE of the queue names its sector as the intent, if none waits or runs; a ROTATE that waits for its precondition
is passed over (R133, R411, R435). -/
def WickState.arm (w : WickState) : WickState :=
  let u := w.dropRotate.upkeep
  if u.intent.isSome || u.erase.isSome then u
  else
    match u.queue.find? fun d => d.live && (d.op == wopErase || (d.op == wopRotate && u.rotateReady)) with
    | some d => { u with intent := some (d.sector, intentKind d.sector d.op), intentOn := false }
    | none => u

/-! ### Submission (R374, R412) -/

/-- WICK_SUBMIT with GO: the host's descriptor joins the queue, or the write is refused. -/
def State.submitWick (s : State) (tag : Byte) : Except Status State :=
  let d : WDesc := { who := .hostSw, tag := tag, w0 := s.wick.desc0, w1 := s.wick.desc1, w2 := s.wick.desc2, status := none }
  if s.wick.free = 0 ∨ s.hostWickRefused d then .error .werr
  else .ok (s.onWick fun w => ({ w with tag := tag, queue := w.queue ++ [d] } : WickState).arm)

/-- WICK_DONE.VALID written with 1: the oldest host completion is taken (R374). -/
def State.takeWickDone (s : State) : State := s.onWick fun w => { w with hostDone := w.hostDone.drop 1 }

/-! ### Starting (R405, R411, R414) -/

/-- WICK may start a pulse: the main domain runs, WICK is not in a RESTART reset, no flush has begun, and the brown-out
detector is not tripped (R408, R414). -/
def State.wickUp (s : State) : Bool :=
  s.clock.mainOn && !s.stopped .wick && s.snuff.trigger.isNone && !s.wick.tripped

/-- An erase runs or is suspended in the queue's descriptor d. -/
def WickState.isErasing (w : WickState) (d : WDesc) : Bool :=
  d.op == wopErase && w.erase.any fun e => e.sector == d.sector

/-- An erase is suspended. -/
def WErase.held (e : WErase) : Bool := e.hostSus || e.autoSus

/-- Descriptor e, ahead of d in the queue, keeps d from starting (R405, R411). A running erase is suspended for a core's record
program, and a suspended one lets any PROGRAM of another sector run (R416). A ROTATE that waits for its precondition keeps none (R435). -/
def WickState.blocks (w : WickState) (e d : WDesc) : Bool :=
  if !e.live || (d.who = .snuff && e.who ≠ .snuff) then false
  else if w.isErasing e then
    if d.op = wopReadMargin then (d.plane == e.plane) && !(w.erase.any WErase.held && d.sector != e.sector)
    else if d.op = wopProgram ∨ d.op = wopOtp then
      !((w.erase.any WErase.held || d.who ≠ .hostSw) && (d.op == wopOtp || d.sector != e.sector))
    else true
  else if e.op = wopErase && !w.intentOn then d.plane == e.plane || d.op == wopErase || d.op == wopRotate
  else if e.op = wopSuspend ∨ e.op = wopResume then false
  else if e.op = wopRotate && !w.rotateReady then false
  else true

/-- The first descriptor with an opcode that may start now, with its place in the queue. -/
def WickState.startable (w : WickState) (op : Nat) : List WDesc → List WDesc → Option (Nat × WDesc)
  | _, [] => none
  | before, d :: ds =>
    if d.live && d.op == op && !w.isErasing d && !(before.any fun e => w.blocks e d) &&
        !(w.queue.any fun x => x.who = .snuff && d.who ≠ .snuff && x.live) then some (before.length, d)
    else w.startable op (before ++ [d]) ds

/-- The descriptor of an opcode that starts now. -/
def State.wickNext (s : State) (op : Nat) : Option (Nat × WDesc) :=
  if s.wickUp then s.wick.startable op [] s.wick.queue else none

/-- The descriptor at a place ends with a status. -/
def WickState.endAt (w : WickState) (i : Nat) (st : Byte) : WickState :=
  { w with queue := w.queue.modify i fun d => { d with status := some st } }

/-! ### Status codes (R413) -/

/-- OK. -/
def wkOk : Byte := 0x00
/-- MARGIN_FAIL. -/
def wkMargin : Byte := 0x01
/-- NOT_BLANK. -/
def wkNotBlank : Byte := 0x02
/-- PROG_FAIL. -/
def wkProgFail : Byte := 0x03
/-- ERASE_FAIL. -/
def wkEraseFail : Byte := 0x04
/-- BUSY_SELF. -/
def wkBusySelf : Byte := 0x05
/-- BROWNOUT. -/
def wkBrownout : Byte := 0x06
/-- HOST_ERROR. -/
def wkHostError : Byte := 0x07
/-- IMAGE_BAD. -/
def wkImageBad : Byte := 0x08
/-- ABORTED. -/
def wkAborted : Byte := 0x09
/-- REFUSED. -/
def wkRefused : Byte := 0x0A

/-! ### Retirement (R424) -/

/-- A physical parameter sector is retired: SECTOR_RETIRED, and SECTOR_LIMIT with the fifth. -/
def State.retireSector (s : State) (k : Nat) : State :=
  if s.wick.retired.contains k then s
  else
    let s1 := (s.onWick fun w => { w with retired := w.retired ++ [k] }).assertError .wickSectorRetired (detail [(6, k)])
    if s1.wick.retired.length = 5 then s1.assertError .wickSectorLimit (detail [(8, 5)]) else s1

/-- A program in a physical parameter sector ended PROG_FAIL: the second since its erase retires it. -/
def State.progFail (s : State) (k : Nat) : State :=
  let n := tget 0 s.wick.progFails k + 1
  let s1 := s.onWick fun w => { w with progFails := tset 0 w.progFails k n }
  if 2 ≤ n then s1.retireSector k else s1

/-- A large sector failed: its slot is invalid until it is erased and programmed successfully (R434). -/
def State.largeFail (s : State) (sector : Nat) : State :=
  (s.onWick fun w => { w with badL := if w.badL.contains sector then w.badL else w.badL ++ [sector] }).assertError
    .wickLargeFail (detail [(4, sector)])

/-! ### PROGRAM and OTP_PROGRAM -/

/-- The version field of an image header that a program writes (R427). -/
def headerVersion (data : List Byte) : Word := BitVec.ofNat 32 (leNat ((data.drop 4).take 4))

/-- The bytes that a descriptor programs: 32 a unit. -/
def WDesc.data (d : WDesc) (src : List Byte) : List Byte := (src ++ List.replicate (32 * d.count) 0xFF).take (32 * d.count)

/-- Units of plane L take what is programmed. -/
def unitsPut (t : Sparse (List Byte)) (from_ : Nat) : List (List Byte) → Sparse (List Byte)
  | [] => t
  | u :: us => unitsPut (tset [] t from_ u) (from_ + 1) us

/-- PROGRAM of a large sector. -/
def WickState.programmedL (w : WickState) (d : WDesc) (data : List Byte) : WickState :=
  let w1 := { w with blankL := w.blankL.filter fun k => k ≠ d.sector
                     badL := if w.blankL.contains d.sector then w.badL.filter fun k => k ≠ d.sector else w.badL
                     lUnits := unitsPut w.lUnits (8192 * d.sector + d.first) (chunksOf 32 d.count (d.data data)) }
  if d.first = 0 ∧ d.sector = 0 then { w1 with hdrA := headerVersion data }
  else if d.first = 0 ∧ d.sector = 8 then { w1 with hdrB := headerVersion data }
  else w1

/-- A target unit holds what an earlier PROGRAM left: it is not blank (R404, R410). -/
def WickState.targetUsed (w : WickState) (d : WDesc) : Bool :=
  decide (d.sector < 16) && d.units.any fun u => (tget [] w.lUnits (8192 * d.sector + u)).any fun b => b != 0xFF

/-- What a PROGRAM does (R406, R410, R413): HOST_ERROR and NOT_BLANK program nothing. blank is the erase-verify of the units that no
PROGRAM has left with data. -/
def State.wickProgram (s : State) (i : Nat) (d : WDesc) (blank verified : Bool) (src : HostRead) : State :=
  if !d.valid then s.onWick fun w => w.endAt i wkRefused
  else
    match src with
    | .failed => s.onWick fun w => w.endAt i wkHostError
    | .ok data =>
      if !blank || s.wick.targetUsed d then s.onWick fun w => w.endAt i wkNotBlank
      else
        let large := decide (d.sector < 16)
        let s1 := if large then s.onWick fun w => w.programmedL d data
          else s.onWick fun w => w.useSector (w.phys (d.sector - 16))
        if verified then s1.onWick fun w => w.endAt i wkOk
        else
          let s2 := s1.onWick fun w => w.endAt i wkProgFail
          if large then s2.largeFail d.sector else s2.progFail (s2.wick.phys (d.sector - 16))

/-- Bytes of the OTP row take their values: unprogrammed bits read as 1 (R404). -/
def otpPut (t : Sparse Byte) (from_ : Nat) : List Byte → Sparse Byte
  | [] => t
  | b :: bs => otpPut (tset 0xFF t from_ b) (from_ + 1) bs

/-- What an OTP_PROGRAM does (R410, R413, R430): each unit is programmed once. A unit that does not verify keeps a content
that is not given, and reads as one (log 11). -/
def State.wickOtp (s : State) (i : Nat) (d : WDesc) (verified : Bool) (src : HostRead) : State :=
  if !d.valid then s.onWick fun w => w.endAt i wkRefused
  else
    match src with
    | .failed => s.onWick fun w => w.endAt i wkHostError
    | .ok data =>
      if d.units.any fun u => s.wick.otpDone.contains u then s.onWick fun w => w.endAt i wkNotBlank
      else
        s.onWick fun w =>
          ({ w with otp := otpPut w.otp (32 * d.first) (d.data data), otpDone := w.otpDone ++ d.units
                    otpBad := if verified then w.otpBad else w.otpBad ++ d.units } : WickState).endAt i
            (if verified then wkOk else wkProgFail)

/-! ### ERASE -/

/-- An ERASE that may start: its intent is in a programmed anchor pair (R133). With AUTO_SUSPEND 0, an erase of plane L is
refused BUSY_SELF while a core fetches from plane L (R415). -/
def State.wickErase (s : State) (i : Nat) (d : WDesc) (fetchOn : Bool) : State :=
  if !d.valid then s.onWick fun w => w.endAt i wkRefused
  else if d.sector < 16 ∧ !s.wick.autoSus ∧ fetchOn then
    s.onWick fun w => ({ w with intent := none, intentOn := false } : WickState).endAt i wkBusySelf
  else if 16 ≤ d.sector ∧ s.wick.retired.contains (s.wick.phys (d.sector - 16)) then
    s.onWick fun w => ({ w with intent := none, intentOn := false } : WickState).endAt i wkRefused
  else if s.wick.erase.isSome ∨ !(s.wick.intentOn && s.wick.intent.any fun x => x.1 == d.sector) then s
  else s.onWick fun w => { w with erase := some { sector := d.sector, hostSus := false, autoSus := false } }

/-- The running erase ends: its sector verified, or ERASE_FAIL (R406, R424). The next pair carries it as done (R133). -/
def State.endErase (s : State) (i : Nat) (d : WDesc) (ok : Bool) : State :=
  let k := s.wick.phys (d.sector - 16)
  let s1 := s.onWick fun w =>
    let w1 := ({ w with erase := none, intent := none, intentOn := false, doneSec := some d.sector
                        suspect := w.suspect.filter fun x => x ≠ d.sector } : WickState).endAt i
      (if ok then wkOk else wkEraseFail)
    if d.sector < 16 then
      ({ w1 with wearL := tset 0 w1.wearL d.sector (tget 0 w1.wearL d.sector + 1)
                 blankL := if ok then d.sector :: w1.blankL.filter fun x => x ≠ d.sector else w1.blankL
                 lUnits := w1.lUnits.filter fun x => x.1 / 8192 != d.sector } : WickState).countErase
    else
      let l := d.sector - 16
      (({ w1 with wearP := tset 0 w1.wearP k (tget 0 w1.wearP k + 1), progFails := tset 0 w1.progFails k 0
                  erases := if 8 ≤ l ∧ l < 40 then w1.erases + 1 else w1.erases
                  usedP := if ok then w1.usedP.filter fun x => x ≠ k else w1.usedP } : WickState).wipeSector k).countErase
  if ok then s1 else if d.sector < 16 then s1.largeFail d.sector else s1.retireSector k

/-! ### Firmware updates (R428) -/

/-- The descriptor wrote the last unit of an image header: unit 7 of a slot's first sector. -/
def WDesc.headerLast (d : WDesc) : Bool :=
  d.who = .hostSw && d.op == wopProgram && (d.sector == 0 || d.sector == 8) && d.units.contains 7

/-- The BOOT record that names the programmed slot as the trial slot (R428). -/
def WickState.trialRecord (w : WickState) (slotB : Bool) : WickState :=
  w.putBoot { active := !slotB, trial := true, starts := 3, verA := w.hdrA, verB := w.hdrB }

/-! ### Completion (R413) -/

/-- The completion of the descriptor at a place is posted: it leaves the queue, and a host's is shown in WICK_DONE. -/
def State.postWick (s : State) (i : Nat) (d : WDesc) (st : Byte) (slotsBlank : Bool) : State :=
  let s1 := s.onWick fun w =>
    ({ w with queue := w.queue.eraseIdx i
              slotsOk := if d.plane = 1 ∧ d.op ≠ wopReadMargin then slotsBlank else w.slotsOk
              hostDone := if d.who = .hostSw then w.hostDone ++ [(d.tag, st)] else w.hostDone } : WickState).arm
  if d.who = .hostSw then s1.raise .wickDone else s1

/-- The place of the first descriptor that has ended. -/
def endedAt : List WDesc → Nat → Option (Nat × WDesc × Byte)
  | [], _ => none
  | d :: ds, i =>
    match d.status with
    | some st => some (i, d, st)
    | none => endedAt ds (i + 1)

/-- The place of the erase in progress. -/
def erasingAt (w : WickState) : List WDesc → Nat → Option (Nat × WDesc)
  | [], _ => none
  | d :: ds, i => if d.live && w.isErasing d then some (i, d) else erasingAt w ds (i + 1)

/-- WICK_DESC_COMPLETE: the first descriptor that has ended is completed, an image header with its validation; else the
running erase ends and is completed. margin is the margin read of the image's units (R427). -/
def State.completeWick (s : State) (eraseOk margin slotsBlank : Bool) : State :=
  match endedAt s.wick.queue 0 with
  | some (i, d, st) =>
    if st = wkOk ∧ d.headerLast then
      if s.wick.imageValid (d.sector == 8) margin then (s.onWick fun w => w.trialRecord (d.sector == 8)).postWick i d wkOk slotsBlank
      else s.postWick i d wkImageBad slotsBlank
    else s.postWick i d st slotsBlank
  | none =>
    match s.wick.erase, erasingAt s.wick s.wick.queue 0 with
    | some e, some (i, d) =>
      if e.held || !s.wickUp then s
      else (s.endErase i d eraseOk).postWick i d (if eraseOk then wkOk else wkEraseFail) slotsBlank
    | _, _ => s

/-! ### Anchor pairs (R422, R423) -/

/-- The newest anchor that names a head: intact, and no intent-only one. -/
def State.headAnchor (s : State) : Option Anchor :=
  (s.wick.anchors.filter fun a => s.anchorOk a && a.headSeq != 0).foldl (fun b a =>
    match b with
    | none => some a
    | some x => if x.gen < a.gen then some a else b) none

/-- An anchor pair is due (R422): given says that the 2 s have passed, or the state has it from before. -/
def State.pairDue (s : State) (given : Bool) : Bool :=
  let aged := given || s.wick.pairAged
  match s.clock.dev with
  | .ready | .degraded =>
    (match s.journal.newestCp, s.headAnchor with
     | some c, some a => decide (a.headSeq < c)
     | some _, none => true
     | none, _ => false) && (aged || decide (377487360 < s.journal.sinceHead))
  | .readOnly | .halted | .download => aged && ((s.wick.intent.isSome && !s.wick.intentOn) || s.wick.doneSec.isSome)
  | .boot | .recover | .snuffed => false

/-- The pair that is due: in READY or DEGRADED it names the newest checkpoint; otherwise it repeats the head of the newest
pair, or is an intent-only pair (R422, R423). -/
def State.programPair (s : State) : State :=
  match s.clock.dev with
  | .ready | .degraded =>
    let head := s.journal.newestCp.getD 0
    (s.writePair (s.topGen + 1) false head none).onJournal fun j => { j with sinceHead := s.bytesAfter head }
  | _ =>
    match s.headAnchor with
    | some a => s.writePair (s.topGen + 1) false a.headSeq a.snuffLoc
    | none =>
      (s.writePair (s.topGen + 1) false 0 none).onWick fun w => { w with
        anchors := w.anchors.map fun a => if a.gen = s.topGen + 1 then { a with lastCask := 0 } else a }

/-- Copies that end PROG_FAIL are written again in the next free slot; the pair costs no further token (R424). -/
def State.failCopies (s : State) (copyB : Bool) : Nat → State
  | 0 => s
  | n + 1 =>
    let k := s.wick.phys (areaSector copyB (if copyB then s.wick.slotBp else s.wick.slotA))
    State.failCopies ((s.onWick fun w => w.useSlots copyB 1).progFail k) copyB n

/-! ### The commands -/

/-- WICK_READ_MARGIN (R410). -/
def execWickReadMargin (pass : Bool) (s : State) : Host.Outcome State Fault Refusal :=
  match s.wickNext wopReadMargin with
  | none => .next s
  | some (i, d) =>
    .next (s.onWick fun w => w.endAt i (if !d.valid then wkRefused else if pass then wkOk else wkMargin))

/-- HOST may read the source of a descriptor: a host's source lies in host memory (R312, R409). -/
def State.sourceOpen (s : State) (d : WDesc) : Bool := d.who ≠ .hostSw || (s.upstreamOpen && !s.stopped .host)

/-- WICK_PROGRAM (R410); one whose source HOST may not read now waits (R312). -/
def execWickProgram (blank verified : Bool) (src : HostRead) (s : State) : Host.Outcome State Fault Refusal :=
  match s.wickNext wopProgram with
  | none => .next s
  | some (i, d) => .next (if s.sourceOpen d then s.wickProgram i d blank verified src else s)

/-- WICK_ERASE (R410). -/
def execWickErase (fetchOn : Bool) (s : State) : Host.Outcome State Fault Refusal :=
  match s.wickNext wopErase with
  | none => .next s
  | some (i, d) => .next (s.wickErase i d fetchOn)

/-- The place of the first live descriptor of an opcode: ERASE_SUSPEND and ERASE_RESUME act as soon as they are submitted
(R411). -/
def liveAt (op : Nat) : List WDesc → Nat → Option (Nat × WDesc)
  | [], _ => none
  | d :: ds, i => if d.live && d.op == op then some (i, d) else liveAt op ds (i + 1)

/-- WICK_ERASE_SUSPEND: the erase that runs in the named sector is suspended; with none, REFUSED (R410, R416). -/
def execWickEraseSuspend (s : State) : Host.Outcome State Fault Refusal :=
  match s.wickUp, liveAt wopSuspend s.wick.queue 0 with
  | true, some (i, d) =>
    match s.wick.erase with
    | some e =>
      if e.sector = d.sector ∧ !e.held then
        .next (s.onWick fun w => ({ w with erase := some { e with hostSus := true } } : WickState).endAt i wkOk)
      else .next (s.onWick fun w => w.endAt i wkRefused)
    | none => .next (s.onWick fun w => w.endAt i wkRefused)
  | _, _ => .next s

/-- WICK_ERASE_RESUME: the suspended erase of the named sector is resumed; with none, REFUSED (R410, R416). -/
def execWickEraseResume (s : State) : Host.Outcome State Fault Refusal :=
  match s.wickUp, liveAt wopResume s.wick.queue 0 with
  | true, some (i, d) =>
    match s.wick.erase with
    | some e =>
      if e.sector = d.sector ∧ e.held then
        .next (s.onWick fun w =>
          ({ w with erase := some { e with hostSus := false, autoSus := false } } : WickState).endAt i wkOk)
      else .next (s.onWick fun w => w.endAt i wkRefused)
    | none => .next (s.onWick fun w => w.endAt i wkRefused)
  | _, _ => .next s

/-- OTP_PROGRAM (R410). -/
def execOtpProgram (verified : Bool) (src : HostRead) (s : State) : Host.Outcome State Fault Refusal :=
  match s.wickNext wopOtp with
  | none => .next s
  | some (i, d) => .next (if s.sourceOpen d then s.wickOtp i d verified src else s)

/-- A ROTATE's effect: the live records of logical sector 0 are copied, WBASE moves on by one, a WEAR record and the copies that waited are
written (R418, R419). The slot pointers stand one sector lower in their areas, and so do the sectors that WICK's own descriptors and the
SUSPECT list name. -/
def WickState.rotated (w : WickState) : WickState :=
  let w1 := w.rotateRecs
  let w2 := { w1 with wbase := (w1.wbase + 1) % 48, intent := none, intentOn := false, doneSec := some 23, erases := 0
                      slotA := (w1.slotA + 1920) % 2048, slotBp := (w1.slotBp + 1920) % 2048 }
  ({ w2 with suspect := w2.suspect.map (w2.resector w.wbase)
             queue := w2.queue.map fun d =>
               if d.who ≠ .hostSw ∧ d.op = wopErase then { d with w0 := BitVec.ofNat 32 (wopErase + 16 * w2.resector w.wbase d.sector) }
               else d } : WickState).putWear.putDue.zeroStale

/-- ROTATE: it runs with its intent in a programmed pair and its precondition true (R133, R418). -/
def execRotate (s : State) : Host.Outcome State Fault Refusal :=
  match s.wickNext wopRotate with
  | none => .next s
  | some (i, _) =>
    if s.wick.rotateReady && s.wick.intentOn && s.wick.intent.any fun x => x.2 == 3 then
      .next (s.onWick fun w => w.rotated.endAt i wkOk)
    else .next s

/-- WICK_DESC_COMPLETE (R413, R428). -/
def execWickDescComplete (eraseOk margin slotsBlank : Bool) (s : State) : Host.Outcome State Fault Refusal :=
  if s.clock.mainOn && !s.stopped .wick then .next (s.completeWick eraseOk margin slotsBlank) else .next s

/-- PLANE_ACCESS_SUSPEND: an access of a core meets an erase of its plane (R415). -/
def execPlaneAccessSuspend (sector : BitVec 6) (req : BitVec 4) (s : State) : Host.Outcome State Fault Refusal :=
  match s.wick.erase with
  | none => .next s
  | some e =>
    if !s.clock.mainOn then .next s
    else if e.sector = sector.toNat then
      .next (s.assertError .wickErasedAccess (detail [(4, req.toNat), (6, sector.toNat)]))
    else if (e.sector < 16 ∧ sector.toNat < 16 ∧ s.wick.autoSus) ∨ (16 ≤ e.sector ∧ 16 ≤ sector.toNat) then
      .next (s.onWick fun w => { w with erase := some { e with autoSus := true } })
    else .next s

/-- ERASE_AUTO_RESUME: an erase that WICK suspended resumes; one that host software suspended, or that a flush found, does
not (R414, R415, R416). -/
def execEraseAutoResume (s : State) : Host.Outcome State Fault Refusal :=
  match s.wick.erase with
  | none => .next s
  | some e =>
    if s.wickUp then .next (s.onWick fun w => { w with erase := some { e with autoSus := false } }) else .next s

/-- WICK_BROWNOUT: VWK falls below 1.70 V, or stands above it again. The pulse in progress ends; its descriptor completes
BROWNOUT where WICK still runs (R408). -/
def execWickBrownout (low : Bool) (s : State) : Host.Outcome State Fault Refusal :=
  if !low then .next (s.onWick fun w => { w with tripped := false })
  else
    let s1 := s.onWick fun w => { w with tripped := true }
    match s.wick.erase, erasingAt s.wick s.wick.queue 0 with
    | some e, some (i, _) =>
      if s.clock.mainOn && !e.held then
        .next (s1.onWick fun w => ({ w with erase := none, intent := none, intentOn := false, suspect := w.suspect ++ [e.sector] } : WickState).endAt i wkBrownout)
      else .next s1
    | _, _ => .next s1

/-- ANCHOR_TOKEN_ADD: one token each second, at most 16 (R132). -/
def execAnchorTokenAdd (s : State) : Host.Outcome State Fault Refusal :=
  if s.clock.mainOn then .next (s.onWick fun w => { w with tokens := min 16 (w.tokens + 1) }) else .next s

end Sys2Proof.Machine
end

