-- ==== Sys2Proof/Machine/Lamp.lean ====
section
/-! DEFINITION. The Lamplighter (R33 to R58): edges, ticks, markers, lock, the cycle plan and its windows; and what a marker
does to the other units (R63, R64, R67, R150, R210, R284). -/
namespace Sys2Proof.Machine
open Sys2Proof

/-! ### Positions and limits (R38, R40) -/

/-- J, the effective jitter window (R40). -/
def LampState.jitter (l : LampState) : Nat := min l.jitterWin (l.period / 8)

/-- A tick position lies in the acceptance window (R40). -/
def LampState.accepts (l : LampState) (pos : Nat) : Bool :=
  decide (l.period ≤ pos + l.jitter) && decide (pos ≤ l.period + l.jitter)

/-- The position at which the flywheel synthesises: min(P + J, 67,108,863) (R42). -/
def LampState.flyAt (l : LampState) : Nat := min (l.period + l.jitter) maxTick

/-- An interval within the limits of R38: 256 ticks at least, and 200 µs to 4 s in 10 ns periods. -/
def intervalOk (ticks clocks : Nat) : Bool :=
  decide (256 ≤ ticks) && decide (ticks ≤ maxTick) && decide (20000 ≤ clocks) && decide (clocks ≤ 400000000)

/-- The mean of intervals, rounded to the nearest tick, ties up (R41). -/
def meanRound (xs : List Nat) : Nat :=
  if xs.length = 0 then 0 else (2 * xs.foldl (· + ·) 0 + xs.length) / (2 * xs.length)

/-- Tail grace in ticks (R62). -/
def LampState.grace (l : LampState) : Nat := l.period * l.permil / 1000

/-- An external mode. -/
def extMode (m : BitVec 2) : Bool := m == 0 || m == 1

/-! ### The plan (R51 to R53) -/

/-- The reset window (R47). -/
def winNone : Window := { start := 0, len := 1, kind := 0 }

/-- A window of the plan in force. -/
def LampState.win (l : LampState) (w : Nat) : Window := tget winNone l.plan w

/-- Two windows share a tick position. -/
def winMeets (a b : Window) : Bool := decide (a.start < b.start + b.len) && decide (b.start < a.start + a.len)

/-- The check of a new plan (R52). -/
def planOk (p : Sparse Window) : Bool :=
  let used := p.filter fun x => x.2.kind ≠ 0
  used.all (fun x => decide (x.2.start + x.2.len ≤ 67108864)) &&
  used.all (fun x => used.all fun y => x.1 = y.1 || !winMeets x.2 y.2) &&
  p.all (fun x => decide (x.2.kind ≤ 7))

/-- The number of the window that covers a position. -/
def LampState.covering (l : LampState) (pos : Nat) : Option Nat :=
  (List.range 16).find? fun w =>
    let x := l.win w
    x.kind != 0 && decide (x.start ≤ pos) && decide (pos < x.start + x.len)

/-- Cycle c is sealed, or will not be (R126). -/
def State.sealSettled (s : State) (c : Nat) : Bool :=
  !s.running || decide (c < s.journal.firstSeal) || s.journal.lastSeal.any fun n => decide (c ≤ n)

/-- The cycle whose seal a SEAL window of the current cycle serves, the one before it, while that seal has not completed (R58): seals
run in order, so it is the newest cycle not yet sealed. -/
def State.served (s : State) : Option Nat :=
  let open_ := (match s.journal.sealing with
    | some x => [x.cycle]
    | none => []) ++ s.journal.ended
  match open_.getLast? with
  | some c => if s.sealSettled c then none else some c
  | none => none

/-- Background work of a window kind may be issued now (R53 to R55, R58, R442); over is one of the three overrides. -/
def State.backgroundOk (s : State) (kind : Nat) (beyond : Bool) : Bool :=
  beyond || (s.lamp.containSeal.isNone && s.lamp.sealExt.isNone &&
    match s.lamp.openWin with
    | none => true
    | some w => (s.lamp.win w).kind == kind)

/-! ### Class C values at a marker (R10, R36, R41, R49, R52) -/

/-- The mode that a marker brings into force, with the lock state that goes with it (R36, R42). -/
def LampState.takeMode (l : LampState) : LampState :=
  match l.modeP with
  | none => l
  | some m =>
    if extMode m then
      { l with mode := m, modeP := none, lock := .acquire, intervals := [], cycleSince := false, synthCount := 0
               tickSrc := if m = 0 then .phaseTick else .internal }
    else { l with mode := m, modeP := none, lock := .free, synthCount := 0, tickSrc := .internal }

/-- A pending PERIOD takes effect in INTERNAL mode and is discarded in an external one (R41). -/
def LampState.takePeriod (l : LampState) : LampState :=
  { l with period := if extMode l.mode then l.period else l.periodP.getD l.period, periodP := none }

/-- The other class C fields of LAMP, the plan apart. -/
def LampState.takeFields (l : LampState) : LampState :=
  { l with tickDiv := l.tickDivP.getD l.tickDiv, tickDivP := none, jitterWin := l.jitterWinP.getD l.jitterWin
           jitterWinP := none, markTrim := l.markTrimP.getD l.markTrim, markTrimP := none
           permil := l.permilP.getD l.permil, permilP := none }

/-- The number of the cycle that a marker opens: the pending number, else one more; recovery may ask for at least a number
(R47, R49, R50). -/
def LampState.nextCycle (l : LampState) : Nat :=
  max (l.cycleP.getD (l.cycle + 1)) (l.cycleFloor.getD 0)

/-- The new plan takes effect, or is discarded (R52). -/
def State.takePlan (s : State) : State :=
  match s.lamp.planP with
  | none => s
  | some p =>
    if planOk p then s.onLamp fun l => { l with plan := p, planP := none }
    else (s.onLamp fun l => { l with planP := none }).raise .planReject

/-- Class C fields outside LAMP: the streams' quotas and the refresh threshold (R184, R367). -/
def State.takeOthers (s : State) : State :=
  (s.mapStreams fun _ e => match e.quotaP with
    | some q => { e with quota := q, quotaP := none }
    | none => e).onClock fun c => { c with refreshPct := c.refreshP.getD c.refreshPct, refreshP := none }

/-- A quota that takes effect is a change of the stream in the cycle that the marker opens (R124). -/
def State.noteQuotas (s : State) (n : Nat) : State :=
  s.mapStreams fun _ e => match e.quotaP with
    | some q => if q = e.quota then e else e.note n .classChanged
    | none => e

/-! ### What the other units do at a marker -/

/-- SEAL_OVERRUN (R67): the seal of the cycle before the one that ended is not complete, or that of the cycle before it. -/
def State.overruns (s : State) : State :=
  let open_ := (match s.journal.sealing with
    | some x => [x.cycle]
    | none => []) ++ s.journal.ended.filter fun c => decide (s.journal.firstSeal ≤ c)
  match open_.reverse with
  | [] => s
  | [p] => s.assertError .lampSealOverrun (BitVec.ofNat 56 p)
  | p :: q :: _ => (s.assertError .lampSealOverrun (BitVec.ofNat 56 p)).assertError .lampSealOverrun (BitVec.ofNat 56 q)

/-- Peers that have not marked for WAIT cycles become missing (R150). -/
def State.checkPeers (s : State) : State :=
  s.peers.foldl (fun t p =>
    if !t.host.missing.getLsbD p && decide (t.link.wait ≤ t.lamp.cycle - 2 - t.mOf p) then
      (t.onHost fun h => { h with missing := h.missing ||| (1#6 <<< p) }).raise .setDegraded
    else t) s

/-- The windows at a marker: each open one ends, but a SEAL window whose seal is not done is extended, to the second marker
after it opened at the latest (R57, R58). -/
def State.cutWindows (s : State) : State :=
  let ext := match s.lamp.sealExt with
    | some (c, k) => if k + 1 < 2 && !s.sealSettled c then some (c, k + 1) else none
    | none =>
      match s.lamp.openWin with
      | some w => if (s.lamp.win w).kind = 1 then s.served.map fun c => (c, 1) else none
      | none => none
  s.onLamp fun l => { l with openWin := none, sealExt := ext }

/-- What the cycle that ends leaves in the journal's counts (R66, R122, R128). -/
def State.endCycle (s : State) (len clocks : Nat) : State :=
  if s.running then
    s.onJournal fun j => { j with
      ended := j.ended ++ [s.lamp.cycle], ticks := tset 0 j.ticks s.lamp.cycle len, cpClocks := j.cpClocks + clocks }
  else s

/-- Kinds of marker (R42). -/
inductive MarkKind where
  | real | synth | generated
  deriving DecidableEq, Repr

/-- LAMP's own part of a marker at a position: the cycle ends with a length and a duration, the next opens at position o
(R37, R45, R47). -/
def LampState.openCycle (l : LampState) (kind : MarkKind) (pos o clocks : Nat) : LampState :=
  let n := l.nextCycle
  { l with
    cycle := n, cycleP := none, cycleFloor := none
    stagedHi := if l.cycleP.isSome then none else l.stagedHi
    openPos := o, tickPos := o, strays := 0, edgeTaken := false, openedReal := kind = .real
    lastClocks := some clocks, lastTicks := pos - l.openPos, cycleSince := true
    synthCycles := if kind = .synth then l.synthCycles ++ [n] else l.synthCycles }

/-- The tick source returns to PHASE_TICK once edges have resumed (R39). -/
def LampState.resumeTicks (l : LampState) (edges : Bool) : LampState :=
  if l.tickSrc = .substitute ∧ edges then { l with tickSrc := .phaseTick } else l

/-- A marker at tick position pos that opens its cycle at o, with LAMP's lock logic already done: R64 first, then the end of
the cycle, the class C values, the new cycle, and what the other units do (R44 step 5). -/
def State.markerAt (s : State) (kind : MarkKind) (pos o : Nat) (m : MarkerIn) : State :=
  let s0 := s.forceCloses s.lamp.cycle
  let s1 := if s0.running then s0.overruns else s0
  let s2 := s1.cutWindows.endCycle (pos - s1.lamp.openPos) m.clocks
  let s3 := s2.onLamp fun l =>
    ((l.openCycle kind pos o m.clocks).resumeTicks m.edgesResumed).takeMode.takePeriod.takeFields
  let s4 := (s3.takePlan.noteQuotas s3.lamp.cycle).takeOthers
  let s5 := if s4.clock.mainOn then s4.checkPeers else s4
  if s5.running then s5.chooseModes.dryRun m.dry else s5

/-- LAMP works: VAUX POR is released and the unit is not in a RESTART reset. -/
def State.lampUp (s : State) : Bool := !s.clock.vauxPor && !s.stopped .lamp

/-! ### Real markers (R41, R42) -/

/-- The intervals after a real marker at a position. -/
def LampState.withInterval (l : LampState) (pos clocks : Nat) : List Nat :=
  if l.openedReal && l.openPos = 0 && intervalOk pos clocks then (pos :: l.intervals).take 8 else l.intervals

/-- The lock logic of a real marker (R42): in ACQUIRE it locks when the last two counted intervals differ by at most J. -/
def LampState.realMarker (l : LampState) (pos clocks : Nat) : LampState :=
  let l1 := { l with intervals := l.withInterval pos clocks, synthCount := 0 }
  match l.lock with
  | .acquire =>
    match l1.intervals with
    | a :: b :: _ =>
      if a ≤ b + l.jitter ∧ b ≤ a + l.jitter then
        { l1 with lock := .locked, period := meanRound [a, b] }
      else l1
    | _ => l1
  | .locked | .coast =>
    { l1 with lock := .locked, period := if l1.intervals = [] then l.period else meanRound l1.intervals }
  | .free => l1

/-! ### Synthesised markers (R42, R45, R46) -/

/-- The flywheel's marker: COAST, or after the eighth FREE in INTERNAL mode with PHASE_LOST. -/
def State.flywheel (s : State) (m : MarkerIn) : State :=
  let l := s.lamp
  let at_ := l.flyAt
  if l.synthCount + 1 = 8 then
    ((s.onLamp fun l => { l with lock := .free, mode := 2, synthCount := 0 }).raise .phaseLost).markerAt .synth at_ 0 m
  else
    (s.onLamp fun l => { l with lock := .coast, synthCount := l.synthCount + 1 }).markerAt .synth at_ (at_ - l.period) m

/-! ### The commands -/

/-- One more stray, saturating at 63 (R363). -/
def LampState.stray (l : LampState) : LampState := { l with strays := min 63 (l.strays + 1) }

/-- PHASE_OUT repeats the rising and the falling edge of a PHASE_IN pulse whenever the VAUX domain is powered, before the release of
VAUX POR too (R34, R466). -/
def State.repeatPhase (s : State) : State :=
  if s.vauxOn then s.onLamp fun l => { l with phaseOut := l.phaseOut + 2 } else s

/-- PHASE_IN_EDGE: re-driven on PHASE_OUT (R34); accepted, or counted as a stray (R38, R40, R42). A pulse with less than 20 ns of
high level, which the part may ignore or not (R33), counts as a marker edge here (DESIGN CHOICE, log 112). -/
def execPhaseInEdge (sinceNs pos : Nat) (s : State) : Host.Outcome State Fault Refusal :=
  let s1 := s.repeatPhase
  if s.clock.vauxPor || s.stopped .lamp then .next s1
  else
      .next (s1.onLamp fun l =>
        if sinceNs < 200000 ∨ l.edgeTaken then l.stray
        else
          match l.lock with
          | .free => l.stray
          | .acquire => { l with edgeTaken := true, tickPos := max l.tickPos pos }
          | .locked | .coast =>
            if l.accepts pos then { l with edgeTaken := true, tickPos := max l.tickPos pos } else l.stray)

/-- MARKER: the accepted edge takes its tick position after the trim delay (R44). -/
def execMarker (pos : Nat) (m : MarkerIn) (s : State) : Host.Outcome State Fault Refusal :=
  if s.lampUp && s.lamp.edgeTaken then
    .next ((s.onLamp fun l => l.realMarker pos m.clocks).markerAt .real pos 0 m)
  else .next s

/-- GENERATED_MARKER: in FREE the tick position reaches P (R42). -/
def execGeneratedMarker (m : MarkerIn) (s : State) : Host.Outcome State Fault Refusal :=
  if s.lampUp && s.lamp.lock = .free then .next (s.markerAt .generated s.lamp.period 0 m) else .next s

/-- ACQUIRE_SYNTH_MARKER: in ACQUIRE the tick position reaches P; the synthesised-marker count stands (R42). -/
def execAcquireSynthMarker (m : MarkerIn) (s : State) : Host.Outcome State Fault Refusal :=
  if s.lampUp && s.lamp.lock = .acquire && !s.lamp.edgeTaken then .next (s.markerAt .synth s.lamp.period 0 m)
  else .next s

/-- FLYWHEEL_SYNTH_MARKER: in LOCKED or COAST the tick position reaches P + J (R42, R45). -/
def execFlywheelSynthMarker (m : MarkerIn) (s : State) : Host.Outcome State Fault Refusal :=
  if s.lampUp && (s.lamp.lock = .locked || s.lamp.lock = .coast) && !s.lamp.edgeTaken then .next (s.flywheel m)
  else .next s

/-- TICK_LIMIT_MARKER: the tick position reaches 67,108,863 with no marker (R38). In LOCKED and COAST this happens only when
P + J exceeds it. -/
def execTickLimitMarker (m : MarkerIn) (s : State) : Host.Outcome State Fault Refusal :=
  if !s.lampUp || s.lamp.edgeTaken then .next s
  else
    match s.lamp.lock with
    | .free | .acquire => .next (s.markerAt .synth maxTick 0 m)
    | .locked | .coast => if maxTick < s.lamp.period + s.lamp.jitter then .next (s.flywheel m) else .next s

/-- The interval that substitute ticks use, as clock periods over ticks (R39). -/
def LampState.meanInterval (l : LampState) (edges span : Nat) : Nat × Nat :=
  if l.cycleSince && decide (0 < l.lastTicks) && l.lastClocks.any (fun c => decide (0 < c)) then
    (l.lastClocks.getD 100, l.lastTicks)
  else if 16 ≤ edges ∧ 0 < span then (span, edges - 1) else (100, 1)

/-- TICK_LOST: 2 ms without a PHASE_TICK edge; the silent span is credited and substitute ticks begin (R39). -/
def execTickLost (pos edges spanClocks : Nat) (s : State) : Host.Outcome State Fault Refusal :=
  if s.lampUp && s.lamp.tickSrc = .phaseTick then
    let i := s.lamp.meanInterval edges spanClocks
    .next ((s.onLamp fun l => { l with tickSrc := .substitute, subInterval := some i
                                       tickPos := pos + 200000 * i.2 / i.1 }).raise .tickLost)
  else .next s

/-- WINDOW_OPEN: the window that covers the position opens, unless a SEAL extension lasts (R57, R58). -/
def execWindowOpen (pos : Nat) (s : State) : Host.Outcome State Fault Refusal :=
  if !s.lampUp || s.lamp.sealExt.isSome || s.lamp.openWin.isSome then .next s
  else
    match s.lamp.covering pos with
    | some w => .next (s.onLamp fun l => { l with openWin := some w, tickPos := max l.tickPos pos })
    | none => .next s

/-- WINDOW_END: the open window reaches START + LENGTH; a SEAL window whose seal is not done is extended (R56, R58). -/
def execWindowEnd (pos : Nat) (s : State) : Host.Outcome State Fault Refusal :=
  match s.lampUp, s.lamp.openWin with
  | true, some w =>
    let x := s.lamp.win w
    if pos < x.start + x.len then .next s
    else
      let ext := if x.kind = 1 then s.served.map fun c => (c, 0) else none
      .next (s.onLamp fun l => { l with openWin := none, sealExt := ext, tickPos := max l.tickPos pos })
  | _, _ => .next s

/-- G ticks have passed at a position since the marker that opened the cycle at O (R62). -/
def LampState.graceOver (l : LampState) (pos : Nat) : Bool := decide (l.openPos + l.grace ≤ pos)

/-- TAIL_GRACE_EXPIRE: when G ticks have passed after the marker, the cycle before is force-closed for every stream (R62, R63). -/
def execTailGraceExpire (pos : Nat) (s : State) : Host.Outcome State Fault Refusal :=
  if s.clock.mainOn && s.lamp.graceOver pos then
    .next ((s.onLamp fun l => { l with tickPos := max l.tickPos pos }).forceCloses s.lamp.cycle)
  else .next s

/-- One tick of the source in force: the tick position adds 1 (R37), up to the position at which a marker is synthesised (R38). -/
def State.tick (s : State) : State :=
  if s.lampUp then s.onLamp fun l => { l with tickPos := min maxTick (l.tickPos + 1) } else s

/-- SEAL_START: the oldest ended cycle begins its seal once R66 holds. -/
def execSealStart (s : State) : Host.Outcome State Fault Refusal :=
  match s.nextSeal with
  | some n => if s.sealReady n then .next (s.beginSeal n) else .next s
  | none => .next s

/-- Pages of the records that the completion of a seal writes: the cask, and the checkpoint that is due with it (R125, R128). -/
def State.sealPages (s : State) (x : Seal) : Nat :=
  let c := s.composeCask x
  recordPages c.size + if s.checkpointDue c then recordPages s.snapshot.size else 0

/-- SEAL_COMPLETE: the LAST part is programmed in both copies (R125). The programs go at class 1, as the tokens allow (R186, R188), into a journal
band that is ready (R120). -/
def execSealComplete (s : State) : Host.Outcome State Fault Refusal :=
  match s.journal.sealing with
  | some x =>
    if !s.sealDone x then .next s
    else if s.checkpointDue (s.composeCask x) && !s.pagesDone x then .next (s.submitSealPages x)
    else if !s.canRecord (s.sealPages x) then .next (if s.roomFor (s.sealPages x) then s else s.spareJournal none)
    else .next (s.completeSeal x).healthCheck
  | none => .next s

end Sys2Proof.Machine
end

