-- ==== Sys2Proof/Machine/StreamCmds.lean ====
section
/-! DEFINITION. The commands of streams and intake: ST_CMD (R73, R81), aperture writes (R75 to R78), closes (R60), credits
(R84 to R87), trims (R90), mirror writes (R92, R93), write-through flushes (R109), crypto-erase (R102). -/
namespace Sys2Proof.Machine
open Sys2Proof

/-! ### ST_CMD (R73, R81) -/

/-- The stream commands. -/
inductive StOp where
  | open_ | end_ | resume | delete
  deriving DecidableEq, Repr

/-- The operation that an OP value names (R73). -/
def stOpOf (v : Nat) : Option StOp :=
  match v with
  | 1 => some .open_ | 2 => some .end_ | 3 => some .resume | 4 => some .delete
  | _ => none

/-- The command is allowed from the stream's state (R73). -/
def StOp.allowed (o : StOp) (e : Stream) : Bool :=
  match o, e.st with
  | .open_, .free => !e.delPend
  | .end_, .open | .end_, .faulted => true
  | .resume, .draining | .resume, .faulted => true
  | .resume, .closed => !e.delPend
  | .delete, .closed => !e.delPend
  | _, _ => false

/-- The epoch of stream i that a record states, or the one before it (R80). -/
def recordEpoch (i : Nat) (old : Nat) (r : JRec) : Nat :=
  match r.body with
  | .checkpoint x => (tget Stream.none x.streams i).epoch
  | .cask c | .note c =>
    match c.entries.find? fun e => e.stream = i with
    | some e => e.epoch
    | none => old
  | .bandLink _ => old

/-- The epoch of stream i, rebuilt from the newest checkpoint and the casks after it (R80). -/
def State.rebuiltEpoch (s : State) (i : Nat) : Nat := s.journal.recs.foldl (recordEpoch i) 0

/-- OPEN (R81): the epoch goes up by one, the frontiers are 0, the open cycle is the current one. The epoch of an entry that CONTAIN
hit is rebuilt first (R80). -/
def State.openStream (s : State) (i : Nat) : State :=
  ((s.forgetStream i).modStream i fun e =>
    ({ e with st := .open, replay := false, epoch := (if e.epochLost then s.rebuiltEpoch i else e.epoch) + 1, epochLost := false, accept := 0, durable := 0, trim := 0,
              front := 0, openCycle := s.lamp.cycle, fault := 0, lastBytes := 0, quotaSaid := [], poisonSaid := [],
              delCycle := none, late := [], closedAll := false, resumeDue := false, trimSealed := 0 } : Stream).cut.note s.lamp.cycle .opened).mirrorEvent i

/-- END (R81): an OPEN stream closes every cycle up to the current one; a FAULTED one has closed already (R65). -/
def State.endStream (s : State) (i : Nat) : State :=
  let s1 := if (s.stream i).st = .open then s.closeUpTo i else s
  (s1.noteChange i .ended).setSState i .draining

/-- A mirror entry (R92). -/
def Stream.mirrorBytes (e : Stream) (seq : Word) (st : SState) (replay : Bool) : List Byte :=
  let b := fun (x : Bool) (n : Nat) => if x then n else 0
  leBytes 8 e.accept ++ leBytes 4 seq.toNat ++ [BitVec.ofNat 8 (sstateCode st)] ++
  [BitVec.ofNat 8 (b replay 1 + b (e.fault.getLsbD 4) 2 + b (e.fault.getLsbD 0 || e.fault.getLsbD 1) 4 + b e.delPend 8)] ++
  leBytes 2 e.openCycle

/-- One mirror write of stream i is issued with a state and a REPLAY flag (R93). The first write of an entry carries sequence 0, and
each adds 1 afterwards: the manual does not say which value the first carries (DESIGN CHOICE, log 113). -/
def State.issueMirror (s : State) (i : Nat) (st : SState) (replay : Bool) : State :=
  let e := s.stream i
  let a := s.host.mirrorBase + 16 * BitVec.ofNat 64 i
  (s.issue (.mirror a (e.mirrorBytes e.mirrorSeq st replay))).modStream i fun e =>
    { e with mirrorSeq := e.mirrorSeq + 1, mirrorDue := false }

/-- The mirror of a stream is in use: MIRROR_EN is set and a base is set (R93). -/
def State.mirrored (s : State) (i : Nat) : Bool := (s.stream i).mirrorEn && s.host.mirrorBase != 0

/-- What a RESUME does once ST_ACCEPT equals the intake frontier (R59, R81): first one mirror write with state OPEN and REPLAY, then
REPLAY is set and the stream is OPEN; it keeps its open cycle from DRAINING, and takes the current one where it had none. Bytes 14 and
15 of that mirror write carry the open cycle from before the change: the manual does not say which (DESIGN CHOICE, log 114). -/
def State.resumeStream (s : State) (i : Nat) : State :=
  (if s.mirrored i then s.issueMirror i .open true else s).modStream i fun e =>
    ({ e with st := .open, replay := true, resumeDue := false, closedAll := false
              openCycle := if e.noOpen then s.lamp.cycle else e.openCycle } : Stream).note s.lamp.cycle .resumed

/-- A RESUME that waits is carried out once ST_ACCEPT of its stream equals the intake frontier (R81). Its mirror write comes first, and so
it waits while the port may issue none (R93, R312), and while INTAKE is in a RESTART reset (R442). -/
def State.carryResume (s : State) (i : Nat) : State :=
  let e := s.stream i
  if e.resumeDue && decide (e.accept = e.front) && s.running && !s.stopped .intake && (!s.mirrored i || s.upstreamOpen) then s.resumeStream i
  else s

/-- Every RESUME that waits and may be carried out. -/
def State.carryResumes (s : State) : State := s.intake.streams.foldl (fun t x => t.carryResume x.1) s

/-- A flush of the frontiers starts (R109): it programs every taken byte that no earlier flush covers. -/
def State.startFlush (s : State) (f : Sparse Nat) : State :=
  (s.onIntake fun t => { t with flushes := t.flushes ++ [f] }).flushProgram f

/-- RESUME of stream i (R81): carried out at once, or held until ST_ACCEPT equals the intake frontier; where ST_ACCEPT moves with
through notes, a flush starts for it (R109, R110). -/
def State.askResume (s : State) (i : Nat) : State :=
  let s1 := s.modStream i fun e => { e with resumeDue := true }
  let f := if s1.writeThrough then s1.openFrontiers else s1.intake.wtTail
  if (s1.stream i).accept = (s1.stream i).front then s1.carryResume i
  else if s1.acceptHeld i && f != (s1.intake.flushes.getLast?).getD [] then s1.startFlush f
  else s1

/-- The execution of the message that asked for a RESUME waits for it in write-through (R81). -/
def State.awaitResume (s : State) (i : Nat) : State :=
  if s.writeThrough && (s.stream i).resumeDue then s.onLink fun l => { l with paused := some { stream := i, addr := 0, step := 0, words := [] } } else s

/-- DELETE (R81): DELETE_PEND is set; the data is released when the delete is sealed. -/
def State.deleteStream (s : State) (i : Nat) : State :=
  (s.modStream i fun e => { e with delPend := true, delCycle := some s.lamp.cycle }).noteChange i .deleted

/-- ST_CMD.OP is written for stream i (R73): 0 does nothing; a command that is not allowed is refused. A FREE entry whose
epoch is lost is rebuilt before it opens (R80). -/
def State.stCommand (s : State) (i op : Nat) : Except Status State :=
  if op = 0 then .ok s
  else
    match stOpOf op with
    | none => .error .werr
    | some o =>
      if !s.running || !o.allowed (s.stream i) then .error .werr
      else
        match o with
        | .open_ => .ok (s.openStream i)
        | .end_ => .ok (s.endStream i)
        | .resume => .ok ((s.askResume i).awaitResume i)
        | .delete => .ok (s.deleteStream i)

/-! ### Trims (R90) -/

/-- The trim that a write of ST_TRIM_LO gives: the staged high word, or the current one, completes it. -/
def State.trimValue (s : State) (i : Nat) (v : Word) : Nat :=
  v.toNat + 4294967296 * (s.intake.trimHi.getD (BitVec.ofNat 32 ((s.stream i).trim / 4294967296))).toNat

/-- ST_TRIM_LO is written (R90, R367). The value in force changes nothing and is no cause of a refusal (R353). -/
def State.writeTrimLo (s : State) (i : Nat) (v : Word) : Except Status State :=
  let e := s.stream i
  let t := s.trimValue i v
  if t = e.trim then .ok (s.onIntake fun x => { x with trimHi := none })
  else if e.st = .free ∨ t < e.trim ∨ e.durable < t then .error .werr
  else
    let s1 := s.onIntake fun x => { x with trimHi := none }
    .ok ((s1.modStream i fun e => { e with trim := t }).noteChange i .trimmed)

/-! ### Crypto-erase (R102) -/

/-- Crypto-erase is refused unless DEV_STATE is READY and no stream is OPEN, DRAINING or FAULTED. -/
def State.eraseRefused (s : State) : Bool :=
  s.clock.dev ≠ .ready || s.intake.streams.any fun x => x.2.st = .open || x.2.st = .draining || x.2.st = .faulted

/-- An entry after crypto-erase: FREE with epoch 0; the next cask says so (R124). -/
def Stream.erased (e : Stream) (n : Nat) (due : Bool) : Stream :=
  { Stream.none with changed := [(n, 256)], mirrorSeq := e.mirrorSeq, mirrorDue := e.mirrorEn && due }

/-- Crypto-erase: a new key, a new generation in both KEY records, every stream FREE, the random region unmapped; the journal tail
states it (R122), so that no entry of an epoch from before it comes back. -/
def State.cryptoErase (s : State) : State :=
  let due := s.host.mirrorBase != 0
  let s1 := s.mapStreams fun _ e => if e.st = .free ∧ e.epoch = 0 then e else e.erased s.lamp.cycle due
  let s2 := s1.onPlace fun p => { p with pieces := [], runs := [], runPages := [], mapPages := [], pageJobs := [], moves := [], frames := [], cellCur := [],
                                         pagesDue := [] }
  let s3 := s2.onIntake fun t => { t with unacked := [], flushes := [], wtTail := [] }
  (s3.newKey (s.intake.keyGen + 1)).setTail

/-! ### Posted writes to BAR0 (R75, R77, R292) -/

/-- The runs of enabled bytes of a four-byte write, each with its offset, in ascending order. -/
def enabledRuns (off : Nat) : List (Byte × Bool) → List (Nat × List Byte)
  | [] => []
  | (b, en) :: rest =>
    match en, rest, enabledRuns (off + 1) rest with
    | false, _, rs => rs
    | true, (_, true) :: _, (_, bs) :: rs => (off, b :: bs) :: rs
    | true, _, rs => (off, [b]) :: rs

/-- What INTAKE examines of one request: its runs of enabled bytes where it is one doubleword, otherwise all of it. -/
def writeRuns (off : Nat) (data : List Byte) (be : BitVec 4) : List (Nat × List Byte) :=
  if data.length = 4 then enabledRuns off (data.zip [be.getLsbD 0, be.getLsbD 1, be.getLsbD 2, be.getLsbD 3])
  else [(off, data)]

/-- The port receives requests: the main domain runs, the link is up and HOST is not in a reset. -/
def State.portUp (s : State) : Bool := s.clock.mainOn && s.host.dlActive && !s.host.perst && !s.stopped .host

/-- A posted write consumes one header credit and a data credit for each 16 bytes (R85, R86). -/
def State.consume (s : State) (bytes : Nat) : State :=
  s.onIntake fun t => { t with credits := t.credits - (bytes + 15) / 16, hdrCredits := t.hdrCredits - 1 }

/-- The request reaches INTAKE: it does not cross a 4 KiB block and its payload is within the Max Payload Size, as PCI Express demands
(R75, R290, R292). -/
def oneBlock (mps off len : Nat) : Bool :=
  decide (0 < len) && decide (len ≤ mps) && decide (off / 4096 = (off + len - 1) / 4096)

/-- APERTURE_WRITE (R75 to R78): a write that an uncorrectable word of the receive buffer held is not accepted (R84, R317). -/
def execApertureWrite (off : BitVec 32) (data : List Byte) (be : BitVec 4) (ep eccBad : Bool) (s : State) :
    Host.Outcome State Fault Refusal :=
  let o := off.toNat
  if !s.portUp || !oneBlock s.host.mps o data.length then .next s
  else
    let s1 := s.consume data.length
    if eccBad then .next (s1.assertError .hostRxEcc (detail [(10, o / 4194304)]))
    else
      .next ((writeRuns o data be).foldl (fun t r => t.streamWrite (o / 4194304) (r.1 % 4194304) r.2 t.host.mse ep) s1)

/-- CLOSE_DOORBELL (R60): an 8-byte write to a stream's close doorbell. -/
def execCloseDoorbell (stream : BitVec 10) (c : BitVec 64) (s : State) : Host.Outcome State Fault Refusal :=
  if s.portUp && s.host.mse && !s.host.d3hot then .next ((s.consume 8).closeDoorbell stream.toNat c.toNat) else .next s

/-! ### Credits (R85 to R87, R201, R238, R276) -/

/-- 56 MiB, the bound of R86. -/
def pendBound : Nat := 58720256

/-- Pieces shorter than 4,096 bytes that the Tun holds (R276). -/
def State.partialPieces (s : State) : Nat :=
  (s.place.pieces.filter fun p => p.inTun && p.unit.isNone && decide (p.data.length < 4096)).length

/-- What withholds every step and reservation in READY and DEGRADED (R201, R238, R276). -/
def State.withheld (s : State) : Bool :=
  s.running && (s.noSpace || !(s.place.snuff.any fun b => b.2) || decide (3670016 < s.tailBytes))

/-- 4,096 partial pieces withhold the credit steps, and no reservation (R276). -/
def State.partialsFull (s : State) : Bool := s.running && decide (4096 ≤ s.partialPieces)

/-- A step of b data bytes may be admitted: INTAKE runs, no flush has begun, the bound holds after it, and outside
write-through the energy gate admits it (R86, R105, R109, R273). -/
def State.stepOk (s : State) (b : Nat) (gated : Bool) : Bool :=
  s.clock.mainOn && !s.stopped .intake && s.snuff.trigger.isNone && decide (s.bPend + b ≤ pendBound) &&
  (!gated || s.writeThrough || s.gate b 0) && !s.withheld && !s.partialsFull

/-- The initial advertisement: 64 header and 2,048 data credits (R86, R87); in BOOT and RECOVER under the 56 MiB bound alone
(R295). -/
def State.advertise (s : State) : State :=
  let early := s.clock.dev = .boot || s.clock.dev = .recover
  if s.stepOk 32768 (!early) then
    s.onIntake fun t => { t with credits := t.credits + 2048, hdrCredits := t.hdrCredits + 64, advertised := true }
  else s

/-- The space attentions follow the limits while the magazine is in service (R201). -/
def State.watchSpace (s : State) : State := if s.running then s.spaceCheck else s

/-- CREDIT_GRANT: the initial advertisement of a training port, or one step of 32 data credits and one header credit (R86). -/
def execCreditGrant (s : State) : Host.Outcome State Fault Refusal :=
  if s.host.perst || s.stopped .host then .next s
  else if !s.intake.advertised then if s.host.training then .next s.advertise else .next s
  else if s.intake.credits + 32 ≤ 4032 ∧ s.stepOk 512 true = true then
    .next (s.onIntake fun t => { t with credits := t.credits + 32, hdrCredits := t.hdrCredits + 1 }).watchSpace
  else .next s.watchSpace

/-- ENERGY_SHORTFALL_TIMEOUT (R107): write-through is entered. -/
def execEnergyShortfallTimeout (s : State) : Host.Outcome State Fault Refusal :=
  if s.running && s.power.vin && s.shortfall then
    .next (s.onIntake fun t => { t with wtEnergy := true }).wtUpdate
  else .next s

/-! ### Write-through flushes (R109) -/

/-- The frontiers that the newest flush covers. -/
def IntakeState.lastFlush (t : IntakeState) : Sparse Nat := (t.flushes.getLast?).getD []

/-- WT_FLUSH_START: a flush of every taken byte that no earlier flush covers; after write-through, of what is still owed. -/
def execWtFlushStart (s : State) : Host.Outcome State Fault Refusal :=
  let f := if s.writeThrough then s.openFrontiers else s.intake.wtTail
  if s.running && s.snuff.trigger.isNone && f ≠ [] && f ≠ s.intake.lastFlush then .next (s.startFlush f) else .next s

/-- The map deltas up to an entry sequence are noted: the host writes that wait for them may complete (R109, R307). -/
def State.noteDeltas (s : State) (n : Nat) : State :=
  s.onHost fun h => { h with active := h.active.map fun d => { d with awaits := d.awaits.filter fun k => n < k } }

/-- Pages of the notes of a flush (R127). -/
def State.notePages (s : State) (f : Sparse Nat) : Nat := sumBy (fun c => recordPages (s.noteCask f c).size) (s.flushCycles f)

end Sys2Proof.Machine
end

