-- ==== Sys2Proof/Machine/Background.lean ====
section
/-! DEFINITION. Placement's commands and the background work: anchor pairs (R422), moves of the Kiln, the Sparge and refresh
(R216, R227, R230, R231), rebuilds (R193), releases (R232), run pages (R208), the Grist and the Cellar (R221 to R226), and
the snuff bands (R238). -/
namespace Sys2Proof.Machine
open Sys2Proof

/-! ### Moves (R231) -/

/-- The Back core works: the main domain runs in READY or DEGRADED, no flush has begun, BACK and MEDIA are not in a RESTART
reset. -/
def State.backUp (s : State) : Bool :=
  s.running && s.clock.mainOn && s.snuff.trigger.isNone && !s.stopped .back && !s.stopped .media

/-- A move that has passed its copy covers a piece: a source is in at most one move (R235). -/
def State.inMove (s : State) (p : Piece) : Bool :=
  s.place.moves.any fun m =>
    match p.unit with
    | some u => m.stream == randKey && m.off == u && m.len == p.seq
    | none => m.stream == p.stream && decide (m.off ≤ p.off) && decide (p.off + p.data.length ≤ m.off + m.len)

/-- A piece that a move may copy: on flash, released by the Tun, valid, in no other move. -/
def State.movable (s : State) (p : Piece) : Bool := p.done && !p.inTun && !s.invalid p && !s.inMove p

/-- The pool that a piece lies in. -/
def State.poolOf (s : State) (p : Piece) : Option Pool := p.loc.map fun l => (s.band l.band).pool

/-- Stream by stream in offset order, then random units in unit order (R216, R227). -/
def moveBefore (a b : Piece) : Bool :=
  match a.unit, b.unit with
  | none, some _ => true
  | some _, none => false
  | some u, some v => decide (u ≤ v)
  | none, none => decide (a.stream < b.stream) || (decide (a.stream = b.stream) && decide (a.off ≤ b.off))

/-- The valid pieces that a refresh of a listed block still has to move. -/
def State.refreshBatch (s : State) (x : Refresh) : List Piece := sortBy moveBefore ((s.listedPieces x).filter s.movable)

/-- The moves of pieces copied to consecutive codewords from l, oldest last: a piece that continues the run of the one before
it joins its move (R207). -/
def movesOf (kind : Nat) : List Piece → Loc → List Move → List Move
  | [], _, acc => acc
  | p :: ps, l, acc =>
    let stream := match p.unit with
      | some _ => randKey
      | none => p.stream
    let off := p.unit.getD p.off
    let len := match p.unit with
      | some _ => p.seq
      | none => p.data.length
    let fresh : Move := { kind := kind, stream := stream, off := off, len := len, dest := l, checked := false, noted := false }
    match acc with
    | m :: ms =>
      if p.unit = none ∧ m.stream = stream ∧ stream ≠ randKey ∧ m.off + m.len = off ∧ off % 4096 = 0 then
        movesOf kind ps (l.plus 1) ({ m with len := m.len + len } :: ms)
      else movesOf kind ps (l.plus 1) (fresh :: m :: ms)
    | [] => movesOf kind ps (l.plus 1) [fresh]

/-- Step 2 of R231 for a batch: the programs of its codewords into a group, whose last unit is completed with pad codewords, are submitted
in a class. -/
def State.copyBatch (s : State) (kind : Nat) (role : GroupRole) (cls : BitVec 3) (batch : List Piece) : State :=
  if batch.isEmpty then s
  else
    match s.allocate role batch.length with
    | none => s
    | some (t, g, l, us) =>
      ((t.launch g us cls).padGroup role cls).onPlace fun p => { p with moves := p.moves ++ (movesOf kind batch l []).reverse }

/-- The source codewords of a batch that step 1 of R231 does not read: the places in the batch whose reads end without their data. -/
def State.lostPlaces (s : State) (cls : BitVec 3) (batch : List Piece) (m : MoveIn) : List Nat :=
  (m.reads.filter fun r =>
    match batch[r.1]?.bind Piece.place with
    | some l => (s.readCodeword cls 0 l r.2).any fun x => !goodRead x.1.status
    | none => false).map Prod.fst

/-- Step 1 of R231: MEDIA reads the source codewords through the read ladder, with all that the ends of the reads do (R169, R182 to R184,
R190, R194). -/
def State.readSources (s : State) (cls : BitVec 3) (batch : List Piece) (m : MoveIn) : State :=
  m.reads.foldl (fun t r =>
    match (batch[r.1]?.bind Piece.place).bind fun l => t.readCodeword cls 0 l r.2 with
    | some x => x.2
    | none => t) s

/-- The source codewords of a batch may be read (R186). -/
def State.mayRead (s : State) (cls : BitVec 3) (batch : List Piece) : Bool := s.canRead cls (batch.filterMap Piece.place)

/-- The pieces of a batch whose places are in a list, or are not. -/
def pick (inList : Bool) (places : List Nat) (batch : List Piece) : List Piece :=
  (batch.zipIdx.filter fun x => places.contains x.2 == inList).map Prod.fst

/-! ### Verification (R231 step 3, R236) -/

/-- The moves whose targets are programmed and wait to be verified. -/
def State.toVerify (s : State) : List Move := s.place.moves.filter fun m => !m.checked && s.moveReady m

/-- Target codewords of moves, in order. -/
def targets (ms : List Move) : List (Move × Loc) := ms.flatMap fun m => (List.range m.codewords).map fun k => (m, m.dest.plus k)

/-- The read of a target codeword verifies it: it ends OK, with a matching header and a corrected count at or below the refresh threshold
(R184, R231). -/
def State.verifies (s : State) (l : Loc) (r : ReadIn) : Bool :=
  (s.readCodeword 6 2 l r).all fun x => decide (x.1.status = .ok) && decide (x.1.corr ≤ s.refreshLimit)

/-- A target codeword failed its verify: its unit is XORed out of the row's accumulator, the band drops the member, and what its block held is
relocated by a move of the same kind; the block is retired only where R190 requires it (R178, R236). -/
def State.verifyFailed (s : State) (l : Loc) : State :=
  match s.unitAt l with
  | none => s
  | some u =>
    (((s.unaccUnit (s.unitOp 0x02 6 u) u.2.2).relocate u.2.1 u.2.2).dropMember u.2.1 u.2.2).closeFull u.2.1 6

/-- Step 3 of R231: every target codeword is read with ladder limit 2. A move all of whose codewords are verified may enter a tail; of one that
has a codeword that is not, nothing enters it: the source stays mapped, and the move is done again (R236). -/
def State.verifyMoves (s : State) (m : MoveIn) : State :=
  let ts := targets s.toVerify
  if !s.canRead 6 (ts.map Prod.snd) then s
  else
    let bad := (m.verify.filterMap fun v => ts[v.1]?.map fun t => (t, v.2)).filter fun x => !s.verifies x.1.2 x.2
    let s1 := bad.foldl (fun t x => t.verifyFailed x.1.2) s
    let failed := bad.map fun x => x.1.1
    let passed := s.toVerify.filter fun x => !failed.contains x
    s1.onPlace fun p => { p with
      moves := (p.moves.filter fun x => !failed.contains x).map fun x => { x with checked := x.checked || passed.contains x } }

/-- The codewords of pieces that a move found UNCORRECTABLE are noted with their bands (R237). -/
def State.stickBands (s : State) (ps : List Piece) : State :=
  ps.foldl (fun t p =>
    match p.loc with
    | some l =>
      match t.unitAt l with
      | some (_, b, _) => t.modBand b fun x => { x with stuck := addOnce l x.stuck }
      | none => t
    | none => t) s

/-- A valid piece of band b is one that a move found UNCORRECTABLE (R237). -/
def State.bandStuck (s : State) (b : Nat) : Bool :=
  (s.validIn b).any fun p => p.loc.any fun l => (s.band b).stuck.contains l

/-- A batch is read, the codewords found UNCORRECTABLE stay mapped and are noted, and the rest is copied by f (R231 steps 1 and 2, R237). -/
def State.moveBatch (s : State) (cls : BitVec 3) (batch : List Piece) (m : MoveIn) (f : State → List Piece → State) : State :=
  let lost := s.lostPlaces cls batch m
  f ((s.readSources cls batch m).stickBands (pick true lost batch)) (pick false lost batch)

/-- The kind and the group of the moves of a rewritten piece (R230, R236): staged data is folded through the Kiln, which moves random units to
the random group (R216); a relocation after a Kiln target failed goes to the fold group. -/
def State.rewriteTo (s : State) (kind : Nat) (p : Piece) : Nat × GroupRole :=
  match s.poolOf p with
  | some .staging => (1, if p.unit.isSome then .random else .fold)
  | some .random => (kind, .spargeRandom)
  | some .stream | some .journal | some .snuff | none => (kind, if kind = 1 then .fold else .sparge)

/-- A batch from mixed pools is rewritten: each piece into its target. -/
def State.rewriteBatch (s : State) (kind : Nat) (cls : BitVec 3) (batch : List Piece) (m : MoveIn) : State :=
  s.moveBatch cls batch m fun t good =>
    ((good.map (s.rewriteTo kind)).eraseDups).foldl (fun u k => u.copyBatch k.1 k.2 cls (good.filter fun p => s.rewriteTo kind p = k)) t

/-! ### The Kiln (R216, R217) -/

/-- A piece that the Kiln may fold: in the staging pool, and below its stream's ST_DURABLE. -/
def State.foldable (s : State) (p : Piece) : Bool :=
  s.movable p && s.poolOf p = some .staging &&
  (p.unit.isSome || decide (p.off + p.data.length ≤ (s.stream p.stream).durable))

/-- Take pieces while their bytes stay within a bound. -/
def takeWithin : Nat → List Piece → List Piece
  | _, [] => []
  | n, p :: ps => if p.data.length ≤ n then p :: takeWithin (n - p.data.length) ps else []

/-- The piece credited to the oldest cycle, the first of the list among equals. -/
def oldestPiece (ps : List Piece) : Option Piece :=
  ps.foldl (fun b p =>
    match b with
    | none => some p
    | some q => if p.cycle < q.cycle then some p else b) none

/-- The next batch: one stream's foldable pieces up to 64 MiB, in offset order, the stream with the oldest byte first; or the
random units. -/
def State.kilnBatch (s : State) : List Piece :=
  let f := s.place.pieces.filter s.foldable
  match oldestPiece f with
  | none => []
  | some p =>
    let mine := match p.unit with
      | none => f.filter fun (q : Piece) => q.unit.isNone && q.stream == p.stream
      | some _ => f.filter fun (q : Piece) => q.unit.isSome
    takeWithin 67108864 (sortBy moveBefore mine)

/-! ### Who goes first (R54) -/

/-- Codewords of valid data that the Sparge would copy out of band b. -/
def State.spargeBatch (s : State) (b : Nat) : List Piece :=
  sortBy moveBefore ((s.validIn b).filter s.movable)

/-- A band may be a victim: of the stream or random pool, closed, in no open group, with data in it and no UNCORRECTABLE codeword still mapped (R227, R237). -/
def State.victimOk (s : State) (b : Nat) : Bool :=
  let x := s.band b
  (x.pool = .stream || x.pool = .random) && x.phase = .closed && !s.bandStuck b &&
  !(s.place.groups.any fun g => g.bands.contains b) && (!(s.validIn b).isEmpty || !(s.pagesIn b).isEmpty)

/-- Codewords of valid data in band b: pieces and pages. -/
def State.validCount (s : State) (b : Nat) : Nat := (s.validIn b).length + (s.pagesIn b).length

/-- The victim of a pool: the band with the least valid data, the lowest number among equals. -/
def State.victim (s : State) (pool : Pool) : Option Nat :=
  let can := (s.place.bands.filter fun x => x.2.pool = pool && s.victimOk x.1).map Prod.fst
  can.foldl (fun m b =>
    match m with
    | none => some b
    | some v => if s.validCount b < s.validCount v then some b else m) none

/-- Sparge work waits in a pool: its victim holds codewords that are no longer valid, and valid ones to copy (R227). -/
def State.spargeWaits (s : State) (pool : Pool) : Bool :=
  match s.victim pool with
  | none => false
  | some b =>
    let x := s.band b
    decide (s.validCount b < sumBy (fun u => if parityChan b (x.membersAt u.1) = u.2 then 0 else s.cu x.slc) x.units) && !(s.spargeBatch b).isEmpty

/-- Background work of each kind waits: refresh, anchor, Sparge, Kiln (R54). -/
def State.refreshWaits (s : State) : Bool := s.media.refresh.any fun x => !(s.refreshBatch x).isEmpty

/-- A piece lies on a failed channel, or on a failed die of it. -/
def State.liesOn (s : State) (ch : Nat) (die : Option Nat) (p : Piece) : Bool :=
  match p.loc.bind s.unitAt with
  | some (_, b, c) => c == ch && die.all fun d => d == b % 16
  | none => false

/-- The valid pieces of a failed die or channel whose rows are not lost (R193, R194). -/
def State.toRebuild (s : State) (x : Nat × Option Nat) : List Piece :=
  s.place.pieces.filter fun p => p.done && !s.invalid p && s.liesOn x.1 x.2 p &&
    !((p.loc.bind s.unitAt).any fun u => s.media.stripes.contains (u.2.1, u.1))

/-- Rebuild work is pending, and has codewords to move: it goes before the Kiln and the Sparge (R193). -/
def State.rebuildWaits (s : State) : Bool := s.media.rebuilds.any fun x => (s.toRebuild x).any s.movable

/-- An anchor pair is due and may be written. -/
def State.anchorWaits (s : State) : Bool := s.wickUp && decide (0 < s.wick.tokens) && s.pairDue false

/-- The work of a window kind that goes before another in general ticks waits: in the order refresh, anchor, Sparge, Kiln, scrub (R54). -/
def State.higherWaits (s : State) (kind : Nat) : Bool :=
  let refresh := s.refreshWaits
  let anchor := refresh || s.anchorWaits
  let sparge := anchor || s.spargeWaits .stream || s.spargeWaits .random
  if kind = 6 then refresh
  else if kind = 3 then anchor
  else if kind = 2 then sparge
  else if kind = 5 then sparge || !s.kilnBatch.isEmpty
  else false

/-- Background work of a window kind is issued now (R53 to R55): in its window, under its override, or in a general tick while no work of
higher priority waits. -/
def State.mayIssue (s : State) (kind : Nat) (beyond : Bool) : Bool :=
  s.backgroundOk kind beyond && (beyond || s.lamp.openWin.isSome || !s.higherWaits kind)

/-- ANCHOR_PAIR_WRITE: a due pair with a token is programmed, copy A and then copy B (R131, R132, R422), in its window or a
general tick, or under its override (R55). One that cannot be issued now waits, and lower work waits for it (R54). -/
def execAnchorPairWrite (aged waited : Bool) (failA failB : Nat) (slotsBlank : Bool) (s : State) :
    Host.Outcome State Fault Refusal :=
  let beyond := waited || (s.running && decide (377487360 < s.journal.sinceHead))
  if s.wickUp && decide (0 < s.wick.tokens) && s.pairDue aged && s.mayIssue 6 beyond then
    let s1 := ((s.failCopies false failA).failCopies true failB).programPair
    .next (s1.onWick fun w => ({ w with tokens := w.tokens - 1, slotsOk := slotsBlank } : WickState).arm)
  else .next (if aged then s.onWick fun w => { w with pairAged := true } else s)

/-- KILN_BATCH: what earlier moves have programmed is verified, and the next batch is read and submitted (R216, R231); the Kiln waits while
rebuild work does (R193). -/
def execKilnBatch (m : MoveIn) (s : State) : Host.Outcome State Fault Refusal :=
  if !(s.backUp && s.mayIssue 2 false) then .next s
  else
    let s1 := s.verifyMoves m
    let batch := s1.kilnBatch
    if batch.isEmpty || s1.rebuildWaits || !s1.mayRead 6 batch then .next s1
    else
      let role := if batch.any fun p => p.unit.isSome then GroupRole.random else .fold
      .next (s1.moveBatch 6 batch m fun t good => t.copyBatch 1 role 6 good).stagingCheck

/-! ### The Sparge (R227, R228) -/

/-- Run, map and directory pages are marked changed: the next checkpoint programs them again (R227). -/
def State.markPages (s : State) (ls : List Loc) : State :=
  s.onPlace fun p => { p with
    runDue := p.runDue ++ (p.runPages.map Prod.fst).filter fun l => ls.contains l && !p.runDue.contains l
    pagesDue := p.pagesDue ++ ((p.mapPages.filter fun y => ls.contains y.1).map fun y => y.2.page).filter fun q => !p.pagesDue.contains q }

/-- SPARGE_COPY: what earlier moves have programmed is verified, and the valid data of the victim is copied to its pool's Sparge group; urgent
while the pool is short (R228). The Sparge waits while rebuild work does (R193). -/
def execSpargeCopy (band : BitVec 24) (m : MoveIn) (s : State) : Host.Outcome State Fault Refusal :=
  let b := band.toNat
  let pool := (s.band b).pool
  if !(s.backUp && s.mayIssue 3 (s.poolShort pool)) then .next s
  else
    let s1 := s.verifyMoves m
    let cls : BitVec 3 := if s1.poolShort pool then 5 else 6
    let batch := s1.spargeBatch b
    if s1.victim pool != some b || s1.rebuildWaits || !s1.mayRead cls batch then .next s1
    else
      let role := if pool = .random then GroupRole.spargeRandom else .sparge
      .next ((s1.moveBatch cls batch m fun t good => t.copyBatch 2 role cls good).markPages (s1.pagesIn b))

/-! ### Refresh (R230) -/

/-- REFRESH_REWRITE: what earlier moves have programmed is verified, and every valid codeword of a listed block is moved, at class 5 if the
refresh is urgent; so is what a failed block or row held (R178, R230, R236). -/
def execRefreshRewrite (ch : BitVec 5) (band : BitVec 24) (m : MoveIn) (s : State) : Host.Outcome State Fault Refusal :=
  let b := band.toNat
  let c := ch.toNat
  match s.media.refresh.find? fun x => x.band = b && x.chan = c with
  | none => .next s
  | some x =>
    if !(s.backUp && s.mayIssue 4 x.urgent) then .next s
    else
      let s1 := s.verifyMoves m
      let cls : BitVec 3 := if x.urgent then 5 else 6
      let batch := s1.refreshBatch x
      if !s1.mayRead cls batch then .next s1
      else .next ((s1.rewriteBatch x.kind cls batch m).markPages (s1.listedPages x))

/-- REFRESH_URGENT_AGE: 24 hours on the list make a refresh urgent. -/
def execRefreshUrgentAge (ch : BitVec 5) (band : BitVec 24) (s : State) : Host.Outcome State Fault Refusal :=
  .next (s.onMedia fun m => { m with
    refresh := m.refresh.map fun x => if x.band = band.toNat && x.chan = ch.toNat then { x with urgent := true } else x })

/-! ### Rebuild (R193) -/

/-- A location lies on a failed channel, or on a failed die of it. -/
def State.locOn (s : State) (ch : Nat) (die : Option Nat) (l : Loc) : Bool :=
  match s.unitAt l with
  | some (_, b, c) => c == ch && die.all fun d => d == b % 16
  | none => false

/-- The rows of pieces that have two unreadable units: another of their units is gone too. Their reads complete UNCORRECTABLE, and the rows
are reported (R183, R194). -/
def State.lostRows (s : State) (ps : List Piece) : State :=
  ps.foldl (fun t p =>
    match p.loc.bind t.unitAt with
    | some (row, b, c) => if t.matesGone b row c then t.stripeLost b row else t
    | none => t) s

/-- REBUILD: what earlier moves have programmed is verified, and the valid data of a failed die or channel is read by rebuild and moved at
class 5 from every row that still has at most one unreadable unit; its pages are programmed again. The work ends when nothing is left that
can be moved (R193, R194, R237). -/
def execRebuild (ch : BitVec 5) (m : MoveIn) (s : State) : Host.Outcome State Fault Refusal :=
  match s.media.rebuilds.find? fun x => x.1 = ch.toNat with
  | none => .next s
  | some x =>
    if !s.backUp then .next s
    else
      let s1 := s.verifyMoves m
      let s2 := s1.lostRows (s1.toRebuild x)
      let here := s2.toRebuild x
      let pages := (s2.place.runPages.map Prod.fst ++ s2.place.mapPages.map Prod.fst).filter (s2.locOn x.1 x.2)
      if here.isEmpty && pages.isEmpty then
        .next (s2.onMedia fun t => { t with rebuilds := t.rebuilds.filter fun y => y ≠ x })
      else
        let batch := sortBy moveBefore (here.filter s2.movable)
        if !s2.mayRead 5 batch then .next s2 else .next ((s2.rewriteBatch 3 5 batch m).markPages pages)

/-! ### Releases (R121, R232) -/

/-- The generations present in both copies, newest first. -/
def State.sharedGens (s : State) : List Nat :=
  let a := (s.wick.anchors.filter fun x => !x.copyB && s.anchorOk x).map Anchor.gen
  let b := (s.wick.anchors.filter fun x => x.copyB && s.anchorOk x).map Anchor.gen
  sortBy (fun x y => decide (y ≤ x)) (a.filter b.contains)

/-- The head that the second-newest generation present in both copies names. -/
def State.secondHead (s : State) : Option Nat :=
  match s.sharedGens.eraseDups with
  | _ :: g :: _ => (s.wick.anchors.find? fun x => x.gen = g).map Anchor.headSeq
  | _ => none

/-- A read descriptor that addresses a band is queued or running. -/
def State.readsBand (s : State) (b : Nat) : Bool :=
  s.media.chans.any fun x => x.2.queue.any fun e =>
    e.phase ≠ .ended && mopOf e.d.op = some .read && decide (e.d.band.toNat = b)

/-- The complete casks of the journal, oldest first. -/
def State.casks (s : State) : List Cask :=
  s.journal.recs.filterMap fun r =>
    match r.body with
    | .cask c => some c
    | .note _ | .checkpoint _ | .bandLink _ => none

/-- The oldest cycle whose cask is kept readable: the lower of the lowest set-sealed cycle in the last 4,096 casks and the cycle
4,096 casks back (R151). -/
def keptFrom (cs : List Cask) : Nat :=
  let recent := cs.drop (cs.length - 4096)
  recent.foldl (fun m c => min m (min c.setSealed c.cycle)) (match recent with
    | c :: _ => c.cycle
    | [] => 0)

/-- The journal bands that casks are kept in: as many of the newest as hold 1 GiB (R151). -/
def State.keptBands (s : State) : List Nat :=
  (s.journal.bands.reverse.foldl (fun (a : List Nat × Nat) b =>
    let n := a.2 + s.journalPages b * 16384
    (if n ≤ 1073741824 then b :: a.1 else a.1, n)) ([], 0)).1

/-- The records whose first page lies in a journal band (R120). -/
def State.recsIn (s : State) (b : Nat) : List JRec := s.journal.recs.filter fun r => decide (r.addr.toNat / 16777216 = b)

/-- A journal band may be released: it is not the one being written, at least two remain, every record in it has a lower sequence than
the head named by the second-newest anchor generation present in both copies, and it holds no cask that the cask query still serves
(R121, R151, R198). -/
def State.journalDone (s : State) (b : Nat) : Bool :=
  s.journal.bands.head? = some b && decide (2 ≤ s.journal.bands.length) &&
  s.secondHead.any (fun h => (s.recsIn b).all fun r => decide (r.seq + r.parts ≤ h)) &&
  (!s.keptBands.contains b || (s.recsIn b).all fun r =>
    match r.body with
    | .cask c => decide (c.cycle < keptFrom s.casks)
    | .note _ | .checkpoint _ | .bandLink _ => true)

/-- A journal band is released: its records go with it. -/
def State.dropJournal (s : State) (b : Nat) : State :=
  s.onJournal fun j => { j with
    recs := j.recs.filter fun r => decide (r.addr.toNat / 16777216 ≠ b), bands := j.bands.filter fun x => x != b }

/-- A band becomes erasable, and its blocks return to their free lists (R204). -/
def State.freeBand (s : State) (b : Nat) : State :=
  (s.modBand b fun y => { y with phase := .erasable, accs := [], accBuf := [] }).noteShort

/-- BAND_RELEASE: a released band becomes erasable (R232), and so does a journal band that nothing needs any more (R121). -/
def execBandRelease (band : BitVec 24) (s : State) : Host.Outcome State Fault Refusal :=
  let b := band.toNat
  let x := s.band b
  if !s.clock.mainOn || s.readsBand b then .next s
  else if x.phase = .released && s.secondHead.any (fun h => decide (x.relSeq < h)) then .next (s.freeBand b)
  else if x.pool = .journal && s.journalDone b then .next ((s.dropJournal b).freeBand b)
  else .next s

/-! ### Placement and run pages -/

/-- A seal in progress waits for pieces placed after its start: the units that hold them are completed as in R214. -/
def State.sealUnits (s : State) : State :=
  match s.journal.sealing with
  | none => s
  | some x =>
    let s1 := s.spillUnits x.cycle
    if s1.place.pieces.any fun p => p.inTun && !p.onFlash && decide (p.cycle ≤ x.cycle) && (p.loc.isSome || p.spill.isSome) then s1.padStaging
    else s1

/-- PIECE_PLACEMENT (R213). -/
def execPiecePlacement (stream : BitVec 10) (s : State) : Host.Outcome State Fault Refusal :=
  if s.backUp then .next (s.placeHeld stream.toNat).sealUnits else .next s

/-- Depth of a run-table entry: 0 a run, else that of the page it names (R208). -/
def State.runDepth (s : State) (r : Run) : Nat :=
  if r.leaf = 0 then 0 else ((s.place.runPages.find? fun x => x.1 = r.loc).map fun x => x.2.depth).getD 1

/-- The stream with the most entries, the lowest index among equals. -/
def State.fullestStream (s : State) : Nat :=
  let count := fun (i : Nat) => (s.place.runs.filter fun r => r.stream = i).length
  (List.range 1024).foldl (fun m i => if count m < count i then i else m) 0

/-- A list as its longest stretches of adjacent entries of one depth, with their depths. -/
def stretches (depth : Run → Nat) : List Run → List (Nat × List Run)
  | [] => []
  | r :: rs =>
    match stretches depth rs with
    | (d, es) :: rest => if depth r = d then (d, r :: es) :: rest else (depth r, [r]) :: (d, es) :: rest
    | [] => [(depth r, [r])]

/-- The adjacent entries that go to a page: of the stream with the most, in offset order, the oldest 170 that stand side by side with one
depth, the lowest depth below 3 that has so many. Where none has 170, the manual does not say what is written: the longest stretch (R208;
DESIGN CHOICE, log 122). -/
def State.pageEntries (s : State) : List Run :=
  let mine := sortBy (fun (a b : Run) => decide (a.off ≤ b.off)) (s.place.runs.filter fun r => r.stream = s.fullestStream)
  let all := (stretches s.runDepth mine).filter fun x => decide (x.1 < 3)
  match [0, 1, 2].findSome? fun d => all.find? fun x => x.1 == d && decide (170 ≤ x.2.length) with
  | some x => x.2.take 170
  | none => all.foldl (fun es x => if es.length < x.2.length then x.2 else es) []

/-- A new run page waits for its program. -/
def State.runPagePending (s : State) : Bool :=
  s.place.pageJobs.any fun x => match x.2 with
    | .run _ old => old.isNone
    | .map _ => false

/-- A new run page is formed, and its program submitted (R208, R209). -/
def State.formRunPage (s : State) : State :=
  match s.pageEntries with
  | [] => s
  | a :: es =>
    (s.pageJob fun u => .run { seq := u.journal.nextSeq - 1, stream := a.stream, depth := s.runDepth a + 1, entries := a :: es }
      none).padGroup .random 4

/-- RUN_PAGE_WRITE: the page is submitted; its leaf takes the place of the entries once it is programmed (R208, R209). -/
def execRunPageWrite (s : State) : Host.Outcome State Fault Refusal :=
  if s.backUp && decide (20480 < s.place.runs.length) && !s.runPagePending then .next s.formRunPage else .next s

/-- JOURNAL_TAIL_COMMIT (R122, R123): the run table holds at most 21,504 entries, so a commit that would take it beyond waits for a run
page (R208). -/
def execJournalTailCommit (s : State) : Host.Outcome State Fault Refusal :=
  let t := s.commitTail
  if s.backUp && (decide (t.place.runs.length ≤ 21504) || decide (t.place.runs.length ≤ s.place.runs.length)) then .next t else .next s

/-! ### The Grist and the Cellar (R220 to R226) -/

/-- Random-region units. -/
def State.randUnits (s : State) : Nat := s.place.randSize / 4096

/-- Map pages of the random region: 1,020 entries each (R220). -/
def State.mapPages (s : State) : Nat := (s.randUnits + 1019) / 1020

/-- Directory pages (R220). -/
def State.dirPages (s : State) : Nat := (s.mapPages + 1019) / 1020

/-- The page index exists: a map page, or with bit 31 a directory page (R220). -/
def State.pageOk (s : State) (p : Nat) : Bool :=
  if p < 2147483648 then decide (p < s.mapPages) else decide (p - 2147483648 < s.dirPages)

/-- The Cellar slot of a page: directory pages count after the last map page (R223). -/
def State.cellSlot (s : State) (p : Nat) : Nat :=
  let n := if p < 2147483648 then p else s.mapPages + (p - 2147483648)
  let k := s.place.cellSize.toNat / 4096
  if k = 0 then 0 else n % k

/-- The Cellar is in use (R223, R225). -/
def State.cellarOn (s : State) : Bool := s.place.cellBase != 0 && !s.place.cellOff

/-- The least recently used frame in a state. -/
def State.oldestFrame (s : State) (st : FrameState) : Option Nat :=
  ((s.place.frames.filter fun x => x.2.st = st).foldl (fun b x =>
    match b with
    | none => some x
    | some y => if x.2.used < y.2.used then some x else b) (none : Option (Nat × GFrame))).map Prod.fst

/-- The Cellar key (R223). -/
def State.cellarKey (s : State) : List Byte := leBytes 32 (Config.cellarKey s.place.cellKey).toNat

/-- The 64-bit tag of a Cellar copy: AES-CMAC over the page index and the slot number, of 4 bytes each, the page sequence, and the 4,080
bytes of entries (R224). The widths and the byte order of the fields are the model's (DESIGN CHOICE, log 120). -/
def State.cellarTag (s : State) (p : Nat) (seq entries : List Byte) : List Byte :=
  (cmac s.cellarKey (leBytes 4 p ++ leBytes 4 (s.cellSlot p) ++ seq ++ entries)).take 8

/-- The Cellar copy of a page: bytes 8 to 15 hold the tag (R224). -/
def State.cellarCopy (s : State) (m : MapPage) : List Byte :=
  leBytes 8 m.seq ++ s.cellarTag m.page (leBytes 8 m.seq) m.entryBytes ++ m.entryBytes

/-- What came back from the slot of page p carries its tag (R224, R225). -/
def State.cellarOk (s : State) (p : Nat) (bs : List Byte) : Bool :=
  (bs.drop 8).take 8 == s.cellarTag p (bs.take 8) (bs.drop 16)

/-- A page as it stands on flash; one never programmed holds no entry (R218). -/
def State.pageOnFlash (s : State) (p : Nat) : MapPage :=
  ((s.place.mapPages.find? fun x => x.2.page == p).map Prod.snd).getD { page := p, seq := 0, entries := [] }

/-- A CLEAN frame is evicted; its page goes to its Cellar slot, whose other pages are no longer current (R225). -/
def State.evict (s : State) (p : Nat) : State :=
  let s1 := s.onPlace fun t => { t with frames := tset frameNone t.frames p frameNone }
  if s.cellarOn && s.upstreamOpen then
    let k := s.cellSlot p
    (s1.onPlace fun t => { t with cellCur := p :: t.cellCur.filter fun q => s.cellSlot q != k }).issue
      (.cellar (s.place.cellBase + 4096 * BitVec.ofNat 64 k) (s.cellarCopy (s.pageOnFlash p)))
  else s1

/-- A frame is made free by eviction of the oldest CLEAN frame; with none, the miss waits (R222). -/
def State.freeFrame (s : State) : Option State :=
  if s.place.frames.length < 4096 then some s else (s.oldestFrame .clean).map s.evict

/-- A miss found no CLEAN frame: the page of the oldest UNFLUSHED one is programmed at class 4, unless a map page's program is under way
already (R222). -/
def State.makeRoom (s : State) : State :=
  if s.place.frames.length < 4096 || (s.oldestFrame .clean).isSome || s.place.pageJobs.any (fun x => match x.2 with
      | .map _ => true
      | .run _ _ => false) then s
  else
    match s.oldestFrame .unflushed with
    | some p => (s.programMap p).padGroup .random 4
    | none => s

/-- The frame with a page that has come: each entry is the page's, unless the frame already holds it with an entry sequence at or above the
page sequence (R226). A page that has changed since it was programmed leaves its frame UNFLUSHED, or DIRTY (R221). -/
def State.filled (s : State) (p : Nat) (f : GFrame) : GFrame :=
  let m := s.pageOnFlash p
  let held := fun (k : Nat) => f.seqs.any fun e => e.1 == k && decide (m.seq ≤ e.2)
  { f with
    st := s.frameState p f.lines
    seqs := m.entries.foldl (fun t e => if held e.1 then t else tset 0 t e.1 m.seq) f.seqs }

/-- The Cellar slot of a page is read on a miss: its bit is set, and the port may issue the read (R225, R312). -/
def State.fromCellar (s : State) (p : Nat) : Bool := s.cellarOn && s.place.cellCur.contains p && s.upstreamOpen

/-- A miss: a frame is allocated, and the page fetched from the Cellar, or from flash (R222, R225). No answer: no frame can be
made free. -/
def State.gristMiss (s : State) (p : Nat) : Option State :=
  match s.freeFrame with
  | none => none
  | some t =>
    let new : GFrame := { st := .fetching, used := t.place.useClock + 1, lines := [], seqs := [] }
    let f := if t.fromCellar p then new else t.filled p new
    some (t.onPlace fun x => { x with frames := tset frameNone x.frames p f, useClock := x.useClock + 1 })

/-- The flash locations that the lookup of a page reads: its directory page's, where the Grist does not hold that, and its own (R220). -/
def State.entryReads (s : State) (p : Nat) : List Loc :=
  let flash := fun (q : Nat) => ((s.place.mapPages.find? fun x => x.2.page == q).map Prod.fst).toList
  (if 2147483648 ≤ p ∨ s.place.frames.any (fun x => x.1 == dirPage p) then [] else flash (dirPage p)) ++
  if s.fromCellar p then [] else flash p

/-- The Grist holds a frame for the page. -/
def State.hasFrame (s : State) (p : Nat) : Bool := s.place.frames.any fun x => x.1 == p

/-- A lookup uses the frame of a page (R222). -/
def State.useFrame (s : State) (p : Nat) : State :=
  s.onPlace fun x => { x with
    useClock := x.useClock + 1, frames := x.frames.map fun f => if f.1 = p then (p, { f.2 with used := x.useClock + 1 }) else f }

/-- GRIST_MISS (R222, R225): what is read from flash is read at class 3 (R188). -/
def execGristMiss (page : BitVec 32) (s : State) : Host.Outcome State Fault Refusal :=
  let p := page.toNat
  if !s.clock.mainOn || s.stopped .grist || !s.pageOk p || s.hasFrame p || !s.canRead 3 (s.entryReads p) then .next s
  else
    match s.gristMiss p with
    | some t => .next t
    | none => .next s.makeRoom

/-- A slot is replaced by a read from flash: counted, its bit cleared; a tag failure counts towards CELLAR_OFF (R225). -/
def State.cellarFail (s : State) (p : Nat) (tagFailed : Bool) : State :=
  let s1 := (s.onPlace fun t => { t with cellCur := t.cellCur.filter fun q => q ≠ p }).count32 0x2A 1
  if !tagFailed then s1
  else
    let n := s.place.cellFails + 1
    let s2 := s1.onPlace fun t => { t with cellFails := n }
    if 16 ≤ n ∧ !s.place.cellOff then (s2.onPlace fun t => { t with cellOff := true }).raise .cellarOff else s2


/-- CELLAR_PAGE_FETCHED (R224 to R226): a slot that fails its tag, or whose read did not complete, is replaced by a read from flash; a link that
is down lets no read complete. -/
def execCellarPageFetched (page : BitVec 32) (r : HostRead) (s : State) : Host.Outcome State Fault Refusal :=
  let p := page.toNat
  let f := tget frameNone s.place.frames p
  if !s.clock.mainOn || f.st ≠ .fetching then .next s
  else
    let done := fun (t : State) => t.onPlace fun x => { x with frames := tset frameNone x.frames p (t.filled p f) }
    match r with
    | .failed => .next (done (s.cellarFail p false))
    | .ok bs =>
      if bs.length ≠ 4096 then .fault .illFormedCommand
      else if !s.portUp then .next (done (s.cellarFail p false))
      else .next (done (if s.cellarOk p bs then s else s.cellarFail p true))

/-! ### Snuff bands (R238) -/

/-- A snuff band is erased again at class 1. -/
def State.eraseSnuff (s : State) (b : Nat) : State :=
  (s.band b).members.foldl (fun t m => t.submit m.1 (eraseDesc s.planes (b % 16) m.2 b true 1 t.media.tagNext)) s

/-- The result of one band's check. When a band that was erased again counts as checked again the manual does not say: not at the end of that
erase, but at the next SNUFF_BAND_CHECK that reads it ERASED (R238; DESIGN CHOICE, log 136). -/
def State.checkSnuff (s : State) (b : Nat) (erased : Bool) : State :=
  let s1 := s.onPlace fun p => { p with snuff := p.snuff.map fun x => if x.1 = b then (b, erased) else x }
  if erased then s1 else s1.eraseSnuff b

/-- SNUFF_BAND_CHECK: both bands' first wordlines are read, the lower-numbered band first. -/
def execSnuffBandCheck (firstErased secondErased : Bool) (s : State) : Host.Outcome State Fault Refusal :=
  let first := s.place.snuff.flatMap fun x => ((s.band x.1).channels.filter fun c => !(s.band x.1).failedAt 0 c).map fun c => (0, x.1, c)
  if !s.backUp || !s.canUse 0x01 1 first then .next s
  else
    match sortBy (fun (a b : Nat) => decide (a ≤ b)) (s.place.snuff.map Prod.fst) with
    | [] => .next s
    | [a] => .next (s.checkSnuff a firstErased)
    | a :: b :: _ => .next ((s.checkSnuff a firstErased).checkSnuff b secondErased)

end Sys2Proof.Machine
end

