-- ==== Sys2Proof/Machine/MediaCmds.lean ====
section
/-! DEFINITION. The commands of the media engine: discovery and training (R157 to R162), the life of a descriptor (R164 to
R169), its actions (R166), what their endings do to bands, blocks, dies and channels (R174 to R178, R190 to R192), and scrub
(R185). -/
namespace Sys2Proof.Machine
open Sys2Proof

/-- MEDIA works: the main domain runs and MEDIA is not in a RESTART reset. -/
def State.mediaUp (s : State) : Bool := s.clock.mainOn && !s.stopped .media

/-! ### Discovery and training (R157 to R162) -/

/-- A profile keeps the limits of R154; its unit is one wordline on every plane at every bit level. -/
def profOk (p : Profile) : Bool :=
  (p.bits == 1 || ((p.bits == 3 || p.bits == 4) && profHasSlc p)) && [1, 2, 4, 6, 8].contains p.planes &&
  decide (2176 ≤ p.spare) && p.unitKiB == 16 * p.planes * p.bits && p.slcUnitKiB == 16 * p.planes && decide (p.unitKiB ≤ 512) &&
  decide (1 ≤ p.retry.length) && decide (p.retry.length ≤ 16) && decide (1 ≤ p.topRate) && decide (p.topRate ≤ 4)

/-- The profile of a die: the entry of the table for its manufacturer and model, if the die needs no part of ONFI 5.1 but those of
R152 (R152, R154). -/
def profileOf (table : List Profile) (f : FoundDie) : Option Profile :=
  if f.beyond then none else table.find? fun p => profOk p && p.maker == f.maker && p.model == f.model

/-- The global number of a die (R156). -/
def dieNumber (f : FoundDie) : Nat := 16 * f.channel.toNat + f.die.toNat

/-- The dies that discovery operates: those of a channel or die in the grown-defect list stay out of use (R158). -/
def State.operated (s : State) (d : DiscoveryIn) : List FoundDie :=
  sortBy (fun a b => decide (dieNumber a ≤ dieNumber b)) (d.dies.filter fun f =>
    let c := s.chan f.channel.toNat
    !c.retired && !c.retDies.getLsbD f.die.toNat)

/-- LUNs that answer on target ce of a channel (R156, R157 step 5). -/
def lunsAt (found : List FoundDie) (ch ce : Nat) : Nat :=
  (found.filter fun f => f.channel.toNat = ch && f.die.toNat / 4 = ce).length

/-- The LUN counts of R152. -/
def lunsOk (n : Nat) : Bool := n == 1 || n == 2 || n == 4

/-- The magazine profile: of the lowest-numbered die that matches one, on a target with 1, 2 or 4 LUNs (R152, R158). -/
def magProfile (table : List Profile) (found : List FoundDie) : Option Profile :=
  (found.filter fun f => lunsOk (lunsAt found f.channel.toNat (f.die.toNat / 4))).findSome? (profileOf table)

/-- Die codes of a channel at discovery (R158): the retired dies are RETIRED again; a die is ACTIVE if its profile is the magazine's and its
target has 1, 2 or 4 LUNs (R152). -/
def discDies (table : List Profile) (mag : Option Profile) (found : List FoundDie) (ch : Nat) (ret : BitVec 16) : Sparse DieCode :=
  (List.range 16).filterMap fun d =>
    if ret.getLsbD d then some (d, .retired)
    else
      match found.find? fun f => f.channel.toNat = ch && f.die.toNat = d with
      | none => none
      | some f => some (d, if (profileOf table f).isSome && profileOf table f == mag && lunsOk (lunsAt found ch (d / 4)) then .active
          else .unsupported)

/-- Discovery starts: a channel leaves OFF for DISCOVER, in SDR timing mode 0, or FAILED if it is retired, whose dies are RETIRED (R157 step
1, R161). -/
def Channel.discover (c : Channel) : Channel :=
  if c.retired then { c.go .failed with dies := discDies [] .none [] 0 c.retDies } else { c.go .discover with lpddr4 := false }

/-- Steps 5 and 6 end: a channel on which no die answers is ABSENT; else its LUNs are counted, its dies take NV-LPDDR4, on-die termination and
drive strength, and ZQ CALIBRATION LONG, and it is in training (R152, R157, R161). -/
def Channel.identified (c : Channel) (table : List Profile) (mag : Option Profile) (found : List FoundDie) (ch now draw : Nat) : Channel :=
  if c.st ≠ .discover then c
  else if !found.any fun f => f.channel.toNat = ch then { c.go .absent with dies := discDies table mag found ch c.retDies }
  else
    let dies := discDies table mag found ch c.retDies
    { c.go .train with
      dies := dies, lpddr4 := true, zqAt := now
      luns := (List.range 4).filterMap fun ce => if lunsAt found ch ce = 0 then Option.none else some (ce, lunsAt found ch ce)
      feats := (dies.filter fun d => d.2 = .active).map fun d => (d.1, Config.dieFeature draw ch d.1) }

/-- The highest rate at which training passes: it starts at the highest common rate and goes down to 1,600 MT/s, code 1 (R157
step 7). 0: it fails there too. -/
def trainedRate (top : Nat) (pass : BitVec 4) : Nat :=
  ((List.range' 1 (min top 4)).reverse.find? fun r => pass.getLsbD (r - 1)).getD 0

/-- Training of a channel ends: ACTIVE at its rate, or FAILED (R161). -/
def State.endTraining (s : State) (ch : Nat) (pass : BitVec 4) : State :=
  if (s.chan ch).st ≠ .train then s
  else
    let rate := trainedRate ((s.media.profile.map Profile.topRate).getD 0) pass
    if rate = 0 then s.failChannel ch
    else s.modChan ch fun c => { c.go .active with rate := rate, trainTemp := s.power.temp }

/-- MEDIA_DISCOVERY (R157 to R161): every channel leaves OFF, its dies are identified and profiled, and channels whose training is
reported with it end it at once. -/
def execMediaDiscovery (d : DiscoveryIn) (s : State) : Host.Outcome State Fault Refusal :=
  if !s.mediaUp || s.media.chans.any fun x => x.2.st ≠ .off then .next s
  else
    let s1 := (List.range 32).foldl (fun t ch => t.modChan ch Channel.discover) s
    let found := s1.operated d
    let mag := magProfile d.table found
    let s2 := (s1.onMedia fun m => { m with profile := mag })
    let s3 := (List.range 32).foldl (fun t ch => t.modChan ch fun c => c.identified d.table mag found ch s.nowS s.draws) s2
    let s4 := d.passes.foldl (fun t r => t.endTraining r.1.toNat r.2) ({ s3 with draws := s.draws + 1 } : State).countGood
    .next (s4.onLink fun l => { l with rawCode := d.rawGB10 })

/-- CHANNEL_TRAINING (R161). -/
def execChannelTraining (ch : BitVec 5) (pass : BitVec 4) (s : State) : Host.Outcome State Fault Refusal :=
  if s.mediaUp then .next (s.endTraining ch.toNat pass) else .next s

/-- ZQ_CALIBRATION_SHORT (R162): the targets of an ACTIVE channel are calibrated. -/
def execZqCalibrationShort (ch : BitVec 5) (s : State) : Host.Outcome State Fault Refusal :=
  if s.mediaUp && (s.chan ch.toNat).st = .active then .next (s.modChan ch.toNat fun c => { c with zqAt := s.nowS }) else .next s

/-- RETRAIN_CHECK (R161, R162). -/
def execRetrainCheck (ch : BitVec 5) (pass : Bool) (s : State) : Host.Outcome State Fault Refusal :=
  if s.mediaUp && !pass then .next (s.busCheck ch.toNat) else .next s

/-- TEMP_RETRAIN (R162): after a move of 15 °C, or 10 min. -/
def execTempRetrain (ch : BitVec 5) (elapsedS : Nat) (s : State) : Host.Outcome State Fault Refusal :=
  let c := s.chan ch.toNat
  let moved := decide (15 ≤ (s.power.temp - c.trainTemp).natAbs)
  if s.mediaUp && c.st = .active && (moved || decide (600 ≤ elapsedS)) then
    .next (s.modChan ch.toNat fun x => { x with trainTemp := s.power.temp })
  else .next s

/-- CHANNEL_RETRAIN: a QUIESCED channel with no operation in progress is reset and retrained (R161). -/
def execChannelRetrain (ch : BitVec 5) (pass : Bool) (s : State) : Host.Outcome State Fault Refusal :=
  let n := ch.toNat
  let c := s.chan n
  if !s.mediaUp || c.st ≠ .quiesced || c.queue.any fun e => e.phase = .started then .next s
  else if pass then .next (s.modChan n fun x => { x.go .active with trainFails := 0, trainTemp := s.power.temp })
  else if c.trainFails = 0 then .next (s.modChan n fun x => { x with trainFails := 1 })
  else .next (s.failChannel n)

/-! ### Descriptors -/

/-- FRONT, BACK and SNUFF submit descriptors, and no other unit can (R164). -/
def maySubmit (d : MDesc) : Bool := d.submitter == 5 || d.submitter == 6 || d.submitter == 11

/-- DESCRIPTOR_START: descriptors are submitted, and the one in a slot starts, ends at once, or fails its memory check (R164 to
R167, R186, R188, R195). -/
def execDescriptorStart (ch : BitVec 5) (subs : List MDesc) (slot : BitVec 8) (eccBad : Bool) (s : State) :
    Host.Outcome State Fault Refusal :=
  let n := ch.toNat
  if !s.mediaUp || (s.chan n).st = .off then .next s
  else
    let s1 := ((subs.filter maySubmit).foldl (fun t d => t.submit n d) s.takeAll).resumeErases
    if eccBad then .next (s1.queueEcc n slot.toNat) else .next (s1.startDesc n slot.toNat)

/-- TOKEN_WAIT_AGE: a queued descriptor of class 2 to 7 has waited 10 ms for tokens (R188). -/
def execTokenWaitAge (ch : BitVec 5) (slot : BitVec 8) (s : State) : Host.Outcome State Fault Refusal :=
  .next (s.modChan ch.toNat fun c => c.modEntry slot.toNat fun e =>
    if e.phase = .queued ∧ 2 ≤ e.d.cls.toNat then { e with aged := true } else e)

/-- The started entry of a slot with an opcode, whose action has not ended; an erase may be suspended. -/
def State.startedOp (s : State) (ch slot : Nat) (op : MOp) : Option QEntry :=
  match (s.chan ch).entry slot with
  | some e => if s.mediaUp && e.phase = .started && e.status.isNone && mopOf e.d.op = some op then some e else none
  | none => none

/-- The running entry of a slot with an opcode, whose action has not ended. -/
def State.runningOp (s : State) (ch slot : Nat) (op : MOp) : Option QEntry :=
  (s.startedOp ch slot op).filter fun e => !e.held

/-- The action of an entry ends with a status byte. -/
def State.setStatus (s : State) (ch slot : Nat) (st : Byte) : State :=
  s.modChan ch fun c => c.modEntry slot fun e => { e with status := some st }

/-! ### The actions (R166) -/

/-- An ERASE goes before every other descriptor of its die (R174). -/
def State.eraseFirst (s : State) (b : Nat) (m : Nat × Nat) (cls : BitVec 3) : State :=
  let x := s.band b
  match (s.chan m.1).freeSlot false with
  | none => s.submit m.1 (eraseDesc s.planes (b % 16) m.2 b x.slc cls s.media.tagNext)
  | some i =>
    (s.modChan m.1 fun c => { c with queue := newEntry i (eraseDesc s.planes (b % 16) m.2 b x.slc cls s.media.tagNext) 0 :: c.queue
      }).onMedia fun y => { y with tagNext := y.tagNext + 1 }

/-- Programs of a band that have started on a channel, and whose units have not been transferred, stand in the queue again (R174). -/
def State.unstart (s : State) (b ch : Nat) : State :=
  s.modChan ch fun c => { c with queue := c.queue.map fun e =>
    if e.d.band.toNat = b ∧ mopOf e.d.op = some .program ∧ e.phase = .started ∧ e.status.isNone then
      { e with phase := .queued, order := max e.order 1 } else e }

/-- Before a band's first program every member's first wordline is read; one that is not ERASED is erased again, in the class of its band's
erases, before any program there (R174, R204). -/
def State.checkBand (s : State) (b : Nat) (notErased : List Nat) : State :=
  let intake := (s.place.groups.find? fun g => g.bands.contains b).any fun g => roleIntake g.role
  let again := (s.band b).members.filter fun m => notErased.contains m.1
  (again.foldl (fun t m => (t.unstart b m.1).eraseFirst b m (eraseClass (s.band b).pool intake)) s).modBand b fun x =>
    { x with checked := true }

/-- The program confirm of a PROGRAM or PARITY in a slot: its array token is within the budget (R186, R187). -/
def State.mayConfirm (s : State) (ch slot : Nat) : Bool :=
  s.affords (tset Channel.none s.media.chans ch ((s.chan ch).modEntry slot fun e => { e with status := some 0 }))

/-- The first wordlines of a band's members may be read (R174, R186). -/
def State.mayCheck (s : State) (b : Nat) (cls : BitVec 3) : Bool :=
  (s.band b).checked || s.canUse 0x01 cls ((s.band b).channels.map fun c => (0, b, c))

/-- MEDIA_PROGRAM (R166, R173, R174): the unit is transferred, and its program is confirmed once the tokens allow it (R187). The first
program of a band waits while a member is erased again. A unit that fails is XORed out of the accumulator again (R178). -/
def execMediaProgram (ch : BitVec 5) (slot : BitVec 8) (notErased : List (BitVec 5)) (failed : Bool) (s : State) :
    Host.Outcome State Fault Refusal :=
  match s.runningOp ch.toNat slot.toNat .program with
  | none => .next s
  | some e =>
    let b := e.d.band.toNat
    if !s.mayCheck b e.d.cls then .next s
    else if !(s.band b).checked && (s.band b).channels.any fun c => notErased.any fun x => x.toNat = c then
      .next ((s.checkBand b (notErased.map BitVec.toNat)).unstart b ch.toNat)
    else
      let s1 := if (s.band b).checked then s else s.checkBand b []
      if !s1.mayConfirm ch.toNat slot.toNat then .next s1
      else
        let s2 := if e.d.acc && !failed then s1.accUnit e.d ch.toNat else s1
        .next (s2.setStatus ch.toNat slot.toNat (mstatusCode (if failed then .programFail else .ok)))

/-- MEDIA_PARITY (R166, R175). -/
def execMediaParity (ch : BitVec 5) (slot : BitVec 8) (failed : Bool) (s : State) : Host.Outcome State Fault Refusal :=
  match s.runningOp ch.toNat slot.toNat .parity with
  | none => .next s
  | some _ =>
    if !s.mayConfirm ch.toNat slot.toNat then .next s
    else .next (s.setStatus ch.toNat slot.toNat (mstatusCode (if failed then .programFail else .ok)))

/-- MEDIA_ERASE (R166); a flush ends a started erase ABORTED (R170). A block is erased on every plane of its die together: an erase whose mask
leaves planes out is no erase of the block (R154, R171). -/
def execMediaErase (ch : BitVec 5) (slot : BitVec 8) (failed : Bool) (s : State) : Host.Outcome State Fault Refusal :=
  match s.startedOp ch.toNat slot.toNat .erase with
  | none => .next s
  | some e =>
    if s.snuff.trigger.isSome && !snuffDesc e.d then .next (s.setStatus ch.toNat slot.toNat (mstatusCode .aborted))
    else if e.held then .next s
    else
      let s1 := if e.d.planes = s.planes then s.wearBlock ch.toNat e.d.die.toNat e.d.block.toNat else s
      .next (s1.setStatus ch.toNat slot.toNat (mstatusCode (if failed then .eraseFail else .ok)))

/-- MARK_READ (R160, R166). -/
def execMarkRead (ch : BitVec 5) (slot : BitVec 8) (marked : Bool) (s : State) : Host.Outcome State Fault Refusal :=
  match s.runningOp ch.toNat slot.toNat .markRead with
  | none => .next s
  | some _ => .next (s.setStatus ch.toNat slot.toNat (mstatusCode (if marked then .badMark else .ok)))

/-- FEATURE (R152, R166): the features set in the die take a value; R165 gives a descriptor no place for it, and it is free (log 143). -/
def execFeature (ch : BitVec 5) (slot : BitVec 8) (s : State) : Host.Outcome State Fault Refusal :=
  match s.runningOp ch.toNat slot.toNat .feature with
  | none => .next s
  | some e =>
    let d := e.d.die.toNat
    let s1 := s.modChan ch.toNat fun c => { c with feats := tset 0 c.feats d (Config.dieFeature s.draws ch.toNat d) }
    .next (({ s1 with draws := s.draws + 1 } : State).setStatus ch.toNat slot.toNat (mstatusCode .ok))

/-- RESET_DIE (R166, R191): a READ ID that does not match after a TIMEOUT fails the die; the status is then free (log 12). -/
def execResetDie (ch : BitVec 5) (slot : BitVec 8) (idMatches : Bool) (s : State) : Host.Outcome State Fault Refusal :=
  match s.runningOp ch.toNat slot.toNat .resetDie with
  | none => .next s
  | some e =>
    if idMatches then .next (s.setStatus ch.toNat slot.toNat (mstatusCode .ok))
    else
      let s1 := s.setStatus ch.toNat slot.toNat (Config.resetDieStatus s.draws)
      let s2 := { s1 with draws := s.draws + 1 }
      if (s.chan ch.toNat).timeouts.any fun x => x.1 = e.d.die.toNat then
        .next ((s2.failDie ch.toNat e.d.die.toNat).checkChannel ch.toNat)
      else .next s2

/-- DIE_TIMEOUT (R161, R169, R191): inSecond says that another die of the channel timed out within 1 s. -/
def execDieTimeout (ch : BitVec 5) (slot : BitVec 8) (readyAgain idMatches inSecond : Bool) (s : State) :
    Host.Outcome State Fault Refusal :=
  let n := ch.toNat
  match (s.chan n).entry slot.toNat with
  | none => .next s
  | some e =>
    if !s.mediaUp || e.phase ≠ .started || e.status.isSome then .next s
    else
      let die := e.d.die.toNat
      let s1 := ((s.setStatus n slot.toNat (mstatusCode .timeout)).modChan n fun c =>
        { c with timeouts := (die, s.nowS) :: c.timeouts.filter fun x => decide (s.nowS ≤ x.2 + 3600) }).count32 0x17 1
      let s2 := if !readyAgain || !idMatches || decide (3 ≤ s1.recentTimeouts n die) then (s1.failDie n die).checkChannel n else s1
      .next (if inSecond then s2.busCheck n else s2)

/-! ### Reads and endings (R168, R178, R182, R190) -/

/-- MEDIA_READ: a read that a flush finds started is discarded ABORTED (R170). One that no rung below 18 has ended goes on to rung 18, which
reads the row's other dies once the tokens allow it, and ends with the next MEDIA_READ (R182, R186). -/
def execMediaRead (ch : BitVec 5) (slot : BitVec 8) (r : ReadIn) (s : State) : Host.Outcome State Fault Refusal :=
  match s.runningOp ch.toNat slot.toNat .read with
  | none => .next s
  | some e =>
    if s.snuff.trigger.isSome && !snuffDesc e.d then .next (s.setStatus ch.toNat slot.toNat (mstatusCode .aborted))
    else
      match s.media.profile with
      | some p =>
        if s.mustClimb p ch.toNat e r then
          let c := s.climbed ch.toNat slot.toNat e
          if s.affords (tset Channel.none s.media.chans ch.toNat c) then .next (s.setChan ch.toNat c) else .next s
        else .next (s.endRead p ch.toNat slot.toNat e r).healthCheck
      | none => .next s

/-- What the ending of a descriptor does (R174 to R178, R190). One that ended ABORTED is submitted again or ends with the power
(R170, R195, R442). -/
def State.afterDesc (s : State) (ch : Nat) (e : QEntry) (st : Byte) : State :=
  let b := e.d.band.toNat
  match mopOf e.d.op with
  | some .program =>
    if st = mstatusCode .ok then s.unitDone e.d ch
    else if st = mstatusCode .aborted then s
    else if st = mstatusCode .programFail then (s.countFail ch false).blockFailed ch e.d false
    else if st = mstatusCode .dieRetired ∨ st = mstatusCode .channelFailed then s.programLost ch e.d
    else (s.dropMember b ch).closeFull b e.d.cls
  | some .parity =>
    if st = mstatusCode .ok then s.parityDone b e.d.wl.toNat
    else if st = mstatusCode .programFail then s.parityFailed ch e.d
    else if st = mstatusCode .dieRetired ∨ st = mstatusCode .channelFailed ∨ st = mstatusCode .timeout ∨ st = mstatusCode .refused then
      s.parityLost ch e.d
    else s
  | some .erase =>
    if st = mstatusCode .eraseFail then (s.countFail ch true).blockFailed ch e.d false
    else if st = mstatusCode .ok then s.readFirst ch e.d
    else s
  | some .markRead => if st = mstatusCode .badMark then s.blockFailed ch e.d true else s
  | some .read => s.firstRead ch e.d (st = mstatusCode .erased)
  | some .feature | some .resetDie | none => s

/-- DESCRIPTOR_COMPLETE: the completion of an entry whose action has ended is written, its tokens return, a suspended erase may
resume, and the submitter takes the completion as soon as it runs, which frees the entry (R164, R167, R168, R186). -/
def execDescriptorComplete (ch : BitVec 5) (slot : BitVec 8) (e : DieEnd) (s : State) :
    Host.Outcome State Fault Refusal :=
  let n := ch.toNat
  match (s.chan n).entry slot.toNat with
  | none => .next s
  | some x =>
    match x.status with
    | none => .next s
    | some st =>
      if !s.mediaUp || x.comp.isSome then .next s
      else
        let s1 := s.modChan n fun c => c.modEntry slot.toNat fun y =>
          { y with phase := .ended, comp := some (x.completion st e.elapsed e.status) }
        .next (((s1.afterDesc n x st).takeDone n).resumeErases.stagingCheck).healthCheck

/-! ### Scrub (R185) -/

/-- A scrub lap ends (R185, R242): its hours, the longest, and SCRUB_SLOW past 7 days. The records of R190 and of the blocks visited
begin anew. -/
def State.endScrub (s : State) : State :=
  let hours := (s.nowS - s.media.lapStart) / 3600
  let h := min hours 65535
  let s1 := (s.onMedia fun m => { m with
    scrubLap := hours, visited := [], lapStart := s.nowS
    chans := tmap Channel.none (fun _ c => { c with rung17 := [] }) m.chans }).hset 0x47
      (h + 65536 * max h (s.hget 0x47 / 65536))
  if 168 < hours then s1.raise .scrubSlow else s1

/-- The blocks that hold valid data, as (band, channel): pieces, run, map and directory pages, and the records of the journal bands that are
kept (R185). -/
def State.scrubBlocks (s : State) : List (Nat × Nat) :=
  let at_ := fun (l : Loc) => (s.unitAt l).map fun u => (u.2.1, u.2.2)
  (s.place.pieces.filterMap (fun p => if p.onFlash && !s.invalid p then p.place.bind at_ else none) ++
    (s.place.runPages.map Prod.fst ++ s.place.mapPages.map Prod.fst).filterMap at_ ++
    s.journal.bands.flatMap fun b => (s.band b).units.map fun u => (b, u.2)).eraseDups

/-- The last programmed wordline of a member block. -/
def State.lastWordline (s : State) (b c : Nat) : Nat :=
  (s.band b).units.foldl (fun n u => if u.2 = c then max n u.1 else n) 0

/-- One scrub read of a wordline with ladder limit 2, to whose result R184 applies. -/
def State.scrubRead (s : State) (p : Profile) (ch b wl : Nat) (r : ReadIn) : State :=
  let x := s.band b
  let d := { unitDesc 0x01 s.planes (b % 16) (s.memberBlock b ch) wl b (s.cu x.slc) x.slc false 6 s.media.tagNext with ladder := 2 }
  let e := climb r (decodesAt r []) (s.expectHeaders p ch d) (ladder p (ladderTop d.ladder))
  let s1 := s.countRead ch e.status
  if s.wantsRefresh e.status e.corr then s1.listRefresh b ch e.rung else s1


/-- SCRUB_VISIT: the last programmed wordline of a block and one further wordline, which rotates from visit to visit, are read; the
lap ends when every block that holds valid data has been visited (R185). -/
def execScrubVisit (ch : BitVec 5) (band : BitVec 24) (last further : ReadIn) (s : State) :
    Host.Outcome State Fault Refusal :=
  let c := ch.toNat
  let b := band.toNat
  match s.media.profile with
  | none => .next s
  | some p =>
    if !(s.mediaUp && s.clock.fwUp && s.snuff.trigger.isNone && s.mayIssue 5 false && s.scrubBlocks.contains (b, c) &&
        (s.chan c).st = .active && s.canUse 0x01 6 [(0, b, c)]) then .next s
    else
      let k := wearKey c (b % 16) (s.memberBlock b c)
      let wl := tget 0 s.media.rotate k % max 1 p.wordlines
      let s1 := (s.scrubRead p c b (s.lastWordline b c) last).scrubRead p c b wl further
      let s2 := s1.onMedia fun m => { m with
        rotate := tset 0 m.rotate k ((wl + 1) % max 1 p.wordlines), visited := (b, c) :: m.visited.filter fun v => v ≠ (b, c) }
      if s2.scrubBlocks.all s2.media.visited.contains then .next s2.endScrub else .next s2

end Sys2Proof.Machine
end

