-- ==== Sys2Proof/Machine/PowerCmds.lean ====
section
/-! DEFINITION. The commands of the power manager: rails (R254), the charger (R261), temperature (R257 to R260), the gauge
(R262 to R265), the removal and brown-out wires (R268, R269), loss of VAUX (R459), and the Snuffer's flush (R272, R280). -/
namespace Sys2Proof.Machine
open Sys2Proof

/-- POWER's control logic works: the main domain runs and POWER is not in a RESTART reset. -/
def State.powerUnitUp (s : State) : Bool := s.clock.mainOn && !(s.unit .power).restart

/-- The detail of a rail cause (R499). -/
def railDetail (r : Rail) : BitVec 56 := detail [(3, railCode r)]

/-- The rail has reached power good. -/
def RailRec.good (x : RailRec) : Bool := x.st = .on || x.st = .limit

/-! ### Rails (R254) -/

/-- RAIL_UV: a rail has stayed below its UV trip for 10 µs, or stands above it again. -/
def execRailUv (r : Rail) (below : Bool) (s : State) : Host.Outcome State Fault Refusal :=
  let x := s.rail r
  if !s.clock.mainPwr || !x.good then .next s
  else if below then .next ((s.setRail r { x with uv := true }).holdCause .powerRailUv (railDetail r))
  else .next ((s.setRail r { x with uv := false }).dropCauseAt .powerRailUv (railDetail r))

/-- RAIL_OV, of a rail that ramps too: the rail is shut off until the next VIN POR, and stands below its UV trip (R254, R288). -/
def execRailOv (r : Rail) (s : State) : Host.Outcome State Fault Refusal :=
  let x := s.rail r
  if !s.clock.mainPwr || x.low then .next s
  else .next ((s.setRail r { st := .shut, uv := true, ov := true }).assertError .powerRailOv (railDetail r))

/-- RAIL_OC: the rail's current is limited while it lies above 110 % of the maximum. -/
def execRailOc (r : Rail) (beyond : Bool) (s : State) : Host.Outcome State Fault Refusal :=
  let x := s.rail r
  if !s.clock.mainPwr || !x.good then .next s
  else if beyond then .next ((s.setRail r { x with st := .limit }).holdCause .powerRailOc (railDetail r))
  else .next ((s.setRail r { x with st := .on }).dropCauseAt .powerRailOc (railDetail r))

/-- CHARGE_TIMEOUT (R261): VBANK in 0.1 V stands in the detail. -/
def execChargeTimeout (vbankMv : Nat) (s : State) : Host.Outcome State Fault Refusal :=
  if s.powerUnitUp && s.power.charging && decide (vbankMv < 27000) then
    .next ((s.onPower fun p => { p with vbank := vbankMv }).holdCause .powerChargeTimeout (detail [(16, vbankMv / 100)]))
  else .next s

/-! ### Temperature (R257 to R260, R243) -/

/-- The sensor with the highest reading, the lowest number among equals. -/
def hottestOf : List Int → Nat → Nat → Int → Nat
  | [], _, best, _ => best
  | t :: ts, i, best, top => if top < t then hottestOf ts (i + 1) i t else hottestOf ts (i + 1) best top

/-- TEMP_SAMPLE: TEMP_NOW follows the six sensors; the tenth consecutive sample at 112 °C or above asserts THERM_TRIP. In a RESTART reset of
POWER the samples go on for the thermal limit, which keeps running (R255). -/
def execTempSample (ctrl0 ctrl1 ctrl2 ctrl3 pwr wick : Int) (s : State) : Host.Outcome State Fault Refusal :=
  if !s.clock.mainOn then .next s
  else if (s.unit .power).restart then
    .next (s.onPower fun p => { p with tCtrl := max (max ctrl0 ctrl1) (max ctrl2 ctrl3), tPwr := pwr, tWick := wick })
  else
    let hot := hottestOf [ctrl1, ctrl2, ctrl3, pwr, wick] 1 0 ctrl0
    let s1 := s.onPower fun p => { p with
      tCtrl := max (max ctrl0 ctrl1) (max ctrl2 ctrl3), tPwr := pwr, tWick := wick, hottest := hot }
    let t := s1.power.temp
    let n := if 112 ≤ t then min (s.power.tripRun + 1) 10 else 0
    let s2 := s1.onPower fun p => { p with tripRun := n }
    .next (if n = 10 ∧ s.power.tripRun < 10 then s2.assertError .powerThermTrip (detail [(3, hot)]) else s2)

/-- THERMAL_LIMIT_RECOMPUTE (R259): a lower limit applies at once; a higher one after it has stayed higher for 1 s since the
limit last changed, by at most 6 W. The limit keeps running in a RESTART reset of POWER (R255). -/
def execThermalLimitRecompute (higherForMs : Nat) (s : State) : Host.Outcome State Fault Refusal :=
  let now := s.power.limitNow
  if !s.clock.mainOn then .next s
  else if now < s.power.thermal then .next (s.onPower fun p => { p with thermal := now })
  else if s.power.thermal < now ∧ 1000 ≤ higherForMs then
    .next (s.onPower fun p => { p with thermal := min now (p.thermal + 6000) })
  else .next s

/-- HEALTH_MINUTE (R243, R244): one bin, the powered time, the extreme temperatures, and the bin that HEALTH_SUMMARY shows (R246). -/
def execHealthMinute (s : State) : Host.Outcome State Fault Refusal :=
  if s.clock.mainOn then
    .next ((((s.count32 0x02 60).count32 (0x30 + tempBin s.power.temp) 1).tempWord s.power.temp).onHealth fun h =>
      { h with tempBin := tempBin s.power.temp })
  else .next s

/-! ### The gauge (R262 to R265) -/

/-- GAUGE_MEASUREMENT: a due measurement starts if it can. -/
def execGaugeMeasurement (s : State) : Host.Outcome State Fault Refusal := .next s.gaugeStart

/-- A measurement is due: not before VBANK first reaches 27.0 V after a power-up, unless one is requested or has failed. -/
def State.gaugeDue (s : State) : Bool :=
  s.power.gaugeReq || !s.intake.gaugeFirst || decide (0 < s.intake.gaugeOwed)

/-- GAUGE_DEFER_FAIL, 62 s after the previous measurement: a measurement that has started and not completed fails with reason 3
(R108, R256); a due one that has not been able to start within 2 s fails with reason 2. -/
def execGaugeDeferFail (s : State) : Host.Outcome State Fault Refusal :=
  if s.powerUnitUp && s.power.gauge = .running then .next (s.gaugeFails 3)
  else if s.powerUnitUp && s.power.gauge = .idle && !s.gaugeCan && s.gaugeDue then .next (s.gaugeFails 2) else .next s

/-- GAUGE_MEASUREMENT_DONE: the samples V0, V1 and V2 in µV give C and ESR (R263, R264); the measurement passes, or fails with
reason 1. -/
def execGaugeMeasurementDone (v0 v1 v2 : Nat) (s : State) : Host.Outcome State Fault Refusal :=
  if !(s.powerUnitUp && s.power.gauge = .running) then .next s
  else
    let c := gaugeCap v1 v2
    let e := gaugeEsr v0 v1 v2
    if c < 250 ∨ 12000 < c ∨ 250 < e then .next (s.gaugeFails 1) else .next (s.gaugePasses c e (10 * e))

/-- ENERGY_AVAIL_UPDATE (R265): the held value is computed anew; the causes that end with it end (R107, R111, R261). The bleed, which runs with
the main domain down too, ends below 5.0 V (R282). -/
def execEnergyAvailUpdate (vbankMv : Nat) (s : State) : Host.Outcome State Fault Refusal :=
  if !s.powerUnitUp then .next (s.onPower fun p => { p with bleed := p.bleed && decide (5000 ≤ vbankMv) })
  else
    let s1 := s.onPower fun p => { p with vbank := vbankMv, avail := p.availNow vbankMv }
    let s2 := if 27000 ≤ vbankMv then s1.dropCause .powerChargeTimeout else s1
    .next (if s2.intake.wtEnergy && !s2.shortfall then
      (s2.onIntake fun i => { i with wtEnergy := false }).wtUpdate else s2)

/-! ### The wires (R268, R269, R460) -/

/-- With the main domain off, PRESENT# high or VIN below 10.2 V arms VIN POR (R460). -/
def State.armVin (s : State) : State :=
  if s.clock.mainPwr then s else s.onClock fun c => { c with vinArmed := true }

/-- The tick position has reached pos (R37). -/
def State.atTick (s : State) (pos : Nat) : State := s.onLamp fun l => { l with tickPos := max l.tickPos pos }

/-- REMOVAL_DETECT: PRESENT# has been high for 2 µs; pos is the tick position at the trigger (R277). -/
def execRemovalDetect (pos : Nat) (s : State) : Host.Outcome State Fault Refusal :=
  if s.clock.vauxPor then .next s
  else .next (((s.atTick pos).onPower fun p => { p with absent := true, removal := true }).trigger 4 1 true false).armVin

/-- PRESENT_LOW_QUALIFY: PRESENT# has been low for 10 ms. -/
def execPresentLowQualify (s : State) : Host.Outcome State Fault Refusal :=
  if s.clock.vauxPor then .next s else .next (s.onPower fun p => { p with absent := false, removal := false })

/-- Where the trigger takes the rails down at once, the collector has taken VIN_OV before POWER goes down with its report (R269, R271, R436). -/
def State.reportOv (s : State) : State :=
  if s.clock.mainPwr && !s.running then (s.resetSource 3).takeReport .power else s

/-- BROWN_OUT: VIN has been below 10.2 V, or above 14.5 V, for 20 µs; pos is the tick position at the trigger (R277). -/
def execBrownOut (beyond : Bool) (pos : Nat) (s : State) : Host.Outcome State Fault Refusal :=
  if s.clock.vauxPor then .next s
  else
    let s1 := (s.atTick pos).onPower fun p => { p with vin := false, brown := true }
    if beyond then .next ((s1.holdCause .powerVinOv 0).reportOv.trigger 3 3 true false)
    else .next ((s1.dropCause .powerVinOv).trigger 2 2 true false).armVin

/-- VAUX_LOSS (R459): while the main domain is powered, its power path feeds the VAUX domain without interruption. -/
def execVauxLoss (s : State) : Host.Outcome State Fault Refusal :=
  .next (s.onClock fun c => { c with vauxPin := false, vauxAlt := c.vauxAlt || c.mainPwr })

/-! ### The flush -/

/-- BANK_LOW_ABORT (R280). -/
def execBankLowAbort (s : State) : Host.Outcome State Fault Refusal := .next s.flushAbort

end Sys2Proof.Machine
end

