-- ==== Sys2Proof/Machine/HostPort.lean ====
section
/-! DEFINITION. The PCI Express port: bring-up and resets (R294, R314 to R317), configuration writes (R290, R312), BAR0 reads
(R296), the doorbells, setup records, mirror base and mailbox of BAR2 (R148, R297 to R303), and seal marks (R313). -/
namespace Sys2Proof.Machine
open Sys2Proof

/-- HOST works: the main domain runs and HOST is not in a RESTART reset. -/
def State.hostUp (s : State) : Bool := s.clock.mainOn && !s.stopped .host

/-! ### Pending vectors (R297, R311) -/

/-- A pending vector that can be signalled now is signalled, and its pending bit cleared. -/
def State.sendPending (s : State) (v : Nat) : State :=
  if s.host.pba.getLsbD v && s.host.msixOn && !s.host.vectorMasked v && s.upstreamOpen then
    (s.onHost fun h => { h with pba := h.pba &&& ~~~(1#64 <<< v) }).issue (.vector v)
  else s

/-- Every pending vector that can be signalled now. -/
def State.sendVectors (s : State) : State := (List.range 64).foldl State.sendPending s

/-! ### Bring-up and resets (R294, R314, R315) -/

/-- PERST_ASSERT (R314): the pin falls and HOST is reset; with the VAUX domain down nothing but the pin changes. -/
def execPerstAssert (s : State) : Host.Outcome State Fault Refusal :=
  let s1 := s.onHost fun h => { h with perst := true }
  if s.clock.vauxPor then .next s1
  else
    let s2 := s1.resetSource 5
    .next (if s.clock.mainOn then s2.portReset else s2)

/-- PERST_DEASSERT (R294): with HOST released, training begins. -/
def execPerstDeassert (s : State) : Host.Outcome State Fault Refusal :=
  .next (s.onHost fun h => { h with perst := false, training := h.training || (h.perst && s.hostUp) })

/-- The link can train: its PLL runs, and not on the fallback of a CLK_MODE that leaves none (R471). -/
def State.canTrain (s : State) : Bool :=
  s.clock.pllPcie.up && !(s.clock.pllPcie.fallback && s.clock.clkMode.getLsbD 0)

/-- DL_ACTIVE (R87, R291, R294): the trained link reaches DL_Active once the initial advertisement is admitted. -/
def execDlActive (s : State) : Host.Outcome State Fault Refusal :=
  if s.hostUp && s.host.training && !s.host.perst && s.intake.advertised && s.canTrain then
    .next ((s.onHost fun h => { h with dlActive := true, training := false }).dropCause .hostLinkDown).sendMarks
  else .next s

/-- TRAIN_FAIL (R317): no DL_Active within 1 s. -/
def execTrainFail (s : State) : Host.Outcome State Fault Refusal :=
  if s.hostUp && s.host.training && !s.host.perst then .next (s.assertError .hostTrainFail 0) else .next s

/-- SURPRISE_DOWN (R314, R316, R317): the loss of the link; it trains again. -/
def execSurpriseDown (kind : LinkLoss) (s : State) : Host.Outcome State Fault Refusal :=
  if !s.hostUp || !(s.host.dlActive || s.host.training) then .next s
  else
    let s1 := s.portReset.onHost fun h => { h with training := !h.perst }
    .next (if s.host.dlActive then
      (s1.count32 0x2C 1).holdCause .hostLinkDown (detail [(2, lossCode kind)]) else s1)

/-- FUNCTION_LEVEL_RESET (R314, R315). -/
def execFunctionLevelReset (s : State) : Host.Outcome State Fault Refusal :=
  if s.portUp then .next s.functionReset else .next s

/-- D3HOT_ENTRY (R314): the rings pause; everything else stands. -/
def execD3hotEntry (s : State) : Host.Outcome State Fault Refusal :=
  if s.portUp then .next (s.onHost fun h => { h with d3hot := true }) else .next s

/-- D0_RETURN (R315). -/
def execD0Return (s : State) : Host.Outcome State Fault Refusal :=
  if s.portUp then .next (s.onHost fun h => { h with d3hot := false }).sendMarks else .next s

/-! ### Configuration (R290, R293, R312) -/

/-- The capabilities of the function (R293). -/
inductive Capability where
  | powerManagement | msix | pciExpress | aer | deviceSerial | secondaryPcie | dataLinkFeature | phy16 | phy32 | laneMargining
  deriving DecidableEq, Repr

/-- What the configuration header and the capabilities say of the function (R293). -/
structure ConfigIdentity where
  vendor       : BitVec 16
  device       : BitVec 16
  revision     : Byte
  classCode    : BitVec 24
  subVendor    : BitVec 16
  subsystem    : BitVec 16
  /-- BAR0 and BAR1 as they read: address, with type bits 64-bit and prefetchable -/
  bar0         : BitVec 64
  /-- BAR2 and BAR3 as they read: address, with type bits 64-bit and non-prefetchable -/
  bar2         : BitVec 64
  /-- BAR4, BAR5 and the Expansion ROM -/
  absent       : Word
  serial       : BitVec 64
  capabilities : List Capability
  deriving DecidableEq, Repr

/-- Unit 1 of the OTP row counts as blank: no byte of it is programmed, or its CRC does not match (R430). -/
def WickState.builderBlank (w : WickState) : Bool :=
  ((w.otpBytes 32 32).all fun b => b == 0xFF) || w.otpBytes 60 4 != leBytes 4 (crc32c (w.otpBytes 32 28)).toNat

/-- ID_REV (R500): the revisions of the three dies and of the register map. -/
def idRev : Word := 0x01010101

/-- The configuration identity (R293): the Subsystem IDs of a blank unit 1 are 0x1F2C and 0x0000. Where unit 0 or 1 cannot be corrected, the
manual does not say what its fields show: unit 1, which is not intact (R432), counts as blank, and the serial number is free (DESIGN CHOICE, log
139). -/
def State.configIdentity (s : State) : ConfigIdentity :=
  let blank := s.wick.builderBlank || s.wick.otpBad.contains 1
  let serial := if s.wick.otpBad.contains 0 then (List.range 8).map fun k => Config.otpBad k s.draws else s.wick.otpBytes 0 8
  { vendor := 0x1F2C, device := 0x6480, revision := idRev.setWidth 8, classCode := 0x018000
    subVendor := if blank then 0x1F2C else BitVec.ofNat 16 (leNat (s.wick.otpBytes 32 2))
    subsystem := if blank then 0 else BitVec.ofNat 16 (leNat (s.wick.otpBytes 34 2))
    bar0 := s.host.bar0 ||| 0xC, bar2 := s.host.bar2 ||| 0x4, absent := 0
    serial := BitVec.ofNat 64 (leNat serial)
    capabilities := [.powerManagement, .msix, .pciExpress, .aer, .deviceSerial, .secondaryPcie, .dataLinkFeature, .phy16, .phy32,
      .laneMargining] }

/-- A Max Payload Size of R290. -/
def mpsOk (n : Nat) : Bool := n == 128 || n == 256 || n == 512

/-- A Max Read Request Size of R290. -/
def mrrsOk (n : Nat) : Bool := n == 128 || n == 256 || n == 512 || n == 1024 || n == 2048 || n == 4096

/-- MSI-X table words written by the host; the table has 256 words (R297). -/
def putMsix (t : Sparse Word) : List (Nat × Word) → Sparse Word
  | [] => t
  | (i, w) :: ws => putMsix (if i < 256 then tset 0 t i w else t) ws

/-- CONFIG_WRITE (R290, R293, R296, R312): the fields take their values, a base address above its region's size; vectors and marks that
waited are sent if they can be. -/
def execConfigWrite (bar0 bar2 : BitVec 64) (mse bme : Bool) (ctl : DevCtl) (mps mrrs : Nat) (msixOn msixMask : Bool) (msix : List (Nat × Word)) (s : State) :
    Host.Outcome State Fault Refusal :=
  if s.portUp then
    .next ((s.onHost fun h => { h with
      bar0 := bar0 &&& 0xFFFFFFFF00000000, bar2 := bar2 &&& 0xFFFFFFFFFFF00000, mse := mse, bme := bme, ctl := ctl
      mps := if mpsOk mps then mps else h.mps, mrrs := if mrrsOk mrrs then mrrs else h.mrrs
      msixOn := msixOn, msixMask := msixMask, msix := putMsix h.msix msix }).sendVectors.sendMarks)
  else .next s

/-! ### Memory requests -/

/-- A memory request other than a write to BAR0 reaches the function: Memory Space Enable is set and it is in D0 (R296,
R315). -/
def State.barOpen (s : State) : Bool := s.portUp && s.host.mse && !s.host.d3hot

/-- A request to BAR0 that is no memory write. -/
inductive BarRequest where
  | read (len : Nat)
  | other
  deriving DecidableEq, Repr

/-- How such a request completes: a read with all-zero data; any other with Unsupported Request, which carries none (R296). -/
def bar0Completion : BarRequest → Option (List Byte)
  | .read len => some (List.replicate (min len 4096) 0)
  | .other => none

/-- BAR0_READ (R296). -/
def execBar0Read (_off : BitVec 32) (len : Nat) (s : State) : Host.Outcome State Fault Refusal :=
  if s.barOpen then .next (s.onHost fun h => { h with barRead := (bar0Completion (.read len)).getD [] }) else .next s

/-! ### Ring records (R299, R302) -/

/-- A submission ring. -/
def State.sq (s : State) (i : Nat) : SRing := tget SRing.none s.host.sqs i
/-- A completion ring. -/
def State.cq (s : State) (j : Nat) : CRing := tget CRing.none s.host.cqs j
/-- Change a submission ring. -/
def State.modSq (s : State) (i : Nat) (f : SRing → SRing) : State :=
  s.onHost fun h => { h with sqs := tset SRing.none h.sqs i (f (tget SRing.none h.sqs i)) }
/-- Change a completion ring. -/
def State.modCq (s : State) (j : Nat) (f : CRing → CRing) : State :=
  s.onHost fun h => { h with cqs := tset CRing.none h.cqs j (f (tget CRing.none h.cqs j)) }

/-- The 32 bytes of a submission ring's setup record. -/
def SRing.bytes (r : SRing) : List Byte :=
  leBytes 8 r.base.toNat ++ leBytes 2 r.entries ++ [BitVec.ofNat 8 (r.cq % 32), if r.enable then 1 else 0] ++
  List.replicate 20 0

/-- The 32 bytes of a completion ring's setup record. -/
def CRing.bytes (r : CRing) : List Byte :=
  leBytes 8 r.base.toNat ++ leBytes 2 r.entries ++
  [BitVec.ofNat 8 r.coCount, BitVec.ofNat 8 r.coTime, if r.enable then 1 else 0] ++ List.replicate 19 0

/-- Bytes written over a record from an offset. -/
def overlay (rec : List Byte) (off : Nat) (data : List Byte) : List Byte :=
  rec.take off ++ data ++ rec.drop (off + data.length)

/-- A byte of a record. -/
def byteAt (rec : List Byte) (i : Nat) : Byte := rec.getD i 0

/-- A submission ring's fields from its record; bits that the layout gives no field are not held. -/
def SRing.fromBytes (r : SRing) (b : List Byte) : SRing :=
  { r with base := BitVec.ofNat 64 (leNat (b.take 8)), entries := leNat ((b.drop 8).take 2)
           cq := (byteAt b 10).toNat % 32, enable := (byteAt b 11).getLsbD 0 }

/-- A completion ring's fields from its record. -/
def CRing.fromBytes (r : CRing) (b : List Byte) : CRing :=
  { r with base := BitVec.ofNat 64 (leNat (b.take 8)), entries := leNat ((b.drop 8).take 2)
           coCount := (byteAt b 10).toNat, coTime := (byteAt b 11).toNat, enable := (byteAt b 12).getLsbD 0 }

/-- A base is 4 KiB aligned and entries is a power of 2 from 16 to 4,096 (R299). -/
def ringOk (base : BitVec 64) (entries : Nat) : Bool :=
  base &&& 0xFFF#64 == 0 &&
  (entries == 16 || entries == 32 || entries == 64 || entries == 128 || entries == 256 || entries == 512 ||
   entries == 1024 || entries == 2048 || entries == 4096)

/-- A submission ring's fields are valid, and its completion ring is enabled with valid fields. -/
def State.sqOk (s : State) (r : SRing) : Bool :=
  let c := s.cq r.cq
  ringOk r.base r.entries && c.enable && ringOk c.base c.entries

/-- A submission ring enters ERROR: 1 SETUP, 2 DOORBELL, 3 FETCH; vector 33 is signalled (R302, R311). -/
def State.sqError (s : State) (i : Nat) (cause : BitVec 4) : State :=
  (s.modSq i fun r => { r with error := cause }).signal 33

/-- ENABLE of a submission ring is set (R299). -/
def State.startSq (s : State) (i : Nat) (r : SRing) : State :=
  let s1 := s.modSq i fun _ => { r with head := 0, tail := 0, error := 0 }
  if s.sqOk r then s1 else s1.sqError i 1

/-- A write to a submission ring's record (R299). -/
def State.writeSq (s : State) (i off : Nat) (data : List Byte) : State :=
  let r := s.sq i
  let n := r.fromBytes (overlay r.bytes off data)
  if r.enable then (if n.enable then s else s.modSq i fun _ => { n with error := 0 })
  else if n.enable then s.startSq i n
  else s.modSq i fun _ => n

/-- Completion ring j may not be disabled: an enabled submission ring names it, or a completion is still to be posted. -/
def State.cqHeld (s : State) (j : Nat) : Bool :=
  s.host.sqs.any (fun x => x.2.enable && x.2.cq == j) || s.host.active.any fun d => d.cq == j

/-- A write to a completion ring's record (R299, R300). -/
def State.writeCq (s : State) (j off : Nat) (data : List Byte) : State :=
  let r := s.cq j
  let n := r.fromBytes (overlay r.bytes off data)
  if r.enable then (if n.enable || s.cqHeld j then s else s.modCq j fun _ => n)
  else if n.enable then s.modCq j fun _ => { n with head := 0, post := 0, phase := true, since := 0 }
  else s.modCq j fun _ => n

/-- An aligned write of 4 or 8 bytes within a record (R299). -/
def recordWriteOk (off : Nat) (data : List Byte) : Bool :=
  (data.length == 4 || data.length == 8) && off % data.length == 0

/-- SETUP_RECORD_WRITE (R299). -/
def execSetupRecordWrite (completion : Bool) (ring : BitVec 5) (off : BitVec 5) (data : List Byte) (s : State) :
    Host.Outcome State Fault Refusal :=
  if !s.barOpen then .next s
  else
    let s1 := s.consume data.length
    if !recordWriteOk off.toNat data then .next s1
    else .next (if completion then s1.writeCq ring.toNat off.toNat data else s1.writeSq ring.toNat off.toNat data)

/-- The rings are paused: D3hot, BOOT or RECOVER (R302). -/
def State.ringsPaused (s : State) : Bool := s.host.d3hot || s.clock.dev = .boot || s.clock.dev = .recover

/-- The state of a submission ring: 0 DISABLED, 1 RUNNING, 2 ERROR, 3 PAUSED (R302). -/
def State.sqState (s : State) (r : SRing) : Nat :=
  if !r.enable then 0 else if r.error ≠ 0 then 2 else if s.ringsPaused then 3 else 1

/-- The status word of submission ring i (R302). -/
def State.sqStatus (s : State) (i : Nat) : Word :=
  let r := s.sq i
  BitVec.ofNat 32 (packBits [(16, r.head), (2, s.sqState r), (2, 0), (4, r.error.toNat)])

/-! ### Doorbells (R303) -/

/-- TAIL_DOORBELL: a new tail, or ERROR with cause DOORBELL. -/
def execTailDoorbell (ring : BitVec 5) (v : Word) (s : State) : Host.Outcome State Fault Refusal :=
  if !s.barOpen then .next s
  else
    let s1 := s.consume 4
    let i := ring.toNat
    let r := s.sq i
    let t := v.toNat % 65536
    if !r.enable || r.error ≠ 0 then .next s1
    else if r.entries ≤ t then .next (s1.sqError i 2)
    else .next (s1.modSq i fun r => { r with tail := t })

/-- The enabled submission rings that name completion ring j and are not in ERROR already. -/
def State.namers (s : State) (j : Nat) : List Nat :=
  (List.range 32).filter fun i => (s.sq i).enable && (s.sq i).cq == j && (s.sq i).error == 0

/-- HEAD_DOORBELL: entries are free again, or every submission ring that names the ring is in ERROR with cause DOORBELL. -/
def execHeadDoorbell (ring : BitVec 5) (v : Word) (s : State) : Host.Outcome State Fault Refusal :=
  if !s.barOpen then .next s
  else
    let s1 := s.consume 4
    let j := ring.toNat
    let c := s.cq j
    let h := v.toNat % 65536
    if !c.enable then .next s1
    else if c.entries ≤ h then .next ((s.namers j).foldl (fun t i => t.sqError i 2) s1)
    else .next (s1.modCq j fun r => { r with head := h })

/-! ### Mirror base, mailbox, other writes -/

/-- MIRROR_BASE_WRITE (R301): 8 bytes. -/
def execMirrorBaseWrite (v : BitVec 64) (s : State) : Host.Outcome State Fault Refusal :=
  if s.barOpen then .next ((s.consume 8).onHost fun h => { h with mirBase := v }) else .next s

/-- A mark is accepted in mailbox slot k (R148). -/
def State.markOk (s : State) (k : Nat) (data : List Byte) : Bool :=
  data.length == 16 && leNat (data.take 2) == s.link.setId.toNat && (byteAt data 2).toNat == k &&
  decide (k < s.link.count) && k != s.link.member &&
  leNat (data.drop 12) == (crc32c (data.take 12)).toNat &&
  decide (s.mOf k < leNat ((data.drop 4).take 8))

/-- An accepted mark raises m_p; a missing peer is back (R148, R150). -/
def State.acceptMark (s : State) (k : Nat) (data : List Byte) : State :=
  let back := s.host.missing.getLsbD k
  let s1 := s.onHost fun h => { h with
    mp := tset 0 h.mp k (leNat ((data.drop 4).take 8)), mailbox := tset [] h.mailbox k data
    missing := h.missing &&& ~~~(1#6 <<< k) }
  if back then s1.raise .setRestored else s1

/-- SET_MAILBOX_WRITE (R148, R150): slots 6 and 7 are reserved offsets. -/
def execSetMailboxWrite (slot : BitVec 3) (data : List Byte) (s : State) : Host.Outcome State Fault Refusal :=
  if !s.barOpen then .next s
  else
    let s1 := s.consume data.length
    let k := slot.toNat
    if 6 ≤ k then .next s1
    else if s.markOk k data then .next (s1.acceptMark k data)
    else .next (s1.count32 0x2B 1)

/-- BAR2_BAD_WRITE (R60, R148, R298): a write of the wrong size, or one that crosses an entry, is discarded; it counts at a
close doorbell and at a mailbox slot. -/
def execBar2BadWrite (off : BitVec 20) (len : Nat) (s : State) : Host.Outcome State Fault Refusal :=
  if !s.barOpen then .next s
  else
    let s1 := s.consume len
    let o := off.toNat
    if o < 0x2000 ∧ (len ≠ 8 ∨ o % 8 ≠ 0) then .next (s1.count32 0x28 1)
    else if 0x3000 ≤ o ∧ o < 0x3060 ∧ (len ≠ 16 ∨ o % 16 ≠ 0) then .next (s1.count32 0x2B 1)
    else .next s1

/-- SEAL_MARK_ABANDON (R313): the oldest mark that waits is abandoned. -/
def execSealMarkAbandon (s : State) : Host.Outcome State Fault Refusal :=
  .next (s.onHost fun h => { h with marksDue := h.marksDue.drop 1 })

end Sys2Proof.Machine
end

