-- ==== Sys2Proof/Machine/Rings.lean ====
section
/-! DEFINITION. Host descriptors: their fetch (R304, R305), the four opcodes (R306, R307), completions (R308), and coalescing
(R309). -/
namespace Sys2Proof.Machine
open Sys2Proof

/-! ### Status codes (R308) -/

/-- The status codes. -/
inductive HStatus where
  | ok | okShort | invalid | range | trimmed | noStream | dataError | notHeld | readOnly | hostError
  deriving DecidableEq, Repr

/-- Codes of R308. -/
def hstatusCode : HStatus → Byte
  | .ok => 0x00 | .okShort => 0x01 | .invalid => 0x10 | .range => 0x11 | .trimmed => 0x12 | .noStream => 0x13
  | .dataError => 0x14 | .notHeld => 0x15 | .readOnly => 0x16 | .hostError => 0x17

/-! ### Fetch (R304, R305) -/

/-- Completion entries of ring j that are neither taken by the host's view nor reserved: a ring of n entries holds n − 1. -/
def State.cqRoom (s : State) (j : Nat) : Nat :=
  let c := s.cq j
  let used := if c.entries = 0 then 0 else (c.post + c.entries - c.head % c.entries) % c.entries
  (c.entries - 1) - used - (s.host.active.filter fun d => d.cq == j).length

/-- Ring i may fetch (R304). -/
def State.mayFetch (s : State) (i : Nat) : Bool :=
  let r := s.sq i
  s.sqState r == 1 && r.head != r.tail && (s.cq r.cq).enable && decide (0 < s.cqRoom r.cq)

/-- The next ring in round-robin order after the last one fetched from (R304). -/
def State.nextRing (s : State) : Option Nat :=
  ((List.range 32).map fun k => (s.host.lastRing + 1 + k) % 32).find? s.mayFetch

/-- DEV_STATE admits fetches (R304). -/
def State.fetchState (s : State) : Bool := s.running || s.clock.dev = .readOnly

/-- A reserved bit of the descriptor is not 0 (R305). -/
def descReserved (b : List Byte) : Bool :=
  byteAt b 1 &&& 0xFE != 0 || leNat ((b.drop 20).take 4) != 0 ||
  (if byteAt b 0 = 1 then leNat ((b.drop 2).take 2) / 1024 != 0 else leNat ((b.drop 2).take 2) != 0)

/-- A descriptor from its 32 bytes (R305). -/
def descOf (id ring cq headAft : Nat) (b : List Byte) : HDesc :=
  { id := id, ring := ring, cq := cq, opcode := byteAt b 0, noIrq := (byteAt b 1).getLsbD 0
    stream := BitVec.ofNat 16 (leNat ((b.drop 2).take 2)), tag := BitVec.ofNat 32 (leNat ((b.drop 4).take 4))
    start := BitVec.ofNat 64 (leNat ((b.drop 8).take 8)), len := BitVec.ofNat 32 (leNat ((b.drop 16).take 4))
    buffer := BitVec.ofNat 64 (leNat ((b.drop 24).take 8)), badRes := descReserved b, headAft := headAft, count := 0
    reserved := 0, status := none, awaits := [] }

/-- The length of a descriptor is in its opcode's range (R306). -/
def HDesc.lenOk (d : HDesc) : Bool :=
  let n := d.len.toNat
  match d.opcode.toNat with
  | 1 => decide (1 ≤ n) && decide (n ≤ 16777216)
  | 2 | 3 => decide (1 ≤ n) && decide (n ≤ 256)
  | 4 => decide (16 ≤ n)
  | _ => false

/-- Opcode, stream index, length or a reserved byte is out of range: INVALID (R308). -/
def HDesc.screened (d : HDesc) : HDesc :=
  if d.badRes || !d.lenOk then { d with status := some (hstatusCode .invalid) } else d

/-- DESCRIPTOR_FETCH (R304, R305): the next ring's descriptor arrives, or its fetch fails; one that an uncorrectable word holds
completes INVALID (R317). -/
def execDescriptorFetch (r : HostRead) (eccBad : Bool) (s : State) : Host.Outcome State Fault Refusal :=
  if !(s.upstreamOpen && s.hostUp && s.fetchState && decide (s.host.active.length < 256)) then .next s
  else
    match s.nextRing with
    | none => .next s
    | some i =>
      let q := s.sq i
      match r with
      | .failed => .next ((s.onHost fun h => { h with lastRing := i }).sqError i 3)
      | .ok b =>
        if b.length ≠ 32 then .fault .illFormedCommand
        else
          let h2 := if q.entries = 0 then 0 else (q.head + 1) % q.entries
          let d0 := (descOf s.host.nextId i q.cq h2 b).screened
          let d := if eccBad then { d0 with status := some (hstatusCode .invalid) } else d0
          let s1 := (s.modSq i fun r => { r with head := h2 }).onHost fun h =>
            { h with lastRing := i, active := h.active ++ [d], nextId := h.nextId + 1 }
          .next (if eccBad then s1.assertError .hostRingEcc 0 else s1)

/-! ### Descriptors in progress -/

/-- A descriptor in progress. -/
def State.hdesc (s : State) (id : Nat) : Option HDesc := s.host.active.find? fun d => d.id == id

/-- Change a descriptor in progress. -/
def State.modDesc (s : State) (id : Nat) (f : HDesc → HDesc) : State :=
  s.onHost fun h => { h with active := h.active.map fun d => if d.id = id then f d else d }

/-- The descriptor has started, or ended. -/
def HDesc.started (d : HDesc) : Bool := d.status.isSome || decide (0 < d.reserved)

/-- Descriptors of one ring start in ring order (R310). -/
def State.turnOf (s : State) (d : HDesc) : Bool :=
  s.host.active.all fun x => x.ring != d.ring || decide (d.id ≤ x.id) || x.started

/-- The descriptor with this opcode whose turn it is to act, while its data can be moved (R312). -/
def State.ready (s : State) (id : Nat) (op : Byte) : Option HDesc :=
  if !(s.upstreamOpen && s.hostUp) then none
  else
    match s.hdesc id with
    | some d => if d.opcode = op ∧ d.status = none ∧ s.turnOf d then some d else none
    | none => none

/-- A descriptor ends with a status and a count. -/
def State.endDesc (s : State) (id : Nat) (st : HStatus) (count : Nat) : State :=
  s.modDesc id fun d => { d with status := some (hstatusCode st), count := count }

/-- The memory writes that carry bytes to an address: each within the Max Payload Size and one 4 KiB block, as PCI Express demands (R290, R312);
n bounds their number. -/
def dataWrites (mps : Nat) (relaxed : Bool) : Nat → BitVec 64 → List Byte → List Upstream
  | 0, _, _ => []
  | n + 1, a, bs =>
    if bs.isEmpty then []
    else
      let k := min mps (4096 - a.toNat % 4096)
      .data a (bs.take k) relaxed :: dataWrites mps relaxed n (a + BitVec.ofNat 64 k) (bs.drop k)

/-- Data goes to the host's buffer, with Relaxed Ordering if it is enabled (R312). -/
def State.sendData (s : State) (a : BitVec 64) (bs : List Byte) : State :=
  (dataWrites s.host.mps s.host.ctl.relaxed bs.length a bs).foldl State.issue s

/-! ### READ_STREAM (R91, R306) -/

/-- The bytes that pieces in offset order give from a position up to an end. -/
def gather : List Piece → Nat → Nat → List Byte
  | [], _, _ => []
  | p :: ps, pos, stop =>
    if p.off ≤ pos ∧ pos < p.off + p.data.length ∧ pos < stop then
      let bs := (p.data.drop (pos - p.off)).take (stop - pos)
      bs ++ gather ps (pos + bs.length) stop
    else gather ps pos stop

/-- The check of a READ_STREAM descriptor when it starts (R306, R308). -/
def State.streamCheck (s : State) (d : HDesc) : Option HStatus :=
  let e := s.stream d.stream.toNat
  if e.st = .free || e.delPend then some .noStream
  else if d.start.toNat < e.trim then some .trimmed
  else if e.accept < d.start.toNat + d.len.toNat then some .range
  else none

/-- What came back for a piece: its bytes as stored, or other bytes, or none at all, with the bytes of the piece that read-out then
delivers (R21, R103). The list names pieces by their key: first byte in the stream, or unit. -/
def State.cameBack (s : State) (back : List (Nat × Option (List Byte))) (k : Nat) (p : Piece) : Option (List Byte) :=
  match back.find? fun x => x.1 == k with
  | none => some p.data
  | some (_, none) => none
  | some (_, some bs) => p.readBack s.intake.key bs

/-- The pieces of stream i in offset order, as read-out delivers them; those that fail their check are not among them. -/
def State.readPieces (s : State) (i : Nat) (back : List (Nat × Option (List Byte))) : List Piece :=
  let e := s.stream i
  (sortBy (fun (a b : Piece) => decide (a.off ≤ b.off))
    (s.place.pieces.filter fun p => p.unit.isNone && p.stream == i && p.epoch == e.epoch)).filterMap fun p =>
      (s.cameBack back p.off p).map fun d => { p with data := d }

/-- The bytes of stream i that read-out delivers from an offset on, up to n of them and to the first that it lacks (R91). -/
def State.streamBytes (s : State) (i off n : Nat) (back : List (Nat × Option (List Byte))) : List Byte :=
  gather (s.readPieces i back) off (off + n)

/-- The run pages that a lookup of bytes lo to hi − 1 of a stream reads under some entries: n levels of them (R208). -/
def State.pagesOver (s : State) (lo hi : Nat) : Nat → List Run → List Loc
  | 0, _ => []
  | n + 1, rs =>
    (rs.filter fun r => r.leaf != 0 && decide (r.off < hi) && decide (lo < r.off + r.len)).flatMap fun r =>
      r.loc :: match s.place.runPages.find? fun x => x.1 == r.loc with
        | some x => s.pagesOver lo hi n x.2.entries
        | none => []

/-- The run pages that a lookup reads, at most 3 for one byte (R208). -/
def State.lookupPages (s : State) (i lo hi : Nat) : List Loc :=
  (s.pagesOver lo hi 3 (s.place.runs.filter fun r => r.stream == i)).eraseDups

/-- The Back core's cache of 64 run pages after a lookup: a page that leaves it is one not used for longest; the manual does not say which
leaves (R208; DESIGN CHOICE, log 151). -/
def State.cachePages (s : State) (ls : List Loc) : State :=
  s.onPlace fun p => { p with
    runCache := ((ls.reverse ++ p.runCache).eraseDups.filter fun l => p.runPages.any fun x => x.1 == l).take 64 }

/-- The codewords that a READ_STREAM reads from flash: run pages that the Back core does not hold, and the pieces that the Tun no longer holds
(R91, R208). -/
def State.streamReads (s : State) (i lo hi : Nat) : List Loc :=
  let e := s.stream i
  ((s.lookupPages i lo hi).filter fun l => !s.place.runCache.contains l) ++
  (s.place.pieces.filter fun p => p.unit.isNone && p.stream == i && p.epoch == e.epoch && !p.inTun && decide (p.off < hi) &&
    decide (lo < p.off + p.data.length)).filterMap Piece.place

/-- Codewords may be read from flash for a host's read: at class 3, while MEDIA runs (R188). -/
def State.hostReads (s : State) (ls : List Loc) : Bool := ls.isEmpty || (!s.stopped .media && s.canRead 3 ls)

/-- READ_STREAM: the bytes up to the first chunk that is not delivered go to the buffer (R21, R103, R306, R308). -/
def execReadStream (id : Nat) (back : List (Nat × Option (List Byte))) (s : State) : Host.Outcome State Fault Refusal :=
  match s.ready id 1 with
  | none => .next s
  | some d =>
    match s.streamCheck d with
    | some st => .next (s.endDesc id st 0)
    | none =>
      let a := d.start.toNat
      let n := d.len.toNat
      let i := d.stream.toNat
      if !s.hostReads (s.streamReads i a (a + n)) then .next s
      else
        let bs := s.streamBytes i a n back
        let t := s.cachePages (s.lookupPages i a (a + n))
        if bs.length = n then .next ((t.sendData d.buffer bs).endDesc id .ok n)
        else
          let k := (a + bs.length) / 4096 * 4096 - a
          .next ((t.sendData d.buffer (bs.take k)).endDesc id .dataError k)

/-! ### READ_RANDOM (R218, R306) -/

/-- The newest write of a random-region unit that the part holds. -/
def State.unitPiece (s : State) (u : Nat) : Option Piece :=
  s.place.pieces.foldl (fun b p =>
    if p.unit = some u then
      match b with
      | none => some p
      | some q => if q.seq < p.seq then some p else b
    else b) none

/-- The bytes of a unit as read-out delivers them; an unmapped unit reads as zeros (R103, R218). -/
def State.unitData (s : State) (back : List (Nat × Option (List Byte))) (u : Nat) : Option (List Byte) :=
  match s.unitPiece u with
  | some p => s.cameBack back u p
  | none => some (List.replicate 4096 0)

/-- The units of a read up to the first that is not delivered. -/
def State.unitRun (s : State) (back : List (Nat × Option (List Byte))) : List Nat → List (List Byte)
  | [] => []
  | u :: us =>
    match s.unitData back u with
    | some d => d :: s.unitRun back us
    | none => []

/-- A unit range lies in the random region. -/
def State.unitsOk (s : State) (d : HDesc) : Bool := decide (d.start.toNat + d.len.toNat ≤ s.randUnits)

/-- The map pages that units lie in are looked up (R220 to R222): a page's frame is used, or taken into the Grist first. No answer: a miss
finds no CLEAN frame. -/
def State.lookUp : State → List Nat → Option State
  | s, [] => some s
  | s, p :: ps =>
    if s.hasFrame p then (s.useFrame p).lookUp ps
    else
      match s.gristMiss p with
      | some t => t.lookUp ps
      | none => none

/-- A page is still on its way from the Cellar (R221, R225). -/
def State.fetching (s : State) (p : Nat) : Bool := (tget frameNone s.place.frames p).st = .fetching

/-- The flash codewords of units that the Tun no longer holds. -/
def State.unitReads (s : State) (us : List Nat) : List Loc :=
  us.filterMap fun u => (s.unitPiece u).bind fun p => if p.inTun then none else p.place

/-- READ_RANDOM: the units up to the first that is not delivered; it waits for its map pages. A unit is a chunk of 4,096 bytes, so the count of
DATA_ERROR, an offset in the request, is in bytes (R103, R222, R306, R308; log 94). -/
def execReadRandom (id : Nat) (back : List (Nat × Option (List Byte))) (s : State) : Host.Outcome State Fault Refusal :=
  match s.ready id 2 with
  | none => .next s
  | some d =>
    if !s.unitsOk d then .next (s.endDesc id .range 0)
    else if s.stopped .grist then .next s
    else
      let n := d.len.toNat
      let us := List.range' d.start.toNat n
      let pages := (us.map fun u => (unitLine u).1).eraseDups
      match s.lookUp pages with
      | none => .next s.makeRoom
      | some t =>
        if pages.any t.fetching || !t.hostReads (t.unitReads us) then .next t
        else
          let got := t.unitRun back us
          let u := t.sendData d.buffer got.flatten
          .next (if got.length = n then u.endDesc id .ok n else u.endDesc id .dataError (4096 * got.length))

/-! ### WRITE_RANDOM (R307) -/

/-- Tun bytes of a unit: 256 data blocks and the trailer (R85, R100). -/
def unitTun : Nat := 4112

/-- The unit's line is neither dirty nor reserved: g of R105 is 64 (R221). -/
def State.lineNew (s : State) (u : Nat) : Bool := !(s.lineDirty (unitLine u)) && !(s.reservedLines.contains (unitLine u))

/-- INTAKE admits the reservation of one unit (R86, R105, R201, R221, R238, R276). -/
def State.reserveOk (s : State) (u : Nat) : Bool :=
  let g := if s.lineNew u then 1 else 0
  s.clock.mainOn && !s.stopped .intake && !s.stopped .grist && s.snuff.trigger.isNone && s.running &&
  decide (s.bPend + unitTun ≤ pendBound) && (s.writeThrough || s.gate 4096 (64 * g)) && !s.withheld &&
  decide (s.dirtyLines + g ≤ 131072)

/-- One unit of descriptor d is reserved, its map page taken into the Grist first; no answer: it waits. -/
def State.reserveUnit (s : State) (d : HDesc) (k : Nat) : Option State :=
  let u := d.start.toNat + k
  if !s.reserveOk u then none
  else
    (if s.hasFrame (unitLine u).1 then some s else s.gristMiss (unitLine u).1).map fun t =>
      (t.onIntake fun i => { i with reserved := i.reserved + unitTun }).modDesc d.id fun x => { x with reserved := k + 1 }

/-- Reserve units in ascending order, from k on, at most n of them, until one has to wait. -/
def State.reserveUnits (s : State) (d : HDesc) : Nat → Nat → State
  | 0, _ => s
  | n + 1, k =>
    match s.reserveUnit d k with
    | none => s
    | some t => t.reserveUnits d n (k + 1)

/-- The next unit that descriptor id has to reserve waits for a frame of its map page: its lookup missed (R222). -/
def State.lacksFrame (s : State) (id : Nat) : Bool :=
  (s.hdesc id).any fun d => decide (d.reserved < d.len.toNat) && !(s.hasFrame (unitLine (d.start.toNat + d.reserved)).1)

/-- WRITE_RANDOM: the descriptor is checked, and its units are reserved as far as INTAKE admits them (R306 to R308). -/
def execWriteRandom (id : Nat) (s : State) : Host.Outcome State Fault Refusal :=
  match s.ready id 3 with
  | none => .next s
  | some d =>
    if d.reserved = 0 ∧ s.clock.dev = .readOnly then .next (s.endDesc id .readOnly 0)
    else if d.reserved = 0 ∧ !s.unitsOk d then .next (s.endDesc id .range 0)
    else
      let t := s.reserveUnits d (d.len.toNat - d.reserved) d.reserved
      .next (if t.lacksFrame id then t.makeRoom else t)

/-- No earlier write of the same ring has still to accept this unit (R310). -/
def State.unitTurn (s : State) (d : HDesc) (u : Nat) : Bool :=
  s.host.active.all fun x =>
    x.ring != d.ring || decide (d.id ≤ x.id) || x.opcode != 3 || x.status.isSome ||
    decide (u < x.start.toNat + x.count) || decide (x.start.toNat + x.len.toNat ≤ u)

/-- The piece of a random-region write (R97, R100, R219). -/
def State.unitWritten (s : State) (u seq : Nat) (data : List Byte) : Piece :=
  { unit := some u, stream := 0, epoch := 0, off := 0, data := data, crc := crc32c data, cycle := s.lamp.cycle
    keyGen := s.intake.keyGen, staged := s.writeThrough, fixed := true, loc := none, done := false, noted := false, inTun := true
    spill := none, spillOk := false, seq := seq, src := none }

/-- The next unit of descriptor d is accepted (R307 steps 3 and 4): outside write-through it is placed at once. -/
def State.acceptUnit (s : State) (d : HDesc) (data : List Byte) : State :=
  let u := d.start.toNat + d.count
  let seq := s.intake.entrySeq + 1
  let s1 := (s.onIntake fun i => { i with entrySeq := seq, reserved := i.reserved - unitTun }).onPlace fun p =>
    { p with pieces := p.pieces ++ [s.unitWritten u seq data] }
  let s2 := s1.takeEntry u seq
  let s3 := s2.modDesc d.id fun x => { x with
    count := x.count + 1
    status := if x.count + 1 = x.len.toNat then some (hstatusCode .ok) else none
    awaits := if s.writeThrough then x.awaits ++ [seq] else x.awaits }
  if s3.backUp then s3.placeUnits false else s3

/-- The memory reads that fetch one unit (R290, R307). -/
def State.readsPerUnit (s : State) : Nat := (4096 + s.host.mrrs - 1) / max 1 s.host.mrrs

/-- The reads of a descriptor's next unit are among those outstanding: at most 512, in fetch order (R290; the order is DEDUCED, log 152). -/
def State.readIssued (s : State) (d : HDesc) : Bool :=
  let before := sumBy (fun (x : HDesc) => if x.opcode = 3 ∧ x.status = none ∧ x.id < d.id then x.reserved - x.count else 0) s.host.active
  decide (s.readsPerUnit * (before + 1) ≤ 512)

/-- DATA_FETCH_DONE (R307): the next unit's 4 KiB arrive and it is accepted, or the fetch fails: HOST_ERROR with the count of the
units accepted. -/
def execDataFetchDone (id : Nat) (r : HostRead) (s : State) : Host.Outcome State Fault Refusal :=
  match s.hdesc id with
  | none => .next s
  | some d =>
    if d.opcode ≠ 3 ∨ d.status.isSome ∨ d.reserved ≤ d.count ∨ !(s.upstreamOpen && s.hostUp) ∨ !s.readIssued d ∨ s.stopped .intake then
      .next s
    else
      match r with
      | .failed =>
        .next ((s.onIntake fun i => { i with reserved := i.reserved - unitTun * (d.reserved - d.count) }).endDesc id .hostError
          d.count)
      | .ok data =>
        if data.length ≠ 4096 then .fault .illFormedCommand
        else if !s.unitTurn d (d.start.toNat + d.count) then .next s
        else .next (s.acceptUnit d data)

/-! ### CASK_QUERY (R151, R306) -/

/-- The cask that a query for a cycle returns (R151). -/
def State.caskOf (s : State) (cycle : BitVec 64) : Option Cask :=
  let cs := s.casks
  if cycle = 0xFFFFFFFFFFFFFFFF then cs.getLast?
  else if cycle.toNat < keptFrom cs then none
  else cs.find? fun c => c.cycle == cycle.toNat

/-- The preamble and the body of a cask as a query writes them (R306). -/
def Cask.answer (c : Cask) : List Byte :=
  let b := c.body
  leBytes 8 c.cycle ++ leBytes 4 b.length ++ leBytes 4 0 ++ b

/-- The units that hold the first copy of the record of a cask (R117, R120). -/
def State.caskUnits (s : State) (c : Cask) : List (Nat × Nat × Nat) :=
  s.journal.recs.flatMap fun r =>
    if r.body = .cask c then
      (s.recordUnits (r.addr.toNat / 16777216) (r.addr.toNat % 16777216) (recordPages r.body.size)).filter fun u => decide (u.2.2 < 16)
    else []

/-- CASK_QUERY (R306, R308): the cask's record is read from the journal, at class 3 (R188). -/
def execCaskQuery (id : Nat) (s : State) : Host.Outcome State Fault Refusal :=
  match s.ready id 4 with
  | none => .next s
  | some d =>
    match s.caskOf d.start with
    | none => .next (s.endDesc id .notHeld 0)
    | some c =>
      let bs := c.answer
      let out := bs.take d.len.toNat
      if s.stopped .media || !s.canUse 0x01 3 (s.caskUnits c) then .next s
      else .next ((s.sendData d.buffer out).endDesc id (if out.length = bs.length then .ok else .okShort) out.length)

/-! ### Completions (R308, R309) -/

/-- A completion entry (R308). -/
def HDesc.entry (d : HDesc) (st : Byte) (phase : Bool) : List Byte :=
  leBytes 4 d.tag.toNat ++ leBytes 4 d.count ++ leBytes 2 d.headAft ++ [BitVec.ofNat 8 d.ring, st, if phase then 1 else 0] ++
  [0, 0, 0]

/-- Ring j signals its vector (R309). -/
def State.signalRing (s : State) (j : Nat) : State := (s.modCq j fun c => { c with since := 0 }).signal j

/-- The entry of a finished descriptor is posted (R308, R309). -/
def State.postEntry (s : State) (d : HDesc) (st : Byte) : State :=
  let j := d.cq
  let c := s.cq j
  let nxt := if c.entries = 0 then 0 else (c.post + 1) % c.entries
  let s1 := (s.onHost fun h => { h with active := h.active.filter fun x => x.id ≠ d.id }).issue
    (.completion (c.base + 16 * BitVec.ofNat 64 c.post) (d.entry st c.phase))
  let s2 := s1.modCq j fun c => { c with
    post := nxt, phase := if nxt = 0 then !c.phase else c.phase, since := if d.noIrq then c.since else c.since + 1 }
  if !d.noIrq && decide (max 1 c.coCount ≤ c.since + 1) then s2.signalRing j else s2

/-- COMPLETION_POST: the finished descriptor's entry is posted, in write-through not before its map deltas are noted (R307,
R308). -/
def execCompletionPost (id : Nat) (s : State) : Host.Outcome State Fault Refusal :=
  match s.hdesc id with
  | none => .next s
  | some d =>
    match d.status with
    | none => .next s
    | some st => if s.upstreamOpen && s.hostUp && d.awaits.isEmpty then .next (s.postEntry d st) else .next s

/-- COALESCE_TIMEOUT (R309): the coalescing time has passed since the first entry posted and not signalled. -/
def execCoalesceTimeout (ring : BitVec 5) (s : State) : Host.Outcome State Fault Refusal :=
  let c := s.cq ring.toNat
  if s.hostUp && decide (0 < c.coTime) && decide (0 < c.since) then .next (s.signalRing ring.toNat) else .next s

end Sys2Proof.Machine
end

