-- ==== Sys2Proof/Machine/Operands.lean ====
section
/-! DEFINITION. The operand forms of a register access: the fields of a written word, the merge of WRITE_MASKED, and the
write of a class C field (R7 to R10, R333, R353); and who owns an address (R356, R377). -/
namespace Sys2Proof.Machine
open Sys2Proof

/-! ### Fields of a word -/

/-- The bits of a word from lo, as many as width, as a number. -/
def fieldOf (v : Word) (lo width : Nat) : Nat := v.toNat / 2 ^ lo % 2 ^ width

/-- A word from its fields, each a low bit, a width and a value. -/
def wordOf (fs : List (Nat × Nat × Nat)) : Word :=
  BitVec.ofNat 32 (fs.foldl (fun a f => a + f.2.2 % 2 ^ f.2.1 * 2 ^ f.1) 0)

/-- A flag as a number. -/
def bit (b : Bool) : Nat := if b then 1 else 0

/-- The whole-register mask of WRITE_REG. -/
def maskAll : Word := 0xFFFFFFFF

/-- The mask selects a bit of the field: the field is written (R333). -/
def selects (mask : Word) (lo width : Nat) : Bool := fieldOf mask lo width != 0

/-- The word that a write leaves: selected bits take the value, the others stay (R333). -/
def merge (cur v mask : Word) : Word := (cur &&& ~~~mask) ||| (v &&& mask)

/-- What a field is written with, if the write selects it; cur is what the register shows. -/
def written (cur v mask : Word) (lo width : Nat) : Option Nat :=
  if selects mask lo width then some (fieldOf (merge cur v mask) lo width) else none

/-- What a read of a class C field shows: its pending value, or the value in force (R7, R10). -/
def shownC {α : Type} (cur : α) (p : Option α) : α := p.getD cur

/-- The pending value after a write of a class C field (R10, R353). -/
def pendC {α : Type} [DecidableEq α] (cur : α) (p w : Option α) : Option α :=
  match w with
  | none => p
  | some x => if x = shownC cur p then p else some x

/-- The write of a class C field is refused: it changes what the field shows, to a value that the field does not take
(R353). -/
def refusedC {α : Type} [DecidableEq α] (cur : α) (p w : Option α) (bad : α → Bool) : Bool :=
  match w with
  | none => false
  | some x => decide (x ≠ shownC cur p) && bad x

/-- The write of another field is refused: it changes the field to a value that the field does not take (R353). -/
def refusedI (cur : Nat) (w : Option Nat) (bad : Nat → Bool) : Bool :=
  match w with
  | none => false
  | some x => decide (x ≠ cur) && bad x

/-! ### Areas of the indirect space (R377) -/

/-- The areas. -/
inductive Area where
  | health | lantern | linkLast | syndromes | setRecord | otp | cellar | sqCopies | cqCopies | mirrorCopy | keys | eccLog
  | unassigned
  deriving DecidableEq, Repr

/-- The area of an indirect address. -/
def areaOf (a : Word) : Area :=
  let n := a.toNat
  if 0x10000 ≤ n ∧ n ≤ 0x100FF then .health
  else if 0x20000 ≤ n ∧ n ≤ 0x20007 then .lantern
  else if 0x30000 ≤ n ∧ n ≤ 0x30FFF then .linkLast
  else if 0x40000 ≤ n ∧ n ≤ 0x4003F then .syndromes
  else if 0x50000 ≤ n ∧ n ≤ 0x5000F then .setRecord
  else if 0x60000 ≤ n ∧ n ≤ 0x601FF then .otp
  else if 0x70000 ≤ n ∧ n ≤ 0x70003 then .cellar
  else if 0x80000 ≤ n ∧ n ≤ 0x800FF then .sqCopies
  else if 0x80100 ≤ n ∧ n ≤ 0x801FF then .cqCopies
  else if 0x80200 ≤ n ∧ n ≤ 0x80201 then .mirrorCopy
  else if 0x90000 ≤ n ∧ n ≤ 0x9000F then .keys
  else if 0xA0000 ≤ n ∧ n ≤ 0xA00FF then .eccLog
  else .unassigned

/-- The first address of an area. -/
def Area.base : Area → Nat
  | .health => 0x10000 | .lantern => 0x20000 | .linkLast => 0x30000 | .syndromes => 0x40000 | .setRecord => 0x50000
  | .otp => 0x60000 | .cellar => 0x70000 | .sqCopies => 0x80000 | .cqCopies => 0x80100 | .mirrorCopy => 0x80200
  | .keys => 0x90000 | .eccLog => 0xA0000 | .unassigned => 0

/-- The areas that are read through a snapshot (R240, R342, R393). -/
def Area.snap : Area → Option SnapArea
  | .health => some .health
  | .linkLast => some .linkLast
  | .eccLog => some .ecc
  | .lantern | .syndromes | .setRecord | .otp | .cellar | .sqCopies | .cqCopies | .mirrorCopy | .keys | .unassigned => none

/-! ### Owners (R355, R356, R377) -/

/-- Who holds what an access reaches: a unit, the fault collector, the memory units together, or nobody. -/
inductive Owner where
  | unit (u : UnitId) | collector | memories | nobody
  deriving DecidableEq, Repr

/-- The owner of an area. -/
def Area.owner : Area → Owner
  | .health | .cellar => .unit .front
  | .lantern | .linkLast | .unassigned => .unit .link
  | .syndromes => .collector
  | .setRecord | .sqCopies | .cqCopies | .mirrorCopy => .unit .host
  | .otp => .unit .wick
  | .keys => .unit .intake
  | .eccLog => .memories

/-- The owner of a register address below 0x61 or above it; a windowed register's is the unit that the select names. PLAN_SEL stands under LAMP
in R356, while R357 says that LINK holds it: during a RESTART of LAMP it is answered as LAMP's (DESIGN CHOICE, log 142). -/
def ownerOf (s : State) (a : Nat) : Owner :=
  if a = 0x00 ∨ a = 0x01 ∨ (0x04 ≤ a ∧ a ≤ 0x07) ∨ a = 0x10 ∨ a = 0x20 ∨ a = 0x2C ∨ a = 0x38 ∨ a = 0x3A ∨ a = 0x40 ∨
     a = 0x60 ∨ a = 0x7F then .unit .link
  else if a = 0x02 ∨ (0x70 ≤ a ∧ a ≤ 0x72) then .unit .clock
  else if a = 0x03 ∨ a = 0x62 then .unit .front
  else if 0x08 ≤ a ∧ a ≤ 0x0F then .unit .lamp
  else if 0x11 ≤ a ∧ a ≤ 0x1C then .unit .intake
  else if 0x21 ≤ a ∧ a ≤ 0x24 then .unit .media
  else if (0x28 ≤ a ∧ a ≤ 0x2B) ∨ (0x2D ≤ a ∧ a ≤ 0x2F) then .unit .power
  else if 0x30 ≤ a ∧ a ≤ 0x37 then .collector
  else if a = 0x39 ∨ a = 0x3B ∨ a = 0x3C then .unit .host
  else if 0x41 ≤ a ∧ a ≤ 0x48 then .unit (memUnit s.link.memSel.toNat)
  else if 0x50 ≤ a ∧ a ≤ 0x56 then .unit .wick
  else if a = 0x61 then (areaOf s.link.indAddr).owner
  else .nobody

/-- The main domain does not serve the link: it is off, or from a trigger to the end of its flush, but for an execution that began before the
trigger (R25, R274). -/
def State.dark (s : State) : Bool := !s.clock.mainOn || (s.snuff.trigger.isSome && s.link.run.isNone)

/-- The registers whose writes are refused to an execution that began before a trigger: the stream table's fields with ST_CMD and ST_TRIM,
WICK_SUBMIT, DEV_CTRL, PWR_CTRL and HOLDUP_CTRL (R274, R366). -/
def heldAtTrigger (a : Nat) : Bool :=
  [0x03, 0x11, 0x12, 0x13, 0x14, 0x15, 0x16, 0x17, 0x18, 0x19, 0x1A, 0x1B, 0x1C, 0x2A, 0x2F, 0x54].contains a

/-- The owner lies in the main domain. -/
def Owner.main : Owner → Bool
  | .unit u => !unitVaux u
  | .memories => true
  | .collector | .nobody => false

/-- The owner is a unit held in a RESTART reset (R355). -/
def Owner.held (o : Owner) (s : State) : Bool :=
  match o with
  | .unit u => (s.unit u).restart
  | .collector | .memories | .nobody => false

/-- The main domain is off for an access of an owner (R25). -/
def Owner.noPower (o : Owner) (s : State) : Bool := o.main && s.dark

/-- DEV_STATE has left RECOVER (R241, R246, R354): recovery had begun, and neither BOOT nor RECOVER is shown. -/
def State.restored (s : State) : Bool := decide (2 ≤ s.clock.step.toNat) && s.clock.dev != .boot && s.clock.dev != .recover

end Sys2Proof.Machine
end

