-- ==== Sys2Proof/Machine/Flags.lean ====
section
/-! DEFINITION. The status words of the register map, each computed from State: what every read-only register and every
flag shows. -/
namespace Sys2Proof.Machine
open Sys2Proof

/-! ### Identity, state, attention (R351, R358, R361, R362) -/

/-- DEV_STATE. -/
def State.devWord (s : State) : Word := wordOf [(0, 3, devCode s.clock.dev), (3, 1, bit s.clock.mainOn)]

/-- LINK_MODE as it stands now. -/
def LinkState.modeWord (l : LinkState) : Word :=
  wordOf [(0, 1, l.width), (1, 2, l.rate), (3, 1, bit l.novven), (4, 1, bit l.asleep), (5, 1, bit l.matchOpen),
    (6, 1, bit l.last.isSome), (8, 3, l.vr.toNat), (12, 3, l.vs.toNat)]

/-- LINK_MODE as a read shows it: inside a message, as it stood when the message's execution began. -/
def LinkState.modeRead (l : LinkState) : Word := l.modeSeen.getD l.modeWord

/-- The stream attention bits of ST_FAULT: GAP, OVERLAP, OVER_QUOTA, INTERNAL and POISONED (R362). -/
def attnFaults : BitVec 9 := 0x1C3

/-- The lowest stream with a stream attention bit set. -/
def State.attnStream (s : State) : Option Nat :=
  (s.intake.streams.find? fun e => e.2.fault &&& attnFaults != 0).map Prod.fst

/-- ATTN. -/
def State.attnWord (s : State) : Word :=
  let st := if s.dark then none else s.attnStream
  wordOf [(0, 10, st.getD 0), (15, 1, bit st.isSome), (16, 1, bit (!s.link.attnLow))]

/-! ### Cycles (R363) -/

/-- CYC_CTRL. -/
def LampState.ctrlWord (l : LampState) : Word :=
  wordOf [(0, 2, lockCode l.lock), (2, 2, tickSrcCode l.tickSrc), (4, 6, shownC l.markTrim l.markTrimP), (10, 6, l.strays),
    (16, 16, shownC l.jitterWin l.jitterWinP)]

/-- CYC_SRC. -/
def LampState.srcWord (l : LampState) : Word :=
  wordOf [(0, 2, (shownC l.mode l.modeP).toNat), (16, 16, shownC l.tickDiv l.tickDivP)]

/-- The plan that reads of PLAN_WIN show: the pending one, or with VIEW the plan in force (R363). -/
def State.planShown (s : State) : Sparse Window :=
  if s.link.planView then s.lamp.plan else shownC s.lamp.plan s.lamp.planP

/-- A field of a window: 0 START, 1 LENGTH, 2 KIND (R363). -/
def Window.field (w : Window) (f : BitVec 2) : Nat := if f = 0 then w.start else if f = 1 then w.len else w.kind

/-- A window with a field changed. -/
def Window.withField (w : Window) (f : BitVec 2) (v : Nat) : Window :=
  if f = 0 then { w with start := v } else if f = 1 then { w with len := v } else { w with kind := v }

/-- PLAN_SEL. -/
def State.planSelWord (s : State) : Word :=
  wordOf [(0, 4, s.link.planWin.toNat), (4, 2, s.link.planField.toNat), (8, 1, bit s.link.planView),
    (9, 1, bit s.lamp.planP.isSome)]

/-! ### Streams (R366) -/

/-- ST_STATE. -/
def Stream.stateWord (e : Stream) : Word :=
  wordOf [(0, 3, sstateCode e.st), (3, 1, bit e.replay), (4, 1, bit e.delPend), (8, 24, e.epoch % 16777216)]

/-- ST_CLASS. -/
def Stream.classWord (e : Stream) : Word := wordOf [(0, 3, e.cls.toNat), (3, 1, bit e.mirrorEn)]

/-- ST_CYCLE: 0 for a FREE stream. -/
def Stream.cycleWord (e : Stream) : Word := if e.st = .free then 0 else BitVec.ofNat 32 e.openCycle

/-! ### Channels (R368) -/

/-- CH_STATE. -/
def State.chanWord (s : State) (ch : Nat) : Word :=
  let c := s.chan ch
  wordOf [(0, 3, chanCode c.st), (4, 3, c.rate), (8, 5, ((List.range 16).filter fun d => s.dieAt ch d = .active).length)]

/-- CH_DIES. -/
def State.diesWord (s : State) (ch : Nat) : Word := wordOf ((List.range 16).map fun d => (2 * d, 2, dieCode (s.dieAt ch d)))

/-- CH_ERRS. -/
def Channel.errsWord (c : Channel) : Word :=
  wordOf [(0, 8, c.eRetry), (8, 6, c.eSoft), (14, 6, c.eRebuilt), (20, 4, c.eUncorr), (24, 4, c.eProg), (28, 4, c.eErase)]

/-- CH_RETIRED. -/
def Channel.retiredWord (c : Channel) : Word := wordOf [(0, 16, min c.blocks.length 65535), (16, 16, c.retDies.toNat)]

/-! ### Power (R286 to R289) -/

/-- ENERGY_AVAIL. -/
def State.availWord (s : State) : Word := wordOf [(0, 16, min s.availMJ 65535), (16, 16, min s.power.vbank 65535)]

/-- ENERGY_NEED. -/
def State.needWord (s : State) : Word := wordOf [(0, 16, min s.needMJ 65535)]

/-- HOLDUP_STATUS. -/
def State.holdupWord (s : State) : Word :=
  let p := s.power
  let i := s.intake
  wordOf [(0, 16, min p.cap 65535), (16, 8, min p.esr 255), (24, 1, bit (decide (27000 ≤ p.vbank))), (25, 1, bit p.huGate),
    (26, 1, bit (i.dryFirst || decide (0 < i.dryOwed))), (27, 1, bit (i.gaugeFirst || decide (0 < i.gaugeOwed))),
    (28, 1, bit i.wtCap), (29, 1, bit (s.unitDown .power || s.unitDown .snuff)), (30, 1, bit i.wtEnergy),
    (31, 1, bit p.forceWt)]

/-- RAIL_STATUS, but for the two measured values, which no rule gives from the state (R288). -/
def RailRec.flags (x : RailRec) : Word :=
  wordOf [(13, 1, bit x.good), (14, 1, bit x.uv), (15, 1, bit x.ov), (28, 3, railStateCode x.st)]

/-- TEMP_NOW. -/
def PowerState.tempNow (p : PowerState) : Word :=
  wordOf [(0, 8, byteOf p.temp), (8, 8, byteOf p.tCtrl), (16, 8, byteOf p.tPwr), (24, 8, byteOf p.tWick)]

/-- PWR_CTRL. -/
def State.pwrWord (s : State) : Word :=
  wordOf [(0, 8, s.power.budget), (8, 8, s.power.throttle), (16, 8, s.budgetMw / 250),
    (24, 1, bit (decide (s.power.thermal < 250 * s.power.budget)))]

/-! ### Faults (R369, R438) -/

/-- One bit for each unit that satisfies f, at its index. -/
def State.unitBits (s : State) (f : UnitFault → Bool) : Nat :=
  allUnits.foldl (fun a u => a + bit (f (s.unit u)) * 2 ^ unitIdx u) 0

/-- FAULT_STATUS. -/
def State.faultWord (s : State) : Word := wordOf [(0, 13, s.unitBits UnitFault.latched), (31, 1, bit s.fault.self)]

/-- FAULT_LEVEL. -/
def State.levelWord (s : State) : Word :=
  wordOf ([(28, 2, s.governing)] ++ allUnits.map fun u => (2 * unitIdx u, 2, (s.unit u).level))

/-- FAULT_CONSEQ. -/
def State.conseqWord (s : State) : Word := wordOf [(0, 13, s.unitBits UnitFault.conseq)]

/-- The four words of a unit's full syndrome (R438). -/
def UnitFault.synd (r : UnitFault) : List Word :=
  [wordOf [(0, 8, r.cause.toNat), (8, 24, r.detail.toNat % 16777216)], BitVec.ofNat 32 (r.detail.toNat / 16777216),
   wordOf [(0, 2, r.lastLevel), (2, 1, bit r.escalated), (3, 1, bit r.shadowed), (8, 8, r.count)], r.cycle]

/-- The four words of the collector's own syndrome: cause DUP_MISMATCH, the register address, acted on at SNUFF (R449). -/
def FaultState.synd (f : FaultState) : List Word :=
  if f.self then [wordOf [(0, 8, 1), (8, 8, f.selfAddr.toNat)], 0, wordOf [(0, 2, 3), (8, 8, f.selfCnt)], f.selfCyc]
  else [0, 0, 0, 0]

/-- The syndrome of a FAULT_SYND_SEL value; nothing stands at 13 and 14. -/
def State.syndWords (s : State) (u : Nat) : List Word :=
  match unitOf u with
  | some k => (s.unit k).synd
  | none => if u = 15 then s.fault.synd else [0, 0, 0, 0]

/-- FAULT_POLICY of the selected unit. -/
def State.policyWord (s : State) : Word :=
  match unitOf s.link.policySel.toNat with
  | some u => wordOf [(0, 2, (s.unit u).base), (2, 1, bit (s.unit u).snuffEnd)]
  | none => 0

/-! ### The joined set (R370) -/

/-- SET_CTRL. -/
def LinkState.setWord (l : LinkState) : Word :=
  wordOf [(0, 16, l.setId.toNat), (16, 3, l.member), (20, 3, l.count), (24, 8, l.wait)]

/-- SET_STATUS. -/
def State.setStatusWord (s : State) : Word :=
  let p := s.link.peerSel.toNat
  let lag := fun (m : Nat) => min 4095 (s.lamp.cycle - m)
  wordOf [(0, 6, s.host.missing.toNat), (8, 12, lag s.setSealed), (20, 12, if p = s.link.member then 0 else lag (s.mOf p))]

/-- The base that SET_PEER_ADDR shows: that of the peer SET_PEER_SEL selects. -/
def State.peerBase (s : State) : BitVec 64 := tget 0 s.host.peerAddr s.link.peerSel.toNat

/-! ### Memories (R372) -/

/-- The memory that MEM_SEL selects. -/
def State.selMem (s : State) : MemRec := s.memory s.link.memSel.toNat

/-- MEM_PWR. -/
def MemRec.pwrWord (m : MemRec) : Word := wordOf [(0, 2, memPwrCode m.req), (2, 2, memPwrCode m.now)]

/-- MEM_ECC_STAT. -/
def State.eccStatWord (s : State) : Word :=
  wordOf [(0, 16, s.selMem.corr), (16, 8, s.selMem.uncorr), (24, 8, (s.mem.log.filter fun e => e.2.waiting && e.2.hit.mem == s.link.memSel).length)]

/-- MEM_RETIRE. -/
def MemRec.retireWord (m : MemRec) : Word := wordOf [(24, 8, min m.retired.length 255)]

/-- MEM_TEST_CTRL. -/
def MemRec.testWord (m : MemRec) : Word := wordOf [(0, 1, bit m.testEn), (8, 4, m.lane), (16, 1, bit m.testDone)]

/-! ### Wick (R374) -/

/-- WICK_QCTRL. -/
def WickState.qctrlWord (w : WickState) : Word := wordOf [(0, 1, bit w.autoSus), (8, 5, w.free)]

/-- WICK_DONE: the oldest host completion not yet taken. -/
def WickState.doneWord (w : WickState) : Word :=
  match w.hostDone with
  | [] => 0
  | d :: _ => wordOf [(0, 8, d.1.toNat), (8, 8, d.2.toNat), (16, 5, min w.hostDone.length 31), (31, 1, 1)]

/-- WICK_WINDOW. -/
def WickState.windowWord (w : WickState) : Word :=
  wordOf [(0, 6, w.wbase), (8, 6, min w.retired.length 63), (16, 1, bit w.slotB)]

/-! ### Health and start-up (R246, R375) -/

/-- HEALTH_SUMMARY: the reset column until DEV_STATE leaves RECOVER. -/
def State.summaryWord (s : State) : Word :=
  if !s.restored then 0
  else
    wordOf [(0, 8, s.sparePct), (8, 8, s.wearPct), (16, 4, s.health.tempBin), (20, 1, bit (decide (s.sparePct ≤ 10))),
      (21, 1, bit (decide (90 ≤ s.wearPct))), (22, 1, bit (s.hget 0x13 != 0 || s.hget 0x18 != 0)), (23, 1, bit s.bankLow)]

/-- RESET_CAUSE. -/
def ClockState.causeWord (c : ClockState) : Word := wordOf [(0, 14, c.cause.toNat), (16, 3, c.flushBy.toNat)]

/-- STRAP_SAMPLE. -/
def ClockState.strapWord (c : ClockState) : Word :=
  wordOf [(0, 2, c.bootSrc.toNat), (2, 2, c.clkMode.toNat), (8, 1, bit c.fallback), (9, 1, bit c.pinConf)]

/-- BOOT_STATUS. -/
def ClockState.bootWord (c : ClockState) : Word :=
  wordOf [(0, 3, c.recCode.toNat), (3, 2, c.image.toNat), (8, 8, c.step.toNat), (16, 16, c.recMs.toNat)]

/-! ### Reads of BAR2 (R297, R298) -/

/-- A byte of the register that reads as w. -/
def wordByte (w : Word) (i : Nat) : Byte := byteAt (leBytes 4 w.toNat) i

/-- The byte that a read of BAR2 returns at an offset: the layout of R297; close doorbells and reserved offsets read as 0 (R298). -/
def State.bar2Byte (s : State) (o : Nat) : Byte :=
  if 0x2000 ≤ o ∧ o < 0x2100 then byteAt (leBytes 4 (s.sq ((o - 0x2000) / 8)).tail) (o % 8)
  else if 0x2100 ≤ o ∧ o < 0x2200 then byteAt (leBytes 4 (s.cq ((o - 0x2100) / 8)).head) (o % 8)
  else if 0x3000 ≤ o ∧ o < 0x3060 then byteAt (tget [] s.host.mailbox ((o - 0x3000) / 16)) (o % 16)
  else if 0x4000 ≤ o ∧ o < 0x4400 then wordByte (tget 0 s.host.msix ((o - 0x4000) / 4)) (o % 4)
  else if 0x5000 ≤ o ∧ o < 0x5008 then byteAt (leBytes 8 s.host.pba.toNat) (o % 8)
  else if 0x6000 ≤ o ∧ o < 0x6400 then byteAt (s.sq ((o - 0x6000) / 32)).bytes (o % 32)
  else if 0x6400 ≤ o ∧ o < 0x6800 then byteAt (s.cq ((o - 0x6400) / 32)).bytes (o % 32)
  else if 0x6800 ≤ o ∧ o < 0x6808 then byteAt (leBytes 8 s.host.mirBase.toNat) (o % 8)
  else if 0x7000 ≤ o ∧ o < 0x7004 then wordByte s.devWord (o % 4)
  else if 0x7100 ≤ o ∧ o < 0x7180 then wordByte (s.sqStatus ((o - 0x7100) / 4)) (o % 4)
  else 0

/-- The first offsets of the regions of BAR2, and of what is reserved between them (R297). -/
def bar2Starts : List Nat :=
  [0, 0x2000, 0x2100, 0x2200, 0x3000, 0x3060, 0x4000, 0x4400, 0x5000, 0x5008, 0x6000, 0x6400, 0x6800, 0x6808, 0x7000, 0x7004, 0x7100, 0x7180]

/-- The region that an offset of BAR2 lies in. -/
def bar2Region (o : Nat) : Nat := (bar2Starts.filter fun b => decide (b ≤ o)).length

/-- The data of a read of BAR2: up to 64 bytes within one region; the manual states no data for another (R298). The table has no row for the
read, and it changes nothing (log 97). -/
def State.bar2Read (s : State) (o n : Nat) : Option (List Byte) :=
  if 0 < n ∧ n ≤ 64 ∧ bar2Region o = bar2Region (o + n - 1) then some ((List.range' o n).map s.bar2Byte) else none

end Sys2Proof.Machine
end

