-- ==== Sys2Proof/Machine/Registers.lean ====
section
/-! DEFINITION. The register map (R353 to R376) and the indirect space (R375, R377, R378, R240): the value of every register,
what a read does besides, and the write of every writable register, with its refusals. -/
namespace Sys2Proof.Machine
open Sys2Proof

/-! ### The indirect areas -/

/-- Four bytes of a list as a word, the first in bits [7:0]. -/
def wordAt (bs : List Byte) (k : Nat) : Word := BitVec.ofNat 32 (leNat ((bs.drop (4 * k)).take 4))

/-- A half of a 64-bit number: 0 low, 1 high. -/
def halfOf (n k : Nat) : Word := BitVec.ofNat 32 (if k = 0 then n else n / 4294967296)

/-- A word of the health log as it stands (R242). -/
def State.healthWord (s : State) (k : Nat) : Word :=
  if k = 0x00 then 0x01000001
  else if k = 0x01 then s.journal.powerUps
  else if k = 0x21 then halfOf (s.hget 0x20) 1
  else if k = 0x23 then halfOf (s.hget 0x22) 1
  else BitVec.ofNat 32 (s.hget k)

/-- The words of LINK_LAST (R342). -/
def LinkState.lastWords (l : LinkState) : List Word :=
  match l.last with
  | none => []
  | some x =>
    [wordOf [(0, 8, x.proto), (8, 8, x.ns.toNat), (16, 16, x.len)], x.crc,
     wordOf [(0, 16, x.response.length), (16, 1, bit x.restored)]] ++
    (List.range ((x.response.length + 3) / 4)).map (wordAt x.response)

/-- What a snapshot of an area holds when it is taken. -/
def State.snapWords (s : State) : SnapArea → List Word
  | .health => (List.range 256).map s.healthWord
  | .linkLast => s.link.lastWords
  | .ecc => s.mem.logWords

/-- A snapshot of the area is taken unless one is held (R240). -/
def State.takeSnap (s : State) (x : SnapArea) : State :=
  match s.link.snap with
  | some (y, _) => if x = y then s else s.onLink fun l => { l with snap := some (x, s.snapWords x) }
  | none => s.onLink fun l => { l with snap := some (x, s.snapWords x) }

/-- The snapshot that an access of an area needs. -/
def State.snapFor (s : State) (ar : Area) : State :=
  match ar.snap with
  | some x => s.takeSnap x
  | none => s

/-- The words that the held snapshot gives. -/
def LinkState.snapWord (l : LinkState) (k : Nat) : Word :=
  match l.snap with
  | some (_, ws) => ws.getD k 0
  | none => 0

/-- The held snapshot is discarded when IND_ADDR leaves its area. -/
def LinkState.snapLeave (l : LinkState) : LinkState :=
  match l.snap with
  | some (x, _) => if (areaOf l.indAddr).snap = some x then l else { l with snap := none }
  | none => l

/-- The access is over: IND_ADDR goes on by 1 (R375). -/
def State.indNext (s : State) : State := s.onLink fun l => ({ l with indAddr := l.indAddr + 1 } : LinkState).snapLeave

/-- IND_ADDR is written: the snapshot held goes, and one of the new address's area is taken (R240). -/
def State.writeIndAddr (s : State) (a : Word) : State :=
  let t := s.onLink fun l => { l with indAddr := a, snap := none }
  if (areaOf a).owner.noPower t then t else t.snapFor (areaOf a)

/-- A word of the OTP row: unit 3 reads as 0, and a byte of an uncorrectable unit is not given (R377, R430, R432). -/
def State.otpWord (s : State) (k : Nat) : Word :=
  let u := k / 8
  if u = 3 then 0
  else
    let b := fun (i : Nat) =>
      if s.wick.otpBad.contains u then Config.otpBad (4 * k + i) s.draws else tget 0xFF s.wick.otp (4 * k + i)
    wordAt [b 0, b 1, b 2, b 3] 0

/-- A word of an area, by its offset; of an area with a snapshot, from the snapshot held. The health log reads 0 before DEV_STATE has left
RECOVER (R241). -/
def State.areaWord (s : State) (ar : Area) (k : Nat) : Word :=
  match ar with
  | .health => if s.restored then s.link.snapWord k else 0
  | .linkLast | .eccLog => s.link.snapWord k
  | .lantern => wordAt s.link.lantern k
  | .syndromes => (s.syndWords (k / 4)).getD (k % 4) 0
  | .setRecord =>
    if k < 2 then halfOf s.setSealed k
    else if k < 4 then halfOf s.ownSealed (k - 2)
    else halfOf (s.mOf ((k - 4) / 2)) (k % 2)
  | .otp => s.otpWord k
  | .cellar =>
    if k < 2 then halfOf s.place.cellBase.toNat k else halfOf s.place.cellSize.toNat (k - 2)
  | .sqCopies => wordAt (s.sq (k / 8)).bytes (k % 8)
  | .cqCopies => wordAt (s.cq (k / 8)).bytes (k % 8)
  | .mirrorCopy => halfOf s.host.mirBase.toNat k
  | .keys =>
    if k = 0 then wordOf [(0, 1, bit (s.wick.keyA != 0)), (1, 1, bit (s.wick.keyB != 0))]
    else if k = 1 then BitVec.ofNat 32 s.wick.keyA else if k = 2 then BitVec.ofNat 32 s.wick.keyB else 0
  | .unassigned => 0

/-- A read of IND_DATA: the word at IND_ADDR, which then goes on by 1, whatever the status (R375). -/
def State.indRead (s : State) : State × Status × Word :=
  let a := s.link.indAddr
  let ar := areaOf a
  if ar.owner.noPower s then (s.indNext, .nopwr, 0)
  else if ar.owner.held s then (s.indNext, .ok, 0)
  else
    let t := s.snapFor ar
    let w := t.areaWord ar (a.toNat - ar.base)
    (({ t with draws := if ar = .otp then t.draws + 1 else t.draws } : State).indNext, .ok, w)

/-- The random-region size ÷ 1,024, in bytes: the one Cellar size that is taken (R223, R378). -/
def State.cellarNeed (s : State) : Nat := s.place.randSize / 1024

/-- The high word of the Cellar size is written: the staged value applies (R378). -/
def State.writeCellSize (s : State) (hi : Word) : Except Status State :=
  let v : BitVec 64 := BitVec.ofNat 64 (s.place.cellSizeLo.toNat + 4294967296 * hi.toNat)
  if v ≠ s.place.cellSize ∧ v.toNat ≠ s.cellarNeed then .error .werr
  else .ok (s.onPlace fun p => { p with cellSize := v })

/-- The high word of the Cellar base is written: the staged value applies, every Cellar-current bit is cleared and the
Cellar is used again (R225, R378). -/
def State.writeCellBase (s : State) (hi : Word) : Except Status State :=
  let v : BitVec 64 := BitVec.ofNat 64 (s.place.cellBaseLo.toNat + 4294967296 * hi.toNat)
  let bad := v ≠ 0 && (v &&& 0xFFF != 0 || s.place.cellSize.toNat != s.cellarNeed)
  if v ≠ s.place.cellBase ∧ bad then .error .werr
  else .ok (s.onPlace fun p => { p with cellBase := v, cellCur := [], cellFails := 0, cellOff := false })

/-- One word of the Cellar area is written. -/
def State.writeCellar (s : State) (k : Nat) (v : Word) : Except Status State :=
  match k with
  | 0 => .ok (s.onPlace fun p => { p with cellBaseLo := v })
  | 1 => s.writeCellBase v
  | 2 => .ok (s.onPlace fun p => { p with cellSizeLo := v })
  | _ => s.writeCellSize v

/-- What the write of a word of an area does (R377). -/
def State.areaWrite (s : State) (ar : Area) (k : Nat) (v mask : Word) : Except Status State :=
  if mask = 0 then .ok s
  else
    match ar with
    | .unassigned => .ok s
    | .cellar => s.writeCellar k (merge (s.areaWord .cellar k) v mask)
    | .health | .lantern | .linkLast | .syndromes | .setRecord | .otp | .sqCopies | .cqCopies | .mirrorCopy | .keys
    | .eccLog => .error .werr

/-- A write of IND_DATA; IND_ADDR then goes on by 1, whatever the status (R375). -/
def State.indWrite (s : State) (v mask : Word) : State × Status :=
  let a := s.link.indAddr
  let ar := areaOf a
  if ar.owner.noPower s then (s.indNext, .nopwr)
  else if ar.owner.held s then (s.indNext, .werr)
  else
    let t := s.snapFor ar
    match t.areaWrite ar (a.toNat - ar.base) v mask with
    | .ok u => (u.indNext, .ok)
    | .error e => (t.indNext, e)

/-! ### Reads -/

/-- The stream that STREAM_SEL selects (R357). -/
def State.selStream (s : State) : Stream := s.stream s.link.streamSel.toNat

/-- The channel that CHAN_SEL selects. -/
def State.selChan (s : State) : Channel := s.chan s.link.chanSel.toNat

/-- A value that recovery restores: 0 before DEV_STATE leaves RECOVER (R354). -/
def State.afterRec (s : State) (w : Word) : Word := if s.restored then w else 0

/-- RAIL_STATUS: the two measurements are free values within the bounds of the rail's state (log 13). -/
def State.railWord (s : State) : Word :=
  let r := s.link.railSel.toNat
  match railOf r with
  | none => 0
  | some k =>
    let x := s.rail k
    x.flags ||| wordOf [(0, 13, x.volt k (Config.railVolt r s.draws).toNat), (16, 12, x.curr k (Config.railCurr r s.draws).toNat)]

/-- What a read of a register shows while its owner runs: the address map of R356. Reserved addresses read as 0 (R8). -/
def State.regValue (s : State) (a : Nat) : Word :=
  match a with
  | 0x00 => 0x56473634
  | 0x01 => idRev
  | 0x02 => s.devWord
  | 0x03 => wordOf [(0, 8, shownC s.clock.refreshPct s.clock.refreshP), (16, 1, bit s.clock.bootHold)]
  | 0x04 => s.link.modeRead
  | 0x05 => wordOf [(0, 20, s.link.irqStatus.toNat)]
  | 0x06 => wordOf [(0, 20, s.link.irqEnable.toNat)]
  | 0x07 => s.attnWord
  | 0x08 => s.lamp.ctrlWord
  | 0x09 => s.lamp.srcWord
  | 0x0A => wordOf [(0, 26, shownC s.lamp.period s.lamp.periodP)]
  | 0x0B => halfOf s.lamp.cycle 0
  | 0x0C => s.lamp.latchHi.getD (halfOf s.lamp.cycle 1)
  | 0x0D => wordOf [(0, 10, shownC s.lamp.permil s.lamp.permilP)]
  | 0x0E => s.planSelWord
  | 0x0F => wordOf [(0, 26, (tget winNone s.planShown s.link.planWin.toNat).field s.link.planField)]
  | 0x10 => wordOf [(0, 10, s.link.streamSel.toNat)]
  | 0x11 => s.afterRec s.selStream.stateWord
  | 0x13 => s.afterRec s.selStream.classWord
  | 0x14 => s.afterRec (halfOf s.selStream.accept 0)
  | 0x15 => s.afterRec (s.intake.latchAccept.getD (halfOf s.selStream.accept 1))
  | 0x16 => s.afterRec (halfOf s.selStream.durable 0)
  | 0x17 => s.afterRec (s.intake.latchDurable.getD (halfOf s.selStream.durable 1))
  | 0x18 => s.afterRec (halfOf s.selStream.trim 0)
  | 0x19 => s.afterRec (s.intake.latchTrim.getD (halfOf s.selStream.trim 1))
  | 0x1A => s.afterRec s.selStream.cycleWord
  | 0x1B => wordOf [(0, 9, s.selStream.fault.toNat)]
  | 0x1C => s.afterRec (wordOf [(0, 24, shownC s.selStream.quota s.selStream.quotaP)])
  | 0x20 => wordOf [(0, 5, s.link.chanSel.toNat)]
  | 0x21 => s.chanWord s.link.chanSel.toNat
  | 0x22 => s.diesWord s.link.chanSel.toNat
  | 0x23 => s.selChan.errsWord
  | 0x24 => s.afterRec s.selChan.retiredWord
  | 0x28 => s.availWord
  | 0x29 => s.needWord
  | 0x2A => wordOf [(0, 1, bit s.power.forceWt)]
  | 0x2B => s.holdupWord
  | 0x2C => wordOf [(0, 3, s.link.railSel.toNat)]
  | 0x2D => s.railWord
  | 0x2E => s.power.tempNow
  | 0x2F => s.pwrWord
  | 0x30 => s.faultWord
  | 0x31 => s.levelWord
  | 0x33 => s.conseqWord
  | 0x34 => wordOf [(0, 4, s.link.policySel.toNat)]
  | 0x35 => s.policyWord
  | 0x36 => wordOf [(0, 4, s.link.syndSel.toNat)]
  | 0x37 => (s.syndWords s.link.syndSel.toNat).getD 0 0
  | 0x38 => s.link.setWord
  | 0x39 => s.setStatusWord
  | 0x3A => wordOf [(0, 3, s.link.peerSel.toNat)]
  | 0x3B => wordOf [(20, 12, s.peerBase.toNat / 1048576)]
  | 0x3C => halfOf s.peerBase.toNat 1
  | 0x40 => wordOf [(0, 3, s.link.memSel.toNat)]
  | 0x41 => s.selMem.pwrWord
  | 0x42 => s.eccStatWord
  | 0x43 => wordOf [(0, 24, s.selMem.lap)]
  | 0x44 => s.afterRec s.selMem.retireWord
  | 0x45 => s.selMem.testWord
  | 0x46 => wordOf [(0, 24, s.selMem.addr.toNat)]
  | 0x47 => s.selMem.dataLane
  | 0x48 => s.selMem.checkLane s.link.memSel.toNat
  | 0x50 => s.wick.qctrlWord
  | 0x51 => s.wick.desc0
  | 0x52 => s.wick.desc1
  | 0x53 => s.wick.desc2
  | 0x54 => wordOf [(8, 8, s.wick.tag.toNat)]
  | 0x55 => s.wick.doneWord
  | 0x56 => s.afterRec s.wick.windowWord
  | 0x60 => s.link.indAddr
  | 0x62 => s.summaryWord
  | 0x70 => s.clock.causeWord
  | 0x71 => s.clock.strapWord
  | 0x72 => s.clock.bootWord
  | 0x7F => s.link.echoReg
  | _ => 0

/-- What a read shows while its owner is held in a RESTART reset: the Reset column (R354, R355). LINK holds its own registers
and answers nothing while it is held. -/
def State.regReset (s : State) (a : Nat) : Word :=
  match a with
  | 0x03 => 75
  | 0x08 => wordOf [(0, 2, 1), (16, 16, 64)]
  | 0x09 => wordOf [(0, 2, 1), (16, 16, 100)]
  | 0x0A => 100000
  | 0x0D => 50
  | 0x0F => BitVec.ofNat 32 (winNone.field s.link.planField)
  | 0x29 => 150
  | 0x2F => wordOf [(0, 8, 248), (8, 8, 100), (16, 8, 248)]
  | 0x50 => wordOf [(0, 1, 1), (8, 5, 16)]
  | 0x70 => 1
  | 0x71 => wordOf [(0, 2, s.clock.bootSrc.toNat), (2, 2, s.clock.clkMode.toNat)]
  | _ => 0

/-- What a read does besides: the low words latch their high words, which one read of the high word takes (R48, R89); a
measurement is drawn. -/
def State.readEffect (s : State) (a : Nat) : State :=
  match a with
  | 0x0B => s.onLamp fun l => { l with latchHi := some (halfOf l.cycle 1) }
  | 0x0C => s.onLamp fun l => { l with latchHi := none }
  | 0x14 => s.onIntake fun i => { i with latchAccept := some (halfOf s.selStream.accept 1) }
  | 0x15 => s.onIntake fun i => { i with latchAccept := none }
  | 0x16 => s.onIntake fun i => { i with latchDurable := some (halfOf s.selStream.durable 1) }
  | 0x17 => s.onIntake fun i => { i with latchDurable := none }
  | 0x18 => s.onIntake fun i => { i with latchTrim := some (halfOf s.selStream.trim 1) }
  | 0x19 => s.onIntake fun i => { i with latchTrim := none }
  | 0x2D => { s with draws := s.draws + 1 }
  | _ => s

/-- One read on the register bus: state, status and word (R25, R353, R355). -/
def State.regRead (s : State) (a : Nat) : State × Status × Word :=
  if a = 0x61 then s.indRead
  else
    let o := ownerOf s a
    if o.noPower s then (s, .nopwr, 0)
    else if o.held s then (s, .ok, s.regReset a)
    else (s.readEffect a, .ok, s.regValue a)

/-! ### Writes -/

/-- DEV_CTRL (R184, R358, R359): SOFT_RESET is left for after the response. -/
def State.writeDevCtrl (s : State) (v mask : Word) : Except Status State :=
  let cur := s.regValue 0x03
  let c := s.clock
  let pct := written cur v mask 0 8
  let act := fieldOf (v &&& mask) 8 4
  let hold := (written cur v mask 16 1).getD (bit c.bootHold) != 0
  let confirm := fieldOf (v &&& mask) 24 8
  let pctBad := refusedC c.refreshPct c.refreshP pct fun x => decide (x < 50) || decide (95 < x)
  let holdBad := hold != c.bootHold && c.dev ≠ .boot
  let actBad := act != 0 && (confirm != 0xA5 || decide (2 < act) || (act == 1 && s.warmRefused) ||
    (act == 2 && s.eraseRefused))
  if pctBad || holdBad || actBad then .error .werr
  else
    let s1 := s.onClock fun c => { c with refreshP := pendC c.refreshPct c.refreshP pct, bootHold := hold }
    .ok (if act = 1 then s1.onLink fun l => { l with act := .softReset }
      else if act = 2 then s1.cryptoErase else s1)

/-- IRQ_ENABLE (R360, R361): enabling a bit that is set signals vector 32. -/
def State.writeIrqEnable (s : State) (v mask : Word) : State :=
  let n : BitVec 20 := (merge (s.regValue 0x06) v mask).setWidth 20
  let s1 := s.onLink fun l => { l with irqEnable := n }
  if s.link.irqStatus &&& n &&& ~~~s.link.irqEnable ≠ 0 then s1.signal 32 else s1

/-- The mode that will be in force at the next marker (R364), with a MODE that the same write makes pending. -/
def LampState.modeNext (l : LampState) (w : Option Nat) : BitVec 2 :=
  match w with
  | some m => BitVec.ofNat 2 m
  | none => shownC l.mode l.modeP

/-- PERIOD × TICK_DIV × 10 ns lies within 200 µs to 4 s (R364). -/
def productOk (period div : Nat) : Bool := decide (20000 ≤ period * div) && decide (period * div ≤ 400000000)

/-- CYC_CTRL (R363, R364). -/
def State.writeCycCtrl (s : State) (v mask : Word) : Except Status State :=
  let l := s.lamp
  let cur := l.ctrlWord
  let trim := written cur v mask 4 6
  let win := written cur v mask 16 16
  if refusedC l.jitterWin l.jitterWinP win fun x => decide (x = 0) then .error .werr
  else .ok (s.onLamp fun l => { l with markTrimP := pendC l.markTrim l.markTrimP trim
                                       jitterWinP := pendC l.jitterWin l.jitterWinP win })

/-- CYC_SRC (R35, R36, R364): a write of MODE always makes it pending. -/
def State.writeCycSrc (s : State) (v mask : Word) : Except Status State :=
  let l := s.lamp
  let cur := l.srcWord
  let mode := written cur v mask 0 2
  let div := written cur v mask 16 16
  let divBad := refusedC l.tickDiv l.tickDivP div fun x =>
    decide (x = 0) || (l.modeNext mode == 2 && !productOk (shownC l.period l.periodP) x)
  if mode = some 3 ∨ divBad = true then .error .werr
  else .ok (s.onLamp fun l => { l with
    modeP := match mode with
      | some m => some (BitVec.ofNat 2 m)
      | none => l.modeP
    tickDivP := pendC l.tickDiv l.tickDivP div })

/-- CYC_PERIOD (R41, R364): refused in an external mode. -/
def State.writeCycPeriod (s : State) (v mask : Word) : Except Status State :=
  let l := s.lamp
  let p := written (s.regValue 0x0A) v mask 0 26
  let bad := refusedC l.period l.periodP p fun x =>
    extMode (l.modeNext none) || decide (x < 256) || !productOk x (shownC l.tickDiv l.tickDivP)
  if bad then .error .werr else .ok (s.onLamp fun l => { l with periodP := pendC l.period l.periodP p })

/-- CYC_COUNT (R49, R365): with the staged high word, or the current one; a number not above the current one is refused, but the current one
itself is never the cause of a refusal and changes nothing (R353; log 88). -/
def State.writeCycCount (s : State) (v mask : Word) : Except Status State :=
  if mask = 0 then .ok s
  else
    let lo := merge (halfOf s.lamp.cycle 0) v mask
    let hi := s.lamp.stagedHi.getD (halfOf s.lamp.cycle 1)
    let n := lo.toNat + 4294967296 * hi.toNat
    if n = s.lamp.cycle then .ok s
    else if n < s.lamp.cycle then .error .werr
    else .ok (s.onLamp fun l => { l with cycleP := some n })

/-- CYC_COUNT_HI only stages (R49). -/
def State.writeCycCountHi (s : State) (v mask : Word) : State :=
  if mask = 0 then s
  else s.onLamp fun l => { l with stagedHi := some (merge (l.stagedHi.getD (halfOf l.cycle 1)) v mask) }

/-- TAIL_GRACE (R62). -/
def State.writeTailGrace (s : State) (v mask : Word) : Except Status State :=
  let l := s.lamp
  let p := written (s.regValue 0x0D) v mask 0 10
  if refusedC l.permil l.permilP p fun x => decide (500 < x) then .error .werr
  else .ok (s.onLamp fun l => { l with permilP := pendC l.permil l.permilP p })

/-- PLAN_SEL (R363). -/
def State.writePlanSel (s : State) (v mask : Word) : Except Status State :=
  let m := merge s.planSelWord v mask
  if fieldOf m 4 2 = 3 then .error .werr
  else .ok (s.onLink fun l => { l with planWin := BitVec.ofNat 4 (fieldOf m 0 4), planField := BitVec.ofNat 2 (fieldOf m 4 2)
                                       planView := fieldOf m 8 1 != 0 })

/-- PLAN_WIN (R51, R364): one field of one window of the pending plan. -/
def State.writePlanWin (s : State) (v mask : Word) : Except Status State :=
  let l := s.lamp
  let base := shownC l.plan l.planP
  let w := s.link.planWin.toNat
  let f := s.link.planField
  let x := tget winNone base w
  let cur := x.field f
  match written (BitVec.ofNat 32 cur) v mask 0 26 with
  | none => .ok s
  | some n =>
    if n = cur then .ok s
    else if (f = 1 ∧ n = 0) ∨ (f = 2 ∧ 15 < n) then .error .werr
    else .ok (s.onLamp fun l => { l with planP := some (tset winNone base w (x.withField f n)) })

/-- STREAM_SEL (R357): the high-word latches of R89 and the staged ST_TRIM_HI go. -/
def State.writeStreamSel (s : State) (v mask : Word) : State :=
  if !selects mask 0 10 then s
  else
    (s.onLink fun l => { l with streamSel := (merge (s.regValue 0x10) v mask).setWidth 10 }).onIntake fun i =>
      { i with latchAccept := none, latchDurable := none, latchTrim := none, trimHi := none }

/-- ST_CLASS (R95, R367): class Q, quiesced while the stream is FREE. -/
def State.writeStClass (s : State) (v mask : Word) : Except Status State :=
  let i := s.link.streamSel.toNat
  let e := s.stream i
  let m := merge e.classWord v mask
  let c : BitVec 3 := m.setWidth 3
  let en := fieldOf m 3 1 != 0
  if c = e.cls ∧ en = e.mirrorEn then .ok s
  else if e.st ≠ .free then .error .werr
  else .ok ((s.modStream i fun e => { e with cls := c, mirrorEn := en }).noteChange i .classChanged)

/-- ST_TRIM_HI only stages (R90). -/
def State.writeStTrimHi (s : State) (v mask : Word) : State :=
  if mask = 0 then s
  else s.onIntake fun i => { i with trimHi := some (merge (i.trimHi.getD (halfOf s.selStream.trim 1)) v mask) }

/-- ST_FAULT: written ones clear (R366). -/
def State.writeStFault (s : State) (v mask : Word) : State :=
  s.modStream s.link.streamSel.toNat fun e => { e with fault := e.fault &&& ~~~((v &&& mask).setWidth 9) }

/-- ST_QUOTA (R96, R367): class C, for the selected stream. -/
def State.writeStQuota (s : State) (v mask : Word) : State :=
  s.modStream s.link.streamSel.toNat fun e =>
    { e with quotaP := pendC e.quota e.quotaP (written (wordOf [(0, 24, shownC e.quota e.quotaP)]) v mask 0 24) }

/-- HOLDUP_CTRL (R287): FORCE_WT is a cause of R108, GAUGE_NOW asks for a measurement. -/
def State.writeHoldup (s : State) (v mask : Word) : State :=
  if !selects mask 0 2 then s
  else
    let force := fieldOf (merge (s.regValue 0x2A) v mask) 0 1 != 0
    let ask := fieldOf (v &&& mask) 1 1 != 0
    (s.onPower fun p => { p with forceWt := force, gaugeReq := p.gaugeReq || ask }).wtUpdate

/-- PWR_CTRL (R289). -/
def State.writePwr (s : State) (v mask : Word) : Except Status State :=
  let m := merge s.pwrWord v mask
  let b := fieldOf m 0 8
  let t := fieldOf m 8 8
  if (b ≠ s.power.budget ∧ (b < 40 ∨ 248 < b)) ∨ (t ≠ s.power.throttle ∧ (t < 85 ∨ 103 < t)) then .error .werr
  else .ok (s.onPower fun p => { p with budget := b, throttle := t })

/-- FAULT_ACK (R369, R455). -/
def State.writeAck (s : State) (v mask : Word) : Except Status State :=
  let units : BitVec 13 := (v &&& mask).setWidth 13
  let self := fieldOf (v &&& mask) 31 1 != 0
  if s.ackRefused units || (self && s.fault.differs) then .error .werr
  else
    let s1 := s.ackUnits units
    .ok (if self then s1.ackSelf else s1)

/-- FAULT_CONSEQ: written ones clear (R369). -/
def State.writeConseq (s : State) (v mask : Word) : State :=
  (unitsOf ((v &&& mask).setWidth 13)).foldl (fun t u => t.modUnit u fun r => { r with conseq := false }) s

/-- A select of units: 0 to 12, and for FAULT_SYND_SEL also 15 (R369). -/
def selUnit (cur : BitVec 4) (v mask : Word) (self : Bool) : Option (BitVec 4) :=
  let n : BitVec 4 := (merge (cur.setWidth 32) v mask).setWidth 4
  if n = cur ∨ n.toNat ≤ 12 ∨ (self = true ∧ n = 15) then some n else none

/-- FAULT_POLICY of the selected unit (R369). -/
def State.writePolicy (s : State) (v mask : Word) : State :=
  match unitOf s.link.policySel.toNat with
  | none => s
  | some u =>
    let m := merge s.policyWord v mask
    s.modUnit u fun r => { r with base := fieldOf m 0 2, snuffEnd := fieldOf m 2 1 != 0 }

/-- SET_CTRL (R148, R371): an accepted write sets every m_p to the current cycle number. -/
def State.writeSetCtrl (s : State) (v mask : Word) : Except Status State :=
  let m := merge s.link.setWord v mask
  let member := fieldOf m 16 3
  let count := fieldOf m 20 3
  let wait := fieldOf m 24 8
  if count = 0 ∨ 6 < count ∨ count ≤ member ∨ wait = 0 then .error .werr
  else
    .ok ((s.onLink fun l => { l with setId := m.setWidth 16, member := member, count := count, wait := wait
                                     setWritten := true }).onHost fun h =>
      { h with mp := (List.range 6).foldl (fun t p => tset 0 t p s.lamp.cycle) [] })

/-- SET_PEER_ADDR of the selected peer: the low word keeps its bits [19:0] at 0 (R370). -/
def State.writePeer (s : State) (hi : Bool) (v mask : Word) : State :=
  let m := merge (s.regValue (if hi then 0x3C else 0x3B)) v mask
  let a := s.peerBase.toNat
  let lo := if hi then a % 4294967296 else m.toNat / 1048576 * 1048576
  let up := if hi then m.toNat else a / 4294967296
  s.onHost fun h => { h with peerAddr := tset 0 h.peerAddr s.link.peerSel.toNat (BitVec.ofNat 64 (lo + 4294967296 * up)) }

/-- A three-bit select that takes 0 to top (R288, R370, R372). -/
def sel3 (cur : BitVec 3) (v mask : Word) (top : Nat) : Option (BitVec 3) :=
  let n : BitVec 3 := (merge (cur.setWidth 32) v mask).setWidth 3
  if n = cur ∨ n.toNat ≤ top then some n else none

/-- A select takes a value, or the write is refused. -/
def putSel {α : Type} (n : Option α) (f : α → State) : Except Status State :=
  match n with
  | some x => .ok (f x)
  | none => .error .werr

/-- MEM_RETIRE: TARGET acts if the mask selects it (R372, R373). -/
def State.writeRetire (s : State) (v mask : Word) : Except Status State :=
  if selects mask 0 20 then s.writeMemRetire s.link.memSel.toNat (fieldOf (v &&& mask) 0 20) else .ok s

/-- MEM_TEST_CTRL: the fields that the mask selects (R372). -/
def State.writeTest (s : State) (v mask : Word) : Except Status State :=
  let cur := s.selMem.testWord
  s.writeTestCtrl s.link.memSel.toNat ((written cur v mask 0 1).map fun x => x != 0)
    (if selects mask 1 2 then some (fieldOf (v &&& mask) 1 2) else none) (written cur v mask 8 4)

/-- WICK_SUBMIT (R374): TAG is held; GO submits with it. -/
def State.writeSubmit (s : State) (v mask : Word) : Except Status State :=
  let tag : Byte := BitVec.ofNat 8 (fieldOf (merge (s.regValue 0x54) v mask) 8 8)
  if fieldOf (v &&& mask) 0 1 = 1 then s.submitWick tag else .ok (s.onWick fun w => { w with tag := tag })

/-- MEM_PWR.STATE, if the mask selects it. -/
def State.writePwrState (s : State) (v mask : Word) : Except Status State :=
  match written s.selMem.pwrWord v mask 0 2 with
  | some x => s.writeMemPwr s.link.memSel.toNat (BitVec.ofNat 2 x)
  | none => .ok s

/-- The writes at addresses 0x00 to 0x0F: the identity and cycle registers; k is the address in the page. -/
def State.regPut0 (s : State) (k : Nat) (v mask : Word) : Except Status State :=
  match k with
  | 0x3 => s.writeDevCtrl v mask
  | 0x5 => .ok (s.onLink fun l => { l with irqStatus := l.irqStatus &&& ~~~((v &&& mask).setWidth 20) })
  | 0x6 => .ok (s.writeIrqEnable v mask)
  | 0x8 => s.writeCycCtrl v mask
  | 0x9 => s.writeCycSrc v mask
  | 0xA => s.writeCycPeriod v mask
  | 0xB => s.writeCycCount v mask
  | 0xC => .ok (s.writeCycCountHi v mask)
  | 0xD => s.writeTailGrace v mask
  | 0xE => s.writePlanSel v mask
  | 0xF => s.writePlanWin v mask
  | _ => .ok s

/-- The writes at addresses 0x10 to 0x1F: the stream registers; k is the address in the page. -/
def State.regPut1 (s : State) (k : Nat) (v mask : Word) : Except Status State :=
  match k with
  | 0x0 => .ok (s.writeStreamSel v mask)
  | 0x2 => s.stCommand s.link.streamSel.toNat (fieldOf (v &&& mask) 0 3)
  | 0x3 => s.writeStClass v mask
  | 0x8 =>
    if mask = 0 then .ok s
    else s.writeTrimLo s.link.streamSel.toNat (merge (halfOf s.selStream.trim 0) v mask)
  | 0x9 => .ok (s.writeStTrimHi v mask)
  | 0xB => .ok (s.writeStFault v mask)
  | 0xC => .ok (s.writeStQuota v mask)
  | _ => .ok s

/-- The writes at addresses 0x20 to 0x2F: the channel and power registers; k is the address in the page. -/
def State.regPut2 (s : State) (k : Nat) (v mask : Word) : Except Status State :=
  match k with
  | 0x0 => .ok (s.onLink fun l => { l with chanSel := (merge (s.regValue 0x20) v mask).setWidth 5 })
  | 0xA => .ok (s.writeHoldup v mask)
  | 0xC =>
    putSel (sel3 s.link.railSel v mask 4) fun n => s.onLink fun l => { l with railSel := n }
  | 0xF => s.writePwr v mask
  | _ => .ok s

/-- The writes at addresses 0x30 to 0x3F: the fault and joined-set registers; k is the address in the page. -/
def State.regPut3 (s : State) (k : Nat) (v mask : Word) : Except Status State :=
  match k with
  | 0x2 => s.writeAck v mask
  | 0x3 => .ok (s.writeConseq v mask)
  | 0x4 =>
    putSel (selUnit s.link.policySel v mask false) fun n => s.onLink fun l => { l with policySel := n }
  | 0x5 => .ok (s.writePolicy v mask)
  | 0x6 =>
    putSel (selUnit s.link.syndSel v mask true) fun n => s.onLink fun l => { l with syndSel := n }
  | 0x8 => if mask &&& 0xFF77FFFF = 0 then .ok s else s.writeSetCtrl v mask
  | 0xA =>
    putSel (sel3 s.link.peerSel v mask 5) fun n => s.onLink fun l => { l with peerSel := n }
  | 0xB => .ok (s.writePeer false v mask)
  | 0xC => .ok (s.writePeer true v mask)
  | _ => .ok s

/-- The writes at addresses 0x40 to 0x4F: the memory registers; k is the address in the page. -/
def State.regPut4 (s : State) (k : Nat) (v mask : Word) : Except Status State :=
  let m := s.link.memSel.toNat
  match k with
  | 0x0 =>
    putSel (sel3 s.link.memSel v mask 4) fun n => s.onLink fun l => { l with memSel := n }
  | 0x1 => s.writePwrState v mask
  | 0x4 => s.writeRetire v mask
  | 0x5 => s.writeTest v mask
  | 0x6 => .ok (s.modMemory m fun x => { x with addr := (merge (s.regValue 0x46) v mask).setWidth 24 })
  | 0x7 => .ok (s.modMemory m fun x => x.setDataLane (merge x.dataLane v mask))
  | 0x8 => .ok (s.modMemory m fun x => x.setCheckLane m (merge (x.checkLane m) v mask))
  | _ => .ok s

/-- The writes at addresses 0x50 to 0x5F: the Wick registers; k is the address in the page. -/
def State.regPut5 (s : State) (k : Nat) (v mask : Word) : Except Status State :=
  match k with
  | 0x0 => .ok (s.onWick fun w => { w with autoSus := fieldOf (merge w.qctrlWord v mask) 0 1 != 0 })
  | 0x1 => .ok (s.onWick fun w => { w with desc0 := merge w.desc0 v mask })
  | 0x2 => .ok (s.onWick fun w => { w with desc1 := merge w.desc1 v mask })
  | 0x3 => .ok (s.onWick fun w => { w with desc2 := merge w.desc2 v mask })
  | 0x4 => s.writeSubmit v mask
  | 0x5 => .ok (if fieldOf (v &&& mask) 31 1 = 1 then s.takeWickDone else s)
  | _ => .ok s

/-- The writes at addresses 0x60 to 0x6F: the indirect access; k is the address in the page. -/
def State.regPut6 (s : State) (k : Nat) (v mask : Word) : Except Status State :=
  match k with
  | 0x0 => .ok (if mask = 0 then s else s.writeIndAddr (merge s.link.indAddr v mask))
  | _ => .ok s

/-- The writes at addresses 0x70 to 0x7F: the start-up registers and LINK_ECHO; k is the address in the page. -/
def State.regPut7 (s : State) (k : Nat) (v mask : Word) : Except Status State :=
  match k with
  | 0x0 => .ok (s.onClock fun c => { c with cause := c.cause &&& ~~~((v &&& mask).setWidth 14) })
  | 0xF => .ok (s.onLink fun l => { l with echoReg := merge l.echoReg v mask })
  | _ => .ok s

/-- The write at address 16 × page + k (R356). -/
def State.regPutAt (s : State) (page k : Nat) (v mask : Word) : Except Status State :=
  match page with
  | 0 => s.regPut0 k v mask
  | 1 => s.regPut1 k v mask
  | 2 => s.regPut2 k v mask
  | 3 => s.regPut3 k v mask
  | 4 => s.regPut4 k v mask
  | 5 => s.regPut5 k v mask
  | 6 => s.regPut6 k v mask
  | 7 => s.regPut7 k v mask
  | _ => .ok s

/-- The write of a register while its owner runs. Read-only and reserved addresses ignore it (R7, R8, R353). -/
def State.regPut (s : State) (a : Nat) (v mask : Word) : Except Status State := s.regPutAt (a / 16) (a % 16) v mask

/-- One write on the register bus: state and status. A refused write changes nothing, but for IND_ADDR at IND_DATA (R25,
R353, R355, R375). -/
def State.regWrite (s : State) (a : Nat) (v mask : Word) : State × Status :=
  if a = 0x61 then s.indWrite v mask
  else
    let o := ownerOf s a
    if o.noPower s || (s.link.run.isSome && s.snuff.trigger.isSome && heldAtTrigger a) then (s, .nopwr)
    else if o.held s then (s, .werr)
    else
      match s.regPut a v mask with
      | .ok t => (t, .ok)
      | .error e => (s, e)

end Sys2Proof.Machine
end

