-- ==== Sys2Proof/Machine/Link.lean ====
section
/-! DEFINITION. The Weasko link (R318 to R352): messages and their operations, the frames of the native protocol, duplicate
suppression, SWITCH and SLEEP, and the Novven protocol. -/
namespace Sys2Proof.Machine
open Sys2Proof

/-! ### Acts that follow a response (R333, R338 to R340, R359) -/

/-- An act is asked for: a soft reset, which ends with a link reset, is not replaced by one. -/
def LinkState.setAct (l : LinkState) (a : LinkAct) : LinkState :=
  if l.act = .softReset ∧ a = .resetLink then l else { l with act := a }

/-- The response has been sent: its act is done. -/
def State.doAct (s : State) : State :=
  let t := s.onLink fun l => { l with act := .none }
  match s.link.act with
  | .none => t
  | .resetLink => (t.resetSource 6).linkResetIfSelected
  | .resetWarm => t.startReset .warm
  | .resetCold => t.startReset .cold
  | .softReset => t.startReset .soft
  | .switch w r => t.onLink fun l => { l with switching := some (l.width, l.rate, false), width := w, rate := r }
  | .sleep => t.onLink fun l => { l with asleep := true }
  | .wake => t.onLink fun l => { l with asleep := false }

/-! ### Operations (R333) -/

/-- Opcodes. -/
def LOp.code : LOp → Byte
  | .readReg _ _ => 0x01 | .writeReg _ _ => 0x02 | .writeMasked _ _ _ => 0x03 | .indRead _ _ => 0x04
  | .indWrite _ _ => 0x05 | .reset _ => 0x06 | .switch _ _ => 0x07 | .sleep => 0x08 | .wake => 0x09 | .echo _ => 0x0A

/-- Bytes of result data. -/
def LOp.dataLen : LOp → Nat
  | .readReg _ n | .indRead _ n => 4 * n
  | .echo d => d.length
  | .writeReg _ _ | .writeMasked _ _ _ | .indWrite _ _ | .reset _ | .switch _ _ | .sleep | .wake => 0

/-- The counts and lengths of R333. -/
def LOp.inRange : LOp → Bool
  | .readReg _ n => decide (1 ≤ n) && decide (n ≤ 64)
  | .writeReg _ ws => decide (1 ≤ ws.length) && decide (ws.length ≤ 64)
  | .indRead _ n => decide (1 ≤ n) && decide (n ≤ 4060)
  | .indWrite _ ws => decide (1 ≤ ws.length) && decide (ws.length ≤ 4060)
  | .echo d => decide (d.length ≤ 16000)
  | .writeMasked _ _ _ | .reset _ | .switch _ _ | .sleep | .wake => true

/-- Words of an access. -/
def LOp.words : LOp → Nat
  | .readReg _ n | .indRead _ n => n
  | .writeReg _ ws | .indWrite _ ws => ws.length
  | .writeMasked _ _ _ => 1
  | .reset _ | .switch _ _ | .sleep | .wake | .echo _ => 0

/-- The first n words of a byte list. -/
def wordList (bs : List Byte) (n : Nat) : List Word := (List.range n).map (wordAt bs)

/-- The bytes of words, least significant byte first. -/
def wordBytes (ws : List Word) : List Byte := ws.flatMap fun w => leBytes 4 w.toNat

/-- The operation at the head of a byte list and what follows it; nothing where it is not listed or not complete. -/
def parseOp (bs : List Byte) : Option (LOp × List Byte) :=
  match bs with
  | [] => none
  | o :: r =>
    let need := fun (n : Nat) (x : LOp) => if n ≤ r.length then some (x, r.drop n) else none
    let at_ := fun (i : Nat) => r.getD i 0
    let num := fun (i k : Nat) => leNat ((r.drop i).take k)
    match o.toNat with
    | 1 => need 2 (.readReg (at_ 0) (at_ 1).toNat)
    | 2 =>
      let n := (at_ 1).toNat
      need (2 + 4 * n) (.writeReg (at_ 0) (wordList (r.drop 2) n))
    | 3 => need 9 (.writeMasked (at_ 0) (wordAt (r.drop 1) 0) (wordAt (r.drop 1) 1))
    | 4 => need 6 (.indRead (wordAt r 0) (num 4 2))
    | 5 =>
      let n := num 4 2
      need (6 + 4 * n) (.indWrite (wordAt r 0) (wordList (r.drop 6) n))
    | 6 => need 1 (.reset (at_ 0))
    | 7 => need 2 (.switch (at_ 0) (at_ 1))
    | 8 => some (.sleep, r)
    | 9 => some (.wake, r)
    | 10 => need (2 + num 0 2) (.echo ((r.drop 2).take (num 0 2)))
    | _ => none

/-- The operations of a message, each ending where the next begins; the first argument bounds their number. -/
def parseOps : Nat → List Byte → Option (List LOp)
  | _, [] => some []
  | 0, _ :: _ => none
  | n + 1, b :: bs =>
    match parseOp (b :: bs) with
    | none => none
    | some (o, rest) =>
      match parseOps n rest with
      | none => none
      | some os => some (o :: os)

/-- The operations that stand alone in their message. -/
def LOp.alone : LOp → Bool
  | .switch _ _ => true
  | .sleep => true
  | .wake => true
  | .readReg _ _ | .writeReg _ _ | .writeMasked _ _ _ | .indRead _ _ | .indWrite _ _ | .reset _ | .echo _ => false

/-- RESET_CMD. -/
def LOp.isReset : LOp → Bool
  | .reset _ => true
  | _ => false

/-- The bytes of a response: its header, and for each result two bytes and its data (R335). -/
def responseLen (os : List LOp) : Nat := 4 + sumBy (fun o => 2 + o.dataLen) os

/-- The placement rules of R333. -/
def placed (os : List LOp) : Bool :=
  !(os.dropLast.any LOp.isReset) && (!(os.any LOp.alone) || os.length == 1)

/-- The message's operations if it passes the check of R334. -/
def checkMsg (bs : List Byte) : Option (List LOp) :=
  match parseOps bs.length bs with
  | none => none
  | some os =>
    if os.all LOp.inRange && placed os && decide (responseLen os ≤ 16256) then some os else none

/-! ### Execution -/

/-- Address a is not passed over: the addresses of an access lie below 0x80, but IND_DATA is reached each time (R333,
R336). -/
def reaches (a : Byte) (n : Nat) : Bool := a == 0x61 || decide (a.toNat + n ≤ 128)

/-- The step from one address of an access to the next: an operand address 0x61, IND_DATA, is reached each time (R333). -/
def addrStep (a : Nat) : Nat := if a = 0x61 then 0 else 1

/-- n registers are read from address a on, with a step; the first failure ends it, and the words not read are 0 (R335). -/
def readRegs (k : Nat) : Nat → State → Nat → State × Status × List Word
  | 0, s, _ => (s, .ok, [])
  | n + 1, s, a =>
    let r := s.regRead a
    if r.2.1 ≠ .ok then (r.1, r.2.1, List.replicate (n + 1) 0)
    else
      let q := readRegs k n r.1 (a + k)
      (q.1, q.2.1, r.2.2 :: q.2.2)

/-- Words are written to registers from address a on, with a step; the first failure ends it, and so, for the time being, does a RESUME that
waits (R81). -/
def writeRegs (k : Nat) : List Word → State → Nat → State × Status
  | [], s, _ => (s, .ok)
  | w :: ws, s, a =>
    let r := s.regWrite a w maskAll
    if r.2 ≠ .ok then r
    else if r.1.link.paused.isSome then
      (r.1.onLink fun l => { l with paused := l.paused.map fun x => { x with addr := a + k, step := k, words := ws } }, .ok)
    else writeRegs k ws r.1 (a + k)

/-- A reset command's act, or none if it is refused (R338, R463). A kind that R333 does not list is refused. -/
def State.resetAct (s : State) (kind : Byte) : Option LinkAct :=
  if kind = 1 then some .resetLink
  else if kind = 2 then (if s.warmRefused then none else some .resetWarm)
  else if kind = 3 then (if s.coldRefused then none else some .resetCold)
  else none

/-- The act of a SWITCH to a listed width and rate. -/
def switchAct (width rate : Byte) : Option LinkAct :=
  if width.toNat ≤ 1 ∧ rate.toNat ≤ 3 then some (.switch width.toNat rate.toNat) else none

/-- An operation that asks for an act ends OK, or WERR without one. -/
def State.askAct (s : State) (a : Option LinkAct) : State × Status × List Byte :=
  match a with
  | some x => (s.onLink fun l => l.setAct x, .ok, [])
  | none => (s, .werr, [])

/-- One operation: state, status, result data (R333, R336). -/
def State.doOp (s : State) (o : LOp) : State × Status × List Byte :=
  match o with
  | .readReg a n =>
    if !reaches a n then (s, .range, List.replicate (4 * n) 0)
    else
      let r := readRegs (addrStep a.toNat) n s a.toNat
      (r.1, r.2.1, wordBytes r.2.2)
  | .writeReg a ws =>
    if !reaches a ws.length then (s, .range, [])
    else
      let r := writeRegs (addrStep a.toNat) ws s a.toNat
      (r.1, r.2, [])
  | .writeMasked a mask v =>
    if !reaches a 1 then (s, .range, [])
    else
      let r := s.regWrite a.toNat v mask
      (r.1, r.2, [])
  | .indRead a n =>
    if 4294967296 < a.toNat + n then (s, .range, List.replicate (4 * n) 0)
    else
      let r := readRegs 0 n (s.writeIndAddr a) 0x61
      (r.1, r.2.1, wordBytes r.2.2)
  | .indWrite a ws =>
    if 4294967296 < a.toNat + ws.length then (s, .range, [])
    else
      let r := writeRegs 0 ws (s.writeIndAddr a) 0x61
      (r.1, r.2, [])
  | .reset k => s.askAct (s.resetAct k)
  | .switch w r => s.askAct (switchAct w r)
  | .sleep => s.askAct (some .sleep)
  | .wake => s.askAct (some .wake)
  | .echo d => (s, .ok, d)

/-- One result of a response. -/
def result (code : Byte) (st : Status) (data : List Byte) : List Byte := [code, statusCode st] ++ data

/-- The result of an operation that is skipped. -/
def skipped (o : LOp) : List Byte := result o.code .skipped (List.replicate o.dataLen 0)

/-- The operations in order, up to the first that ends other than OK; later ones are SKIPPED (R334). Beside the results stands, where an
operation waits for a RESUME (R81), its opcode and the operations after it. -/
def runOps : List LOp → State → State × List Byte × Option (Byte × List LOp)
  | [], s => (s, [], none)
  | o :: os, s =>
    let r := s.doOp o
    if r.2.1 ≠ .ok then (r.1, result o.code r.2.1 r.2.2 ++ os.flatMap skipped, none)
    else if r.1.link.paused.isSome then (r.1, [], some (o.code, os))
    else
      let q := runOps os r.1
      (q.1, result o.code .ok r.2.2 ++ q.2.1, q.2.2)

/-- The flags of a response, REPLAYED apart (R335). -/
def State.respFlags (s : State) : Byte := BitVec.ofNat 8 (2 * bit (!s.clock.mainOn) + 4 * bit s.link.attnLow)

/-- A message is checked and executed (R334, R335, R337): the number of its results, and what runOps answers. -/
def State.runMessage (s : State) (bs : List Byte) : Nat × State × List Byte × Option (Byte × List LOp) :=
  let s0 := s.onLink fun l => { l with act := .none, modeSeen := some l.modeWord }
  match checkMsg bs with
  | some os => (os.length, runOps os s0)
  | none => (1, s0, result 0 .badmsg [], none)

/-- A message's record in LINK_LAST (R341). -/
def lastRecord (proto : Nat) (ns : Byte) (bs resp : List Byte) : LinkLast :=
  { proto := proto, ns := ns, len := bs.length, crc := crc32c bs, response := resp, restored := false }

/-! ### Frames (R324 to R331) -/

/-- Pieces of 254 bytes; at least one (R331). -/
def chunks254 : Nat → List Byte → List (List Byte)
  | 0, bs => [bs]
  | n + 1, bs => if bs.length ≤ 254 then [bs] else bs.take 254 :: chunks254 n (bs.drop 254)

/-- The control byte (R325). -/
def control (type hi lo : Nat) : Byte := BitVec.ofNat 8 (64 * type + 8 * hi + lo)

/-- An R-frame answers (R329). -/
def LinkState.answerR (l : LinkState) (reason : Byte) : LinkState :=
  { l with sent := some { control := control 2 0 l.vr.toNat, info := [reason], width := l.width }, toSend := [], act := .none }

/-- An S-frame answers (R330). -/
def LinkState.answerS (l : LinkState) (kind : Nat) (info : List Byte) : LinkState :=
  { l with sent := some { control := control 3 kind 0, info := info, width := l.width } }

/-- The next I-frame of the response is sent; V(S) goes on by 1 (R328). -/
def LinkState.sendNext (l : LinkState) : LinkState :=
  match l.toSend with
  | [] => l
  | f :: fs =>
    let x : Frame := { control := control (if fs.isEmpty then 0 else 1) l.vs.toNat l.vr.toNat, info := f, width := l.width }
    { l with sent := some x, lastI := some x, toSend := fs, vs := l.vs + 1 }

/-- The response is sent, or its first frame; with the last frame its act is done. -/
def State.pump (s : State) : State :=
  let t := s.onLink LinkState.sendNext
  if t.link.toSend.isEmpty then t.doAct else t

/-- A response of the VG6480 begins. -/
def State.respond (s : State) (resp : List Byte) : State :=
  (s.onLink fun l => { l with toSend := chunks254 64 resp }).pump

/-- LINK runs: VAUX POR is released, and the unit is neither in a RESTART reset nor without its clock. -/
def State.linkUp (s : State) : Bool := !s.clock.vauxPor && !s.stopped .link

/-- A protocol was chosen on the selected link, and no execution waits: LINK takes what the host sends (R320, R323, R327). -/
def State.linkOpen (s : State) : Bool :=
  s.linkUp && s.link.selected && !s.link.awaiting && !s.link.dead && s.link.run.isNone && s.link.paused.isNone

/-- LINK takes what the host sends in the native protocol. -/
def State.nativeUp (s : State) : Bool := s.linkOpen && !s.link.novven

/-- A valid frame after CHECK_RSP commits the new mode (R339). -/
def LinkState.commit (l : LinkState) : LinkState :=
  match l.switching with
  | some (_, _, true) => { l with switching := none }
  | _ => l

/-- The chain is over. -/
def LinkState.endChain (l : LinkState) : LinkState := { l with chain := [], chainN := 0 }

/-- Protocol, N(S), length and CRC-32C equal those of LINK_LAST (R343). -/
def LinkState.duplicate (l : LinkState) (ns : BitVec 3) (bs : List Byte) : Bool :=
  l.last.any fun x => x.proto == 1 && x.ns == ns.setWidth 8 && x.len == bs.length && x.crc == crc32c bs

/-- The stored response with REPLAYED set. -/
def LinkState.replay (l : LinkState) : List Byte :=
  match l.last with
  | none => []
  | some x =>
    match x.response with
    | [] => []
    | f :: rest => (f ||| 1) :: rest

/-- A duplicate: the stored response is sent, and nothing is executed; vr is what V(R) becomes. -/
def State.sendReplay (s : State) (vr : BitVec 3) : State :=
  (s.onLink fun l => { l.endChain with vr := vr, matchOpen := false, act := .none }).respond s.link.replay

/-- A frame executed enters the Back core's account for the journal tail while the magazine is in service (R122). -/
def State.noteFrame (s : State) (e : LinkLast) : State :=
  if s.running then s.onJournal fun j => { j with frames := j.frames ++ [e] } else s

/-- A message has been executed: it is recorded, and its response is sent, unless a link reset or a deselection came meanwhile (R335, R337,
R341). -/
def State.endMessage (s : State) (ns : BitVec 3) (bs : List Byte) (count : Nat) (out : List Byte) (silent : Bool) : State :=
  let t := s.onLink fun l => { l with modeSeen := none, run := none }
  let resp := [t.respFlags, 0] ++ leBytes 2 count ++ out
  let e := lastRecord 1 (ns.setWidth 8) bs resp
  let u := (t.onLink fun l => { l with last := some e }).noteFrame e
  if silent then u.onLink fun l => { l with act := .none } else u.respond resp

/-- A new message: checked and executed, then recorded and answered; vr is what V(R) becomes. Where one of its operations waits for a RESUME,
the rest is left for later (R81). -/
def State.newMessage (s : State) (ns vr : BitVec 3) (bs : List Byte) : State :=
  let r := s.runMessage bs
  let t := r.2.1.onLink fun l => { l.endChain with vr := vr, matchOpen := false }
  match r.2.2.2 with
  | none => t.endMessage ns bs r.1 r.2.2.1 false
  | some x => t.onLink fun l =>
      { l with run := some { kind := .native ns bs, count := r.1, out := r.2.2.1, code := x.1, rest := x.2, silent := false } }

/-- The complete message of a final I-frame: the decision of R343. It is executed whatever the power does meanwhile (R344, R350). -/
def State.decide343 (s : State) (ns : BitVec 3) (bs : List Byte) : State :=
  if s.link.matchOpen then
    if s.link.restoring then s.onLink fun l => l.endChain.answerR 5
    else if s.link.duplicate ns bs then s.sendReplay (ns + 1)
    else s.newMessage ns (ns + 1) bs
  else if ns = s.link.vr then s.newMessage ns (ns + 1) bs
  else if ns = s.link.vr - 1 ∧ s.link.duplicate ns bs = true then s.sendReplay s.link.vr
  else s.onLink fun l => l.answerR 2

/-- The frame would be the 65th of its chain: it is counted, and the chain discarded (R329). -/
def LinkState.chainFull (l : LinkState) : Bool := decide (64 ≤ l.chainN)

/-- The chain is discarded with reason CHAIN. -/
def LinkState.dropChain (l : LinkState) (ns : BitVec 3) : LinkState :=
  ({ l.endChain with vr := ns + 1 } : LinkState).answerR 3

/-- While the link sleeps, only the frame of R340 acts. -/
def State.wakeFrame (s : State) (ns : BitVec 3) (info : List Byte) : Bool :=
  info == [0x09] && ns == s.link.vr && s.link.chainN == 0

/-- A valid final I-frame. -/
def State.finalFrame (s : State) (ns : BitVec 3) (info : List Byte) : State :=
  if s.link.asleep then (if s.wakeFrame ns info then s.newMessage ns (ns + 1) info else s)
  else
    let t := s.onLink LinkState.commit
    if t.link.chainFull && (t.link.matchOpen || ns == t.link.vr) then t.onLink fun l => l.dropChain ns
    else t.decide343 ns (t.link.chain ++ info)

/-- A valid chained I-frame: acknowledged, or refused (R328, R329, R331). -/
def LinkState.chainFrame (l : LinkState) (ns : BitVec 3) (info : List Byte) : LinkState :=
  if !l.matchOpen && ns != l.vr then l.answerR 2
  else if l.chainFull then l.dropChain ns
  else ({ l with chain := l.chain ++ info, chainN := l.chainN + 1, vr := ns + 1 } : LinkState).answerR 0

/-- The I-frame numbered N(R) is sent again unchanged; where the last I-frame has another number, the last frame is (R329). -/
def LinkState.resend (l : LinkState) (nr : BitVec 3) : LinkState :=
  let again := if l.lastI.any (fun f => f.control.toNat / 8 % 8 == nr.toNat) then l.lastI else l.sent
  { l with sent := again.map fun f => { f with width := l.width } }

/-- The host's R-frame: ACK of a chained frame sends the next one; anything else sends a frame again (R329). -/
def State.rFrame (s : State) (nr : BitVec 3) (reason : Byte) : State :=
  if reason = 0 ∧ s.link.toSend ≠ [] ∧ nr = s.link.vs then s.pump else s.onLink fun l => l.resend nr

/-! ### The Novven protocol (R345 to R349) -/

/-- Characters that were sent again count in the health log while it runs (R242, R348). -/
def State.countRepeats (s : State) (n : Nat) : State := if s.clock.mainOn && decide (0 < n) then s.countHi 0x2D n else s

/-- LINK takes what the host sends in the Novven protocol. -/
def State.novvenUp (s : State) : Bool := s.linkOpen && s.link.novven

/-- The header's OP, ADDR and COUNT are taken (R346, R347). -/
def headerOk (op count : Byte) (sum : Bool) : Bool :=
  sum && ((op == 0xA1 || op == 0xA2) && decide (1 ≤ count.toNat) && decide (count.toNat ≤ 16) || (op == 0xA4 && count == 0))

/-- The XOR of characters. -/
def xorAll (bs : List Byte) : Byte := bs.foldl (fun a b => a ^^^ b) 0

/-- The four characters of a header. -/
def NovvenCmd.header (c : NovvenCmd) : List Byte := [c.op, c.addr, c.count, c.op ^^^ c.addr ^^^ c.count]

/-- A result character (R346). -/
def novvenResult (st : Status) : Byte := 0x60 + statusCode st

/-- The characters that are sent: a command is abandoned at the one whose fourth sending fails (R348). -/
def charsSent (f : CharFails) (cs : List Byte) : List Byte :=
  match f.lost with
  | some k => cs.take (k + 1)
  | none => cs

/-- The parity errors of a command's answers after the first, which answered the header. -/
def NovvenCmd.later (c : NovvenCmd) : CharFails := { c.fails with lost := c.fails.lost.map fun k => k - 1 }

/-- A Novven command ends with its answer characters; it is recorded with N(S) 0xFF (R349). The manual does not say which bytes count as the
message and as the response: here header, data and XOR, and result character, data and XOR (DESIGN CHOICE, log 141). -/
def State.novvenEnd (s : State) (msg answer : List Byte) (f : CharFails) : State :=
  let e := lastRecord 2 0xFF msg answer
  ((s.countRepeats f.again).onLink fun l => { l with command := none, answer := charsSent f answer, last := some e, modeSeen := none }).noteFrame e

/-! ### Selection -/

/-- LINK takes a register access: a protocol was chosen, and the link is awake. -/
def State.busOpen (s : State) : Bool := s.linkOpen && !s.link.asleep

/-- LINK takes an operation of R333: the native protocol was chosen, and the link is awake (R339, R345). -/
def State.opsOpen (s : State) : Bool := s.nativeUp && !s.link.asleep

/-- An access by itself has ended, or waits for a RESUME (R81): its status and the words read stand in LINK. -/
def State.endAccess (s : State) (st : Status) (ws : List Word) (code : Byte) : State :=
  let t := s.onLink fun l => { l with status := st, rdata := ws }
  (if t.link.paused.isSome then
    t.onLink fun l => { l with run := some { kind := .single, count := 1, out := [], code := code, rest := [], silent := false } }
  else t).doAct

/-- LINK_DESELECT: WSEL# high; what is being sent is abandoned (R320). -/
def execLinkDeselect (s : State) : Host.Outcome State Fault Refusal :=
  .next (s.onLink fun l => { l with selected := false, toSend := [], act := .none, run := l.run.map fun r => { r with silent := true } })

/-- PROTOCOL_SELECT (R323): four failures leave the link unselected until the next link reset. -/
def execProtocolSelect (ch : Byte) (parityFails : Nat) (s : State) : Host.Outcome State Fault Refusal :=
  if !s.linkUp || !s.link.selected || !s.link.awaiting || s.link.dead then .next s
  else
    let t := s.countRepeats (min parityFails 3)
    if 4 ≤ parityFails then .next (t.onLink fun l => { l with dead := true })
    else if ch = 0xF1 then .next (t.onLink fun l => { l with awaiting := false })
    else .next (t.onLink fun l => { l with awaiting := false, novven := true, opSeen := some ch })

/-! ### Native frames -/

/-- CHAINED_I_FRAME (R331). -/
def execChainedIFrame (ns : BitVec 3) (info : List Byte) (s : State) : Host.Outcome State Fault Refusal :=
  if 254 < info.length then .fault .illFormedCommand
  else if s.nativeUp && !s.link.asleep then .next (s.onLink fun l => l.commit.chainFrame ns info)
  else .next s

/-- HOST_R_FRAME (R329). -/
def execHostRFrame (nr : BitVec 3) (reason : Byte) (s : State) : Host.Outcome State Fault Refusal :=
  if s.nativeUp && !s.link.asleep then .next ((s.onLink LinkState.commit).rFrame nr reason) else .next s

/-- FRAME_CRC_ERROR: counted in the health log while it runs, and answered with reason CRC (R242, R329). -/
def execFrameCrcError (s : State) : Host.Outcome State Fault Refusal :=
  if s.nativeUp && !s.link.asleep then
    let t := if s.clock.mainOn then s.countLo 0x2D 1 else s
    .next (t.onLink fun l => { l with sent := some { control := control 2 0 l.vr.toNat, info := [1], width := l.width } })
  else .next s

/-- LENGTH_255_FRAME (R327, R329). -/
def execLength255Frame (s : State) : Host.Outcome State Fault Refusal :=
  if s.nativeUp && !s.link.asleep then
    .next (s.onLink fun l => { l with sent := some { control := control 2 0 l.vr.toNat, info := [4], width := l.width } })
  else .next s

/-- RESYNC_REQ (R330): all counts 0, the match window closed, any chain discarded. -/
def execResyncReq (s : State) : Host.Outcome State Fault Refusal :=
  if s.nativeUp && !s.link.asleep then
    .next (s.onLink fun l =>
      ({ l.commit.endChain with vr := 0, vs := 0, matchOpen := false, toSend := [], lastI := none, act := .none } : LinkState).answerS 1 [])
  else .next s

/-- ABORT_REQ (R330): the chain in progress, the host's or the response's, ends. -/
def execAbortReq (s : State) : Host.Outcome State Fault Refusal :=
  if s.nativeUp && !s.link.asleep then
    .next (s.onLink fun l => ({ l.commit.endChain with toSend := [], act := .none } : LinkState).answerS 3 [])
  else .next s

/-- CHECK_RSP has been sent in the new mode (R339). -/
def LinkState.checked (l : LinkState) : LinkState :=
  { l with switching := l.switching.map fun x => (x.1, x.2.1, true) }

/-- CHECK_REQ: each pattern byte comes back inverted (R330, R339). -/
def execCheckReq (pattern : List Byte) (s : State) : Host.Outcome State Fault Refusal :=
  if s.nativeUp && !s.link.asleep && pattern.length == 8 then
    .next (s.onLink fun l => l.commit.checked.answerS 5 (pattern.map fun b => ~~~b))
  else .next s

/-- SWITCH_REVERT: no valid frame in time; the old mode stands again (R339). -/
def execSwitchRevert (s : State) : Host.Outcome State Fault Refusal :=
  match s.link.switching with
  | none => .next s
  | some (w, r, _) => .next (s.onLink fun l => { l with width := w, rate := r, switching := none })

/-! ### Single operations -/

/-- One operation by itself, as a message that holds nothing else: status and result data stand in LINK, and its act is
done. Counts outside R333 fail the check of R334: BADMSG, and nothing is executed. -/
def State.single (s : State) (o : LOp) : Host.Outcome State Fault Refusal :=
  if !s.opsOpen then .next s
  else if !o.inRange then .next (s.onLink fun l => { l with status := .badmsg, rdata := [], answer := [] })
  else
    let r := (s.onLink fun l => { l with act := .none, answer := [] }).doOp o
    .next (r.1.endAccess r.2.1 (wordList r.2.2 o.words) o.code)

/-- READ_REG. -/
def execReadReg (addr : BitVec 8) (count : BitVec 8) (s : State) : Host.Outcome State Fault Refusal :=
  s.single (.readReg addr count.toNat)

/-- WRITE_REG. -/
def execWriteReg (addr : BitVec 8) (data : List Word) (s : State) : Host.Outcome State Fault Refusal :=
  s.single (.writeReg addr data)

/-- WRITE_MASKED. -/
def execWriteMasked (addr : BitVec 8) (mask v : Word) (s : State) : Host.Outcome State Fault Refusal :=
  s.single (.writeMasked addr mask v)

/-- IND_READ. -/
def execIndRead (addr : Word) (count : BitVec 16) (s : State) : Host.Outcome State Fault Refusal :=
  s.single (.indRead addr count.toNat)

/-- IND_WRITE. -/
def execIndWrite (addr : Word) (data : List Word) (s : State) : Host.Outcome State Fault Refusal :=
  s.single (.indWrite addr data)

/-- RESET_CMD LINK (R338, R461). -/
def execResetCmdLink (s : State) : Host.Outcome State Fault Refusal := s.single (.reset 1)

/-- RESET_CMD WARM (R338, R461 to R463). -/
def execResetCmdWarm (s : State) : Host.Outcome State Fault Refusal := s.single (.reset 2)

/-- RESET_CMD COLD (R338, R461 to R463). -/
def execResetCmdCold (s : State) : Host.Outcome State Fault Refusal := s.single (.reset 3)

/-- SWITCH (R339). -/
def execSwitch (width : BitVec 8) (rate : BitVec 8) (s : State) : Host.Outcome State Fault Refusal :=
  s.single (.switch width rate)

/-- SLEEP (R340). -/
def execSleep (s : State) : Host.Outcome State Fault Refusal := s.single .sleep

/-- WAKE (R340): the link is awake from the end of the answer. -/
def execWake (s : State) : Host.Outcome State Fault Refusal :=
  if !s.nativeUp then .next s
  else .next (s.onLink fun l => { l with asleep := false, status := .ok, rdata := [] })

/-- ECHO: the bytes come back. -/
def execEcho (data : List Byte) (s : State) : Host.Outcome State Fault Refusal :=
  if !s.opsOpen then .next s
  else if 16000 < data.length then .next (s.onLink fun l => { l with status := .badmsg, rdata := [], answer := [] })
  else .next (s.onLink fun l => { l with status := .ok, rdata := [], answer := data })

/-! ### Novven commands -/

/-- NOVVEN_HEADER (R346 to R348): the selection character was the OP of the first one. A command of which a character fails its fourth sending
is abandoned. -/
def execNovvenHeader (op addr count chk : Byte) (fails : HeaderFails) (s : State) : Host.Outcome State Fault Refusal :=
  if !s.novvenUp || s.link.command.isSome then .next s
  else
    let o := s.link.opSeen.getD op
    let t := (s.countRepeats fails.header.again).onLink fun l => { l with opSeen := none, answer := [] }
    if fails.header.lost.isSome then .next t
    else if headerOk o count (chk == o ^^^ addr ^^^ count) then
      if fails.answer.lost = some 0 then .next ((t.countRepeats fails.answer.again).onLink fun l => { l with answer := [0x5A] })
      else .next (t.onLink fun l => { l with
        command := some { op := o, addr := addr, count := count, fails := fails.answer }, answer := [0x5A] })
    else .next (t.novvenEnd [o, addr, count, chk] [novvenResult .badmsg] fails.answer)

/-- The accepted command of an OP. -/
def State.novvenCommand (s : State) (op : Byte) : Option NovvenCmd :=
  match s.link.command with
  | some c => if s.novvenUp && c.op == op then some c else none
  | none => none

/-- NOVVEN_READ: the result character, the data and their XOR (R346, R347). -/
def execNovvenRead (s : State) : Host.Outcome State Fault Refusal :=
  match s.novvenCommand 0xA1 with
  | none => .next s
  | some c =>
    let r := (s.onLink fun l => { l with act := .none, modeSeen := some l.modeWord }).doOp (.readReg c.addr c.count.toNat)
    .next (r.1.novvenEnd c.header ([novvenResult r.2.1] ++ r.2.2 ++ [xorAll r.2.2]) c.later)

/-- NOVVEN_WRITE: executed after its XOR character, if that matches (R346, R347). The characters of COUNT words make it up; where one of them
fails its fourth sending, the command is discarded (R348). A RESUME that it asks for may keep it waiting (R81). -/
def execNovvenWrite (data : NovvenData) (chk : Byte) (s : State) : Host.Outcome State Fault Refusal :=
  match s.novvenCommand 0xA2 with
  | none => .next s
  | some c =>
    if data.words.length ≠ c.count.toNat then .next s
    else
      let bs := wordBytes data.words
      let msg := c.header ++ bs ++ [chk]
      let t := s.countRepeats data.fails.again
      if data.fails.lost.isSome then .next (t.onLink fun l => { l with command := none, answer := [] })
      else if chk ≠ xorAll bs then .next (t.novvenEnd msg [novvenResult .badmsg] c.later)
      else
        let r := (t.onLink fun l => { l with act := .none }).doOp (.writeReg c.addr data.words)
        if r.1.link.paused.isSome then
          .next (r.1.onLink fun l =>
            { l with run := some { kind := .novven c msg, count := 1, out := [], code := 0x02, rest := [], silent := false } })
        else .next (r.1.novvenEnd msg [novvenResult r.2.1] c.later).doAct

/-- NOVVEN_RESET: acts after the trailing cycles (R347); a command abandoned at its result character asks for nothing (R348; DEDUCED, log 153). -/
def execNovvenReset (s : State) : Host.Outcome State Fault Refusal :=
  match s.novvenCommand 0xA4 with
  | none => .next s
  | some c =>
    let r := (s.onLink fun l => { l with act := .none }).doOp (.reset c.addr)
    let t := r.1.novvenEnd c.header [novvenResult r.2.1] c.later
    .next (if c.fails.lost.isSome then t.onLink fun l => { l with act := .none } else t.doAct)

end Sys2Proof.Machine
end

