-- ==== Sys2Proof/Machine/Finish.lean ====
section
/-! DEFINITION. An execution in LINK that waits for a RESUME in write-through, and how it goes on (R81, R274, R337); and the commands with which
it may go on: the Tun's acknowledgement, the mirror write, the through note, the flush, and two of the link's own. -/
namespace Sys2Proof.Machine
open Sys2Proof

/-! ### The end of an execution -/

/-- The RESUME that an execution waits for is still to be carried out. After a trigger, or once the magazine is out of service, none is, and
the execution goes on (R81, R274). -/
def State.waits (s : State) (w : LinkWait) : Bool :=
  s.running && s.clock.mainOn && s.snuff.trigger.isNone && (s.stream w.stream).resumeDue

/-- The operation that waited has ended with a status: the message's other operations follow (R334), or the command or access ends. -/
def State.endRun (s : State) (r : LinkRun) (st : Status) : State :=
  match r.kind with
  | .single => (s.onLink fun l => { l with status := st, rdata := [], run := none }).doAct
  | .novven c msg =>
    let t := (s.onLink fun l => { l with run := none }).novvenEnd msg [novvenResult st] c.later
    if r.silent then t.onLink fun l => { l with answer := [], act := .none } else t.doAct
  | .native ns msg =>
    if st ≠ .ok then s.endMessage ns msg r.count (r.out ++ result r.code st [] ++ r.rest.flatMap skipped) r.silent
    else
      let q := runOps r.rest s
      let out := r.out ++ result r.code .ok [] ++ q.2.1
      match q.2.2 with
      | none => q.1.endMessage ns msg r.count out r.silent
      | some x => q.1.onLink fun l => { l with run := some { r with out := out, code := x.1, rest := x.2 } }

/-- The execution that waits goes on, if what it waited for is over: the rest of its operation first (R81, R274, R337). -/
def State.finishRun (s : State) : State :=
  match s.link.run, s.link.paused with
  | some r, some w =>
    if s.waits w then s
    else
      let q := writeRegs w.step w.words (s.onLink fun l => { l with paused := none }) w.addr
      if q.1.link.paused.isSome then q.1 else q.1.endRun r q.2
  | _, _ => s

/-! ### Commands -/

/-- TUN_ACK (R78): the flushes that wait for the acknowledged bytes program them (R18, R109), and a RESUME that waits for them is carried
out (R81). -/
def execTunAck (stream : BitVec 10) (s : State) : Host.Outcome State Fault Refusal :=
  if s.clock.mainOn && !s.stopped .tun then
    let s1 := s.tunAck stream.toNat
    .next ((if s1.running && s1.snuff.trigger.isNone then s1.intake.flushes.foldl State.flushProgram s1 else s1).carryResumes).finishRun
  else .next s

/-- MIRROR_WRITE: a mirror write that is due is issued once the port may issue it (R93, R312), and so is that of a RESUME that waited for
the port (R81). -/
def execMirrorWrite (stream : BitVec 10) (s : State) : Host.Outcome State Fault Refusal :=
  let e := s.stream stream.toNat
  let s1 := if e.mirrorDue && s.upstreamOpen && s.host.mirrorBase != 0 then s.issueMirror stream.toNat e.st e.replay else s
  .next (s1.carryResume stream.toNat).finishRun

/-- THROUGH_NOTE_PROGRAMMED: the oldest flush is on flash, and its notes are programmed (R109, R127), at class 1, as the tokens allow (R186,
R188), into a journal band that is ready (R120). While INTAKE is in a RESTART reset no stream changes state (R442), and the flush waits. -/
def execThroughNoteProgrammed (s : State) : Host.Outcome State Fault Refusal :=
  match s.intake.flushes with
  | [] => .next s
  | f :: rest =>
    if !(s.running && s.snuff.trigger.isNone && !s.stopped .back && !s.stopped .media && !s.stopped .intake && s.flushOnFlash f) then .next s
    else if !s.canRecord (s.notePages f) then .next (if s.roomFor (s.notePages f) then s else s.spareJournal none)
    else
      let s1 := (s.programNotes f).noteDeltas (tget 0 f randKey)
      .next ((s1.onIntake fun t => { t with flushes := rest }).carryResumes).closeDrained.finishRun

/-- SNUFFER_FLUSH: the flush of the trigger that waits, once its first program may start (R272, R450, R451, R462); copies of the anchor pair that
end PROG_FAIL are written again (R424). An execution in LINK that began before the trigger ends first (R274). -/
def execSnufferFlush (f : FlushIn) (s : State) : Host.Outcome State Fault Refusal :=
  if s.snuff.trigger.isNone || !s.flushStarts then .next s
  else .next (((s.finishRun.failCopies false f.failA).failCopies true f.failB).flush f)

/-- LINK_RESET: WSEL# has stayed low for 16 edges (R320). -/
def execLinkReset (s : State) : Host.Outcome State Fault Refusal :=
  if !s.linkUp || !s.clock.fuseRead then .next s
  else .next (s.finishRun.onLink fun l => { l with selected := true }).linkReset

/-- MESSAGE_RECEIVE: a valid final I-frame (R331, R340, R343). The N(R) of a host's I-frame changes nothing. While an execution waits, LINK shows
busy and takes none (R327). -/
def execMessageReceive (ns _nr : BitVec 3) (info : List Byte) (s : State) : Host.Outcome State Fault Refusal :=
  if 254 < info.length then .fault .illFormedCommand
  else if s.nativeUp then .next (s.finalFrame ns info)
  else .next s.finishRun

end Sys2Proof.Machine
end

