-- ==== Sys2Proof/Machine/RegCmds.lean ====
section
/-! DEFINITION. The commands that are one access of a register (R353 to R378): each is one read or one write on the register
bus, and leaves its status, and the word read, in LINK. -/
namespace Sys2Proof.Machine
open Sys2Proof

/-- One write of a register over the link, with its act done after the answer. -/
def State.busWrite (s : State) (a : Nat) (v mask : Word) : State :=
  if !s.busOpen then s
  else
    let r := (s.onLink fun l => { l with act := .none }).regWrite a v mask
    r.1.endAccess r.2 [] 0x02

/-- One read of a register over the link. -/
def State.busRead (s : State) (a : Nat) : State :=
  if !s.busOpen then s
  else
    let r := s.regRead a
    r.1.onLink fun l => { l with status := r.2.1, rdata := [r.2.2] }

/-- The mask of DEV_CTRL.ACTION and CONFIRM. -/
def actionMask : Word := 0xFF000F00

/-- CYC_SRC_WRITE (R35, R36). -/
def execCycSrcWrite (v mask : Word) (s : State) : Host.Outcome State Fault Refusal := .next (s.busWrite 0x09 v mask)

/-- CYC_PERIOD_WRITE (R41, R364). -/
def execCycPeriodWrite (v : Word) (s : State) : Host.Outcome State Fault Refusal := .next (s.busWrite 0x0A v maskAll)

/-- CYC_COUNT_READ (R48). -/
def execCycCountRead (s : State) : Host.Outcome State Fault Refusal := .next (s.busRead 0x0B)

/-- CYC_COUNT_HI_WRITE (R49). -/
def execCycCountHiWrite (v : Word) (s : State) : Host.Outcome State Fault Refusal := .next (s.busWrite 0x0C v maskAll)

/-- CYC_COUNT_WRITE (R49). -/
def execCycCountWrite (v : Word) (s : State) : Host.Outcome State Fault Refusal := .next (s.busWrite 0x0B v maskAll)

/-- PLAN_WIN_WRITE (R51, R364). -/
def execPlanWinWrite (v : Word) (s : State) : Host.Outcome State Fault Refusal := .next (s.busWrite 0x0F v maskAll)

/-- A write of any register (R353, R356). -/
def execRegisterWrite (addr : BitVec 7) (v mask : Word) (s : State) : Host.Outcome State Fault Refusal :=
  .next (s.busWrite addr.toNat v mask)

/-- ST_CMD OPEN (R73, R81). -/
def execStCmdOpen (s : State) : Host.Outcome State Fault Refusal := .next (s.busWrite 0x12 1 maskAll)

/-- ST_CMD END (R73, R81). -/
def execStCmdEnd (s : State) : Host.Outcome State Fault Refusal := .next (s.busWrite 0x12 2 maskAll)

/-- ST_CMD RESUME (R73, R81). -/
def execStCmdResume (s : State) : Host.Outcome State Fault Refusal := .next (s.busWrite 0x12 3 maskAll)

/-- ST_CMD DELETE (R73, R81). -/
def execStCmdDelete (s : State) : Host.Outcome State Fault Refusal := .next (s.busWrite 0x12 4 maskAll)

/-- The register of a frontier's low word (R366). -/
def frontierLo : Frontier → Nat
  | .accept => 0x14 | .durable => 0x16 | .trim => 0x18

/-- A read of a frontier's _LO register (R89). -/
def execFrontierLoRead (f : Frontier) (s : State) : Host.Outcome State Fault Refusal := .next (s.busRead (frontierLo f))

/-- ST_TRIM_HI_WRITE (R90). -/
def execStTrimHiWrite (v : Word) (s : State) : Host.Outcome State Fault Refusal := .next (s.busWrite 0x19 v maskAll)

/-- ST_TRIM_LO_WRITE (R90). -/
def execStTrimLoWrite (v : Word) (s : State) : Host.Outcome State Fault Refusal := .next (s.busWrite 0x18 v maskAll)

/-- STREAM_SEL_WRITE (R357). -/
def execStreamSelWrite (v : Word) (s : State) : Host.Outcome State Fault Refusal := .next (s.busWrite 0x10 v maskAll)

/-- CRYPTO_ERASE: DEV_CTRL.ACTION 2 with CONFIRM (R102, R359). -/
def execCryptoErase (s : State) : Host.Outcome State Fault Refusal := .next (s.busWrite 0x03 0xA5000200 actionMask)

/-- SOFT_RESET: DEV_CTRL.ACTION 1 with CONFIRM (R359, R461). -/
def execSoftReset (s : State) : Host.Outcome State Fault Refusal := .next (s.busWrite 0x03 0xA5000100 actionMask)

/-- BOOT_HOLD is written (R358, R359). -/
def execBootHoldWrite (hold : Bool) (s : State) : Host.Outcome State Fault Refusal :=
  .next (s.busWrite 0x03 (if hold then 0x10000 else 0) 0x10000)

/-- IND_ADDR is written (R240, R375). -/
def execIndAddrWrite (v : Word) (s : State) : Host.Outcome State Fault Refusal := .next (s.busWrite 0x60 v maskAll)

/-- An access of IND_DATA: a write of a word, or a read (R240, R375). -/
def execIndDataAccess (w : Option Word) (s : State) : Host.Outcome State Fault Refusal :=
  match w with
  | some v => .next (s.busWrite 0x61 v maskAll)
  | none => .next (s.busRead 0x61)

/-- HOLDUP_CTRL.GAUGE_NOW (R262, R287). -/
def execGaugeNow (s : State) : Host.Outcome State Fault Refusal := .next (s.busWrite 0x2A 2 2)

/-- IRQ_ENABLE is written (R360, R361). -/
def execIrqEnableWrite (v : Word) (s : State) : Host.Outcome State Fault Refusal := .next (s.busWrite 0x06 v maskAll)

/-- FAULT_ACK.UNITS is written (R455). -/
def execFaultAckWrite (units : BitVec 13) (s : State) : Host.Outcome State Fault Refusal :=
  .next (s.busWrite 0x32 (units.setWidth 32) 0x1FFF)

/-- FAULT_ACK.SELF is written with 1 (R455). -/
def execFaultAckSelf (s : State) : Host.Outcome State Fault Refusal := .next (s.busWrite 0x32 0x80000000 0x80000000)

/-- SET_CTRL is written (R148, R371). -/
def execSetCtrlWrite (v : Word) (s : State) : Host.Outcome State Fault Refusal := .next (s.busWrite 0x38 v maskAll)

/-- MEM_RETIRE.TARGET is written (R373, R397). -/
def execMemRetireWrite (target : BitVec 20) (s : State) : Host.Outcome State Fault Refusal :=
  .next (s.busWrite 0x44 (target.setWidth 32) 0xFFFFF)

/-- MEM_PWR.STATE is written (R372, R389). -/
def execMemPwrWrite (st : BitVec 2) (s : State) : Host.Outcome State Fault Refusal :=
  .next (s.busWrite 0x41 (st.setWidth 32) 3)

/-- MEM_TEST_CTRL.EN is written (R373, R390). -/
def execMemTestEnWrite (en : Bool) (s : State) : Host.Outcome State Fault Refusal :=
  .next (s.busWrite 0x45 (if en then 1 else 0) 1)

/-- MEM_TEST_CTRL.OP 1 (R401). -/
def execMemTestRead (s : State) : Host.Outcome State Fault Refusal := .next (s.busWrite 0x45 2 6)

/-- MEM_TEST_CTRL.OP 2 (R401). -/
def execMemTestWriteRaw (s : State) : Host.Outcome State Fault Refusal := .next (s.busWrite 0x45 4 6)

/-- MEM_TEST_CTRL.OP 3 (R401). -/
def execMemTestWriteChecked (s : State) : Host.Outcome State Fault Refusal := .next (s.busWrite 0x45 6 6)

/-- WICK_SUBMIT with GO (R374, R412). -/
def execWickSubmit (tag : Byte) (s : State) : Host.Outcome State Fault Refusal :=
  .next (s.busWrite 0x54 (wordOf [(0, 1, 1), (8, 8, tag.toNat)]) maskAll)

/-- WICK_DONE.VALID is written with 1 (R374). -/
def execWickDoneTake (s : State) : Host.Outcome State Fault Refusal := .next (s.busWrite 0x55 0x80000000 maskAll)

/-- The high word of the Cellar base, or of its size, is written (R223, R378). -/
def execCellarBaseWrite (size : Bool) (hi : Word) (s : State) : Host.Outcome State Fault Refusal :=
  .next ((s.busWrite 0x60 (if size then 0x70003 else 0x70001) maskAll).busWrite 0x61 hi maskAll)

end Sys2Proof.Machine
end

