-- ==== Sys2Proof/Machine/Start.lean ====
section
/-! DEFINITION. Start-up: VAUX POR and the straps (R458, R464), the fuse map (R431, R468), VIN POR (R460), the PLLs and their
fallbacks (R470, R471), the memory fill (R388), the hold window (R474), the choice of the anchor (R136, R425) and of the
image (R429, R476), and the firmware's start (R473). -/
namespace Sys2Proof.Machine
open Sys2Proof

/-! ### The VAUX domain (R458, R459, R464) -/

/-- VAUX_POR_ASSERT: with the main domain off, loss of VAUX holds every unit in reset. -/
def execVauxPorAssert (s : State) : Host.Outcome State Fault Refusal :=
  if s.clock.mainPwr || s.clock.vauxPor then .next s
  else .next (s.onClock fun c => { c with vauxPor := true, vauxPin := false, vauxAlt := false, pllTick := ⟨false, false⟩ })

/-- VAUX_POR_RELEASE: every VAUX-domain value takes its reset value; the straps are sampled, BOOT_SRC in bits [1:0] and
CLK_MODE in bits [3:2]. WSEL# is a pin. -/
def execVauxPorRelease (straps : BitVec 4) (s : State) : Host.Outcome State Fault Refusal :=
  if !s.clock.vauxPor then .next s
  else .next { s with
    lamp := LampState.reset
    link := { LinkState.reset with selected := s.link.selected }
    fault := FaultState.reset
    intake := { s.intake with trimHi := none }
    clock := { ClockState.reset with bootSrc := straps.setWidth 2, clkMode := (straps >>> 2).setWidth 2 } }

/-- VAUX_RETURN: the VAUX domain runs from the VAUX pin again (R459); the path of a flush holds until the Snuffer has written its anchor
(R24). -/
def execVauxReturn (s : State) : Host.Outcome State Fault Refusal :=
  .next (s.onClock fun c => { c with vauxPin := true, vauxAlt := c.vauxAlt && s.snuff.trigger.isSome })

/-! ### The fuse map (R431, R466 to R468) -/

/-- A copy of the pin fuse map is intact: magic, G and CRC match (R431). -/
def mapIntact (b : List Byte) : Bool :=
  b.length == 128 && leNat (b.take 2) == 0x4650 && decide (leNat ((b.drop 2).take 2) ≤ 480) &&
  leNat (b.drop 124) == (crc32c (b.take 124)).toNat

/-- The code that a map gives a pin group: 0 high-Z, 1 pull-down, 2 pull-up, 3 drive-low; none at or above G. A reserved
group coded other than 0 counts as high-Z (R431, R467). -/
def mapCode (b : List Byte) (g : Nat) : Option Nat :=
  if leNat ((b.drop 2).take 2) ≤ g then none
  else if 224 ≤ g then some 0
  else some ((b.getD (4 + g / 4) 0).toNat / 4 ^ (g % 4) % 4)

/-- The rest state of a NAND pin group: its code in the map in force, else its safe state (R467); coded as in R431. -/
def State.restCode (s : State) (g : Nat) : Nat :=
  let safe := if g < 128 then 2 else if g < 160 then 1 else 0
  match s.clock.fuseMap with
  | none => safe
  | some m => (mapCode m g).getD safe

/-- MEDIA drives WP# of a channel high: while the channel is ACTIVE or QUIESCED (R155), but never in DOWNLOAD (R477). -/
def State.wpHigh (s : State) (ch : Nat) : Bool := (s.chan ch).wp && s.clock.mainPwr && s.clock.dev != .download

/-- What holds the pads of a NAND pin group. -/
inductive PadHold where
  /-- their supply VCCQ_PHY is not up: nothing holds them -/
  | unpowered
  /-- a rest state, coded as in R431: 0 high-Z, 1 pull-down, 2 pull-up, 3 drive-low -/
  | rest (code : Nat)
  /-- MEDIA drives WP# -/
  | wp (high : Bool)
  /-- MEDIA drives the pads as its bus cycles need -/
  | bus
  deriving DecidableEq, Repr

/-- The pads of pin group g, 0 to 223: the rest state once VCCQ_PHY is up; while MEDIA runs it drives WP#, and it drives the other pads of a
channel that is not OFF (R155, R466, R467). -/
def State.padHold (s : State) (g : Nat) : PadHold :=
  let ch := if g < 128 then g / 4 else g % 32
  if (s.rail .vccqPhy).st ≠ .on then .unpowered
  else if !s.clock.mainOn then .rest (s.restCode g)
  else if 128 ≤ g ∧ g < 160 then .wp (s.wpHigh ch)
  else if (s.chan ch).st = .off then .rest (s.restCode g)
  else .bus

/-- The map in force and PINMAP_CONFLICT, from the two copies as read (R468). -/
def chooseMap (a b : List Byte) : Option (List Byte) × Bool :=
  match mapIntact a, mapIntact b with
  | true, true => if a = b then (some a, false) else (none, true)
  | true, false => (some a, false)
  | false, true => (some b, false)
  | false, false => (none, false)

/-- Units of the OTP row that read as uncorrectable make a copy not intact (R432). -/
def readCopy (bytes : List Byte) (bad : List Nat) (first : Nat) : List Byte :=
  if bad.any fun u => decide (first ≤ u) && decide (u < first + 4) then [] else bytes

/-- The serial hash, bytes 8 to 15 (R430); of an uncorrectable unit 0 the row gives bytes that are not known (log 10). -/
def State.readSerial (s : State) (bad : List Nat) : BitVec 64 :=
  BitVec.ofNat 64 (leNat (if bad.contains 0 then (List.range 8).map fun i => Config.otpBad (8 + i) s.draws
    else s.wick.otpBytes 8 8))

/-- FUSE_MAP_READ: the OTP row is read once after VAUX POR; the map in force and the serial hash are copied (R433, R468). -/
def execFuseMapRead (bad : List (BitVec 6)) (s : State) : Host.Outcome State Fault Refusal :=
  if s.clock.vauxPor || s.clock.fuseRead then .next s
  else
    let units := bad.map BitVec.toNat
    let m := chooseMap (readCopy (s.wick.otpBytes 256 128) units 8) (readCopy (s.wick.otpBytes 384 128) units 12)
    let s1 := s.onClock fun c => { c with
      fuseMap := m.1, pinConf := m.2, fuseRead := true, serialHash := s.readSerial units }
    let s2 := s1.onWick fun w => { w with otpBad := units }
    .next { s2 with draws := s2.draws + 1 }

/-! ### Power-up (R460, R470 to R472) -/

/-- VIN_POR, the moment at which step 1 of R252 is met, VIN and PRESENT# qualified: with VIN POR armed it powers up the main domain, and
BOOT_SRC counts as sampled (R460, R478). Where VIN POR is not armed or the domain is up, VIN is back, and no more follows (R281, R283; DEDUCED,
log 149). -/
def execVinPor (s : State) : Host.Outcome State Fault Refusal :=
  if s.clock.vauxPor || s.power.absent then .next s
  else
    let s1 := (s.onPower fun p => { p with vin := true, brown := false }).dropCause .powerVinOv
    if s.clock.mainPwr || !s.clock.vinArmed then .next s1
    else
      let s2 := (s1.resetSource 1).onClock fun c => { c with vinArmed := false, bootAs00 := false, snuffMount := false }
      .next (s2.powerUp true)

/-- The fabric, NAND and PCIe PHY PLLs run or have fallen back: the memory fill follows (R473). -/
def State.pllsDone (s : State) : State :=
  if s.clock.phase = .plls && s.clock.pllFabric.up && s.clock.pllNand.up && s.clock.pllPcie.up then
    s.onClock fun c => { c with phase := .fill }
  else s

/-- Every rail has come up, or can: none is off or shut (R252). -/
def State.railsStand (s : State) : Bool := allRails.all fun r => !(s.rail r).low

/-- A PLL is enabled and has not locked: at power-up those of the main domain follow the rails (R470, R473). -/
def State.pllWaits (s : State) (p : Pll) : Bool :=
  !s.clock.vauxPor && (p = .tick || (s.clock.mainPwr && (s.clock.phase != .plls || s.railsStand))) && !(s.clock.pll p).up

/-- The rails are at power good when a PLL of the main domain starts to lock at power-up (R473). -/
def State.afterRails (s : State) (p : Pll) : State := if p = .tick || s.clock.phase != .plls then s else s.railsGood

/-- PLL_LOCK: 64 reference cycles of lock (R470). -/
def execPllLock (p : Pll) (s : State) : Host.Outcome State Fault Refusal :=
  if s.pllWaits p then .next ((s.afterRails p).onClock fun c => c.setPll p ⟨true, false⟩).pllsDone else .next s

/-- PLL_LOCK_TIMEOUT: no lock within 2 ms. A relock of the fabric or NAND PLL that fails is a SNUFF reaction with end state
HALTED (R471). -/
def execPllLockTimeout (p : Pll) (s : State) : Host.Outcome State Fault Refusal :=
  if !s.pllWaits p then .next s
  else
    let s1 := (s.afterRails p).onClock fun c => { c.setPll p ⟨true, true⟩ with fallback := true }
    if (s.unit .clock).restart && s.fault.pllShad == some p && (p = .fabric || p = .nand) then
      .next (s1.trigger 12 4 false true)
    else .next s1.pllsDone

/-- PLL_UNLOCK: CLOCK asserts its line, naming the PLL, and the collector takes the report (R441). -/
def execPllUnlock (p : Pll) (s : State) : Host.Outcome State Fault Refusal :=
  let x := s.clock.pll p
  if s.clock.vauxPor || !x.up || x.fallback then .next s
  else .next ((s.assertError .clockPllUnlock (detail [(2, pllCode p)])).takeReport .clock)

/-- OTP units that were uncorrectable at the VAUX-time read are reported when WICK is released (R433). -/
def State.reportOtp (s : State) : State :=
  s.wick.otpBad.foldl (fun t u => t.assertError .wickOtpUncorr (detail [(6, u)])) s

/-- The fabric or the NAND PLL stands on its fallback: start-up ends in HALTED (R471). -/
def State.fallbackHalts (s : State) : Bool := s.clock.pllFabric.fallback || s.clock.pllNand.fallback

/-- MEMORY_FILL: the memories are filled, and the units are released (R388, R472); the port trains unless PERST# is asserted
(R294). -/
def execMemoryFill (s : State) : Host.Outcome State Fault Refusal :=
  if s.clock.phase ≠ .fill || !s.clock.pllFabric.up then .next s
  else
    let s1 := s.onClock fun c => { c with mainOn := true, filled := true, phase := .hold }
    let s2 := (s1.onHost fun h => { h with training := !h.perst }).reportOtp
    if s2.fallbackHalts then .next ((s2.onClock fun c => { c with phase := .done }).setDev .halted)
    else .next s2

/-- HOLD_WINDOW_END (R474). -/
def execHoldWindowEnd (s : State) : Host.Outcome State Fault Refusal :=
  if s.clock.phase = .hold then .next (s.onClock fun c => { c with phase := .image }) else .next s

/-! ### The anchor (R136, R425) -/

/-- What R136 answers: the anchor, and whether it is a fallback or a tie. -/
structure AnchorChoice where
  anchor   : Option Anchor
  fallback : Bool
  tie      : Bool
  deriving DecidableEq, Repr

/-- The newer of two anchors. -/
def newerAnchor (b : Option Anchor) (a : Anchor) : Option Anchor :=
  match b with
  | none => some a
  | some x => if x.gen < a.gen then some a else some x

/-- The intact copy of highest generation in an area; intent-only anchors take no part (R136 step 1). -/
def State.bestCopy (s : State) (copyB : Bool) : Option Anchor :=
  (s.wick.anchors.filter fun a => a.copyB == copyB && s.anchorOk a && a.headSeq != 0).foldl newerAnchor none

/-- The die that holds band b on channel c can be read: neither it nor its channel has failed. -/
def State.copyReads (s : State) (b c : Nat) : Bool :=
  (s.chan c).st ≠ .failed && tget DieCode.absent (s.chan c).dies (b % 16) ≠ .retired

/-- A page of the journal can be read from one of its two copies (R117). -/
def State.pageReads (s : State) (b page : Nat) : Bool :=
  match s.journalUnit b page with
  | none => true
  | some (_, c) => s.copyReads b c || s.copyReads b (c + 16)

/-- Every part of a record reads and is valid: bad lists the sequences of parts that neither copy gives back valid (R117, R118). -/
def State.recReads (s : State) (bad : List Nat) (r : JRec) : Bool :=
  (List.range r.parts).all (fun i => !bad.contains (r.seq + i)) &&
  (List.range (recordPages r.body.size)).all fun i => s.pageReads (r.addr.toNat / 16777216) (r.addr.toNat % 16777216 + i)

/-- The head of an anchor validates: a valid checkpoint of its sequence (R136). -/
def State.headValid (s : State) (bad : List Nat) (a : Anchor) : Bool :=
  s.journal.recs.any fun r => r.seq == a.headSeq && s.recReads bad r &&
    match r.body with
    | .checkpoint _ => true
    | .cask _ | .note _ | .bandLink _ => false

/-- Step 7 of R136: the intact anchor of highest generation, in either area, whose head validates. -/
def State.fallbackAnchor (s : State) (bad : List Nat) : AnchorChoice :=
  { anchor := (s.wick.anchors.filter fun a => s.anchorOk a && a.headSeq != 0 && s.headValid bad a).foldl newerAnchor none
    fallback := true, tie := false }

/-- An anchor that stands if its head validates, else step 7. -/
def State.orFallback (s : State) (bad : List Nat) (a : Anchor) : AnchorChoice :=
  if s.headValid bad a then { anchor := some a, fallback := false, tie := false } else s.fallbackAnchor bad

/-- The choice of R136. -/
def State.chooseAnchor (s : State) (bad : List Nat) : AnchorChoice :=
  match s.bestCopy false, s.bestCopy true with
  | some a, some b =>
    if a.gen < b.gen then s.orFallback bad b
    else if b.gen < a.gen then s.orFallback bad a
    else if { a with copyB := true, place := b.place } = b then s.orFallback bad a
    else
      match s.headValid bad a, s.headValid bad b with
      | true, true =>
        { anchor := some (if a.headSeq < b.headSeq then b else a), fallback := false, tie := true }
      | true, false => { anchor := some a, fallback := false, tie := false }
      | false, true => { anchor := some b, fallback := false, tie := false }
      | false, false => s.fallbackAnchor bad
  | some a, none => s.orFallback bad a
  | none, some b => s.orFallback bad b
  | none, none => { anchor := none, fallback := false, tie := false }

/-- The anchor whose intent, done entry and WBASE the boot takes: the chosen one, or with none the newest intact one, intent-only
(R423, R425). -/
def State.bootAnchor (s : State) (bad : List Nat) : Option Anchor :=
  match (s.chooseAnchor bad).anchor with
  | some a => some a
  | none => (s.wick.anchors.filter fun a => s.anchorOk a).foldl newerAnchor none

/-- The sector that an anchor's intent leaves SUSPECT: no later pair carries its done entry (R425). The destination of a ROTATE
stands one logical sector lower once it has completed (R418). -/
def State.suspectOf (s : State) (a : Anchor) : Option Nat :=
  match a.intent with
  | none => none
  | some x =>
    if s.wick.anchors.any fun b => s.anchorOk b && decide (a.gen < b.gen) &&
        (b.doneSec == some x || (a.intKind == 3 && b.doneSec == some (x - 1))) then none
    else some x

/-- WBASE and the pointers as an anchor says: a ROTATE that no pair records has not moved the window (R418, R425). -/
def WickState.atBase (w : WickState) (base : Nat) : WickState :=
  let k := (w.wbase + 48 - base) % 48
  { w with wbase := base, slotA := (w.slotA + 128 * k) % 2048, slotBp := (w.slotBp + 128 * k) % 2048
           suspect := w.suspect.map (({ w with wbase := base } : WickState).resector w.wbase)
           intent := none, intentOn := false, doneSec := none }

/-- A sector is SUSPECT. -/
def WickState.addSuspect (w : WickState) (x : Nat) : WickState :=
  { w with suspect := if w.suspect.contains x then w.suspect else w.suspect ++ [x] }

/-- The boot check of an anchor: its WBASE, under which the sectors and the BOOT record stand, and the SUSPECT sector that its intent leaves
(R425, R429). -/
def State.takeAnchor (s : State) (a : Anchor) : State :=
  s.onWick fun w =>
    match s.suspectOf a with
    | none => w.atBase a.wbase
    | some x => (w.atBase a.wbase).addSuspect x

/-- The boot check (R423, R425). -/
def State.bootCheck (s : State) (bad : List Nat) : State :=
  match s.bootAnchor bad with
  | none => s
  | some a => s.takeAnchor a

/-! ### The image (R429, R476 to R478) -/

/-- A slot can start: its image is valid, and no sector of it is SUSPECT (R425, R427). -/
def WickState.slotStarts (w : WickState) (slotB valid : Bool) : Bool :=
  w.imageValid slotB valid && !(w.suspect.any (inSlot slotB))

/-- The slot that the live BOOT record names (R429); with no live record slot A, where a module's first image stands. -/
def WickState.namedSlot (w : WickState) : Bool :=
  match w.boot with
  | none => false
  | some b => if b.trial && decide (0 < b.starts) then !b.active else b.active

/-- The BOOT record written before the image starts (R429): a trial start is used, or TRIAL is cleared. -/
def WickState.startRecord (w : WickState) : WickState :=
  match w.boot with
  | none => w
  | some b =>
    if !b.trial then w
    else w.putBoot (if 0 < b.starts then { b with starts := b.starts - 1 } else { b with trial := false })

/-- Only the boot ROM runs (R477). -/
def State.enterDownload (s : State) : State :=
  (s.onLink fun l => { l with fwVersion := 0 }).onClock (fun c => { c with phase := .done, image := 2 }) |>.setDev .download

/-- The image of a slot is loaded and BACK released (R472): IMAGE and WICK_WINDOW.SLOT show the slot. -/
def State.startSlot (s : State) (slotB : Bool) : State :=
  ((s.onClock fun c => { c with phase := .discovery, image := if slotB then 1 else 0 }).onWick fun w =>
    { w with slotB := slotB }).onLink fun l => { l with fwVersion := if slotB then s.wick.hdrB else s.wick.hdrA }

/-- The slot that BOOT_SRC gives, of those that can start (R476). -/
def State.pickSlot (s : State) (src : BitVec 2) (aOk bOk : Bool) : Option Bool :=
  let ok := fun (b : Bool) => if b then bOk else aOk
  if src = 0 then
    let n := s.wick.namedSlot
    if ok n then some n else if ok (!n) then some (!n) else none
  else if src = 1 then (if aOk then some false else none)
  else if src = 2 then (if bOk then some true else none)
  else none

/-- BOOT_IMAGE_LOAD: the boot ROM takes the anchor and the BOOT record, chooses the slot, and loads its image; with none, it
enters DOWNLOAD. aValid and bValid say whether the units of the images of slots A and B pass their margin reads (R427). -/
def execBootImageLoad (aValid bValid : Bool) (s : State) : Host.Outcome State Fault Refusal :=
  if s.clock.phase ≠ .image || s.clock.bootHold || s.stopped .front then .next s
  else
    let s1 := s.bootCheck []
    let src := if s.clock.bootAs00 then 0 else s.clock.bootSrc
    let pick := s1.pickSlot src (s1.wick.slotStarts false aValid) (s1.wick.slotStarts true bValid)
    let s2 := if src = 0 then s1.onWick WickState.startRecord else s1
    let s3 := s2.onClock fun c => { c with bootAs00 := false }
    match pick with
    | some b => .next (s3.startSlot b)
    | none => .next s3.enterDownload

/-! ### The firmware's start (R473 step 8) -/

/-- Discovery has ended for every channel (R157, R161). -/
def State.discovered (s : State) : Bool :=
  (List.range 32).all fun c => (s.chan c).st ≠ .off && (s.chan c).st ≠ .discover && (s.chan c).st ≠ .train

/-- FIRMWARE_START: key records checked, the magazine key unwrapped, the Cellar key drawn, the stream table cleared, and RECOVER
entered. An uncorrectable unit 3 of the OTP row ends in HALTED (R432). -/
def execFirmwareStart (s : State) : Host.Outcome State Fault Refusal :=
  if s.clock.phase ≠ .discovery || !s.discovered then .next s
  else
    let s1 := s.onClock fun c => { c with phase := .done, fwUp := true }
    if s.wick.otpBad.contains 3 then .next (s1.setDev .halted)
    else
      let s2 := s1.unwrapKey.onWick WickState.zeroStale
      let s3 := s2.onIntake fun i => { i with streams := [] }
      let s4 := (s3.onPlace fun p => { p with cellKey := s3.draws }).onClock fun c => { c with step := 2 }
      .next (({ s4 with draws := s4.draws + 1 } : State).setDev .recover)

end Sys2Proof.Machine
end

