-- ==== Sys2Proof/Machine/Recovery.lean ====
section
/-! DEFINITION. Recovery (R135 to R145): the walk, the snuff band, the cycle-order cut, the recovery casks, the new checkpoint and
anchor pair, the snuff bands, and the exit from RECOVER; and the initialization of a blank magazine (R144). -/
namespace Sys2Proof.Machine
open Sys2Proof

/-! ### Steps 3 and 4: the walk (R137) -/

/-- A record follows another: its sequence is the next, and it stands in the same band, or in the one that a band link names (R118,
R120, R137). -/
def follows (p r : JRec) : Bool :=
  decide (r.seq = p.seq + p.parts) &&
  match p.body with
  | .bandLink a => r.addr == a
  | .cask _ | .note _ | .checkpoint _ => decide (r.addr.toNat / 16777216 = p.addr.toNat / 16777216)

/-- The walk over records: up to the first that is not valid, or that begins an incomplete cask (R137). -/
def walk (ok : JRec → Bool) : Option JRec → List JRec → List JRec
  | _, [] => []
  | prev, r :: rs => if ok r && prev.all (fun p => follows p r) then r :: walk ok (some r) rs else []

/-- The records adopted from a head on (R137). -/
def State.walkFrom (s : State) (bad : List Nat) (head : Nat) : List JRec :=
  walk (s.recReads bad) none (s.journal.recs.dropWhile fun r => r.seq != head)

/-- The walk end: the sequence of the last part of the last record adopted (R137). -/
def walkEnd (ws : List JRec) : Nat := ws.foldl (fun m r => max m (r.seq + r.parts - 1)) 0

/-- A piece lies where a run says it does (R207). -/
def Run.holds (r : Run) (p : Piece) : Bool :=
  p.unit.isNone && p.stream == r.stream && p.within r.off r.len && p.loc == some (r.loc.plus (p.off / 4096 - r.off / 4096))

/-- A piece's bytes lie within the bytes of a run. -/
def Run.spans (r : Run) (p : Piece) : Bool :=
  p.unit.isNone && p.stream == r.stream && p.within r.off r.len

/-- A run extension is adopted: the pieces at its location take the place of those that it supersedes (R124, R137). -/
def Snapshot.adoptRun (flash : List Piece) (x : Snapshot) (r : Run) : Snapshot :=
  let got := flash.filter r.holds
  let old := if got.isEmpty then x.pieces else x.pieces.filter fun p => !r.spans p
  { x with pieces := old ++ got, runs := addRun x.runs r }

/-- A map delta is adopted: the unit's newest piece (R124, R219). -/
def Snapshot.adoptDelta (flash : List Piece) (x : Snapshot) (d : MapDelta) : Snapshot :=
  let got := flash.filter fun p => p.unit == some d.unit && p.seq == d.seq && p.loc == some d.loc
  let old := if got.isEmpty then x.pieces else
    x.pieces.filter fun p => !(p.unit == some d.unit && decide (p.seq ≤ d.seq))
  { x with pieces := old ++ got, entrySeq := max x.entrySeq d.seq }

/-- A stream entry of a cask or a note is adopted (R124, R127, R367). A note moves ST_ACCEPT alone; ST_TRIM is that of the last cask
(R90). A FREE entry has its class, mirror enable and quota, which ST_CLASS and ST_QUOTA set while it is FREE (R95). -/
def CaskEntry.adopt (e : CaskEntry) (note : Bool) (n : Nat) (old : Stream) : Stream :=
  let b := if old.epoch = e.epoch then old else { Stream.none with epoch := e.epoch }
  if e.st = .free then { Stream.none with epoch := e.epoch, cls := e.cls, mirrorEn := e.mirror, quota := e.quota }
  else
    { b with
      st := e.st, cls := e.cls, mirrorEn := e.mirror, quota := e.quota
      trim := if note then b.trim else e.trim, trimSealed := if note then b.trimSealed else e.trim
      accept := max b.accept e.close
      durable := if note then b.durable else max b.durable e.close
      openCycle := if note then b.openCycle else max b.openCycle (n + 1) }

/-- The stream entries of a record; a deleted stream's pieces and runs leave. -/
def Snapshot.adoptEntry (note : Bool) (n : Nat) (x : Snapshot) (e : CaskEntry) : Snapshot :=
  let y := { x with streams := tset Stream.none x.streams e.stream (e.adopt note n (tget Stream.none x.streams e.stream)) }
  if e.st = .free then
    { y with pieces := y.pieces.filter fun p => p.unit.isSome || p.stream != e.stream
             runs := y.runs.filter fun r => r.stream != e.stream }
  else y

/-- A cask or a note is adopted (R137). -/
def Snapshot.adoptCask (flash : List Piece) (note : Bool) (x : Snapshot) (c : Cask) : Snapshot :=
  let y := c.entries.foldl (Snapshot.adoptEntry note c.cycle) x
  c.deltas.foldl (Snapshot.adoptDelta flash) (c.runs.foldl (Snapshot.adoptRun flash) y)

/-- A record is adopted; a later checkpoint states everything anew (R137). -/
def Snapshot.adoptRec (flash : List Piece) (x : Snapshot) (r : JRec) : Snapshot :=
  match r.body with
  | .cask c => x.adoptCask flash false c
  | .note c => x.adoptCask flash true c
  | .checkpoint y => y
  | .bandLink _ => x

/-- The state of a blank magazine's checkpoint: nothing (R144). -/
def Snapshot.empty : Snapshot :=
  { streams := [], pieces := [], runs := [], runPages := [], randBands := [], mapPages := [], bands := [], kd := [], retBlk := [], retDies := [],
    retChan := [], memRet := [], good := [], heldBlk := [], stagingRes := 0, randomRes := 0, randSize := 0, entrySeq := 0, ticks := [],
    link := none, health := [] }

/-! ### Step 5: the snuff band (R138) -/

/-- The snuff band's contents, if the anchor names one. -/
def State.snuffRead (s : State) (a : Anchor) : Option SnuffImage := if a.snuffLoc.isSome then s.journal.snuff else none

/-- The tail of a base above the walk end: records that it builds on are lost. Its stream-table changes and the runs of the cycles after
its base are applied, and the health log it carries is the newest (R245); the cut of R139 then takes what it does not allow (R138). -/
def Snapshot.applyTail (x : Snapshot) (t : Tail) : Snapshot :=
  let fresh := t.snap.pieces.filter fun p => t.sealed.all fun n => decide (n < p.cycle)
  { x with
    streams := t.snap.streams, ticks := t.snap.ticks, link := t.snap.link, health := t.snap.health
    pieces := x.pieces ++ fresh.filter fun p => !x.pieces.contains p
    runs := (fresh.filterMap fun p => p.run 0).foldl addRun x.runs }

/-- A piece of the snuff band carries an epoch above its stream's entry: the stream was opened after the tail was committed, and its
entry is made from the piece directory, OPEN in the piece's cycle; its class, quota and mirror flag are in no record and stand at 0
(R74, R113, R138, R278; DEDUCED, log 116). -/
def Snapshot.adoptOpen (x : Snapshot) (p : Piece) : Snapshot :=
  if p.unit.isNone && decide ((tget Stream.none x.streams p.stream).epoch < p.epoch) then
    let e : Stream := { Stream.none with st := .open, epoch := p.epoch, openCycle := p.cycle }
    { x with streams := tset Stream.none x.streams p.stream e }
  else x

/-- The pages are those that the adopted checkpoint names, and the run table is that checkpoint's with the run extensions adopted after it
(R209, R233). -/
def Snapshot.overCheckpoint (x base : Snapshot) : Snapshot :=
  { x with
    runPages := base.runPages, mapPages := base.mapPages
    runs := (((x.pieces.filter fun p => !base.pieces.contains p).filterMap fun p => p.run 0).foldl addRun base.runs).filter fun r =>
      (tget Stream.none x.streams r.stream).st ≠ .free }

/-- The state that the walk and the snuff band's tail give. The tail states absolute values: records written after its commit are adopted
over it (R122, R138). -/
def State.adoptedState (s : State) (bad : List Nat) (a : Anchor) : Snapshot :=
  let flash := s.place.pieces
  let ws := s.walkFrom bad a.headSeq
  let base := ws.foldl (Snapshot.adoptRec flash) Snapshot.empty
  match s.snuffRead a with
  | some img =>
    let x := if img.tail.base ≤ walkEnd ws then
        (ws.filter fun r => decide (img.tail.upTo < r.seq)).foldl (Snapshot.adoptRec flash) img.tail.snap
      else base.applyTail img.tail
    let y := { x with ticks := img.tail.snap.ticks }
    ((img.pieces.filter fun p => p.keyGen == s.intake.keyGen).foldl Snapshot.adoptOpen y).overCheckpoint base
  | none => base

/-- A snuff-band piece whose every byte a programmed run holds is an orphan (R138). -/
def orphanPiece (ps : List Piece) (p : Piece) : Bool :=
  ps.any fun q =>
    match p.unit, q.unit with
    | some u, some v => u == v && decide (p.seq ≤ q.seq)
    | none, none => q.stream == p.stream && q.epoch == p.epoch && decide (q.off ≤ p.off) &&
        decide (p.off + p.data.length ≤ q.off + q.data.length)
    | _, _ => false

/-- A directory entry and a piece's trailer together identify the piece, and its CRC matches (R99, R138, R278). -/
def DirEntry.names (d : DirEntry) (p : Piece) : Bool :=
  ({ d with second := false, first := 0 } : DirEntry) == p.dirEntry && p.crc == crc32c p.data

/-- The pieces of the snuff bands with the places that the directory gives them, as ordinary staged data of those bands (R138, R141,
R211, R278). -/
def snuffPieces (bands : List Nat) : List DirEntry → List Piece → List Piece
  | d :: ds, p :: ps =>
    let at_ := bands.getD (if d.second then 1 else 0) 0
    let rest := snuffPieces bands ds ps
    if d.names p then
      { p with loc := some { band := at_, width := 1, slc := true, q := d.first }, staged := true, fixed := true, done := true
               noted := true, inTun := false, spill := none, spillOk := false, src := none } :: rest
    else rest
  | _, _ => []

/-- The piece can be read: it stands under the key in use, and its stream's entry is not FREE and has its epoch. -/
def State.readable (s : State) (x : Snapshot) (p : Piece) : Bool :=
  p.keyGen == s.intake.keyGen &&
  (p.unit.isSome ||
    (let e := tget Stream.none x.streams p.stream
     e.st ≠ .free && decide (e.epoch = p.epoch)))

/-- Every piece that recovery maps: the adopted ones on flash, and those of the snuff band that no programmed run holds. -/
def State.mappedPieces (s : State) (a : Anchor) (x : Snapshot) : List Piece :=
  let ps := (flashPieces (x.pieces.map fun p => { p with src := none })).map fun p => { p with noted := true }
  let all := match s.snuffRead a with
    | some img => ps ++ (snuffPieces img.bands img.dir img.pieces).filter fun p => !orphanPiece ps p
    | none => ps
  newestUnits (all.filter (s.readable x))

/-! ### Step 6: lengths and the cut (R138, R139) -/

/-- How far the pieces reach from an offset without a gap; n bounds the steps. -/
def reach (ps : List Piece) : Nat → Nat → Nat
  | 0, f => f
  | n + 1, f =>
    match ps.find? fun p => decide (p.off ≤ f) && decide (f < p.off + p.data.length) with
    | some p => reach ps n (p.off + p.data.length)
    | none => f

/-- The lowest of the given missing bytes of a stream from an offset on. -/
def firstMissing (missing : List (BitVec 10 × Nat)) (i f : Nat) : Option Nat :=
  ((missing.filter fun m => m.1.toNat == i && decide (f ≤ m.2)).map Prod.snd).foldl (fun b o =>
    match b with
    | none => some o
    | some x => some (min x o)) none

/-- The longest prefix of stream i, from its trim on, that the pieces hold and no missing byte breaks. -/
def prefixEnd (ps : List Piece) (missing : List (BitVec 10 × Nat)) (i : Nat) (e : Stream) : Nat :=
  let mine := ps.filter fun p => p.unit.isNone && p.stream == i
  let f := reach mine mine.length e.trim
  match firstMissing missing i e.trim with
  | some o => min f o
  | none => f

/-- The highest byte mapped of a stream, or its recorded ST_ACCEPT. -/
def topByte (ps : List Piece) (i : Nat) (e : Stream) : Nat :=
  (ps.filter fun p => p.unit.isNone && p.stream == i).foldl (fun t p => max t (p.off + p.data.length)) e.accept

/-- The frontiers that adopted casks and through notes record for a stream, each with the cycle that it credits, and those of the
stream's own entry, as (cycle, frontier) (R127, R139). -/
def closesOf (recs : List JRec) (i : Nat) (e : Stream) : List (Nat × Nat) :=
  (recs.flatMap fun r =>
    match r.body with
    | .cask c | .note c => (c.entries.filter fun y => y.stream == i && decide (y.epoch = e.epoch)).map fun y => (c.cycle, y.close)
    | .checkpoint _ | .bandLink _ => []) ++ e.closes

/-- The cycle that a missing byte is credited to (R139): the first whose recorded close frontier lies above it, else the cycle
after the last that the stream has closed. -/
def creditOf (recs : List JRec) (i : Nat) (e : Stream) (o : Nat) : Nat :=
  ((closesOf recs i e).filter fun c => decide (o < c.2)).foldl (fun b c => min b c.1) e.openCycle

/-- The cycle from which on the cut takes bytes away: c* + 1; none: no byte is missing (R139). -/
def cutCycle (recs : List JRec) (ps : List Piece) (missing : List (BitVec 10 × Nat)) (streams : Sparse Stream) : Option Nat :=
  (streams.filter fun x => x.2.st ≠ .free).foldl (fun b x =>
    let f := prefixEnd ps missing x.1 x.2
    let gap := decide (f < x.2.accept) || (firstMissing missing x.1 x.2.trim).any fun o => decide (o < topByte ps x.1 x.2)
    if gap then
      let c := creditOf recs x.1 x.2 f
      match b with
      | none => some c
      | some y => some (min y c)
    else b) none

/-- The recovered length of a stream (R138, R139). -/
def recoveredLen (ps : List Piece) (missing : List (BitVec 10 × Nat)) (cut : Option Nat) (i : Nat) (e : Stream) : Nat :=
  prefixEnd (match cut with
    | some c => ps.filter fun p => p.unit.isSome || decide (p.cycle < c)
    | none => ps) missing i e

/-- A piece within its stream's recovered length; one that the cut divides keeps its first bytes. -/
def cutPiece (lens : Sparse Nat) (p : Piece) : Option Piece :=
  if p.unit.isSome then some p
  else
    let n := tget 0 lens p.stream
    if p.off + p.data.length ≤ n then some p
    else if n ≤ p.off then none
    else
      let d := p.data.take (n - p.off)
      some { p with data := d, crc := crc32c d }

/-! ### Recovery casks and the stream states (R83, R141) -/

/-- The state of a stream after recovery, once its bytes are durable (R83). -/
def recoveredState : SState → SState
  | .free => .free
  | .open | .draining | .closed => .closed
  | .faulted => .faulted

/-- The entry of a stream that recovery restores: its length, class, quota and epoch, every fault bit 0 (R83, R367); n is the
first cycle opened after RECOVER. Where recovery writes no cask, an interrupted stream stays DRAINING. -/
def Stream.restored (e : Stream) (len n : Nat) (sealed : Bool) : Stream :=
  if e.st = .free then { Stream.none with epoch := e.epoch, cls := e.cls, mirrorEn := e.mirrorEn, quota := e.quota }
  else
    { Stream.none with
      st := if !sealed && (e.st = .open || e.st = .draining) && decide (e.durable < len) then .draining else recoveredState e.st
      cls := e.cls, mirrorEn := e.mirrorEn, quota := e.quota, accept := len, front := len
      durable := if sealed then len else min len e.durable
      trim := min e.trim len, openCycle := n, epoch := e.epoch, pieceStart := len }

/-- The end of a stream's bytes credited to cycle n or before. -/
def endAt (ps : List Piece) (i n : Nat) (e : Stream) : Nat :=
  ps.foldl (fun a p => if p.unit.isNone ∧ p.stream = i ∧ p.cycle ≤ n then max a (p.off + p.data.length) else a) e.durable

/-- Bytes of stream i are credited to a cycle that satisfies f. -/
def credits (ps : List Piece) (i : Nat) (f : Nat → Bool) : Bool := ps.any fun p => p.unit.isNone && p.stream == i && f p.cycle

/-- The entry of a stream in the recovery cask of cycle n; with the last bytes of the stream it shows the state that the
stream takes (R83, R124). -/
def recoveryEntry (ps : List Piece) (n : Nat) (i : Nat) (e : Stream) : CaskEntry :=
  { stream := i
    st := if credits ps i (fun c => decide (n < c)) && (e.st = .open || e.st = .draining) then .draining else recoveredState e.st
    flags := BitVec.ofNat 8 (tget 0 e.changed n % 256)
    cls := e.cls, mirror := e.mirrorEn, quota := e.quota, epoch := e.epoch, close := endAt ps i n e, trim := e.trim }

/-- The cycle in progress at the trigger, with its tick position (R277). -/
def SnuffImage.progress (img : Option SnuffImage) : Option (Nat × Nat) := img.map fun i => (i.cycle, i.tickPos)

/-- The recovery cask of cycle n (R141). Bits DEGRADED and FREE_MODE are 0: recovery does not know the states of that cycle (DESIGN
CHOICE, log 115). -/
def State.recoveryCask (s : State) (x : Snapshot) (ps : List Piece) (now : Option (Nat × Nat)) (n : Nat) : Cask :=
  let open_ := x.streams.any fun e =>
    (e.2.st = .open || e.2.st = .draining) && decide (e.2.openCycle ≤ n) && credits ps e.1 (fun c => c == n)
  { cycle := n, setSealed := s.setSealed, missing := s.host.missing, joined := decide (1 < s.link.count)
    recovered := true, cut := open_ || now.any fun y => y.1 == n
    synth := s.lamp.synthCycles.contains n, degraded := false, free := false
    ticks := match now with
      | some y => if y.1 = n then y.2 else tget 0 x.ticks n
      | none => tget 0 x.ticks n
    entries := x.streams.filterMap fun e =>
      if e.2.st ≠ .free ∧ (credits ps e.1 (fun c => c == n) ∨ tget 0 e.2.changed n ≠ 0) then
        some (recoveryEntry ps n e.1 e.2) else none
    runs := ps.filterMap fun p => if p.cycle = n then p.run 0 else none
    deltas := ps.filterMap fun p =>
      match p.unit, p.loc with
      | some u, some l => if p.cycle = n then some (s.delta u l p.seq) else none
      | _, _ => none
    released := [] }

/-- The cycles that credit adopted bytes not covered by an adopted cask, in order (R141). -/
def uncovered (ps : List Piece) (last : Option Nat) : List Nat :=
  (sortBy (fun a b => decide (a ≤ b)) ((ps.filter fun p => last.all fun n => decide (n < p.cycle)).map Piece.cycle)).eraseDups

/-- A recovery cask is written; its mark follows (R141, R147). -/
def State.writeRecoveryCask (r : RecoveryIn) (x : Snapshot) (ps : List Piece) (now : Option (Nat × Nat)) (s : State) (n : Nat) : State :=
  let t := s.record (.cask (s.recoveryCask x ps now n)) (some r)
  (t.onJournal fun j => { j with lastSeal := some n }).postMarks n true

/-- The highest cycle that an adopted cask records (R50). -/
def lastCaskOf (recs : List JRec) : Option Nat :=
  recs.foldl (fun b r =>
    match r.body with
    | .cask c => some (max (b.getD 0) c.cycle)
    | .note _ | .checkpoint _ | .bandLink _ => b) none

/-! ### Bands after recovery (R140, R141, R176) -/

/-- The band is known: the adopted state lists it, or an adopted piece or run page lies in it. -/
def State.bandKnown (s : State) (x : Snapshot) (ps : List Piece) (b : Nat) : Bool :=
  x.bands.any (fun y => y.1 == b) || s.place.snuff.any (fun y => y.1 == b) ||
  ps.any (fun p => p.loc.any fun l => (s.groupBands l).contains b) ||
  x.runPages.any (fun y => (s.groupBands y.1).contains b) || x.mapPages.any (fun y => (s.groupBands y.1).contains b) ||
  s.journal.bands.contains b || s.journal.spare == some b

/-- What recovery found that bears on the bands: the bands of the snuff image, the open rows whose accumulators it holds, as (band, row), the
walk end, and the journal sequence current then. -/
structure BandFacts where
  used : List Nat
  accs : List (Nat × Nat)
  last : Nat
  seq  : Nat
  deriving DecidableEq, Repr

/-- The facts of a walk end and a snuff image. -/
def bandFacts (img : Option SnuffImage) (last seq : Nat) : BandFacts :=
  match img with
  | some i => { used := i.bands, accs := i.accs.map fun a => (a.1, a.2.1), last := last, seq := seq }
  | none => { used := [], accs := [], last := last, seq := seq }

/-- An open row of a band is closed early at recovery: its data units that can still be programmed take pad codewords, kind 4, and its parity
follows, from the accumulator that the snuff band holds; a row without one stays as it is (R176, R180, R190). -/
def State.closeRow (s : State) (b seq : Nat) (y : Band) (row : Nat) : Band :=
  let pads := (dataSlots b (y.membersAt row)).filter fun c => !y.units.contains (row, c) && !y.failedAt row c && s.memberLive b c
  let y1 := pads.foldl (fun z c => z.addUnit row c seq (List.replicate (s.cu y.slc) 4)) y
  let p := y.parityAt b row
  if y.failedAt row p || !s.memberLive b p then y1 else { y1 with parity := y1.parity ++ [row] }

/-- A band after recovery: the used snuff bands are staging data; open bands are closed, their open rows completed with pad codewords and
their parity (R176), what no run covers being orphans (R140); one with nothing programmed gives its blocks back. A band that a lost cask lists
as released is not released: its data is mapped again (R232, R233). -/
def State.recoverBand (s : State) (f : BandFacts) (b : Nat) (y : Band) : Band :=
  if f.used.contains b then { y with pool := .staging, group := [b], phase := .closed }
  else if y.phase = .released ∧ f.last < y.relSeq then { y with phase := .closed, relSeq := 0 }
  else if y.pool = .journal ∨ y.pool = .snuff ∨ y.phase ≠ .open then y
  else if y.units.isEmpty then { y with phase := .erasable, accs := [], accBuf := [] }
  else
    let rows := (f.accs.filter fun a => a.1 = b && !y.parity.contains a.2).map Prod.snd
    { rows.foldl (s.closeRow b f.seq) y with accs := [], accBuf := [], left := true, phase := .closed }

/-! ### Snuff bands (R141, R144, R238) -/

/-- A snuff band formed and checked at a die index: it holds at least 72 MiB of data in SLC mode, or its blocks go back (R174, R238). -/
def State.formSnuff (s : State) (r : RecoveryIn) (d : Nat) : State × Option Nat :=
  match s.formNow r .snuff d with
  | (t, some b) => if 75497472 ≤ 4096 * t.snuffCap b [] then (t, some b) else (t.modBand b fun y => { y with phase := .erasable }, none)
  | (t, none) => (t, none)

/-- The die indexes at which a snuff band may be formed: where more than one index is in use, another than that of the band held (R238). -/
def State.snuffIndexes (s : State) : List Nat :=
  if s.indexes.length ≤ 1 then s.indexes
  else s.indexes.filter fun d => !s.place.snuff.any fun y => y.1 % 16 = d

/-- Free bands supply snuff bands until two are held (R141, R238). -/
def State.fillSnuff (r : RecoveryIn) : Nat → State → State
  | 0, s => s
  | n + 1, s =>
    if 2 ≤ s.place.snuff.length then s
    else
      let f := s.snuffIndexes.foldl (fun (a : State × Option Nat) d =>
        match a.2 with
        | some _ => a
        | none => a.1.formSnuff r d) (s, none)
      match f.2 with
      | some b => State.fillSnuff r n (f.1.onPlace fun p => { p with snuff := p.snuff ++ [(b, true)] })
      | none => f.1

/-- Two checked snuff bands are held. -/
def State.snuffHeld (s : State) : Bool := decide (2 ≤ (s.place.snuff.filter fun y => y.2).length)

/-- The snuff bands are restored if free bands can supply them (R141). -/
def State.restoreSnuff (s : State) (r : RecoveryIn) : State := if r.snuffBands then s.fillSnuff r 2 else s

/-! ### The exit (R142, R452) -/

/-- Fewer pairs than a journal band needs (R159). -/
def State.tooFewDies (s : State) : Bool :=
  s.indexes.isEmpty ||
  decide (((List.range 16).filter fun c => s.indexes.any fun d => (s.pairsAt d).contains c).length < 4)

/-- A cause of write-through other than the power-up cause holds (R108). -/
def State.otherCause (s : State) : Bool :=
  decide (0 < s.intake.dryOwed) || decide (0 < s.intake.gaugeOwed) || s.intake.wtCap || s.intake.wtEnergy ||
  s.power.forceWt || s.unitDown .power || s.unitDown .snuff

/-- A trial image that reaches READY or DEGRADED becomes the active one (R429). -/
def WickState.trialDone (w : WickState) : WickState :=
  match w.boot with
  | none => w
  | some b => if b.trial && w.slotB != b.active then w.putBoot { b with active := !b.active, trial := false } else w

/-- READY, or in its place DEGRADED; the power-up cause alone raises no WT_ENTER and is not counted (R108, R142). -/
def State.enterRunning (s : State) : State :=
  let s1 := s.onWick WickState.trialDone
  if !s1.wtCause then s1.setDev .ready
  else
    let s2 := (s1.setDev .degraded).onIntake fun i => { i with wtPowerUp := !s1.otherCause }
    if s1.otherCause then (s2.raise .wtEnter).count32 0x46 1 else s2

/-- Step 8: LINK_LAST is restored after a VAUX POR, BOOT_STATUS shows the outcome, and RECOVER is left (R142, R341, R343,
R375). Where a message has been executed since the VAUX POR, the record restored is not the last message executed: that message's own record
stands (R341; DESIGN CHOICE, log 140). -/
def State.leaveRecover (s : State) (code : BitVec 3) (ro : Bool) (link : Option LinkLast) (ms : Nat) : State :=
  let s1 := s.onLink fun l => { l with
    last := if l.restoring ∧ l.last = none then link.map fun x => { x with restored := true } else l.last
    restoring := false }
  let s2 := s1.onClock fun c => { c with
    recCode := code, step := 9, recMs := BitVec.ofNat 16 (min ms 65535), snuffMount := false }
  let s3 := s2.onJournal fun j => { j with
    ended := [], firstSeal := max s.lamp.cycle (match j.lastSeal with
      | some n => n + 1
      | none => 0) }
  (if ro || s3.snuffLatched then s3.setDev .readOnly else s3.enterRunning).holdC.spaceCheck.healthCheck

/-! ### Installing what was recovered -/

/-- The words that count events one by one (R242). -/
def countWord (w : Nat) : Bool :=
  w == 0x02 || w == 0x04 || (decide (0x10 ≤ w) && decide (w ≤ 0x1C)) || (decide (0x24 ≤ w) && decide (w ≤ 0x2C)) ||
  (decide (0x30 ≤ w) && decide (w ≤ 0x3F)) || (decide (0x44 ≤ w) && decide (w ≤ 0x46)) || (decide (0x48 ≤ w) && decide (w ≤ 0x59))

/-- A word of the restored log, and the same word since this power-up: what BOOT and RECOVER have counted is added, and a temperature or a
gauge result that they have measured is taken (R242, R244, R245). -/
def mergeWord (w old new : Nat) : Nat :=
  if countWord w then min (old + new) 0xFFFFFFFF
  else if w = 0x20 ∨ w = 0x22 then min (old + new) (2 ^ 64 - 1)
  else if w = 0x2D ∨ w = 0x43 then
    min (old % 65536 + new % 65536) 0xFFFF + 65536 * min (old / 65536 + new / 65536) 0xFFFF
  else if w = 0x40 then
    byteOf (max (ofByte (old % 256)) (ofByte (new % 256))) + 256 * byteOf (min (ofByte (old / 256 % 256)) (ofByte (new / 256 % 256)))
  else if w = 0x41 then
    (if old = 0 then new else if new = 0 then old else old % 65536 + 65536 * min (old / 65536) (new / 65536))
  else if w = 0x42 then (if new = 0 then old else new)
  else old

/-- The restored log with what has been counted since this power-up (R245). -/
def mergeWords (old new : Sparse Nat) : Sparse Nat := new.foldl (fun t x => tset 0 t x.1 (mergeWord x.1 (tget 0 t x.1) x.2)) old

/-- Words that recovery sets in the log: power-ups, retired dies and channels, and what the snuff header counts (R242, R244). -/
def State.recoveredWords (s : State) (img : Option SnuffImage) : State :=
  let s1 := (s.hset 0x01 s.journal.powerUps.toNat).retiredWord
  match img with
  | none => s1
  | some i => (if i.trigger = 1 then s1.count32 0x44 1 else s1).count32 0x45 1

/-- A stream's recorded ST_DURABLE. -/
def Snapshot.durableOf (x : Snapshot) (i : Nat) : Nat := (tget Stream.none x.streams i).durable

/-- The stream table that recovery restores (R83). -/
def Snapshot.table (x : Snapshot) (lens : Sparse Nat) (first : Nat) (sealed : Bool) : Sparse Stream :=
  x.streams.foldl (fun t e => tset Stream.none t e.1 (e.2.restored (tget 0 lens e.1) first sealed)) []

/-- The state that recovery installs: table, map, bands and counters (R83, R135 steps 3 to 6). -/
def State.install (s : State) (a : Anchor) (x : Snapshot) (ps : List Piece) (lens : Sparse Nat) (first last : Nat)
    (sealed : Bool) : State :=
  let facts := bandFacts (s.snuffRead a) last (s.journal.nextSeq - 1)
  let s1 := s.onIntake fun i => { i with
    streams := x.table lens first sealed
    entrySeq := ps.foldl (fun m p => max m p.seq) x.entrySeq }
  let s2 := s1.onPlace fun p => { p with
    pieces := ps
    runs := ((ps.filter fun y => decide (x.durableOf y.stream < y.off + y.data.length)).filterMap fun y => y.run 0).foldl addRun x.runs
    runPages := x.runPages, randBands := x.randBands, mapPages := x.mapPages, pageJobs := [], kd := x.kd, heldBlk := x.heldBlk, stagingRes := x.stagingRes, randomRes := x.randomRes, randSize := x.randSize
    bands := tmap bandNone (fun b y => if s.bandKnown x ps b then s.recoverBand facts b y else bandNone) p.bands
    snuff := p.snuff.filter fun y => !facts.used.contains y.1, groups := [], moves := [], short := [] }
  let s2 := s2.onPlace fun p => { p with
    pagesDue := (((ps.filterMap Piece.unit).map fun u => (unitLine u).1).eraseDups).filter fun q => s2.formPage q ≠ s2.pageOnFlash q }
  let s3 := x.memRet.foldl (fun t m => t.modMemory m.1 fun r => { r with retired := m.2 }) s2.countGood
  (s3.onHealth fun h => { h with words := mergeWords x.health h.words }).recoveredWords (s.snuffRead a)

/-- The programs of the pages submitted are taken as complete within the command, and so are those of the pages that locate them (DESIGN
CHOICE, log 125); n bounds the rounds. -/
def State.landAll : Nat → State → State
  | 0, s => s
  | n + 1, s => if s.place.pageJobs.isEmpty then s else State.landAll n (s.place.pageJobs.foldl State.landPage s)

/-- Recovery writes run pages as it needs them, until the run table holds 20,480 entries or fewer (R208, R209); n bounds the pages. -/
def State.shrinkRuns : Nat → State → State
  | 0, s => s
  | n + 1, s => if s.place.runs.length ≤ 20480 then s else State.shrinkRuns n (s.formRunPage.landAll 4)

/-- Step 7: the pages that it needs, a checkpoint, the anchor pair that names it, with the intent of a SUSPECT sector's erase (R131, R143, R422,
R425), and the journal tail that builds on it. -/
def State.anchorNew (s : State) (r : RecoveryIn) : State :=
  let s0 := s.shrinkRuns s.place.runs.length
  let s1 := (s0.submitPages.landAll 4).checkpoint (some r)
  let s2 := (s1.onWick WickState.arm).writePair (s1.topGen + 1) false (s1.journal.newestCp.getD 0) none
  let s3 := s2.onWick fun w => { w with tokens := w.tokens - 1 }
  (s3.onJournal fun j => { j with sinceHead := s3.bytesAfter (j.newestCp.getD 0), snuff := none, frames := [] }).setTail

/-- The records beyond the walk end are not read again. The journal goes on in the band being written, at its next free page, and with
the sequence after the last one written: no sequence is used twice on a magazine (R117, R118, R137). -/
def JournalState.truncated (j : JournalState) (known : List JRec) (last : Nat) : JournalState :=
  { j with recs := known, nextSeq := max j.nextSeq (last + 1) }

/-- The code of R142: of codes 1 to 3 the highest; the codes of a READ_ONLY mount before them. -/
def recoveryCode (noSnuff tie cut fallback adopted : Bool) : BitVec 3 :=
  if noSnuff then 7 else if tie then 4 else if cut then 3 else if fallback then 2 else if adopted then 1 else 0

/-- A tie is reported by WICK at RESTART, after recovery has decided to mount READ_ONLY (R136, R453). -/
def State.reportTie (s : State) (gen : Nat) : State := (s.assertError .wickAnchorTie (detail [(56, gen)])).takeReport .wick

/-- Steps 3 to 8 from the chosen anchor (R135 to R142). Where too few dies leave no journal band to write (R159), nothing is
written, and interrupted streams stay DRAINING (R83). -/
def State.recoverFrom (s : State) (a : Anchor) (c : AnchorChoice) (r : RecoveryIn) : State :=
  let s0 := s.takeAnchor a
  let x := s0.adoptedState r.badSeqs a
  let ws := s0.walkFrom r.badSeqs a.headSeq
  let last_ := walkEnd ws
  let known := s0.journal.recs.filter fun y => decide (y.seq ≤ last_)
  let img := s0.snuffRead a
  let ps0 := s0.mappedPieces a x
  let cut := cutCycle known ps0 r.missing x.streams
  let lens : Sparse Nat := x.streams.map fun e => (e.1, recoveredLen ps0 r.missing cut e.1 e.2)
  let ps := ps0.filterMap (cutPiece lens)
  let sealed := !s0.tooFewDies
  let last := lastCaskOf known
  let cycles := if sealed then uncovered ps last else []
  let top := match cycles.getLast? with
    | some n => some n
    | none => last
  let s1 := s0.onLamp fun l => { l with cycleFloor := match top with
    | some n => if l.cycle ≤ n then some (n + 1) else none
    | none => none }
  let s2 := s1.install a x ps lens s1.lamp.nextCycle last_ sealed
  let link := match img.bind SnuffImage.link with
    | some l => some l
    | none => x.link
  if !sealed then
    let s3 := s2.leaveRecover (recoveryCode false c.tie cut.isSome c.fallback img.isSome) true link r.ms
    if c.tie then s3.reportTie a.gen else s3
  else
    let s3 := s2.onJournal fun j => { j.truncated known last_ with ticks := [], lastSeal := last, sealing := none }
    let s4 := cycles.foldl (State.writeRecoveryCask r x ps (SnuffImage.progress img)) s3
    let s5 := (((if cycles.isEmpty then s4 else s4.sealWords).anchorNew r).spareJournal (some r)).restoreSnuff r
    let code := recoveryCode (!s5.snuffHeld) c.tie cut.isSome c.fallback (img.isSome || s.clock.snuffMount)
    let s6 := s5.leaveRecover code (!s5.snuffHeld || c.tie || s.clock.snuffMount) link r.ms
    if c.tie then s6.reportTie a.gen else s6

/-! ### Initialization (R144, R199, R200) -/

/-- Raw capacity in bytes, as discovery found it, in units of 10 GB (R157, R322). -/
def State.rawBytes (s : State) : Nat := s.link.rawCode.toNat * 10000000000

/-- The random region's size: min(2 TiB, floor(raw ÷ 50 ÷ 2^30) GiB) (R199). -/
def randRegion (raw : Nat) : Nat := min 2199023255552 (raw / 50 / 1073741824 * 1073741824)

/-- Blocks whose native data capacity is num ÷ den bytes, rounded up (R200). -/
def State.blocksFor (s : State) (num den : Nat) : Nat :=
  match s.media.profile, s.indexes with
  | some p, d :: _ =>
    let w := (s.activeAt d).length
    ceilDiv (num * w) (den * (p.wordlines * profCu p false) * 4096 * (w - 1))
  | _, _ => 0

/-- Blocks of the staging reservation: 4 % of raw capacity (R200). -/
def State.stagingBlocks (s : State) : Nat := s.blocksFor (4 * s.rawBytes) 100

/-- Blocks of the random reservation: the random-region size ÷ 0.70 (R200). -/
def State.randomBlocks (s : State) (size : Nat) : Nat := s.blocksFor (100 * size) 70

/-- The staging and random reservations, spread over the die indexes in proportion to their good blocks, rounded down (R200). -/
def State.reserveBlocks (s : State) (size : Nat) : Sparse Nat :=
  let total := sumBy (fun d => tget 0 s.place.good d) s.indexes
  let n := s.stagingBlocks
  let k := s.randomBlocks size
  s.indexes.foldl (fun t d =>
    let g := tget 0 s.place.good d
    tset 0 t d (if total = 0 then 0 else n * g / total + k * g / total)) []

/-- The first journal band (R144). -/
def State.firstJournal (s : State) (r : RecoveryIn) : State :=
  match s.formJournal r with
  | (t, some b) => (t.onJournal fun j => { j with bands := [b], page := 0 }).spareJournal (some r)
  | (t, none) => t

/-- The health log of a new magazine, with what this power-up has counted: the allowance is 2 % of the good blocks, and no block is retired, no
temperature sampled and no capacitance measured since the initialization (R242, R244). -/
def State.firstWords (s : State) : State :=
  let good := sumBy (fun d => tget 0 s.place.good d) (List.range 16)
  let s1 := ((s.hset 0x01 s.journal.powerUps.toNat).hset 0x03 (good * 2 / 100)).hset 0x04 0
  (((s1.hset 0x40 0x7F80).hset 0x41 0).hset 0x42 0).retiredWord

/-- A blank magazine is initialized: a key, an empty table and map, the reservations, the first bands, an empty checkpoint and a
first anchor pair (R144). -/
def State.initMagazine (s : State) (r : RecoveryIn) : State :=
  let s0 := (s.bootCheck r.badSeqs).countGood
  if s0.tooFewDies then s0.leaveRecover 0 true none r.ms
  else
    let s1 := (s0.newKey 1).onIntake fun i => { i with streams := [], entrySeq := 0 }
    let size := randRegion s1.rawBytes
    let held := s1.reserveBlocks size
    let s2 := s1.onPlace fun p => { p with
      pieces := [], bands := [], kd := [], groups := [], runs := [], runPages := [], randBands := [], mapPages := [], pageJobs := [], moves := [], snuff := [], randSize := size
      heldBlk := held, stagingRes := s1.stagingBlocks, randomRes := s1.randomBlocks size }
    let s3 := (s2.onJournal fun j => { JournalState.reset with powerUps := j.powerUps, nextSeq := j.nextSeq }).firstWords
    let s4 := (s3.firstJournal r).restoreSnuff r
    let s5 := s4.anchorNew r
    s5.leaveRecover (if s5.snuffHeld then 6 else 7) (!s5.snuffHeld || s.clock.snuffMount) none r.ms

/-! ### The command -/

/-- Recovery's units work: the cores, MEDIA, TUN, INTAKE and WICK; no trigger has come. -/
def State.recoverUp (s : State) : Bool :=
  s.clock.mainOn && s.snuff.trigger.isNone && !s.stopped .front && !s.stopped .back && !s.stopped .media &&
  !s.stopped .tun && !s.stopped .intake && !s.stopped .wick

/-- The anchor pair of step 7 has a token, or none is to be written (R132, R159). -/
def State.pairToken (s : State) : Bool := decide (0 < s.wick.tokens) || s.tooFewDies

/-- RECOVERY: steps 2 to 8 of R135. With no intact anchor, a magazine with key slots ends in HALTED; a blank one is initialized
(R142). The anchor pair of step 7 waits for a token (R132). -/
def execRecovery (r : RecoveryIn) (s : State) : Host.Outcome State Fault Refusal :=
  if s.clock.dev ≠ .recover || !s.recoverUp then .next s
  else
    let c := s.chooseAnchor r.badSeqs
    match c.anchor with
    | some a => .next (if s.pairToken then s.recoverFrom a c r else s)
    | none =>
      if s.wick.keyA = 0 ∧ s.wick.keyB = 0 then .next (if s.pairToken then s.initMagazine r else s)
      else .next ((s.onClock fun k => { k with recCode := 5, recMs := BitVec.ofNat 16 (min r.ms 65535) }).setDev .halted)

end Sys2Proof.Machine
end

