-- ==== Sys2Proof/Machine/Dispatch.lean ====
section
/-! DEFINITION. The dispatch: one arm for each command, in the order of spec/opcode_table.json. Each arm is one direct call
of the command's meaning. -/
namespace Sys2Proof.Machine
open Sys2Proof

def exec (i : Instr) (s : State) : Host.Outcome State Fault Refusal :=
  match i with
  | .phaseInEdge sinceNs pos => Sys2Proof.Machine.execPhaseInEdge sinceNs pos s
  | .marker pos m => Sys2Proof.Machine.execMarker pos m s
  | .generatedMarker m => Sys2Proof.Machine.execGeneratedMarker m s
  | .acquireSynthMarker m => Sys2Proof.Machine.execAcquireSynthMarker m s
  | .flywheelSynthMarker m => Sys2Proof.Machine.execFlywheelSynthMarker m s
  | .tickLimitMarker m => Sys2Proof.Machine.execTickLimitMarker m s
  | .tickLost pos edges spanClocks => Sys2Proof.Machine.execTickLost pos edges spanClocks s
  | .windowOpen pos => Sys2Proof.Machine.execWindowOpen pos s
  | .windowEnd pos => Sys2Proof.Machine.execWindowEnd pos s
  | .tailGraceExpire pos => Sys2Proof.Machine.execTailGraceExpire pos s
  | .sealStart => Sys2Proof.Machine.execSealStart s
  | .sealComplete => Sys2Proof.Machine.execSealComplete s
  | .closeDoorbell stream c => Sys2Proof.Machine.execCloseDoorbell stream c s
  | .cycSrcWrite v mask => Sys2Proof.Machine.execCycSrcWrite v mask s
  | .cycPeriodWrite v => Sys2Proof.Machine.execCycPeriodWrite v s
  | .cycCountRead => Sys2Proof.Machine.execCycCountRead s
  | .cycCountHiWrite v => Sys2Proof.Machine.execCycCountHiWrite v s
  | .cycCountWrite v => Sys2Proof.Machine.execCycCountWrite v s
  | .planWinWrite v => Sys2Proof.Machine.execPlanWinWrite v s
  | .registerWrite addr v mask => Sys2Proof.Machine.execRegisterWrite addr v mask s
  | .stCmdOpen => Sys2Proof.Machine.execStCmdOpen s
  | .stCmdEnd => Sys2Proof.Machine.execStCmdEnd s
  | .stCmdResume => Sys2Proof.Machine.execStCmdResume s
  | .stCmdDelete => Sys2Proof.Machine.execStCmdDelete s
  | .apertureWrite off data be ep eccBad => Sys2Proof.Machine.execApertureWrite off data be ep eccBad s
  | .tunAck stream => Sys2Proof.Machine.execTunAck stream s
  | .mirrorWrite stream => Sys2Proof.Machine.execMirrorWrite stream s
  | .frontierLoRead f => Sys2Proof.Machine.execFrontierLoRead f s
  | .stTrimHiWrite v => Sys2Proof.Machine.execStTrimHiWrite v s
  | .stTrimLoWrite v => Sys2Proof.Machine.execStTrimLoWrite v s
  | .streamSelWrite v => Sys2Proof.Machine.execStreamSelWrite v s
  | .creditGrant => Sys2Proof.Machine.execCreditGrant s
  | .energyShortfallTimeout => Sys2Proof.Machine.execEnergyShortfallTimeout s
  | .wtFlushStart => Sys2Proof.Machine.execWtFlushStart s
  | .throughNoteProgrammed => Sys2Proof.Machine.execThroughNoteProgrammed s
  | .cryptoErase => Sys2Proof.Machine.execCryptoErase s
  | .softReset => Sys2Proof.Machine.execSoftReset s
  | .bootHoldWrite hold => Sys2Proof.Machine.execBootHoldWrite hold s
  | .journalTailCommit => Sys2Proof.Machine.execJournalTailCommit s
  | .perstAssert => Sys2Proof.Machine.execPerstAssert s
  | .recovery r => Sys2Proof.Machine.execRecovery r s
  | .mediaDiscovery d => Sys2Proof.Machine.execMediaDiscovery d s
  | .channelTraining ch pass => Sys2Proof.Machine.execChannelTraining ch pass s
  | .zqCalibrationShort ch => Sys2Proof.Machine.execZqCalibrationShort ch s
  | .retrainCheck ch pass => Sys2Proof.Machine.execRetrainCheck ch pass s
  | .tempRetrain ch elapsedS => Sys2Proof.Machine.execTempRetrain ch elapsedS s
  | .channelRetrain ch pass => Sys2Proof.Machine.execChannelRetrain ch pass s
  | .descriptorStart ch subs slot eccBad => Sys2Proof.Machine.execDescriptorStart ch subs slot eccBad s
  | .tokenWaitAge ch slot => Sys2Proof.Machine.execTokenWaitAge ch slot s
  | .mediaRead ch slot r => Sys2Proof.Machine.execMediaRead ch slot r s
  | .mediaProgram ch slot notErased failed => Sys2Proof.Machine.execMediaProgram ch slot notErased failed s
  | .mediaParity ch slot failed => Sys2Proof.Machine.execMediaParity ch slot failed s
  | .mediaErase ch slot failed => Sys2Proof.Machine.execMediaErase ch slot failed s
  | .markRead ch slot marked => Sys2Proof.Machine.execMarkRead ch slot marked s
  | .feature ch slot => Sys2Proof.Machine.execFeature ch slot s
  | .resetDie ch slot idMatches => Sys2Proof.Machine.execResetDie ch slot idMatches s
  | .dieTimeout ch slot readyAgain idMatches inSecond => Sys2Proof.Machine.execDieTimeout ch slot readyAgain idMatches inSecond s
  | .descriptorComplete ch slot e => Sys2Proof.Machine.execDescriptorComplete ch slot e s
  | .rebuild ch m => Sys2Proof.Machine.execRebuild ch m s
  | .kilnBatch m => Sys2Proof.Machine.execKilnBatch m s
  | .spargeCopy band m => Sys2Proof.Machine.execSpargeCopy band m s
  | .refreshRewrite ch band m => Sys2Proof.Machine.execRefreshRewrite ch band m s
  | .refreshUrgentAge ch band => Sys2Proof.Machine.execRefreshUrgentAge ch band s
  | .bandRelease band => Sys2Proof.Machine.execBandRelease band s
  | .piecePlacement stream => Sys2Proof.Machine.execPiecePlacement stream s
  | .runPageWrite => Sys2Proof.Machine.execRunPageWrite s
  | .gristMiss page => Sys2Proof.Machine.execGristMiss page s
  | .cellarPageFetched page r => Sys2Proof.Machine.execCellarPageFetched page r s
  | .snuffBandCheck firstErased secondErased => Sys2Proof.Machine.execSnuffBandCheck firstErased secondErased s
  | .scrubVisit ch band last further => Sys2Proof.Machine.execScrubVisit ch band last further s
  | .healthMinute => Sys2Proof.Machine.execHealthMinute s
  | .indAddrWrite v => Sys2Proof.Machine.execIndAddrWrite v s
  | .indDataAccess w => Sys2Proof.Machine.execIndDataAccess w s
  | .vinPor => Sys2Proof.Machine.execVinPor s
  | .railUv r below => Sys2Proof.Machine.execRailUv r below s
  | .railOv r => Sys2Proof.Machine.execRailOv r s
  | .railOc r beyond => Sys2Proof.Machine.execRailOc r beyond s
  | .chargeTimeout vbankMv => Sys2Proof.Machine.execChargeTimeout vbankMv s
  | .tempSample ctrl0 ctrl1 ctrl2 ctrl3 pwr wick => Sys2Proof.Machine.execTempSample ctrl0 ctrl1 ctrl2 ctrl3 pwr wick s
  | .thermalLimitRecompute higherForMs => Sys2Proof.Machine.execThermalLimitRecompute higherForMs s
  | .gaugeMeasurement => Sys2Proof.Machine.execGaugeMeasurement s
  | .gaugeNow => Sys2Proof.Machine.execGaugeNow s
  | .gaugeDeferFail => Sys2Proof.Machine.execGaugeDeferFail s
  | .gaugeMeasurementDone v0 v1 v2 => Sys2Proof.Machine.execGaugeMeasurementDone v0 v1 v2 s
  | .energyAvailUpdate vbankMv => Sys2Proof.Machine.execEnergyAvailUpdate vbankMv s
  | .removalDetect pos => Sys2Proof.Machine.execRemovalDetect pos s
  | .presentLowQualify => Sys2Proof.Machine.execPresentLowQualify s
  | .brownOut beyond pos => Sys2Proof.Machine.execBrownOut beyond pos s
  | .vauxLoss => Sys2Proof.Machine.execVauxLoss s
  | .snufferFlush left => Sys2Proof.Machine.execSnufferFlush left s
  | .bankLowAbort => Sys2Proof.Machine.execBankLowAbort s
  | .perstDeassert => Sys2Proof.Machine.execPerstDeassert s
  | .trainFail => Sys2Proof.Machine.execTrainFail s
  | .surpriseDown kind => Sys2Proof.Machine.execSurpriseDown kind s
  | .functionLevelReset => Sys2Proof.Machine.execFunctionLevelReset s
  | .d3hotEntry => Sys2Proof.Machine.execD3hotEntry s
  | .d0Return => Sys2Proof.Machine.execD0Return s
  | .bar0Read off len => Sys2Proof.Machine.execBar0Read off len s
  | .tailDoorbell ring v => Sys2Proof.Machine.execTailDoorbell ring v s
  | .headDoorbell ring v => Sys2Proof.Machine.execHeadDoorbell ring v s
  | .setupRecordWrite completion ring off data => Sys2Proof.Machine.execSetupRecordWrite completion ring off data s
  | .mirrorBaseWrite v => Sys2Proof.Machine.execMirrorBaseWrite v s
  | .setMailboxWrite slot data => Sys2Proof.Machine.execSetMailboxWrite slot data s
  | .bar2BadWrite off len => Sys2Proof.Machine.execBar2BadWrite off len s
  | .descriptorFetch r eccBad => Sys2Proof.Machine.execDescriptorFetch r eccBad s
  | .readStream id back => Sys2Proof.Machine.execReadStream id back s
  | .readRandom id back => Sys2Proof.Machine.execReadRandom id back s
  | .writeRandom id => Sys2Proof.Machine.execWriteRandom id s
  | .dataFetchDone id r => Sys2Proof.Machine.execDataFetchDone id r s
  | .caskQuery id => Sys2Proof.Machine.execCaskQuery id s
  | .completionPost id => Sys2Proof.Machine.execCompletionPost id s
  | .coalesceTimeout ring => Sys2Proof.Machine.execCoalesceTimeout ring s
  | .sealMarkAbandon => Sys2Proof.Machine.execSealMarkAbandon s
  | .linkReset => Sys2Proof.Machine.execLinkReset s
  | .linkDeselect => Sys2Proof.Machine.execLinkDeselect s
  | .protocolSelect ch parityFails => Sys2Proof.Machine.execProtocolSelect ch parityFails s
  | .chainedIFrame ns info => Sys2Proof.Machine.execChainedIFrame ns info s
  | .messageReceive ns nr info => Sys2Proof.Machine.execMessageReceive ns nr info s
  | .hostRFrame nr reason => Sys2Proof.Machine.execHostRFrame nr reason s
  | .frameCrcError => Sys2Proof.Machine.execFrameCrcError s
  | .length255Frame => Sys2Proof.Machine.execLength255Frame s
  | .resyncReq => Sys2Proof.Machine.execResyncReq s
  | .abortReq => Sys2Proof.Machine.execAbortReq s
  | .checkReq pattern => Sys2Proof.Machine.execCheckReq pattern s
  | .switchRevert => Sys2Proof.Machine.execSwitchRevert s
  | .readReg addr count => Sys2Proof.Machine.execReadReg addr count s
  | .writeReg addr data => Sys2Proof.Machine.execWriteReg addr data s
  | .writeMasked addr mask v => Sys2Proof.Machine.execWriteMasked addr mask v s
  | .indRead addr count => Sys2Proof.Machine.execIndRead addr count s
  | .indWrite addr data => Sys2Proof.Machine.execIndWrite addr data s
  | .resetCmdLink => Sys2Proof.Machine.execResetCmdLink s
  | .resetCmdWarm => Sys2Proof.Machine.execResetCmdWarm s
  | .resetCmdCold => Sys2Proof.Machine.execResetCmdCold s
  | .switch width rate => Sys2Proof.Machine.execSwitch width rate s
  | .sleep => Sys2Proof.Machine.execSleep s
  | .wake => Sys2Proof.Machine.execWake s
  | .echo data => Sys2Proof.Machine.execEcho data s
  | .novvenHeader op addr count chk fails => Sys2Proof.Machine.execNovvenHeader op addr count chk fails s
  | .novvenRead => Sys2Proof.Machine.execNovvenRead s
  | .novvenWrite data chk => Sys2Proof.Machine.execNovvenWrite data chk s
  | .novvenReset => Sys2Proof.Machine.execNovvenReset s
  | .irqEnableWrite v => Sys2Proof.Machine.execIrqEnableWrite v s
  | .faultAckWrite units => Sys2Proof.Machine.execFaultAckWrite units s
  | .faultAckSelf => Sys2Proof.Machine.execFaultAckSelf s
  | .setCtrlWrite v => Sys2Proof.Machine.execSetCtrlWrite v s
  | .memRetireWrite target => Sys2Proof.Machine.execMemRetireWrite target s
  | .memPwrWrite st => Sys2Proof.Machine.execMemPwrWrite st s
  | .memTestEnWrite en => Sys2Proof.Machine.execMemTestEnWrite en s
  | .memTestRead => Sys2Proof.Machine.execMemTestRead s
  | .memTestWriteRaw => Sys2Proof.Machine.execMemTestWriteRaw s
  | .memTestWriteChecked => Sys2Proof.Machine.execMemTestWriteChecked s
  | .wickSubmit tag => Sys2Proof.Machine.execWickSubmit tag s
  | .wickDoneTake => Sys2Proof.Machine.execWickDoneTake s
  | .cellarBaseWrite size hi => Sys2Proof.Machine.execCellarBaseWrite size hi s
  | .errorReport u fresh => Sys2Proof.Machine.execErrorReport u fresh s
  | .unitRestartRelease u => Sys2Proof.Machine.execUnitRestartRelease u s
  | .shadowEnd u => Sys2Proof.Machine.execShadowEnd u s
  | .dupMismatch addr other persists => Sys2Proof.Machine.execDupMismatch addr other persists s
  | .watchdog c => Sys2Proof.Machine.execWatchdog c s
  | .wickReadMargin pass => Sys2Proof.Machine.execWickReadMargin pass s
  | .wickProgram blank verified src => Sys2Proof.Machine.execWickProgram blank verified src s
  | .wickErase fetchOn => Sys2Proof.Machine.execWickErase fetchOn s
  | .wickEraseSuspend => Sys2Proof.Machine.execWickEraseSuspend s
  | .wickEraseResume => Sys2Proof.Machine.execWickEraseResume s
  | .otpProgram verified src => Sys2Proof.Machine.execOtpProgram verified src s
  | .rotate => Sys2Proof.Machine.execRotate s
  | .wickDescComplete eraseOk imageValid slotsBlank => Sys2Proof.Machine.execWickDescComplete eraseOk imageValid slotsBlank s
  | .planeAccessSuspend sector req => Sys2Proof.Machine.execPlaneAccessSuspend sector req s
  | .eraseAutoResume => Sys2Proof.Machine.execEraseAutoResume s
  | .wickBrownout low => Sys2Proof.Machine.execWickBrownout low s
  | .anchorPairWrite aged waited failA failB slotsBlank => Sys2Proof.Machine.execAnchorPairWrite aged waited failA failB slotsBlank s
  | .anchorTokenAdd => Sys2Proof.Machine.execAnchorTokenAdd s
  | .scrubAccess h mem lapMs => Sys2Proof.Machine.execScrubAccess h mem lapMs s
  | .eccEntryExamine => Sys2Proof.Machine.execEccEntryExamine s
  | .poisonRebuild mem word => Sys2Proof.Machine.execPoisonRebuild mem word s
  | .memoryFill => Sys2Proof.Machine.execMemoryFill s
  | .vauxPorAssert => Sys2Proof.Machine.execVauxPorAssert s
  | .vauxPorRelease straps => Sys2Proof.Machine.execVauxPorRelease straps s
  | .fuseMapRead bad => Sys2Proof.Machine.execFuseMapRead bad s
  | .pllLock p => Sys2Proof.Machine.execPllLock p s
  | .pllLockTimeout p => Sys2Proof.Machine.execPllLockTimeout p s
  | .pllUnlock p => Sys2Proof.Machine.execPllUnlock p s
  | .holdWindowEnd => Sys2Proof.Machine.execHoldWindowEnd s
  | .bootImageLoad aValid bValid => Sys2Proof.Machine.execBootImageLoad aValid bValid s
  | .firmwareStart => Sys2Proof.Machine.execFirmwareStart s
  | .dlActive => Sys2Proof.Machine.execDlActive s
  | .configWrite bar0 bar2 mse bme ctl mps mrrs msixOn msixMask msix => Sys2Proof.Machine.execConfigWrite bar0 bar2 mse bme ctl mps mrrs msixOn msixMask msix s
  | .vauxReturn => Sys2Proof.Machine.execVauxReturn s

end Sys2Proof.Machine
end

