-- ==== Sys2Proof/WellFormed.lean ====
section
/-! DEFINITION. Which commands are well formed: what an outside party can present at all. A check stands here only where the
command's operand type is wider than what the interface can carry. -/
namespace Sys2Proof

/-- A host read that completed brought exactly the bytes asked for. -/
def HostRead.sized (n : Nat) : HostRead → Bool
  | .ok data => data.length == n
  | .failed => true

/-- A command that an outside party can present: an information field has at most 254 bytes (R324), a report's cause is one of
its unit's (R441), a fetched descriptor has 32 bytes (R304), a unit fetched for WRITE_RANDOM 4,096 (R307), and a page
fetched from the Cellar 4,096 (R224). -/
def Instr.wf : Instr → Bool
  | .chainedIFrame _ info => decide (info.length ≤ 254)
  | .messageReceive _ _ info => decide (info.length ≤ 254)
  | .errorReport u (some (c, _)) => decide (Machine.causeUnit c = u)
  | .descriptorFetch r _ => r.sized 32
  | .dataFetchDone _ r => r.sized 4096
  | .cellarPageFetched _ r => r.sized 4096
  | _ => true

end Sys2Proof
end

