-- ==== Sys2Proof/Safety.lean ====
section
/-! DEFINITION. What a safe run is: no command that waits is ill formed, and the state keeps its invariant: the tables that the
commands write stand in canonical form, and the Lamplighter's mode is a legal one. -/
namespace Sys2Proof.Machine
open Sys2Proof

/-- LAMP's fields are legal: CYC_SRC.MODE and its pending value are never the reserved code 3 (R35), and a pending cycle number lies
above the current one (R49). -/
def LampState.legal (l : LampState) : Bool :=
  l.mode != 3 && l.modeP != some 3 && match l.cycleP with
    | some n => decide (l.cycle < n)
    | none => true

/-- The invariant: the stream table, the channels, the collector's records, the on-chip memories and the rails stand in canonical form,
and LAMP's fields are legal. -/
def State.Inv (s : State) : Prop :=
  twf Stream.none s.intake.streams = true ∧ twf Channel.none s.media.chans = true ∧
  twf UnitFault.none s.fault.units = true ∧ twf MemRec.none s.mem.mems = true ∧ twf railNone s.power.rails = true ∧
  s.lamp.legal = true

/-- Every command that waits is well formed. -/
def State.queueOk (s : State) : Bool := s.pending.all Instr.wf

/-- An access of the register at address a is carried out: LINK takes accesses, and the register's owner has power and is in no
RESTART reset (R25, R355). -/
def State.serves (s : State) (a : Nat) : Bool := s.busOpen && !(ownerOf s a).noPower s && !(ownerOf s a).held s

/-- What LINK holds of a register write that ended with a status: no data, and no act that still follows. -/
def State.wrote (s : State) (st : Status) : State := { s with link := { s.link with status := st, rdata := [], act := .none } }

/-- What LINK holds of a register read that gave a word. -/
def State.gave (s : State) (w : Word) : State := { s with link := { s.link with status := .ok, rdata := [w] } }

/-- What a marker at tick position pos leaves in LAMP where its cycle opens at position o: the next cycle's number (R47, R49, R50),
its opening position (R37, R45), the ended cycle's length, no window open (R57), and every class C value of LAMP but the mode,
the period and the plan in force (R10). -/
structure Opened (s t : State) (pos o : Nat) : Prop where
  number    : t.lamp.cycle = max (s.lamp.cycleP.getD (s.lamp.cycle + 1)) (s.lamp.cycleFloor.getD 0)
  noNumber  : t.lamp.cycleP = none ∧ t.lamp.cycleFloor = none
  openPos   : t.lamp.openPos = o ∧ t.lamp.tickPos = o
  length    : t.lamp.lastTicks = pos - s.lamp.openPos
  noWindow  : t.lamp.openWin = none
  fresh     : t.lamp.strays = 0 ∧ t.lamp.edgeTaken = false
  noMode    : t.lamp.modeP = none ∧ t.lamp.periodP = none
  tickDiv   : t.lamp.tickDiv = s.lamp.tickDivP.getD s.lamp.tickDiv ∧ t.lamp.tickDivP = none
  jitterWin : t.lamp.jitterWin = s.lamp.jitterWinP.getD s.lamp.jitterWin ∧ t.lamp.jitterWinP = none
  markTrim  : t.lamp.markTrim = s.lamp.markTrimP.getD s.lamp.markTrim ∧ t.lamp.markTrimP = none
  permil    : t.lamp.permil = s.lamp.permilP.getD s.lamp.permil ∧ t.lamp.permilP = none

end Sys2Proof.Machine
end

