-- ==== Sys2Proof/Certificates/Slice0/Obligations.lean ====
section
/-! DEFINITION. The statements for the provers. -/
open Sys2Proof Sys2Proof.Machine

/-! ### The queue and the step -/

/-- The command at the front of the queue runs on the state with the queue's rest; on an empty queue a tick passes, which moves
nothing but the tick position (the model's choice, log 2). -/
def Obligations.StepRunsTheFront : Prop :=
  ∀ (s : State) (c : Instr) (rest : List Instr),
    (s.pending = c :: rest → step s = exec c { s with pending := rest }) ∧ (s.pending = [] →
      step s = .next (if s.lampUp then { s with lamp := { s.lamp with tickPos := min maxTick (s.lamp.tickPos + 1) } } else s))

/-- Every command ends in a next state, but an ill-formed one, which no outside party can present and which may fault under its own
name: nothing is refused, and no ordinary data stops a run. -/
def Obligations.EveryWellFormedCommandRuns : Prop :=
  ∀ (c : Instr) (s : State),
    (∃ t, exec c s = .next t) ∨ (c.wf = false ∧ exec c s = .fault .illFormedCommand)

/-! ### Invariants -/

/-- The state after reset meets the invariant. -/
def Obligations.ResetIsLegal : Prop := State.reset.Inv ∧ State.reset.pending = []

/-- Every step keeps the invariant, from every state that meets it. -/
def Obligations.StepKeepsTheInvariant : Prop :=
  ∀ (s t : State), s.Inv → step s = .next t → t.Inv

/-- The cycle number never decreases, but at the release of VAUX POR (R47, R49). -/
def Obligations.CycleNumberNeverDecreases : Prop :=
  ∀ (s t : State), s.Inv → (∀ p, s.pending.head? ≠ some (.vauxPorRelease p)) → step s = .next t → s.lamp.cycle ≤ t.lamp.cycle

/-- The commands that are markers. -/
def markerCommand : Instr → Bool
  | .marker _ _ | .generatedMarker _ | .acquireSynthMarker _ | .flywheelSynthMarker _ | .tickLimitMarker _ => true
  | _ => false

/-- Only a marker gives LAMP another cycle number, and the release of VAUX POR, which brings it to 0 (R47): no register write, no
reset, no power event and no recovery changes it.
The straps are sampled at the release of VAUX POR and held: no other command changes what they selected (R464). -/
def Obligations.OnlyMarkersNumberCycles : Prop :=
  (∀ (c : Instr) (s t : State), markerCommand c = false → (∀ p, c ≠ .vauxPorRelease p) → exec c s = .next t →
    t.lamp.cycle = s.lamp.cycle) ∧
  (∀ (c : Instr) (s t : State), (∀ p, c ≠ .vauxPorRelease p) → exec c s = .next t →
    t.clock.bootSrc = s.clock.bootSrc ∧ t.clock.clkMode = s.clock.clkMode)

/-! ### The Lamplighter -/

/-- Both edges of a PHASE_IN pulse are repeated on PHASE_OUT whenever the VAUX domain is powered (R34, R466). With VAUX POR released and
LAMP running, the Lamplighter takes the edge where it comes 200 µs after the marker and the state accepts it, and counts it as a stray
otherwise (R38, R40, R42). A pulse too short to be told counts here (the model's choice, log 112). -/
def Obligations.EdgeOfPhaseIn : Prop :=
  ∀ (s : State) (sinceNs pos : Nat),
    let out := if s.clock.vauxPin || s.clock.vauxAlt then s.lamp.phaseOut + 2 else s.lamp.phaseOut
    let accepted := 200000 ≤ sinceNs ∧ s.lamp.edgeTaken = false ∧ (s.lamp.lock = .acquire ∨
      ((s.lamp.lock = .locked ∨ s.lamp.lock = .coast) ∧
        s.lamp.period ≤ pos + min s.lamp.jitterWin (s.lamp.period / 8) ∧
        pos ≤ s.lamp.period + min s.lamp.jitterWin (s.lamp.period / 8)))
    (s.clock.vauxPor = true ∨ s.stopped .lamp = true →
      exec (.phaseInEdge sinceNs pos) s = .next { s with lamp := { s.lamp with phaseOut := out } }) ∧
    (s.clock.vauxPor = false → s.stopped .lamp = false → accepted →
      exec (.phaseInEdge sinceNs pos) s = .next { s with lamp := { s.lamp with
        phaseOut := out, edgeTaken := true, tickPos := max s.lamp.tickPos pos } }) ∧
    (s.clock.vauxPor = false → s.stopped .lamp = false → ¬ accepted →
      exec (.phaseInEdge sinceNs pos) s = .next { s with lamp := { s.lamp with
        phaseOut := out, strays := min 63 (s.lamp.strays + 1) } })

/-- A marker opens the next cycle: the real one at position 0 (R37, R44), the generated one of FREE and the synthesised one of ACQUIRE
at position P (R42), and the one at the tick limit (R38). The mode that waits comes into force (R36); with none waiting, the mode in
force stays. While the block runs, the cycle that ends waits for its seal (R66). -/
def Obligations.MarkersOpenCycles : Prop :=
  ∀ (s : State) (pos : Nat) (m : MarkerIn), s.lampUp = true →
    (s.lamp.edgeTaken = true → ∃ t, exec (.marker pos m) s = .next t ∧ Opened s t pos 0 ∧
      t.lamp.mode = s.lamp.modeP.getD s.lamp.mode ∧
      (s.running = true → t.journal.ended = s.journal.ended ++ [s.lamp.cycle])) ∧
    (s.lamp.lock = .free → ∃ t, exec (.generatedMarker m) s = .next t ∧ Opened s t s.lamp.period 0 ∧
      t.lamp.mode = s.lamp.modeP.getD s.lamp.mode ∧
      (s.running = true → t.journal.ended = s.journal.ended ++ [s.lamp.cycle])) ∧
    (s.lamp.lock = .acquire → s.lamp.edgeTaken = false → ∃ t, exec (.acquireSynthMarker m) s = .next t ∧
      Opened s t s.lamp.period 0 ∧ t.lamp.mode = s.lamp.modeP.getD s.lamp.mode ∧
      (s.running = true → t.journal.ended = s.journal.ended ++ [s.lamp.cycle])) ∧
    (s.lamp.lock = .free ∨ s.lamp.lock = .acquire → s.lamp.edgeTaken = false →
      ∃ t, exec (.tickLimitMarker m) s = .next t ∧ Opened s t 67108863 0 ∧ t.lamp.mode = s.lamp.modeP.getD s.lamp.mode ∧
        (s.running = true → t.journal.ended = s.journal.ended ++ [s.lamp.cycle]))

/-- A real marker in LOCKED or COAST: the state is LOCKED, the synthesised-marker count 0, and the period the mean of the counted
intervals, the newest eight (R41, R42). No mode waits.
The flywheel's marker stands at S = min(P + J, 67,108,863), the tick limit where P + J exceeds it. Before the eighth the state is
COAST, the count goes up and the cycle opens at S − P (R42, R45); the eighth opens its cycle at 0 and leaves INTERNAL mode in FREE, with
the period kept (R46). No mode and no period waits. -/
def Obligations.MarkersLock : Prop :=
  (∀ (s : State) (pos : Nat) (m : MarkerIn), s.lampUp = true → s.lamp.edgeTaken = true → s.lamp.modeP = none → s.lamp.mode = 0 ∨ s.lamp.mode = 1 →
    s.lamp.lock = .locked ∨ s.lamp.lock = .coast → ∃ t, exec (.marker pos m) s = .next t ∧
      t.lamp.lock = .locked ∧ t.lamp.synthCount = 0 ∧ t.lamp.openedReal = true ∧
      t.lamp.intervals = s.lamp.withInterval pos m.clocks ∧
      (s.lamp.withInterval pos m.clocks ≠ [] → t.lamp.period = meanRound (s.lamp.withInterval pos m.clocks)) ∧
      (s.lamp.withInterval pos m.clocks = [] → t.lamp.period = s.lamp.period)) ∧
  (∀ (s : State) (m : MarkerIn), s.lampUp = true → s.lamp.edgeTaken = false → s.lamp.lock = .locked ∨ s.lamp.lock = .coast →
    s.lamp.modeP = none → s.lamp.periodP = none →
    let j := min s.lamp.jitterWin (s.lamp.period / 8)
    let at_ := min (s.lamp.period + j) 67108863
    ∀ c, c = .flywheelSynthMarker m ∨ (c = .tickLimitMarker m ∧ 67108863 < s.lamp.period + j) →
      (s.lamp.synthCount + 1 < 8 → ∃ t, exec c s = .next t ∧ Opened s t at_ (at_ - s.lamp.period) ∧ t.lamp.lock = .coast ∧
        t.lamp.synthCount = s.lamp.synthCount + 1 ∧ t.lamp.period = s.lamp.period ∧ t.lamp.mode = s.lamp.mode) ∧
      (s.lamp.synthCount + 1 = 8 → ∃ t, exec c s = .next t ∧ Opened s t at_ 0 ∧ t.lamp.lock = .free ∧ t.lamp.mode = 2 ∧
        t.lamp.period = s.lamp.period))

/-- TICK_LOST credits the silent 2 ms, 200,000 periods of the tick clock, at the mean interval of the last completed cycle, rounded
down, and counts substitute ticks from then on (R39).
A window opens at a position that it covers, and ends at START + LENGTH; a SEAL window whose seal has not completed goes over into
its extension (R57, R58). -/
def Obligations.TicksAndWindows : Prop :=
  (∀ (s : State) (pos edges span c : Nat), s.lampUp = true → s.lamp.tickSrc = .phaseTick → s.lamp.cycleSince = true →
    s.lamp.lastClocks = some c → 0 < c → 0 < s.lamp.lastTicks →
    exec (.tickLost pos edges span) s = .next (({ s with lamp := { s.lamp with
      tickSrc := .substitute, subInterval := some (c, s.lamp.lastTicks),
      tickPos := pos + 200000 * s.lamp.lastTicks / c } }).raise .tickLost)) ∧
  (∀ (s : State) (pos w : Nat), s.lampUp = true →
    (s.lamp.sealExt = none → s.lamp.openWin = none → s.lamp.covering pos = some w →
      exec (.windowOpen pos) s = .next { s with lamp := { s.lamp with openWin := some w, tickPos := max s.lamp.tickPos pos } }) ∧
    (s.lamp.openWin = some w → (s.lamp.win w).start + (s.lamp.win w).len ≤ pos →
      exec (.windowEnd pos) s = .next { s with lamp := { s.lamp with
        openWin := none, tickPos := max s.lamp.tickPos pos,
        sealExt := if (s.lamp.win w).kind = 1 then s.served.map fun c => (c, 0) else none } }))

/-- Tail grace ends G = P × PERMIL / 1000 ticks after the marker, rounded down (R62). With MAIN up, the command then completes in every
state: every OPEN or DRAINING stream whose open cycle lies before the current one takes the current one as its open cycle; one with
bytes credited to the cycle it closes gets ST_FAULT.LATE and is recorded late for that cycle, one without gets neither (R63). A stream
that a fault has closed for every cycle stays (R65). Nothing but streams, the tick position and the health log changes. Before that
position nothing happens.
SEAL_START completes whenever the oldest ended cycle n lies before the current one, no seal is in progress, no flush is triggered, the
block and BACK run, and every stream that has bytes credited to its open cycle has that cycle beyond n (R66): the seal of n is in
progress, n has left the ended cycles, and with every stream the close frontier of n is frozen (R125 step 1). SEAL_COMPLETE ends the
seal x once the pieces of the cycle are on flash, acceptance has reached the frozen frontiers and the records find room and tokens (R120, R125, R186): with no checkpoint due, or with
the pages that the checkpoint names programmed (R128), the cycle is sealed, ST_DURABLE of every stream that is not deleted reaches its
frontier, and no seal is in progress; with such pages still to program they are submitted, and the seal waits for them. -/
def Obligations.SealsRunInOrder : Prop :=
  (∀ (s : State) (pos : Nat), s.Inv → s.clock.mainOn = true →
    (pos < s.lamp.openPos + s.lamp.period * s.lamp.permil / 1000 → exec (.tailGraceExpire pos) s = .next s) ∧
    (s.lamp.openPos + s.lamp.period * s.lamp.permil / 1000 ≤ pos → ∃ t, exec (.tailGraceExpire pos) s = .next t ∧
      t = { s with intake := t.intake, health := t.health, lamp := { s.lamp with tickPos := max s.lamp.tickPos pos } } ∧
      ∀ i, let e := s.stream i
        ((e.st = .open ∨ e.st = .draining) → e.closedAll = false → e.openCycle < s.lamp.cycle →
          (t.stream i).openCycle = s.lamp.cycle ∧ (t.stream i).st = e.st ∧ (t.stream i).front = e.front ∧
          (tget 0 e.credited e.openCycle ≠ 0 →
            (t.stream i).fault = e.fault ||| 0x10 ∧ (t.stream i).late = e.openCycle :: e.late) ∧
          (tget 0 e.credited e.openCycle = 0 → (t.stream i).fault = e.fault ∧ (t.stream i).late = e.late)) ∧
        ((e.st ≠ .open ∧ e.st ≠ .draining) ∨ e.closedAll = true ∨ s.lamp.cycle ≤ e.openCycle → t.stream i = e))) ∧
  (∀ (s : State) (n : Nat) (x : Seal),
    (s.nextSeal = some n → n < s.lamp.cycle → s.journal.sealing = none → s.snuff.trigger = none → s.running = true →
      s.stopped .back = false →
      (∀ e ∈ s.intake.streams, (e.2.st = .open ∨ e.2.st = .draining) → e.2.closedAll = false →
        tget 0 e.2.credited e.2.openCycle ≠ 0 → n < e.2.openCycle) →
      ∃ t, exec .sealStart s = .next t ∧
        (∃ y, t.journal.sealing = some y ∧ y.cycle = n ∧ y.setSealed = s.setSealed ∧
          y.fronts = s.intake.streams.filterMap fun e =>
            if (upTo n e.2.credited) ≠ [] then some (e.1, e.2.closeFront n) else none) ∧
        t.journal.ended = s.journal.ended.filter (fun c => n < c) ∧
        t = { s with media := t.media, place := t.place, journal := t.journal }) ∧
    (s.journal.sealing = some x → s.running = true → s.snuff.trigger = none → s.stopped .back = false →
      s.stopped .media = false → s.stopped .intake = false → (∀ p ∈ s.place.pieces, p.cycle ≤ x.cycle → p.onFlash = true) →
      (∀ f ∈ x.fronts, f.2 ≤ (s.stream f.1).accept) →
      (s.checkpointDue (s.composeCask x) = false ∨ s.pagesDone x = true → s.canRecord (s.sealPages x) = true →
        ∃ t, exec .sealComplete s = .next t ∧
        t.journal.sealing = none ∧ t.journal.lastSeal = some x.cycle ∧ t.lamp.cycle = s.lamp.cycle ∧
        (s.Inv → ∀ i, s.stream i ≠ Stream.none → ((s.stream i).sealed x.cycle (tget 0 x.fronts i)).deleteDue x.cycle = false →
          (t.stream i).durable = max (s.stream i).durable (tget 0 x.fronts i) ∧
          (t.stream i).front = (s.stream i).front ∧ (t.stream i).accept = (s.stream i).accept)) ∧
      (s.checkpointDue (s.composeCask x) = true → s.pagesDone x = false → ∃ t, exec .sealComplete s = .next t ∧
        t.journal = { s.journal with sealing := some { x with pages := true } } ∧
        t = { s with media := t.media, place := t.place, journal := t.journal })))

/-! ### Register accesses -/

/-- The two refusals of R25 and R355, and the carrying out of every other write: while the main domain is off or flushing, a write of a
register of a main-domain unit changes nothing and answers NOPWR; while the owner is in a RESTART reset it changes nothing and answers
WERR; a write that is carried out completes with what the register's own rule leaves, or, where that rule refuses it, with nothing but the
status changed. Of the registers with no row of their own: the read-only ID_MAGIC and ID_REV and the addresses that hold no register
ignore what is written (R7, R353); CHAN_SEL and WICK_DESC0 take it under the mask; a written 1 clears a bit of RESET_CAUSE and of
IRQ_STATUS.
LINK_ECHO (R352) takes what is written and changes nothing else, gives the value last written, and is cleared at VAUX POR. -/
def Obligations.RegisterWriteOutcomes : Prop :=
  (∀ (s : State) (addr : BitVec 7) (v mask : Word), s.busOpen = true → addr ≠ 0x61 →
    ((ownerOf s addr.toNat).noPower s = true → exec (.registerWrite addr v mask) s = .next (s.wrote .nopwr)) ∧
    ((ownerOf s addr.toNat).noPower s = false → (ownerOf s addr.toNat).held s = true →
      exec (.registerWrite addr v mask) s = .next (s.wrote .werr)) ∧
    (s.serves addr.toNat = true →
      (∀ e, (s.onLink fun l => { l with act := .none }).regPut addr.toNat v mask = .error e →
        exec (.registerWrite addr v mask) s = .next (s.wrote e)) ∧
      (∀ t, (s.onLink fun l => { l with act := .none }).regPut addr.toNat v mask = .ok t → t.link.act = .none → t.link.paused = none →
        exec (.registerWrite addr v mask) s = .next (t.wrote .ok)) ∧
      (addr = 0x00 ∨ addr = 0x01 ∨ addr = 0x25 ∨ addr = 0x3D →
        exec (.registerWrite addr v mask) s = .next (s.wrote .ok)) ∧
      (addr = 0x20 →
        let n : BitVec 5 := ((s.link.chanSel.setWidth 32 &&& ~~~mask) ||| (v &&& mask)).setWidth 5
        exec (.registerWrite addr v mask) s = .next (State.wrote { s with link := { s.link with chanSel := n } } .ok)) ∧
      (addr = 0x51 → exec (.registerWrite addr v mask) s = .next (State.wrote
        { s with wick := { s.wick with desc0 := (s.wick.desc0 &&& ~~~mask) ||| (v &&& mask) } } .ok)) ∧
      (addr = 0x70 → exec (.registerWrite addr v mask) s = .next (State.wrote
        { s with clock := { s.clock with cause := s.clock.cause &&& ~~~((v &&& mask).setWidth 14) } } .ok)) ∧
      (addr = 0x7F → exec (.registerWrite addr v mask) s = .next
        { s with link := { s.link with status := .ok, rdata := [], act := .none,
                                       echoReg := (s.link.echoReg &&& ~~~mask) ||| (v &&& mask) } }) ∧
      (addr = 0x05 → exec (.registerWrite addr v mask) s = .next
        { s with link := { s.link with status := .ok, rdata := [], act := .none,
                                       irqStatus := s.link.irqStatus &&& ~~~((v &&& mask).setWidth 20) } }))) ∧
  (∀ (s : State) (p : BitVec 4), (s.link.novven = false → s.serves 0x7F = true → ∃ t, exec (.readReg 0x7F 1) s = .next t ∧ t.link.status = .ok ∧
      t.link.rdata = [s.link.echoReg] ∧ t = { s with link := t.link }) ∧
    (s.clock.vauxPor = true → ∃ t, exec (.vauxPorRelease p) s = .next t ∧ t.link.echoReg = 0))

/-- CYC_SRC: a whole write makes MODE pending whatever it was, and TICK_DIV unless it equals what the field shows; a masked write that
selects no bit of MODE leaves the mode alone (R10, R35, R36). MODE 3 and TICK_DIV 0 are refused.
CYC_PERIOD: in INTERNAL mode a period of at least 256 ticks and 200 µs to 4 s waits for the marker; where the mode of the next marker
is external, only the value shown is accepted, and changes nothing (R41, R364).
PLAN_WIN: the field that PLAN_SEL names, of the window it names, changes in the pending plan, which starts as the plan in force; the
other fields and windows of the pending plan stay (R51, R364). -/
def Obligations.ClassCWrites : Prop :=
  (∀ (s : State) (v : Word), s.serves 0x09 = true →
    let l := s.lamp
    let m : BitVec 2 := v.setWidth 2
    let d := v.toNat / 65536
    let shown := l.tickDivP.getD l.tickDiv
    (m ≠ 3 → d ≠ 0 → (m = 2 → d ≠ shown →
        20000 ≤ l.periodP.getD l.period * d ∧ l.periodP.getD l.period * d ≤ 400000000) →
      exec (.cycSrcWrite v 0xFFFFFFFF) s = .next (State.wrote { s with lamp := { l with
        modeP := some m, tickDivP := if d = shown then l.tickDivP else some d } } .ok)) ∧
    (m = 3 → exec (.cycSrcWrite v 0xFFFFFFFF) s = .next (s.wrote .werr)) ∧
    (d = 0 → shown ≠ 0 → exec (.cycSrcWrite v 0xFFFFFFFF) s = .next (s.wrote .werr)) ∧
    (d ≠ 0 → (l.modeP.getD l.mode = 2 → d ≠ shown →
        20000 ≤ l.periodP.getD l.period * d ∧ l.periodP.getD l.period * d ≤ 400000000) →
      exec (.cycSrcWrite v 0xFFFF0000) s = .next (State.wrote { s with lamp := { l with
        tickDivP := if d = shown then l.tickDivP else some d } } .ok))) ∧
  (∀ (s : State) (v : Word), s.serves 0x0A = true →
    let l := s.lamp
    let p := v.toNat % 67108864
    let shown := l.periodP.getD l.period
    let div := l.tickDivP.getD l.tickDiv
    (p ≠ shown → l.modeP.getD l.mode = 2 → 256 ≤ p → 20000 ≤ p * div → p * div ≤ 400000000 →
      exec (.cycPeriodWrite v) s = .next (State.wrote { s with lamp := { l with periodP := some p } } .ok)) ∧
    (p ≠ shown → l.modeP.getD l.mode = 0 ∨ l.modeP.getD l.mode = 1 →
      exec (.cycPeriodWrite v) s = .next (s.wrote .werr)) ∧
    (shown < 67108864 → p = shown → exec (.cycPeriodWrite v) s = .next (s.wrote .ok))) ∧
  (∀ (s : State) (v : Word), s.serves 0x0F = true →
    let base := s.lamp.planP.getD s.lamp.plan
    let w := s.link.planWin.toNat
    let x := tget winNone base w
    let n := v.toNat % 67108864
    (s.link.planField = 0 → n ≠ x.start →
      exec (.planWinWrite v) s = .next (State.wrote { s with lamp := { s.lamp with
        planP := some (tset winNone base w { x with start := n }) } } .ok)) ∧
    (s.link.planField = 1 → n ≠ x.len → 0 < n →
      exec (.planWinWrite v) s = .next (State.wrote { s with lamp := { s.lamp with
        planP := some (tset winNone base w { x with len := n }) } } .ok)) ∧
    (s.link.planField = 2 → n ≠ x.kind → n ≤ 15 →
      exec (.planWinWrite v) s = .next (State.wrote { s with lamp := { s.lamp with
        planP := some (tset winNone base w { x with kind := n }) } } .ok)) ∧
    (s.link.planField = 1 → x.len ≠ 0 → n = 0 → exec (.planWinWrite v) s = .next (s.wrote .werr)))

/-- CYC_COUNT_HI only stages; CYC_COUNT makes the staged, or else the current, high word and its own word the pending number where that
exceeds the current one; a lower number is refused with WERR, and the current one is the value in force, which changes nothing and is no
cause of a refusal (R353). The marker that takes it into effect gives the cycle that it opens that
number, where recovery has left no higher one to exceed (R49, R50).
The reads that latch: CYC_COUNT gives bits [31:0] of the cycle number and latches bits [63:32] (R48); ST_ACCEPT_LO, ST_DURABLE_LO and
ST_TRIM_LO do the same for their frontier of the selected stream (R89), which reads as 0 before recovery has restored it (R354).
The next read of the register of the high word gives what was latched, and one with nothing latched the current bits [63:32]. -/
def Obligations.CycleNumberWrites : Prop :=
  (∀ (s : State) (v : Word),
    (s.serves 0x0C = true →
      exec (.cycCountHiWrite v) s = .next (State.wrote { s with lamp := { s.lamp with stagedHi := some v } } .ok)) ∧
    (s.serves 0x0B = true →
      let hi := match s.lamp.stagedHi with
        | some h => h.toNat
        | none => s.lamp.cycle / 4294967296 % 4294967296
      let n := v.toNat + 4294967296 * hi
      (s.lamp.cycle < n →
        exec (.cycCountWrite v) s = .next (State.wrote { s with lamp := { s.lamp with cycleP := some n } } .ok)) ∧
      (n = s.lamp.cycle → exec (.cycCountWrite v) s = .next (s.wrote .ok)) ∧
      (n < s.lamp.cycle → exec (.cycCountWrite v) s = .next (s.wrote .werr))) ∧
    (∀ n pos m, s.lampUp = true → s.lamp.cycleP = some n → s.lamp.cycleFloor.getD 0 ≤ n → ∀ c,
      ((c = .marker pos m ∧ s.lamp.edgeTaken = true) ∨ (c = .generatedMarker m ∧ s.lamp.lock = .free) ∨
        (c = .acquireSynthMarker m ∧ s.lamp.lock = .acquire ∧ s.lamp.edgeTaken = false) ∨
        (c = .flywheelSynthMarker m ∧ (s.lamp.lock = .locked ∨ s.lamp.lock = .coast) ∧ s.lamp.edgeTaken = false)) →
      ∃ t, exec c s = .next t ∧ t.lamp.cycle = n ∧ t.lamp.cycleP = none)) ∧
  (∀ (s : State),
    let e := s.stream s.link.streamSel.toNat
    let lo := fun (n : Nat) => (BitVec.ofNat 32 n : Word)
    let hi := fun (n : Nat) => (BitVec.ofNat 32 (n / 4294967296) : Word)
    let seen := fun (n : Nat) => if s.restored then lo n else 0
    (s.serves 0x0B = true → exec .cycCountRead s = .next
      (State.gave { s with lamp := { s.lamp with latchHi := some (hi s.lamp.cycle) } } (lo s.lamp.cycle))) ∧
    (s.serves 0x14 = true → exec (.frontierLoRead .accept) s = .next
      (State.gave { s with intake := { s.intake with latchAccept := some (hi e.accept) } } (seen e.accept))) ∧
    (s.serves 0x16 = true → exec (.frontierLoRead .durable) s = .next
      (State.gave { s with intake := { s.intake with latchDurable := some (hi e.durable) } } (seen e.durable))) ∧
    (s.serves 0x18 = true → exec (.frontierLoRead .trim) s = .next
      (State.gave { s with intake := { s.intake with latchTrim := some (hi e.trim) } } (seen e.trim))) ∧
    (s.link.novven = false → s.serves 0x0C = true → ∃ t, exec (.readReg 0x0C 1) s = .next t ∧ t.link.status = .ok ∧
      t.link.rdata = [s.lamp.latchHi.getD (hi s.lamp.cycle)] ∧
      t = { s with link := t.link, lamp := { s.lamp with latchHi := none } }) ∧
    (s.link.novven = false → s.serves 0x15 = true → s.restored = true → ∃ t, exec (.readReg 0x15 1) s = .next t ∧ t.link.status = .ok ∧
      t.link.rdata = [s.intake.latchAccept.getD (hi e.accept)] ∧
      t = { s with link := t.link, intake := { s.intake with latchAccept := none } }) ∧
    (s.link.novven = false → s.serves 0x17 = true → s.restored = true → ∃ t, exec (.readReg 0x17 1) s = .next t ∧ t.link.status = .ok ∧
      t.link.rdata = [s.intake.latchDurable.getD (hi e.durable)] ∧
      t = { s with link := t.link, intake := { s.intake with latchDurable := none } }) ∧
    (s.link.novven = false → s.serves 0x19 = true → s.restored = true → ∃ t, exec (.readReg 0x19 1) s = .next t ∧ t.link.status = .ok ∧
      t.link.rdata = [s.intake.latchTrim.getD (hi e.trim)] ∧
      t = { s with link := t.link, intake := { s.intake with latchTrim := none } }))

/-! ### Streams -/

/-- ST_CMD on the stream that STREAM_SEL selects (R73, R81): OPEN takes a FREE entry to OPEN with the next epoch, frontiers at 0, the
current cycle open and ST_FAULT clear, the epoch read again from the journal's records where CONTAIN struck the entry (R80); END takes an OPEN stream to DRAINING with every cycle up to the current one closed, and a
FAULTED one to DRAINING; DELETE sets DELETE_PEND on a CLOSED one. No other stream changes.
RESUME from DRAINING, FAULTED, or CLOSED without DELETE_PEND (R73, R81). Where ST_ACCEPT has reached the intake frontier, and the port may
issue the mirror write of a mirrored stream, the stream is OPEN with REPLAY set at once: the frontiers and ST_FAULT stay, and the open cycle
is the stream's own where it has one, in DRAINING with no fault before it, and the current one otherwise (R59, R65). Elsewhere the command is
held and the stream stays as it is until then: write-back answers OK at once; in write-through the execution waits with it, and ends with OK
once the stream is OPEN.
A stream command is refused with WERR, and changes nothing, where the stream's state does not allow it or DEV_STATE is not READY or
DEGRADED (R73). -/
def Obligations.StreamCommands : Prop :=
  (∀ (s : State), s.serves 0x12 = true → s.running = true →
    let i := s.link.streamSel.toNat
    let e := s.stream i
    (e.st = .free → e.delPend = false → ∃ t, exec .stCmdOpen s = .next t ∧ t.link = (s.wrote .ok).link ∧
      t = { s with link := t.link, intake := t.intake } ∧ (∀ j, j ≠ i → t.stream j = s.stream j) ∧
      (t.stream i).st = .open ∧ (t.stream i).replay = false ∧ (t.stream i).epoch = (if e.epochLost then s.rebuiltEpoch i else e.epoch) + 1 ∧ (t.stream i).accept = 0 ∧
      (t.stream i).durable = 0 ∧ (t.stream i).trim = 0 ∧ (t.stream i).front = 0 ∧ (t.stream i).fault = 0 ∧
      (t.stream i).openCycle = s.lamp.cycle ∧ (t.stream i).cls = e.cls ∧ (t.stream i).quota = e.quota) ∧
    (e.st = .open ∨ e.st = .faulted → ∃ t, exec .stCmdEnd s = .next t ∧ t.link = (s.wrote .ok).link ∧
      t = { s with link := t.link, intake := t.intake } ∧ (∀ j, j ≠ i → t.stream j = s.stream j) ∧
      (t.stream i).st = .draining ∧ (t.stream i).accept = e.accept ∧ (t.stream i).durable = e.durable ∧
      (t.stream i).front = e.front ∧
      (t.stream i).openCycle = if e.st = .open ∧ e.openCycle ≤ s.lamp.cycle then s.lamp.cycle + 1 else e.openCycle) ∧
    (e.st = .closed → e.delPend = false → ∃ t, exec .stCmdDelete s = .next t ∧ t.link = (s.wrote .ok).link ∧
      t = { s with link := t.link, intake := t.intake } ∧ (∀ j, j ≠ i → t.stream j = s.stream j) ∧
      (t.stream i).st = .closed ∧ (t.stream i).delPend = true ∧ (t.stream i).delCycle = some s.lamp.cycle)) ∧
  (∀ (s : State), s.serves 0x12 = true → s.running = true →
    let i := s.link.streamSel.toNat
    let e := s.stream i
    let now := e.accept = e.front ∧ s.stopped .intake = false ∧ (s.mirrored i = false ∨ s.upstreamOpen = true)
    (e.st = .draining ∨ e.st = .faulted ∨ (e.st = .closed ∧ e.delPend = false)) →
      (now → ∃ t, exec .stCmdResume s = .next t ∧ t.link.status = .ok ∧ t.link.run = none ∧
        (t.stream i).st = .open ∧ (t.stream i).replay = true ∧
        (t.stream i).accept = e.accept ∧ (t.stream i).durable = e.durable ∧
        (t.stream i).front = e.front ∧ (t.stream i).fault = e.fault ∧ (t.stream i).epoch = e.epoch ∧
        (t.stream i).openCycle = if e.st = .draining ∧ e.closedAll = false then e.openCycle else s.lamp.cycle) ∧
      (¬ now → ∃ t, exec .stCmdResume s = .next t ∧ t.stream i = { e with resumeDue := true } ∧
        (s.writeThrough = false → t.link.status = .ok ∧ t.link.run = none ∧ t.link.paused = none) ∧
        (s.writeThrough = true → (∃ r, t.link.run = some r ∧ r.kind = .single) ∧
          ∃ w, t.link.paused = some w ∧ w.stream = i ∧ w.words = [])) ∧
      (∀ u : State, u.running = true → u.stopped .intake = false → (u.stream i).resumeDue = true → (u.stream i).accept = (u.stream i).front →
        (u.mirrored i = false ∨ u.upstreamOpen = true) →
        ((u.carryResume i).stream i).st = .open ∧ ((u.carryResume i).stream i).replay = true ∧
        ((u.carryResume i).stream i).resumeDue = false) ∧
      (∀ (u : State) r w, u.link.run = some r → r.kind = .single → u.link.paused = some w → w.words = [] → u.link.act = .none →
        (u.waits w = true → u.finishRun = u) ∧
        (u.waits w = false → u.finishRun =
          { u with link := { u.link with paused := none, run := none, status := .ok, rdata := [], act := .none } }))) ∧
  (∀ (s : State), s.serves 0x12 = true →
    let e := s.stream s.link.streamSel.toNat
    (s.running = false ∨ e.st ≠ .free ∨ e.delPend = true → exec .stCmdOpen s = .next (s.wrote .werr)) ∧
    (s.running = false ∨ (e.st ≠ .open ∧ e.st ≠ .faulted) → exec .stCmdEnd s = .next (s.wrote .werr)) ∧
    (s.running = false ∨ e.st = .free ∨ e.st = .open ∨ (e.st = .closed ∧ e.delPend = true) →
      exec .stCmdResume s = .next (s.wrote .werr)) ∧
    (s.running = false ∨ e.st ≠ .closed ∨ e.delPend = true → exec .stCmdDelete s = .next (s.wrote .werr)))

/-- STREAM_SEL takes its ten bits and discards the high-word latches and the staged trim (R357); ST_TRIM_HI only stages; ST_TRIM_LO moves
ST_TRIM at once to the staged, or current, high word and its own, and refuses a value below ST_TRIM, above ST_DURABLE, or for a FREE
stream (R90). -/
def Obligations.SelectAndTrim : Prop :=
  ∀ (s : State) (v : Word),
    (s.serves 0x10 = true → exec (.streamSelWrite v) s = .next (State.wrote { s with
      link := { s.link with streamSel := v.setWidth 10 },
      intake := { s.intake with latchAccept := none, latchDurable := none, latchTrim := none, trimHi := none } } .ok)) ∧
    (s.serves 0x19 = true → exec (.stTrimHiWrite v) s = .next (State.wrote { s with
      intake := { s.intake with trimHi := some v } } .ok)) ∧
    (s.serves 0x18 = true →
      let i := s.link.streamSel.toNat
      let e := s.stream i
      let n := v.toNat + 4294967296 * (match s.intake.trimHi with
        | some h => h.toNat
        | none => e.trim / 4294967296 % 4294967296)
      (e.st ≠ .free → e.trim < n → n ≤ e.durable → ∃ t, exec (.stTrimLoWrite v) s = .next t ∧
        t.link = (s.wrote .ok).link ∧ t = { s with link := t.link, intake := t.intake } ∧ t.intake.trimHi = none ∧
        (t.stream i).trim = n ∧ (t.stream i).durable = e.durable ∧ (t.stream i).st = e.st ∧
        ∀ j, j ≠ i → t.stream j = s.stream j) ∧
      (n ≠ e.trim → e.st = .free ∨ n < e.trim ∨ e.durable < n → exec (.stTrimLoWrite v) s = .next (s.wrote .werr)))

/-- Crypto-erase in READY with no stream OPEN, DRAINING or FAULTED: a new key, both stored copies of it, every stream FREE with epoch 0,
nothing mapped, so that no chunk is readable, and every unit of the random region reads as zeros; otherwise it is refused with WERR
(R102). The new key is a fresh draw; INTAKE uses it, and both KEY records hold it wrapped (R101), in the next free slots of logical sectors
0 to 3 and 4 to 7; a copy that finds none waits for a ROTATE (R419). No older KEY record stays intact (R426). -/
def Obligations.CryptoErases : Prop :=
  ∀ (s : State), s.Inv → s.serves 0x03 = true →
    (s.clock.dev = .ready → (∀ i, (s.stream i).st = .free ∨ (s.stream i).st = .closed) →
      ∃ t, exec .cryptoErase s = .next t ∧ t.link = (s.wrote .ok).link ∧
        t.intake.keyGen = s.intake.keyGen + 1 ∧ t.intake.key = keyBytes s.draws ∧
        (max s.wick.keyA s.wick.keyB ≤ s.intake.keyGen → t.intake.keyGen < 4294967296 →
          (s.wick.freePlace recKey false ≠ none → s.wick.freePlace recKey true ≠ none →
            t.wick.keyA = t.intake.keyGen ∧ t.wick.keyB = t.intake.keyGen ∧
            t.wick.wrapA = keyWrap s.wick.wrapKey t.intake.key ∧ t.wick.wrapB = t.wick.wrapA ∧
            ∀ r ∈ t.wick.recs, r.kind = recKey → r.gen < t.intake.keyGen → r.intact = false) ∧
          (s.wick.freePlace recKey false = none → t.wick.recsDue ≠ [])) ∧
        t.draws = s.draws + 1 ∧ t.place.pieces = [] ∧ t.place.runs = [] ∧ t.place.frames = [] ∧
        (∀ back k, t.unitData back k = some (List.replicate 4096 0)) ∧ ∀ i, (t.stream i).st = .free ∧ (t.stream i).epoch = 0) ∧
    ((s.clock.dev ≠ .ready ∨ ∃ i, (s.stream i).st = .open ∨ (s.stream i).st = .draining ∨ (s.stream i).st = .faulted) →
      exec .cryptoErase s = .next (s.wrote .werr))

/-! ### Registers of LINK and of the reset -/

/-- BOOT_HOLD is written in BOOT, and refused elsewhere where it would change (R358, R359).
IRQ_ENABLE takes its twenty bits. Where no bit that is set in IRQ_STATUS is enabled anew, nothing else happens; where one is and the
port can signal, vector 32 is (R360, R361).
SET_CTRL takes its four fields, and every peer's last cycle number becomes the current one; a COUNT outside 1 to 6, a MEMBER not
below COUNT, or a WAIT of 0 is refused (R148, R371). -/
def Obligations.ControlRegisters : Prop :=
  (∀ (s : State) (h : Bool), s.serves 0x03 = true →
    (s.clock.dev = .boot → exec (.bootHoldWrite h) s = .next (State.wrote { s with clock := { s.clock with bootHold := h } } .ok)) ∧
    (s.clock.dev ≠ .boot → h ≠ s.clock.bootHold → exec (.bootHoldWrite h) s = .next (s.wrote .werr))) ∧
  (∀ (s : State) (v : Word), s.serves 0x06 = true →
    let n : BitVec 20 := v.setWidth 20
    let t := State.wrote { s with link := { s.link with irqEnable := n } } .ok
    (s.link.irqStatus &&& n &&& ~~~s.link.irqEnable = 0 → exec (.irqEnableWrite v) s = .next t) ∧
    (s.link.irqStatus &&& n &&& ~~~s.link.irqEnable ≠ 0 → s.upstreamOpen = true → s.host.msixOn = true →
      s.host.vectorMasked 32 = false →
      exec (.irqEnableWrite v) s = .next { t with host := { s.host with out := s.host.out ++ [.vector 32] } })) ∧
  (∀ (s : State) (v : Word), s.serves 0x38 = true →
    let member := v.toNat / 65536 % 8
    let count := v.toNat / 1048576 % 8
    let wait := v.toNat / 16777216
    (1 ≤ count → count ≤ 6 → member < count → 1 ≤ wait → ∃ t, exec (.setCtrlWrite v) s = .next t ∧
      t.link = { (s.wrote .ok).link with
        setId := v.setWidth 16, member := member, count := count, wait := wait, setWritten := true } ∧
      t = { s with link := t.link, host := { s.host with mp := t.host.mp } } ∧
      ∀ p, p < 6 → tget 0 t.host.mp p = s.lamp.cycle) ∧
    (count = 0 ∨ 6 < count ∨ count ≤ member ∨ wait = 0 → exec (.setCtrlWrite v) s = .next (s.wrote .werr)))

/-- IND_ADDR is written: it takes the word, and where it comes to lie in the health log of a part that serves it, a snapshot of the whole
log is taken at that instant (R240). IND_DATA then reads the addressed word of its area, and IND_ADDR goes on by 1 (R375). -/
def Obligations.IndirectAccess : Prop :=
  ∀ (s : State) (v : Word),
    (s.serves 0x60 = true → ∃ t, exec (.indAddrWrite v) s = .next t ∧ t = { s with link := t.link } ∧
      t.link.indAddr = v ∧ t.link.status = .ok ∧
      (0x10000 ≤ v.toNat → v.toNat ≤ 0x100FF → s.dark = false →
        t.link.snap = some (.health, (List.range 256).map s.healthWord))) ∧
    (s.serves 0x61 = true →
      let ar := areaOf s.link.indAddr
      let k := s.link.indAddr.toNat - ar.base
      (∃ t, exec (.indDataAccess none) s = .next t ∧ t.link.status = .ok ∧
        t.link.rdata = [(s.snapFor ar).areaWord ar k] ∧ t.link.indAddr = s.link.indAddr + 1 ∧
        t = { s with link := t.link, draws := t.draws }) ∧
      (s.link.indAddr = 0x70000 → ∃ t, exec (.indDataAccess (some v)) s = .next t ∧ t.link.status = .ok ∧
        t.link.indAddr = 0x70001 ∧ t.place.cellBaseLo = v ∧
        t = { s with link := t.link, place := { s.place with cellBaseLo := v } }))

/-- The resets that the link commands (R338, R359, R461 to R463): LINK resets the protocol and sends the Lantern string of its state. In READY
and DEGRADED, WARM, SOFT_RESET and COLD begin a reset flush that keeps VIN, and follow it; elsewhere they act at once.
WARM and SOFT_RESET put every main-domain unit but POWER back and start BOOT at the memory fill; COLD powers the main domain up again,
but with VAUX absent at a powered main domain VAUX POR follows (R24, R459).
Each leaves its bit of RESET_CAUSE, and none of them touches LAMP (R47). A refused one answers WERR and changes nothing. -/
def Obligations.LinkResets : Prop :=
  ∀ (s : State), s.opsOpen = true →
    let warm := fun (t : State) (b : BitVec 14) => t.clock.cause = s.clock.cause ||| b ∧ t.clock.dev = .boot ∧ t.clock.mainOn = false ∧
      t.clock.phase = .fill ∧ t.intake.streams = [] ∧ t.lamp = s.lamp
    let cold := fun (t : State) => t.clock.cause.getLsbD 8 = true ∧ t.clock.dev = .boot ∧ t.clock.mainOn = false ∧ t.clock.mainPwr = true ∧
      t.clock.phase = .plls ∧ t.intake.streams = [] ∧ t.journal.powerUps = s.journal.powerUps + 1 ∧ t.lamp = s.lamp
    let flushing := fun (t : State) (k : ResetKind) => t.snuff.trigger = some 4 ∧ t.snuff.after = some k ∧ t.snuff.keepVin = true ∧
      t.clock = s.clock ∧ t.lamp = s.lamp ∧ t.intake = s.intake
    (∃ t, exec .resetCmdLink s = .next t ∧ t.clock.cause = s.clock.cause ||| 0x0040 ∧ t.link.vr = 0 ∧ t.link.vs = 0 ∧
      t.link.width = 0 ∧ t.link.matchOpen = true ∧ t.link.awaiting = true ∧
      t = { s with link := t.link, clock := { s.clock with cause := t.clock.cause } }) ∧
    (s.warmRefused = false → s.running = false → s.clock.mainPwr = true → ∃ t, exec .resetCmdWarm s = .next t ∧ warm t 0x0080) ∧
    (s.warmRefused = false → s.running = true → ∃ t, exec .resetCmdWarm s = .next t ∧ flushing t .warm) ∧
    (s.warmRefused = true → ∃ t, exec .resetCmdWarm s = .next t ∧ t.link.status = .werr ∧ t = { s with link := t.link }) ∧
    (s.serves 0x03 = true → s.warmRefused = false → s.running = false → s.clock.mainPwr = true →
      ∃ t, exec .softReset s = .next t ∧ warm t 0x2000) ∧
    (s.serves 0x03 = true → s.warmRefused = false → s.running = true → ∃ t, exec .softReset s = .next t ∧ flushing t .soft) ∧
    (s.coldRefused = false → s.running = false → s.clock.vauxPin = true ∨ s.clock.mainPwr = false →
      ∃ t, exec .resetCmdCold s = .next t ∧ cold t) ∧
    (s.coldRefused = false → s.running = false → s.clock.vauxPin = false → s.clock.mainPwr = true →
      ∃ t, exec .resetCmdCold s = .next t ∧
      t.clock.vauxPor = true ∧ t.clock.mainOn = false ∧ t.clock.mainPwr = false ∧ t.clock.phase = .off ∧
      t.intake.streams = [] ∧ t.lamp = s.lamp) ∧
    (s.coldRefused = false → s.running = true → ∃ t, exec .resetCmdCold s = .next t ∧ flushing t .cold) ∧
    (s.coldRefused = true → ∃ t, exec .resetCmdCold s = .next t ∧ t.link.status = .werr ∧ t = { s with link := t.link }) ∧
    (∀ f, s.snuff.trigger = some 4 → s.snuff.keepVin = true → s.flushStarts = true → s.clock.mainPwr = true → s.clock.vauxPin = true →
      (s.snuff.after = some .warm → ∃ t, exec (.snufferFlush f) s = .next t ∧ warm t 0x0080) ∧
      (s.snuff.after = some .soft → ∃ t, exec (.snufferFlush f) s = .next t ∧ warm t 0x2000) ∧
      (s.snuff.after = some .cold → ∃ t, exec (.snufferFlush f) s = .next t ∧ cold t))

/-! ### Faults acknowledged, memories and the Wick's registers -/

/-- FAULT_ACK.UNITS is refused whole while a unit it names is in a RESTART reset; otherwise each unit it names stands with no fault
latched, its level, count, cause, detail and flags 0, and no other unit's latch or level changes. FAULT_ACK.SELF clears the collector's
own fault, every latch, count and FAULT_CONSEQ bit, and returns the policies to their reset values; it is refused while the copies
still differ (R455). -/
def Obligations.FaultAcks : Prop :=
  ∀ (s : State), s.Inv → s.busOpen = true →
    (∀ units, (∃ u, units.getLsbD (unitIdx u) = true ∧ (s.unit u).restart = true) →
      exec (.faultAckWrite units) s = .next (s.wrote .werr)) ∧
    (∀ units, (∀ u, units.getLsbD (unitIdx u) = true → (s.unit u).restart = false) →
      ∃ t, exec (.faultAckWrite units) s = .next t ∧ t.link.status = .ok ∧ t.fault.self = s.fault.self ∧ ∀ u,
        (units.getLsbD (unitIdx u) = true → (t.unit u).latched = false ∧ (t.unit u).shadowed = false ∧
          ((s.unit u).latched = true → (t.unit u).level = 0 ∧ (t.unit u).count = 0 ∧ (t.unit u).cause = 0 ∧
            (t.unit u).detail = 0 ∧ (t.unit u).escalated = false)) ∧
        (units.getLsbD (unitIdx u) = false → (t.unit u).latched = (s.unit u).latched ∧ (t.unit u).level = (s.unit u).level)) ∧
    (s.fault.differs = false → ∃ t, exec .faultAckSelf s = .next t ∧ t.link.status = .ok ∧ t.fault.self = false ∧
      ∀ u, (t.unit u).latched = false ∧ (t.unit u).count = 0 ∧ (t.unit u).conseq = false ∧ (t.unit u).base = 0 ∧
        ((t.unit u).snuffEnd = true ↔ u = .tun ∨ u = .power ∨ u = .snuff ∨ u = .clock)) ∧
    (s.fault.differs = true → exec .faultAckSelf s = .next (s.wrote .werr))

/-- MEM_RETIRE.TARGET retires the macro or row of the selected memory; it is refused for a number past the memory's, or with no spare
left (R373, R396, R397). MEM_PWR.STATE: a quiesced memory takes the state asked for, OFF loses its words, and 3, or a memory that is
not quiesced, is refused (R389, R390).
MEM_TEST_CTRL: EN changes in a quiesced memory and is refused in another (R390); with EN set, of a memory that is ON, OP 1 reads the
addressed word raw, OP 2 writes data and check bits exactly as staged, OP 3 the data alone, and each sets DONE; without EN they are
refused (R373, R401). LANE, DONE, the address and the staging word are those of the memory that MEM_SEL selects (R357). -/
def Obligations.MemoryRegisters : Prop :=
  (∀ (s : State) (target : BitVec 20) (st : BitVec 2), 
    let m := s.link.memSel.toNat
    let x := s.memory m
    let retired := m = 0 ∧ x.retired.contains target.toNat = true
    let asked := if st = 0 then MemPwr.on else if st = 1 then .retain else .off
    (s.serves 0x44 = true →
      (target.toNat < memTargets m → ¬ retired → x.retired.length < memSpares m →
        ∃ t, exec (.memRetireWrite target) s = .next t ∧ t = { s with link := t.link, mem := t.mem, health := t.health } ∧
          t.link = (s.wrote .ok).link ∧ (t.memory m).retired = x.retired ++ [target.toNat] ∧
          ∀ k, k ≠ m → t.memory k = s.memory k) ∧
      (target.toNat < memTargets m → retired → exec (.memRetireWrite target) s = .next (s.wrote .ok)) ∧
      (memTargets m ≤ target.toNat ∨ (¬ retired ∧ memSpares m ≤ x.retired.length) →
        exec (.memRetireWrite target) s = .next (s.wrote .werr))) ∧
    (s.serves 0x41 = true →
      (st ≠ 3 → x.req ≠ asked → s.memQuiet m true = true → ¬ (x.now = .off ∧ st = 1) →
        ∃ t, exec (.memPwrWrite st) s = .next t ∧ t = { s with link := t.link, mem := t.mem } ∧ t.link = (s.wrote .ok).link ∧
          (t.memory m).req = asked ∧ (t.memory m).now = asked ∧
          (t.memory m).cells = (if asked = .off then [] else x.cells) ∧ (t.memory m).poison = (if asked = .off then [] else x.poison) ∧
          ∀ k, k ≠ m → t.memory k = s.memory k) ∧
      (st = 3 ∨ (x.req ≠ asked ∧ s.memQuiet m true = false) → exec (.memPwrWrite st) s = .next (s.wrote .werr)))) ∧
  (∀ (s : State) (en : Bool), s.serves 0x45 = true →
    let m := s.link.memSel.toNat
    let x := s.memory m
    let a := x.addr.toNat
    (en ≠ x.testEn → s.memQuiet m false = true → ∃ t, exec (.memTestEnWrite en) s = .next t ∧
      t = { s with link := t.link, mem := t.mem } ∧ t.link.status = .ok ∧ t.memory m = { x with testEn := en }) ∧
    (en ≠ x.testEn → s.memQuiet m false = false → exec (.memTestEnWrite en) s = .next (s.wrote .werr)) ∧
    (x.testEn = true → x.now = .on → a < memWords m →
      (∀ d c, (a, MemCell.raw d c) ∈ x.cells → tget (MemCell.coded 0) x.cells a = .raw d c →
        ∃ t, exec .memTestRead s = .next t ∧ t.link.status = .ok ∧ t.memory m = { x with stage := d, stageChk := c, testDone := true } ∧
          t = { s with link := t.link, mem := t.mem, draws := t.draws }) ∧
      (∃ t, exec .memTestWriteRaw s = .next t ∧ t.link.status = .ok ∧ (t.memory m).testDone = true ∧
        t = { s with link := t.link, mem := t.mem } ∧
        tget (MemCell.coded 0) (t.memory m).cells a = .raw (x.stageData m) (x.stageCheck m) ∧
        ∀ k, k ≠ a → tget (MemCell.coded 0) (t.memory m).cells k = tget (MemCell.coded 0) x.cells k) ∧
      (∃ t, exec .memTestWriteChecked s = .next t ∧ t.link.status = .ok ∧ (t.memory m).testDone = true ∧
        t = { s with link := t.link, mem := t.mem } ∧
        tget (MemCell.coded 0) (t.memory m).cells a = .coded (x.stageData m) ∧
        ∀ k, k ≠ a → tget (MemCell.coded 0) (t.memory m).cells k = tget (MemCell.coded 0) x.cells k)) ∧
    (x.testEn = false ∨ x.now ≠ .on ∨ memWords m ≤ a → exec .memTestRead s = .next (s.wrote .werr) ∧
      exec .memTestWriteRaw s = .next (s.wrote .werr) ∧ exec .memTestWriteChecked s = .next (s.wrote .werr)))

/-- WICK_SUBMIT with GO: the host's descriptor joins the end of the queue with its tag, and any that WICK queues for itself follow it;
with no entry free, or a descriptor that R412 forbids, the write is refused. WICK_DONE.VALID takes the oldest completion (R374). The
Cellar's base and size apply with their high words: a size that is not the random region's divided by 1,024, and a base that is not
page-aligned or comes before its size, are refused; a base that is taken clears every Cellar-current bit (R223, R225, R378). -/
def Obligations.WickAndCellarRegisters : Prop :=
  ∀ (s : State) (tag : Byte) (hi : Word),
    let d : WDesc := { who := .hostSw, tag := tag, w0 := s.wick.desc0, w1 := s.wick.desc1, w2 := s.wick.desc2, status := none }
    let base : BitVec 64 := hi ++ s.place.cellBaseLo
    let size : BitVec 64 := hi ++ s.place.cellSizeLo
    (s.serves 0x54 = true → s.wick.queue.length < 16 → s.hostWickRefused d = false →
      ∃ t own, exec (.wickSubmit tag) s = .next t ∧ t = { s with link := t.link, wick := t.wick } ∧
        t.link = (s.wrote .ok).link ∧ t.wick.queue = s.wick.queue ++ d :: own ∧ t.wick.tag = tag ∧ ∀ e ∈ own, e.who = .back) ∧
    (s.serves 0x54 = true → 16 ≤ s.wick.queue.length ∨ s.hostWickRefused d = true →
      exec (.wickSubmit tag) s = .next (s.wrote .werr)) ∧
    (s.serves 0x55 = true → exec .wickDoneTake s = .next
      (State.wrote { s with wick := { s.wick with hostDone := s.wick.hostDone.drop 1 } } .ok)) ∧
    (s.serves 0x60 = true → s.serves 0x03 = true →
      ((base = 0 ∨ (base.toNat % 4096 = 0 ∧ s.place.cellSize.toNat = s.cellarNeed)) →
        ∃ t, exec (.cellarBaseWrite false hi) s = .next t ∧ t.link.status = .ok ∧ t.place.cellBase = base ∧
          t.place.cellCur = [] ∧ t.place.cellOff = false ∧ t = { s with link := t.link, place := t.place }) ∧
      (base ≠ s.place.cellBase → base ≠ 0 → base.toNat % 4096 ≠ 0 ∨ s.place.cellSize.toNat ≠ s.cellarNeed →
        ∃ t, exec (.cellarBaseWrite false hi) s = .next t ∧ t.link.status = .werr ∧ t = { s with link := t.link }) ∧
      (size.toNat = s.cellarNeed → ∃ t, exec (.cellarBaseWrite true hi) s = .next t ∧ t.link.status = .ok ∧
        t.place.cellSize = size ∧ t = { s with link := t.link, place := { s.place with cellSize := size } }) ∧
      (size ≠ s.place.cellSize → size.toNat ≠ s.cellarNeed →
        ∃ t, exec (.cellarBaseWrite true hi) s = .next t ∧ t.link.status = .werr ∧ t = { s with link := t.link }))

/-! ### Intake -/

/-- The offset of a write is the one value within 4 MiB from L = max(0, F − 2 MiB) that is the aperture offset modulo 4 MiB (R76).
A posted write inside one 4 KiB block, and within the Max Payload Size, to the aperture of stream i completes (R75 to R77, R80, R290, R292): its credits are consumed; a write
to an OPEN stream is NEW, STALE, TRIMMED, OVERLAP or GAP by where it begins and ends, and a write to any other stream, or with Memory
Space Enable clear, is discarded with ST_FAULT.DISCARD; a poisoned one sets ST_FAULT.POISONED as well (R296). Of one doubleword, only the bytes enabled are taken: with none it consumes its
credits and does nothing else; with those from the k-th to the j-th, they are the write; with gaps between them, each run of enabled bytes
is a write of its own, in ascending order. A word that the receive buffer's code cannot correct is not
accepted (R84, R317). -/
def Obligations.ApertureWrites : Prop :=
  (∀ (f a x : Nat), a < 4194304 →
    ((f - 2097152 ≤ x ∧ x < f - 2097152 + 4194304 ∧ x % 4194304 = a) ↔ x = reconstruct f a)) ∧
  ((∀ (s : State) (off : BitVec 32) (data : List Byte) (be : BitVec 4) (ep : Bool), s.portUp = true →
    off.toNat / 4096 = (off.toNat + data.length - 1) / 4096 → 0 < data.length → data.length ≤ s.host.mps →
    (∃ t, exec (.apertureWrite off data be ep true) s = .next t ∧ t.intake.streams = s.intake.streams ∧
      t.intake.credits = s.intake.credits - (data.length + 15) / 16 ∧ t.intake.hdrCredits = s.intake.hdrCredits - 1) ∧
    (data.length = 4 → be = 0 → exec (.apertureWrite off data be ep false) s = .next { s with intake :=
      { s.intake with credits := s.intake.credits - 1, hdrCredits := s.intake.hdrCredits - 1 } }) ∧
    (∀ b0 b1 b2 b3 : Byte, data = [b0, b1, b2, b3] →
      let write := fun (t : State) (k : Nat) (bs : List Byte) =>
        t.streamWrite (off.toNat / 4194304) ((off.toNat + k) % 4194304) bs t.host.mse ep
      let t := s.consume 4
      exec (.apertureWrite off data 5 ep false) s = .next (write (write t 0 [b0]) 2 [b2]) ∧
      exec (.apertureWrite off data 9 ep false) s = .next (write (write t 0 [b0]) 3 [b3]) ∧
      exec (.apertureWrite off data 10 ep false) s = .next (write (write t 1 [b1]) 3 [b3]) ∧
      exec (.apertureWrite off data 11 ep false) s = .next (write (write t 0 [b0, b1]) 3 [b3]) ∧
      exec (.apertureWrite off data 13 ep false) s = .next (write (write t 0 [b0]) 2 [b2, b3])) ∧
    ∀ (k : Nat) (taken : List Byte), (k = 0 ∧ taken = data ∧ data.length ≠ 4) ∨
        (∃ j, k ≤ j ∧ j < 4 ∧ data.length = 4 ∧ (∀ i : Nat, i < 4 → (be.getLsbD i = true ↔ k ≤ i ∧ i ≤ j)) ∧
          taken = (data.drop k).take (j + 1 - k)) →
      let i := off.toNat / 4194304
      let e := s.stream i
      let st := reconstruct e.front ((off.toNat + k) % 4194304)
      let en := st + taken.length
      let fault := if ep then e.fault ||| 0x100 else e.fault
      ∃ t, exec (.apertureWrite off data be ep false) s = .next t ∧
        t.intake.credits = s.intake.credits - (data.length + 15) / 16 ∧ t.intake.hdrCredits = s.intake.hdrCredits - 1 ∧
        (∀ j, j ≠ i → t.stream j = s.stream j) ∧
        (e.st ≠ .open ∨ s.host.mse = false → (t.stream i).fault = fault ||| 0x08 ∧
          t.stream i = { e with fault := (t.stream i).fault, poisonSaid := (t.stream i).poisonSaid }) ∧
        (e.st = .open → s.host.mse = true →
          (st = e.front → (t.stream i).st = .open ∧ (t.stream i).front = en ∧ (t.stream i).replay = false) ∧
          (en ≤ e.front → (t.stream i).st = .open ∧ (t.stream i).front = e.front ∧ (t.stream i).fault = fault ||| 0x04 ∧
            (t.stream i).replay = e.replay) ∧
          (st < e.front → e.front < en → e.replay = true → (t.stream i).st = .open ∧ (t.stream i).front = en ∧
            (t.stream i).replay = false) ∧
          (st < e.front → e.front < en → e.replay = false → (t.stream i).st = .faulted ∧ (t.stream i).front = e.front ∧
            (t.stream i).fault = fault ||| 0x02) ∧
          (e.front < st → (t.stream i).st = .faulted ∧ (t.stream i).front = e.front ∧ (t.stream i).fault = fault ||| 0x01))))

/-- The close doorbell (R60): with o the open cycle and N the current one, a value below o, and any value for a stream that has no
open cycle, because it is neither OPEN nor DRAINING or a fault has closed every cycle for it (R65), only counts as a repeat close; from o to N the cycles o to c are closed and the open cycle is c + 1; above N it only
counts as a close ahead and sets ST_FAULT.CLOSE_AHEAD. A doorbell write of any size other than 8 bytes is discarded and counted. -/
def Obligations.CloseDoorbells : Prop :=
  (∀ (s : State) (off : BitVec 20) (len : Nat), s.barOpen = true → off.toNat < 0x2000 → len ≠ 8 →
    ∃ t, exec (.bar2BadWrite off len) s = .next t ∧ t.hget 0x28 = min (s.hget 0x28 + 1) 0xFFFFFFFF ∧
      t.intake.streams = s.intake.streams ∧ t = { s with intake := t.intake, health := t.health }) ∧
  (∀ (s : State) (stream : BitVec 10) (c : BitVec 64), s.portUp = true → s.host.mse = true → s.host.d3hot = false →
    let i := stream.toNat
    let e := s.stream i
    let live := (e.st = .open ∨ e.st = .draining) ∧ e.closedAll = false
    ∃ t, exec (.closeDoorbell stream c) s = .next t ∧ t.intake.hdrCredits = s.intake.hdrCredits - 1 ∧
      (∀ j, j ≠ i → t.stream j = s.stream j) ∧
      (¬ live ∨ c.toNat < e.openCycle → t.stream i = e ∧ t.hget 0x26 = min (s.hget 0x26 + 1) 0xFFFFFFFF) ∧
      (live → e.openCycle ≤ c.toNat → c.toNat ≤ s.lamp.cycle → (t.stream i).openCycle = c.toNat + 1 ∧
        (t.stream i).front = e.front ∧ (t.stream i).accept = e.accept ∧ (t.stream i).fault = e.fault ∧
        (tget 0 e.credited e.openCycle ≠ 0 → tget 0 (t.stream i).closes e.openCycle = e.front)) ∧
      (live → e.openCycle ≤ c.toNat → s.lamp.cycle < c.toNat → t.stream i = { e with fault := e.fault ||| 0x20 } ∧
        t.hget 0x27 = min (s.hget 0x27 + 1) 0xFFFFFFFF))

/-- A step grants 32 data credits and one header credit where the step is admitted and 4,032 are not passed, and the initial
advertisement of a training port 2,048 and 64; B_pend stays within 56 MiB after a grant (R86). Where no step is admitted, no credit is
granted. While the magazine is in service the two space conditions are looked at again each time, and follow the limits (R201).
The Tun acknowledges the oldest write of stream i: outside write-through ST_ACCEPT reaches the start of the oldest write still
unacknowledged, or the frontier, and never falls (R78), and a RESUME of the stream that waited for that is carried out (R81); in write-through ST_ACCEPT waits for the note
(R109); a mirror write that is due is issued to the stream's place with its sixteen
bytes, ST_ACCEPT first (R92, R93), and a RESUME that waits for its own mirror write alone is carried out with it. No execution in LINK waits. -/
def Obligations.CreditsAndAcks : Prop :=
  (∀ (s : State), s.host.perst = false → s.stopped .host = false →
    (s.intake.advertised = true → ∃ t, exec .creditGrant s = .next t ∧
      (s.intake.credits + 32 ≤ 4032 → s.stepOk 512 true = true →
        t.intake.credits = s.intake.credits + 32 ∧ t.intake.hdrCredits = s.intake.hdrCredits + 1) ∧
      (4032 < s.intake.credits + 32 ∨ s.stepOk 512 true = false →
        t.intake.credits = s.intake.credits ∧ t.intake.hdrCredits = s.intake.hdrCredits) ∧
      (s.running = true → t.intake.spaceLow = t.lowSpace ∧ t.intake.spaceFull = t.noSpace) ∧
      t.intake.streams = s.intake.streams ∧ t = { s with intake := t.intake, link := t.link, host := t.host }) ∧
    (s.intake.advertised = false → s.host.training = true →
      s.stepOk 32768 (!(s.clock.dev = .boot || s.clock.dev = .recover)) = true →
      exec .creditGrant s = .next { s with intake := { s.intake with
        credits := s.intake.credits + 2048, hdrCredits := s.intake.hdrCredits + 64, advertised := true } }) ∧
    (∀ t, exec .creditGrant s = .next t → t.intake.credits = s.intake.credits ∨ t.bPend ≤ 58720256)) ∧
  (∀ (s : State) (stream : BitVec 10), s.clock.mainOn = true → s.link.run = none →
    let i := stream.toNat
    let e := s.stream i
    let left := (s.intake.unacked.filter fun w => w.1 = i).drop 1
    let reach := match left with
      | w :: _ => w.2.1
      | [] => e.front
    (s.stopped .tun = false → ∃ t, exec (.tunAck stream) s = .next t ∧
      t = { s with intake := t.intake, media := t.media, place := t.place, host := t.host } ∧
      (t.intake.unacked.filter fun w => w.1 = i) = left ∧
      (s.acceptHeld i = false → (t.stream i).accept = max e.accept reach) ∧
      (s.acceptHeld i = true → (t.stream i).accept = e.accept) ∧
      (s.acceptHeld i = false → e.resumeDue = true → s.running = true → s.stopped .intake = false → max e.accept reach = e.front →
        s.mirrored i = false ∨ s.upstreamOpen = true →
        (t.stream i).st = .open ∧ (t.stream i).replay = true ∧ (t.stream i).resumeDue = false) ∧
      ∀ j, j ≠ i → (s.stream j).resumeDue = false → t.stream j = s.stream j) ∧
    (e.mirrorDue = true → e.resumeDue = false → s.upstreamOpen = true → s.host.mirrorBase ≠ 0 → ∃ t rest, exec (.mirrorWrite stream) s = .next t ∧
      t = { s with intake := t.intake, host := t.host } ∧ rest.length = 8 ∧
      t.host.out = s.host.out ++ [.mirror (s.host.mirrorBase + 16 * BitVec.ofNat 64 i) (leBytes 8 e.accept ++ rest)] ∧
      (t.stream i).mirrorDue = false ∧ (t.stream i).accept = e.accept) ∧
    (e.mirrorDue = false → e.resumeDue = true → e.accept = e.front → s.running = true → s.stopped .intake = false → s.mirrored i = true → s.upstreamOpen = true →
      ∃ t, exec (.mirrorWrite stream) s = .next t ∧ t = { s with intake := t.intake, host := t.host } ∧ (t.stream i).st = .open ∧
        (t.stream i).replay = true ∧ (t.stream i).resumeDue = false ∧ t.host.out.length = s.host.out.length + 1) ∧
    (e.mirrorDue = false ∨ s.upstreamOpen = false → e.resumeDue = false → exec (.mirrorWrite stream) s = .next s))

/-- Write-through: a shortfall of energy in READY enters it, and DEV_STATE is DEGRADED (R107, R108); a flush takes every taken byte that
the newest flush does not cover, and data accepted before that is not yet on flash (R109). Once the pieces of the oldest flush are on
flash and TUN has acknowledged its writes, its notes are programmed: ST_ACCEPT of each stream that it covers has reached the frontier
that the flush records, and the flush is done; until then the command changes nothing. The notes' programs have their tokens and an open band
that is ready (R120, R186), and no execution in LINK waits. -/
def Obligations.WriteThrough : Prop :=
  ∀ (s : State),
    (s.clock.dev = .ready → s.power.vin = true → s.shortfall = true →
      ∃ t, exec .energyShortfallTimeout s = .next t ∧ t.intake.wtEnergy = true ∧ t.clock.dev = .degraded ∧ t.writeThrough = true) ∧
    (s.clock.dev = .degraded → s.snuff.trigger = none → s.openFrontiers ≠ [] → s.openFrontiers ≠ s.intake.lastFlush →
      ∃ t, exec .wtFlushStart s = .next t ∧
        t = { s with intake := { s.intake with flushes := s.intake.flushes ++ [s.openFrontiers] }, media := t.media, place := t.place }) ∧
    (∀ f rest, s.running = true → s.snuff.trigger = none → s.stopped .back = false → s.stopped .media = false → s.stopped .intake = false →
      s.intake.flushes = f :: rest → s.link.run = none →
      (s.canRecord (s.notePages f) = true → (∀ p ∈ s.place.pieces, p.inTun = true → covered f p = true → p.onFlash = true) →
        (∀ w ∈ s.intake.unacked, tget 0 f w.1 ≤ w.2.1) →
        ∃ t, exec .throughNoteProgrammed s = .next t ∧ t.intake.flushes = rest ∧
          ∀ x ∈ f, x.1 < 1024 → max (s.stream x.1).accept x.2 ≤ (t.stream x.1).accept) ∧
      ((∃ p ∈ s.place.pieces, p.inTun = true ∧ covered f p = true ∧ p.onFlash = false) →
        exec .throughNoteProgrammed s = .next s))

/-! ### Placement and background work -/

/-- The background work moves (R216, R227, R230, R231, R236). Each command first verifies what earlier moves have programmed, with one read of
each target codeword: a move that passes may enter a tail, and one that does not is no move any more, its source mapped as before. Its next
batch, whose reads all end with their data, is then covered by moves that wait for their programs and for a committed tail, and the maps
stand: the Kiln's moves (kind 1), the Sparge's (2), and those of refresh (the kind of the listed block) and rebuild (3). Each kind is issued in
its window, under its override, or while no background work of higher priority waits (R54, R55); the Kiln and the Sparge wait for rebuild
work. A rebuild ends once nothing is left on the failed die or channel (R193). -/
def Obligations.BatchesAreMoved : Prop :=
  ∀ (s : State) (m : MoveIn), s.backUp = true → m.reads = [] →
    let u := s.verifyMoves m
    let ts := targets s.toVerify
    let moved := fun (kind : Nat) (batch : List Piece) (t : State) =>
      t.place.runs = u.place.runs ∧ t.place.runPages = u.place.runPages ∧ ∃ old new, t.place.moves = old ++ new ∧
        (∀ v ∈ new, v.kind = kind ∧ v.noted = false ∧ v.checked = false) ∧ ∀ p ∈ batch, t.inMove p = true
    (s.canRead 6 (ts.map Prod.snd) = true → m.verify = [] → u = { s with place := { s.place with
      moves := s.place.moves.map fun v => { v with checked := v.checked || s.moveReady v } } }) ∧
    (∀ i r v l, s.canRead 6 (ts.map Prod.snd) = true → m.verify = [(i, r)] → ts[i]? = some (v, l) → s.verifies l r = false →
      v ∉ u.place.moves ∧ u.place.runs = s.place.runs) ∧
    (s.mayIssue 2 false = true → u.kilnBatch ≠ [] → u.rebuildWaits = false → u.mayRead 6 u.kilnBatch = true →
      (u.allocate (if u.kilnBatch.any fun p => p.unit.isSome then .random else .fold) u.kilnBatch.length).isSome = true →
      ∃ t, exec (.kilnBatch m) s = .next t ∧ moved 1 u.kilnBatch t) ∧
    (∀ band : BitVec 24, let b := band.toNat
      let pool := (s.band b).pool
      let batch := u.spargeBatch b
      s.mayIssue 3 (s.poolShort pool) = true → u.victim pool = some b → batch ≠ [] → u.rebuildWaits = false →
        u.mayRead (if u.poolShort pool then 5 else 6) batch = true →
        (u.allocate (if pool = .random then .spargeRandom else .sparge) batch.length).isSome = true →
        ∃ t, exec (.spargeCopy band m) s = .next t ∧ moved 2 batch t) ∧
    (∀ (ch : BitVec 5) (band : BitVec 24) (x : Refresh),
      (s.media.refresh.find? fun y => y.band = band.toNat && y.chan = ch.toNat) = some x → s.mayIssue 4 x.urgent = true →
      u.refreshBatch x ≠ [] → (∀ p ∈ u.refreshBatch x, u.poolOf p = some .stream) →
      u.mayRead (if x.urgent then 5 else 6) (u.refreshBatch x) = true →
      (u.allocate (if x.kind = 1 then .fold else .sparge) (u.refreshBatch x).length).isSome = true →
      ∃ t, exec (.refreshRewrite ch band m) s = .next t ∧ moved x.kind (u.refreshBatch x) t) ∧
    (∀ (ch : BitVec 5) (x : Nat × Option Nat), (s.media.rebuilds.find? fun y => y.1 = ch.toNat) = some x →
      (∀ p ∈ u.toRebuild x, ∀ k, p.loc.bind u.unitAt = some k → u.matesGone k.2.1 k.1 k.2.2 = false) →
      let batch := sortBy moveBefore ((u.toRebuild x).filter u.movable)
      (u.toRebuild x = [] → (∀ g ∈ u.place.runPages, u.locOn x.1 x.2 g.1 = false) → (∀ g ∈ u.place.mapPages, u.locOn x.1 x.2 g.1 = false) →
        ∃ t, exec (.rebuild ch m) s = .next t ∧ t = { u with media := t.media } ∧ x ∉ t.media.rebuilds) ∧
      (batch ≠ [] → (∀ p ∈ batch, u.poolOf p = some .stream) → u.mayRead 5 batch = true → (u.allocate .sparge batch.length).isSome = true →
        ∃ t, exec (.rebuild ch m) s = .next t ∧ moved 3 batch t ∧ t.media.rebuilds = u.media.rebuilds))

/-- A committed tail is built on the last cask or through note; it takes every move whose targets are programmed and verified, without the bytes that
lie below ST_TRIM by now (R235), but none while the tail exceeds 3.5 MiB (R276), and every piece that is on flash and accepted, and the Tun lets go of each whose program it records, but the piece that still grows (R122, R123, R231). A commit that would
leave more than 21,504 entries in the run table, and more than before, waits (R208).
Lists that the Back core keeps (R121, R204, R208, R213, R230, R232, R238): a released band whose record the second-newest head has
passed becomes erasable, and so does a journal band that nothing needs any more, whose records go with it; a placement that is due, or
that of a stream that writes a lane, leaves no held piece of the stream unplaced; with more than 20,480 run-table entries those that a
page takes are submitted as a run page, and stand until it is programmed; 24 hours make a block's refresh urgent; a check of the snuff
bands, whose reads have their tokens, leaves what it found of each. -/
def Obligations.BackgroundWork : Prop :=
  (∀ (s : State), s.backUp = true →
    (s.commitTail.place.runs.length ≤ 21504 ∨ s.commitTail.place.runs.length ≤ s.place.runs.length →
      ∃ t x, exec .journalTailCommit s = .next t ∧
        t = { s with media := t.media, place := t.place, journal := { s.journal with tail := some x } } ∧ x.base = s.tailBase ∧
        (∀ v ∈ s.place.moves, s.moveDropped v = false → let w := if v.noted then v else s.trimMove v
          { w with noted := w.noted || (w.checked && s.moveReady w && decide (s.tailBytes ≤ 3670016)) } ∈ t.place.moves) ∧
        (∀ v ∈ t.place.moves, v.noted = false → v.checked = false ∨ s.moveReady v = false ∨ 3670016 < s.tailBytes) ∧
        ∀ p ∈ t.place.pieces, p.onFlash = true → t.allAccepted p = true → p.noted = true ∧ (p.done = true → t.openPiece p = false → p.inTun = false)) ∧
    (21504 < s.commitTail.place.runs.length → s.place.runs.length < s.commitTail.place.runs.length →
      exec .journalTailCommit s = .next s)) ∧
  (∀ (s : State),
    (∀ (band : BitVec 24) (h : Nat), s.clock.mainOn = true → (s.band band.toNat).phase = .released → s.secondHead = some h →
      (s.band band.toNat).relSeq < h → s.readsBand band.toNat = false → ∃ t, exec (.bandRelease band) s = .next t ∧
        t = { s with place := t.place } ∧ (t.band band.toNat).phase = .erasable ∧ ∀ k, k ≠ band.toNat → t.band k = s.band k) ∧
    (∀ band : BitVec 24, s.clock.mainOn = true → (s.band band.toNat).phase ≠ .released → (s.band band.toNat).pool = .journal →
      s.journalDone band.toNat = true → s.readsBand band.toNat = false → ∃ t, exec (.bandRelease band) s = .next t ∧
        t = { s with place := t.place, journal := { s.journal with recs := t.journal.recs, bands := t.journal.bands } } ∧
        (t.band band.toNat).phase = .erasable ∧ t.journal.bands = (s.journal.bands.filter fun x => x != band.toNat) ∧
        ∀ r, r ∈ t.journal.recs ↔ r ∈ s.journal.recs ∧ r.addr.toNat / 16777216 ≠ band.toNat) ∧
    (∀ stream : BitVec 10, s.backUp = true → s.journal.sealing = none →
      s.inLane stream.toNat = true ∨ s.placeDue stream.toNat = true →
      (∀ p ∈ s.place.pieces, s.heldPiece stream.toNat p = true → s.goesStaged p = false) →
      (s.allocate (s.roleFor stream.toNat false) (s.place.pieces.filter (s.heldPiece stream.toNat)).length).isSome = true →
      ∃ t, exec (.piecePlacement stream) s = .next t ∧ ∀ p ∈ t.place.pieces, t.heldPiece stream.toNat p = false) ∧
    (∀ a es, s.backUp = true → 20480 < s.place.runs.length → s.pageEntries = a :: es → s.runPagePending = false →
      (s.allocate .random 1).isSome = true →
      let page : RunPage := ⟨s.journal.nextSeq - 1, a.stream, s.runDepth a + 1, a :: es⟩
      ∃ t l, exec .runPageWrite s = .next t ∧ t = { s with media := t.media, place := t.place } ∧
        t.place.runs = s.place.runs ∧ t.place.pageJobs = s.place.pageJobs ++ [(l, .run page none)]) ∧
    (∀ (ch : BitVec 5) (band : BitVec 24), ∃ t, exec (.refreshUrgentAge ch band) s = .next t ∧ t = { s with media := t.media } ∧
      ∀ x, x ∈ t.media.refresh ↔ ∃ y ∈ s.media.refresh,
        x = if y.band = band.toNat ∧ y.chan = ch.toNat then { y with urgent := true } else y) ∧
    (∀ a b x y, s.backUp = true → s.place.snuff = [(a, x), (b, y)] → a < b →
      s.canUse 0x01 1 ([a, b].flatMap fun n => ((s.band n).channels.filter fun c => !(s.band n).failedAt 0 c).map fun c => (0, n, c)) = true →
      ∀ first second,
      ∃ t, exec (.snuffBandCheck first second) s = .next t ∧ t.place.snuff = [(a, first), (b, second)]))

/-- The Grist and the Cellar: a page that misses takes a frame, which is fetched from the Cellar where its slot is current and the port may
read it, and from flash otherwise, CLEAN, or UNFLUSHED where the page has changed since it was programmed; with no frame free, CLEAN or
UNFLUSHED the miss waits (R221, R222, R225); a page that arrives with its tag leaves the frame the page's entries where it holds no newer
ones, CLEAN, UNFLUSHED, or DIRTY where the frame took entries meanwhile (R226); one that does not, or that no link brings, is read from flash instead: it is counted and its
slot is current no more, and the sixteenth tag failure ends the Cellar's use (R225). The tag is that of R224, over the model's field
widths (log 120). -/
def Obligations.GristAndCellar : Prop :=
  ∀ (s : State) (page : BitVec 32), s.clock.mainOn = true →
    let p := page.toNat
    let f := tget frameNone s.place.frames p
    (s.stopped .grist = false → s.pageOk p = true → s.hasFrame p = false → s.canRead 3 (s.entryReads p) = true →
      s.place.frames.length < 4096 →
      ∃ t, exec (.gristMiss page) s = .next t ∧ t = { s with place := t.place } ∧
        (tget frameNone t.place.frames p).lines = [] ∧
        (tget frameNone t.place.frames p).st = (if s.fromCellar p then .fetching else if s.pageStale p then .unflushed else .clean) ∧
        ∀ q, q ≠ p → tget frameNone t.place.frames q = tget frameNone s.place.frames q) ∧
    (4096 ≤ s.place.frames.length → s.oldestFrame .clean = none → s.oldestFrame .unflushed = none →
      exec (.gristMiss page) s = .next s) ∧
    (f.st = .fetching →
      let arrived := s.filled p f
      (arrived.lines = f.lines ∧ arrived.st = (if f.lines ≠ [] then .dirty else if s.pageStale p then .unflushed else .clean)) ∧
      (∀ bs : List Byte, bs.length = 4096 → (bs.drop 8).take 8 = s.cellarTag p (bs.take 8) (bs.drop 16) → s.portUp = true →
        ∃ t, exec (.cellarPageFetched page (.ok bs)) s = .next t ∧ t = { s with place := t.place } ∧
          tget frameNone t.place.frames p = arrived ∧ t.place.cellCur = s.place.cellCur) ∧
      (∃ t, exec (.cellarPageFetched page .failed) s = .next t ∧ p ∉ t.place.cellCur ∧
        t.hget 0x2A = min (s.hget 0x2A + 1) 0xFFFFFFFF ∧ tget frameNone t.place.frames p = arrived ∧
        t.place.cellFails = s.place.cellFails ∧ t.place.cellOff = s.place.cellOff) ∧
      (∀ bs : List Byte, bs.length = 4096 → s.portUp = false →
        exec (.cellarPageFetched page (.ok bs)) s = exec (.cellarPageFetched page .failed) s) ∧
      (∀ bs : List Byte, bs.length = 4096 → (bs.drop 8).take 8 ≠ s.cellarTag p (bs.take 8) (bs.drop 16) → s.portUp = true →
        ∃ t, exec (.cellarPageFetched page (.ok bs)) s = .next t ∧ p ∉ t.place.cellCur ∧
          t.hget 0x2A = min (s.hget 0x2A + 1) 0xFFFFFFFF ∧ tget frameNone t.place.frames p = arrived ∧
          t.place.cellFails = s.place.cellFails + 1 ∧
          (t.place.cellOff = true ↔ s.place.cellOff = true ∨ 16 ≤ s.place.cellFails + 1)))

/-- An anchor pair that is due, with a token, in its window or a general tick: two anchors with the next generation, copy A and copy B,
name the newest checkpoint as head and carry the erase intent, and the bytes of the journal after that head count from then on (R129); a token is spent, at most sixteen are held, and one is added each second
(R130 to R133, R422). -/
def Obligations.AnchorPairs : Prop :=
  ∀ (s : State),
    (∀ aged blank, s.running = true → s.wickUp = true → 0 < s.wick.tokens → s.pairDue aged = true → s.mayIssue 6 false = true →
      ∃ t a p, exec (.anchorPairWrite aged false 0 0 blank) s = .next t ∧
        t.wick.anchors = a :: { a with copyB := true, place := p } :: s.wick.anchors ∧ a.place = s.wick.slotPlace false ∧
        p = s.wick.slotPlace true ∧ a.gen = s.topGen + 1 ∧ a.copyB = false ∧
        a.intact = true ∧ a.headSeq = s.journal.newestCp.getD 0 ∧ a.intent = s.wick.intent.map Prod.fst ∧
        t.wick.tokens = s.wick.tokens - 1 ∧ t.journal.sinceHead = s.bytesAfter a.headSeq ∧
        t = { s with wick := t.wick, journal := { s.journal with sinceHead := t.journal.sinceHead } }) ∧
    (∀ waited a b blank, s.wick.tokens = 0 → exec (.anchorPairWrite false waited a b blank) s = .next s ∧
      exec (.anchorPairWrite true waited a b blank) s = .next { s with wick := { s.wick with pairAged := true } }) ∧
    (s.clock.mainOn = true → exec .anchorTokenAdd s = .next { s with wick := { s.wick with tokens := min 16 (s.wick.tokens + 1) } })

/-! ### Media -/

/-- Discovery, with every channel OFF, chooses the magazine's profile: that of the lowest-numbered operated die whose manufacturer and
model stand in the table, that needs no part of ONFI beyond R152, and whose target has 1, 2 or 4 LUNs (R152, R154, R158). It leaves each channel FAILED where the defect
list has it, in training where an operated die answered, and ABSENT otherwise (R157, R161). Training ends ACTIVE at the highest rate that
passes, from the profile's top rate down, or FAILED where none does (R157, R161). A failed check quiesces an ACTIVE channel; its first
failed retraining leaves it QUIESCED and the second fails it (R161, R162). A short calibration of an ACTIVE channel is noted with its time (R162). -/
def Obligations.ChannelsTrain : Prop :=
  ∀ (s : State) (ch : BitVec 5), s.Inv → s.mediaUp = true →
    let n := ch.toNat
    let c := s.chan n
    let top := min ((s.media.profile.map Profile.topRate).getD 0) 4
    (∀ d, (∀ x ∈ s.media.chans, x.2.st = .off) → d.passes = [] → ∃ t, exec (.mediaDiscovery d) s = .next t ∧
      t.media.profile = ((s.operated d).filter fun f => lunsOk (lunsAt (s.operated d) f.channel.toNat (f.die.toNat / 4))).findSome?
        (profileOf d.table) ∧ t.link.rawCode = d.rawGB10 ∧ (t.chan n).st =
        if c.retired then .failed else if (s.operated d).any (fun f => f.channel = ch) then .train else .absent) ∧
    (∀ (pass : BitVec 4) (r : Nat), c.st = .train → 1 ≤ r → r ≤ top → pass.getLsbD (r - 1) = true →
      (∀ k, r < k → k ≤ top → pass.getLsbD (k - 1) = false) → ∃ t, exec (.channelTraining ch pass) s = .next t ∧
        (t.chan n).st = .active ∧ (t.chan n).wp = true ∧ (t.chan n).rate = r ∧ (t.chan n).trainTemp = s.power.temp) ∧
    (∀ pass : BitVec 4, c.st = .train → (∀ k, 1 ≤ k → k ≤ top → pass.getLsbD (k - 1) = false) →
      ∃ t, exec (.channelTraining ch pass) s = .next t ∧
        (t.chan n).st = .failed ∧ (t.chan n).wp = false ∧ (t.chan n).retired = true) ∧
    (c.st = .active → ∃ t, exec (.retrainCheck ch false) s = .next t ∧ (t.chan n).st = .quiesced ∧ (t.chan n).trainFails = 0) ∧
    exec (.retrainCheck ch true) s = .next s ∧
    (c.st = .active → ∃ t, exec (.zqCalibrationShort ch) s = .next t ∧ t = { s with media := t.media } ∧
      t.chan n = { c with zqAt := s.nowS } ∧ ∀ k, k ≠ n → t.chan k = s.chan k) ∧
    (c.st ≠ .active → exec (.zqCalibrationShort ch) s = .next s) ∧
    (∀ elapsed, c.st = .active → 15 ≤ (s.power.temp - c.trainTemp).natAbs ∨ 600 ≤ elapsed →
      ∃ t, exec (.tempRetrain ch elapsed) s = .next t ∧ t = { s with media := t.media } ∧
        t.chan n = { c with trainTemp := s.power.temp } ∧ ∀ k, k ≠ n → t.chan k = s.chan k) ∧
    (c.st = .quiesced → (∀ e ∈ c.queue, e.phase ≠ .started) →
      (∃ t, exec (.channelRetrain ch true) s = .next t ∧ (t.chan n).st = .active ∧ (t.chan n).trainFails = 0) ∧
      ∃ t, exec (.channelRetrain ch false) s = .next t ∧
        (t.chan n).st = (if c.trainFails = 0 then .quiesced else .failed) ∧
        (c.trainFails = 0 → (t.chan n).trainFails = 1))

/-- A descriptor is queued in the lowest entry that is free for its submitter, and with none free its submitter waits (R164); the one
that may start, and that no other goes before, starts (R167, R188); without a magazine profile none can, and it ends REFUSED (R158, R166); one whose memory word is bad completes ABORTED and is submitted again
(R195); 10 ms of waiting age one of class 2 to 7 (R188); one whose action has ended leaves its completion, which a submitter that runs
takes (R164, R168), and a program, a parity and a failed erase leave the unit, the row and the retired block recorded (R175, R190). -/
def Obligations.DescriptorsLive : Prop :=
  ∀ (s : State) (ch : BitVec 5) (slot : BitVec 8), s.mediaUp = true →
    let n := ch.toNat
    let c := s.chan n
    let still := ∀ x ∈ s.media.chans, ∀ e ∈ x.2.queue, e.comp = none ∧ e.held = false
    (∀ d i, still → c.st ≠ .off → c.waits = [] → maySubmit d = true → c.freeSlot (snuffDesc d) = some i → i ≠ slot.toNat →
      c.entry slot.toNat = none →
      ∃ t, exec (.descriptorStart ch [d] slot false) s = .next t ∧ t = { s with media := t.media } ∧ (t.chan n).queue = c.queue ++
        [{ slot := i, d := d, order := s.media.orderNext, phase := .queued, aged := false, status := none, rung := 0, corr := 0,
           held := false, climbed := false, fan := [], soft := 0, comp := none }]) ∧
    (∀ d, still → c.st ≠ .off → c.waits = [] → maySubmit d = true → c.freeSlot (snuffDesc d) = none → c.entry slot.toNat = none →
      ∃ t, exec (.descriptorStart ch [d] slot false) s = .next t ∧ t = { s with media := t.media } ∧
        (t.chan n).queue = c.queue ∧ (t.chan n).waits = [d]) ∧
    (∀ p e, still → c.st ≠ .off → s.media.profile = some p → c.entry slot.toNat = some e →
      descValid p (s.dieAt n e.d.die.toNat) e.d = true → c.barred e = false →
      e.isRead = true ∨ (c.st ≠ .failed ∧ tget DieCode.absent c.dies e.d.die.toNat ≠ .retired) →
      s.mayStart p n e = true → s.isNext p e = true →
      ∃ t x, exec (.descriptorStart ch [] slot false) s = .next t ∧ t = { s with media := t.media } ∧
        (t.chan n).entry slot.toNat = some x ∧ x.phase = .started ∧ x.d = e.d ∧ x.status = e.status) ∧
    (∀ e, still → c.st ≠ .off → s.media.profile = none → c.entry slot.toNat = some e → e.phase = .queued →
      ∃ t x, exec (.descriptorStart ch [] slot false) s = .next t ∧ t = { s with media := t.media } ∧
        (t.chan n).entry slot.toNat = some x ∧ x.d = e.d ∧ x.status = some (mstatusCode .refused)) ∧
    (∀ e, still → c.st ≠ .off → c.entry slot.toNat = some e →
      ∃ t x, exec (.descriptorStart ch [] slot true) s = .next t ∧ (t.chan n).entry slot.toNat = some x ∧ x.status = some 0x17 ∧
        ((∃ y ∈ (t.chan n).queue, y.d = e.d ∧ y.phase = .queued) ∨ e.d ∈ (t.chan n).waits)) ∧
    (∀ e, c.entry slot.toNat = some e → e.phase = .queued → 2 ≤ e.d.cls.toNat → ∃ t, exec (.tokenWaitAge ch slot) s = .next t ∧
      t = { s with media := t.media } ∧ (t.chan n).entry slot.toNat = some { e with aged := true }) ∧
    (∀ x st e, c.entry slot.toNat = some x → x.status = some st → x.comp = none →
      let comp : Completion := ⟨x.d.tag, st, BitVec.ofNat 8 x.rung, BitVec.ofNat 16 x.corr, e.elapsed, e.status⟩
      ∃ t, exec (.descriptorComplete ch slot e) s = .next t ∧
        (s.takerRuns x.d = true → comp ∈ t.media.done) ∧
        (mopOf x.d.op = some .program → st = 0x00 → (x.d.wl.toNat, n) ∈ (t.band x.d.band.toNat).units) ∧
        (mopOf x.d.op = some .parity → st = 0x00 → x.d.wl.toNat ∈ (t.band x.d.band.toNat).parity) ∧
        (mopOf x.d.op = some .erase → st = 0x13 → (x.d.die.toNat, x.d.block.toNat) ∈ (t.chan n).blocks))

/-- Each action of a running descriptor completes with the status that R169 gives what the dies answered. A read climbs the rungs of its
ladder, for rung 18 only once the tokens of the row's other dies are within the budget (R186), and stops at the first at which every codeword decodes with the header of its place: rung 0 OK, 1 to 16 OK_RETRY, 17 OK_SOFT, 18
OK_REBUILT; with ones at rung 0 it is ERASED; with a mismatch at every rung it ends MISPLACED, and where a rung has not decoded either
UNCORRECTABLE (R180 to R183). Where its die cannot be read it takes rung 18 alone (R163, R192). A program of a band whose first wordlines
have been checked, a parity and an erase end by success or failure (R174); a first program that finds a member not erased goes back to
the queue, behind the erase of that member (R174); a confirm waits for its token (R187), and an erase that leaves planes out wears nothing; a mark read ends by the mark, FEATURE with OK, the feature's value left free, RESET_DIE with OK where the ID matches,
and elsewhere with a status that the manual does not give, a free value. A read or an erase that a flush finds ends ABORTED (R170). -/
def Obligations.ActionsEnd : Prop :=
  ∀ (s : State) (ch : BitVec 5) (slot : BitVec 8) (p : Profile),
    let n := ch.toNat
    let ends := fun (code : Byte) (t : State) => ∃ x, (t.chan n).entry slot.toNat = some x ∧ x.status = some code
    let runs := fun (op : MOp) (e : QEntry) => s.mediaUp = true ∧ (s.chan n).entry slot.toNat = some e ∧ e.phase = .started ∧
      e.status = none ∧ e.held = false ∧ mopOf e.d.op = some op
    (∀ e r, runs .read e → s.snuff.trigger = none ∨ e.d.submitter = 11 → s.media.profile = some p →
      let b := e.d.band.toNat
      let row := e.d.wl.toNat
      let named := fun (k : Nat) => (rungAt r k).headers.map (fun h => some (headerKey h)) = s.expectHeaders p n e.d
      let decodes := fun (k : Nat) => decodesAt r (s.mates b row n) k = true ∧ (k = 18 → s.matesGone b row n = false)
      ((s.chan n).rebuilds e = false →
        let rungs := ladder p (ladderTop e.d.ladder)
        (r.ones = true → ∃ t, exec (.mediaRead ch slot r) s = .next t ∧ ends 0x04 t) ∧
        (r.ones = false → (rungAt r 0).errors ≤ 320 → named 0 → ∃ t, exec (.mediaRead ch slot r) s = .next t ∧ ends 0x00 t) ∧
        (r.ones = false → e.climbed = false → 18 ∈ rungs → (∀ k ∈ rungs, k ≠ 18 → ¬ (decodes k ∧ named k)) →
          s.affords (tset Channel.none s.media.chans n (s.climbed n slot.toNat e)) = true → ∃ t, exec (.mediaRead ch slot r) s = .next t ∧
            t = { s with media := t.media } ∧
            (t.chan n).entry slot.toNat = some { e with climbed := true, fan := s.mates b row n }) ∧
        (r.ones = false → e.climbed = true ∨ 18 ∉ rungs → (∀ k ∈ rungs, ¬ (decodes k ∧ named k)) → ∃ t, exec (.mediaRead ch slot r) s = .next t ∧
          ((∀ k ∈ rungs, decodes k) → ends 0x11 t) ∧ ((∃ k ∈ rungs, ¬ decodes k) → ends 0x10 t)) ∧
        (r.ones = false → ∀ k ∈ rungs, (k = 18 → e.climbed = true) → decodes k → named k → (∀ j ∈ rungs, j < k → ¬ (decodes j ∧ named j)) →
          ∃ t, exec (.mediaRead ch slot r) s = .next t ∧
            ends (if k = 0 then 0x00 else if k ≤ 16 then 0x01 else if k = 17 then 0x02 else 0x03) t)) ∧
      ((s.chan n).rebuilds e = true → e.climbed = true → ∃ t, exec (.mediaRead ch slot r) s = .next t ∧
        (decodes 18 → named 18 → ends 0x03 t) ∧ (decodes 18 → ¬ named 18 → ends 0x11 t) ∧ (¬ decodes 18 → ends 0x10 t))) ∧
    (∀ e r, runs .read e → s.snuff.trigger ≠ none → e.d.submitter ≠ 11 →
      ∃ t, exec (.mediaRead ch slot r) s = .next t ∧ ends 0x17 t ∧ t = { s with media := t.media }) ∧
    (∀ e bad failed, runs .program e → (s.band e.d.band.toNat).checked = true ∨
        (∀ c ∈ (s.band e.d.band.toNat).channels, ∀ x ∈ bad, x.toNat ≠ c) →
      s.mayCheck e.d.band.toNat e.d.cls = true → s.mayConfirm n slot.toNat = true →
      ∃ t, exec (.mediaProgram ch slot bad failed) s = .next t ∧
        ends (if failed then 0x12 else 0x00) t ∧ (t.band e.d.band.toNat).checked = true ∧
        t = { s with media := t.media, place := t.place }) ∧
    (∀ e bad failed, runs .program e → (s.band e.d.band.toNat).checked = false →
        (∃ c ∈ (s.band e.d.band.toNat).channels, ∃ x ∈ bad, x.toNat = c) → s.mayCheck e.d.band.toNat e.d.cls = true →
      ∃ t x, exec (.mediaProgram ch slot bad failed) s = .next t ∧ (t.chan n).entry slot.toNat = some x ∧
        x.phase = .queued ∧ x.status = none ∧ (t.band e.d.band.toNat).checked = true ∧
        t = { s with media := t.media, place := t.place }) ∧
    (∀ e failed, runs .parity e → s.mayConfirm n slot.toNat = true → ∃ t, exec (.mediaParity ch slot failed) s = .next t ∧ ends (if failed then 0x12 else 0x00) t ∧
      t = { s with media := t.media }) ∧
    (∀ e failed, runs .erase e → s.snuff.trigger = none ∨ e.d.submitter = 11 → ∃ t, exec (.mediaErase ch slot failed) s = .next t ∧
      ends (if failed then 0x13 else 0x00) t ∧ t = { s with media := t.media } ∧
      tget 0 t.media.wear (wearKey n e.d.die.toNat e.d.block.toNat) =
        tget 0 s.media.wear (wearKey n e.d.die.toNat e.d.block.toNat) + (if e.d.planes = s.planes then 1 else 0)) ∧
    (∀ e failed, s.startedOp n slot.toNat .erase = some e → s.snuff.trigger ≠ none → e.d.submitter ≠ 11 →
      ∃ t, exec (.mediaErase ch slot failed) s = .next t ∧ ends 0x17 t ∧ t = { s with media := t.media }) ∧
    (∀ e marked, runs .markRead e → ∃ t, exec (.markRead ch slot marked) s = .next t ∧ ends (if marked then 0x19 else 0x00) t ∧
      t = { s with media := t.media }) ∧
    (∀ e, runs .feature e → ∃ t, exec (.feature ch slot) s = .next t ∧ ends 0x00 t ∧ t = { s with media := t.media, draws := s.draws + 1 } ∧
      tget 0 (t.chan n).feats e.d.die.toNat = Config.dieFeature s.draws n e.d.die.toNat) ∧
    (∀ e, runs .resetDie e → (∃ t, exec (.resetDie ch slot true) s = .next t ∧ ends 0x00 t ∧ t = { s with media := t.media }) ∧
      ∃ t, exec (.resetDie ch slot false) s = .next t ∧ ends (Config.resetDieStatus s.draws) t)

/-- A timeout ends its descriptor TIMEOUT and is counted; a die that is not ready again, whose ID does not match, or whose third timeout
within the hour it is, is RETIRED (R191). A scrub visit of a block reads its last programmed wordline and one that rotates, at rung 0
alone: a codeword corrected beyond the threshold puts the block on the refresh list, one that does not decode is counted, and the lap
ends with its hours once every block that holds valid data has been visited (R184, R185). -/
def Obligations.TimeoutsAndScrub : Prop :=
  ∀ (s : State) (ch : BitVec 5) (slot : BitVec 8), s.mediaUp = true →
    let n := ch.toNat
    (∀ e ready id second, (s.chan n).entry slot.toNat = some e → e.phase = .started → e.status = none →
      let die := e.d.die.toNat
      let k := s.recentTimeouts n die + 1
      ∃ t, exec (.dieTimeout ch slot ready id second) s = .next t ∧
        (∃ x, (t.chan n).entry slot.toNat = some x ∧ x.status = some 0x14) ∧
        t.hget 0x17 = min (s.hget 0x17 + 1) 0xFFFFFFFF ∧
        (ready = false ∨ id = false ∨ 3 ≤ k → tget DieCode.absent (s.chan n).dies die = .active →
          tget DieCode.absent (t.chan n).dies die = .retired ∧ (t.chan n).retDies.getLsbD die = true) ∧
        (ready = true → id = true → k < 3 → (t.chan n).dies = (s.chan n).dies)) ∧
    (∀ (band : BitVec 24) (last further : ReadIn) (p : Profile), s.clock.fwUp = true → s.snuff.trigger = none →
      s.mayIssue 5 false = true → s.media.profile = some p → (band.toNat, n) ∈ s.scrubBlocks → (s.chan n).st = .active →
      s.canUse 0x01 6 [(0, band.toNat, n)] = true →
      let b := band.toNat
      let key := wearKey n (b % 16) (s.memberBlock b n)
      let wl := tget 0 s.media.rotate key % max 1 p.wordlines
      let read := fun (w : Nat) (r : ReadIn) => climb r (decodesAt r []) (s.expectHeaders p n
        (unitDesc 0x01 s.planes (b % 16) (s.memberBlock b n) w b (s.cu (s.band b).slc) (s.band b).slc false 6 s.media.tagNext)) [0]
      let lastEnd := read (s.lastWordline b n) last
      let furtherEnd := read wl further
      let limit := 320 * s.clock.refreshPct / 100
      ∃ t, exec (.scrubVisit ch band last further) s = .next t ∧
        ((lastEnd.status = .ok ∧ limit < lastEnd.corr) ∨ (furtherEnd.status = .ok ∧ limit < furtherEnd.corr) →
          ∃ x ∈ t.media.refresh, x.band = b ∧ x.chan = n) ∧
        (lastEnd.status = .uncorrectable → furtherEnd.status = .ok → furtherEnd.corr ≤ limit →
          (t.chan n).eUncorr = min ((s.chan n).eUncorr + 1) 15 ∧ t.hget 0x13 = min (s.hget 0x13 + 1) 0xFFFFFFFF ∧
          t.media.refresh = s.media.refresh) ∧
        tget 0 t.media.rotate key = (wl + 1) % max 1 p.wordlines ∧
        ((∃ x ∈ s.scrubBlocks, x ≠ (b, n) ∧ x ∉ s.media.visited) → (b, n) ∈ t.media.visited ∧ t.media.scrubLap = s.media.scrubLap) ∧
        ((∀ x ∈ s.scrubBlocks, x = (b, n) ∨ x ∈ s.media.visited) →
          t.media.visited = [] ∧ t.media.scrubLap = (s.nowS - s.media.lapStart) / 3600))

/-! ### Power and the Snuffer -/

/-- A rail that has reached power good: below its UV trip the flag stands and the cause is held until the rail is above it again; an
overvoltage, of a rail that ramps too, shuts it off, below its UV trip; an overcurrent limits it until it ends (R254, R256). No other rail changes. Charging that has not reached
27.0 V in time holds its cause (R261). -/
def Obligations.RailsTrip : Prop :=
  ∀ (s : State) (r : Rail),
    let x := s.rail r
    let only := fun (t : State) => t = { s with power := t.power, fault := t.fault } ∧ ∀ q, q ≠ r → t.rail q = s.rail q
    (s.clock.mainPwr = true → x.good = true →
      (∃ t, exec (.railUv r true) s = .next t ∧ only t ∧ t.rail r = { x with uv := true } ∧
        (.powerRailUv, railDetail r) ∈ (t.unit .power).held) ∧
      (∃ t, exec (.railUv r false) s = .next t ∧ only t ∧ t.rail r = { x with uv := false } ∧
        (.powerRailUv, railDetail r) ∉ (t.unit .power).held) ∧
      (∃ t, exec (.railOc r true) s = .next t ∧ only t ∧ t.rail r = { x with st := .limit } ∧
        (.powerRailOc, railDetail r) ∈ (t.unit .power).held) ∧
      (∃ t, exec (.railOc r false) s = .next t ∧ only t ∧ t.rail r = { x with st := .on } ∧
        (.powerRailOc, railDetail r) ∉ (t.unit .power).held)) ∧
    (s.clock.mainPwr = true → x.low = false →
      ∃ t, exec (.railOv r) s = .next t ∧ only t ∧ t.rail r = { st := .shut, uv := true, ov := true }) ∧
    (∀ v, s.powerUnitUp = true → s.power.charging = true → v < 27000 → ∃ t, exec (.chargeTimeout v) s = .next t ∧
      t.power = { s.power with vbank := v } ∧ ∃ d, (.powerChargeTimeout, d) ∈ (t.unit .power).held)

/-- TEMP_NOW is the highest of the six sensors (R257), and the tenth sample in a row at 112 °C or above asserts THERM_TRIP (R260); the
thermal limit falls at once and rises by at most 6 W, after a second (R259), and keeps running in a RESTART reset of POWER, for which the
sensors are still read (R255); each minute of main-domain power adds 60 s to the hours, and
1 to the one bin of the temperature, and to no other (R243, R244). -/
def Obligations.Temperature : Prop :=
  ∀ (s : State),
    (∀ a b c d p w : Int, s.powerUnitUp = true → ∃ t, exec (.tempSample a b c d p w) s = .next t ∧
      t = { s with power := t.power, fault := t.fault } ∧
      t.power.temp = max (max (max a b) (max c d)) (max p w) ∧
      t.power.tripRun = (if 112 ≤ t.power.temp then min (s.power.tripRun + 1) 10 else 0) ∧
      (s.power.tripRun = 9 → 112 ≤ t.power.temp → (t.unit .power).waiting ≠ none) ∧
      (t.power.temp < 112 → t.fault = s.fault)) ∧
    (∀ a b c d p w : Int, s.clock.mainOn = true → (s.unit .power).restart = true → exec (.tempSample a b c d p w) s = .next { s with power :=
      { s.power with tCtrl := max (max a b) (max c d), tPwr := p, tWick := w } }) ∧
    (∀ ms, s.clock.mainOn = true →
      (s.power.limitNow < s.power.thermal →
        exec (.thermalLimitRecompute ms) s = .next { s with power := { s.power with thermal := s.power.limitNow } }) ∧
      (s.power.thermal < s.power.limitNow → 1000 ≤ ms → exec (.thermalLimitRecompute ms) s =
        .next { s with power := { s.power with thermal := min s.power.limitNow (s.power.thermal + 6000) } }) ∧
      (s.power.thermal ≤ s.power.limitNow → ms < 1000 → exec (.thermalLimitRecompute ms) s = .next s)) ∧
    (s.clock.mainOn = true → ∃ t, exec .healthMinute s = .next t ∧ t = { s with health := t.health } ∧
      t.hget 0x02 = min (s.hget 0x02 + 60) 0xFFFFFFFF ∧
      let up := fun (bin : Nat) => t.hget (0x30 + bin) = min (s.hget (0x30 + bin) + 1) 0xFFFFFFFF ∧
        ∀ k, k < 16 → k ≠ bin → t.hget (0x30 + k) = s.hget (0x30 + k)
      (s.power.temp < 35 → up 0) ∧ (∀ i : Nat, 1 ≤ i → i ≤ 14 → 30 + 5 * (i : Int) ≤ s.power.temp → s.power.temp < 35 + 5 * (i : Int) →
        up i) ∧ (105 ≤ s.power.temp → up 15))

/-- The gauge (R262 to R265, R287): GAUGE_NOW asks for a measurement; one that can start stops the charger; one that has not been able to
start for 2 s, one that has started and not completed within 62 s (R108), or one whose values lie outside R264's limits, fails and owes
three passes; one that passes reports C and ESR. ENERGY_AVAIL is computed from C and VBANK each 10 µs, 0 at or below 8.0 V and before a first
pass, and holds in between. -/
def Obligations.GaugeMeasures : Prop :=
  ∀ (s : State),
    (s.serves 0x2A = true → ∃ t, exec .gaugeNow s = .next t ∧ t.link.status = .ok ∧
      t.power = { s.power with gaugeReq := true }) ∧
    (s.gaugeCan = true → ∃ t, exec .gaugeMeasurement s = .next t ∧ t = { s with power := t.power } ∧ t.power.gauge = .running ∧
      t.power.charging = false ∧ t.power.gaugeReq = false) ∧
    (s.gaugeCan = false → exec .gaugeMeasurement s = .next s) ∧
    (s.powerUnitUp = true → s.power.gauge = .idle → s.gaugeCan = false → s.power.gaugeReq = true →
      ∃ t, exec .gaugeDeferFail s = .next t ∧ t.intake.gaugeOwed = 3 ∧ t.power.gaugeReq = false) ∧
    (s.powerUnitUp = true → s.power.gauge = .running →
      ∃ t, exec .gaugeDeferFail s = .next t ∧ t.intake.gaugeOwed = 3 ∧ t.power.gauge = .idle ∧ t.power.cap = s.power.cap) ∧
    (∀ v0 v1 v2, s.powerUnitUp = true → s.power.gauge = .running →
      let c := gaugeCap v1 v2
      let e := gaugeEsr v0 v1 v2
      (250 ≤ c → c ≤ 12000 → e ≤ 250 → ∃ t, exec (.gaugeMeasurementDone v0 v1 v2) s = .next t ∧ t.power.cap = c ∧
        t.power.esr = e ∧ t.power.gauge = .idle ∧ t.power.gauged = true ∧ t.power.blind = false ∧
        t.intake.gaugeOwed = s.intake.gaugeOwed - 1 ∧
        t.power.avail = s.power.avail) ∧
      (c < 250 ∨ 12000 < c ∨ 250 < e → ∃ t, exec (.gaugeMeasurementDone v0 v1 v2) s = .next t ∧ t.power.gauge = .idle ∧
        t.intake.gaugeOwed = 3 ∧ t.power.cap = s.power.cap)) ∧
    (∀ v, s.powerUnitUp = true → ∃ t, exec (.energyAvailUpdate v) s = .next t ∧ t.power.vbank = v ∧
      t.power.avail = (if s.power.blind = true ∨ v ≤ 8000 then 0 else s.power.cap * (v * v - 64000000) / 2))

/-- The wires (R268, R269, R271): removal and brown-out in READY or DEGRADED leave a trigger that waits for its flush, with its code and
its tick position (R277); a trigger that meets another changes nothing of the flush (R283), but a wire that meets a reset flush, which then
ends on the bank with the rails down (R462). PRESENT# low ends the removal. A loss of VAUX
while the main domain is powered leaves the power path feeding the VAUX domain (R459), and its return ends that path unless a flush
waits (R24). -/
def Obligations.WiresTrigger : Prop :=
  ∀ (s : State) (pos : Nat), s.clock.vauxPor = false →
    let starts := fun (c : Instr) (code : BitVec 3) =>
      (s.clock.mainPwr = true → s.running = true → s.snuff.trigger = none →
        ∃ t, exec c s = .next t ∧
          t.snuff = { after := none, trigger := some code, keepVin := false, endHalt := false, trigPos := max s.lamp.tickPos pos } ∧
          t.clock.dev = s.clock.dev ∧ t.intake = s.intake ∧ t.place = s.place) ∧
      (s.clock.mainPwr = true → s.running = true → s.snuff.trigger ≠ none → ∃ t, exec c s = .next t ∧ t.place = s.place ∧ t.wick = s.wick ∧
        t.snuff = if s.snuff.after = none then s.snuff else { s.snuff with keepVin := false, after := none })
    starts (.removalDetect pos) 1 ∧ starts (.brownOut false pos) 2 ∧ starts (.brownOut true pos) 3 ∧
    (∃ t, exec (.removalDetect pos) s = .next t ∧ t.power.absent = true ∧ t.power.removal = true ∧
      t.lamp = { s.lamp with tickPos := max s.lamp.tickPos pos }) ∧
    (∀ b, ∃ t, exec (.brownOut b pos) s = .next t ∧ t.power.vin = false ∧ t.power.brown = true) ∧
    exec .presentLowQualify s = .next { s with power := { s.power with absent := false, removal := false } } ∧
    exec .vauxLoss s = .next { s with clock := { s.clock with
      vauxPin := false, vauxAlt := s.clock.vauxAlt || s.clock.mainPwr } } ∧
    exec .vauxReturn s = .next { s with clock := { s.clock with
      vauxPin := true, vauxAlt := s.clock.vauxAlt && s.snuff.trigger.isSome } }

/-- The flush of a trigger (R272, R134, R275): with a snuff band held it waits until its first program may start (R186), then writes the pending pieces
as they stand, with their accepted bytes, each with its directory entry (R278), from the lower-numbered held band on (R239, R279), and one anchor pair of the next generation that names that band; the main
domain is then off, DEV_STATE shows SNUFFED, and FLUSH_BY the trigger. A flush that keeps VIN ends in the recovery that mounts READ_ONLY
instead (R450). Bytes given out and not accepted are no pending data (R114). One that the bank cuts short writes no anchor (R280). -/
def Obligations.FlushWrites : Prop :=
  ∀ (s : State) (code : BitVec 3) (f : FlushIn), s.snuff.trigger = some code → s.snuff.endHalt = false → s.snuff.after = none →
    s.link.run = none →
    (s.flushStarts = false → exec (.snufferFlush f) s = .next s) ∧
    (s.flushStarts = true → ∃ t, exec (.snufferFlush f) s = .next t ∧ t.clock.flushBy = code ∧ t.snuff.trigger = none ∧
      (∀ b rest, s.snuffBands = b :: rest → (∃ img, t.journal.snuff = some img ∧ img.trigger = code ∧ img.cycle = s.lamp.cycle ∧
          img.tickPos = s.snuff.trigPos ∧ img.pieces = s.snuffPending ∧ img.dir = s.snuffDir (s.firstCap f b) ∧
          img.bands = (if s.snuffCodewords ≤ s.firstCap f b then [b] else b :: rest.take 1) ∧
          (∀ p ∈ img.pieces, p.inTun = true ∧ (p.unit = none → p.epoch = (s.stream p.stream).epoch →
            p.off + p.data.length ≤ (s.stream p.stream).accept)) ∧
          (s.writeThrough = false → img.pieces = (s.place.pieces.filter fun p => p.inTun).filterMap s.acceptedPart) ∧
          ∀ tail, s.journal.tail = some tail → img.tail = tail) ∧
        (f.failA = 0 → f.failB = 0 → ∃ a p, t.wick.anchors = a :: { a with copyB := true, place := p } :: s.wick.anchors ∧ a.snuff = true ∧ a.copyB = false ∧
          a.gen = s.topGen + 1 ∧ a.snuffLoc = some b)) ∧
      (s.snuff.keepVin = false → t.clock.dev = .snuffed ∧ t.clock.mainPwr = false ∧ t.clock.mainOn = false) ∧
      (s.snuff.keepVin = true → t.clock.dev = .recover ∧ t.clock.mainPwr = s.clock.mainPwr ∧ t.clock.snuffMount = true)) ∧
    (∃ t, exec .bankLowAbort s = .next t ∧ t.clock.dev = .snuffed ∧ t.clock.mainPwr = false ∧ t.clock.flushBy = code ∧
      t.wick.anchors = s.wick.anchors ∧ t.journal.snuff = s.journal.snuff)

/-! ### The host port -/

/-- PERST# and a loss of the link reset the port: configuration back to its defaults, rings, setup and mirror base cleared, the set-mailbox
values kept, credits released, OPEN streams DRAINING; a Function Level Reset does the same but keeps link and credits; D3hot and D0 change nothing else
(R81, R314 to R316). With PERST# released the port trains, a training that fails is reported, and DL_Active ends it (R294, R317). -/
def Obligations.PortResets : Prop :=
  ∀ (s : State), s.Inv → s.clock.vauxPor = false →
    let cleared := fun (t : State) => t.host.mse = false ∧ t.host.bme = false ∧ t.host.ctl = DevCtl.reset ∧ t.host.mps = 128 ∧
      t.host.mrrs = 512 ∧ t.host.msixOn = false ∧ t.host.sqs = [] ∧ t.host.cqs = [] ∧ t.host.active = [] ∧ t.host.mirBase = 0 ∧
      t.host.d3hot = false ∧ t.host.mailbox = s.host.mailbox ∧ t.host.mp = s.host.mp ∧ ∀ i, (t.stream i).st = (if (s.stream i).st = .open then .draining else (s.stream i).st) ∧
        (t.stream i).front = (s.stream i).front
    (s.clock.mainOn = true → ∃ t, exec .perstAssert s = .next t ∧ cleared t ∧ t.host.perst = true ∧ t.host.dlActive = false ∧
      t.intake.credits = 0 ∧ t.clock.cause = s.clock.cause ||| 0x0020) ∧
    (s.hostUp = true → s.host.perst = true → exec .perstDeassert s = .next { s with host := { s.host with
      perst := false, training := true } }) ∧
    (∀ k, s.hostUp = true → s.host.dlActive = true → ∃ t, exec (.surpriseDown k) s = .next t ∧ cleared t ∧
      t.host.dlActive = false ∧ t.host.training = (!s.host.perst) ∧ t.intake.credits = 0 ∧
      t.hget 0x2C = min (s.hget 0x2C + 1) 0xFFFFFFFF ∧ ∃ d, (.hostLinkDown, d) ∈ (t.unit .host).held) ∧
    (s.portUp = true → ∃ t, exec .functionLevelReset s = .next t ∧ cleared t ∧ t.host.dlActive = true ∧
      t.intake.credits = s.intake.credits) ∧
    (s.portUp = true → exec .d3hotEntry s = .next { s with host := { s.host with d3hot := true } } ∧
      ∃ t, exec .d0Return s = .next t ∧ t = { s with host := t.host } ∧
        t.host = { s.host with d3hot := false, out := t.host.out, marksDue := t.host.marksDue } ∧
        (s.upstreamOpen = true → t.host.marksDue = [] ∧ t.host.out.length = s.host.out.length + s.host.marksDue.length)) ∧
    (s.hostUp = true → s.host.training = true → s.host.perst = false →
      (∃ t, exec .trainFail s = .next t ∧ t = { s with fault := t.fault } ∧ (t.unit .host).waiting ≠ none) ∧
      (s.intake.advertised = true → s.canTrain = true → ∃ t, exec .dlActive s = .next t ∧
        t = { s with host := t.host, fault := t.fault } ∧ t.host.dlActive = true ∧ t.host.training = false ∧
        ∀ d, (.hostLinkDown, d) ∉ (t.unit .host).held))

/-- Configuration and BAR2 (R148, R290, R293, R296 to R303, R313): the configuration fields take what they may hold, a base address the
bits above its region's size; a BAR0 read gives zeros, and a read of BAR2 at a tail doorbell the last value written there; a
doorbell below the ring's entries moves its tail or head, and any other puts the ring, or every ring that names it, in ERROR with cause
DOORBELL; a seal mark of a peer, newer than the last, raises m_p and ends its absence, and any other is counted.
A setup record is written in 4 or 8 aligned bytes (R299): the fields of a disabled ring change; a ring that is enabled with valid
fields, and a completion ring that is enabled and valid, starts at head and tail 0, and with others is in ERROR with cause SETUP; an
enabled ring's fields do not change. -/
def Obligations.PortWrites : Prop :=
  (∀ (s : State), s.barOpen = true →
    let consumed := fun (n : Nat) => ({ s with intake := { s.intake with
      credits := s.intake.credits - (n + 15) / 16, hdrCredits := s.intake.hdrCredits - 1 } } : State)
    (∀ ring < 32, s.bar2Read (0x2000 + 8 * ring) 4 = some (leBytes 4 (s.sq ring).tail)) ∧
    (∀ bar0 bar2 mse bme ctl mps mrrs on mask words, ∃ t, exec (.configWrite bar0 bar2 mse bme ctl mps mrrs on mask words) s = .next t ∧
      t = { s with host := t.host } ∧ t.host.bar0 = bar0 &&& 0xFFFFFFFF00000000 ∧ t.host.bar2 = bar2 &&& 0xFFFFFFFFFFF00000 ∧
      t.configIdentity.bar0 = t.host.bar0 ||| 0xC ∧ t.configIdentity.bar2 = t.host.bar2 ||| 0x4 ∧ t.host.mse = mse ∧ t.host.bme = bme ∧ t.host.ctl = ctl ∧ t.host.msixOn = on ∧
      t.host.msixMask = mask ∧ t.host.mps = (if mps = 128 ∨ mps = 256 ∨ mps = 512 then mps else s.host.mps) ∧
      t.host.mrrs = (if mrrsOk mrrs then mrrs else s.host.mrrs)) ∧
    (∀ off len, exec (.bar0Read off len) s = .next { s with host := { s.host with barRead := List.replicate (min len 4096) 0 } }) ∧
    (∀ v, exec (.mirrorBaseWrite v) s = .next { (consumed 8) with host := { s.host with mirBase := v } }) ∧
    exec .sealMarkAbandon s = .next { s with host := { s.host with marksDue := s.host.marksDue.drop 1 } } ∧
    (∀ (ring : BitVec 5) (v : Word), (s.sq ring.toNat).enable = true → (s.sq ring.toNat).error = 0 →
      ∃ t, exec (.tailDoorbell ring v) s = .next t ∧ t = { (consumed 4) with host := t.host } ∧
        (v.toNat % 65536 < (s.sq ring.toNat).entries → t.sq ring.toNat = { s.sq ring.toNat with tail := v.toNat % 65536 }) ∧
        ((s.sq ring.toNat).entries ≤ v.toNat % 65536 → (t.sq ring.toNat).error = 2)) ∧
    (∀ (ring : BitVec 5) (v : Word), (s.cq ring.toNat).enable = true →
      ∃ t, exec (.headDoorbell ring v) s = .next t ∧ t = { (consumed 4) with host := t.host } ∧
        (v.toNat % 65536 < (s.cq ring.toNat).entries → t.cq ring.toNat = { s.cq ring.toNat with head := v.toNat % 65536 }) ∧
        ((s.cq ring.toNat).entries ≤ v.toNat % 65536 → ∀ i < 32, (s.sq i).enable = true → (s.sq i).cq = ring.toNat →
          (t.sq i).error = 2)) ∧
    (∀ (slot : BitVec 3) data, slot.toNat < 6 →
      (s.markOk slot.toNat data = true → ∃ t, exec (.setMailboxWrite slot data) s = .next t ∧
        t.mOf slot.toNat = leNat ((data.drop 4).take 8) ∧ s.mOf slot.toNat < t.mOf slot.toNat ∧
        t.host.missing.getLsbD slot.toNat = false) ∧
      (s.markOk slot.toNat data = false → ∃ t, exec (.setMailboxWrite slot data) s = .next t ∧
        t.hget 0x2B = min (s.hget 0x2B + 1) 0xFFFFFFFF ∧ t.host = s.host)) ∧
    (∀ (off : BitVec 20) len, off.toNat < 0x2000 → len ≠ 8 → ∃ t, exec (.bar2BadWrite off len) s = .next t ∧
      t.hget 0x28 = min (s.hget 0x28 + 1) 0xFFFFFFFF ∧ t = { (consumed len) with health := t.health })) ∧
  (∀ (s : State) (ring off : BitVec 5) (data : List Byte), s.barOpen = true → recordWriteOk off.toNat data = true →
    let i := ring.toNat
    let r := s.sq i
    let n := r.fromBytes (overlay r.bytes off.toNat data)
    let c := s.cq i
    let m := c.fromBytes (overlay c.bytes off.toNat data)
    (∃ t, exec (.setupRecordWrite false ring off data) s = .next t ∧ t = { s with host := t.host, intake := t.intake } ∧
      t.intake.hdrCredits = s.intake.hdrCredits - 1 ∧ (∀ j, j ≠ i → t.sq j = s.sq j) ∧ t.host.cqs = s.host.cqs ∧
      (r.enable = false → n.enable = false → t.sq i = n) ∧
      (r.enable = false → n.enable = true → s.sqOk n = true → t.sq i = { n with head := 0, tail := 0, error := 0 }) ∧
      (r.enable = false → n.enable = true → s.sqOk n = false → (t.sq i).error = 1 ∧ (t.sq i).enable = true) ∧
      (r.enable = true → n.enable = true → t.sq i = r) ∧
      (r.enable = true → n.enable = false → (t.sq i).enable = false)) ∧
    (∃ t, exec (.setupRecordWrite true ring off data) s = .next t ∧ t = { s with host := t.host, intake := t.intake } ∧
      t.host.sqs = s.host.sqs ∧ (∀ j, j ≠ i → t.cq j = s.cq j) ∧
      (c.enable = false → m.enable = false → t.cq i = m) ∧
      (c.enable = false → m.enable = true → (t.cq i).enable = true ∧ (t.cq i).head = 0 ∧ (t.cq i).post = 0 ∧ (t.cq i).base = m.base) ∧
      (c.enable = true → m.enable = true ∨ s.cqHeld i = true → t.cq i = c) ∧
      (c.enable = true → m.enable = false → s.cqHeld i = false → (t.cq i).enable = false)))

/-- The next ring's descriptor is fetched, and one with a length outside its opcode's range ends INVALID at once; a fetch that fails puts
the ring in ERROR with cause FETCH (R302, R304, R305, R308). A finished descriptor's entry is posted at its place in the completion ring;
a coalescing time that has passed signals the ring's vector (R308, R309). -/
def Obligations.RingsRun : Prop :=
  ∀ (s : State), s.upstreamOpen = true → s.hostUp = true →
    (∀ i (b : List Byte), s.fetchState = true → s.host.active.length < 256 → s.nextRing = some i → b.length = 32 →
      (∃ t d, exec (.descriptorFetch (.ok b) false) s = .next t ∧ t = { s with host := t.host } ∧
        t.host.active = s.host.active ++ [d] ∧ d.id = s.host.nextId ∧ d.ring = i ∧ d.cq = (s.sq i).cq ∧ d.opcode = b.getD 0 0 ∧
        d.tag.toNat = leNat ((b.drop 4).take 4) ∧ d.start.toNat = leNat ((b.drop 8).take 8) ∧
        d.buffer.toNat = leNat ((b.drop 24).take 8) ∧ t.host.lastRing = i ∧
        (t.sq i).head = (if (s.sq i).entries = 0 then 0 else ((s.sq i).head + 1) % (s.sq i).entries) ∧
        (d.lenOk = false ∨ d.badRes = true → d.status = some 0x10) ∧ (d.lenOk = true → d.badRes = false → d.status = none)) ∧
      ∃ t, exec (.descriptorFetch .failed false) s = .next t ∧ (t.sq i).error = 3) ∧
    (∀ id d st, s.hdesc id = some d → d.status = some st → d.awaits = [] → ∃ t, exec (.completionPost id) s = .next t ∧
      (∃ rest, t.host.out = s.host.out ++ (.completion ((s.cq d.cq).base + 16 * BitVec.ofNat 64 (s.cq d.cq).post)
        (d.entry st (s.cq d.cq).phase)) :: rest) ∧
      (∀ x ∈ t.host.active, x.id ≠ id) ∧ t = { s with host := t.host }) ∧
    (∀ ring : BitVec 5, 0 < (s.cq ring.toNat).coTime → 0 < (s.cq ring.toNat).since → s.host.msixOn = true →
      s.host.vectorMasked ring.toNat = false → ∃ t, exec (.coalesceTimeout ring) s = .next t ∧
        t.host.out = s.host.out ++ [.vector ring.toNat] ∧ (t.cq ring.toNat).since = 0 ∧ t = { s with host := t.host })

/-- The descriptors' actions (R91, R103, R151, R218, R306, R308): a READ_STREAM that its stream does not allow ends with that status; one
whose bytes are all delivered gives them, and one that meets a piece that fails its check gives the chunks before it and ends DATA_ERROR. A
READ_RANDOM whose map pages are in the Grist gives its units up to the first that fails, a unit never written as zeros; one outside the
region ends RANGE. A CASK_QUERY gives the cask's first bytes, or ends NOT_HELD. What lies on flash is read once the tokens allow it (R186,
R188). The data goes to the descriptor's buffer in writes within the Max Payload Size and a 4 KiB block each (R290, R312). -/
def Obligations.ReadsAnswer : Prop :=
  ∀ (s : State) (id : Nat) (d : HDesc) (back : List (Nat × Option (List Byte))),
    let answers := fun (t : State) (bs : List Byte) (st : Byte) (n : Nat) =>
      t.host.out = s.host.out ++ dataWrites s.host.mps s.host.ctl.relaxed bs.length d.buffer bs ∧
      ∃ x, t.hdesc id = some x ∧ x.status = some st ∧ x.count = n
    let gives := fun (t : State) (bs : List Byte) (st : Byte) (n : Nat) => t = { s with host := t.host } ∧ answers t bs st n
    (s.ready id 1 = some d →
      (∀ st, s.streamCheck d = some st → ∃ t, exec (.readStream id back) s = .next t ∧ gives t [] (hstatusCode st) 0) ∧
      (s.streamCheck d = none → s.hostReads (s.streamReads d.stream.toNat d.start.toNat (d.start.toNat + d.len.toNat)) = true →
        let a := d.start.toNat
        let bs := s.streamBytes d.stream.toNat a d.len.toNat back
        let k := (a + bs.length) / 4096 * 4096 - a
        ∃ t, exec (.readStream id back) s = .next t ∧
          t = { s with host := t.host, place := { s.place with runCache := t.place.runCache } } ∧
          (bs.length = d.len.toNat → answers t bs 0x00 d.len.toNat) ∧
          (bs.length ≠ d.len.toNat → answers t (bs.take k) 0x14 k))) ∧
    (s.ready id 2 = some d →
      (s.unitsOk d = false → ∃ t, exec (.readRandom id back) s = .next t ∧ gives t [] 0x11 0) ∧
      (s.unitsOk d = true → s.stopped .grist = false →
        (∀ u, d.start.toNat ≤ u → u < d.start.toNat + d.len.toNat →
          s.hasFrame (unitLine u).1 = true ∧ s.fetching (unitLine u).1 = false) →
        s.hostReads (s.unitReads (List.range' d.start.toNat d.len.toNat)) = true →
        let got := s.unitRun back (List.range' d.start.toNat d.len.toNat)
        ∃ t, exec (.readRandom id back) s = .next t ∧ t = { s with host := t.host, place := t.place } ∧
          t.place.pieces = s.place.pieces ∧
          answers t got.flatten (if got.length = d.len.toNat then 0x00 else 0x14)
            (if got.length = d.len.toNat then d.len.toNat else 4096 * got.length))) ∧
    (∀ u, (∀ p ∈ s.place.pieces, p.unit ≠ some u) → s.unitData back u = some (List.replicate 4096 0)) ∧
    (s.ready id 4 = some d →
      (s.caskOf d.start = none → ∃ t, exec (.caskQuery id) s = .next t ∧ gives t [] 0x15 0) ∧
      ∀ c, s.caskOf d.start = some c → s.stopped .media = false → s.canUse 0x01 3 (s.caskUnits c) = true → ∃ t, exec (.caskQuery id) s = .next t ∧
        gives t (c.answer.take d.len.toNat) (if c.answer.length ≤ d.len.toNat then 0x00 else 0x01)
          (min d.len.toNat c.answer.length))

/-- A WRITE_RANDOM (R307): in READ_ONLY and outside the region it ends with that status; a unit that is admitted is reserved, 4,112 bytes
of B_pend; the unit whose data arrives is held as a piece with the next entry sequence, and its reservation ends; a fetch that fails ends
it HOST_ERROR with the count of the units accepted. -/
def Obligations.WritesAccept : Prop :=
  ∀ (s : State) (id : Nat) (d : HDesc),
    (s.ready id 3 = some d → d.reserved = 0 →
      (s.clock.dev = .readOnly → ∃ t, exec (.writeRandom id) s = .next t ∧ t = { s with host := t.host } ∧
        ∃ x, t.hdesc id = some x ∧ x.status = some 0x16) ∧
      (s.clock.dev ≠ .readOnly → s.unitsOk d = false → ∃ t, exec (.writeRandom id) s = .next t ∧
        t = { s with host := t.host } ∧ ∃ x, t.hdesc id = some x ∧ x.status = some 0x11) ∧
      (s.unitsOk d = true → d.len = 1 → s.reserveOk d.start.toNat = true → s.hasFrame (unitLine d.start.toNat).1 = true →
        ∃ t, exec (.writeRandom id) s = .next t ∧ t.intake.reserved = s.intake.reserved + 4112 ∧ t.place = s.place ∧
          ∃ x, t.hdesc id = some x ∧ x.reserved = 1 ∧ x.status = none)) ∧
    (s.hdesc id = some d → d.opcode = 3 → d.status = none → d.count < d.reserved → s.upstreamOpen = true → s.hostUp = true →
      s.readIssued d = true → s.stopped .intake = false →
      (∀ data : List Byte, data.length = 4096 → s.unitTurn d (d.start.toNat + d.count) = true →
        ∃ t, exec (.dataFetchDone id (.ok data)) s = .next t ∧ t.intake.entrySeq = s.intake.entrySeq + 1 ∧
          t.intake.reserved = s.intake.reserved - 4112 ∧
          (∃ p ∈ t.place.pieces, p.unit = some (d.start.toNat + d.count) ∧ p.data = data ∧ p.inTun = true ∧
            p.seq = s.intake.entrySeq + 1) ∧
          ∃ x, t.hdesc d.id = some x ∧ x.count = d.count + 1 ∧
            (x.status = some 0x00 ↔ d.count + 1 = d.len.toNat)) ∧
      ∃ t, exec (.dataFetchDone id .failed) s = .next t ∧
        t.intake.reserved = s.intake.reserved - 4112 * (d.reserved - d.count) ∧
        ∃ x, t.hdesc id = some x ∧ x.status = some 0x17 ∧ x.count = d.count)

/-! ### The Weasko link -/

/-- A link reset sends the Lantern string of its state and awaits the selection character, with both counts 0, the match window open and
1-bit mode (R320, R322, R351); 0xF1 selects the native protocol and any other character the Novven one, and four characters with wrong
parity leave the link unselected (R323, R345, R348). A deselected link abandons what it was sending, and an execution that waits sends nothing when
it ends (R337). The Lantern string goes over the wire
in 1-bit mode behind a start symbol; in either mode the symbols of a byte give back the byte (R319, R322). -/
def Obligations.LinkSelects : Prop :=
  ∀ (s : State), s.linkUp = true →
    let l := s.link
    (s.clock.fuseRead = true → l.run = none → ∃ t, exec .linkReset s = .next t ∧ t = { s with link := t.link } ∧ t.link.selected = true ∧
      t.link.awaiting = true ∧ t.link.vr = 0 ∧ t.link.vs = 0 ∧ t.link.matchOpen = true ∧ t.link.width = 0 ∧ t.link.rate = 0 ∧
      t.link.chain = [] ∧ t.link.lantern = s.lanternString ∧ t.link.wire = wireOf 0 s.lanternString ∧ s.lanternString.length = 32 ∧ t.link.last = l.last) ∧
    (∀ b : Byte, byteOfWire 0 (byteSymbols 0 b) = b ∧ byteOfWire 1 (byteSymbols 1 b) = b ∧ (byteSymbols 0 b).length = 8 ∧
      (byteSymbols 1 b).length = 2) ∧
    exec .linkDeselect s = .next { s with link := { l with selected := false, toSend := [], act := .none,
                                                              run := l.run.map fun r => { r with silent := true } } } ∧
    (l.selected = true → l.awaiting = true → l.dead = false → ∀ fails,
      (4 ≤ fails → ∀ ch, ∃ t, exec (.protocolSelect ch fails) s = .next t ∧ t.link = { l with dead := true }) ∧
      (fails < 4 → ∃ t, exec (.protocolSelect 0xF1 fails) s = .next t ∧ t.link = { l with awaiting := false }) ∧
      (fails < 4 → ∀ ch, ch ≠ 0xF1 → ∃ t, exec (.protocolSelect ch fails) s = .next t ∧
        t.link = { l with awaiting := false, novven := true, opSeen := some ch }))

/-- The frames of the native protocol outside messages (R328 to R331, R339): a chained frame in sequence is kept and acknowledged, the
65th is not and ends the chain, one out of sequence is answered SEQUENCE; an acknowledgement brings the response's next frame; an R-frame
with another reason brings the I-frame numbered N(R) again; what is sent is a valid frame to its receiver (R326); a frame
with a wrong CRC is counted and answered CRC, one of length 255 LENGTH; RESYNC_REQ, ABORT_REQ and CHECK_REQ are answered; a SWITCH
without a valid frame in time is undone. -/
def Obligations.FramesAnswer : Prop :=
  ∀ (s : State), s.nativeUp = true → s.link.asleep = false → s.link.switching = none →
    let l := s.link
    let frame := fun (t : State) (kind hi lo : Nat) (info : List Byte) =>
      t.link.sent = some { control := BitVec.ofNat 8 (64 * kind + 8 * hi + lo), info := info, width := l.width }
    (∀ ns (info : List Byte), info.length ≤ 254 → ∃ t, exec (.chainedIFrame ns info) s = .next t ∧ t = { s with link := t.link } ∧
      (l.matchOpen = true ∨ ns = l.vr → l.chainN < 64 → frame t 2 0 (ns + 1).toNat [0] ∧ t.link.vr = ns + 1 ∧
        t.link.chain = l.chain ++ info ∧ t.link.chainN = l.chainN + 1) ∧
      (l.matchOpen = true ∨ ns = l.vr → 64 ≤ l.chainN → frame t 2 0 (ns + 1).toNat [3] ∧ t.link.chain = [] ∧ t.link.chainN = 0) ∧
      (l.matchOpen = false → ns ≠ l.vr → frame t 2 0 l.vr.toNat [2] ∧ t.link.chain = l.chain ∧ t.link.vr = l.vr)) ∧
    (∀ f fs, l.toSend = f :: fs → l.act = .none → ∃ t, exec (.hostRFrame l.vs 0) s = .next t ∧ t = { s with link := t.link } ∧
      frame t (if fs = [] then 0 else 1) l.vs.toNat l.vr.toNat f ∧ t.link.toSend = fs ∧ t.link.vs = l.vs + 1) ∧
    (∀ f nr (reason : Byte), l.lastI = some f → f.control.toNat / 8 % 8 = nr.toNat → reason ≠ 0 →
      exec (.hostRFrame nr reason) s = .next { s with link := { l with sent := some { f with width := l.width } } }) ∧
    (∀ f : Frame, controlOk f.control = true → f.info.length ≤ 254 → receivedFrame f.bytes = some (f.control, f.info)) ∧
    (∃ t, exec .frameCrcError s = .next t ∧ frame t 2 0 l.vr.toNat [1] ∧ t = { s with link := t.link, health := t.health } ∧
      (s.clock.mainOn = true → t.hget 0x2D % 65536 = min (s.hget 0x2D % 65536 + 1) 0xFFFF)) ∧
    (∃ t, exec .length255Frame s = .next t ∧ frame t 2 0 l.vr.toNat [4] ∧ t = { s with link := t.link }) ∧
    (∃ t, exec .resyncReq s = .next t ∧ frame t 3 1 0 [] ∧ t.link.vr = 0 ∧ t.link.vs = 0 ∧ t.link.matchOpen = false ∧
      t.link.chain = [] ∧ t.link.toSend = [] ∧ t.link.last = l.last ∧ t = { s with link := t.link }) ∧
    (∃ t, exec .abortReq s = .next t ∧ frame t 3 3 0 [] ∧ t.link.chain = [] ∧ t.link.toSend = [] ∧ t.link.vr = l.vr ∧
      t.link.vs = l.vs ∧ t = { s with link := t.link }) ∧
    (∀ pattern : List Byte, pattern.length = 8 → ∃ t, exec (.checkReq pattern) s = .next t ∧
      frame t 3 5 0 (pattern.map fun b => ~~~b) ∧ t = { s with link := t.link }) ∧
    (∀ w r c, exec .switchRevert { s with link := { l with switching := some (w, r, c) } } =
      .next { s with link := { l with width := w, rate := r, switching := none } })

/-- Messages (R334, R335, R341 to R343): a message whose N(S) is expected is executed once, and its protocol, N(S), length, CRC and
response are recorded, and the frame is one of the journal tail's while the magazine is in service (R122); the same message again, with the N(S) before, is not executed: the recorded response is sent with REPLAYED set.
A message that fails its check executes nothing and is answered BADMSG; an ECHO is answered with its bytes. -/
def Obligations.MessagesRunOnce : Prop :=
  ∀ (s : State) (ns nr : BitVec 3) (info : List Byte), s.nativeUp = true → s.link.asleep = false → s.link.switching = none →
    s.link.matchOpen = false → s.link.chain = [] → s.link.chainN = 0 → info.length ≤ 254 →
    let flags : Byte := BitVec.ofNat 8 (2 * (if s.clock.mainOn then 0 else 1) + 4 * (if s.link.attnLow then 1 else 0))
    let noted := fun (t : State) (x : LinkLast) => t = { s with link := t.link, journal := t.journal } ∧
      t.journal = if s.running then { s.journal with frames := s.journal.frames ++ [x] } else s.journal
    (ns = s.link.vr → checkMsg info = none → ∃ t x, exec (.messageReceive ns nr info) s = .next t ∧ noted t x ∧
      t.link.vr = ns + 1 ∧ t.link.last = some x ∧ x.proto = 1 ∧ x.ns = ns.setWidth 8 ∧ x.len = info.length ∧
      x.crc = crc32c info ∧ x.response = [flags, 0, 1, 0, 0, statusCode .badmsg] ∧
      (t.link.sent.map Frame.info) = some x.response) ∧
    (∀ data : List Byte, data.length < 249 → ns = s.link.vr → info = [0x0A, BitVec.ofNat 8 data.length, 0] ++ data →
      ∃ t x, exec (.messageReceive ns nr info) s = .next t ∧ noted t x ∧ t.link.last = some x ∧
        x.response = [flags, 0, 1, 0, 0x0A, 0] ++ data ∧ x.crc = crc32c info) ∧
    (∀ x, ns = s.link.vr - 1 → s.link.last = some x → x.proto = 1 → x.ns = ns.setWidth 8 → x.len = info.length →
      x.crc = crc32c info → ∃ t, exec (.messageReceive ns nr info) s = .next t ∧ t = { s with link := t.link } ∧
        t.link.last = some x ∧ t.link.vr = s.link.vr ∧
        ∀ f rest, x.response = f :: rest → x.response.length ≤ 254 → (t.link.sent.map Frame.info) = some ((f ||| 1) :: rest)) ∧
    (ns ≠ s.link.vr → ns ≠ s.link.vr - 1 → ∃ t, exec (.messageReceive ns nr info) s = .next t ∧ t = { s with link := t.link } ∧
      (t.link.sent.map Frame.info) = some [2] ∧ t.link.vr = s.link.vr)

/-- The operations by themselves (R333, R335, R336, R339, R340, R375): a register is read and written, masked or whole; an access past
0x7F but at IND_DATA ends RANGE and executes nothing; an indirect access reads or writes the word at its address, and IND_ADDR stands
one further; SWITCH to a listed mode, SLEEP and WAKE act, and ECHO returns its bytes. -/
def Obligations.SingleOperations : Prop :=
  ∀ (s : State), s.opsOpen = true →
    let l := s.link
    (∀ a : BitVec 8, a.toNat < 128 → a ≠ 0x61 → s.serves a.toNat = true → ∃ t, exec (.readReg a 1) s = .next t ∧
      t.link.status = .ok ∧ t.link.rdata = [s.regValue a.toNat] ∧ t = { s.readEffect a.toNat with link := t.link }) ∧
    (∀ (a n : BitVec 8), a ≠ 0x61 → 128 < a.toNat + n.toNat → n ≠ 0 → n.toNat ≤ 64 → ∃ t, exec (.readReg a n) s = .next t ∧
      t.link.status = .range ∧ t = { s with link := t.link }) ∧
    (∀ v, exec (.writeReg 0x7F [v]) s = .next
      { s with link := { l with status := .ok, rdata := [], act := .none, answer := [], echoReg := v } }) ∧
    (∀ mask v, exec (.writeMasked 0x7F mask v) s = .next
      { s with link := { l with status := .ok, rdata := [], act := .none, answer := [],
                                echoReg := (l.echoReg &&& ~~~mask) ||| (v &&& mask) } }) ∧
    (∀ v, 0x20000 ≤ v.toNat → v.toNat ≤ 0x20007 → ∃ t, exec (.indRead v 1) s = .next t ∧
      t.link.status = .ok ∧ t.link.rdata = [wordAt l.lantern (v.toNat - 0x20000)] ∧ t.link.indAddr = v + 1 ∧
      t = { s with link := t.link }) ∧
    (s.serves 0x03 = true → ∀ v, ∃ t, exec (.indWrite 0x70000 [v]) s = .next t ∧ t.link.status = .ok ∧ t.link.indAddr = 0x70001 ∧
      t.place.cellBaseLo = v ∧ t = { s with link := t.link, place := { s.place with cellBaseLo := v } }) ∧
    (∀ w r : BitVec 8, (w.toNat ≤ 1 → r.toNat ≤ 3 → ∃ t, exec (.switch w r) s = .next t ∧ t = { s with link := t.link } ∧
        t.link.status = .ok ∧ t.link.width = w.toNat ∧ t.link.rate = r.toNat ∧
        t.link.switching = some (l.width, l.rate, false)) ∧
      (1 < w.toNat ∨ 3 < r.toNat → ∃ t, exec (.switch w r) s = .next t ∧ t = { s with link := t.link } ∧ t.link.status = .werr ∧
        t.link.width = l.width ∧ t.link.rate = l.rate)) ∧
    (∃ t, exec .sleep s = .next t ∧ t = { s with link := t.link } ∧ t.link.asleep = true ∧ t.link.status = .ok ∧
      exec .wake t = .next { t with link := { t.link with asleep := false, status := .ok, rdata := [] } }) ∧
    (∀ data : List Byte, data.length ≤ 16000 → exec (.echo data) s = .next
      { s with link := { l with status := .ok, rdata := [], answer := data } })

/-- The Novven protocol (R345 to R349): a header whose XOR matches and that names an operation is accepted; a read answers its result
character, the data and their XOR; a write acts after its XOR character has matched, and with a wrong one is answered BADMSG and executes
nothing; a reset command acts. Each command is recorded with protocol 2, unless a character of it fails its fourth sending: then it is
abandoned, executed or not as far as it came, and a write of which a data character fails so is discarded (R348). The symbols of a character
give back the character. -/
def Obligations.NovvenRuns : Prop :=
  ∀ (s : State), s.novvenUp = true → s.link.asleep = false →
    let l := s.link
    let ok : CharFails := { again := 0, lost := none }
    (∀ b : Byte, novvenByte (novvenSymbols b) = some b ∧ (novvenSymbols b).length = 12) ∧
    (l.command = none → l.opSeen = none → ∀ op addr count chk : Byte,
      (op = 0xA1 ∨ op = 0xA2 → 1 ≤ count.toNat → count.toNat ≤ 16 → chk = op ^^^ addr ^^^ count →
        ∃ t, exec (.novvenHeader op addr count chk ⟨ok, ok⟩) s = .next t ∧ t.link.answer = [0x5A] ∧
          t.link.command = some { op := op, addr := addr, count := count, fails := ok } ∧ t.link.last = l.last) ∧
      (∀ again k f, ∃ t, exec (.novvenHeader op addr count chk ⟨⟨again, some k⟩, f⟩) s = .next t ∧ t.link.command = none ∧
        t.link.answer = [] ∧ t.link.last = l.last ∧ t = { s with link := t.link, health := t.health }) ∧
      (chk ≠ op ^^^ addr ^^^ count → ∃ t, exec (.novvenHeader op addr count chk ⟨ok, ok⟩) s = .next t ∧ t.link.command = none ∧
        t.link.answer = [0x60 + statusCode .badmsg] ∧ (t.link.last.map LinkLast.proto) = some 2)) ∧
    (∀ addr : Byte, l.command = some { op := 0xA1, addr := addr, count := 1, fails := ok } → addr.toNat < 128 → addr ≠ 0x61 →
      s.serves addr.toNat = true → addr ≠ 0x04 → ∃ t, exec .novvenRead s = .next t ∧ t.link.command = none ∧
        let w := leBytes 4 (s.regValue addr.toNat).toNat
        t.link.answer = [0x60] ++ w ++ [w.foldl (fun a b => a ^^^ b) 0] ∧ (t.link.last.map LinkLast.proto) = some 2) ∧
    (∀ v chk, l.command = some { op := 0xA2, addr := 0x7F, count := 1, fails := ok } →
      let w := leBytes 4 v.toNat
      (chk = w.foldl (fun a b => a ^^^ b) 0 → ∃ t, exec (.novvenWrite ⟨[v], ok⟩ chk) s = .next t ∧
        t = { s with link := t.link, journal := t.journal } ∧
        t.link.echoReg = v ∧ t.link.answer = [0x60] ∧ t.link.command = none) ∧
      (chk ≠ w.foldl (fun a b => a ^^^ b) 0 → ∃ t, exec (.novvenWrite ⟨[v], ok⟩ chk) s = .next t ∧
        t = { s with link := t.link, journal := t.journal } ∧
        t.link.echoReg = l.echoReg ∧ t.link.answer = [0x60 + statusCode .badmsg]) ∧
      (∀ again k, ∃ t, exec (.novvenWrite ⟨[v], ⟨again, some k⟩⟩ chk) s = .next t ∧ t.link.echoReg = l.echoReg ∧ t.link.command = none ∧
        t.link.last = l.last ∧ t = { s with link := t.link, health := t.health })) ∧
    (l.command = some { op := 0xA4, addr := 1, count := 0, fails := ok } → ∃ t, exec .novvenReset s = .next t ∧
      t.clock.cause = s.clock.cause ||| 0x0040 ∧ t.link.awaiting = true ∧ t.link.vr = 0 ∧
      t = { s with link := t.link, journal := t.journal, clock := { s.clock with cause := t.clock.cause } })

/-! ### Faults -/

/-- A unit's report (R437 to R440, R443, R446): with nothing latched and in no shadow, it latches the fault at the higher of the unit's
BASE and the cause's own level, with the cause, the detail and the cycle number; with a fault latched, its level rises by at least one,
up to SNUFF, and the first cause stands; one below SNUFF in another unit's shadow is consequential and latches nothing. A report merged into
one that waits counts with it, at the higher of their levels, and the first one's cause and detail are shown. Every BASE resets to 0, NOTE, at
VAUX POR. -/
def Obligations.ReportsLatch : Prop :=
  (∀ (s : State) (p : BitVec 4), s.clock.vauxPor = true → ∃ t, exec (.vauxPorRelease p) s = .next t ∧ ∀ u, (t.unit u).base = 0) ∧
  (∀ (s : State) (u : UnitId) (c : Cause) (d : BitVec 56), s.Inv → causeUnit c = u → (s.clock.mainOn = true ∨ unitVaux u = true) →
    (s.unit u).waiting = none → s.fault.self = false →
    let x := s.unit u
    (s.shadowsOver u = [] ∨ causeLevel c = 3 → x.latched = false → ∃ t, exec (.errorReport u (some (c, d))) s = .next t ∧
      (t.unit u).latched = true ∧ (t.unit u).level = max x.base (causeLevel c) ∧ (t.unit u).cause = causeCode c ∧
      (t.unit u).detail = d ∧ (t.unit u).cycle = BitVec.ofNat 32 s.lamp.cycle ∧ (t.unit u).count = min 255 (x.count + 1)) ∧
    (s.shadowsOver u = [] ∨ causeLevel c = 3 → x.latched = true → ∃ t, exec (.errorReport u (some (c, d))) s = .next t ∧
      (t.unit u).latched = true ∧ (t.unit u).level = min 3 (max (max x.base (causeLevel c)) (x.lastLevel + 1)) ∧
      (t.unit u).cause = x.cause ∧ (t.unit u).detail = x.detail ∧ (t.unit u).cycle = x.cycle ∧
      (t.unit u).count = min 255 (x.count + 1)) ∧
    (s.shadowsOver u ≠ [] → causeLevel c < 3 → ∃ t, exec (.errorReport u (some (c, d))) s = .next t ∧
      (t.unit u).conseq = true ∧ (t.unit u).shadowed = true ∧ (t.unit u).latched = x.latched ∧ (t.unit u).level = x.level ∧
      (t.unit u).count = x.count)) ∧
  (∀ (s : State) (u : UnitId) (c : Cause) (d : BitVec 56) (w : Report), s.Inv → causeUnit c = u → (s.clock.mainOn = true ∨ unitVaux u = true) →
    let x := s.unit u
    x.waiting = some w → x.merged = [] → w.echo = false → s.shadowsOver u = [] → x.latched = false → s.fault.self = false →
    ∃ t, exec (.errorReport u (some (c, d))) s = .next t ∧ (t.unit u).latched = true ∧
      (t.unit u).level = max x.base (max (causeLevel w.cause) (causeLevel c)) ∧ (t.unit u).cause = causeCode w.cause ∧
      (t.unit u).detail = w.detail ∧ (t.unit u).count = min 255 (x.count + 2))

/-- The reactions and what ends them (R439, R441, R442, R446, R449): a core's watchdog and a PLL's loss of lock restart their unit and
open its shadow, a PLL running no more until it locks again; a unit is released from its RESTART reset, CLOCK once its PLL is up; the
shadow of a unit that has been released ends; a mismatch of the two copies sets FAULT_STATUS[31] with the register's address. -/
def Obligations.ReactionsRun : Prop :=
  ∀ (s : State),
    (∀ c : Core,
      let u := match c with
        | .front => UnitId.front
        | .back => UnitId.back
      let bit := match c with
        | .front => 9
        | .back => 10
      s.coreRuns c = true → (s.unit u).waiting = none → (s.unit u).latched = false → s.shadowsOver u = [] →
      (s.unit u).base ≤ 2 → s.fault.self = false → ∃ t, exec (.watchdog c) s = .next t ∧ (t.unit u).latched = true ∧
        (t.unit u).level = 2 ∧ (t.unit u).restart = true ∧ (t.unit u).shadow = true ∧
        t.clock.cause = s.clock.cause ||| (1#14 <<< bit)) ∧
    (∀ p, s.clock.vauxPor = false → (s.clock.pll p).up = true → (s.clock.pll p).fallback = false →
      (s.unit .clock).waiting = none → (s.unit .clock).latched = false → (s.unit .clock).restart = false →
      s.shadowsOver .clock = [] → (s.unit .clock).base ≤ 2 → s.fault.self = false → ∃ t, exec (.pllUnlock p) s = .next t ∧
        (t.unit .clock).latched = true ∧ (t.unit .clock).restart = true ∧ t.clock.pll p = ⟨false, false⟩ ∧
        t.fault.pllShad = some p) ∧
    (∀ u, (s.unit u).restart = true → (u ≠ .clock ∨ ∀ p, s.fault.pllShad = some p → (s.clock.pll p).up = true) →
      ∃ t, exec (.unitRestartRelease u) s = .next t ∧ (t.unit u).restart = false ∧ (t.unit u).shadow = (s.unit u).shadow ∧
        ∀ v, v ≠ u → t.unit v = s.unit v) ∧
    (∀ u, (s.unit u).shadow = true → (s.unit u).restart = false → ∃ t, exec (.shadowEnd u) s = .next t ∧
      t = { s with fault := t.fault } ∧ (t.unit u).shadow = false ∧ ∀ v, v ≠ u → (t.unit v).shadow = (s.unit v).shadow) ∧
    (∀ a w b, ∃ t, exec (.dupMismatch a w b) s = .next t ∧ t.fault.self = true ∧
      (s.fault.self = false → t.fault.selfAddr = a ∧ t.fault.selfCyc = BitVec.ofNat 32 s.lamp.cycle ∧ t.fault.selfCnt = 1) ∧
      (s.fault.self = true → t.fault.selfAddr = s.fault.selfAddr ∧ t.fault.selfCnt = min 255 (s.fault.selfCnt + 1)))

/-- The memories (R372, R387, R393 to R397): an uncorrectable word is counted and poisoned, and its unit's line asserted the first time; a
corrected one is counted and asserts nothing; a lap of the scrubber is recorded; the oldest entry that waits is examined, and a row that
recurs or was uncorrectable is retired while a spare is left, and reported without one; a rebuilt word is no longer poisoned. -/
def Obligations.MemoriesReport : Prop :=
  ∀ (s : State),
    (∀ (h : EccHit) (k : BitVec 3), s.hitOk h = true →
      let m := h.mem.toNat
      let x := s.memory m
      ∃ t, exec (.scrubAccess (some h) k none) s = .next t ∧ t = { s with mem := t.mem, fault := t.fault, health := t.health } ∧
        (h.uncorr = true → (t.memory m).uncorr = min (x.uncorr + 1) 255 ∧ (t.memory m).corr = x.corr ∧
          h.word.toNat ∈ (t.memory m).poison ∧
          (h.word.toNat ∉ x.poison → (t.unit (causeUnit (uncorrCause m))).waiting ≠ none) ∧
          (h.word.toNat ∈ x.poison → t.fault = s.fault)) ∧
        (h.uncorr = false → (t.memory m).corr = min (x.corr + 1) 65535 ∧ (t.memory m).uncorr = x.uncorr ∧ t.fault = s.fault)) ∧
    (∀ (k : BitVec 3) (ms : Nat), s.memUp k.toNat = true → ∃ t, exec (.scrubAccess none k (some ms)) s = .next t ∧
      t = { s with mem := t.mem } ∧ (t.memory k.toNat).lap = min ms 0xFFFFFF) ∧
    (∀ i e, s.clock.mainOn = true → s.mem.firstWaiting = some (i, e) → e.hit.mem ≠ 0 →
      let m := e.hit.mem.toNat
      let row := e.hit.word.toNat / memRowWords m
      ∃ t, exec .eccEntryExamine s = .next t ∧ t = { s with mem := t.mem, fault := t.fault, health := t.health } ∧
        tget EccEntry.none t.mem.log i = { e with waiting := false } ∧
        (e.recur = false → e.hit.uncorr = false → t.fault = s.fault ∧ t.mem.mems = s.mem.mems) ∧
        (e.recur = true ∨ e.hit.uncorr = true →
          ((s.memory m).retired.length < memSpares m →
            (t.memory m).retired = (s.memory m).retired ++ [row] ∧ t.fault = s.fault) ∧
          (memSpares m ≤ (s.memory m).retired.length → t.mem.mems = s.mem.mems ∧
            (t.unit (causeUnit (noSpareCause m))).waiting ≠ none))) ∧
    (∀ (k : BitVec 3) (w : BitVec 24), s.memUp k.toNat = true → (k = 1 ∨ k = 2 ∨ k = 3) → w.toNat ∈ (s.memory k.toNat).poison →
      ∃ t, exec (.poisonRebuild k w) s = .next t ∧ t = { s with mem := t.mem } ∧ w.toNat ∉ (t.memory k.toNat).poison ∧
        ∀ j, j ≠ k.toNat → t.memory j = s.memory j)

/-! ### The Wick -/

/-- READ_MARGIN, PROGRAM and OTP_PROGRAM (R406, R410, R413, R430): a descriptor that starts ends with its status; a failed host read, or a
range that is not blank, programs nothing; one whose source HOST may not read now waits (R312); the units of plane L then hold what was programmed; an OTP unit is programmed once. -/
def Obligations.WickPrograms : Prop :=
  ∀ (s : State) (i : Nat) (d : WDesc), d.valid = true →
    let ends := fun (st : Byte) => (.next { s with wick := s.wick.endAt i st } : Host.Outcome State Fault Refusal)
    (s.wickNext wopReadMargin = some (i, d) →
      exec (.wickReadMargin true) s = ends 0x00 ∧ exec (.wickReadMargin false) s = ends 0x01) ∧
    (s.wickNext wopProgram = some (i, d) → s.sourceOpen d = false → ∀ b v src, exec (.wickProgram b v src) s = .next s) ∧
    (s.wickNext wopOtp = some (i, d) → s.sourceOpen d = false → ∀ v src, exec (.otpProgram v src) s = .next s) ∧
    (s.wickNext wopProgram = some (i, d) → s.sourceOpen d = true →
      (∀ b v, exec (.wickProgram b v .failed) s = ends 0x07) ∧
      (∀ v data, exec (.wickProgram false v (.ok data)) s = ends 0x02) ∧
      (∀ v data, s.wick.targetUsed d = true → exec (.wickProgram true v (.ok data)) s = ends 0x02) ∧
      (∀ v data, s.wick.targetUsed d = false → ∃ t, exec (.wickProgram true v (.ok data)) s = .next t ∧ t = { s with wick := t.wick, fault := t.fault } ∧
        t.wick.queue = (s.wick.endAt i (if v then 0x00 else 0x03)).queue ∧ t.wick.anchors = s.wick.anchors ∧
        (d.sector < 16 → d.sector ∉ t.wick.blankL ∧ (v = false → d.sector ∈ t.wick.badL) ∧ ∀ j, j < d.count → data.length = 32 * d.count →
          tget [] t.wick.lUnits (8192 * d.sector + d.first + j) = (data.drop (32 * j)).take 32) ∧
        (16 ≤ d.sector → s.wick.phys (d.sector - 16) ∈ t.wick.usedP))) ∧
    (s.wickNext wopOtp = some (i, d) → s.sourceOpen d = true →
      (∀ v, exec (.otpProgram v .failed) s = ends 0x07) ∧
      ((∃ u ∈ d.units, u ∈ s.wick.otpDone) → ∀ v data, exec (.otpProgram v (.ok data)) s = ends 0x02) ∧
      ((∀ u ∈ d.units, u ∉ s.wick.otpDone) → ∀ data : List Byte, data.length = 32 * d.count →
        ∃ t, exec (.otpProgram true (.ok data)) s = .next t ∧ t = { s with wick := t.wick } ∧
          t.wick.queue = (s.wick.endAt i 0x00).queue ∧ t.wick.otpDone = s.wick.otpDone ++ d.units ∧
          ∀ k, k < 32 * d.count → tget 0xFF t.wick.otp (32 * d.first + k) = data.getD k 0xFF))

/-- Erases (R133, R408, R410, R411, R413 to R416, R418): one starts only with its intent in a programmed pair; host software suspends and
resumes the erase of the sector it names, and is REFUSED where there is none to suspend or resume; an access of a core suspends an erase of
its plane, and one of the sector itself is reported; a brown-out ends the pulse; ROTATE copies the live records of logical sector 0 into
logical sector 8 and moves WBASE on by one; a completion leaves the queue, and a host's is shown. -/
def Obligations.WickErases : Prop :=
  ∀ (s : State),
    let w := s.wick
    (∀ i d f, s.wickNext wopErase = some (i, d) → d.valid = true → (16 ≤ d.sector → w.phys (d.sector - 16) ∉ w.retired) →
      (d.sector < 16 → w.autoSus = true ∨ f = false) → w.erase = none →
      (∀ k, w.intentOn = true → w.intent = some (d.sector, k) → exec (.wickErase f) s =
        .next { s with wick := { w with erase := some { sector := d.sector, hostSus := false, autoSus := false } } }) ∧
      (w.intentOn = false → exec (.wickErase f) s = .next s)) ∧
    (∀ i d, s.wickUp = true → liveAt wopSuspend w.queue 0 = some (i, d) →
      (∀ e, w.erase = some e → e.sector = d.sector → e.held = false → exec .wickEraseSuspend s =
        .next { s with wick := ({ w with erase := some { e with hostSus := true } } : WickState).endAt i 0x00 }) ∧
      ((∀ e, w.erase = some e → e.sector ≠ d.sector ∨ e.held = true) →
        exec .wickEraseSuspend s = .next { s with wick := w.endAt i 0x0A })) ∧
    (∀ i d, s.wickUp = true → liveAt wopResume w.queue 0 = some (i, d) →
      (∀ e, w.erase = some e → e.sector = d.sector → e.held = true → exec .wickEraseResume s =
        .next { s with wick := ({ w with erase := some { e with hostSus := false, autoSus := false } } : WickState).endAt i 0x00 }) ∧
      ((∀ e, w.erase = some e → e.sector ≠ d.sector ∨ e.held = false) →
        exec .wickEraseResume s = .next { s with wick := w.endAt i 0x0A })) ∧
    (∀ i d x, s.wickNext wopRotate = some (i, d) → w.rotateReady = true → w.intentOn = true → w.intent = some (x, 3) →
      ∃ t, exec .rotate s = .next t ∧ t = { s with wick := t.wick } ∧ t.wick.wbase = (w.wbase + 1) % 48 ∧ t.wick.erases = 0 ∧
        t.wick.intent = none ∧ t.wick.anchors = w.anchors ∧
        t.wick.queue.map (fun q => (q.who, q.status)) = (w.endAt i 0x00).queue.map (fun q => (q.who, q.status)) ∧
        (w.phys 8 ∉ w.retired → ∀ y ∈ w.recs, y.place / 64 = w.phys 0 → w.isLive y = true → y.kind ≠ recKey →
          { y with place := 64 * w.phys 8 + y.place % 64 } ∈ t.wick.recs)) ∧
    (∀ i d st e v b, s.clock.mainOn = true → s.stopped .wick = false → endedAt w.queue 0 = some (i, d, st) → d.headerLast = false →
      ∃ t more, exec (.wickDescComplete e v b) s = .next t ∧ t.wick.queue = w.queue.eraseIdx i ++ more ∧
        t.wick.hostDone = (if d.who = .hostSw then w.hostDone ++ [(d.tag, st)] else w.hostDone) ∧ t.wick.anchors = w.anchors) ∧
    (∀ i d e v b, s.wickUp = true → endedAt w.queue 0 = none → w.erase = some e → erasingAt w w.queue 0 = some (i, d) →
      e.held = false → ∃ t more, exec (.wickDescComplete true v b) s = .next t ∧ t.wick.erase = none ∧
        t.wick.doneSec = some d.sector ∧ t.wick.queue = (w.endAt i 0x00).queue.eraseIdx i ++ more ∧
        (d.sector < 16 → d.sector ∈ t.wick.blankL ∧ tget 0 t.wick.wearL d.sector = tget 0 w.wearL d.sector + 1) ∧
        (16 ≤ d.sector → 24 ≤ d.sector ∨ w.sinceWear < 31 → w.phys (d.sector - 16) ∉ t.wick.usedP)) ∧
    (∀ e (sec : BitVec 6) (q : BitVec 4), w.erase = some e → s.clock.mainOn = true →
      (e.sector = sec.toNat → ∃ t, exec (.planeAccessSuspend sec q) s = .next t ∧ t = { s with fault := t.fault } ∧
        (t.unit .wick).waiting ≠ none) ∧
      (e.sector ≠ sec.toNat → (e.sector < 16 ∧ sec.toNat < 16 ∧ w.autoSus = true) ∨ (16 ≤ e.sector ∧ 16 ≤ sec.toNat) →
        exec (.planeAccessSuspend sec q) s = .next { s with wick := { w with erase := some { e with autoSus := true } } })) ∧
    (∀ e, w.erase = some e → s.wickUp = true → exec .eraseAutoResume s =
      .next { s with wick := { w with erase := some { e with autoSus := false } } }) ∧
    (∀ i d e, w.erase = some e → erasingAt w w.queue 0 = some (i, d) → e.held = false → s.clock.mainOn = true →
      ∃ t, exec (.wickBrownout true) s = .next t ∧ t = { s with wick := t.wick } ∧ t.wick.tripped = true ∧ t.wick.erase = none ∧
        t.wick.suspect = w.suspect ++ [e.sector] ∧ t.wick.queue = (w.endAt i 0x06).queue) ∧
    exec (.wickBrownout false) s = .next { s with wick := { w with tripped := false } }

/-! ### Start-up and recovery -/

/-- Power comes up (R458, R460, R464, R468, R470, R471, R473, R474): VAUX POR resets LAMP, LINK, the collector and CLOCK and samples the
straps; the fuse map in force is the copy that is intact, and none where two intact copies differ; VIN POR brings the rails up and begins
BOOT; a PLL locks, or falls back; the memory fill releases the units and the port trains unless PERST# is low, and ends in HALTED where
the fabric or the NAND PLL has fallen back. -/
def Obligations.PowerComesUp : Prop :=
  ∀ (s : State),
    (s.clock.mainPwr = false → s.clock.vauxPor = false → ∃ t, exec .vauxPorAssert s = .next t ∧ t = { s with clock := t.clock } ∧
      t.clock.vauxPor = true ∧ t.clock.vauxPin = false) ∧
    (s.clock.vauxPor = true → ∀ p : BitVec 4, ∃ t, exec (.vauxPorRelease p) s = .next t ∧
      t = { s with lamp := t.lamp, link := t.link, fault := t.fault, clock := t.clock,
                   intake := { s.intake with trimHi := none } } ∧ t.clock.vauxPor = false ∧
      t.clock.bootSrc = p.setWidth 2 ∧ t.clock.clkMode = (p >>> 2).setWidth 2 ∧ t.lamp = LampState.reset ∧
      t.fault = FaultState.reset ∧ t.link.selected = s.link.selected) ∧
    (s.clock.vauxPor = false → s.clock.fuseRead = false →
      let a := s.wick.otpBytes 256 128
      let b := s.wick.otpBytes 384 128
      ∃ t, exec (.fuseMapRead []) s = .next t ∧ t = { s with clock := t.clock, wick := t.wick, draws := t.draws } ∧
        t.clock.fuseRead = true ∧ t.clock.serialHash = BitVec.ofNat 64 (leNat (s.wick.otpBytes 8 8)) ∧
        (mapIntact a = true → mapIntact b = true → a = b → t.clock.fuseMap = some a ∧ t.clock.pinConf = false) ∧
        (mapIntact a = true → mapIntact b = true → a ≠ b → t.clock.fuseMap = none ∧ t.clock.pinConf = true) ∧
        (mapIntact a = true → mapIntact b = false → t.clock.fuseMap = some a ∧ t.clock.pinConf = false) ∧
        (mapIntact a = false → mapIntact b = true → t.clock.fuseMap = some b ∧ t.clock.pinConf = false) ∧
        (mapIntact a = false → mapIntact b = false → t.clock.fuseMap = none ∧ t.clock.pinConf = false)) ∧
    (s.clock.vauxPor = false → s.clock.mainPwr = false → s.clock.vinArmed = true → s.power.absent = false →
      ∃ t, exec .vinPor s = .next t ∧ t.clock.mainPwr = true ∧ t.clock.dev = .boot ∧ t.clock.phase = .plls ∧ t.clock.step = 0 ∧
        t.clock.vinArmed = false ∧ t.clock.cause = s.clock.cause ||| 0x0002 ∧ t.power.vin = true ∧
        (∀ r, (t.rail r).st = .ramp) ∧ t.journal.powerUps = s.journal.powerUps + 1 ∧ t.lamp = s.lamp) ∧
    (s.clock.vauxPor = false → s.clock.mainPwr = true ∨ s.clock.vinArmed = false → s.power.absent = false →
      ∃ t, exec .vinPor s = .next t ∧ t = { s with power := t.power, fault := t.fault } ∧ t.power.vin = true) ∧
    (∀ p, s.pllWaits p = true →
      (∃ t, exec (.pllLock p) s = .next t ∧ t = { s with clock := t.clock, power := t.power } ∧ t.clock.pll p = ⟨true, false⟩ ∧
        (s.clock.phase = .plls → p ≠ .tick → ∀ r, (s.rail r).st = .ramp → (t.rail r).st = .on) ∧
        (s.clock.phase = .plls → (∀ q, q ≠ p → (s.clock.pll q).up = true) → t.clock.phase = .fill)) ∧
      ((s.unit .clock).restart = false → ∃ t, exec (.pllLockTimeout p) s = .next t ∧
        t = { s with clock := t.clock, power := t.power } ∧
        t.clock.pll p = ⟨true, true⟩ ∧ t.clock.fallback = true)) ∧
    (s.clock.phase = .fill → s.clock.pllFabric.up = true → ∃ t, exec .memoryFill s = .next t ∧ t.clock.mainOn = true ∧
      t.clock.filled = true ∧ t.host.training = !s.host.perst ∧
      (s.clock.pllFabric.fallback = false → s.clock.pllNand.fallback = false → t.clock.phase = .hold ∧
        t.clock.dev = s.clock.dev) ∧
      (s.clock.pllFabric.fallback = true ∨ s.clock.pllNand.fallback = true → t.clock.dev = .halted)) ∧
    (s.clock.phase = .hold → exec .holdWindowEnd s = .next { s with clock := { s.clock with phase := .image } })

/-- Which BOOT_SRC the next start takes (R478): from DOWNLOAD, WARM and SOFT_RESET have it taken as 0, once; COLD and VIN POR use what was
sampled. A sampled 3 leads to DOWNLOAD again, and a start that takes 0 to the slot that the BOOT record names, where its image starts. -/
def Obligations.ResetsChooseTheBootSource : Prop :=
  (∀ (s : State), s.clock.dev = .download → s.opsOpen = true →
    (s.warmRefused = false → s.clock.mainPwr = true → ∃ t, exec .resetCmdWarm s = .next t ∧ t.clock.bootAs00 = true ∧
      t.clock.bootSrc = s.clock.bootSrc) ∧
    (s.serves 0x03 = true → s.warmRefused = false → s.clock.mainPwr = true → ∃ t, exec .softReset s = .next t ∧
      t.clock.bootAs00 = true ∧ t.clock.bootSrc = s.clock.bootSrc) ∧
    (s.coldRefused = false → ∃ t, exec .resetCmdCold s = .next t ∧ t.clock.bootAs00 = false ∧ t.clock.bootSrc = s.clock.bootSrc)) ∧
  (∀ (s : State), s.clock.vauxPor = false → s.clock.mainPwr = false → s.clock.vinArmed = true → s.power.absent = false →
    ∃ t, exec .vinPor s = .next t ∧ t.clock.bootAs00 = false ∧ t.clock.bootSrc = s.clock.bootSrc) ∧
  (∀ (s : State) (a b : Bool), s.clock.phase = .image → s.clock.bootHold = false → s.stopped .front = false →
    ∃ t, exec (.bootImageLoad a b) s = .next t ∧ t.clock.bootAs00 = false ∧ t.clock.bootSrc = s.clock.bootSrc ∧
      (s.clock.bootAs00 = false → s.clock.bootSrc = 3 → t.clock.dev = .download) ∧
      (s.clock.bootAs00 = true → let w := (s.bootCheck []).wick
        w.slotStarts w.namedSlot (if w.namedSlot then b else a) = true → t.clock.dev = s.clock.dev ∧
          t.wick.slotB = w.namedSlot ∧ t.clock.image = if w.namedSlot then 1 else 0))

/-- The image and the firmware (R425, R427, R429, R432, R472, R473, R476, R477): BOOT_SRC 1 and 2 take slot A and B, 0 the one that the
BOOT record names and else the other, and where none can start, or BOOT_SRC is 3, DOWNLOAD is entered; a trial start is used up. The
firmware's start takes the highest key generation, unwraps its key (R101), clears the stream table and enters RECOVER, or HALTED with unit 3 of the OTP row
uncorrectable. -/
def Obligations.ImagesStart : Prop :=
  ∀ (s : State),
    (∀ a b, s.clock.phase = .image → s.clock.bootHold = false → s.stopped .front = false →
      let w := (s.bootCheck []).wick
      let src := if s.clock.bootAs00 then 0 else s.clock.bootSrc
      let okA := w.slotStarts false a
      let okB := w.slotStarts true b
      ∃ t, exec (.bootImageLoad a b) s = .next t ∧ t.clock.bootAs00 = false ∧
        (src = 0 → t.wick.boot = w.startRecord.boot ∧ (∀ b, w.boot = some b → b.trial = false → t.wick.boot = some b) ∧
          ∀ b, w.boot = some b → b.trial = true → 0 < b.starts → w.freePlace recBoot false ≠ none →
            t.wick.boot = some { b with starts := b.starts - 1 }) ∧
        (src ≠ 0 → t.wick.boot = w.boot) ∧
        ((src = 1 ∧ okA = true) ∨ (src = 0 ∧ okA = true ∧ (w.namedSlot = false ∨ okB = false)) →
          t.clock.phase = .discovery ∧ t.clock.image = 0 ∧ t.wick.slotB = false ∧ t.link.fwVersion = s.wick.hdrA ∧
          t.clock.dev = s.clock.dev) ∧
        ((src = 2 ∧ okB = true) ∨ (src = 0 ∧ okB = true ∧ (w.namedSlot = true ∨ okA = false)) →
          t.clock.phase = .discovery ∧ t.clock.image = 1 ∧ t.wick.slotB = true ∧ t.link.fwVersion = s.wick.hdrB ∧
          t.clock.dev = s.clock.dev) ∧
        (src = 3 ∨ (okA = false ∧ okB = false) ∨ (src = 1 ∧ okA = false) ∨ (src = 2 ∧ okB = false) →
          t.clock.dev = .download ∧ t.clock.image = 2)) ∧
    (s.clock.phase = .discovery → s.discovered = true →
      (3 ∉ s.wick.otpBad → ∃ t, exec .firmwareStart s = .next t ∧ t.clock.dev = .recover ∧ t.clock.step = 2 ∧
        t.clock.fwUp = true ∧ t.intake.keyGen = max s.wick.keyA s.wick.keyB ∧
        (max s.wick.keyA s.wick.keyB = 0 → t.intake.keyReady = false) ∧
        (∀ k, 0 < max s.wick.keyA s.wick.keyB → keyUnwrap s.wick.wrapKey s.wick.liveKey = some k →
          t.intake.keyReady = true ∧ t.intake.key = k) ∧ t.intake.streams = []) ∧
      (3 ∈ s.wick.otpBad → ∃ t, exec .firmwareStart s = .next t ∧ t.clock.dev = .halted ∧ t.wick = s.wick))

/-- Recovery (R83, R135 to R145): from an anchor without a tie, with dies enough for a journal and a token for its pair, it leaves RECOVER with STEP 9, every stream
FREE, CLOSED or FAULTED and all of its recovered bytes durable, and one anchor pair of the next generation; the firmware runs in READY,
DEGRADED or READ_ONLY. A blank magazine is initialized: no stream, one key, code 6, or 7 without snuff bands. With keys and no anchor it
ends in HALTED with code 5, and writes nothing. -/
def Obligations.Recovers : Prop :=
  ∀ (s : State) (r : RecoveryIn), s.clock.dev = .recover → s.recoverUp = true →
    let left := fun (t : State) => (t.clock.dev = .ready ∨ t.clock.dev = .degraded ∨ t.clock.dev = .readOnly) ∧
      t.clock.step = 9 ∧ t.clock.recMs = BitVec.ofNat 16 (min r.ms 65535) ∧ t.lamp.cycle = s.lamp.cycle
    (∀ a, (s.chooseAnchor r.badSeqs).anchor = some a → (s.chooseAnchor r.badSeqs).tie = false → s.tooFewDies = false → 0 < s.wick.tokens →
      ∃ t, exec (.recovery r) s = .next t ∧ left t ∧
        (∀ i, ((t.stream i).st = .free ∨ (t.stream i).st = .closed ∨ (t.stream i).st = .faulted) ∧
          (t.stream i).durable = (t.stream i).accept) ∧
        (∃ x p, t.wick.anchors = x :: { x with copyB := true, place := p } :: s.wick.anchors ∧ x.gen = s.topGen + 1 ∧ x.snuff = false)) ∧
    ((s.chooseAnchor r.badSeqs).anchor = none → s.wick.keyA = 0 → s.wick.keyB = 0 → s.tooFewDies = false → 0 < s.wick.tokens →
      ∃ t, exec (.recovery r) s = .next t ∧ left t ∧ t.intake.streams = [] ∧
        ((s.bootCheck r.badSeqs).wick.freePlace recKey false ≠ none → (s.bootCheck r.badSeqs).wick.freePlace recKey true ≠ none →
          t.wick.keyA = 1 ∧ t.wick.keyB = 1) ∧
        t.intake.keyGen = 1 ∧ (t.clock.recCode = 6 ∨ (t.clock.recCode = 7 ∧ t.clock.dev = .readOnly))) ∧
    ((s.chooseAnchor r.badSeqs).anchor = none → s.wick.keyA ≠ 0 ∨ s.wick.keyB ≠ 0 → ∃ t, exec (.recovery r) s = .next t ∧
      t.clock.dev = .halted ∧ t.clock.recCode = 5 ∧ t.wick = s.wick ∧ t.journal = s.journal ∧ t.place = s.place)

/-! ### Frames -/

/-- What of a next state t of a command from s may differ: s with the parts that the command may write, as t has them. A command that may
write almost any register, and the power events that reset the main domain, leave the queue alone. -/
def commandFrame (c : Instr) (s t : State) : State :=
  match c with
  | .vauxPorRelease _ =>
    { s with lamp := t.lamp, link := t.link, fault := t.fault, intake := t.intake, clock := t.clock }
  | .vauxLoss | .vauxPorAssert | .holdWindowEnd | .vauxReturn => { s with clock := t.clock }
  | .phaseInEdge _ _ | .windowOpen _ | .windowEnd _ => { s with lamp := t.lamp }
  | .linkDeselect | .chainedIFrame _ _ | .length255Frame | .resyncReq | .abortReq | .checkReq _ | .switchRevert | .wake |
    .echo _ => { s with link := t.link }
  | .trainFail | .shadowEnd _ => { s with fault := t.fault }
  | .zqCalibrationShort _ | .tempRetrain _ _ | .tokenWaitAge _ _ | .mediaParity _ _ _ | .mediaErase _ _ _ |
    .markRead _ _ _ | .refreshUrgentAge _ _ => { s with media := t.media }
  | .perstDeassert | .d3hotEntry | .d0Return | .bar0Read _ _ | .caskQuery _ | .completionPost _ | .coalesceTimeout _ |
    .sealMarkAbandon | .configWrite _ _ _ _ _ _ _ _ _ _ => { s with host := t.host }
  | .thermalLimitRecompute _ | .gaugeMeasurement | .presentLowQualify => { s with power := t.power }
  | .wickReadMargin _ | .wickErase _ | .wickEraseSuspend | .wickEraseResume | .otpProgram _ _ | .rotate | .eraseAutoResume |
    .wickBrownout _ | .anchorTokenAdd => { s with wick := t.wick }
  | .poisonRebuild _ _ => { s with mem := t.mem }
  | .healthMinute => { s with health := t.health }
  | .pllLock _ => { s with clock := t.clock, power := t.power }
  | .protocolSelect _ _ | .frameCrcError => { s with link := t.link, health := t.health }
  | .retrainCheck _ _ | .descriptorStart _ _ _ _ => { s with fault := t.fault, media := t.media }
  | .descriptorFetch _ _ | .dlActive => { s with fault := t.fault, host := t.host }
  | .railUv _ _ | .railOv _ | .railOc _ _ | .chargeTimeout _ | .tempSample _ _ _ _ _ _ => { s with fault := t.fault, power := t.power }
  | .wickProgram _ _ _ | .planeAccessSuspend _ _ => { s with fault := t.fault, wick := t.wick }
  | .functionLevelReset | .tailDoorbell _ _ | .headDoorbell _ _ | .setupRecordWrite _ _ _ _ | .mirrorBaseWrite _ =>
    { s with intake := t.intake, host := t.host }
  | .closeDoorbell _ _ | .bar2BadWrite _ _ => { s with intake := t.intake, health := t.health }
  | .mediaProgram _ _ _ _ | .piecePlacement _ | .runPageWrite | .snuffBandCheck _ _ => { s with media := t.media, place := t.place }
  | .feature _ _ => { s with media := t.media, draws := t.draws }
  | .bandRelease _ => { s with place := t.place, journal := t.journal }
  | .readStream _ _ => { s with place := t.place, host := t.host }
  | .perstAssert => { s with clock := t.clock, intake := t.intake, host := t.host }
  | .fuseMapRead _ => { s with clock := t.clock, wick := t.wick, draws := t.draws }
  | .tickLost _ _ _ => { s with lamp := t.lamp, link := t.link, host := t.host }
  | .tailGraceExpire _ => { s with lamp := t.lamp, intake := t.intake, health := t.health }
  | .creditGrant => { s with link := t.link, intake := t.intake, host := t.host }
  | .novvenHeader _ _ _ _ _ => { s with link := t.link, journal := t.journal, health := t.health }
  | .anchorPairWrite _ _ _ _ _ => { s with fault := t.fault, journal := t.journal, wick := t.wick }
  | .scrubAccess _ _ _ | .eccEntryExamine => { s with fault := t.fault, mem := t.mem, health := t.health }
  | .wtFlushStart => { s with intake := t.intake, media := t.media, place := t.place }
  | .sealStart | .journalTailCommit => { s with media := t.media, place := t.place, journal := t.journal }
  | .gristMiss _ | .readRandom _ _ => { s with media := t.media, place := t.place, host := t.host }
  | .cycCountRead | .frontierLoRead _ => { s with lamp := t.lamp, link := t.link, intake := t.intake, draws := t.draws }
  | .wickDescComplete _ _ _ => { s with link := t.link, fault := t.fault, host := t.host, wick := t.wick }
  | .setMailboxWrite _ _ => { s with link := t.link, intake := t.intake, host := t.host, health := t.health }
  | .scrubVisit _ _ _ _ => { s with link := t.link, media := t.media, host := t.host, health := t.health }
  | .cellarPageFetched _ _ => { s with link := t.link, place := t.place, host := t.host, health := t.health }
  | .surpriseDown _ => { s with fault := t.fault, intake := t.intake, host := t.host, health := t.health }
  | .channelTraining _ _ | .channelRetrain _ _ | .dieTimeout _ _ _ _ _ | .rebuild _ _ | .spargeCopy _ _ |
    .refreshRewrite _ _ _ => { s with fault := t.fault, media := t.media, place := t.place, health := t.health }
  | .writeRandom _ | .dataFetchDone _ _ => { s with intake := t.intake, media := t.media, place := t.place, host := t.host }
  | .memoryFill => { s with clock := t.clock, link := t.link, fault := t.fault, intake := t.intake, host := t.host }
  | .bootImageLoad _ _ => { s with clock := t.clock, link := t.link, intake := t.intake, host := t.host, wick := t.wick }
  | .energyShortfallTimeout => { s with clock := t.clock, link := t.link, intake := t.intake, host := t.host, health := t.health }
  | .resetDie _ _ _ => { s with fault := t.fault, media := t.media, place := t.place, health := t.health, draws := t.draws }
  | .apertureWrite _ _ _ _ _ =>
    { s with link := t.link, fault := t.fault, intake := t.intake, place := t.place, host := t.host, health := t.health }
  | .mediaRead _ _ _ | .descriptorComplete _ _ _ | .kilnBatch _ =>
    { s with link := t.link, fault := t.fault, media := t.media, place := t.place, host := t.host, health := t.health }
  | .mediaDiscovery _ =>
    { s with link := t.link, fault := t.fault, media := t.media, place := t.place, health := t.health, draws := t.draws }
  | .gaugeDeferFail | .gaugeMeasurementDone _ _ _ | .energyAvailUpdate _ =>
    { s with clock := t.clock, link := t.link, fault := t.fault, intake := t.intake, host := t.host, power := t.power, health := t.health }
  | .firmwareStart =>
    { s with clock := t.clock, link := t.link, intake := t.intake, place := t.place, host := t.host, wick := t.wick, draws := t.draws }
  | .unitRestartRelease _ =>
    { s with clock := t.clock, link := t.link, fault := t.fault, intake := t.intake, media := t.media, host := t.host, power := t.power, health := t.health }
  | .sealComplete =>
    { t with pending := s.pending, clock := s.clock, power := s.power, snuff := s.snuff, wick := s.wick, mem := s.mem, draws := s.draws }
  | .marker _ _ | .generatedMarker _ | .acquireSynthMarker _ | .flywheelSynthMarker _ | .tickLimitMarker _ =>
    { t with pending := s.pending, power := s.power, snuff := s.snuff, wick := s.wick, mem := s.mem, draws := s.draws }
  | .vinPor | .bankLowAbort | .hostRFrame _ _ | .dupMismatch _ _ _ | .pllLockTimeout _ =>
    { t with pending := s.pending, lamp := s.lamp, draws := s.draws }
  | .removalDetect _ | .brownOut _ _ | .errorReport _ _ | .watchdog _ | .pllUnlock _ =>
    { t with pending := s.pending, draws := s.draws }
  | .novvenRead => { t with pending := s.pending, snuff := s.snuff }
  | .cycSrcWrite _ _ | .cycPeriodWrite _ | .cycCountHiWrite _ | .cycCountWrite _ | .planWinWrite _ | .registerWrite _ _ _ |
    .stCmdOpen | .stCmdEnd | .stCmdResume | .stCmdDelete | .tunAck _ | .mirrorWrite _ | .stTrimHiWrite _ |
    .stTrimLoWrite _ | .streamSelWrite _ | .throughNoteProgrammed | .cryptoErase | .softReset | .bootHoldWrite _ |
    .recovery _ | .indAddrWrite _ | .indDataAccess _ | .gaugeNow | .snufferFlush _ | .linkReset | .messageReceive _ _ _ |
    .readReg _ _ | .writeReg _ _ | .writeMasked _ _ _ | .indRead _ _ | .indWrite _ _ | .resetCmdLink | .resetCmdWarm |
    .resetCmdCold | .switch _ _ | .sleep | .novvenWrite _ _ | .novvenReset | .irqEnableWrite _ | .faultAckWrite _ |
    .faultAckSelf | .setCtrlWrite _ | .memRetireWrite _ | .memPwrWrite _ | .memTestEnWrite _ | .memTestRead |
    .memTestWriteRaw | .memTestWriteChecked | .wickSubmit _ | .wickDoneTake | .cellarBaseWrite _ _ => { t with pending := s.pending }

/-- The frame of every command: outside the parts that the command may write, the state after it is the state before it. -/
def Obligations.CommandsKeepTheRest : Prop :=
  ∀ (c : Instr) (s t : State), exec c s = .next t → t = commandFrame c s t
end

