-- ==== Sys2Proof/Laws/Sparse.lean ====
section
/-! SUPPORT. The laws of the sparse tables: a read after a write, and that every operation keeps the canonical form. -/
namespace Sys2Proof.Machine
open Sys2Proof

section
set_option Elab.async false

variable {α : Type}

@[simp] theorem tget_nil (d : α) (a : Nat) : tget d [] a = d := rfl

/-- A key that no entry carries reads as the default. -/
theorem tget_absent (d : α) (m : Sparse α) (a : Nat) (h : ∀ e ∈ m, e.1 ≠ a) : tget d m a = d := by
  induction m with
  | nil => rfl
  | cons e m ih =>
    obtain ⟨k, v⟩ := e
    have hk : k ≠ a := h (k, v) (by simp)
    simp [tget, hk, ih fun x hx => h x (by simp [hx])]

theorem tget_tdel_same (d : α) (m : Sparse α) (a : Nat) : tget d (tdel m a) a = d :=
  tget_absent d _ a fun e he => by simpa [tdel] using (List.mem_filter.mp he).2

theorem tget_tdel_ne (d : α) (m : Sparse α) {a b : Nat} (h : b ≠ a) : tget d (tdel m a) b = tget d m b := by
  induction m with
  | nil => rfl
  | cons e m ih =>
    obtain ⟨k, v⟩ := e
    by_cases hk : k = a
    · subst hk
      have hb : ¬ k = b := fun x => h x.symm
      simpa [tdel, tget, hb] using ih
    · by_cases hb : k = b
      · subst hb
        simp [tdel, tget, hk]
      · simpa [tdel, tget, hk, hb] using ih

theorem tget_tins_same (d : α) (m : Sparse α) (a : Nat) (v : α) (h : ∀ e ∈ m, e.1 ≠ a) : tget d (tins a v m) a = v := by
  induction m with
  | nil => simp [tins, tget]
  | cons e m ih =>
    obtain ⟨k, w⟩ := e
    have hk : k ≠ a := h (k, w) (by simp)
    by_cases hl : a < k
    · simp [tins, hl, tget]
    · simp [tins, hl, tget, hk, ih fun x hx => h x (by simp [hx])]

theorem tget_tins_ne (d : α) (m : Sparse α) {a b : Nat} (v : α) (h : b ≠ a) : tget d (tins a v m) b = tget d m b := by
  have ha : ¬ a = b := fun x => h x.symm
  induction m with
  | nil => simp [tins, tget, ha]
  | cons e m ih =>
    obtain ⟨k, w⟩ := e
    by_cases hl : a < k
    · simp [tins, hl, tget, ha]
    · rw [show tins a v ((k, w) :: m) = (k, w) :: tins a v m by simp [tins, hl]]
      by_cases hk : k = b
      · simp [tget, hk]
      · simp [tget, hk, ih]

variable [DecidableEq α]

/-- A read of the key just written gives the value written. -/
@[simp] theorem tget_tset_same (d : α) (m : Sparse α) (a : Nat) (v : α) : tget d (tset d m a v) a = v := by
  by_cases hv : v = d
  · simp [tset, hv, tget_tdel_same]
  · simp only [tset, hv, if_false]
    exact tget_tins_same d _ a v fun e he => by simpa [tdel] using (List.mem_filter.mp he).2

/-- A write leaves every other key alone. -/
theorem tget_tset_ne (d : α) (m : Sparse α) {a b : Nat} (v : α) (h : b ≠ a) : tget d (tset d m a v) b = tget d m b := by
  by_cases hv : v = d
  · simp [tset, hv, tget_tdel_ne d m h]
  · simp [tset, hv, tget_tins_ne d _ v h, tget_tdel_ne d m h]

/-! ### The canonical form -/

@[simp] theorem twf_nil (d : α) : twf d [] = true := rfl

theorem twf_cons (d : α) (k : Nat) (v : α) (m : Sparse α) :
    twf d ((k, v) :: m) = true ↔ v ≠ d ∧ (∀ e ∈ m, k < e.1) ∧ twf d m = true := by
  simp [twf, and_assoc]

/-- Entries taken away leave the form. -/
theorem twf_filter (d : α) (m : Sparse α) (p : Nat × α → Bool) (h : twf d m = true) : twf d (m.filter p) = true := by
  induction m with
  | nil => rfl
  | cons e m ih =>
    obtain ⟨k, v⟩ := e
    obtain ⟨hv, hlt, hm⟩ := (twf_cons d k v m).mp h
    by_cases hp : p (k, v) = true
    · rw [List.filter_cons_of_pos hp]
      exact (twf_cons d k v _).mpr ⟨hv, fun e he => hlt e (List.mem_filter.mp he).1, ih hm⟩
    · rw [List.filter_cons_of_neg hp]
      exact ih hm

omit [DecidableEq α] in
theorem mem_tins (a : Nat) (v : α) (m : Sparse α) (e : Nat × α) (h : e ∈ tins a v m) : e = (a, v) ∨ e ∈ m := by
  induction m with
  | nil => simpa [tins] using h
  | cons x m ih =>
    obtain ⟨k, w⟩ := x
    by_cases hl : a < k
    · simpa [tins, hl] using h
    · simp only [tins, hl, if_false, List.mem_cons] at h
      rcases h with h | h
      · exact .inr (by simp [h])
      · rcases ih h with h | h
        · exact .inl h
        · exact .inr (by simp [h])

theorem twf_tins (d : α) (a : Nat) (v : α) (m : Sparse α) (hv : v ≠ d) (ha : ∀ e ∈ m, e.1 ≠ a) (h : twf d m = true) :
    twf d (tins a v m) = true := by
  induction m with
  | nil => simp [tins, twf, hv]
  | cons e m ih =>
    obtain ⟨k, w⟩ := e
    obtain ⟨hw, hlt, hm⟩ := (twf_cons d k w m).mp h
    have hk : k ≠ a := ha (k, w) (by simp)
    by_cases hl : a < k
    · simp only [tins, hl, if_true]
      refine (twf_cons d a v _).mpr ⟨hv, fun e he => ?_, h⟩
      rcases List.mem_cons.mp he with he | he
      · rw [he]; exact hl
      · exact Nat.lt_trans hl (hlt e he)
    · simp only [tins, hl, if_false]
      refine (twf_cons d k w _).mpr ⟨hw, fun e he => ?_, ih (fun e he => ha e (by simp [he])) hm⟩
      rcases mem_tins a v m e he with he | he
      · rw [he]; show k < a; omega
      · exact hlt e he

/-- A write keeps the form. -/
theorem twf_tset (d : α) (m : Sparse α) (a : Nat) (v : α) (h : twf d m = true) : twf d (tset d m a v) = true := by
  by_cases hv : v = d
  · simp only [tset, hv, if_true]; exact twf_filter d m _ h
  · simp only [tset, hv, if_false]
    exact twf_tins d a v _ hv (fun e he => by simpa [tdel] using (List.mem_filter.mp he).2) (twf_filter d m _ h)

theorem mem_tmap (d : α) (f : Nat → α → α) (m : Sparse α) (e : Nat × α) (h : e ∈ tmap d f m) : ∃ x ∈ m, x.1 = e.1 := by
  induction m with
  | nil => simp [tmap] at h
  | cons y m ih =>
    obtain ⟨k, v⟩ := y
    by_cases hd : f k v = d
    · simp only [tmap, hd, if_true] at h
      obtain ⟨x, hx, hk⟩ := ih h
      exact ⟨x, by simp [hx], hk⟩
    · simp only [tmap, hd, if_false, List.mem_cons] at h
      rcases h with h | h
      · exact ⟨(k, v), by simp, by rw [h]⟩
      · obtain ⟨x, hx, hk⟩ := ih h
        exact ⟨x, by simp [hx], hk⟩

/-- A change of every entry keeps the form. -/
theorem twf_tmap (d : α) (f : Nat → α → α) (m : Sparse α) (h : twf d m = true) : twf d (tmap d f m) = true := by
  induction m with
  | nil => rfl
  | cons e m ih =>
    obtain ⟨k, v⟩ := e
    obtain ⟨_, hlt, hm⟩ := (twf_cons d k v m).mp h
    by_cases hd : f k v = d
    · simp only [tmap, hd, if_true]; exact ih hm
    · simp only [tmap, hd, if_false]
      refine (twf_cons d k _ _).mpr ⟨hd, fun e he => ?_, ih hm⟩
      obtain ⟨x, hx, hk⟩ := mem_tmap d f m e he
      rw [← hk]; exact hlt x hx

/-- What a change of every entry gives at a key, where the change leaves the default alone. -/
theorem tget_tmap (d : α) (f : Nat → α → α) (m : Sparse α) (a : Nat) (hf : f a d = d) (h : twf d m = true) :
    tget d (tmap d f m) a = f a (tget d m a) := by
  induction m with
  | nil => simp [tmap, tget, hf]
  | cons e m ih =>
    obtain ⟨k, v⟩ := e
    obtain ⟨_, hlt, hm⟩ := (twf_cons d k v m).mp h
    by_cases hk : k = a
    · subst hk
      have habs : tget d (tmap d f m) k = d := tget_absent d _ k fun e he => by
        obtain ⟨x, hx, hxk⟩ := mem_tmap d f m e he
        have := hlt x hx
        omega
      by_cases hd : f k v = d
      · simp [tmap, hd, tget, habs]
      · simp [tmap, hd, tget]
    · by_cases hd : f k v = d
      · simp [tmap, hd, tget, hk, ih hm]
      · simp [tmap, hd, tget, hk, ih hm]

end

end Sys2Proof.Machine
end

