-- ==== Sys2Proof/Laws/State.lean ====
section
/-! SUPPORT. One equation per field of State and per unit's update: what each update changes, and that it changes nothing
else. -/
namespace Sys2Proof.Machine
open Sys2Proof

section
set_option Elab.async false

variable (s : State)

/-! ### onClock -/

@[simp] theorem State.onClock_clock (f : ClockState → ClockState) : (s.onClock f).clock = f s.clock := rfl
@[simp] theorem State.onClock_lamp (f : ClockState → ClockState) : (s.onClock f).lamp = s.lamp := rfl
@[simp] theorem State.onClock_link (f : ClockState → ClockState) : (s.onClock f).link = s.link := rfl
@[simp] theorem State.onClock_fault (f : ClockState → ClockState) : (s.onClock f).fault = s.fault := rfl
@[simp] theorem State.onClock_intake (f : ClockState → ClockState) : (s.onClock f).intake = s.intake := rfl
@[simp] theorem State.onClock_media (f : ClockState → ClockState) : (s.onClock f).media = s.media := rfl
@[simp] theorem State.onClock_place (f : ClockState → ClockState) : (s.onClock f).place = s.place := rfl
@[simp] theorem State.onClock_journal (f : ClockState → ClockState) : (s.onClock f).journal = s.journal := rfl
@[simp] theorem State.onClock_host (f : ClockState → ClockState) : (s.onClock f).host = s.host := rfl
@[simp] theorem State.onClock_power (f : ClockState → ClockState) : (s.onClock f).power = s.power := rfl
@[simp] theorem State.onClock_snuff (f : ClockState → ClockState) : (s.onClock f).snuff = s.snuff := rfl
@[simp] theorem State.onClock_wick (f : ClockState → ClockState) : (s.onClock f).wick = s.wick := rfl
@[simp] theorem State.onClock_mem (f : ClockState → ClockState) : (s.onClock f).mem = s.mem := rfl
@[simp] theorem State.onClock_health (f : ClockState → ClockState) : (s.onClock f).health = s.health := rfl
@[simp] theorem State.onClock_draws (f : ClockState → ClockState) : (s.onClock f).draws = s.draws := rfl
@[simp] theorem State.onClock_pending (f : ClockState → ClockState) : (s.onClock f).pending = s.pending := rfl

/-! ### onLamp -/

@[simp] theorem State.onLamp_clock (f : LampState → LampState) : (s.onLamp f).clock = s.clock := rfl
@[simp] theorem State.onLamp_lamp (f : LampState → LampState) : (s.onLamp f).lamp = f s.lamp := rfl
@[simp] theorem State.onLamp_link (f : LampState → LampState) : (s.onLamp f).link = s.link := rfl
@[simp] theorem State.onLamp_fault (f : LampState → LampState) : (s.onLamp f).fault = s.fault := rfl
@[simp] theorem State.onLamp_intake (f : LampState → LampState) : (s.onLamp f).intake = s.intake := rfl
@[simp] theorem State.onLamp_media (f : LampState → LampState) : (s.onLamp f).media = s.media := rfl
@[simp] theorem State.onLamp_place (f : LampState → LampState) : (s.onLamp f).place = s.place := rfl
@[simp] theorem State.onLamp_journal (f : LampState → LampState) : (s.onLamp f).journal = s.journal := rfl
@[simp] theorem State.onLamp_host (f : LampState → LampState) : (s.onLamp f).host = s.host := rfl
@[simp] theorem State.onLamp_power (f : LampState → LampState) : (s.onLamp f).power = s.power := rfl
@[simp] theorem State.onLamp_snuff (f : LampState → LampState) : (s.onLamp f).snuff = s.snuff := rfl
@[simp] theorem State.onLamp_wick (f : LampState → LampState) : (s.onLamp f).wick = s.wick := rfl
@[simp] theorem State.onLamp_mem (f : LampState → LampState) : (s.onLamp f).mem = s.mem := rfl
@[simp] theorem State.onLamp_health (f : LampState → LampState) : (s.onLamp f).health = s.health := rfl
@[simp] theorem State.onLamp_draws (f : LampState → LampState) : (s.onLamp f).draws = s.draws := rfl
@[simp] theorem State.onLamp_pending (f : LampState → LampState) : (s.onLamp f).pending = s.pending := rfl

/-! ### onLink -/

@[simp] theorem State.onLink_clock (f : LinkState → LinkState) : (s.onLink f).clock = s.clock := rfl
@[simp] theorem State.onLink_lamp (f : LinkState → LinkState) : (s.onLink f).lamp = s.lamp := rfl
@[simp] theorem State.onLink_link (f : LinkState → LinkState) : (s.onLink f).link = f s.link := rfl
@[simp] theorem State.onLink_fault (f : LinkState → LinkState) : (s.onLink f).fault = s.fault := rfl
@[simp] theorem State.onLink_intake (f : LinkState → LinkState) : (s.onLink f).intake = s.intake := rfl
@[simp] theorem State.onLink_media (f : LinkState → LinkState) : (s.onLink f).media = s.media := rfl
@[simp] theorem State.onLink_place (f : LinkState → LinkState) : (s.onLink f).place = s.place := rfl
@[simp] theorem State.onLink_journal (f : LinkState → LinkState) : (s.onLink f).journal = s.journal := rfl
@[simp] theorem State.onLink_host (f : LinkState → LinkState) : (s.onLink f).host = s.host := rfl
@[simp] theorem State.onLink_power (f : LinkState → LinkState) : (s.onLink f).power = s.power := rfl
@[simp] theorem State.onLink_snuff (f : LinkState → LinkState) : (s.onLink f).snuff = s.snuff := rfl
@[simp] theorem State.onLink_wick (f : LinkState → LinkState) : (s.onLink f).wick = s.wick := rfl
@[simp] theorem State.onLink_mem (f : LinkState → LinkState) : (s.onLink f).mem = s.mem := rfl
@[simp] theorem State.onLink_health (f : LinkState → LinkState) : (s.onLink f).health = s.health := rfl
@[simp] theorem State.onLink_draws (f : LinkState → LinkState) : (s.onLink f).draws = s.draws := rfl
@[simp] theorem State.onLink_pending (f : LinkState → LinkState) : (s.onLink f).pending = s.pending := rfl

/-! ### onFault -/

@[simp] theorem State.onFault_clock (f : FaultState → FaultState) : (s.onFault f).clock = s.clock := rfl
@[simp] theorem State.onFault_lamp (f : FaultState → FaultState) : (s.onFault f).lamp = s.lamp := rfl
@[simp] theorem State.onFault_link (f : FaultState → FaultState) : (s.onFault f).link = s.link := rfl
@[simp] theorem State.onFault_fault (f : FaultState → FaultState) : (s.onFault f).fault = f s.fault := rfl
@[simp] theorem State.onFault_intake (f : FaultState → FaultState) : (s.onFault f).intake = s.intake := rfl
@[simp] theorem State.onFault_media (f : FaultState → FaultState) : (s.onFault f).media = s.media := rfl
@[simp] theorem State.onFault_place (f : FaultState → FaultState) : (s.onFault f).place = s.place := rfl
@[simp] theorem State.onFault_journal (f : FaultState → FaultState) : (s.onFault f).journal = s.journal := rfl
@[simp] theorem State.onFault_host (f : FaultState → FaultState) : (s.onFault f).host = s.host := rfl
@[simp] theorem State.onFault_power (f : FaultState → FaultState) : (s.onFault f).power = s.power := rfl
@[simp] theorem State.onFault_snuff (f : FaultState → FaultState) : (s.onFault f).snuff = s.snuff := rfl
@[simp] theorem State.onFault_wick (f : FaultState → FaultState) : (s.onFault f).wick = s.wick := rfl
@[simp] theorem State.onFault_mem (f : FaultState → FaultState) : (s.onFault f).mem = s.mem := rfl
@[simp] theorem State.onFault_health (f : FaultState → FaultState) : (s.onFault f).health = s.health := rfl
@[simp] theorem State.onFault_draws (f : FaultState → FaultState) : (s.onFault f).draws = s.draws := rfl
@[simp] theorem State.onFault_pending (f : FaultState → FaultState) : (s.onFault f).pending = s.pending := rfl

/-! ### onIntake -/

@[simp] theorem State.onIntake_clock (f : IntakeState → IntakeState) : (s.onIntake f).clock = s.clock := rfl
@[simp] theorem State.onIntake_lamp (f : IntakeState → IntakeState) : (s.onIntake f).lamp = s.lamp := rfl
@[simp] theorem State.onIntake_link (f : IntakeState → IntakeState) : (s.onIntake f).link = s.link := rfl
@[simp] theorem State.onIntake_fault (f : IntakeState → IntakeState) : (s.onIntake f).fault = s.fault := rfl
@[simp] theorem State.onIntake_intake (f : IntakeState → IntakeState) : (s.onIntake f).intake = f s.intake := rfl
@[simp] theorem State.onIntake_media (f : IntakeState → IntakeState) : (s.onIntake f).media = s.media := rfl
@[simp] theorem State.onIntake_place (f : IntakeState → IntakeState) : (s.onIntake f).place = s.place := rfl
@[simp] theorem State.onIntake_journal (f : IntakeState → IntakeState) : (s.onIntake f).journal = s.journal := rfl
@[simp] theorem State.onIntake_host (f : IntakeState → IntakeState) : (s.onIntake f).host = s.host := rfl
@[simp] theorem State.onIntake_power (f : IntakeState → IntakeState) : (s.onIntake f).power = s.power := rfl
@[simp] theorem State.onIntake_snuff (f : IntakeState → IntakeState) : (s.onIntake f).snuff = s.snuff := rfl
@[simp] theorem State.onIntake_wick (f : IntakeState → IntakeState) : (s.onIntake f).wick = s.wick := rfl
@[simp] theorem State.onIntake_mem (f : IntakeState → IntakeState) : (s.onIntake f).mem = s.mem := rfl
@[simp] theorem State.onIntake_health (f : IntakeState → IntakeState) : (s.onIntake f).health = s.health := rfl
@[simp] theorem State.onIntake_draws (f : IntakeState → IntakeState) : (s.onIntake f).draws = s.draws := rfl
@[simp] theorem State.onIntake_pending (f : IntakeState → IntakeState) : (s.onIntake f).pending = s.pending := rfl

/-! ### onMedia -/

@[simp] theorem State.onMedia_clock (f : MediaState → MediaState) : (s.onMedia f).clock = s.clock := rfl
@[simp] theorem State.onMedia_lamp (f : MediaState → MediaState) : (s.onMedia f).lamp = s.lamp := rfl
@[simp] theorem State.onMedia_link (f : MediaState → MediaState) : (s.onMedia f).link = s.link := rfl
@[simp] theorem State.onMedia_fault (f : MediaState → MediaState) : (s.onMedia f).fault = s.fault := rfl
@[simp] theorem State.onMedia_intake (f : MediaState → MediaState) : (s.onMedia f).intake = s.intake := rfl
@[simp] theorem State.onMedia_media (f : MediaState → MediaState) : (s.onMedia f).media = f s.media := rfl
@[simp] theorem State.onMedia_place (f : MediaState → MediaState) : (s.onMedia f).place = s.place := rfl
@[simp] theorem State.onMedia_journal (f : MediaState → MediaState) : (s.onMedia f).journal = s.journal := rfl
@[simp] theorem State.onMedia_host (f : MediaState → MediaState) : (s.onMedia f).host = s.host := rfl
@[simp] theorem State.onMedia_power (f : MediaState → MediaState) : (s.onMedia f).power = s.power := rfl
@[simp] theorem State.onMedia_snuff (f : MediaState → MediaState) : (s.onMedia f).snuff = s.snuff := rfl
@[simp] theorem State.onMedia_wick (f : MediaState → MediaState) : (s.onMedia f).wick = s.wick := rfl
@[simp] theorem State.onMedia_mem (f : MediaState → MediaState) : (s.onMedia f).mem = s.mem := rfl
@[simp] theorem State.onMedia_health (f : MediaState → MediaState) : (s.onMedia f).health = s.health := rfl
@[simp] theorem State.onMedia_draws (f : MediaState → MediaState) : (s.onMedia f).draws = s.draws := rfl
@[simp] theorem State.onMedia_pending (f : MediaState → MediaState) : (s.onMedia f).pending = s.pending := rfl

/-! ### onPlace -/

@[simp] theorem State.onPlace_clock (f : PlaceState → PlaceState) : (s.onPlace f).clock = s.clock := rfl
@[simp] theorem State.onPlace_lamp (f : PlaceState → PlaceState) : (s.onPlace f).lamp = s.lamp := rfl
@[simp] theorem State.onPlace_link (f : PlaceState → PlaceState) : (s.onPlace f).link = s.link := rfl
@[simp] theorem State.onPlace_fault (f : PlaceState → PlaceState) : (s.onPlace f).fault = s.fault := rfl
@[simp] theorem State.onPlace_intake (f : PlaceState → PlaceState) : (s.onPlace f).intake = s.intake := rfl
@[simp] theorem State.onPlace_media (f : PlaceState → PlaceState) : (s.onPlace f).media = s.media := rfl
@[simp] theorem State.onPlace_place (f : PlaceState → PlaceState) : (s.onPlace f).place = f s.place := rfl
@[simp] theorem State.onPlace_journal (f : PlaceState → PlaceState) : (s.onPlace f).journal = s.journal := rfl
@[simp] theorem State.onPlace_host (f : PlaceState → PlaceState) : (s.onPlace f).host = s.host := rfl
@[simp] theorem State.onPlace_power (f : PlaceState → PlaceState) : (s.onPlace f).power = s.power := rfl
@[simp] theorem State.onPlace_snuff (f : PlaceState → PlaceState) : (s.onPlace f).snuff = s.snuff := rfl
@[simp] theorem State.onPlace_wick (f : PlaceState → PlaceState) : (s.onPlace f).wick = s.wick := rfl
@[simp] theorem State.onPlace_mem (f : PlaceState → PlaceState) : (s.onPlace f).mem = s.mem := rfl
@[simp] theorem State.onPlace_health (f : PlaceState → PlaceState) : (s.onPlace f).health = s.health := rfl
@[simp] theorem State.onPlace_draws (f : PlaceState → PlaceState) : (s.onPlace f).draws = s.draws := rfl
@[simp] theorem State.onPlace_pending (f : PlaceState → PlaceState) : (s.onPlace f).pending = s.pending := rfl

/-! ### onJournal -/

@[simp] theorem State.onJournal_clock (f : JournalState → JournalState) : (s.onJournal f).clock = s.clock := rfl
@[simp] theorem State.onJournal_lamp (f : JournalState → JournalState) : (s.onJournal f).lamp = s.lamp := rfl
@[simp] theorem State.onJournal_link (f : JournalState → JournalState) : (s.onJournal f).link = s.link := rfl
@[simp] theorem State.onJournal_fault (f : JournalState → JournalState) : (s.onJournal f).fault = s.fault := rfl
@[simp] theorem State.onJournal_intake (f : JournalState → JournalState) : (s.onJournal f).intake = s.intake := rfl
@[simp] theorem State.onJournal_media (f : JournalState → JournalState) : (s.onJournal f).media = s.media := rfl
@[simp] theorem State.onJournal_place (f : JournalState → JournalState) : (s.onJournal f).place = s.place := rfl
@[simp] theorem State.onJournal_journal (f : JournalState → JournalState) : (s.onJournal f).journal = f s.journal := rfl
@[simp] theorem State.onJournal_host (f : JournalState → JournalState) : (s.onJournal f).host = s.host := rfl
@[simp] theorem State.onJournal_power (f : JournalState → JournalState) : (s.onJournal f).power = s.power := rfl
@[simp] theorem State.onJournal_snuff (f : JournalState → JournalState) : (s.onJournal f).snuff = s.snuff := rfl
@[simp] theorem State.onJournal_wick (f : JournalState → JournalState) : (s.onJournal f).wick = s.wick := rfl
@[simp] theorem State.onJournal_mem (f : JournalState → JournalState) : (s.onJournal f).mem = s.mem := rfl
@[simp] theorem State.onJournal_health (f : JournalState → JournalState) : (s.onJournal f).health = s.health := rfl
@[simp] theorem State.onJournal_draws (f : JournalState → JournalState) : (s.onJournal f).draws = s.draws := rfl
@[simp] theorem State.onJournal_pending (f : JournalState → JournalState) : (s.onJournal f).pending = s.pending := rfl

/-! ### onHost -/

@[simp] theorem State.onHost_clock (f : HostState → HostState) : (s.onHost f).clock = s.clock := rfl
@[simp] theorem State.onHost_lamp (f : HostState → HostState) : (s.onHost f).lamp = s.lamp := rfl
@[simp] theorem State.onHost_link (f : HostState → HostState) : (s.onHost f).link = s.link := rfl
@[simp] theorem State.onHost_fault (f : HostState → HostState) : (s.onHost f).fault = s.fault := rfl
@[simp] theorem State.onHost_intake (f : HostState → HostState) : (s.onHost f).intake = s.intake := rfl
@[simp] theorem State.onHost_media (f : HostState → HostState) : (s.onHost f).media = s.media := rfl
@[simp] theorem State.onHost_place (f : HostState → HostState) : (s.onHost f).place = s.place := rfl
@[simp] theorem State.onHost_journal (f : HostState → HostState) : (s.onHost f).journal = s.journal := rfl
@[simp] theorem State.onHost_host (f : HostState → HostState) : (s.onHost f).host = f s.host := rfl
@[simp] theorem State.onHost_power (f : HostState → HostState) : (s.onHost f).power = s.power := rfl
@[simp] theorem State.onHost_snuff (f : HostState → HostState) : (s.onHost f).snuff = s.snuff := rfl
@[simp] theorem State.onHost_wick (f : HostState → HostState) : (s.onHost f).wick = s.wick := rfl
@[simp] theorem State.onHost_mem (f : HostState → HostState) : (s.onHost f).mem = s.mem := rfl
@[simp] theorem State.onHost_health (f : HostState → HostState) : (s.onHost f).health = s.health := rfl
@[simp] theorem State.onHost_draws (f : HostState → HostState) : (s.onHost f).draws = s.draws := rfl
@[simp] theorem State.onHost_pending (f : HostState → HostState) : (s.onHost f).pending = s.pending := rfl

/-! ### onPower -/

@[simp] theorem State.onPower_clock (f : PowerState → PowerState) : (s.onPower f).clock = s.clock := rfl
@[simp] theorem State.onPower_lamp (f : PowerState → PowerState) : (s.onPower f).lamp = s.lamp := rfl
@[simp] theorem State.onPower_link (f : PowerState → PowerState) : (s.onPower f).link = s.link := rfl
@[simp] theorem State.onPower_fault (f : PowerState → PowerState) : (s.onPower f).fault = s.fault := rfl
@[simp] theorem State.onPower_intake (f : PowerState → PowerState) : (s.onPower f).intake = s.intake := rfl
@[simp] theorem State.onPower_media (f : PowerState → PowerState) : (s.onPower f).media = s.media := rfl
@[simp] theorem State.onPower_place (f : PowerState → PowerState) : (s.onPower f).place = s.place := rfl
@[simp] theorem State.onPower_journal (f : PowerState → PowerState) : (s.onPower f).journal = s.journal := rfl
@[simp] theorem State.onPower_host (f : PowerState → PowerState) : (s.onPower f).host = s.host := rfl
@[simp] theorem State.onPower_power (f : PowerState → PowerState) : (s.onPower f).power = f s.power := rfl
@[simp] theorem State.onPower_snuff (f : PowerState → PowerState) : (s.onPower f).snuff = s.snuff := rfl
@[simp] theorem State.onPower_wick (f : PowerState → PowerState) : (s.onPower f).wick = s.wick := rfl
@[simp] theorem State.onPower_mem (f : PowerState → PowerState) : (s.onPower f).mem = s.mem := rfl
@[simp] theorem State.onPower_health (f : PowerState → PowerState) : (s.onPower f).health = s.health := rfl
@[simp] theorem State.onPower_draws (f : PowerState → PowerState) : (s.onPower f).draws = s.draws := rfl
@[simp] theorem State.onPower_pending (f : PowerState → PowerState) : (s.onPower f).pending = s.pending := rfl

/-! ### onSnuff -/

@[simp] theorem State.onSnuff_clock (f : SnuffState → SnuffState) : (s.onSnuff f).clock = s.clock := rfl
@[simp] theorem State.onSnuff_lamp (f : SnuffState → SnuffState) : (s.onSnuff f).lamp = s.lamp := rfl
@[simp] theorem State.onSnuff_link (f : SnuffState → SnuffState) : (s.onSnuff f).link = s.link := rfl
@[simp] theorem State.onSnuff_fault (f : SnuffState → SnuffState) : (s.onSnuff f).fault = s.fault := rfl
@[simp] theorem State.onSnuff_intake (f : SnuffState → SnuffState) : (s.onSnuff f).intake = s.intake := rfl
@[simp] theorem State.onSnuff_media (f : SnuffState → SnuffState) : (s.onSnuff f).media = s.media := rfl
@[simp] theorem State.onSnuff_place (f : SnuffState → SnuffState) : (s.onSnuff f).place = s.place := rfl
@[simp] theorem State.onSnuff_journal (f : SnuffState → SnuffState) : (s.onSnuff f).journal = s.journal := rfl
@[simp] theorem State.onSnuff_host (f : SnuffState → SnuffState) : (s.onSnuff f).host = s.host := rfl
@[simp] theorem State.onSnuff_power (f : SnuffState → SnuffState) : (s.onSnuff f).power = s.power := rfl
@[simp] theorem State.onSnuff_snuff (f : SnuffState → SnuffState) : (s.onSnuff f).snuff = f s.snuff := rfl
@[simp] theorem State.onSnuff_wick (f : SnuffState → SnuffState) : (s.onSnuff f).wick = s.wick := rfl
@[simp] theorem State.onSnuff_mem (f : SnuffState → SnuffState) : (s.onSnuff f).mem = s.mem := rfl
@[simp] theorem State.onSnuff_health (f : SnuffState → SnuffState) : (s.onSnuff f).health = s.health := rfl
@[simp] theorem State.onSnuff_draws (f : SnuffState → SnuffState) : (s.onSnuff f).draws = s.draws := rfl
@[simp] theorem State.onSnuff_pending (f : SnuffState → SnuffState) : (s.onSnuff f).pending = s.pending := rfl

/-! ### onWick -/

@[simp] theorem State.onWick_clock (f : WickState → WickState) : (s.onWick f).clock = s.clock := rfl
@[simp] theorem State.onWick_lamp (f : WickState → WickState) : (s.onWick f).lamp = s.lamp := rfl
@[simp] theorem State.onWick_link (f : WickState → WickState) : (s.onWick f).link = s.link := rfl
@[simp] theorem State.onWick_fault (f : WickState → WickState) : (s.onWick f).fault = s.fault := rfl
@[simp] theorem State.onWick_intake (f : WickState → WickState) : (s.onWick f).intake = s.intake := rfl
@[simp] theorem State.onWick_media (f : WickState → WickState) : (s.onWick f).media = s.media := rfl
@[simp] theorem State.onWick_place (f : WickState → WickState) : (s.onWick f).place = s.place := rfl
@[simp] theorem State.onWick_journal (f : WickState → WickState) : (s.onWick f).journal = s.journal := rfl
@[simp] theorem State.onWick_host (f : WickState → WickState) : (s.onWick f).host = s.host := rfl
@[simp] theorem State.onWick_power (f : WickState → WickState) : (s.onWick f).power = s.power := rfl
@[simp] theorem State.onWick_snuff (f : WickState → WickState) : (s.onWick f).snuff = s.snuff := rfl
@[simp] theorem State.onWick_wick (f : WickState → WickState) : (s.onWick f).wick = f s.wick := rfl
@[simp] theorem State.onWick_mem (f : WickState → WickState) : (s.onWick f).mem = s.mem := rfl
@[simp] theorem State.onWick_health (f : WickState → WickState) : (s.onWick f).health = s.health := rfl
@[simp] theorem State.onWick_draws (f : WickState → WickState) : (s.onWick f).draws = s.draws := rfl
@[simp] theorem State.onWick_pending (f : WickState → WickState) : (s.onWick f).pending = s.pending := rfl

/-! ### onMem -/

@[simp] theorem State.onMem_clock (f : MemState → MemState) : (s.onMem f).clock = s.clock := rfl
@[simp] theorem State.onMem_lamp (f : MemState → MemState) : (s.onMem f).lamp = s.lamp := rfl
@[simp] theorem State.onMem_link (f : MemState → MemState) : (s.onMem f).link = s.link := rfl
@[simp] theorem State.onMem_fault (f : MemState → MemState) : (s.onMem f).fault = s.fault := rfl
@[simp] theorem State.onMem_intake (f : MemState → MemState) : (s.onMem f).intake = s.intake := rfl
@[simp] theorem State.onMem_media (f : MemState → MemState) : (s.onMem f).media = s.media := rfl
@[simp] theorem State.onMem_place (f : MemState → MemState) : (s.onMem f).place = s.place := rfl
@[simp] theorem State.onMem_journal (f : MemState → MemState) : (s.onMem f).journal = s.journal := rfl
@[simp] theorem State.onMem_host (f : MemState → MemState) : (s.onMem f).host = s.host := rfl
@[simp] theorem State.onMem_power (f : MemState → MemState) : (s.onMem f).power = s.power := rfl
@[simp] theorem State.onMem_snuff (f : MemState → MemState) : (s.onMem f).snuff = s.snuff := rfl
@[simp] theorem State.onMem_wick (f : MemState → MemState) : (s.onMem f).wick = s.wick := rfl
@[simp] theorem State.onMem_mem (f : MemState → MemState) : (s.onMem f).mem = f s.mem := rfl
@[simp] theorem State.onMem_health (f : MemState → MemState) : (s.onMem f).health = s.health := rfl
@[simp] theorem State.onMem_draws (f : MemState → MemState) : (s.onMem f).draws = s.draws := rfl
@[simp] theorem State.onMem_pending (f : MemState → MemState) : (s.onMem f).pending = s.pending := rfl

/-! ### onHealth -/

@[simp] theorem State.onHealth_clock (f : HealthState → HealthState) : (s.onHealth f).clock = s.clock := rfl
@[simp] theorem State.onHealth_lamp (f : HealthState → HealthState) : (s.onHealth f).lamp = s.lamp := rfl
@[simp] theorem State.onHealth_link (f : HealthState → HealthState) : (s.onHealth f).link = s.link := rfl
@[simp] theorem State.onHealth_fault (f : HealthState → HealthState) : (s.onHealth f).fault = s.fault := rfl
@[simp] theorem State.onHealth_intake (f : HealthState → HealthState) : (s.onHealth f).intake = s.intake := rfl
@[simp] theorem State.onHealth_media (f : HealthState → HealthState) : (s.onHealth f).media = s.media := rfl
@[simp] theorem State.onHealth_place (f : HealthState → HealthState) : (s.onHealth f).place = s.place := rfl
@[simp] theorem State.onHealth_journal (f : HealthState → HealthState) : (s.onHealth f).journal = s.journal := rfl
@[simp] theorem State.onHealth_host (f : HealthState → HealthState) : (s.onHealth f).host = s.host := rfl
@[simp] theorem State.onHealth_power (f : HealthState → HealthState) : (s.onHealth f).power = s.power := rfl
@[simp] theorem State.onHealth_snuff (f : HealthState → HealthState) : (s.onHealth f).snuff = s.snuff := rfl
@[simp] theorem State.onHealth_wick (f : HealthState → HealthState) : (s.onHealth f).wick = s.wick := rfl
@[simp] theorem State.onHealth_mem (f : HealthState → HealthState) : (s.onHealth f).mem = s.mem := rfl
@[simp] theorem State.onHealth_health (f : HealthState → HealthState) : (s.onHealth f).health = f s.health := rfl
@[simp] theorem State.onHealth_draws (f : HealthState → HealthState) : (s.onHealth f).draws = s.draws := rfl
@[simp] theorem State.onHealth_pending (f : HealthState → HealthState) : (s.onHealth f).pending = s.pending := rfl

end

end Sys2Proof.Machine
end

