-- ==== Sys2Proof/Laws/Keeps.lean ====
section
/-! SUPPORT. What every operation but the release of VAUX POR keeps, said once: the queue, the sampled straps, the invariant,
the order of the cycle numbers, and every part of State that the operation does not name. One law per way of changing State;
the files beside this one carry it through every shared operation. -/
namespace Sys2Proof.Machine
open Sys2Proof

section
set_option Elab.async false

/-- Which parts of State an operation may change; cyc is LAMP's cycle number. -/
structure Touch where
  clock : Bool := false
  lamp : Bool := false
  cyc : Bool := false
  link : Bool := false
  fault : Bool := false
  intake : Bool := false
  media : Bool := false
  place : Bool := false
  journal : Bool := false
  host : Bool := false
  power : Bool := false
  snuff : Bool := false
  wick : Bool := false
  mem : Bool := false
  health : Bool := false
  draws : Bool := false

/-- From s to t the queue and the sampled straps stand, the invariant is kept, under it the cycle number does not fall, and every
part outside L stands. -/
structure Keeps (L : Touch) (s t : State) : Prop where
  pending : t.pending = s.pending
  bootSrc : t.clock.bootSrc = s.clock.bootSrc
  clkMode : t.clock.clkMode = s.clock.clkMode
  inv : s.Inv → t.Inv
  cycle : s.Inv → s.lamp.cycle ≤ t.lamp.cycle
  cycF : L.cyc = false → t.lamp.cycle = s.lamp.cycle
  clockF : L.clock = false → t.clock = s.clock
  lampF : L.lamp = false → t.lamp = s.lamp
  linkF : L.link = false → t.link = s.link
  faultF : L.fault = false → t.fault = s.fault
  intakeF : L.intake = false → t.intake = s.intake
  mediaF : L.media = false → t.media = s.media
  placeF : L.place = false → t.place = s.place
  journalF : L.journal = false → t.journal = s.journal
  hostF : L.host = false → t.host = s.host
  powerF : L.power = false → t.power = s.power
  snuffF : L.snuff = false → t.snuff = s.snuff
  wickF : L.wick = false → t.wick = s.wick
  memF : L.mem = false → t.mem = s.mem
  healthF : L.health = false → t.health = s.health
  drawsF : L.draws = false → t.draws = s.draws

theorem Keeps.refl (L : Touch) (s : State) : Keeps L s s :=
  ⟨rfl, rfl, rfl, id, fun _ => Nat.le_refl _, fun _ => rfl, fun _ => rfl, fun _ => rfl, fun _ => rfl, fun _ => rfl, fun _ => rfl, fun _ => rfl, fun _ => rfl, fun _ => rfl, fun _ => rfl, fun _ => rfl, fun _ => rfl, fun _ => rfl, fun _ => rfl, fun _ => rfl, fun _ => rfl⟩

theorem Keeps.trans {L : Touch} {s t u : State} (h : Keeps L s t) (k : Keeps L t u) : Keeps L s u where
  pending := k.pending.trans h.pending
  bootSrc := k.bootSrc.trans h.bootSrc
  clkMode := k.clkMode.trans h.clkMode
  inv i := k.inv (h.inv i)
  cycle i := Nat.le_trans (h.cycle i) (k.cycle (h.inv i))
  cycF x := (k.cycF x).trans (h.cycF x)
  clockF x := (k.clockF x).trans (h.clockF x)
  lampF x := (k.lampF x).trans (h.lampF x)
  linkF x := (k.linkF x).trans (h.linkF x)
  faultF x := (k.faultF x).trans (h.faultF x)
  intakeF x := (k.intakeF x).trans (h.intakeF x)
  mediaF x := (k.mediaF x).trans (h.mediaF x)
  placeF x := (k.placeF x).trans (h.placeF x)
  journalF x := (k.journalF x).trans (h.journalF x)
  hostF x := (k.hostF x).trans (h.hostF x)
  powerF x := (k.powerF x).trans (h.powerF x)
  snuffF x := (k.snuffF x).trans (h.snuffF x)
  wickF x := (k.wickF x).trans (h.wickF x)
  memF x := (k.memF x).trans (h.memF x)
  healthF x := (k.healthF x).trans (h.healthF x)
  drawsF x := (k.drawsF x).trans (h.drawsF x)

variable {L : Touch} {s0 s : State}

/-- What an update of the parts named in L leaves: the frame holds of every other part by computation. -/
theorem no_touch {b : Bool} {p : Prop} (h : b = true) (k : b = false) : p := by cases h.symm.trans k

/-! ### The ways of changing State -/

theorem keeps_onLink (f : LinkState → LinkState) (h : Keeps L s0 s)
    (hL : L.link = true := by assumption) : Keeps L s0 (s.onLink f) :=
  h.trans ⟨rfl, rfl, rfl, id, fun _ => Nat.le_refl _, fun _ => rfl,
    fun _ => rfl, fun _ => rfl, no_touch hL, fun _ => rfl, fun _ => rfl, fun _ => rfl, fun _ => rfl, fun _ => rfl, fun _ => rfl, fun _ => rfl, fun _ => rfl, fun _ => rfl, fun _ => rfl, fun _ => rfl, fun _ => rfl⟩
theorem keeps_onPlace (f : PlaceState → PlaceState) (h : Keeps L s0 s)
    (hL : L.place = true := by assumption) : Keeps L s0 (s.onPlace f) :=
  h.trans ⟨rfl, rfl, rfl, id, fun _ => Nat.le_refl _, fun _ => rfl,
    fun _ => rfl, fun _ => rfl, fun _ => rfl, fun _ => rfl, fun _ => rfl, fun _ => rfl, no_touch hL, fun _ => rfl, fun _ => rfl, fun _ => rfl, fun _ => rfl, fun _ => rfl, fun _ => rfl, fun _ => rfl, fun _ => rfl⟩
theorem keeps_onJournal (f : JournalState → JournalState) (h : Keeps L s0 s)
    (hL : L.journal = true := by assumption) : Keeps L s0 (s.onJournal f) :=
  h.trans ⟨rfl, rfl, rfl, id, fun _ => Nat.le_refl _, fun _ => rfl,
    fun _ => rfl, fun _ => rfl, fun _ => rfl, fun _ => rfl, fun _ => rfl, fun _ => rfl, fun _ => rfl, no_touch hL, fun _ => rfl, fun _ => rfl, fun _ => rfl, fun _ => rfl, fun _ => rfl, fun _ => rfl, fun _ => rfl⟩
theorem keeps_onHost (f : HostState → HostState) (h : Keeps L s0 s)
    (hL : L.host = true := by assumption) : Keeps L s0 (s.onHost f) :=
  h.trans ⟨rfl, rfl, rfl, id, fun _ => Nat.le_refl _, fun _ => rfl,
    fun _ => rfl, fun _ => rfl, fun _ => rfl, fun _ => rfl, fun _ => rfl, fun _ => rfl, fun _ => rfl, fun _ => rfl, no_touch hL, fun _ => rfl, fun _ => rfl, fun _ => rfl, fun _ => rfl, fun _ => rfl, fun _ => rfl⟩
theorem keeps_onSnuff (f : SnuffState → SnuffState) (h : Keeps L s0 s)
    (hL : L.snuff = true := by assumption) : Keeps L s0 (s.onSnuff f) :=
  h.trans ⟨rfl, rfl, rfl, id, fun _ => Nat.le_refl _, fun _ => rfl,
    fun _ => rfl, fun _ => rfl, fun _ => rfl, fun _ => rfl, fun _ => rfl, fun _ => rfl, fun _ => rfl, fun _ => rfl, fun _ => rfl, fun _ => rfl, no_touch hL, fun _ => rfl, fun _ => rfl, fun _ => rfl, fun _ => rfl⟩
theorem keeps_onWick (f : WickState → WickState) (h : Keeps L s0 s)
    (hL : L.wick = true := by assumption) : Keeps L s0 (s.onWick f) :=
  h.trans ⟨rfl, rfl, rfl, id, fun _ => Nat.le_refl _, fun _ => rfl,
    fun _ => rfl, fun _ => rfl, fun _ => rfl, fun _ => rfl, fun _ => rfl, fun _ => rfl, fun _ => rfl, fun _ => rfl, fun _ => rfl, fun _ => rfl, fun _ => rfl, no_touch hL, fun _ => rfl, fun _ => rfl, fun _ => rfl⟩
theorem keeps_onHealth (f : HealthState → HealthState) (h : Keeps L s0 s)
    (hL : L.health = true := by assumption) : Keeps L s0 (s.onHealth f) :=
  h.trans ⟨rfl, rfl, rfl, id, fun _ => Nat.le_refl _, fun _ => rfl,
    fun _ => rfl, fun _ => rfl, fun _ => rfl, fun _ => rfl, fun _ => rfl, fun _ => rfl, fun _ => rfl, fun _ => rfl, fun _ => rfl, fun _ => rfl, fun _ => rfl, fun _ => rfl, fun _ => rfl, no_touch hL, fun _ => rfl⟩
theorem keeps_draws (n : Nat) (h : Keeps L s0 s)
    (hL : L.draws = true := by assumption) : Keeps L s0 { s with draws := n } :=
  h.trans ⟨rfl, rfl, rfl, id, fun _ => Nat.le_refl _, fun _ => rfl,
    fun _ => rfl, fun _ => rfl, fun _ => rfl, fun _ => rfl, fun _ => rfl, fun _ => rfl, fun _ => rfl, fun _ => rfl, fun _ => rfl, fun _ => rfl, fun _ => rfl, fun _ => rfl, fun _ => rfl, fun _ => rfl, no_touch hL⟩

/-- CLOCK's state may change but for the sampled straps. -/
theorem keeps_onClock (f : ClockState → ClockState) (hb : ∀ c, (f c).bootSrc = c.bootSrc)
    (hc : ∀ c, (f c).clkMode = c.clkMode) (h : Keeps L s0 s)
    (hL : L.clock = true := by assumption) : Keeps L s0 (s.onClock f) :=
  h.trans ⟨rfl, hb _, hc _, id, fun _ => Nat.le_refl _, fun _ => rfl,
    no_touch hL, fun _ => rfl, fun _ => rfl, fun _ => rfl, fun _ => rfl, fun _ => rfl, fun _ => rfl, fun _ => rfl, fun _ => rfl, fun _ => rfl, fun _ => rfl, fun _ => rfl, fun _ => rfl, fun _ => rfl, fun _ => rfl⟩
/-- LAMP's state stays legal, and its cycle number does not fall. -/
theorem keeps_onLamp (f : LampState → LampState) (hl : s.lamp.legal = true → (f s.lamp).legal = true)
    (hc : s.lamp.legal = true → s.lamp.cycle ≤ (f s.lamp).cycle)
    (hy : L.cyc = false → (f s.lamp).cycle = s.lamp.cycle) (h : Keeps L s0 s)
    (hL : L.lamp = true := by assumption) : Keeps L s0 (s.onLamp f) :=
  h.trans ⟨rfl, rfl, rfl, fun ⟨a, b, c, d, e, g⟩ => ⟨a, b, c, d, e, hl g⟩, fun i => hc i.2.2.2.2.2, hy,
    fun _ => rfl, no_touch hL, fun _ => rfl, fun _ => rfl, fun _ => rfl, fun _ => rfl, fun _ => rfl, fun _ => rfl, fun _ => rfl, fun _ => rfl, fun _ => rfl, fun _ => rfl, fun _ => rfl, fun _ => rfl, fun _ => rfl⟩
/-- The mode, the cycle number and what waits for them stand. -/
theorem keeps_onLampSame (f : LampState → LampState)
    (hf : ∀ l, (f l).mode = l.mode ∧ (f l).modeP = l.modeP ∧ (f l).cycle = l.cycle ∧ (f l).cycleP = l.cycleP)
    (h : Keeps L s0 s) (hL : L.lamp = true := by assumption) : Keeps L s0 (s.onLamp f) := by
  obtain ⟨a, b, c, d⟩ := hf s.lamp
  refine keeps_onLamp f (fun hl => ?_) (fun _ => Nat.le_of_eq c.symm) (fun _ => c) h
  unfold LampState.legal at hl ⊢
  rw [a, b, c, d]
  exact hl
theorem keeps_onIntake (f : IntakeState → IntakeState)
    (hf : ∀ x, twf Stream.none x.streams = true → twf Stream.none (f x).streams = true) (h : Keeps L s0 s)
    (hL : L.intake = true := by assumption) : Keeps L s0 (s.onIntake f) :=
  h.trans ⟨rfl, rfl, rfl, fun ⟨a, b⟩ => ⟨hf _ a, b⟩, fun _ => Nat.le_refl _, fun _ => rfl,
    fun _ => rfl, fun _ => rfl, fun _ => rfl, fun _ => rfl, no_touch hL, fun _ => rfl, fun _ => rfl, fun _ => rfl, fun _ => rfl, fun _ => rfl, fun _ => rfl, fun _ => rfl, fun _ => rfl, fun _ => rfl, fun _ => rfl⟩
theorem keeps_onMedia (f : MediaState → MediaState)
    (hf : ∀ x, twf Channel.none x.chans = true → twf Channel.none (f x).chans = true) (h : Keeps L s0 s)
    (hL : L.media = true := by assumption) : Keeps L s0 (s.onMedia f) :=
  h.trans ⟨rfl, rfl, rfl, fun ⟨a, b, c⟩ => ⟨a, hf _ b, c⟩, fun _ => Nat.le_refl _, fun _ => rfl,
    fun _ => rfl, fun _ => rfl, fun _ => rfl, fun _ => rfl, fun _ => rfl, no_touch hL, fun _ => rfl, fun _ => rfl, fun _ => rfl, fun _ => rfl, fun _ => rfl, fun _ => rfl, fun _ => rfl, fun _ => rfl, fun _ => rfl⟩
theorem keeps_onFault (f : FaultState → FaultState)
    (hf : ∀ x, twf UnitFault.none x.units = true → twf UnitFault.none (f x).units = true) (h : Keeps L s0 s)
    (hL : L.fault = true := by assumption) : Keeps L s0 (s.onFault f) :=
  h.trans ⟨rfl, rfl, rfl, fun ⟨a, b, c, d⟩ => ⟨a, b, hf _ c, d⟩, fun _ => Nat.le_refl _, fun _ => rfl,
    fun _ => rfl, fun _ => rfl, fun _ => rfl, no_touch hL, fun _ => rfl, fun _ => rfl, fun _ => rfl, fun _ => rfl, fun _ => rfl, fun _ => rfl, fun _ => rfl, fun _ => rfl, fun _ => rfl, fun _ => rfl, fun _ => rfl⟩
theorem keeps_onMem (f : MemState → MemState)
    (hf : ∀ x, twf MemRec.none x.mems = true → twf MemRec.none (f x).mems = true) (h : Keeps L s0 s)
    (hL : L.mem = true := by assumption) : Keeps L s0 (s.onMem f) :=
  h.trans ⟨rfl, rfl, rfl, fun ⟨a, b, c, d, e⟩ => ⟨a, b, c, hf _ d, e⟩, fun _ => Nat.le_refl _, fun _ => rfl,
    fun _ => rfl, fun _ => rfl, fun _ => rfl, fun _ => rfl, fun _ => rfl, fun _ => rfl, fun _ => rfl, fun _ => rfl, fun _ => rfl, fun _ => rfl, fun _ => rfl, fun _ => rfl, no_touch hL, fun _ => rfl, fun _ => rfl⟩
theorem keeps_onPower (f : PowerState → PowerState)
    (hf : ∀ x, twf railNone x.rails = true → twf railNone (f x).rails = true) (h : Keeps L s0 s)
    (hL : L.power = true := by assumption) : Keeps L s0 (s.onPower f) :=
  h.trans ⟨rfl, rfl, rfl, fun ⟨a, b, c, d, e, g⟩ => ⟨a, b, c, d, hf _ e, g⟩, fun _ => Nat.le_refl _, fun _ => rfl,
    fun _ => rfl, fun _ => rfl, fun _ => rfl, fun _ => rfl, fun _ => rfl, fun _ => rfl, fun _ => rfl, fun _ => rfl, fun _ => rfl, no_touch hL, fun _ => rfl, fun _ => rfl, fun _ => rfl, fun _ => rfl, fun _ => rfl⟩

/-! ### Branches, folds, answers -/

theorem keeps_ite {p : Prop} [Decidable p] {a b : State} (ha : Keeps L s0 a) (hb : Keeps L s0 b) :
    Keeps L s0 (if p then a else b) := by
  by_cases h : p <;> simp [h, ha, hb]

theorem keeps_foldl {β : Type} (f : State → β → State) (hf : ∀ t x, Keeps L s0 t → Keeps L s0 (f t x)) (l : List β)
    (h : Keeps L s0 s) : Keeps L s0 (l.foldl f s) := by
  induction l generalizing s with
  | nil => exact h
  | cons x l ih => exact ih (hf s x h)

/-- An answer that may be a status keeps where it is a state. -/
def KeepsE (L : Touch) (s : State) (r : Except Status State) : Prop := ∀ t, r = .ok t → Keeps L s t

theorem keepsE_out {r : Except Status State} {t : State} (k : KeepsE L s0 r) (e : r = .ok t) : Keeps L s0 t := k t e
theorem keepsE_ok {t : State} (h : Keeps L s0 t) : KeepsE L s0 (.ok t) := fun _ e => by cases e; exact h
theorem keepsE_error (e : Status) : KeepsE L s0 (.error e) := fun _ h => by cases h
theorem keepsE_ite {p : Prop} [Decidable p] {a b : Except Status State} (ha : KeepsE L s0 a) (hb : KeepsE L s0 b) :
    KeepsE L s0 (if p then a else b) := by
  by_cases h : p <;> simp [h, ha, hb]

/-- An answer that may be nothing keeps where it is a state. -/
def KeepsO (L : Touch) (s : State) (r : Option State) : Prop := ∀ t, r = some t → Keeps L s t

theorem keepsO_out {r : Option State} {t : State} (k : KeepsO L s0 r) (e : r = some t) : Keeps L s0 t := k t e
theorem keepsO_getD {r : Option State} {t : State} (k : KeepsO L s0 r) (h : Keeps L s0 t) : Keeps L s0 (r.getD t) := by
  cases r with
  | none => exact h
  | some u => exact k u rfl
theorem keepsO_some {t : State} (h : Keeps L s0 t) : KeepsO L s0 (some t) := fun _ e => by cases e; exact h
theorem keepsO_none : KeepsO L s0 none := fun _ h => by cases h
theorem keepsO_ite {p : Prop} [Decidable p] {a b : Option State} (ha : KeepsO L s0 a) (hb : KeepsO L s0 b) :
    KeepsO L s0 (if p then a else b) := by
  by_cases h : p <;> simp [h, ha, hb]

/-- An answer that pairs a state with something keeps where it is one. -/
def KeepsP {β : Type} (L : Touch) (s : State) (r : Option (State × β)) : Prop := ∀ t x, r = some (t, x) → Keeps L s t

theorem keepsP_out {β : Type} {r : Option (State × β)} {t : State} {x : β} (k : KeepsP L s0 r) (e : r = some (t, x)) :
    Keeps L s0 t := k t x e
theorem keepsP_some {β : Type} {t : State} (x : β) (h : Keeps L s0 t) : KeepsP L s0 (some (t, x)) :=
  fun _ _ e => by cases e; exact h
theorem keepsP_none {β : Type} : KeepsP L s0 (none : Option (State × β)) := fun _ _ h => by cases h
theorem keepsP_ite {β : Type} {p : Prop} [Decidable p] {a b : Option (State × β)} (ha : KeepsP L s0 a) (hb : KeepsP L s0 b) :
    KeepsP L s0 (if p then a else b) := by
  by_cases h : p <;> simp [h, ha, hb]

theorem keeps_fst_ite {β : Type} {p : Prop} [Decidable p] {a b : State × β} (ha : Keeps L s0 a.1) (hb : Keeps L s0 b.1) :
    Keeps L s0 (if p then a else b).1 := by
  by_cases h : p <;> simp [h, ha, hb]

theorem keeps_foldl_fst {β γ : Type} (f : State × γ → β → State × γ) (hf : ∀ a x, Keeps L s0 a.1 → Keeps L s0 (f a x).1) (l : List β)
    {a : State × γ} (h : Keeps L s0 a.1) : Keeps L s0 (l.foldl f a).1 := by
  induction l generalizing a with
  | nil => exact h
  | cons x l ih => exact ih (hf a x h)

theorem keepsP_findSome {α β : Type} (l : List α) (f : α → Option (State × β)) (hf : ∀ x, KeepsP L s0 (f x)) :
    KeepsP L s0 (l.findSome? f) := by
  induction l with
  | nil => exact keepsP_none
  | cons a l ih =>
    intro t x e
    rw [List.findSome?_cons] at e
    cases h : f a with
    | none => rw [h] at e; exact ih t x e
    | some r => rw [h] at e; cases e; exact hf a _ _ h

/-- An outcome keeps where it is a next state. -/
def KeepsN (L : Touch) (s : State) (o : Host.Outcome State Fault Refusal) : Prop := ∀ t, o = .next t → Keeps L s t

theorem keepsN_next {t : State} (h : Keeps L s0 t) : KeepsN L s0 (.next t) := fun _ e => by cases e; exact h
theorem keepsN_fault (e : Fault) : KeepsN L s0 (.fault e) := fun _ h => by cases h
theorem keepsN_refused (e : Refusal) : KeepsN L s0 (.refused e) := fun _ h => by cases h
theorem keepsN_ite {p : Prop} [Decidable p] {a b : Host.Outcome State Fault Refusal} (ha : KeepsN L s0 a)
    (hb : KeepsN L s0 b) : KeepsN L s0 (if p then a else b) := by
  by_cases h : p <;> simp [h, ha, hb]

end

end Sys2Proof.Machine
end

