-- ==== Sys2Proof/Laws/KeepsOps.lean ====
section
/-! SUPPORT. What the operations of Machine/Ops.lean keep. -/
namespace Sys2Proof.Machine
open Sys2Proof

section
set_option Elab.async false

theorem keeps_setStream {L : Touch} {s0 s : State} (i : Nat) (e : Stream) (hk : Keeps L s0 s) (hintake : L.intake := by assumption) : Keeps L s0 (State.setStream s i e) := by
  unfold State.setStream
  repeat' first
    | with_reducible assumption | with_reducible rfl | with_reducible apply keeps_onIntake
    | with_reducible apply keeps_ite | exact twf_tset _ _ _ _ | dsimp only | split | intro _

theorem keeps_modStream {L : Touch} {s0 s : State} (i : Nat) (f : Stream → Stream) (hk : Keeps L s0 s) (hintake : L.intake := by assumption) : Keeps L s0 (State.modStream s i f) := by
  unfold State.modStream
  repeat' first
    | with_reducible assumption | with_reducible rfl | with_reducible apply keeps_setStream
    | with_reducible apply keeps_ite | dsimp only | split | intro _

theorem keeps_mapStreams {L : Touch} {s0 s : State} (f : Nat → Stream → Stream) (hk : Keeps L s0 s) (hintake : L.intake := by assumption) : Keeps L s0 (State.mapStreams s f) := by
  unfold State.mapStreams
  repeat' first
    | with_reducible assumption | with_reducible rfl | with_reducible apply keeps_onIntake
    | with_reducible apply keeps_ite | exact twf_tmap _ _ _ | dsimp only | split | intro _

theorem keeps_setChan {L : Touch} {s0 s : State} (c : Nat) (x : Channel) (hk : Keeps L s0 s) (hmedia : L.media := by assumption) : Keeps L s0 (State.setChan s c x) := by
  unfold State.setChan
  repeat' first
    | with_reducible assumption | with_reducible rfl | with_reducible apply keeps_onMedia
    | with_reducible apply keeps_ite | exact twf_tset _ _ _ _ | dsimp only | split | intro _

theorem keeps_modChan {L : Touch} {s0 s : State} (c : Nat) (f : Channel → Channel) (hk : Keeps L s0 s) (hmedia : L.media := by assumption) : Keeps L s0 (State.modChan s c f) := by
  unfold State.modChan
  repeat' first
    | with_reducible assumption | with_reducible rfl | with_reducible apply keeps_setChan
    | with_reducible apply keeps_ite | dsimp only | split | intro _

theorem keeps_setUnit {L : Touch} {s0 s : State} (u : UnitId) (r : UnitFault) (hk : Keeps L s0 s) (hfault : L.fault := by assumption) : Keeps L s0 (State.setUnit s u r) := by
  unfold State.setUnit
  repeat' first
    | with_reducible assumption | with_reducible rfl | with_reducible apply keeps_onFault
    | with_reducible apply keeps_ite | exact twf_tset _ _ _ _ | dsimp only | split | intro _

theorem keeps_modUnit {L : Touch} {s0 s : State} (u : UnitId) (f : UnitFault → UnitFault) (hk : Keeps L s0 s) (hfault : L.fault := by assumption) : Keeps L s0 (State.modUnit s u f) := by
  unfold State.modUnit
  repeat' first
    | with_reducible assumption | with_reducible rfl | with_reducible apply keeps_setUnit
    | with_reducible apply keeps_ite | dsimp only | split | intro _

theorem keeps_modMemory {L : Touch} {s0 s : State} (i : Nat) (f : MemRec → MemRec) (hk : Keeps L s0 s) (hmem : L.mem := by assumption) : Keeps L s0 (State.modMemory s i f) := by
  unfold State.modMemory
  repeat' first
    | with_reducible assumption | with_reducible rfl | with_reducible apply keeps_onMem
    | with_reducible apply keeps_ite | exact twf_tset _ _ _ _ | dsimp only | split | intro _

theorem keeps_hset {L : Touch} {s0 s : State} (w : Nat) (v : Nat) (hk : Keeps L s0 s) (hhealth : L.health := by assumption) : Keeps L s0 (State.hset s w v) := by
  unfold State.hset
  repeat' first
    | with_reducible assumption | with_reducible rfl | with_reducible apply keeps_onHealth
    | with_reducible apply keeps_ite | exact twf_tset _ _ _ _ | dsimp only | split | intro _

theorem keeps_count32 {L : Touch} {s0 s : State} (w : Nat) (n : Nat) (hk : Keeps L s0 s) (hhealth : L.health := by assumption) : Keeps L s0 (State.count32 s w n) := by
  unfold State.count32
  repeat' first
    | with_reducible assumption | with_reducible rfl | with_reducible apply keeps_hset
    | with_reducible apply keeps_ite | dsimp only | split | intro _

theorem keeps_count64 {L : Touch} {s0 s : State} (w : Nat) (n : Nat) (hk : Keeps L s0 s) (hhealth : L.health := by assumption) : Keeps L s0 (State.count64 s w n) := by
  unfold State.count64
  repeat' first
    | with_reducible assumption | with_reducible rfl | with_reducible apply keeps_hset
    | with_reducible apply keeps_ite | dsimp only | split | intro _

theorem keeps_countLo {L : Touch} {s0 s : State} (w : Nat) (n : Nat) (hk : Keeps L s0 s) (hhealth : L.health := by assumption) : Keeps L s0 (State.countLo s w n) := by
  unfold State.countLo
  repeat' first
    | with_reducible assumption | with_reducible rfl | with_reducible apply keeps_hset
    | with_reducible apply keeps_ite | dsimp only | split | intro _

theorem keeps_countHi {L : Touch} {s0 s : State} (w : Nat) (n : Nat) (hk : Keeps L s0 s) (hhealth : L.health := by assumption) : Keeps L s0 (State.countHi s w n) := by
  unfold State.countHi
  repeat' first
    | with_reducible assumption | with_reducible rfl | with_reducible apply keeps_hset
    | with_reducible apply keeps_ite | dsimp only | split | intro _

theorem keeps_issue {L : Touch} {s0 s : State} (u : Upstream) (hk : Keeps L s0 s) (hhost : L.host := by assumption) : Keeps L s0 (State.issue s u) := by
  unfold State.issue
  repeat' first
    | with_reducible assumption | with_reducible rfl | with_reducible apply keeps_onHost
    | with_reducible apply keeps_ite | dsimp only | split | intro _

theorem keeps_signal {L : Touch} {s0 s : State} (v : Nat) (hk : Keeps L s0 s) (hhost : L.host := by assumption) : Keeps L s0 (State.signal s v) := by
  unfold State.signal
  repeat' first
    | with_reducible assumption | with_reducible rfl | with_reducible apply keeps_onHost
    | with_reducible apply keeps_issue | with_reducible apply keeps_ite | dsimp only | split | intro _

theorem keeps_raise {L : Touch} {s0 s : State} (a : Attn) (hk : Keeps L s0 s) (hlink : L.link := by assumption) (hhost : L.host := by assumption) : Keeps L s0 (State.raise s a) := by
  unfold State.raise
  repeat' first
    | with_reducible assumption | with_reducible rfl | with_reducible apply keeps_onLink
    | with_reducible apply keeps_signal | with_reducible apply keeps_ite | dsimp only | split | intro _

theorem keeps_mirrorEvent {L : Touch} {s0 s : State} (i : Nat) (hk : Keeps L s0 s) (hintake : L.intake := by assumption) : Keeps L s0 (State.mirrorEvent s i) := by
  unfold State.mirrorEvent
  repeat' first
    | with_reducible assumption | with_reducible rfl | with_reducible apply keeps_modStream
    | with_reducible apply keeps_ite | dsimp only | split | intro _

theorem keeps_setSState {L : Touch} {s0 s : State} (i : Nat) (t : SState) (hk : Keeps L s0 s) (hintake : L.intake := by assumption) : Keeps L s0 (State.setSState s i t) := by
  unfold State.setSState
  repeat' first
    | with_reducible assumption | with_reducible rfl | with_reducible apply keeps_modStream
    | with_reducible apply keeps_mirrorEvent | with_reducible apply keeps_ite | dsimp only | split | intro _

theorem keeps_drainOpen {L : Touch} {s0 s : State}  (hk : Keeps L s0 s) (hintake : L.intake := by assumption) : Keeps L s0 (State.drainOpen s) := by
  unfold State.drainOpen
  repeat' first
    | with_reducible assumption | with_reducible rfl | with_reducible apply keeps_mapStreams
    | with_reducible apply keeps_ite | dsimp only | split | intro _

theorem keeps_setDev {L : Touch} {s0 s : State} (d : DevState) (hk : Keeps L s0 s) (hclock : L.clock := by assumption) (hlink : L.link := by assumption) (hintake : L.intake := by assumption) (hhost : L.host := by assumption) : Keeps L s0 (State.setDev s d) := by
  unfold State.setDev
  repeat' first
    | with_reducible assumption | with_reducible rfl | with_reducible apply keeps_onClock
    | with_reducible apply keeps_raise | with_reducible apply keeps_drainOpen | with_reducible apply keeps_ite
    | dsimp only | split | intro _

theorem keeps_assertError {L : Touch} {s0 s : State} (c : Cause) (d : BitVec 56) (hk : Keeps L s0 s) (hfault : L.fault := by assumption) : Keeps L s0 (State.assertError s c d) := by
  unfold State.assertError
  repeat' first
    | with_reducible assumption | with_reducible rfl | with_reducible apply keeps_modUnit
    | with_reducible apply keeps_ite | dsimp only | split | intro _

theorem keeps_holdCause {L : Touch} {s0 s : State} (c : Cause) (d : BitVec 56) (hk : Keeps L s0 s) (hfault : L.fault := by assumption) : Keeps L s0 (State.holdCause s c d) := by
  unfold State.holdCause
  repeat' first
    | with_reducible assumption | with_reducible rfl | with_reducible apply keeps_setUnit
    | with_reducible apply keeps_assertError | with_reducible apply keeps_ite | dsimp only | split | intro _

theorem keeps_dropCause {L : Touch} {s0 s : State} (c : Cause) (hk : Keeps L s0 s) (hfault : L.fault := by assumption) : Keeps L s0 (State.dropCause s c) := by
  unfold State.dropCause
  repeat' first
    | with_reducible assumption | with_reducible rfl | with_reducible apply keeps_modUnit
    | with_reducible apply keeps_ite | dsimp only | split | intro _

theorem keeps_dropCauseAt {L : Touch} {s0 s : State} (c : Cause) (d : BitVec 56) (hk : Keeps L s0 s) (hfault : L.fault := by assumption) : Keeps L s0 (State.dropCauseAt s c d) := by
  unfold State.dropCauseAt
  repeat' first
    | with_reducible assumption | with_reducible rfl | with_reducible apply keeps_modUnit
    | with_reducible apply keeps_ite | dsimp only | split | intro _

end

end Sys2Proof.Machine
end

