-- ==== Sys2Proof/Laws/KeepsEnergy.lean ====
section
/-! SUPPORT. What the operations of Machine/Energy.lean keep. -/
namespace Sys2Proof.Machine
open Sys2Proof

section
set_option Elab.async false

theorem keeps_holdC {L : Touch} {s0 s : State}  (hk : Keeps L s0 s) (hplace : L.place := by assumption) : Keeps L s0 (State.holdC s) := by
  unfold State.holdC
  repeat' first
    | with_reducible assumption | with_reducible rfl | with_reducible apply keeps_onPlace
    | with_reducible apply keeps_ite | dsimp only | split | intro _

theorem keeps_spaceCheck {L : Touch} {s0 s : State}  (hk : Keeps L s0 s) (hlink : L.link := by assumption) (hintake : L.intake := by assumption) (hhost : L.host := by assumption) : Keeps L s0 (State.spaceCheck s) := by
  unfold State.spaceCheck
  repeat' first
    | with_reducible assumption | with_reducible rfl | with_reducible apply keeps_raise
    | with_reducible apply keeps_onIntake | with_reducible apply keeps_ite | dsimp only | split | intro _

theorem keeps_wtUpdate {L : Touch} {s0 s : State}  (hk : Keeps L s0 s) (hclock : L.clock := by assumption) (hlink : L.link := by assumption) (hintake : L.intake := by assumption) (hhost : L.host := by assumption) (hhealth : L.health := by assumption) : Keeps L s0 (State.wtUpdate s) := by
  unfold State.wtUpdate
  repeat' first
    | with_reducible assumption | with_reducible rfl | with_reducible apply keeps_setDev
    | with_reducible apply keeps_raise | with_reducible apply keeps_count32 | with_reducible apply keeps_onIntake
    | with_reducible apply keeps_ite | dsimp only | split | intro _

end

end Sys2Proof.Machine
end

