-- ==== Sys2Proof/Laws/KeepsCipher.lean ====
section
/-! SUPPORT. What the operations of Machine/Cipher.lean keep. -/
namespace Sys2Proof.Machine
open Sys2Proof

section
set_option Elab.async false

theorem keeps_newKey {L : Touch} {s0 s : State} (gen : Nat) (hk : Keeps L s0 s) (hintake : L.intake := by assumption) (hwick : L.wick := by assumption) (hdraws : L.draws := by assumption) : Keeps L s0 (State.newKey s gen) := by
  unfold State.newKey
  repeat' first
    | with_reducible assumption | with_reducible rfl | with_reducible apply keeps_onWick
    | with_reducible apply keeps_onIntake | with_reducible apply keeps_draws | with_reducible apply keeps_ite
    | dsimp only | split | intro _

theorem keeps_unwrapKey {L : Touch} {s0 s : State}  (hk : Keeps L s0 s) (hintake : L.intake := by assumption) : Keeps L s0 (State.unwrapKey s) := by
  unfold State.unwrapKey
  repeat' first
    | with_reducible assumption | with_reducible rfl | with_reducible apply keeps_onIntake
    | with_reducible apply keeps_ite | dsimp only | split | intro _

end

end Sys2Proof.Machine
end

