-- ==== Sys2Proof/Laws/KeepsStreams.lean ====
section
/-! SUPPORT. What the operations of Machine/Streams.lean keep. -/
namespace Sys2Proof.Machine
open Sys2Proof

section
set_option Elab.async false

theorem keeps_noteChange {L : Touch} {s0 s : State} (i : Nat) (f : SFlag) (hk : Keeps L s0 s) (hintake : L.intake := by assumption) : Keeps L s0 (State.noteChange s i f) := by
  unfold State.noteChange
  repeat' first
    | with_reducible assumption | with_reducible rfl | with_reducible apply keeps_modStream
    | with_reducible apply keeps_ite | dsimp only | split | intro _

theorem keeps_applyClose {L : Touch} {s0 s : State} (i : Nat) (c : Nat) (hk : Keeps L s0 s) (hintake : L.intake := by assumption) : Keeps L s0 (State.applyClose s i c) := by
  unfold State.applyClose
  repeat' first
    | with_reducible assumption | with_reducible rfl | with_reducible apply keeps_modStream
    | with_reducible apply keeps_mirrorEvent | with_reducible apply keeps_ite | dsimp only | split | intro _

theorem keeps_closeDoorbell {L : Touch} {s0 s : State} (i : Nat) (c : Nat) (hk : Keeps L s0 s) (hintake : L.intake := by assumption) (hhealth : L.health := by assumption) : Keeps L s0 (State.closeDoorbell s i c) := by
  unfold State.closeDoorbell
  repeat' first
    | with_reducible assumption | with_reducible rfl | with_reducible apply keeps_count32
    | with_reducible apply keeps_applyClose | with_reducible apply keeps_modStream | with_reducible apply keeps_ite
    | dsimp only | split | intro _

theorem keeps_closeUpTo {L : Touch} {s0 s : State} (i : Nat) (hk : Keeps L s0 s) (hintake : L.intake := by assumption) : Keeps L s0 (State.closeUpTo s i) := by
  unfold State.closeUpTo
  repeat' first
    | with_reducible assumption | with_reducible rfl | with_reducible apply keeps_applyClose
    | with_reducible apply keeps_ite | dsimp only | split | intro _ | unfold LampState.openCycle

theorem keeps_forceCloses {L : Touch} {s0 s : State} (n : Nat) (hk : Keeps L s0 s) (hintake : L.intake := by assumption) (hhealth : L.health := by assumption) : Keeps L s0 (State.forceCloses s n) := by
  unfold State.forceCloses
  repeat' first
    | with_reducible assumption | with_reducible rfl | with_reducible apply keeps_mapStreams
    | with_reducible apply keeps_count32 | with_reducible apply keeps_ite | dsimp only | split | intro _

theorem keeps_faultStream {L : Touch} {s0 s : State} (i : Nat) (bit : BitVec 9) (hk : Keeps L s0 s) (hintake : L.intake := by assumption) : Keeps L s0 (State.faultStream s i bit) := by
  unfold State.faultStream
  repeat' first
    | with_reducible assumption | with_reducible rfl | with_reducible apply keeps_modStream
    | with_reducible apply keeps_setSState | with_reducible apply keeps_ite | dsimp only | split | intro _
    | unfold LampState.openCycle

theorem keeps_containStream {L : Touch} {s0 s : State} (i : Nat) (hk : Keeps L s0 s) (hintake : L.intake := by assumption) : Keeps L s0 (State.containStream s i) := by
  unfold State.containStream
  repeat' first
    | with_reducible assumption | with_reducible rfl | with_reducible apply keeps_faultStream
    | with_reducible apply keeps_modStream | with_reducible apply keeps_ite | dsimp only | split | intro _

theorem keeps_takeSeg {L : Touch} {s0 s : State} (i : Nat) (bs : List Byte) (staged : Bool) (hk : Keeps L s0 s) (hintake : L.intake := by assumption) (hplace : L.place := by assumption) : Keeps L s0 (State.takeSeg s i bs staged) := by
  unfold State.takeSeg
  repeat' first
    | with_reducible assumption | with_reducible rfl | with_reducible apply keeps_onPlace
    | with_reducible apply keeps_setStream | with_reducible apply keeps_ite | dsimp only | split | intro _
    | unfold LampState.openCycle

theorem keeps_takeSegs {L : Touch} {s0 : State} (n : Nat) (s : State) (i : Nat) (bs : List Byte) (staged : Bool) (h : Keeps L s0 s) (hintake : L.intake := by assumption) (hplace : L.place := by assumption) :
    Keeps L s0 (State.takeSegs n s i bs staged) := by
  induction n generalizing s bs with
  | zero => exact h
  | succ n ih =>
    unfold State.takeSegs
    exact keeps_ite h (ih _ _ (keeps_takeSeg _ _ _ h))

theorem keeps_credit {L : Touch} {s0 s : State} (i : Nat) (n : Nat) (hk : Keeps L s0 s) (hlink : L.link := by assumption) (hintake : L.intake := by assumption) (hhost : L.host := by assumption) (hhealth : L.health := by assumption) : Keeps L s0 (State.credit s i n) := by
  unfold State.credit
  repeat' first
    | with_reducible assumption | with_reducible rfl | with_reducible apply keeps_modStream
    | with_reducible apply keeps_raise | with_reducible apply keeps_count32 | with_reducible apply keeps_ite
    | exact twf_tset _ _ _ _ | dsimp only | split | intro _ | unfold LampState.openCycle

theorem keeps_takeBytes {L : Touch} {s0 s : State} (i : Nat) (bs : List Byte) (hk : Keeps L s0 s) (hlink : L.link := by assumption) (hintake : L.intake := by assumption) (hplace : L.place := by assumption) (hhost : L.host := by assumption) (hhealth : L.health := by assumption) : Keeps L s0 (State.takeBytes s i bs) := by
  unfold State.takeBytes
  repeat' first
    | with_reducible assumption | with_reducible rfl | with_reducible apply keeps_credit
    | with_reducible apply keeps_takeSegs | with_reducible apply keeps_onIntake | with_reducible apply keeps_ite
    | dsimp only | split | intro _

theorem keeps_poisonStream {L : Touch} {s0 s : State} (i : Nat) (hk : Keeps L s0 s) (hlink : L.link := by assumption) (hintake : L.intake := by assumption) (hhost : L.host := by assumption) : Keeps L s0 (State.poisonStream s i) := by
  unfold State.poisonStream
  repeat' first
    | with_reducible assumption | with_reducible rfl | with_reducible apply keeps_modStream
    | with_reducible apply keeps_raise | with_reducible apply keeps_ite | dsimp only | split | intro _
    | unfold LampState.openCycle

theorem keeps_discardWrite {L : Touch} {s0 s : State} (i : Nat) (n : Nat) (hk : Keeps L s0 s) (hintake : L.intake := by assumption) (hhealth : L.health := by assumption) : Keeps L s0 (State.discardWrite s i n) := by
  unfold State.discardWrite
  repeat' first
    | with_reducible assumption | with_reducible rfl | with_reducible apply keeps_modStream
    | with_reducible apply keeps_count64 | with_reducible apply keeps_ite | dsimp only | split | intro _

theorem keeps_openClass {L : Touch} {s0 s : State} (i : Nat) (st : Nat) (bs : List Byte) (c : WClass) (hk : Keeps L s0 s) (hlink : L.link := by assumption) (hintake : L.intake := by assumption) (hplace : L.place := by assumption) (hhost : L.host := by assumption) (hhealth : L.health := by assumption) : Keeps L s0 (State.openClass s i st bs c) := by
  unfold State.openClass
  repeat' first
    | with_reducible assumption | with_reducible rfl | with_reducible apply keeps_modStream
    | with_reducible apply keeps_takeBytes | with_reducible apply keeps_count64
    | with_reducible apply keeps_faultStream | with_reducible apply keeps_raise | with_reducible apply keeps_count32
    | with_reducible apply keeps_ite | dsimp only | split | intro _

theorem keeps_openWrite {L : Touch} {s0 s : State} (i : Nat) (a : Nat) (bs : List Byte) (hk : Keeps L s0 s) (hlink : L.link := by assumption) (hintake : L.intake := by assumption) (hplace : L.place := by assumption) (hhost : L.host := by assumption) (hhealth : L.health := by assumption) : Keeps L s0 (State.openWrite s i a bs) := by
  unfold State.openWrite
  repeat' first
    | with_reducible assumption | with_reducible rfl | with_reducible apply keeps_openClass
    | with_reducible apply keeps_ite | dsimp only | split | intro _

theorem keeps_streamWrite {L : Touch} {s0 s : State} (i : Nat) (a : Nat) (bs : List Byte) (mse : Bool) (ep : Bool) (hk : Keeps L s0 s) (hlink : L.link := by assumption) (hintake : L.intake := by assumption) (hplace : L.place := by assumption) (hhost : L.host := by assumption) (hhealth : L.health := by assumption) : Keeps L s0 (State.streamWrite s i a bs mse ep) := by
  unfold State.streamWrite
  repeat' first
    | with_reducible assumption | with_reducible rfl | with_reducible apply keeps_poisonStream
    | with_reducible apply keeps_openWrite | with_reducible apply keeps_discardWrite | with_reducible apply keeps_ite
    | dsimp only | split | intro _

theorem keeps_moveAccept {L : Touch} {s0 s : State} (i : Nat) (f : Nat) (hk : Keeps L s0 s) (hintake : L.intake := by assumption) : Keeps L s0 (State.moveAccept s i f) := by
  unfold State.moveAccept
  repeat' first
    | with_reducible assumption | with_reducible rfl | with_reducible apply keeps_modStream
    | with_reducible apply keeps_mirrorEvent | with_reducible apply keeps_ite | dsimp only | split | intro _

theorem keeps_tunAck {L : Touch} {s0 s : State} (i : Nat) (hk : Keeps L s0 s) (hintake : L.intake := by assumption) : Keeps L s0 (State.tunAck s i) := by
  unfold State.tunAck
  repeat' first
    | with_reducible assumption | with_reducible rfl | with_reducible apply keeps_onIntake
    | with_reducible apply keeps_moveAccept | with_reducible apply keeps_ite | dsimp only | split | intro _

theorem keeps_settleAll {L : Touch} {s0 s : State}  (hk : Keeps L s0 s) (hintake : L.intake := by assumption) : Keeps L s0 (State.settleAll s) := by
  unfold State.settleAll
  repeat' first
    | with_reducible assumption | with_reducible rfl | with_reducible apply keeps_moveAccept
    | with_reducible apply keeps_ite | with_reducible refine keeps_foldl _ (fun _ _ _ => ?_) _ ?_ | dsimp only | split
    | intro _

theorem keeps_forgetStream {L : Touch} {s0 s : State} (i : Nat) (hk : Keeps L s0 s) (hintake : L.intake := by assumption) : Keeps L s0 (State.forgetStream s i) := by
  unfold State.forgetStream
  repeat' first
    | with_reducible assumption | with_reducible rfl | with_reducible apply keeps_onIntake
    | with_reducible apply keeps_ite | dsimp only | split | intro _

theorem keeps_closeDrained {L : Touch} {s0 s : State}  (hk : Keeps L s0 s) (hintake : L.intake := by assumption) : Keeps L s0 (State.closeDrained s) := by
  unfold State.closeDrained
  repeat' first
    | with_reducible assumption | with_reducible rfl | with_reducible apply keeps_mapStreams
    | with_reducible apply keeps_ite | dsimp only | split | intro _

end

end Sys2Proof.Machine
end

