-- ==== Sys2Proof/Laws/KeepsMedia.lean ====
section
/-! SUPPORT. What the operations of Machine/Media.lean keep. -/
namespace Sys2Proof.Machine
open Sys2Proof

section
set_option Elab.async false

theorem keeps_enter {L : Touch} {s0 s : State} (ch : Nat) (d : MDesc) (hk : Keeps L s0 s) (hmedia : L.media := by assumption) : Keeps L s0 (State.enter s ch d) := by
  unfold State.enter
  repeat' first
    | with_reducible assumption | with_reducible rfl | with_reducible apply keeps_modChan
    | with_reducible apply keeps_onMedia | with_reducible apply keeps_ite | dsimp only | split | intro _

theorem keeps_letIn {L : Touch} {s0 s : State} (ch : Nat) (hk : Keeps L s0 s) (hmedia : L.media := by assumption) : Keeps L s0 (State.letIn s ch) := by
  unfold State.letIn
  repeat' first
    | with_reducible assumption | with_reducible rfl | with_reducible apply keeps_enter
    | with_reducible apply keeps_modChan | with_reducible apply keeps_ite
    | with_reducible refine keeps_foldl _ (fun _ _ _ => ?_) _ ?_ | dsimp only | split | intro _

theorem keeps_submit {L : Touch} {s0 s : State} (ch : Nat) (d : MDesc) (hk : Keeps L s0 s) (hmedia : L.media := by assumption) : Keeps L s0 (State.submit s ch d) := by
  unfold State.submit
  repeat' first
    | with_reducible assumption | with_reducible rfl | with_reducible apply keeps_modChan
    | with_reducible apply keeps_letIn | with_reducible apply keeps_onMedia | with_reducible apply keeps_ite
    | dsimp only | split | intro _

theorem keeps_startDesc {L : Touch} {s0 s : State} (ch : Nat) (slot : Nat) (hk : Keeps L s0 s) (hmedia : L.media := by assumption) : Keeps L s0 (State.startDesc s ch slot) := by
  unfold State.startDesc
  repeat' first
    | with_reducible assumption | with_reducible rfl | with_reducible apply keeps_modChan
    | with_reducible apply keeps_setChan | with_reducible apply keeps_ite | dsimp only | split | intro _

theorem keeps_resumeErase {L : Touch} {s0 s : State} (ch : Nat) (slot : Nat) (hk : Keeps L s0 s) (hmedia : L.media := by assumption) : Keeps L s0 (State.resumeErase s ch slot) := by
  unfold State.resumeErase
  repeat' first
    | with_reducible assumption | with_reducible rfl | with_reducible apply keeps_setChan
    | with_reducible apply keeps_ite | exact twf_tset _ _ _ _ | dsimp only | split | intro _

theorem keeps_resumeErases {L : Touch} {s0 s : State}  (hk : Keeps L s0 s) (hmedia : L.media := by assumption) : Keeps L s0 (State.resumeErases s) := by
  unfold State.resumeErases
  repeat' first
    | with_reducible assumption | with_reducible rfl | with_reducible apply keeps_resumeErase
    | with_reducible apply keeps_ite | with_reducible refine keeps_foldl _ (fun _ _ _ => ?_) _ ?_ | dsimp only | split
    | intro _

theorem keeps_queueEcc {L : Touch} {s0 s : State} (ch : Nat) (slot : Nat) (hk : Keeps L s0 s) (hfault : L.fault := by assumption) (hmedia : L.media := by assumption) : Keeps L s0 (State.queueEcc s ch slot) := by
  unfold State.queueEcc
  repeat' first
    | with_reducible assumption | with_reducible rfl | with_reducible apply keeps_modChan
    | with_reducible apply keeps_submit | with_reducible apply keeps_assertError | with_reducible apply keeps_ite
    | dsimp only | split | intro _

theorem keeps_abortQueued {L : Touch} {s0 s : State}  (hk : Keeps L s0 s) (hmedia : L.media := by assumption) : Keeps L s0 (State.abortQueued s) := by
  unfold State.abortQueued
  repeat' first
    | with_reducible assumption | with_reducible rfl | with_reducible apply keeps_onMedia
    | with_reducible apply keeps_ite | exact twf_tmap _ _ _ | dsimp only | split | intro _

theorem keeps_takeDone {L : Touch} {s0 s : State} (ch : Nat) (hk : Keeps L s0 s) (hmedia : L.media := by assumption) : Keeps L s0 (State.takeDone s ch) := by
  unfold State.takeDone
  repeat' first
    | with_reducible assumption | with_reducible rfl | with_reducible apply keeps_modChan
    | with_reducible apply keeps_onMedia | with_reducible apply keeps_letIn | with_reducible apply keeps_ite
    | dsimp only | split | intro _

theorem keeps_takeAll {L : Touch} {s0 s : State}  (hk : Keeps L s0 s) (hmedia : L.media := by assumption) : Keeps L s0 (State.takeAll s) := by
  unfold State.takeAll
  repeat' first
    | with_reducible assumption | with_reducible rfl | with_reducible apply keeps_takeDone
    | with_reducible apply keeps_ite | with_reducible refine keeps_foldl _ (fun _ _ _ => ?_) _ ?_ | dsimp only | split
    | intro _

theorem keeps_countGood {L : Touch} {s0 s : State}  (hk : Keeps L s0 s) (hplace : L.place := by assumption) : Keeps L s0 (State.countGood s) := by
  unfold State.countGood
  repeat' first
    | with_reducible assumption | with_reducible rfl | with_reducible apply keeps_onPlace
    | with_reducible apply keeps_ite | with_reducible refine keeps_foldl _ (fun _ _ _ => ?_) _ ?_
    | exact twf_tset _ _ _ _ | dsimp only | split | intro _

theorem keeps_countFail {L : Touch} {s0 s : State} (ch : Nat) (erase : Bool) (hk : Keeps L s0 s) (hmedia : L.media := by assumption) (hhealth : L.health := by assumption) : Keeps L s0 (State.countFail s ch erase) := by
  unfold State.countFail
  repeat' first
    | with_reducible assumption | with_reducible rfl | with_reducible apply keeps_modChan
    | with_reducible apply keeps_count32 | with_reducible apply keeps_ite | dsimp only | split | intro _

theorem keeps_retiredWord {L : Touch} {s0 s : State}  (hk : Keeps L s0 s) (hhealth : L.health := by assumption) : Keeps L s0 (State.retiredWord s) := by
  unfold State.retiredWord
  repeat' first
    | with_reducible assumption | with_reducible rfl | with_reducible apply keeps_hset
    | with_reducible apply keeps_ite | dsimp only | split | intro _

theorem keeps_failDie {L : Touch} {s0 s : State} (ch : Nat) (die : Nat) (hk : Keeps L s0 s) (hfault : L.fault := by assumption) (hmedia : L.media := by assumption) (hplace : L.place := by assumption) (hhealth : L.health := by assumption) : Keeps L s0 (State.failDie s ch die) := by
  unfold State.failDie
  repeat' first
    | with_reducible assumption | with_reducible rfl | with_reducible apply keeps_setChan
    | with_reducible apply keeps_onMedia | with_reducible apply keeps_countGood
    | with_reducible apply keeps_retiredWord | with_reducible apply keeps_assertError | with_reducible apply keeps_ite
    | exact twf_tset _ _ _ _ | dsimp only | split | intro _

theorem keeps_failChannel {L : Touch} {s0 s : State} (ch : Nat) (hk : Keeps L s0 s) (hfault : L.fault := by assumption) (hmedia : L.media := by assumption) (hplace : L.place := by assumption) (hhealth : L.health := by assumption) : Keeps L s0 (State.failChannel s ch) := by
  unfold State.failChannel
  repeat' first
    | with_reducible assumption | with_reducible rfl | with_reducible apply keeps_setChan
    | with_reducible apply keeps_onMedia | with_reducible apply keeps_countGood
    | with_reducible apply keeps_retiredWord | with_reducible apply keeps_assertError | with_reducible apply keeps_ite
    | dsimp only | split | intro _

theorem keeps_checkChannel {L : Touch} {s0 s : State} (ch : Nat) (hk : Keeps L s0 s) (hfault : L.fault := by assumption) (hmedia : L.media := by assumption) (hplace : L.place := by assumption) (hhealth : L.health := by assumption) : Keeps L s0 (State.checkChannel s ch) := by
  unfold State.checkChannel
  repeat' first
    | with_reducible assumption | with_reducible rfl | with_reducible apply keeps_failChannel
    | with_reducible apply keeps_ite | dsimp only | split | intro _

theorem keeps_retireBlock {L : Touch} {s0 s : State} (ch : Nat) (die : Nat) (block : Nat) (factory : Bool) (hk : Keeps L s0 s) (hfault : L.fault := by assumption) (hmedia : L.media := by assumption) (hplace : L.place := by assumption) (hhealth : L.health := by assumption) : Keeps L s0 (State.retireBlock s ch die block factory) := by
  unfold State.retireBlock
  repeat' first
    | with_reducible assumption | with_reducible rfl | with_reducible apply keeps_modChan
    | with_reducible apply keeps_count32 | with_reducible apply keeps_countGood | with_reducible apply keeps_failDie
    | with_reducible apply keeps_checkChannel | with_reducible apply keeps_ite | dsimp only | split | intro _

theorem keeps_busCheck {L : Touch} {s0 s : State} (ch : Nat) (hk : Keeps L s0 s) (hfault : L.fault := by assumption) (hmedia : L.media := by assumption) : Keeps L s0 (State.busCheck s ch) := by
  unfold State.busCheck
  repeat' first
    | with_reducible assumption | with_reducible rfl | with_reducible apply keeps_modChan
    | with_reducible apply keeps_assertError | with_reducible apply keeps_ite | dsimp only | split | intro _

theorem keeps_containChannel {L : Touch} {s0 s : State} (ch : Nat) (hk : Keeps L s0 s) (hmedia : L.media := by assumption) : Keeps L s0 (State.containChannel s ch) := by
  unfold State.containChannel
  repeat' first
    | with_reducible assumption | with_reducible rfl | with_reducible apply keeps_modChan
    | with_reducible apply keeps_ite | dsimp only | split | intro _

theorem keeps_channelsOff {L : Touch} {s0 s : State}  (hk : Keeps L s0 s) (hmedia : L.media := by assumption) : Keeps L s0 (State.channelsOff s) := by
  unfold State.channelsOff
  repeat' first
    | with_reducible assumption | with_reducible rfl | with_reducible apply keeps_onMedia
    | with_reducible apply keeps_ite | exact twf_tmap _ _ _ | dsimp only | split | intro _

theorem keeps_restartMedia {L : Touch} {s0 s : State}  (hk : Keeps L s0 s) (hmedia : L.media := by assumption) : Keeps L s0 (State.restartMedia s) := by
  unfold State.restartMedia
  repeat' first
    | with_reducible assumption | with_reducible rfl | with_reducible apply keeps_modChan
    | with_reducible apply keeps_submit | with_reducible apply keeps_ite
    | with_reducible refine keeps_foldl _ (fun _ _ _ => ?_) _ ?_ | dsimp only | split | intro _

theorem keeps_listMove {L : Touch} {s0 s : State} (kind : Nat) (row : Option Nat) (band : Nat) (ch : Nat) (rung : Nat) (hk : Keeps L s0 s) (hmedia : L.media := by assumption) : Keeps L s0 (State.listMove s kind row band ch rung) := by
  unfold State.listMove
  repeat' first
    | with_reducible assumption | with_reducible rfl | with_reducible apply keeps_onMedia
    | with_reducible apply keeps_ite | dsimp only | split | intro _

theorem keeps_listRefresh {L : Touch} {s0 s : State} (band : Nat) (ch : Nat) (rung : Nat) (hk : Keeps L s0 s) (hmedia : L.media := by assumption) : Keeps L s0 (State.listRefresh s band ch rung) := by
  unfold State.listRefresh
  repeat' first
    | with_reducible assumption | with_reducible rfl | with_reducible apply keeps_listMove
    | with_reducible apply keeps_ite | dsimp only | split | intro _

theorem keeps_countRead {L : Touch} {s0 s : State} (ch : Nat) (st : MStatus) (hk : Keeps L s0 s) (hmedia : L.media := by assumption) (hhealth : L.health := by assumption) : Keeps L s0 (State.countRead s ch st) := by
  unfold State.countRead
  repeat' first
    | with_reducible assumption | with_reducible rfl | with_reducible apply keeps_modChan
    | with_reducible apply keeps_count32 | with_reducible apply keeps_ite | dsimp only | split | intro _

theorem keeps_stripeLost {L : Touch} {s0 s : State} (band : Nat) (row : Nat) (hk : Keeps L s0 s) (hfault : L.fault := by assumption) (hmedia : L.media := by assumption) (hhealth : L.health := by assumption) : Keeps L s0 (State.stripeLost s band row) := by
  unfold State.stripeLost
  repeat' first
    | with_reducible assumption | with_reducible rfl | with_reducible apply keeps_onMedia
    | with_reducible apply keeps_count32 | with_reducible apply keeps_assertError | with_reducible apply keeps_ite
    | dsimp only | split | intro _

theorem keeps_recordRung {L : Touch} {s0 s : State} (ch : Nat) (die : Nat) (block : Nat) (wl : Nat) (rung : Nat) (hk : Keeps L s0 s) (hmedia : L.media := by assumption) : Keeps L s0 (State.recordRung s ch die block wl rung) := by
  unfold State.recordRung
  repeat' first
    | with_reducible assumption | with_reducible rfl | with_reducible apply keeps_modChan
    | with_reducible apply keeps_ite | dsimp only | split | intro _

end

end Sys2Proof.Machine
end

