-- ==== Sys2Proof/Laws/KeepsPlacement.lean ====
section
/-! SUPPORT. What the operations of Machine/Placement.lean keep. -/
namespace Sys2Proof.Machine
open Sys2Proof

section
set_option Elab.async false

theorem keeps_setBand {L : Touch} {s0 s : State} (b : Nat) (x : Band) (hk : Keeps L s0 s) (hplace : L.place := by assumption) : Keeps L s0 (State.setBand s b x) := by
  unfold State.setBand
  repeat' first
    | with_reducible assumption | with_reducible rfl | with_reducible apply keeps_onPlace
    | with_reducible apply keeps_ite | exact twf_tset _ _ _ _ | dsimp only | split | intro _

theorem keeps_modBand {L : Touch} {s0 s : State} (b : Nat) (f : Band → Band) (hk : Keeps L s0 s) (hplace : L.place := by assumption) : Keeps L s0 (State.modBand s b f) := by
  unfold State.modBand
  repeat' first
    | with_reducible assumption | with_reducible rfl | with_reducible apply keeps_setBand
    | with_reducible apply keeps_ite | dsimp only | split | intro _

theorem keeps_takeBlock {L : Touch} {s0 s : State} (d : Nat) (m : Nat × Nat) (b : Nat) (slc : Bool) (cls : BitVec 3) (hk : Keeps L s0 s) (hmedia : L.media := by assumption) : Keeps L s0 (State.takeBlock s d m b slc cls) := by
  unfold State.takeBlock
  repeat' first
    | with_reducible assumption | with_reducible rfl | with_reducible apply keeps_submit
    | with_reducible apply keeps_ite | dsimp only | split | intro _

theorem keeps_noteShort {L : Touch} {s0 s : State}  (hk : Keeps L s0 s) (hplace : L.place := by assumption) : Keeps L s0 (State.noteShort s) := by
  unfold State.noteShort
  repeat' first
    | with_reducible assumption | with_reducible rfl | with_reducible apply keeps_onPlace
    | with_reducible apply keeps_ite | dsimp only | split | intro _

theorem keeps_newBand {L : Touch} {s0 s : State} (d : Nat) (pool : Pool) (slc : Bool) (hk : Keeps L s0 s) (hplace : L.place := by assumption) : KeepsP L s0 (State.newBand s d pool slc) := by
  unfold State.newBand
  repeat' first
    | with_reducible assumption | with_reducible rfl | with_reducible apply keepsP_some | exact keepsP_none
    | with_reducible apply keeps_onPlace | with_reducible apply keeps_noteShort | with_reducible apply keepsP_ite
    | with_reducible apply keeps_ite | exact twf_tset _ _ _ _ | dsimp only | split | intro _

theorem keeps_formBand {L : Touch} {s0 s : State} (d : Nat) (pool : Pool) (slc : Bool) (intake : Bool) (hk : Keeps L s0 s) (hmedia : L.media := by assumption) (hplace : L.place := by assumption) :
    KeepsP L s0 (State.formBand s d pool slc intake) := by
  intro t b e
  obtain ⟨⟨u, c⟩, hu, ht⟩ := Option.map_eq_some_iff.mp e
  cases ht
  exact keeps_foldl _ (fun _ _ h => keeps_takeBlock _ _ _ _ _ h) _ (keepsP_out (keeps_newBand d pool slc hk) hu)

theorem keeps_wearBlock {L : Touch} {s0 s : State} (ch : Nat) (die : Nat) (block : Nat) (hk : Keeps L s0 s) (hmedia : L.media := by assumption) : Keeps L s0 (State.wearBlock s ch die block) := by
  unfold State.wearBlock
  repeat' first
    | with_reducible assumption | with_reducible rfl | with_reducible apply keeps_onMedia
    | with_reducible apply keeps_ite | exact twf_tset _ _ _ _ | dsimp only | split | intro _

theorem keeps_takeNow {L : Touch} {s0 : State} (r : RecoveryIn) (d : Nat) (n : Nat) (s : State) (hk : Keeps L s0 s) (hfault : L.fault := by assumption) (hmedia : L.media := by assumption) (hplace : L.place := by assumption) (hhealth : L.health := by assumption) :
    Keeps L s0 (State.takeNow r d n s) := by
  induction n generalizing s with
  | zero => exact hk
  | succ n ih =>
    unfold State.takeNow
    exact keeps_ite hk (ih _ (keeps_foldl _ (fun _ m h => keeps_retireBlock _ _ _ _ (keeps_countFail _ _ (keeps_wearBlock _ _ _ h))) _
      (keeps_foldl _ (fun _ m h => keeps_retireBlock _ _ _ _ h) _ hk)))

theorem keeps_formNow {L : Touch} {s0 s : State} (r : RecoveryIn) (pool : Pool) (d : Nat) (hk : Keeps L s0 s) (hfault : L.fault := by assumption) (hmedia : L.media := by assumption) (hplace : L.place := by assumption) (hhealth : L.health := by assumption) :
    Keeps L s0 (State.formNow s r pool d).1 := by
  unfold State.formNow
  have h1 := keeps_takeNow r d (r.marked.length + r.eraseFails.length + 1) s hk
  dsimp only
  split
  next => exact h1
  next t b e =>
    dsimp only
    refine keeps_modBand _ _ ?_
    refine keeps_foldl _ ?_ _ (keepsP_out (keeps_newBand d pool true h1) e)
    intro u m h
    have hv := keeps_wearBlock m.1 d m.2 h
    exact keeps_ite (keeps_wearBlock m.1 d m.2 hv) hv

theorem keeps_formBands {L : Touch} {s0 : State} (pool : Pool) (slc intake : Bool) (s : State) (ds : List Nat) (h : Keeps L s0 s) (hmedia : L.media := by assumption) (hplace : L.place := by assumption) :
    KeepsP L s0 (formBands pool slc intake s ds) := by
  induction ds generalizing s with
  | nil => exact keepsP_some _ h
  | cons d ds ih =>
    unfold formBands
    split
    next => exact keepsP_none
    next t b e =>
      have ht := (keeps_formBand d pool slc intake h) t b e
      intro u x e2
      obtain ⟨⟨v, ys⟩, hv, hu⟩ := Option.map_eq_some_iff.mp e2
      cases hu
      exact ih t ht v ys hv

theorem keeps_openGroup {L : Touch} {s0 s : State} (role : GroupRole) (hk : Keeps L s0 s) (hmedia : L.media := by assumption) (hplace : L.place := by assumption) : KeepsP L s0 (State.openGroup s role) := by
  unfold State.openGroup
  repeat' first
    | with_reducible assumption | with_reducible rfl | with_reducible apply keepsP_some | exact keepsP_none
    | with_reducible apply keeps_formBands | with_reducible apply keeps_modBand | with_reducible apply keeps_onPlace
    | with_reducible apply keepsP_ite | with_reducible apply keeps_ite | dsimp only | split | intro _
    | refine keepsP_out (keeps_formBands _ _ _ _ _ ?_) (by assumption)

theorem keeps_programUnit {L : Touch} {s0 s : State} (row : Nat) (b : Nat) (c : Nat) (cls : BitVec 3) (hk : Keeps L s0 s) (hmedia : L.media := by assumption) : Keeps L s0 (State.programUnit s row b c cls) := by
  unfold State.programUnit
  repeat' first
    | with_reducible assumption | with_reducible rfl | with_reducible apply keeps_submit
    | with_reducible apply keeps_ite | dsimp only | split | intro _

theorem keeps_launch {L : Touch} {s0 s : State} (g : Group) (units : List Nat) (cls : BitVec 3) (hk : Keeps L s0 s) (hmedia : L.media := by assumption) : Keeps L s0 (State.launch s g units cls) := by
  unfold State.launch
  repeat' first
    | with_reducible assumption | with_reducible rfl | with_reducible apply keeps_programUnit
    | with_reducible apply keeps_ite | with_reducible refine keeps_foldl _ (fun _ _ _ => ?_) _ ?_ | dsimp only | split
    | intro _

theorem keeps_closeBand {L : Touch} {s0 s : State} (b : Nat) (hk : Keeps L s0 s) (hplace : L.place := by assumption) : Keeps L s0 (State.closeBand s b) := by
  unfold State.closeBand
  repeat' first
    | with_reducible assumption | with_reducible rfl | with_reducible apply keeps_modBand
    | with_reducible apply keeps_ite | dsimp only | split | intro _

theorem keeps_parityDone {L : Touch} {s0 s : State} (b : Nat) (row : Nat) (hk : Keeps L s0 s) (hplace : L.place := by assumption) : Keeps L s0 (State.parityDone s b row) := by
  unfold State.parityDone
  repeat' first
    | with_reducible assumption | with_reducible rfl | with_reducible apply keeps_modBand
    | with_reducible apply keeps_closeBand | with_reducible apply keeps_ite | dsimp only | split | intro _

theorem keeps_issueParity {L : Touch} {s0 s : State} (b : Nat) (row : Nat) (cls : BitVec 3) (hk : Keeps L s0 s) (hmedia : L.media := by assumption) : Keeps L s0 (State.issueParity s b row cls) := by
  unfold State.issueParity
  repeat' first
    | with_reducible assumption | with_reducible rfl | with_reducible apply keeps_submit
    | with_reducible apply keeps_ite | dsimp only | split | intro _

theorem keeps_accUnit {L : Touch} {s0 s : State} (d : MDesc) (c : Nat) (hk : Keeps L s0 s) (hplace : L.place := by assumption) : Keeps L s0 (State.accUnit s d c) := by
  unfold State.accUnit
  repeat' first
    | with_reducible assumption | with_reducible rfl | with_reducible apply keeps_modBand
    | with_reducible apply keeps_ite | dsimp only | split | intro _

theorem keeps_unaccUnit {L : Touch} {s0 s : State} (d : MDesc) (c : Nat) (hk : Keeps L s0 s) (hplace : L.place := by assumption) : Keeps L s0 (State.unaccUnit s d c) := by
  unfold State.unaccUnit
  repeat' first
    | with_reducible assumption | with_reducible rfl | with_reducible apply keeps_modBand
    | with_reducible apply keeps_ite | dsimp only | split | intro _

theorem keeps_closeRows {L : Touch} {s0 s : State} (b : Nat) (cls : BitVec 3) (hk : Keeps L s0 s) (hmedia : L.media := by assumption) (hplace : L.place := by assumption) : Keeps L s0 (State.closeRows s b cls) := by
  unfold State.closeRows
  repeat' first
    | with_reducible assumption | with_reducible rfl | with_reducible apply keeps_modBand
    | with_reducible apply keeps_programUnit | with_reducible apply keeps_issueParity
    | with_reducible apply keeps_closeBand | with_reducible apply keeps_ite
    | with_reducible refine keeps_foldl _ (fun _ _ _ => ?_) _ ?_ | dsimp only | split | intro _

theorem keeps_closeGroup {L : Touch} {s0 s : State} (g : Group) (hk : Keeps L s0 s) (hmedia : L.media := by assumption) (hplace : L.place := by assumption) : Keeps L s0 (State.closeGroup s g) := by
  unfold State.closeGroup
  repeat' first
    | with_reducible assumption | with_reducible rfl | with_reducible apply keeps_onPlace
    | with_reducible apply keeps_launch | with_reducible apply keeps_closeRows | with_reducible apply keeps_ite
    | with_reducible refine keeps_foldl _ (fun _ _ _ => ?_) _ ?_ | dsimp only | split | intro _

theorem keeps_allocate {L : Touch} {s0 s : State} (role : GroupRole) (n : Nat) (h : Keeps L s0 s) (hmedia : L.media := by assumption) (hplace : L.place := by assumption) :
    KeepsP L s0 (s.allocate role n) := by
  unfold State.allocate
  split
  next => exact keepsP_none
  next t g e =>
    have ht : Keeps L s0 t := keepsP_out (keeps_openGroup role h) e
    have hr : KeepsP L s0 (if decide (g.next + n ≤ t.groupSize g) = true then some (t, g) else
        (t.closeGroup g).openGroup role) :=
      keepsP_ite (keepsP_some _ ht) (keeps_openGroup role (keeps_closeGroup _ ht))
    dsimp only
    split
    next => exact keepsP_none
    next u k e2 =>
      have hu : Keeps L s0 u := keepsP_out hr e2
      exact keepsP_ite keepsP_none (keepsP_some _ (keeps_onPlace _ hu))

theorem keeps_placeStream {L : Touch} {s0 s : State} (i : Nat) (staged : Bool) (hk : Keeps L s0 s) (hmedia : L.media := by assumption) (hplace : L.place := by assumption) : Keeps L s0 (State.placeStream s i staged) := by
  unfold State.placeStream
  repeat' first
    | with_reducible assumption | with_reducible rfl | with_reducible apply keeps_allocate
    | with_reducible apply keeps_onPlace | with_reducible apply keeps_launch | with_reducible apply keeps_ite
    | dsimp only | split | intro _ | refine keepsP_out (keeps_allocate _ _ ?_) (by assumption)

theorem keeps_placeUnits {L : Touch} {s0 s : State} (staged : Bool) (hk : Keeps L s0 s) (hmedia : L.media := by assumption) (hplace : L.place := by assumption) : Keeps L s0 (State.placeUnits s staged) := by
  unfold State.placeUnits
  repeat' first
    | with_reducible assumption | with_reducible rfl | with_reducible apply keeps_allocate
    | with_reducible apply keeps_onPlace | with_reducible apply keeps_launch | with_reducible apply keeps_ite
    | dsimp only | split | intro _ | refine keepsP_out (keeps_allocate _ _ ?_) (by assumption)

theorem keeps_placeHeld {L : Touch} {s0 s : State} (i : Nat) (hk : Keeps L s0 s) (hmedia : L.media := by assumption) (hplace : L.place := by assumption) : Keeps L s0 (State.placeHeld s i) := by
  unfold State.placeHeld
  repeat' first
    | with_reducible assumption | with_reducible rfl | with_reducible apply keeps_placeStream
    | with_reducible apply keeps_ite | dsimp only | split | intro _

theorem keeps_padGroup {L : Touch} {s0 s : State} (role : GroupRole) (cls : BitVec 3) (hk : Keeps L s0 s) (hmedia : L.media := by assumption) (hplace : L.place := by assumption) : Keeps L s0 (State.padGroup s role cls) := by
  unfold State.padGroup
  repeat' first
    | with_reducible assumption | with_reducible rfl | with_reducible apply keeps_allocate
    | with_reducible apply keeps_launch | with_reducible apply keeps_ite | dsimp only | split | intro _
    | refine keepsP_out (keeps_allocate _ _ ?_) (by assumption)

theorem keeps_padStaging {L : Touch} {s0 s : State}  (hk : Keeps L s0 s) (hmedia : L.media := by assumption) (hplace : L.place := by assumption) : Keeps L s0 (State.padStaging s) := by
  unfold State.padStaging
  repeat' first
    | with_reducible assumption | with_reducible rfl | with_reducible apply keeps_padGroup
    | with_reducible apply keeps_ite | dsimp only | split | intro _

theorem keeps_pageJob {L : Touch} {s0 s : State} (body : State → PageBody) (hk : Keeps L s0 s) (hmedia : L.media := by assumption) (hplace : L.place := by assumption) : Keeps L s0 (State.pageJob s body) := by
  unfold State.pageJob
  repeat' first
    | with_reducible assumption | with_reducible rfl | with_reducible apply keeps_allocate
    | with_reducible apply keeps_onPlace | with_reducible apply keeps_launch | with_reducible apply keeps_ite
    | dsimp only | split | intro _ | refine keepsP_out (keeps_allocate _ _ ?_) (by assumption)

theorem keeps_touchDirectory {L : Touch} {s0 s : State} (p : Nat) (hk : Keeps L s0 s) (hplace : L.place := by assumption) : Keeps L s0 (State.touchDirectory s p) := by
  unfold State.touchDirectory
  repeat' first
    | with_reducible assumption | with_reducible rfl | with_reducible apply keeps_onPlace
    | with_reducible apply keeps_ite | dsimp only | split | intro _

theorem keeps_programMap {L : Touch} {s0 s : State} (p : Nat) (hk : Keeps L s0 s) (hmedia : L.media := by assumption) (hplace : L.place := by assumption) : Keeps L s0 (State.programMap s p) := by
  unfold State.programMap
  repeat' first
    | with_reducible assumption | with_reducible rfl | with_reducible apply keeps_pageJob
    | with_reducible apply keeps_onPlace | with_reducible apply keeps_touchDirectory | with_reducible apply keeps_ite
    | dsimp only | split | intro _

theorem keeps_programRun {L : Touch} {s0 s : State} (l : Loc) (hk : Keeps L s0 s) (hmedia : L.media := by assumption) (hplace : L.place := by assumption) : Keeps L s0 (State.programRun s l) := by
  unfold State.programRun
  repeat' first
    | with_reducible assumption | with_reducible rfl | with_reducible apply keeps_onPlace
    | with_reducible apply keeps_pageJob | with_reducible apply keeps_ite | dsimp only | split | intro _

theorem keeps_submitPages {L : Touch} {s0 s : State}  (hk : Keeps L s0 s) (hmedia : L.media := by assumption) (hplace : L.place := by assumption) : Keeps L s0 (State.submitPages s) := by
  unfold State.submitPages
  repeat' first
    | with_reducible assumption | with_reducible rfl | with_reducible apply keeps_programRun
    | with_reducible apply keeps_programMap | with_reducible apply keeps_padGroup | with_reducible apply keeps_ite
    | with_reducible refine keeps_foldl _ (fun _ _ _ => ?_) _ ?_ | dsimp only | split | intro _

theorem keeps_takeEntry {L : Touch} {s0 s : State} (u : Nat) (seq : Nat) (hk : Keeps L s0 s) (hplace : L.place := by assumption) : Keeps L s0 (State.takeEntry s u seq) := by
  unfold State.takeEntry
  repeat' first
    | with_reducible assumption | with_reducible rfl | with_reducible apply keeps_onPlace
    | with_reducible apply keeps_ite | exact twf_tset _ _ _ _ | dsimp only | split | intro _

theorem keeps_landPage {L : Touch} {s0 s : State} (x : Loc × PageBody) (hk : Keeps L s0 s) (hmedia : L.media := by assumption) (hplace : L.place := by assumption) : Keeps L s0 (State.landPage s x) := by
  unfold State.landPage
  repeat' first
    | with_reducible assumption | with_reducible rfl | with_reducible apply keeps_onPlace
    | with_reducible apply keeps_pageJob | with_reducible apply keeps_padGroup | with_reducible apply keeps_ite
    | dsimp only | split | intro _

theorem keeps_landPages {L : Touch} {s0 s : State} (d : MDesc) (c : Nat) (hk : Keeps L s0 s) (hmedia : L.media := by assumption) (hplace : L.place := by assumption) : Keeps L s0 (State.landPages s d c) := by
  unfold State.landPages
  repeat' first
    | with_reducible assumption | with_reducible rfl | with_reducible apply keeps_landPage
    | with_reducible apply keeps_ite | with_reducible refine keeps_foldl _ (fun _ _ _ => ?_) _ ?_ | dsimp only | split
    | intro _

theorem keeps_unitDone {L : Touch} {s0 s : State} (d : MDesc) (c : Nat) (hk : Keeps L s0 s) (hmedia : L.media := by assumption) (hplace : L.place := by assumption) : Keeps L s0 (State.unitDone s d c) := by
  unfold State.unitDone
  repeat' first
    | with_reducible assumption | with_reducible rfl | with_reducible apply keeps_onPlace
    | with_reducible apply keeps_landPages | with_reducible apply keeps_modBand
    | with_reducible apply keeps_issueParity | with_reducible apply keeps_closeBand | with_reducible apply keeps_ite
    | dsimp only | split | intro _

theorem keeps_spillUnits {L : Touch} {s0 s : State} (n : Nat) (hk : Keeps L s0 s) (hmedia : L.media := by assumption) (hplace : L.place := by assumption) : Keeps L s0 (State.spillUnits s n) := by
  unfold State.spillUnits
  repeat' first
    | with_reducible assumption | with_reducible rfl | with_reducible apply keeps_allocate
    | with_reducible apply keeps_onPlace | with_reducible apply keeps_launch | with_reducible apply keeps_ite
    | dsimp only | split | intro _ | refine keepsP_out (keeps_allocate _ _ ?_) (by assumption)

theorem keeps_fixModes {L : Touch} {s0 s : State}  (hk : Keeps L s0 s) (hplace : L.place := by assumption) : Keeps L s0 (State.fixModes s) := by
  unfold State.fixModes
  repeat' first
    | with_reducible assumption | with_reducible rfl | with_reducible apply keeps_onPlace
    | with_reducible apply keeps_ite | dsimp only | split | intro _

theorem keeps_chooseModes {L : Touch} {s0 s : State}  (hk : Keeps L s0 s) (hintake : L.intake := by assumption) (hmedia : L.media := by assumption) (hplace : L.place := by assumption) : Keeps L s0 (State.chooseModes s) := by
  unfold State.chooseModes
  repeat' first
    | with_reducible assumption | with_reducible rfl | with_reducible apply keeps_fixModes
    | with_reducible apply keeps_onIntake | with_reducible apply keeps_closeGroup | with_reducible apply keeps_ite
    | with_reducible refine keeps_foldl _ (fun _ _ _ => ?_) _ ?_ | dsimp only | split | intro _

theorem keeps_stagingCheck {L : Touch} {s0 s : State}  (hk : Keeps L s0 s) (hlink : L.link := by assumption) (hplace : L.place := by assumption) (hhost : L.host := by assumption) : Keeps L s0 (State.stagingCheck s) := by
  unfold State.stagingCheck
  repeat' first
    | with_reducible assumption | with_reducible rfl | with_reducible apply keeps_raise
    | with_reducible apply keeps_onPlace | with_reducible apply keeps_ite | dsimp only | split | intro _

end

end Sys2Proof.Machine
end

