-- ==== Sys2Proof/Laws/KeepsJournal.lean ====
section
/-! SUPPORT. What the operations of Machine/Journal.lean keep. -/
namespace Sys2Proof.Machine
open Sys2Proof

section
set_option Elab.async false

theorem keeps_programPages {L : Touch} {s0 s : State} (b : Nat) (first : Nat) (n : Nat) (hk : Keeps L s0 s) (hplace : L.place := by assumption) : Keeps L s0 (State.programPages s b first n) := by
  unfold State.programPages
  repeat' first
    | with_reducible assumption | with_reducible rfl | with_reducible apply keeps_modBand
    | with_reducible apply keeps_ite | with_reducible refine keeps_foldl _ (fun _ _ _ => ?_) _ ?_ | dsimp only | split
    | intro _

theorem keeps_settleJournal {L : Touch} {s0 s : State}  (hk : Keeps L s0 s) (hplace : L.place := by assumption) (hjournal : L.journal := by assumption) : Keeps L s0 (State.settleJournal s) := by
  unfold State.settleJournal
  repeat' first
    | with_reducible assumption | with_reducible rfl | with_reducible apply keeps_modBand
    | with_reducible apply keeps_onJournal | with_reducible apply keeps_ite | dsimp only | split | intro _

theorem keeps_formJournal {L : Touch} {s0 s : State} (r : RecoveryIn) (hk : Keeps L s0 s) (hfault : L.fault := by assumption) (hmedia : L.media := by assumption) (hplace : L.place := by assumption) (hhealth : L.health := by assumption) : Keeps L s0 (State.formJournal s r).1 := by
  unfold State.formJournal
  refine keeps_foldl_fst _ (fun a d h => ?_) _ hk
  split
  next => exact h
  next => exact keeps_formNow r .journal d h

theorem keeps_append {L : Touch} {s0 s : State} (b : Body) (hk : Keeps L s0 s) (hplace : L.place := by assumption) (hjournal : L.journal := by assumption) : Keeps L s0 (State.append s b) := by
  unfold State.append
  repeat' first
    | with_reducible assumption | with_reducible rfl | with_reducible apply keeps_programPages
    | with_reducible apply keeps_onJournal | with_reducible apply keeps_ite | dsimp only | split | intro _

theorem keeps_dropSpare {L : Touch} {s0 s : State} (now : Bool) (hk : Keeps L s0 s) (hplace : L.place := by assumption) (hjournal : L.journal := by assumption) : Keeps L s0 (State.dropSpare s now) := by
  unfold State.dropSpare
  repeat' first
    | with_reducible assumption | with_reducible rfl | with_reducible apply keeps_modBand
    | with_reducible apply keeps_onJournal | with_reducible apply keeps_ite | dsimp only | split | intro _

theorem keeps_spareJournal {L : Touch} {s0 s : State} (r : Option RecoveryIn) (hk : Keeps L s0 s) (hfault : L.fault := by assumption) (hmedia : L.media := by assumption) (hplace : L.place := by assumption) (hjournal : L.journal := by assumption) (hhealth : L.health := by assumption) : Keeps L s0 (State.spareJournal s r) := by
  unfold State.spareJournal
  repeat' first
    | with_reducible assumption | with_reducible rfl | with_reducible apply keeps_dropSpare
    | with_reducible apply keeps_formJournal | with_reducible apply keeps_formBand
    | with_reducible apply keeps_modBand | with_reducible apply keeps_onJournal | with_reducible apply keeps_ite
    | dsimp only | split | intro _ | refine keepsP_out (keeps_formBand _ _ _ _ ?_) (by assumption)
    | refine keepsP_out (keepsP_findSome _ _ (fun _ => keeps_formBand _ _ _ _ ?_)) (by assumption)

theorem keeps_linkBand {L : Touch} {s0 s : State} (r : Option RecoveryIn) (hk : Keeps L s0 s) (hfault : L.fault := by assumption) (hmedia : L.media := by assumption) (hplace : L.place := by assumption) (hjournal : L.journal := by assumption) (hhealth : L.health := by assumption) : Keeps L s0 (State.linkBand s r) := by
  unfold State.linkBand
  repeat' first
    | with_reducible assumption | with_reducible rfl | with_reducible apply keeps_spareJournal
    | with_reducible apply keeps_append | with_reducible apply keeps_onJournal | with_reducible apply keeps_ite
    | dsimp only | split | intro _

theorem keeps_record {L : Touch} {s0 s : State} (b : Body) (r : Option RecoveryIn) (hk : Keeps L s0 s) (hfault : L.fault := by assumption) (hmedia : L.media := by assumption) (hplace : L.place := by assumption) (hjournal : L.journal := by assumption) (hhealth : L.health := by assumption) : Keeps L s0 (State.record s b r) := by
  unfold State.record
  repeat' first
    | with_reducible assumption | with_reducible rfl | with_reducible apply keeps_settleJournal
    | with_reducible apply keeps_linkBand | with_reducible apply keeps_append | with_reducible apply keeps_ite
    | dsimp only | split | intro _

theorem keeps_replacePage {L : Touch} {s0 s : State} (x : Loc × RunPage) (hk : Keeps L s0 s) (hmedia : L.media := by assumption) (hplace : L.place := by assumption) : Keeps L s0 (State.replacePage s x) := by
  unfold State.replacePage
  repeat' first
    | with_reducible assumption | with_reducible rfl | with_reducible apply keeps_onPlace
    | with_reducible apply keeps_pageJob | with_reducible apply keeps_padGroup | with_reducible apply keeps_ite
    | with_reducible refine keeps_foldl _ (fun _ _ _ => ?_) _ ?_ | dsimp only | split | intro _

theorem keeps_replacePages {L : Touch} {s0 s : State}  (hk : Keeps L s0 s) (hmedia : L.media := by assumption) (hplace : L.place := by assumption) : Keeps L s0 (State.replacePages s) := by
  unfold State.replacePages
  repeat' first
    | with_reducible assumption | with_reducible rfl | with_reducible apply keeps_replacePage
    | with_reducible apply keeps_ite | with_reducible refine keeps_foldl _ (fun _ _ _ => ?_) _ ?_ | dsimp only | split
    | intro _

theorem keeps_touchEntry {L : Touch} {s0 s : State} (u : Nat) (seq : Nat) (hk : Keeps L s0 s) (hplace : L.place := by assumption) : Keeps L s0 (State.touchEntry s u seq) := by
  unfold State.touchEntry
  repeat' first
    | with_reducible assumption | with_reducible rfl | with_reducible apply keeps_takeEntry
    | with_reducible apply keeps_onPlace | with_reducible apply keeps_ite | dsimp only | split | intro _

theorem keeps_setTail {L : Touch} {s0 s : State}  (hk : Keeps L s0 s) (hjournal : L.journal := by assumption) : Keeps L s0 (State.setTail s) := by
  unfold State.setTail
  repeat' first
    | with_reducible assumption | with_reducible rfl | with_reducible apply keeps_onJournal
    | with_reducible apply keeps_ite | dsimp only | split | intro _

theorem keeps_commitTail {L : Touch} {s0 s : State}  (hk : Keeps L s0 s) (hmedia : L.media := by assumption) (hplace : L.place := by assumption) (hjournal : L.journal := by assumption) : Keeps L s0 (State.commitTail s) := by
  unfold State.commitTail
  repeat' first
    | with_reducible assumption | with_reducible rfl | with_reducible apply keeps_onPlace
    | with_reducible apply keeps_touchEntry | with_reducible apply keeps_replacePages
    | with_reducible apply keeps_setTail | with_reducible apply keeps_ite
    | with_reducible refine keeps_foldl _ (fun _ _ _ => ?_) _ ?_ | dsimp only | split | intro _

theorem keeps_postMarks {L : Touch} {s0 s : State} (cycle : Nat) (recovered : Bool) (hk : Keeps L s0 s) (hhost : L.host := by assumption) : Keeps L s0 (State.postMarks s cycle recovered) := by
  unfold State.postMarks
  repeat' first
    | with_reducible assumption | with_reducible rfl | with_reducible apply keeps_issue
    | with_reducible apply keeps_onHost | with_reducible apply keeps_ite
    | with_reducible refine keeps_foldl _ (fun _ _ _ => ?_) _ ?_ | dsimp only | split | intro _

theorem keeps_sendMarks {L : Touch} {s0 s : State}  (hk : Keeps L s0 s) (hhost : L.host := by assumption) : Keeps L s0 (State.sendMarks s) := by
  unfold State.sendMarks
  repeat' first
    | with_reducible assumption | with_reducible rfl | with_reducible apply keeps_issue
    | with_reducible apply keeps_onHost | with_reducible apply keeps_ite
    | with_reducible refine keeps_foldl _ (fun _ _ _ => ?_) _ ?_ | dsimp only | split | intro _

theorem keeps_beginSeal {L : Touch} {s0 s : State} (n : Nat) (hk : Keeps L s0 s) (hmedia : L.media := by assumption) (hplace : L.place := by assumption) (hjournal : L.journal := by assumption) : Keeps L s0 (State.beginSeal s n) := by
  unfold State.beginSeal
  repeat' first
    | with_reducible assumption | with_reducible rfl | with_reducible apply keeps_placeUnits
    | with_reducible apply keeps_placeHeld | with_reducible apply keeps_spillUnits
    | with_reducible apply keeps_padStaging | with_reducible apply keeps_onJournal | with_reducible apply keeps_ite
    | with_reducible refine keeps_foldl _ (fun _ _ _ => ?_) _ ?_ | dsimp only | split | intro _

theorem keeps_sealWords {L : Touch} {s0 s : State}  (hk : Keeps L s0 s) (hhealth : L.health := by assumption) : Keeps L s0 (State.sealWords s) := by
  unfold State.sealWords
  repeat' first
    | with_reducible assumption | with_reducible rfl | with_reducible apply keeps_hset
    | with_reducible apply keeps_ite | dsimp only | split | intro _

theorem keeps_wearWords {L : Touch} {s0 s : State}  (hk : Keeps L s0 s) (hhealth : L.health := by assumption) : Keeps L s0 (State.wearWords s) := by
  unfold State.wearWords
  repeat' first
    | with_reducible assumption | with_reducible rfl | with_reducible apply keeps_hset
    | with_reducible apply keeps_ite | with_reducible refine keeps_foldl _ (fun _ _ _ => ?_) _ ?_ | dsimp only | split
    | intro _

theorem keeps_checkpoint {L : Touch} {s0 s : State} (r : Option RecoveryIn) (hk : Keeps L s0 s) (hfault : L.fault := by assumption) (hmedia : L.media := by assumption) (hplace : L.place := by assumption) (hjournal : L.journal := by assumption) (hhealth : L.health := by assumption) : Keeps L s0 (State.checkpoint s r) := by
  unfold State.checkpoint
  repeat' first
    | with_reducible assumption | with_reducible rfl | with_reducible apply keeps_wearWords
    | with_reducible apply keeps_record | with_reducible apply keeps_onJournal | with_reducible apply keeps_ite
    | dsimp only | split | intro _

theorem keeps_submitSealPages {L : Touch} {s0 s : State} (x : Seal) (hk : Keeps L s0 s) (hmedia : L.media := by assumption) (hplace : L.place := by assumption) (hjournal : L.journal := by assumption) : Keeps L s0 (State.submitSealPages s x) := by
  unfold State.submitSealPages
  repeat' first
    | with_reducible assumption | with_reducible rfl | with_reducible apply keeps_submitPages
    | with_reducible apply keeps_onJournal | with_reducible apply keeps_ite | dsimp only | split | intro _

theorem keeps_refreshCheck {L : Touch} {s0 s : State}  (hk : Keeps L s0 s) (hmedia : L.media := by assumption) (hhealth : L.health := by assumption) : Keeps L s0 (State.refreshCheck s) := by
  unfold State.refreshCheck
  repeat' first
    | with_reducible assumption | with_reducible rfl | with_reducible apply keeps_onMedia
    | with_reducible apply keeps_count32 | with_reducible apply keeps_ite | dsimp only | split | intro _

theorem keeps_releaseAccs {L : Touch} {s0 s : State}  (hk : Keeps L s0 s) (hplace : L.place := by assumption) : Keeps L s0 (State.releaseAccs s) := by
  unfold State.releaseAccs
  repeat' first
    | with_reducible assumption | with_reducible rfl | with_reducible apply keeps_onPlace
    | with_reducible apply keeps_ite | exact twf_tmap _ _ _ | dsimp only | split | intro _

theorem keeps_completeSeal {L : Touch} {s0 s : State} (x : Seal) (hk : Keeps L s0 s) (hlamp : L.lamp := by assumption) (hlink : L.link := by assumption) (hfault : L.fault := by assumption) (hintake : L.intake := by assumption) (hmedia : L.media := by assumption) (hplace : L.place := by assumption) (hjournal : L.journal := by assumption) (hhost : L.host := by assumption) (hhealth : L.health := by assumption) : Keeps L s0 (State.completeSeal s x) := by
  unfold State.completeSeal
  repeat' first
    | with_reducible assumption | with_reducible rfl | with_reducible apply keeps_forgetStream
    | with_reducible apply keeps_record | with_reducible apply keeps_mapStreams | with_reducible apply keeps_onPlace
    | with_reducible apply keeps_onJournal | with_reducible apply keeps_onLampSame
    | with_reducible apply keeps_sealWords | with_reducible apply keeps_postMarks
    | with_reducible apply keeps_checkpoint | with_reducible apply keeps_refreshCheck
    | with_reducible apply keeps_releaseAccs | with_reducible apply keeps_setTail | with_reducible apply keeps_holdC
    | with_reducible apply keeps_spaceCheck | with_reducible apply keeps_ite
    | with_reducible refine keeps_foldl _ (fun _ _ _ => ?_) _ ?_ | exact twf_tmap _ _ _ | exact ⟨rfl, rfl, rfl, rfl⟩
    | dsimp only | split | intro _ | unfold IntakeState.cleared | unfold PowerState.cleared | unfold MemState.cleared

theorem keeps_promote {L : Touch} {s0 s : State} (g : Piece → Bool) (hk : Keeps L s0 s) (hmedia : L.media := by assumption) : Keeps L s0 (State.promote s g) := by
  unfold State.promote
  repeat' first
    | with_reducible assumption | with_reducible rfl | with_reducible apply keeps_onMedia
    | with_reducible apply keeps_ite | exact twf_tmap _ _ _ | dsimp only | split | intro _

theorem keeps_toStaging {L : Touch} {s0 s : State} (spill : Bool) (g : Piece → Bool) (hk : Keeps L s0 s) (hmedia : L.media := by assumption) (hplace : L.place := by assumption) : Keeps L s0 (State.toStaging s spill g) := by
  unfold State.toStaging
  repeat' first
    | with_reducible assumption | with_reducible rfl | with_reducible apply keeps_allocate
    | with_reducible apply keeps_onPlace | with_reducible apply keeps_launch | with_reducible apply keeps_ite
    | dsimp only | split | intro _ | refine keepsP_out (keeps_allocate _ _ ?_) (by assumption)

theorem keeps_flushProgram {L : Touch} {s0 s : State} (f : Sparse Nat) (hk : Keeps L s0 s) (hmedia : L.media := by assumption) (hplace : L.place := by assumption) : Keeps L s0 (State.flushProgram s f) := by
  unfold State.flushProgram
  repeat' first
    | with_reducible assumption | with_reducible rfl | with_reducible apply keeps_toStaging
    | with_reducible apply keeps_padStaging | with_reducible apply keeps_promote | with_reducible apply keeps_ite
    | dsimp only | split | intro _

theorem keeps_programNotes {L : Touch} {s0 s : State} (f : Sparse Nat) (hk : Keeps L s0 s) (hfault : L.fault := by assumption) (hintake : L.intake := by assumption) (hmedia : L.media := by assumption) (hplace : L.place := by assumption) (hjournal : L.journal := by assumption) (hhealth : L.health := by assumption) : Keeps L s0 (State.programNotes s f) := by
  unfold State.programNotes
  repeat' first
    | with_reducible assumption | with_reducible rfl | with_reducible apply keeps_record
    | with_reducible apply keeps_onJournal | with_reducible apply keeps_onIntake
    | with_reducible apply keeps_moveAccept | with_reducible apply keeps_settleAll | with_reducible apply keeps_ite
    | with_reducible refine keeps_foldl _ (fun _ _ _ => ?_) _ ?_ | dsimp only | split | intro _

end

end Sys2Proof.Machine
end

