-- ==== Sys2Proof/Laws/KeepsBlocks.lean ====
section
/-! SUPPORT. What the operations of Machine/Blocks.lean keep. -/
namespace Sys2Proof.Machine
open Sys2Proof

section
set_option Elab.async false

theorem keeps_replaceUnits {L : Touch} {s0 s : State}  (hk : Keeps L s0 s) (hmedia : L.media := by assumption) (hplace : L.place := by assumption) : Keeps L s0 (State.replaceUnits s) := by
  unfold State.replaceUnits
  repeat' first
    | with_reducible assumption | with_reducible rfl | with_reducible apply keeps_allocate
    | with_reducible apply keeps_onPlace | with_reducible apply keeps_launch | with_reducible apply keeps_ite
    | dsimp only | split | intro _ | refine keepsP_out (keeps_allocate _ _ ?_) (by assumption)

theorem keeps_settleFirst {L : Touch} {s0 s : State} (b : Nat) (hk : Keeps L s0 s) (hplace : L.place := by assumption) : Keeps L s0 (State.settleFirst s b) := by
  unfold State.settleFirst
  repeat' first
    | with_reducible assumption | with_reducible rfl | with_reducible apply keeps_modBand
    | with_reducible apply keeps_ite | dsimp only | split | intro _

theorem keeps_unplaceAll {L : Touch} {s0 s : State} (b : Nat) (c : Nat) (hk : Keeps L s0 s) (hplace : L.place := by assumption) : Keeps L s0 (State.unplaceAll s b c) := by
  unfold State.unplaceAll
  repeat' first
    | with_reducible assumption | with_reducible rfl | with_reducible apply keeps_onPlace
    | with_reducible apply keeps_ite | dsimp only | split | intro _

theorem keeps_cutMember {L : Touch} {s0 s : State} (b : Nat) (c : Nat) (hk : Keeps L s0 s) (hmedia : L.media := by assumption) (hplace : L.place := by assumption) : Keeps L s0 (State.cutMember s b c) := by
  unfold State.cutMember
  repeat' first
    | with_reducible assumption | with_reducible rfl | with_reducible apply keeps_modBand
    | with_reducible apply keeps_settleFirst | with_reducible apply keeps_unplaceAll
    | with_reducible apply keeps_modChan | with_reducible apply keeps_ite | dsimp only | split | intro _

theorem keeps_dropMember {L : Touch} {s0 s : State} (b : Nat) (c : Nat) (hk : Keeps L s0 s) (hmedia : L.media := by assumption) (hplace : L.place := by assumption) : Keeps L s0 (State.dropMember s b c) := by
  unfold State.dropMember
  repeat' first
    | with_reducible assumption | with_reducible rfl | with_reducible apply keeps_cutMember
    | with_reducible apply keeps_replaceUnits | with_reducible apply keeps_ite | dsimp only | split | intro _

theorem keeps_closeFull {L : Touch} {s0 s : State} (b : Nat) (cls : BitVec 3) (hk : Keeps L s0 s) (hmedia : L.media := by assumption) (hplace : L.place := by assumption) : Keeps L s0 (State.closeFull s b cls) := by
  unfold State.closeFull
  repeat' first
    | with_reducible assumption | with_reducible rfl | with_reducible apply keeps_issueParity
    | with_reducible apply keeps_closeBand | with_reducible apply keeps_ite
    | with_reducible refine keeps_foldl _ (fun _ _ _ => ?_) _ ?_ | dsimp only | split | intro _

theorem keeps_relocate {L : Touch} {s0 s : State} (b : Nat) (c : Nat) (hk : Keeps L s0 s) (hmedia : L.media := by assumption) : Keeps L s0 (State.relocate s b c) := by
  unfold State.relocate
  repeat' first
    | with_reducible assumption | with_reducible rfl | with_reducible apply keeps_listMove
    | with_reducible apply keeps_ite | dsimp only | split | intro _

theorem keeps_blockFailed {L : Touch} {s0 s : State} (ch : Nat) (d : MDesc) (factory : Bool) (hk : Keeps L s0 s) (hfault : L.fault := by assumption) (hmedia : L.media := by assumption) (hplace : L.place := by assumption) (hhealth : L.health := by assumption) : Keeps L s0 (State.blockFailed s ch d factory) := by
  unfold State.blockFailed
  repeat' first
    | with_reducible assumption | with_reducible rfl | with_reducible apply keeps_retireBlock
    | with_reducible apply keeps_relocate | with_reducible apply keeps_dropMember
    | with_reducible apply keeps_closeFull | with_reducible apply keeps_ite | dsimp only | split | intro _

theorem keeps_leaveBand {L : Touch} {s0 s : State} (b : Nat) (cls : BitVec 3) (hk : Keeps L s0 s) (hmedia : L.media := by assumption) (hplace : L.place := by assumption) : Keeps L s0 (State.leaveBand s b cls) := by
  unfold State.leaveBand
  repeat' first
    | with_reducible assumption | with_reducible rfl | with_reducible apply keeps_closeGroup
    | with_reducible apply keeps_closeRows | with_reducible apply keeps_ite
    | with_reducible refine keeps_foldl _ (fun _ _ _ => ?_) _ ?_ | dsimp only | split | intro _

theorem keeps_programLost {L : Touch} {s0 s : State} (ch : Nat) (d : MDesc) (hk : Keeps L s0 s) (hmedia : L.media := by assumption) (hplace : L.place := by assumption) : Keeps L s0 (State.programLost s ch d) := by
  unfold State.programLost
  repeat' first
    | with_reducible assumption | with_reducible rfl | with_reducible apply keeps_cutMember
    | with_reducible apply keeps_leaveBand | with_reducible apply keeps_replaceUnits | with_reducible apply keeps_ite
    | dsimp only | split | intro _

theorem keeps_parityLost {L : Touch} {s0 s : State} (ch : Nat) (d : MDesc) (hk : Keeps L s0 s) (hmedia : L.media := by assumption) (hplace : L.place := by assumption) : Keeps L s0 (State.parityLost s ch d) := by
  unfold State.parityLost
  repeat' first
    | with_reducible assumption | with_reducible rfl | with_reducible apply keeps_modBand
    | with_reducible apply keeps_leaveBand | with_reducible apply keeps_listMove | with_reducible apply keeps_ite
    | with_reducible refine keeps_foldl _ (fun _ _ _ => ?_) _ ?_ | dsimp only | split | intro _

theorem keeps_parityFailed {L : Touch} {s0 s : State} (ch : Nat) (d : MDesc) (hk : Keeps L s0 s) (hfault : L.fault := by assumption) (hmedia : L.media := by assumption) (hplace : L.place := by assumption) (hhealth : L.health := by assumption) : Keeps L s0 (State.parityFailed s ch d) := by
  unfold State.parityFailed
  repeat' first
    | with_reducible assumption | with_reducible rfl | with_reducible apply keeps_countFail
    | with_reducible apply keeps_retireBlock | with_reducible apply keeps_relocate
    | with_reducible apply keeps_parityLost | with_reducible apply keeps_ite | dsimp only | split | intro _

theorem keeps_noteRung {L : Touch} {s0 s : State} (ch : Nat) (d : MDesc) (rung : Nat) (hk : Keeps L s0 s) (hfault : L.fault := by assumption) (hmedia : L.media := by assumption) (hplace : L.place := by assumption) (hhealth : L.health := by assumption) : Keeps L s0 (State.noteRung s ch d rung) := by
  unfold State.noteRung
  repeat' first
    | with_reducible assumption | with_reducible rfl | with_reducible apply keeps_recordRung
    | with_reducible apply keeps_blockFailed | with_reducible apply keeps_failDie
    | with_reducible apply keeps_checkChannel | with_reducible apply keeps_ite | dsimp only | split | intro _

theorem keeps_endRead {L : Touch} {s0 s : State} (p : Profile) (ch : Nat) (slot : Nat) (e : QEntry) (r : ReadIn) (hk : Keeps L s0 s) (hfault : L.fault := by assumption) (hmedia : L.media := by assumption) (hplace : L.place := by assumption) (hhealth : L.health := by assumption) : Keeps L s0 (State.endRead s p ch slot e r) := by
  unfold State.endRead
  repeat' first
    | with_reducible assumption | with_reducible rfl | with_reducible apply keeps_modChan
    | with_reducible apply keeps_countRead | with_reducible apply keeps_listRefresh
    | with_reducible apply keeps_noteRung | with_reducible apply keeps_stripeLost | with_reducible apply keeps_ite
    | dsimp only | split | intro _

theorem readCodeword_keeps {L : Touch} {s0 s : State} (cls : BitVec 3) (ladder : BitVec 2) (l : Loc) (r : ReadIn) (hk : Keeps L s0 s) (x : ReadEnd)
    (t : State) (e : State.readCodeword s cls ladder l r = some (x, t)) (hfault : L.fault := by assumption) (hmedia : L.media := by assumption) (hplace : L.place := by assumption) (hhealth : L.health := by assumption) : Keeps L s0 t := by
  unfold State.readCodeword at e
  split at e
  next => cases e; exact keeps_endRead _ _ _ _ _ hk
  next => cases e

theorem keeps_readFirst {L : Touch} {s0 s : State} (ch : Nat) (d : MDesc) (hk : Keeps L s0 s) (hmedia : L.media := by assumption) : Keeps L s0 (State.readFirst s ch d) := by
  unfold State.readFirst
  repeat' first
    | with_reducible assumption | with_reducible rfl | with_reducible apply keeps_submit
    | with_reducible apply keeps_ite | dsimp only | split | intro _

theorem keeps_firstRead {L : Touch} {s0 s : State} (ch : Nat) (d : MDesc) (erased : Bool) (hk : Keeps L s0 s) (hmedia : L.media := by assumption) (hplace : L.place := by assumption) : Keeps L s0 (State.firstRead s ch d erased) := by
  unfold State.firstRead
  repeat' first
    | with_reducible assumption | with_reducible rfl | with_reducible apply keeps_modBand
    | with_reducible apply keeps_settleFirst | with_reducible apply keeps_submit | with_reducible apply keeps_ite
    | dsimp only | split | intro _

end

end Sys2Proof.Machine
end

