-- ==== Sys2Proof/Laws/KeepsPower.lean ====
section
/-! SUPPORT. What the operations of Machine/Power.lean keep. -/
namespace Sys2Proof.Machine
open Sys2Proof

section
set_option Elab.async false

theorem keeps_setRail {L : Touch} {s0 s : State} (r : Rail) (x : RailRec) (hk : Keeps L s0 s) (hpower : L.power := by assumption) : Keeps L s0 (State.setRail s r x) := by
  unfold State.setRail
  repeat' first
    | with_reducible assumption | with_reducible rfl | with_reducible apply keeps_onPower
    | with_reducible apply keeps_ite | exact twf_tset _ _ _ _ | dsimp only | split | intro _

theorem keeps_rampRail {L : Touch} {s0 s : State} (vinPor : Bool) (r : Rail) (hk : Keeps L s0 s) (hpower : L.power := by assumption) : Keeps L s0 (State.rampRail vinPor s r) := by
  unfold State.rampRail
  repeat' first
    | with_reducible assumption | with_reducible rfl | with_reducible apply keeps_setRail
    | with_reducible apply keeps_ite | dsimp only | split | intro _

theorem keeps_railsUp {L : Touch} {s0 s : State} (vinPor : Bool) (hk : Keeps L s0 s) (hpower : L.power := by assumption) : Keeps L s0 (State.railsUp s vinPor) := by
  unfold State.railsUp
  refine keeps_foldl_fst _ (fun a g h => ?_) _ hk
  exact keeps_fst_ite (keeps_foldl _ (fun _ _ h => keeps_rampRail vinPor _ h) _ h) h

theorem keeps_railsGood {L : Touch} {s0 s : State}  (hk : Keeps L s0 s) (hpower : L.power := by assumption) : Keeps L s0 (State.railsGood s) := by
  unfold State.railsGood
  repeat' first
    | with_reducible assumption | with_reducible rfl | with_reducible apply keeps_setRail
    | with_reducible apply keeps_ite | with_reducible refine keeps_foldl _ (fun _ _ _ => ?_) _ ?_ | dsimp only | split
    | intro _

theorem keeps_dropRail {L : Touch} {s0 s : State} (r : Rail) (hk : Keeps L s0 s) (hpower : L.power := by assumption) : Keeps L s0 (State.dropRail s r) := by
  unfold State.dropRail
  repeat' first
    | with_reducible assumption | with_reducible rfl | with_reducible apply keeps_setRail
    | with_reducible apply keeps_ite | dsimp only | split | intro _

theorem keeps_railsDown {L : Touch} {s0 s : State} (hk : Keeps L s0 s) (hpower : L.power := by assumption) : Keeps L s0 (State.railsDown s) := by
  unfold State.railsDown
  refine keeps_foldl_fst _ (fun a g h => ?_) _ hk
  exact keeps_fst_ite (keeps_foldl _ (fun _ _ h => keeps_dropRail _ h) _ h) h

theorem keeps_tempWord {L : Touch} {s0 s : State} (t : Int) (hk : Keeps L s0 s) (hhealth : L.health := by assumption) : Keeps L s0 (State.tempWord s t) := by
  unfold State.tempWord
  repeat' first
    | with_reducible assumption | with_reducible rfl | with_reducible apply keeps_hset
    | with_reducible apply keeps_ite | dsimp only | split | intro _

theorem keeps_healthCheck {L : Touch} {s0 s : State}  (hk : Keeps L s0 s) (hlink : L.link := by assumption) (hhost : L.host := by assumption) (hhealth : L.health := by assumption) : Keeps L s0 (State.healthCheck s) := by
  unfold State.healthCheck
  repeat' first
    | with_reducible assumption | with_reducible rfl | with_reducible apply keeps_raise
    | with_reducible apply keeps_onHealth | with_reducible apply keeps_ite | dsimp only | split | intro _

theorem keeps_chargerUpdate {L : Touch} {s0 s : State}  (hk : Keeps L s0 s) (hpower : L.power := by assumption) : Keeps L s0 (State.chargerUpdate s) := by
  unfold State.chargerUpdate
  repeat' first
    | with_reducible assumption | with_reducible rfl | with_reducible apply keeps_onPower
    | with_reducible apply keeps_ite | dsimp only | split | intro _

theorem keeps_gaugeStart {L : Touch} {s0 s : State}  (hk : Keeps L s0 s) (hpower : L.power := by assumption) : Keeps L s0 (State.gaugeStart s) := by
  unfold State.gaugeStart
  repeat' first
    | with_reducible assumption | with_reducible rfl | with_reducible apply keeps_onPower
    | with_reducible apply keeps_chargerUpdate | with_reducible apply keeps_ite | dsimp only | split | intro _

theorem keeps_gaugeFails {L : Touch} {s0 s : State} (reason : Nat) (hk : Keeps L s0 s) (hclock : L.clock := by assumption) (hlink : L.link := by assumption) (hfault : L.fault := by assumption) (hintake : L.intake := by assumption) (hhost : L.host := by assumption) (hpower : L.power := by assumption) (hhealth : L.health := by assumption) : Keeps L s0 (State.gaugeFails s reason) := by
  unfold State.gaugeFails
  repeat' first
    | with_reducible assumption | with_reducible rfl | with_reducible apply keeps_onPower
    | with_reducible apply keeps_chargerUpdate | with_reducible apply keeps_onIntake
    | with_reducible apply keeps_countLo | with_reducible apply keeps_assertError
    | with_reducible apply keeps_wtUpdate | with_reducible apply keeps_ite | dsimp only | split | intro _

theorem keeps_gaugePasses {L : Touch} {s0 s : State} (cap : Nat) (esr : Nat) (esrTenth : Nat) (hk : Keeps L s0 s) (hclock : L.clock := by assumption) (hlink : L.link := by assumption) (hintake : L.intake := by assumption) (hhost : L.host := by assumption) (hpower : L.power := by assumption) (hhealth : L.health := by assumption) : Keeps L s0 (State.gaugePasses s cap esr esrTenth) := by
  unfold State.gaugePasses
  repeat' first
    | with_reducible assumption | with_reducible rfl | with_reducible apply keeps_onPower
    | with_reducible apply keeps_chargerUpdate | with_reducible apply keeps_onIntake | with_reducible apply keeps_hset
    | with_reducible apply keeps_wtUpdate | with_reducible apply keeps_ite | dsimp only | split | intro _

end

end Sys2Proof.Machine
end

