-- ==== Sys2Proof/Laws/KeepsReset.lean ====
section
/-! SUPPORT. What the operations of Machine/Reset.lean keep. -/
namespace Sys2Proof.Machine
open Sys2Proof

section
set_option Elab.async false

theorem keeps_resetSource {L : Touch} {s0 s : State} (bit : Nat) (hk : Keeps L s0 s) (hclock : L.clock := by assumption) : Keeps L s0 (State.resetSource s bit) := by
  unfold State.resetSource
  repeat' first
    | with_reducible assumption | with_reducible rfl | with_reducible apply keeps_onClock
    | with_reducible apply keeps_ite | dsimp only | split | intro _

theorem keeps_portReset {L : Touch} {s0 s : State}  (hk : Keeps L s0 s) (hintake : L.intake := by assumption) (hhost : L.host := by assumption) : Keeps L s0 (State.portReset s) := by
  unfold State.portReset
  repeat' first
    | with_reducible assumption | with_reducible rfl | with_reducible apply keeps_onHost
    | with_reducible apply keeps_onIntake | with_reducible apply keeps_drainOpen | with_reducible apply keeps_ite
    | dsimp only | split | intro _

theorem keeps_functionReset {L : Touch} {s0 s : State}  (hk : Keeps L s0 s) (hintake : L.intake := by assumption) (hhost : L.host := by assumption) : Keeps L s0 (State.functionReset s) := by
  unfold State.functionReset
  repeat' first
    | with_reducible assumption | with_reducible rfl | with_reducible apply keeps_onHost
    | with_reducible apply keeps_onIntake | with_reducible apply keeps_drainOpen | with_reducible apply keeps_ite
    | dsimp only | split | intro _

theorem keeps_mainReset {L : Touch} {s0 s : State} (powerUp : Bool) (h : Keeps L s0 s) (hclock : L.clock := by assumption) (hlink : L.link := by assumption) (hfault : L.fault := by assumption) (hintake : L.intake := by assumption) (hmedia : L.media := by assumption) (hplace : L.place := by assumption) (hjournal : L.journal := by assumption) (hhost : L.host := by assumption) (hpower : L.power := by assumption) (hsnuff : L.snuff := by assumption) (hwick : L.wick := by assumption) (hmem : L.mem := by assumption) (hhealth : L.health := by assumption) : Keeps L s0 (s.mainReset powerUp) := by
  refine h.trans ⟨rfl, rfl, rfl, fun ⟨a, b, c, d, e, g⟩ => ⟨rfl, ?_, twf_tmap _ _ _ c, ?_, ?_, g⟩, fun _ => Nat.le_refl _,
    fun _ => rfl,
    no_touch hclock, fun _ => rfl, no_touch hlink, no_touch hfault, no_touch hintake, no_touch hmedia, no_touch hplace, no_touch hjournal, no_touch hhost, no_touch hpower, no_touch hsnuff, no_touch hwick, no_touch hmem, no_touch hhealth, fun _ => rfl⟩
  · exact ((keeps_channelsOff (Keeps.refl { media := true } s) rfl).inv ⟨a, b, c, d, e, g⟩).2.1
  · cases powerUp
    · exact twf_tmap _ _ _ d
    · rfl
  · cases powerUp <;> exact e

theorem keeps_mainDown {L : Touch} {s0 s : State}  (hk : Keeps L s0 s) (hclock : L.clock := by assumption) (hlink : L.link := by assumption) (hfault : L.fault := by assumption) (hintake : L.intake := by assumption) (hmedia : L.media := by assumption) (hplace : L.place := by assumption) (hjournal : L.journal := by assumption) (hhost : L.host := by assumption) (hpower : L.power := by assumption) (hsnuff : L.snuff := by assumption) (hwick : L.wick := by assumption) (hmem : L.mem := by assumption) (hhealth : L.health := by assumption) : Keeps L s0 (State.mainDown s) := by
  unfold State.mainDown
  repeat' first
    | with_reducible assumption | with_reducible rfl | with_reducible apply keeps_mainReset
    | with_reducible apply keeps_railsDown | with_reducible apply keeps_onPower | with_reducible apply keeps_onClock
    | with_reducible apply keeps_ite | dsimp only | split | intro _

theorem keeps_vauxCheck {L : Touch} {s0 s : State}  (hk : Keeps L s0 s) (hclock : L.clock := by assumption) : Keeps L s0 (State.vauxCheck s) := by
  unfold State.vauxCheck
  repeat' first
    | with_reducible assumption | with_reducible rfl | with_reducible apply keeps_onClock
    | with_reducible apply keeps_ite | dsimp only | split | intro _

theorem keeps_mainUp {L : Touch} {s0 s : State} (vinPor : Bool) (hk : Keeps L s0 s) (hclock : L.clock := by assumption) (hpower : L.power := by assumption) : Keeps L s0 (State.mainUp s vinPor) := by
  unfold State.mainUp
  repeat' first
    | with_reducible assumption | with_reducible rfl | with_reducible apply keeps_railsUp
    | with_reducible apply keeps_onPower | with_reducible apply keeps_onClock | with_reducible apply keeps_ite
    | dsimp only | split | intro _ | unfold PowerState.onVin

theorem keeps_peersNow {L : Touch} {s0 s : State}  (hk : Keeps L s0 s) (hhost : L.host := by assumption) : Keeps L s0 (State.peersNow s) := by
  unfold State.peersNow
  repeat' first
    | with_reducible assumption | with_reducible rfl | with_reducible apply keeps_onHost
    | with_reducible apply keeps_ite | with_reducible refine keeps_foldl _ (fun _ _ _ => ?_) _ ?_
    | exact twf_tset _ _ _ _ | dsimp only | split | intro _

theorem keeps_bootBegin {L : Touch} {s0 s : State}  (hk : Keeps L s0 s) (hclock : L.clock := by assumption) (hlink : L.link := by assumption) (hintake : L.intake := by assumption) (hhost : L.host := by assumption) : Keeps L s0 (State.bootBegin s) := by
  unfold State.bootBegin
  repeat' first
    | with_reducible assumption | with_reducible rfl | with_reducible apply keeps_setDev
    | with_reducible apply keeps_onClock | with_reducible apply keeps_ite | dsimp only | split | intro _

theorem keeps_powerUp {L : Touch} {s0 s : State} (vinPor : Bool) (hk : Keeps L s0 s) (hclock : L.clock := by assumption) (hlink : L.link := by assumption) (hfault : L.fault := by assumption) (hintake : L.intake := by assumption) (hmedia : L.media := by assumption) (hplace : L.place := by assumption) (hjournal : L.journal := by assumption) (hhost : L.host := by assumption) (hpower : L.power := by assumption) (hsnuff : L.snuff := by assumption) (hwick : L.wick := by assumption) (hmem : L.mem := by assumption) (hhealth : L.health := by assumption) : Keeps L s0 (State.powerUp s vinPor) := by
  unfold State.powerUp
  repeat' first
    | with_reducible assumption | with_reducible rfl | with_reducible apply keeps_mainReset
    | with_reducible apply keeps_mainUp | with_reducible apply keeps_peersNow | with_reducible apply keeps_onJournal
    | with_reducible apply keeps_bootBegin | with_reducible apply keeps_chargerUpdate | with_reducible apply keeps_ite
    | dsimp only | split | intro _

end

end Sys2Proof.Machine
end

