-- ==== Sys2Proof/Laws/KeepsLinkCore.lean ====
section
/-! SUPPORT. What the operations of Machine/LinkCore.lean keep. -/
namespace Sys2Proof.Machine
open Sys2Proof

section
set_option Elab.async false

theorem keeps_linkReset {L : Touch} {s0 s : State}  (hk : Keeps L s0 s) (hlink : L.link := by assumption) : Keeps L s0 (State.linkReset s) := by
  unfold State.linkReset
  repeat' first
    | with_reducible assumption | with_reducible rfl | with_reducible apply keeps_onLink
    | with_reducible apply keeps_ite | dsimp only | split | intro _

theorem keeps_linkResetIfSelected {L : Touch} {s0 s : State}  (hk : Keeps L s0 s) (hlink : L.link := by assumption) : Keeps L s0 (State.linkResetIfSelected s) := by
  unfold State.linkResetIfSelected
  repeat' first
    | with_reducible assumption | with_reducible rfl | with_reducible apply keeps_linkReset
    | with_reducible apply keeps_onLink | with_reducible apply keeps_ite | dsimp only | split | intro _

end

end Sys2Proof.Machine
end

