-- ==== Sys2Proof/Laws/KeepsSnuffer.lean ====
section
/-! SUPPORT. What the operations of Machine/Snuffer.lean keep. -/
namespace Sys2Proof.Machine
open Sys2Proof

section
set_option Elab.async false

theorem keeps_writePair {L : Touch} {s0 s : State} (gen : Nat) (snuff : Bool) (head : Nat) (band : Option Nat) (hk : Keeps L s0 s) (hwick : L.wick := by assumption) : Keeps L s0 (State.writePair s gen snuff head band) := by
  unfold State.writePair
  repeat' first
    | with_reducible assumption | with_reducible rfl | with_reducible apply keeps_onWick
    | with_reducible apply keeps_ite | dsimp only | split | intro _

theorem keeps_fillRows {L : Touch} {s0 s : State} (b : Nat) (fails : List (Nat × Nat)) (kinds : List Nat) (hk : Keeps L s0 s) (hfault : L.fault := by assumption) (hmedia : L.media := by assumption) (hplace : L.place := by assumption) (hhealth : L.health := by assumption) : Keeps L s0 (State.fillRows s b fails kinds) := by
  unfold State.fillRows
  repeat' first
    | with_reducible assumption | with_reducible rfl | with_reducible apply keeps_modBand
    | with_reducible apply keeps_countFail | with_reducible apply keeps_retireBlock | with_reducible apply keeps_ite
    | with_reducible refine keeps_foldl _ (fun _ _ _ => ?_) _ ?_ | dsimp only | split | intro _

theorem keeps_snuffRows {L : Touch} {s0 s : State} (f : FlushIn) (img : SnuffImage) (hk : Keeps L s0 s) (hfault : L.fault := by assumption) (hmedia : L.media := by assumption) (hplace : L.place := by assumption) (hhealth : L.health := by assumption) : Keeps L s0 (State.snuffRows s f img) := by
  unfold State.snuffRows
  repeat' first
    | with_reducible assumption | with_reducible rfl | with_reducible apply keeps_fillRows
    | with_reducible apply keeps_ite | dsimp only | split | intro _

theorem keeps_flushWrite {L : Touch} {s0 s : State} (trig : BitVec 3) (f : FlushIn) (hk : Keeps L s0 s) (hclock : L.clock := by assumption) (hfault : L.fault := by assumption) (hintake : L.intake := by assumption) (hmedia : L.media := by assumption) (hplace : L.place := by assumption) (hjournal : L.journal := by assumption) (hwick : L.wick := by assumption) (hhealth : L.health := by assumption) : Keeps L s0 (State.flushWrite s trig f) := by
  unfold State.flushWrite
  repeat' first
    | with_reducible assumption | with_reducible rfl | with_reducible apply keeps_onIntake
    | with_reducible apply keeps_onClock | with_reducible apply keeps_snuffRows | with_reducible apply keeps_onJournal
    | with_reducible apply keeps_writePair | with_reducible apply keeps_ite | dsimp only | split | intro _

theorem keeps_earlyDown {L : Touch} {s0 s : State}  (hk : Keeps L s0 s) (hclock : L.clock := by assumption) (hlink : L.link := by assumption) (hfault : L.fault := by assumption) (hintake : L.intake := by assumption) (hmedia : L.media := by assumption) (hplace : L.place := by assumption) (hjournal : L.journal := by assumption) (hhost : L.host := by assumption) (hpower : L.power := by assumption) (hsnuff : L.snuff := by assumption) (hwick : L.wick := by assumption) (hmem : L.mem := by assumption) (hhealth : L.health := by assumption) : Keeps L s0 (State.earlyDown s) := by
  unfold State.earlyDown
  repeat' first
    | with_reducible assumption | with_reducible rfl | with_reducible apply keeps_mainDown
    | with_reducible apply keeps_setDev | with_reducible apply keeps_vauxCheck | with_reducible apply keeps_ite
    | dsimp only | split | intro _

theorem keeps_gaugeCut {L : Touch} {s0 s : State}  (hk : Keeps L s0 s) (hpower : L.power := by assumption) : Keeps L s0 (State.gaugeCut s) := by
  unfold State.gaugeCut
  repeat' first
    | with_reducible assumption | with_reducible rfl | with_reducible apply keeps_onPower
    | with_reducible apply keeps_chargerUpdate | with_reducible apply keeps_ite | dsimp only | split | intro _

theorem keeps_beginFlush {L : Touch} {s0 s : State} (code : BitVec 3) (keep : Bool) (halt : Bool) (after : Option ResetKind) (hk : Keeps L s0 s) (hmedia : L.media := by assumption) (hsnuff : L.snuff := by assumption) : Keeps L s0 (State.beginFlush s code keep halt after) := by
  unfold State.beginFlush
  repeat' first
    | with_reducible assumption | with_reducible rfl | with_reducible apply keeps_abortQueued
    | with_reducible apply keeps_onSnuff | with_reducible apply keeps_ite | dsimp only | split | intro _

theorem keeps_cutReset {L : Touch} {s0 s : State} (bit : Nat) (hk : Keeps L s0 s) (hclock : L.clock := by assumption) (hpower : L.power := by assumption) (hsnuff : L.snuff := by assumption) : Keeps L s0 (State.cutReset s bit) := by
  unfold State.cutReset
  repeat' first
    | with_reducible assumption | with_reducible rfl | with_reducible apply keeps_resetSource
    | with_reducible apply keeps_onPower | with_reducible apply keeps_onSnuff | with_reducible apply keeps_ite
    | dsimp only | split | intro _ | unfold PowerState.onBank

theorem keeps_trigger {L : Touch} {s0 s : State} (bit : Nat) (code : BitVec 3) (wire : Bool) (halt : Bool) (hk : Keeps L s0 s) (hclock : L.clock := by assumption) (hlink : L.link := by assumption) (hfault : L.fault := by assumption) (hintake : L.intake := by assumption) (hmedia : L.media := by assumption) (hplace : L.place := by assumption) (hjournal : L.journal := by assumption) (hhost : L.host := by assumption) (hpower : L.power := by assumption) (hsnuff : L.snuff := by assumption) (hwick : L.wick := by assumption) (hmem : L.mem := by assumption) (hhealth : L.health := by assumption) : Keeps L s0 (State.trigger s bit code wire halt) := by
  unfold State.trigger
  repeat' first
    | with_reducible assumption | with_reducible rfl | with_reducible apply keeps_cutReset
    | with_reducible apply keeps_resetSource | with_reducible apply keeps_gaugeCut
    | with_reducible apply keeps_beginFlush | with_reducible apply keeps_earlyDown
    | with_reducible apply keeps_mainDown | with_reducible apply keeps_setDev | with_reducible apply keeps_vauxCheck
    | with_reducible apply keeps_ite | dsimp only | split | intro _

theorem keeps_flushEnd {L : Touch} {s0 s : State} (halt : Bool) (hk : Keeps L s0 s) (hclock : L.clock := by assumption) (hlink : L.link := by assumption) (hfault : L.fault := by assumption) (hintake : L.intake := by assumption) (hmedia : L.media := by assumption) (hplace : L.place := by assumption) (hjournal : L.journal := by assumption) (hhost : L.host := by assumption) (hpower : L.power := by assumption) (hsnuff : L.snuff := by assumption) (hwick : L.wick := by assumption) (hmem : L.mem := by assumption) (hhealth : L.health := by assumption) : Keeps L s0 (State.flushEnd s halt) := by
  unfold State.flushEnd
  repeat' first
    | with_reducible assumption | with_reducible rfl | with_reducible apply keeps_mainDown
    | with_reducible apply keeps_setDev | with_reducible apply keeps_vauxCheck | with_reducible apply keeps_ite
    | dsimp only | split | intro _

theorem keeps_flushRecover {L : Touch} {s0 s : State}  (hk : Keeps L s0 s) (hclock : L.clock := by assumption) (hlink : L.link := by assumption) (hfault : L.fault := by assumption) (hintake : L.intake := by assumption) (hmedia : L.media := by assumption) (hplace : L.place := by assumption) (hjournal : L.journal := by assumption) (hhost : L.host := by assumption) (hpower : L.power := by assumption) (hsnuff : L.snuff := by assumption) (hwick : L.wick := by assumption) (hmem : L.mem := by assumption) (hhealth : L.health := by assumption) : Keeps L s0 (State.flushRecover s) := by
  unfold State.flushRecover
  repeat' first
    | with_reducible assumption | with_reducible rfl | with_reducible apply keeps_mainReset
    | with_reducible apply keeps_onClock | with_reducible apply keeps_setDev | with_reducible apply keeps_unwrapKey
    | with_reducible apply keeps_onHost | with_reducible apply keeps_ite | dsimp only | split | intro _

theorem keeps_flushAbort {L : Touch} {s0 s : State}  (hk : Keeps L s0 s) (hclock : L.clock := by assumption) (hlink : L.link := by assumption) (hfault : L.fault := by assumption) (hintake : L.intake := by assumption) (hmedia : L.media := by assumption) (hplace : L.place := by assumption) (hjournal : L.journal := by assumption) (hhost : L.host := by assumption) (hpower : L.power := by assumption) (hsnuff : L.snuff := by assumption) (hwick : L.wick := by assumption) (hmem : L.mem := by assumption) (hhealth : L.health := by assumption) : Keeps L s0 (State.flushAbort s) := by
  unfold State.flushAbort
  repeat' first
    | with_reducible assumption | with_reducible rfl | with_reducible apply keeps_trigger
    | with_reducible apply keeps_onClock | with_reducible apply keeps_flushEnd | with_reducible apply keeps_ite
    | dsimp only | split | intro _

theorem keeps_warmReset {L : Touch} {s0 s : State} (bit : Nat) (hk : Keeps L s0 s) (hclock : L.clock := by assumption) (hlink : L.link := by assumption) (hfault : L.fault := by assumption) (hintake : L.intake := by assumption) (hmedia : L.media := by assumption) (hplace : L.place := by assumption) (hjournal : L.journal := by assumption) (hhost : L.host := by assumption) (hpower : L.power := by assumption) (hsnuff : L.snuff := by assumption) (hwick : L.wick := by assumption) (hmem : L.mem := by assumption) (hhealth : L.health := by assumption) : Keeps L s0 (State.warmReset s bit) := by
  unfold State.warmReset
  repeat' first
    | with_reducible assumption | with_reducible rfl | with_reducible apply keeps_gaugeCut
    | with_reducible apply keeps_resetSource | with_reducible apply keeps_mainReset
    | with_reducible apply keeps_onClock | with_reducible apply keeps_bootBegin | with_reducible apply keeps_ite
    | dsimp only | split | intro _

theorem keeps_coldReset {L : Touch} {s0 s : State}  (hk : Keeps L s0 s) (hclock : L.clock := by assumption) (hlink : L.link := by assumption) (hfault : L.fault := by assumption) (hintake : L.intake := by assumption) (hmedia : L.media := by assumption) (hplace : L.place := by assumption) (hjournal : L.journal := by assumption) (hhost : L.host := by assumption) (hpower : L.power := by assumption) (hsnuff : L.snuff := by assumption) (hwick : L.wick := by assumption) (hmem : L.mem := by assumption) (hhealth : L.health := by assumption) : Keeps L s0 (State.coldReset s) := by
  unfold State.coldReset
  repeat' first
    | with_reducible assumption | with_reducible rfl | with_reducible apply keeps_gaugeCut
    | with_reducible apply keeps_mainDown | with_reducible apply keeps_vauxCheck
    | with_reducible apply keeps_resetSource | with_reducible apply keeps_onClock | with_reducible apply keeps_powerUp
    | with_reducible apply keeps_ite | dsimp only | split | intro _

theorem keeps_carryReset {L : Touch} {s0 s : State} (k : ResetKind) (hk : Keeps L s0 s) (hclock : L.clock := by assumption) (hlink : L.link := by assumption) (hfault : L.fault := by assumption) (hintake : L.intake := by assumption) (hmedia : L.media := by assumption) (hplace : L.place := by assumption) (hjournal : L.journal := by assumption) (hhost : L.host := by assumption) (hpower : L.power := by assumption) (hsnuff : L.snuff := by assumption) (hwick : L.wick := by assumption) (hmem : L.mem := by assumption) (hhealth : L.health := by assumption) : Keeps L s0 (State.carryReset s k) := by
  cases k with
  | warm => exact keeps_linkResetIfSelected (keeps_warmReset 7 hk)
  | cold => exact keeps_linkResetIfSelected (keeps_coldReset hk)
  | soft => exact keeps_linkResetIfSelected (keeps_warmReset 13 hk)

theorem keeps_startReset {L : Touch} {s0 s : State} (k : ResetKind) (hk : Keeps L s0 s) (hclock : L.clock := by assumption) (hlink : L.link := by assumption) (hfault : L.fault := by assumption) (hintake : L.intake := by assumption) (hmedia : L.media := by assumption) (hplace : L.place := by assumption) (hjournal : L.journal := by assumption) (hhost : L.host := by assumption) (hpower : L.power := by assumption) (hsnuff : L.snuff := by assumption) (hwick : L.wick := by assumption) (hmem : L.mem := by assumption) (hhealth : L.health := by assumption) : Keeps L s0 (State.startReset s k) := by
  unfold State.startReset
  repeat' first
    | with_reducible assumption | with_reducible rfl | with_reducible apply keeps_gaugeCut
    | with_reducible apply keeps_beginFlush | with_reducible apply keeps_carryReset | with_reducible apply keeps_ite
    | dsimp only | split | intro _

theorem keeps_flush {L : Touch} {s0 s : State} (f : FlushIn) (hk : Keeps L s0 s) (hclock : L.clock := by assumption) (hlink : L.link := by assumption) (hfault : L.fault := by assumption) (hintake : L.intake := by assumption) (hmedia : L.media := by assumption) (hplace : L.place := by assumption) (hjournal : L.journal := by assumption) (hhost : L.host := by assumption) (hpower : L.power := by assumption) (hsnuff : L.snuff := by assumption) (hwick : L.wick := by assumption) (hmem : L.mem := by assumption) (hhealth : L.health := by assumption) : Keeps L s0 (State.flush s f) := by
  unfold State.flush
  repeat' first
    | with_reducible assumption | with_reducible rfl | with_reducible apply keeps_trigger
    | with_reducible apply keeps_onPower | with_reducible apply keeps_flushWrite
    | with_reducible apply keeps_carryReset | with_reducible apply keeps_flushRecover
    | with_reducible apply keeps_flushEnd | with_reducible apply keeps_ite | dsimp only | split | intro _
    | unfold PowerState.onBank

theorem keeps_dryRun {L : Touch} {s0 s : State} (d : DryIn) (hk : Keeps L s0 s) (hclock : L.clock := by assumption) (hlink : L.link := by assumption) (hfault : L.fault := by assumption) (hintake : L.intake := by assumption) (hhost : L.host := by assumption) (hhealth : L.health := by assumption) : Keeps L s0 (State.dryRun s d) := by
  unfold State.dryRun
  repeat' first
    | with_reducible assumption | with_reducible rfl | with_reducible apply keeps_trigger
    | with_reducible apply keeps_onIntake | with_reducible apply keeps_countHi
    | with_reducible apply keeps_assertError | with_reducible apply keeps_wtUpdate | with_reducible apply keeps_ite
    | dsimp only | split | intro _

end

end Sys2Proof.Machine
end

