-- ==== Sys2Proof/Laws/KeepsFaults.lean ====
section
/-! SUPPORT. What the operations of Machine/Faults.lean keep. -/
namespace Sys2Proof.Machine
open Sys2Proof

section
set_option Elab.async false

theorem keeps_contain {L : Touch} {s0 s : State} (c : Cause) (d : BitVec 56) (hk : Keeps L s0 s) (hlamp : L.lamp := by assumption) (hintake : L.intake := by assumption) (hmedia : L.media := by assumption) : Keeps L s0 (State.contain s c d) := by
  unfold State.contain
  repeat' first
    | with_reducible assumption | with_reducible rfl | with_reducible apply keeps_containStream
    | with_reducible apply keeps_containChannel | with_reducible apply keeps_onLampSame
    | with_reducible apply keeps_ite | exact ⟨rfl, rfl, rfl, rfl⟩ | dsimp only | split | intro _

theorem keeps_restartIntake {L : Touch} {s0 s : State}  (hk : Keeps L s0 s) (hintake : L.intake := by assumption) (hmem : L.mem := by assumption) : Keeps L s0 (State.restartIntake s) := by
  unfold State.restartIntake
  repeat' first
    | with_reducible assumption | with_reducible rfl | with_reducible apply keeps_onIntake
    | with_reducible apply keeps_modMemory | with_reducible apply keeps_ite | dsimp only | split | intro _

theorem keeps_restartBack {L : Touch} {s0 s : State}  (hk : Keeps L s0 s) (hplace : L.place := by assumption) (hmem : L.mem := by assumption) : Keeps L s0 (State.restartBack s) := by
  unfold State.restartBack
  repeat' first
    | with_reducible assumption | with_reducible rfl | with_reducible apply keeps_onPlace
    | with_reducible apply keeps_modMemory | with_reducible apply keeps_ite | dsimp only | split | intro _

theorem keeps_restartFront {L : Touch} {s0 s : State}  (hk : Keeps L s0 s) (hclock : L.clock := by assumption) (hmem : L.mem := by assumption) : Keeps L s0 (State.restartFront s) := by
  unfold State.restartFront
  repeat' first
    | with_reducible assumption | with_reducible rfl | with_reducible apply keeps_onClock
    | with_reducible apply keeps_modMemory | with_reducible apply keeps_ite | dsimp only | split | intro _

theorem keeps_restartPower {L : Touch} {s0 s : State}  (hk : Keeps L s0 s) (hpower : L.power := by assumption) : Keeps L s0 (State.restartPower s) := by
  unfold State.restartPower
  repeat' first
    | with_reducible assumption | with_reducible rfl | with_reducible apply keeps_onPower
    | with_reducible apply keeps_ite | dsimp only | split | intro _

theorem keeps_restartWick {L : Touch} {s0 s : State}  (hk : Keeps L s0 s) (hlink : L.link := by assumption) (hhost : L.host := by assumption) (hwick : L.wick := by assumption) : Keeps L s0 (State.restartWick s) := by
  unfold State.restartWick
  repeat' first
    | with_reducible assumption | with_reducible rfl | with_reducible apply keeps_onWick
    | with_reducible apply keeps_raise | with_reducible apply keeps_ite | dsimp only | split | intro _

theorem keeps_restartEffect {L : Touch} {s0 s : State} (u : UnitId) (d : BitVec 56) (hk : Keeps L s0 s) (hclock : L.clock := by assumption) (hlamp : L.lamp := by assumption) (hlink : L.link := by assumption) (hfault : L.fault := by assumption) (hintake : L.intake := by assumption) (hmedia : L.media := by assumption) (hplace : L.place := by assumption) (hhost : L.host := by assumption) (hpower : L.power := by assumption) (hwick : L.wick := by assumption) (hmem : L.mem := by assumption) : Keeps L s0 (State.restartEffect s u d) := by
  unfold State.restartEffect
  repeat' first
    | with_reducible assumption | with_reducible rfl | with_reducible apply keeps_portReset
    | with_reducible apply keeps_linkResetIfSelected | with_reducible apply keeps_onLampSame
    | with_reducible apply keeps_restartMedia | with_reducible apply keeps_restartBack
    | with_reducible apply keeps_restartWick | with_reducible apply keeps_restartPower
    | with_reducible apply keeps_restartFront | with_reducible apply keeps_restartIntake
    | with_reducible apply keeps_modMemory | with_reducible apply keeps_onClock | with_reducible apply keeps_onFault
    | with_reducible apply keeps_ite | exact ⟨rfl, rfl, rfl, rfl⟩ | dsimp only | split | intro _
    | unfold LampState.restart | unfold ClockState.setPll

theorem keeps_openShadow {L : Touch} {s0 s : State} (u : UnitId) (hk : Keeps L s0 s) (hfault : L.fault := by assumption) : Keeps L s0 (State.openShadow s u) := by
  unfold State.openShadow
  repeat' first
    | with_reducible assumption | with_reducible rfl | with_reducible apply keeps_modUnit
    | with_reducible apply keeps_ite | with_reducible refine keeps_foldl _ (fun _ _ _ => ?_) _ ?_ | dsimp only | split
    | intro _ | unfold LampState.restart

theorem keeps_restart {L : Touch} {s0 s : State} (u : UnitId) (bit : Nat) (d : BitVec 56) (hk : Keeps L s0 s) (hclock : L.clock := by assumption) (hlamp : L.lamp := by assumption) (hlink : L.link := by assumption) (hfault : L.fault := by assumption) (hintake : L.intake := by assumption) (hmedia : L.media := by assumption) (hplace : L.place := by assumption) (hhost : L.host := by assumption) (hpower : L.power := by assumption) (hwick : L.wick := by assumption) (hmem : L.mem := by assumption) : Keeps L s0 (State.restart s u bit d) := by
  unfold State.restart
  repeat' first
    | with_reducible assumption | with_reducible rfl | with_reducible apply keeps_resetSource
    | with_reducible apply keeps_openShadow | with_reducible apply keeps_restartEffect
    | with_reducible apply keeps_ite | dsimp only | split | intro _ | unfold LampState.restart

theorem keeps_react {L : Touch} {s0 s : State} (u : UnitId) (level : Nat) (c : Cause) (d : BitVec 56) (hk : Keeps L s0 s) (hclock : L.clock := by assumption) (hlamp : L.lamp := by assumption) (hlink : L.link := by assumption) (hfault : L.fault := by assumption) (hintake : L.intake := by assumption) (hmedia : L.media := by assumption) (hplace : L.place := by assumption) (hjournal : L.journal := by assumption) (hhost : L.host := by assumption) (hpower : L.power := by assumption) (hsnuff : L.snuff := by assumption) (hwick : L.wick := by assumption) (hmem : L.mem := by assumption) (hhealth : L.health := by assumption) : Keeps L s0 (State.react s u level c d) := by
  unfold State.react
  repeat' first
    | with_reducible assumption | with_reducible rfl | with_reducible apply keeps_contain
    | with_reducible apply keeps_restart | with_reducible apply keeps_trigger | with_reducible apply keeps_ite
    | dsimp only | split | intro _ | unfold LampState.restart

theorem keeps_reportShadowed {L : Touch} {s0 s : State} (r : UnitId) (u : UnitId) (hk : Keeps L s0 s) (hfault : L.fault := by assumption) : Keeps L s0 (State.reportShadowed s r u) := by
  unfold State.reportShadowed
  repeat' first
    | with_reducible assumption | with_reducible rfl | with_reducible apply keeps_setUnit
    | with_reducible apply keeps_assertError | with_reducible apply keeps_ite
    | with_reducible refine keeps_foldl _ (fun _ _ _ => ?_) _ ?_ | dsimp only | split | intro _

theorem keeps_lateEchoes {L : Touch} {s0 s : State} (u : UnitId) (es : List Report) (hk : Keeps L s0 s) (hfault : L.fault := by assumption) : Keeps L s0 (State.lateEchoes s u es) := by
  unfold State.lateEchoes
  repeat' first
    | with_reducible assumption | with_reducible rfl | with_reducible apply keeps_reportShadowed
    | with_reducible apply keeps_ite | with_reducible refine keeps_foldl _ (fun _ _ _ => ?_) _ ?_ | dsimp only | split
    | intro _

theorem keeps_takeReport {L : Touch} {s0 s : State} (u : UnitId) (hk : Keeps L s0 s) (hclock : L.clock := by assumption) (hlamp : L.lamp := by assumption) (hlink : L.link := by assumption) (hfault : L.fault := by assumption) (hintake : L.intake := by assumption) (hmedia : L.media := by assumption) (hplace : L.place := by assumption) (hjournal : L.journal := by assumption) (hhost : L.host := by assumption) (hpower : L.power := by assumption) (hsnuff : L.snuff := by assumption) (hwick : L.wick := by assumption) (hmem : L.mem := by assumption) (hhealth : L.health := by assumption) : Keeps L s0 (State.takeReport s u) := by
  unfold State.takeReport
  repeat' first
    | with_reducible assumption | with_reducible rfl | with_reducible apply keeps_setUnit
    | with_reducible apply keeps_raise | with_reducible apply keeps_lateEchoes | with_reducible apply keeps_count32
    | with_reducible apply keeps_react | with_reducible apply keeps_wtUpdate | with_reducible apply keeps_ite
    | dsimp only | split | intro _

theorem keeps_endShadow {L : Touch} {s0 s : State} (r : UnitId) (hk : Keeps L s0 s) (hfault : L.fault := by assumption) : Keeps L s0 (State.endShadow s r) := by
  unfold State.endShadow
  repeat' first
    | with_reducible assumption | with_reducible rfl | with_reducible apply keeps_restart
    | with_reducible apply keeps_modUnit | with_reducible apply keeps_onFault
    | with_reducible apply keeps_reportShadowed | with_reducible apply keeps_ite
    | with_reducible refine keeps_foldl _ (fun _ _ _ => ?_) _ ?_ | dsimp only | split | intro _
    | unfold LampState.restart

theorem keeps_releaseUnit {L : Touch} {s0 s : State} (u : UnitId) (hk : Keeps L s0 s) (hclock : L.clock := by assumption) (hlink : L.link := by assumption) (hfault : L.fault := by assumption) (hintake : L.intake := by assumption) (hmedia : L.media := by assumption) (hhost : L.host := by assumption) (hpower : L.power := by assumption) (hhealth : L.health := by assumption) : Keeps L s0 (State.releaseUnit s u) := by
  unfold State.releaseUnit
  repeat' first
    | with_reducible assumption | with_reducible rfl | with_reducible apply keeps_restart
    | with_reducible apply keeps_modUnit | with_reducible apply keeps_onHost | with_reducible apply keeps_onPower
    | with_reducible apply keeps_chargerUpdate | with_reducible apply keeps_takeAll
    | with_reducible apply keeps_wtUpdate | with_reducible apply keeps_ite | dsimp only | split | intro _
    | unfold LampState.restart

theorem keeps_ackUnit {L : Touch} {s0 s : State} (u : UnitId) (hk : Keeps L s0 s) (hfault : L.fault := by assumption) : Keeps L s0 (State.ackUnit s u) := by
  unfold State.ackUnit
  repeat' first
    | with_reducible assumption | with_reducible rfl | with_reducible apply keeps_assertError
    | with_reducible apply keeps_setUnit | with_reducible apply keeps_ite
    | with_reducible refine keeps_foldl _ (fun _ _ _ => ?_) _ ?_ | dsimp only | split | intro _

theorem keeps_ackUnits {L : Touch} {s0 s : State} (m : BitVec 13) (hk : Keeps L s0 s) (hclock : L.clock := by assumption) (hlink : L.link := by assumption) (hfault : L.fault := by assumption) (hintake : L.intake := by assumption) (hhost : L.host := by assumption) (hhealth : L.health := by assumption) : Keeps L s0 (State.ackUnits s m) := by
  unfold State.ackUnits
  repeat' first
    | with_reducible assumption | with_reducible rfl | with_reducible apply keeps_ackUnit
    | with_reducible apply keeps_wtUpdate | with_reducible apply keeps_ite
    | with_reducible refine keeps_foldl _ (fun _ _ _ => ?_) _ ?_ | dsimp only | split | intro _

theorem keeps_ackSelf {L : Touch} {s0 s : State}  (hk : Keeps L s0 s) (hclock : L.clock := by assumption) (hlink : L.link := by assumption) (hfault : L.fault := by assumption) (hintake : L.intake := by assumption) (hhost : L.host := by assumption) (hhealth : L.health := by assumption) : Keeps L s0 (State.ackSelf s) := by
  unfold State.ackSelf
  repeat' first
    | with_reducible assumption | with_reducible rfl | with_reducible apply keeps_modUnit
    | with_reducible apply keeps_onFault | with_reducible apply keeps_wtUpdate | with_reducible apply keeps_ite
    | with_reducible refine keeps_foldl _ (fun _ _ _ => ?_) _ ?_ | dsimp only | split | intro _

theorem keeps_dupMismatch {L : Touch} {s0 s : State} (addr : Byte) (other : Word) (persists : Bool) (hk : Keeps L s0 s) (hclock : L.clock := by assumption) (hlink : L.link := by assumption) (hfault : L.fault := by assumption) (hintake : L.intake := by assumption) (hmedia : L.media := by assumption) (hplace : L.place := by assumption) (hjournal : L.journal := by assumption) (hhost : L.host := by assumption) (hpower : L.power := by assumption) (hsnuff : L.snuff := by assumption) (hwick : L.wick := by assumption) (hmem : L.mem := by assumption) (hhealth : L.health := by assumption) : Keeps L s0 (State.dupMismatch s addr other persists) := by
  unfold State.dupMismatch
  repeat' first
    | with_reducible assumption | with_reducible rfl | with_reducible apply keeps_onFault
    | with_reducible apply keeps_modUnit | with_reducible apply keeps_count32 | with_reducible apply keeps_raise
    | with_reducible apply keeps_trigger | with_reducible apply keeps_wtUpdate | with_reducible apply keeps_ite
    | with_reducible refine keeps_foldl _ (fun _ _ _ => ?_) _ ?_ | dsimp only | split | intro _

theorem keeps_ownReaction {L : Touch} {s0 s : State} (c : Cause) (d : BitVec 56) (hk : Keeps L s0 s) (hwick : L.wick := by assumption) : Keeps L s0 (State.ownReaction s c d) := by
  unfold State.ownReaction
  repeat' first
    | with_reducible assumption | with_reducible rfl | with_reducible apply keeps_onWick
    | with_reducible apply keeps_queueEcc | with_reducible apply keeps_ite | dsimp only | split | intro _

end

end Sys2Proof.Machine
end

