-- ==== Sys2Proof/Laws/KeepsMemories.lean ====
section
/-! SUPPORT. What the operations of Machine/Memories.lean keep. -/
namespace Sys2Proof.Machine
open Sys2Proof

section
set_option Elab.async false

theorem keeps_writeMemPwr {L : Touch} {s0 s : State} (m : Nat) (v : BitVec 2) (hk : Keeps L s0 s) (hmem : L.mem := by assumption) : KeepsE L s0 (State.writeMemPwr s m v) := by
  unfold State.writeMemPwr
  repeat' first
    | with_reducible assumption | with_reducible rfl | with_reducible apply keepsE_ok | exact keepsE_error _
    | with_reducible apply keeps_modMemory | with_reducible apply keepsE_ite | with_reducible apply keeps_ite
    | dsimp only | split | intro _

theorem keeps_memPut {L : Touch} {s0 s : State} (m : Nat) (w : Nat) (c : MemCell) (hk : Keeps L s0 s) (hmem : L.mem := by assumption) : Keeps L s0 (State.memPut s m w c) := by
  unfold State.memPut
  repeat' first
    | with_reducible assumption | with_reducible rfl | with_reducible apply keeps_modMemory
    | with_reducible apply keeps_ite | exact twf_tset _ _ _ _ | dsimp only | split | intro _

theorem keeps_testRead {L : Touch} {s0 s : State} (m : Nat) (hk : Keeps L s0 s) (hmem : L.mem := by assumption) (hdraws : L.draws := by assumption) : Keeps L s0 (State.testRead s m) := by
  unfold State.testRead
  repeat' first
    | with_reducible assumption | with_reducible rfl | with_reducible apply keeps_modMemory
    | with_reducible apply keeps_draws | with_reducible apply keeps_ite | dsimp only | split | intro _

theorem keeps_testWriteRaw {L : Touch} {s0 s : State} (m : Nat) (hk : Keeps L s0 s) (hmem : L.mem := by assumption) : Keeps L s0 (State.testWriteRaw s m) := by
  unfold State.testWriteRaw
  repeat' first
    | with_reducible assumption | with_reducible rfl | with_reducible apply keeps_memPut
    | with_reducible apply keeps_modMemory | with_reducible apply keeps_ite | dsimp only | split | intro _

theorem keeps_testWriteChecked {L : Touch} {s0 s : State} (m : Nat) (hk : Keeps L s0 s) (hmem : L.mem := by assumption) : Keeps L s0 (State.testWriteChecked s m) := by
  unfold State.testWriteChecked
  repeat' first
    | with_reducible assumption | with_reducible rfl | with_reducible apply keeps_memPut
    | with_reducible apply keeps_modMemory | with_reducible apply keeps_ite | dsimp only | split | intro _

theorem keeps_testOp {L : Touch} {s0 s : State} (m : Nat) (op : Nat) (hk : Keeps L s0 s) (hmem : L.mem := by assumption) (hdraws : L.draws := by assumption) : Keeps L s0 (State.testOp s m op) := by
  unfold State.testOp
  repeat' first
    | with_reducible assumption | with_reducible rfl | with_reducible apply keeps_testRead
    | with_reducible apply keeps_testWriteRaw | with_reducible apply keeps_testWriteChecked
    | with_reducible apply keeps_ite | dsimp only | split | intro _

theorem keeps_writeTestCtrl {L : Touch} {s0 s : State} (m : Nat) (en : Option Bool) (op : Option Nat) (lane : Option Nat) (hk : Keeps L s0 s) (hmem : L.mem := by assumption) (hdraws : L.draws := by assumption) : KeepsE L s0 (State.writeTestCtrl s m en op lane) := by
  unfold State.writeTestCtrl
  repeat' first
    | with_reducible assumption | with_reducible rfl | with_reducible apply keepsE_ok | exact keepsE_error _
    | with_reducible apply keeps_modMemory | with_reducible apply keeps_testOp | with_reducible apply keepsE_ite
    | with_reducible apply keeps_ite | dsimp only | split | intro _

theorem keeps_memRetWord {L : Touch} {s0 s : State}  (hk : Keeps L s0 s) (hhealth : L.health := by assumption) : Keeps L s0 (State.memRetWord s) := by
  unfold State.memRetWord
  repeat' first
    | with_reducible assumption | with_reducible rfl | with_reducible apply keeps_hset
    | with_reducible apply keeps_ite | dsimp only | split | intro _

theorem keeps_retireOne {L : Touch} {s0 s : State} (m : Nat) (t : Nat) (hk : Keeps L s0 s) (hmem : L.mem := by assumption) (hhealth : L.health := by assumption) : Keeps L s0 (State.retireOne s m t) := by
  unfold State.retireOne
  repeat' first
    | with_reducible assumption | with_reducible rfl | with_reducible apply keeps_modMemory
    | with_reducible apply keeps_memRetWord | with_reducible apply keeps_ite | dsimp only | split | intro _

theorem keeps_retireHard {L : Touch} {s0 s : State} (m : Nat) (t : Nat) (h : Option EccHit) (hk : Keeps L s0 s) (hfault : L.fault := by assumption) (hmem : L.mem := by assumption) (hhealth : L.health := by assumption) : Keeps L s0 (State.retireHard s m t h) := by
  unfold State.retireHard
  repeat' first
    | with_reducible assumption | with_reducible rfl | with_reducible apply keeps_retireOne
    | with_reducible apply keeps_assertError | with_reducible apply keeps_ite | dsimp only | split | intro _

theorem keeps_writeMemRetire {L : Touch} {s0 s : State} (m : Nat) (t : Nat) (hk : Keeps L s0 s) (hmem : L.mem := by assumption) (hhealth : L.health := by assumption) : KeepsE L s0 (State.writeMemRetire s m t) := by
  unfold State.writeMemRetire
  repeat' first
    | with_reducible assumption | with_reducible rfl | with_reducible apply keepsE_ok | exact keepsE_error _
    | with_reducible apply keeps_retireOne | with_reducible apply keepsE_ite | with_reducible apply keeps_ite
    | dsimp only | split | intro _

theorem keeps_eccLog {L : Touch} {s0 s : State} (h : EccHit) (recur : Bool) (hk : Keeps L s0 s) (hmem : L.mem := by assumption) : Keeps L s0 (State.eccLog s h recur) := by
  unfold State.eccLog
  repeat' first
    | with_reducible assumption | with_reducible rfl | with_reducible apply keeps_onMem
    | with_reducible apply keeps_ite | exact twf_tset _ _ _ _ | dsimp only | split | intro _

theorem keeps_eccCount {L : Touch} {s0 s : State} (h : EccHit) (hk : Keeps L s0 s) (hmem : L.mem := by assumption) (hhealth : L.health := by assumption) : Keeps L s0 (State.eccCount s h) := by
  unfold State.eccCount
  repeat' first
    | with_reducible assumption | with_reducible rfl | with_reducible apply keeps_modMemory
    | with_reducible apply keeps_count32 | with_reducible apply keeps_ite | dsimp only | split | intro _

theorem keeps_scrubBack {L : Touch} {s0 s : State} (m : Nat) (w : Nat) (places : List Byte) (hk : Keeps L s0 s) (hmem : L.mem := by assumption) : Keeps L s0 (State.scrubBack s m w places) := by
  unfold State.scrubBack
  repeat' first
    | with_reducible assumption | with_reducible rfl | with_reducible apply keeps_modMemory
    | with_reducible apply keeps_ite | exact twf_tset _ _ _ _ | dsimp only | split | intro _

theorem keeps_scrubTo {L : Touch} {s0 s : State} (h : EccHit) (hk : Keeps L s0 s) (hmem : L.mem := by assumption) : Keeps L s0 (State.scrubTo s h) := by
  unfold State.scrubTo
  repeat' first
    | with_reducible assumption | with_reducible rfl | with_reducible apply keeps_modMemory
    | with_reducible apply keeps_ite | dsimp only | split | intro _

theorem keeps_eccHit {L : Touch} {s0 s : State} (h : EccHit) (hk : Keeps L s0 s) (hfault : L.fault := by assumption) (hmem : L.mem := by assumption) (hhealth : L.health := by assumption) : Keeps L s0 (State.eccHit s h) := by
  unfold State.eccHit
  repeat' first
    | with_reducible assumption | with_reducible rfl | with_reducible apply keeps_scrubTo
    | with_reducible apply keeps_eccCount | with_reducible apply keeps_eccLog | with_reducible apply keeps_modMemory
    | with_reducible apply keeps_assertError | with_reducible apply keeps_scrubBack | with_reducible apply keeps_ite
    | dsimp only | split | intro _

theorem keeps_endLap {L : Touch} {s0 s : State} (m : Nat) (ms : Nat) (hk : Keeps L s0 s) (hmem : L.mem := by assumption) : Keeps L s0 (State.endLap s m ms) := by
  unfold State.endLap
  repeat' first
    | with_reducible assumption | with_reducible rfl | with_reducible apply keeps_modMemory
    | with_reducible apply keeps_ite | dsimp only | split | intro _

theorem keeps_examine {L : Touch} {s0 s : State}  (hk : Keeps L s0 s) (hfault : L.fault := by assumption) (hmem : L.mem := by assumption) (hhealth : L.health := by assumption) : Keeps L s0 (State.examine s) := by
  unfold State.examine
  repeat' first
    | with_reducible assumption | with_reducible rfl | with_reducible apply keeps_onMem
    | with_reducible apply keeps_retireHard | with_reducible apply keeps_ite
    | with_reducible refine keeps_foldl _ (fun _ _ _ => ?_) _ ?_ | exact twf_tset _ _ _ _ | dsimp only | split
    | intro _

end

end Sys2Proof.Machine
end

