-- ==== Sys2Proof/Laws/KeepsWick.lean ====
section
/-! SUPPORT. What the operations of Machine/Wick.lean keep. -/
namespace Sys2Proof.Machine
open Sys2Proof

section
set_option Elab.async false

theorem keeps_submitWick {L : Touch} {s0 s : State} (tag : Byte) (hk : Keeps L s0 s) (hwick : L.wick := by assumption) : KeepsE L s0 (State.submitWick s tag) := by
  unfold State.submitWick
  repeat' first
    | with_reducible assumption | with_reducible rfl | with_reducible apply keepsE_ok | exact keepsE_error _
    | with_reducible apply keeps_onWick | with_reducible apply keepsE_ite | with_reducible apply keeps_ite
    | dsimp only | split | intro _

theorem keeps_takeWickDone {L : Touch} {s0 s : State}  (hk : Keeps L s0 s) (hwick : L.wick := by assumption) : Keeps L s0 (State.takeWickDone s) := by
  unfold State.takeWickDone
  repeat' first
    | with_reducible assumption | with_reducible rfl | with_reducible apply keeps_onWick
    | with_reducible apply keeps_ite | dsimp only | split | intro _

theorem keeps_retireSector {L : Touch} {s0 s : State} (k : Nat) (hk : Keeps L s0 s) (hfault : L.fault := by assumption) (hwick : L.wick := by assumption) : Keeps L s0 (State.retireSector s k) := by
  unfold State.retireSector
  repeat' first
    | with_reducible assumption | with_reducible rfl | with_reducible apply keeps_onWick
    | with_reducible apply keeps_assertError | with_reducible apply keeps_ite | dsimp only | split | intro _

theorem keeps_progFail {L : Touch} {s0 s : State} (k : Nat) (hk : Keeps L s0 s) (hfault : L.fault := by assumption) (hwick : L.wick := by assumption) : Keeps L s0 (State.progFail s k) := by
  unfold State.progFail
  repeat' first
    | with_reducible assumption | with_reducible rfl | with_reducible apply keeps_onWick
    | with_reducible apply keeps_retireSector | with_reducible apply keeps_ite | exact twf_tset _ _ _ _ | dsimp only
    | split | intro _

theorem keeps_largeFail {L : Touch} {s0 s : State} (sector : Nat) (hk : Keeps L s0 s) (hfault : L.fault := by assumption) (hwick : L.wick := by assumption) : Keeps L s0 (State.largeFail s sector) := by
  unfold State.largeFail
  repeat' first
    | with_reducible assumption | with_reducible rfl | with_reducible apply keeps_onWick
    | with_reducible apply keeps_assertError | with_reducible apply keeps_ite | dsimp only | split | intro _

theorem keeps_wickProgram {L : Touch} {s0 s : State} (i : Nat) (d : WDesc) (blank : Bool) (verified : Bool) (src : HostRead) (hk : Keeps L s0 s) (hfault : L.fault := by assumption) (hwick : L.wick := by assumption) : Keeps L s0 (State.wickProgram s i d blank verified src) := by
  unfold State.wickProgram
  repeat' first
    | with_reducible assumption | with_reducible rfl | with_reducible apply keeps_onWick
    | with_reducible apply keeps_largeFail | with_reducible apply keeps_progFail | with_reducible apply keeps_ite
    | dsimp only | split | intro _

theorem keeps_wickOtp {L : Touch} {s0 s : State} (i : Nat) (d : WDesc) (verified : Bool) (src : HostRead) (hk : Keeps L s0 s) (hwick : L.wick := by assumption) : Keeps L s0 (State.wickOtp s i d verified src) := by
  unfold State.wickOtp
  repeat' first
    | with_reducible assumption | with_reducible rfl | with_reducible apply keeps_onWick
    | with_reducible apply keeps_ite | dsimp only | split | intro _

theorem keeps_wickErase {L : Touch} {s0 s : State} (i : Nat) (d : WDesc) (fetchOn : Bool) (hk : Keeps L s0 s) (hwick : L.wick := by assumption) : Keeps L s0 (State.wickErase s i d fetchOn) := by
  unfold State.wickErase
  repeat' first
    | with_reducible assumption | with_reducible rfl | with_reducible apply keeps_onWick
    | with_reducible apply keeps_ite | dsimp only | split | intro _

theorem keeps_endErase {L : Touch} {s0 s : State} (i : Nat) (d : WDesc) (ok : Bool) (hk : Keeps L s0 s) (hfault : L.fault := by assumption) (hwick : L.wick := by assumption) : Keeps L s0 (State.endErase s i d ok) := by
  unfold State.endErase
  repeat' first
    | with_reducible assumption | with_reducible rfl | with_reducible apply keeps_onWick
    | with_reducible apply keeps_largeFail | with_reducible apply keeps_retireSector | with_reducible apply keeps_ite
    | exact twf_tset _ _ _ _ | dsimp only | split | intro _

theorem keeps_postWick {L : Touch} {s0 s : State} (i : Nat) (d : WDesc) (st : Byte) (slotsBlank : Bool) (hk : Keeps L s0 s) (hlink : L.link := by assumption) (hhost : L.host := by assumption) (hwick : L.wick := by assumption) : Keeps L s0 (State.postWick s i d st slotsBlank) := by
  unfold State.postWick
  repeat' first
    | with_reducible assumption | with_reducible rfl | with_reducible apply keeps_onWick
    | with_reducible apply keeps_raise | with_reducible apply keeps_ite | dsimp only | split | intro _

theorem keeps_completeWick {L : Touch} {s0 s : State} (eraseOk : Bool) (margin : Bool) (slotsBlank : Bool) (hk : Keeps L s0 s) (hlink : L.link := by assumption) (hfault : L.fault := by assumption) (hhost : L.host := by assumption) (hwick : L.wick := by assumption) : Keeps L s0 (State.completeWick s eraseOk margin slotsBlank) := by
  unfold State.completeWick
  repeat' first
    | with_reducible assumption | with_reducible rfl | with_reducible apply keeps_onWick
    | with_reducible apply keeps_postWick | with_reducible apply keeps_endErase | with_reducible apply keeps_ite
    | dsimp only | split | intro _

theorem keeps_programPair {L : Touch} {s0 s : State}  (hk : Keeps L s0 s) (hjournal : L.journal := by assumption) (hwick : L.wick := by assumption) : Keeps L s0 (State.programPair s) := by
  unfold State.programPair
  repeat' first
    | with_reducible assumption | with_reducible rfl | with_reducible apply keeps_writePair
    | with_reducible apply keeps_onJournal | with_reducible apply keeps_onWick | with_reducible apply keeps_ite
    | dsimp only | split | intro _

theorem keeps_failCopies {L : Touch} {s0 : State} (s : State) (copyB : Bool) (n : Nat) (hk : Keeps L s0 s) (hfault : L.fault := by assumption) (hwick : L.wick := by assumption) :
    Keeps L s0 (s.failCopies copyB n) := by
  induction n generalizing s with
  | zero => exact hk
  | succ n ih =>
    unfold State.failCopies
    exact ih _ (keeps_progFail _ (keeps_onWick _ hk))

end

end Sys2Proof.Machine
end

