-- ==== Sys2Proof/Laws/KeepsLamp.lean ====
section
/-! SUPPORT. What the operations of Machine/Lamp.lean keep. -/
namespace Sys2Proof.Machine
open Sys2Proof

section
set_option Elab.async false

theorem keeps_takePlan {L : Touch} {s0 s : State}  (hk : Keeps L s0 s) (hlamp : L.lamp := by assumption) (hlink : L.link := by assumption) (hhost : L.host := by assumption) : Keeps L s0 (State.takePlan s) := by
  unfold State.takePlan
  repeat' first
    | with_reducible assumption | with_reducible rfl | with_reducible apply keeps_onLampSame
    | with_reducible apply keeps_raise | with_reducible apply keeps_ite | exact ⟨rfl, rfl, rfl, rfl⟩ | dsimp only
    | split | intro _

theorem keeps_takeOthers {L : Touch} {s0 s : State}  (hk : Keeps L s0 s) (hclock : L.clock := by assumption) (hintake : L.intake := by assumption) : Keeps L s0 (State.takeOthers s) := by
  unfold State.takeOthers
  repeat' first
    | with_reducible assumption | with_reducible rfl | with_reducible apply keeps_mapStreams
    | with_reducible apply keeps_onClock | with_reducible apply keeps_ite | dsimp only | split | intro _

theorem keeps_noteQuotas {L : Touch} {s0 s : State} (n : Nat) (hk : Keeps L s0 s) (hintake : L.intake := by assumption) : Keeps L s0 (State.noteQuotas s n) := by
  unfold State.noteQuotas
  repeat' first
    | with_reducible assumption | with_reducible rfl | with_reducible apply keeps_mapStreams
    | with_reducible apply keeps_ite | dsimp only | split | intro _

theorem keeps_overruns {L : Touch} {s0 s : State}  (hk : Keeps L s0 s) (hfault : L.fault := by assumption) : Keeps L s0 (State.overruns s) := by
  unfold State.overruns
  repeat' first
    | with_reducible assumption | with_reducible rfl | with_reducible apply keeps_assertError
    | with_reducible apply keeps_ite | dsimp only | split | intro _

theorem keeps_checkPeers {L : Touch} {s0 s : State}  (hk : Keeps L s0 s) (hlink : L.link := by assumption) (hhost : L.host := by assumption) : Keeps L s0 (State.checkPeers s) := by
  unfold State.checkPeers
  repeat' first
    | with_reducible assumption | with_reducible rfl | with_reducible apply keeps_onHost
    | with_reducible apply keeps_raise | with_reducible apply keeps_ite
    | with_reducible refine keeps_foldl _ (fun _ _ _ => ?_) _ ?_ | dsimp only | split | intro _

theorem keeps_cutWindows {L : Touch} {s0 s : State}  (hk : Keeps L s0 s) (hlamp : L.lamp := by assumption) : Keeps L s0 (State.cutWindows s) := by
  unfold State.cutWindows
  repeat' first
    | with_reducible assumption | with_reducible rfl | with_reducible apply keeps_onLampSame
    | with_reducible apply keeps_ite | exact ⟨rfl, rfl, rfl, rfl⟩ | dsimp only | split | intro _

theorem keeps_endCycle {L : Touch} {s0 s : State} (len : Nat) (clocks : Nat) (hk : Keeps L s0 s) (hjournal : L.journal := by assumption) : Keeps L s0 (State.endCycle s len clocks) := by
  unfold State.endCycle
  repeat' first
    | with_reducible assumption | with_reducible rfl | with_reducible apply keeps_onJournal
    | with_reducible apply keeps_ite | exact twf_tset _ _ _ _ | dsimp only | split | intro _

/-- What a marker does to LAMP's own fields keeps them legal, and the cycle number rises (R47, R49). -/
theorem openLamp_legal (l : LampState) (kind : MarkKind) (pos o clocks : Nat) (edges : Bool) (h : l.legal = true) :
    (((((l.openCycle kind pos o clocks).resumeTicks edges).takeMode).takePeriod).takeFields).legal = true ∧
    l.cycle < (((((l.openCycle kind pos o clocks).resumeTicks edges).takeMode).takePeriod).takeFields).cycle := by
  have hc : l.cycle < l.nextCycle := by
    unfold LampState.legal at h
    unfold LampState.nextCycle
    cases e : l.cycleP with
    | none => simp only [e, Option.getD_none]; omega
    | some n =>
      simp only [e, Bool.and_eq_true, decide_eq_true_eq] at h
      simp only [Option.getD_some]
      omega
  generalize hx : (l.openCycle kind pos o clocks).resumeTicks edges = x
  have e1 : x.cycle = l.nextCycle := by
    subst hx; unfold LampState.resumeTicks; split <;> rfl
  have e2 : x.mode = l.mode := by
    subst hx; unfold LampState.resumeTicks; split <;> rfl
  have e3 : x.modeP = l.modeP := by
    subst hx; unfold LampState.resumeTicks; split <;> rfl
  have e4 : x.cycleP = none := by
    subst hx; unfold LampState.resumeTicks; split <;> rfl
  have k1 : x.takeMode.cycle = x.cycle := by
    unfold LampState.takeMode
    cases x.modeP with
    | none => rfl
    | some m => dsimp only; split <;> rfl
  have k2 : x.takeMode.cycleP = x.cycleP := by
    unfold LampState.takeMode
    cases x.modeP with
    | none => rfl
    | some m => dsimp only; split <;> rfl
  have k3 : x.takeMode.modeP = none := by
    unfold LampState.takeMode
    cases e : x.modeP with
    | none => simp [e]
    | some m => dsimp only; split <;> rfl
  have k4 : x.takeMode.mode = x.modeP.getD x.mode := by
    unfold LampState.takeMode
    cases x.modeP with
    | none => rfl
    | some m => dsimp only; split <;> rfl
  have hm : l.mode ≠ 3 ∧ l.modeP ≠ some 3 := by
    unfold LampState.legal at h
    simp only [Bool.and_eq_true, bne_iff_ne] at h
    exact h.1
  have k5 : x.takeMode.mode ≠ 3 := by
    rw [k4, e2, e3]
    cases e : l.modeP with
    | none => exact hm.1
    | some m => intro c; exact hm.2 (by rw [e]; exact congrArg some c)
  refine ⟨?_, ?_⟩
  · show LampState.legal (LampState.takeFields (LampState.takePeriod x.takeMode)) = true
    unfold LampState.legal
    have f1 : (LampState.takeFields (LampState.takePeriod x.takeMode)).mode = x.takeMode.mode := rfl
    have f2 : (LampState.takeFields (LampState.takePeriod x.takeMode)).modeP = x.takeMode.modeP := rfl
    have f3 : (LampState.takeFields (LampState.takePeriod x.takeMode)).cycleP = x.takeMode.cycleP := rfl
    rw [f1, f2, f3, k3, k2, e4]
    simpa using k5
  · show l.cycle < x.takeMode.cycle
    rw [k1, e1]
    exact hc

theorem keeps_openLamp {L : Touch} {s0 s : State} (kind : MarkKind) (pos o clocks : Nat) (edges : Bool) (hk : Keeps L s0 s) (hlamp : L.lamp := by assumption) (hcyc : L.cyc := by assumption) :
    Keeps L s0 (s.onLamp fun l =>
      ((l.openCycle kind pos o clocks).resumeTicks edges).takeMode.takePeriod.takeFields) :=
  keeps_onLamp _ (fun h => (openLamp_legal s.lamp kind pos o clocks edges h).1)
    (fun h => Nat.le_of_lt (openLamp_legal s.lamp kind pos o clocks edges h).2) (no_touch hcyc) hk

theorem keeps_markerAt {L : Touch} {s0 s : State} (kind : MarkKind) (pos : Nat) (o : Nat) (m : MarkerIn) (hk : Keeps L s0 s) (hclock : L.clock := by assumption) (hlamp : L.lamp := by assumption) (hcyc : L.cyc := by assumption) (hlink : L.link := by assumption) (hfault : L.fault := by assumption) (hintake : L.intake := by assumption) (hmedia : L.media := by assumption) (hplace : L.place := by assumption) (hjournal : L.journal := by assumption) (hhost : L.host := by assumption) (hhealth : L.health := by assumption) :
    Keeps L s0 (State.markerAt s kind pos o m) := by
  unfold State.markerAt
  have h0 := keeps_forceCloses s.lamp.cycle hk
  generalize s.forceCloses s.lamp.cycle = a at h0
  dsimp only
  have h1 : Keeps L s0 (if a.running = true then a.overruns else a) := keeps_ite (keeps_overruns h0) h0
  generalize (if a.running = true then a.overruns else a) = b at h1
  have h2 := keeps_openLamp kind pos o m.clocks m.edgesResumed
    (keeps_endCycle (pos - b.lamp.openPos) m.clocks (keeps_cutWindows h1))
  generalize State.onLamp _ _ = c at h2
  have h3 := keeps_takeOthers (keeps_noteQuotas c.lamp.cycle (keeps_takePlan h2))
  generalize State.takeOthers _ = d at h3
  have h4 : Keeps L s0 (if d.clock.mainOn = true then d.checkPeers else d) := keeps_ite (keeps_checkPeers h3) h3
  generalize (if d.clock.mainOn = true then d.checkPeers else d) = e at h4
  exact keeps_ite (keeps_dryRun _ (keeps_chooseModes h4)) h4

theorem keeps_flywheel {L : Touch} {s0 s : State} (m : MarkerIn) (hk : Keeps L s0 s) (hclock : L.clock := by assumption) (hlamp : L.lamp := by assumption) (hcyc : L.cyc := by assumption) (hlink : L.link := by assumption) (hfault : L.fault := by assumption) (hintake : L.intake := by assumption) (hmedia : L.media := by assumption) (hplace : L.place := by assumption) (hjournal : L.journal := by assumption) (hhost : L.host := by assumption) (hhealth : L.health := by assumption) : Keeps L s0 (State.flywheel s m) := by
  unfold State.flywheel
  refine keeps_ite (keeps_markerAt _ _ _ _ (keeps_raise _ (keeps_onLamp _ (fun h => ?_) (fun _ => Nat.le_refl _) (fun _ => rfl) hk)))
    (keeps_markerAt _ _ _ _ (keeps_onLampSame _ (fun _ => ⟨rfl, rfl, rfl, rfl⟩) hk))
  unfold LampState.legal at h ⊢
  simp only [Bool.and_eq_true] at h ⊢
  exact ⟨⟨rfl, h.1.2⟩, h.2⟩

theorem keeps_repeatPhase {L : Touch} {s0 s : State}  (hk : Keeps L s0 s) (hlamp : L.lamp := by assumption) : Keeps L s0 (State.repeatPhase s) := by
  unfold State.repeatPhase
  repeat' first
    | with_reducible assumption | with_reducible rfl | with_reducible apply keeps_onLampSame
    | with_reducible apply keeps_ite | exact ⟨rfl, rfl, rfl, rfl⟩ | dsimp only | split | intro _

theorem keeps_tick {L : Touch} {s0 s : State}  (hk : Keeps L s0 s) (hlamp : L.lamp := by assumption) : Keeps L s0 (State.tick s) := by
  unfold State.tick
  repeat' first
    | with_reducible assumption | with_reducible rfl | with_reducible apply keeps_onLampSame
    | with_reducible apply keeps_ite | exact ⟨rfl, rfl, rfl, rfl⟩ | dsimp only | split | intro _

end

end Sys2Proof.Machine
end

