-- ==== Sys2Proof/Laws/KeepsStreamCmds.lean ====
section
/-! SUPPORT. What the operations of Machine/StreamCmds.lean keep. -/
namespace Sys2Proof.Machine
open Sys2Proof

section
set_option Elab.async false

theorem keeps_openStream {L : Touch} {s0 s : State} (i : Nat) (hk : Keeps L s0 s) (hintake : L.intake := by assumption) : Keeps L s0 (State.openStream s i) := by
  unfold State.openStream
  repeat' first
    | with_reducible assumption | with_reducible rfl | with_reducible apply keeps_forgetStream
    | with_reducible apply keeps_modStream | with_reducible apply keeps_mirrorEvent | with_reducible apply keeps_ite
    | dsimp only | split | intro _ | unfold LampState.openCycle

theorem keeps_endStream {L : Touch} {s0 s : State} (i : Nat) (hk : Keeps L s0 s) (hintake : L.intake := by assumption) : Keeps L s0 (State.endStream s i) := by
  unfold State.endStream
  repeat' first
    | with_reducible assumption | with_reducible rfl | with_reducible apply keeps_closeUpTo
    | with_reducible apply keeps_noteChange | with_reducible apply keeps_setSState | with_reducible apply keeps_ite
    | dsimp only | split | intro _

theorem keeps_issueMirror {L : Touch} {s0 s : State} (i : Nat) (st : SState) (replay : Bool) (hk : Keeps L s0 s) (hintake : L.intake := by assumption) (hhost : L.host := by assumption) : Keeps L s0 (State.issueMirror s i st replay) := by
  unfold State.issueMirror
  repeat' first
    | with_reducible assumption | with_reducible rfl | with_reducible apply keeps_issue
    | with_reducible apply keeps_modStream | with_reducible apply keeps_ite | dsimp only | split | intro _

theorem keeps_resumeStream {L : Touch} {s0 s : State} (i : Nat) (hk : Keeps L s0 s) (hintake : L.intake := by assumption) (hhost : L.host := by assumption) : Keeps L s0 (State.resumeStream s i) := by
  unfold State.resumeStream
  repeat' first
    | with_reducible assumption | with_reducible rfl | with_reducible apply keeps_issueMirror
    | with_reducible apply keeps_modStream | with_reducible apply keeps_ite | dsimp only | split | intro _
    | unfold LampState.openCycle

theorem keeps_carryResume {L : Touch} {s0 s : State} (i : Nat) (hk : Keeps L s0 s) (hintake : L.intake := by assumption) (hhost : L.host := by assumption) : Keeps L s0 (State.carryResume s i) := by
  unfold State.carryResume
  repeat' first
    | with_reducible assumption | with_reducible rfl | with_reducible apply keeps_resumeStream
    | with_reducible apply keeps_ite | dsimp only | split | intro _

theorem keeps_carryResumes {L : Touch} {s0 s : State}  (hk : Keeps L s0 s) (hintake : L.intake := by assumption) (hhost : L.host := by assumption) : Keeps L s0 (State.carryResumes s) := by
  unfold State.carryResumes
  repeat' first
    | with_reducible assumption | with_reducible rfl | with_reducible apply keeps_carryResume
    | with_reducible apply keeps_ite | with_reducible refine keeps_foldl _ (fun _ _ _ => ?_) _ ?_ | dsimp only | split
    | intro _

theorem keeps_startFlush {L : Touch} {s0 s : State} (f : Sparse Nat) (hk : Keeps L s0 s) (hintake : L.intake := by assumption) (hmedia : L.media := by assumption) (hplace : L.place := by assumption) : Keeps L s0 (State.startFlush s f) := by
  unfold State.startFlush
  repeat' first
    | with_reducible assumption | with_reducible rfl | with_reducible apply keeps_onIntake
    | with_reducible apply keeps_flushProgram | with_reducible apply keeps_ite | dsimp only | split | intro _

theorem keeps_askResume {L : Touch} {s0 s : State} (i : Nat) (hk : Keeps L s0 s) (hintake : L.intake := by assumption) (hmedia : L.media := by assumption) (hplace : L.place := by assumption) (hhost : L.host := by assumption) : Keeps L s0 (State.askResume s i) := by
  unfold State.askResume
  repeat' first
    | with_reducible assumption | with_reducible rfl | with_reducible apply keeps_modStream
    | with_reducible apply keeps_carryResume | with_reducible apply keeps_startFlush | with_reducible apply keeps_ite
    | dsimp only | split | intro _

theorem keeps_awaitResume {L : Touch} {s0 s : State} (i : Nat) (hk : Keeps L s0 s) (hlink : L.link := by assumption) : Keeps L s0 (State.awaitResume s i) := by
  unfold State.awaitResume
  repeat' first
    | with_reducible assumption | with_reducible rfl | with_reducible apply keeps_onLink
    | with_reducible apply keeps_ite | dsimp only | split | intro _

theorem keeps_deleteStream {L : Touch} {s0 s : State} (i : Nat) (hk : Keeps L s0 s) (hintake : L.intake := by assumption) : Keeps L s0 (State.deleteStream s i) := by
  unfold State.deleteStream
  repeat' first
    | with_reducible assumption | with_reducible rfl | with_reducible apply keeps_modStream
    | with_reducible apply keeps_noteChange | with_reducible apply keeps_ite | dsimp only | split | intro _

theorem keeps_stCommand {L : Touch} {s0 s : State} (i : Nat) (op : Nat) (hk : Keeps L s0 s) (hlink : L.link := by assumption) (hintake : L.intake := by assumption) (hmedia : L.media := by assumption) (hplace : L.place := by assumption) (hhost : L.host := by assumption) : KeepsE L s0 (State.stCommand s i op) := by
  unfold State.stCommand
  repeat' first
    | with_reducible assumption | with_reducible rfl | with_reducible apply keepsE_ok | exact keepsE_error _
    | with_reducible apply keeps_openStream | with_reducible apply keeps_endStream
    | with_reducible apply keeps_askResume | with_reducible apply keeps_awaitResume
    | with_reducible apply keeps_deleteStream | with_reducible apply keepsE_ite | with_reducible apply keeps_ite
    | dsimp only | split | intro _

theorem keeps_writeTrimLo {L : Touch} {s0 s : State} (i : Nat) (v : Word) (hk : Keeps L s0 s) (hintake : L.intake := by assumption) : KeepsE L s0 (State.writeTrimLo s i v) := by
  unfold State.writeTrimLo
  repeat' first
    | with_reducible assumption | with_reducible rfl | with_reducible apply keepsE_ok | exact keepsE_error _
    | with_reducible apply keeps_onIntake | with_reducible apply keeps_modStream
    | with_reducible apply keeps_noteChange | with_reducible apply keepsE_ite | with_reducible apply keeps_ite
    | dsimp only | split | intro _

theorem keeps_cryptoErase {L : Touch} {s0 s : State}  (hk : Keeps L s0 s) (hintake : L.intake := by assumption) (hplace : L.place := by assumption) (hjournal : L.journal := by assumption) (hwick : L.wick := by assumption) (hdraws : L.draws := by assumption) : Keeps L s0 (State.cryptoErase s) := by
  unfold State.cryptoErase
  repeat' first
    | with_reducible assumption | with_reducible rfl | with_reducible apply keeps_mapStreams
    | with_reducible apply keeps_onPlace | with_reducible apply keeps_onIntake | with_reducible apply keeps_newKey
    | with_reducible apply keeps_setTail | with_reducible apply keeps_ite | dsimp only | split | intro _

theorem keeps_consume {L : Touch} {s0 s : State} (bytes : Nat) (hk : Keeps L s0 s) (hintake : L.intake := by assumption) : Keeps L s0 (State.consume s bytes) := by
  unfold State.consume
  repeat' first
    | with_reducible assumption | with_reducible rfl | with_reducible apply keeps_onIntake
    | with_reducible apply keeps_ite | dsimp only | split | intro _

theorem keeps_advertise {L : Touch} {s0 s : State}  (hk : Keeps L s0 s) (hintake : L.intake := by assumption) : Keeps L s0 (State.advertise s) := by
  unfold State.advertise
  repeat' first
    | with_reducible assumption | with_reducible rfl | with_reducible apply keeps_onIntake
    | with_reducible apply keeps_ite | dsimp only | split | intro _

theorem keeps_watchSpace {L : Touch} {s0 s : State}  (hk : Keeps L s0 s) (hlink : L.link := by assumption) (hintake : L.intake := by assumption) (hhost : L.host := by assumption) : Keeps L s0 (State.watchSpace s) := by
  unfold State.watchSpace
  repeat' first
    | with_reducible assumption | with_reducible rfl | with_reducible apply keeps_spaceCheck
    | with_reducible apply keeps_ite | dsimp only | split | intro _

theorem keeps_noteDeltas {L : Touch} {s0 s : State} (n : Nat) (hk : Keeps L s0 s) (hhost : L.host := by assumption) : Keeps L s0 (State.noteDeltas s n) := by
  unfold State.noteDeltas
  repeat' first
    | with_reducible assumption | with_reducible rfl | with_reducible apply keeps_onHost
    | with_reducible apply keeps_ite | dsimp only | split | intro _

end

end Sys2Proof.Machine
end

