-- ==== Sys2Proof/Laws/KeepsBackground.lean ====
section
/-! SUPPORT. What the operations of Machine/Background.lean keep. -/
namespace Sys2Proof.Machine
open Sys2Proof

section
set_option Elab.async false

theorem keeps_copyBatch {L : Touch} {s0 s : State} (kind : Nat) (role : GroupRole) (cls : BitVec 3) (batch : List Piece) (hk : Keeps L s0 s) (hmedia : L.media := by assumption) (hplace : L.place := by assumption) : Keeps L s0 (State.copyBatch s kind role cls batch) := by
  unfold State.copyBatch
  repeat' first
    | with_reducible assumption | with_reducible rfl | with_reducible apply keeps_allocate
    | with_reducible apply keeps_launch | with_reducible apply keeps_padGroup | with_reducible apply keeps_onPlace
    | with_reducible apply keeps_ite | dsimp only | split | intro _
    | refine keepsP_out (keeps_allocate _ _ ?_) (by assumption)

theorem keeps_readSources {L : Touch} {s0 s : State} (cls : BitVec 3) (batch : List Piece) (m : MoveIn) (hk : Keeps L s0 s) (hfault : L.fault := by assumption) (hmedia : L.media := by assumption) (hplace : L.place := by assumption) (hhealth : L.health := by assumption) :
    Keeps L s0 (State.readSources s cls batch m) := by
  unfold State.readSources
  refine keeps_foldl _ (fun t r h => ?_) _ hk
  split
  next x e =>
    obtain ⟨l, _, e2⟩ := Option.bind_eq_some_iff.mp e
    exact readCodeword_keeps cls 0 l r.2 h x.1 x.2 e2
  next => exact h

theorem keeps_verifyFailed {L : Touch} {s0 s : State} (l : Loc) (hk : Keeps L s0 s) (hmedia : L.media := by assumption) (hplace : L.place := by assumption) : Keeps L s0 (State.verifyFailed s l) := by
  unfold State.verifyFailed
  repeat' first
    | with_reducible assumption | with_reducible rfl | with_reducible apply keeps_unaccUnit
    | with_reducible apply keeps_relocate | with_reducible apply keeps_dropMember
    | with_reducible apply keeps_closeFull | with_reducible apply keeps_ite | dsimp only | split | intro _

theorem keeps_verifyMoves {L : Touch} {s0 s : State} (m : MoveIn) (hk : Keeps L s0 s) (hmedia : L.media := by assumption) (hplace : L.place := by assumption) : Keeps L s0 (State.verifyMoves s m) := by
  unfold State.verifyMoves
  repeat' first
    | with_reducible assumption | with_reducible rfl | with_reducible apply keeps_verifyFailed
    | with_reducible apply keeps_onPlace | with_reducible apply keeps_ite
    | with_reducible refine keeps_foldl _ (fun _ _ _ => ?_) _ ?_ | dsimp only | split | intro _

theorem keeps_stickBands {L : Touch} {s0 s : State} (ps : List Piece) (hk : Keeps L s0 s) (hplace : L.place := by assumption) : Keeps L s0 (State.stickBands s ps) := by
  unfold State.stickBands
  repeat' first
    | with_reducible assumption | with_reducible rfl | with_reducible apply keeps_modBand
    | with_reducible apply keeps_ite | with_reducible refine keeps_foldl _ (fun _ _ _ => ?_) _ ?_ | dsimp only | split
    | intro _

theorem keeps_moveBatch {L : Touch} {s0 s : State} (cls : BitVec 3) (batch : List Piece) (m : MoveIn) (f : State → List Piece → State)
    (hf : ∀ t l, Keeps L s0 t → Keeps L s0 (f t l)) (hk : Keeps L s0 s) (hfault : L.fault := by assumption) (hmedia : L.media := by assumption) (hplace : L.place := by assumption) (hhealth : L.health := by assumption) : Keeps L s0 (State.moveBatch s cls batch m f) := by
  unfold State.moveBatch
  exact hf _ _ (keeps_stickBands _ (keeps_readSources cls batch m hk))

theorem keeps_rewriteBatch {L : Touch} {s0 s : State} (kind : Nat) (cls : BitVec 3) (batch : List Piece) (m : MoveIn) (hk : Keeps L s0 s) (hfault : L.fault := by assumption) (hmedia : L.media := by assumption) (hplace : L.place := by assumption) (hhealth : L.health := by assumption) : Keeps L s0 (State.rewriteBatch s kind cls batch m) := by
  unfold State.rewriteBatch
  repeat' first
    | with_reducible assumption | with_reducible rfl | with_reducible apply keeps_moveBatch
    | with_reducible apply keeps_copyBatch | with_reducible apply keeps_ite
    | with_reducible refine keeps_foldl _ (fun _ _ _ => ?_) _ ?_ | dsimp only | split | intro _

theorem keeps_markPages {L : Touch} {s0 s : State} (ls : List Loc) (hk : Keeps L s0 s) (hplace : L.place := by assumption) : Keeps L s0 (State.markPages s ls) := by
  unfold State.markPages
  repeat' first
    | with_reducible assumption | with_reducible rfl | with_reducible apply keeps_onPlace
    | with_reducible apply keeps_ite | dsimp only | split | intro _

theorem keeps_lostRows {L : Touch} {s0 s : State} (ps : List Piece) (hk : Keeps L s0 s) (hfault : L.fault := by assumption) (hmedia : L.media := by assumption) (hhealth : L.health := by assumption) : Keeps L s0 (State.lostRows s ps) := by
  unfold State.lostRows
  repeat' first
    | with_reducible assumption | with_reducible rfl | with_reducible apply keeps_stripeLost
    | with_reducible apply keeps_ite | with_reducible refine keeps_foldl _ (fun _ _ _ => ?_) _ ?_ | dsimp only | split
    | intro _

theorem keeps_dropJournal {L : Touch} {s0 s : State} (b : Nat) (hk : Keeps L s0 s) (hjournal : L.journal := by assumption) : Keeps L s0 (State.dropJournal s b) := by
  unfold State.dropJournal
  repeat' first
    | with_reducible assumption | with_reducible rfl | with_reducible apply keeps_onJournal
    | with_reducible apply keeps_ite | dsimp only | split | intro _

theorem keeps_freeBand {L : Touch} {s0 s : State} (b : Nat) (hk : Keeps L s0 s) (hplace : L.place := by assumption) : Keeps L s0 (State.freeBand s b) := by
  unfold State.freeBand
  repeat' first
    | with_reducible assumption | with_reducible rfl | with_reducible apply keeps_modBand
    | with_reducible apply keeps_noteShort | with_reducible apply keeps_ite | dsimp only | split | intro _

theorem keeps_sealUnits {L : Touch} {s0 s : State}  (hk : Keeps L s0 s) (hmedia : L.media := by assumption) (hplace : L.place := by assumption) : Keeps L s0 (State.sealUnits s) := by
  unfold State.sealUnits
  repeat' first
    | with_reducible assumption | with_reducible rfl | with_reducible apply keeps_spillUnits
    | with_reducible apply keeps_padStaging | with_reducible apply keeps_ite | dsimp only | split | intro _

theorem keeps_formRunPage {L : Touch} {s0 s : State}  (hk : Keeps L s0 s) (hmedia : L.media := by assumption) (hplace : L.place := by assumption) : Keeps L s0 (State.formRunPage s) := by
  unfold State.formRunPage
  repeat' first
    | with_reducible assumption | with_reducible rfl | with_reducible apply keeps_pageJob
    | with_reducible apply keeps_padGroup | with_reducible apply keeps_ite | dsimp only | split | intro _

theorem keeps_evict {L : Touch} {s0 s : State} (p : Nat) (hk : Keeps L s0 s) (hplace : L.place := by assumption) (hhost : L.host := by assumption) : Keeps L s0 (State.evict s p) := by
  unfold State.evict
  repeat' first
    | with_reducible assumption | with_reducible rfl | with_reducible apply keeps_onPlace
    | with_reducible apply keeps_issue | with_reducible apply keeps_ite | exact twf_tset _ _ _ _ | dsimp only | split
    | intro _

theorem keeps_freeFrame {L : Touch} {s0 s : State} (hk : Keeps L s0 s) (hplace : L.place := by assumption) (hhost : L.host := by assumption) : KeepsO L s0 (State.freeFrame s) := by
  unfold State.freeFrame
  refine keepsO_ite (keepsO_some hk) ?_
  intro t e
  obtain ⟨p, _, ht⟩ := Option.map_eq_some_iff.mp e
  cases ht
  exact keeps_evict _ hk

theorem keeps_makeRoom {L : Touch} {s0 s : State}  (hk : Keeps L s0 s) (hmedia : L.media := by assumption) (hplace : L.place := by assumption) : Keeps L s0 (State.makeRoom s) := by
  unfold State.makeRoom
  repeat' first
    | with_reducible assumption | with_reducible rfl | with_reducible apply keeps_programMap
    | with_reducible apply keeps_padGroup | with_reducible apply keeps_ite | dsimp only | split | intro _

theorem keeps_gristMiss {L : Touch} {s0 s : State} (p : Nat) (hk : Keeps L s0 s) (hplace : L.place := by assumption) (hhost : L.host := by assumption) : KeepsO L s0 (State.gristMiss s p) := by
  unfold State.gristMiss
  repeat' first
    | with_reducible assumption | with_reducible rfl | with_reducible apply keepsO_some | exact keepsO_none
    | with_reducible apply keeps_freeFrame | with_reducible apply keeps_onPlace | with_reducible apply keepsO_ite
    | with_reducible apply keeps_ite | exact twf_tset _ _ _ _ | dsimp only | split | intro _
    | refine keepsO_out (keeps_freeFrame ?_) (by assumption)

theorem keeps_useFrame {L : Touch} {s0 s : State} (p : Nat) (hk : Keeps L s0 s) (hplace : L.place := by assumption) : Keeps L s0 (State.useFrame s p) := by
  unfold State.useFrame
  repeat' first
    | with_reducible assumption | with_reducible rfl | with_reducible apply keeps_onPlace
    | with_reducible apply keeps_ite | dsimp only | split | intro _

theorem keeps_cellarFail {L : Touch} {s0 s : State} (p : Nat) (tagFailed : Bool) (hk : Keeps L s0 s) (hlink : L.link := by assumption) (hplace : L.place := by assumption) (hhost : L.host := by assumption) (hhealth : L.health := by assumption) : Keeps L s0 (State.cellarFail s p tagFailed) := by
  unfold State.cellarFail
  repeat' first
    | with_reducible assumption | with_reducible rfl | with_reducible apply keeps_onPlace
    | with_reducible apply keeps_count32 | with_reducible apply keeps_raise | with_reducible apply keeps_ite
    | dsimp only | split | intro _

theorem keeps_eraseSnuff {L : Touch} {s0 s : State} (b : Nat) (hk : Keeps L s0 s) (hmedia : L.media := by assumption) : Keeps L s0 (State.eraseSnuff s b) := by
  unfold State.eraseSnuff
  repeat' first
    | with_reducible assumption | with_reducible rfl | with_reducible apply keeps_submit
    | with_reducible apply keeps_ite | with_reducible refine keeps_foldl _ (fun _ _ _ => ?_) _ ?_ | dsimp only | split
    | intro _

theorem keeps_checkSnuff {L : Touch} {s0 s : State} (b : Nat) (erased : Bool) (hk : Keeps L s0 s) (hmedia : L.media := by assumption) (hplace : L.place := by assumption) : Keeps L s0 (State.checkSnuff s b erased) := by
  unfold State.checkSnuff
  repeat' first
    | with_reducible assumption | with_reducible rfl | with_reducible apply keeps_onPlace
    | with_reducible apply keeps_eraseSnuff | with_reducible apply keeps_ite | dsimp only | split | intro _

end

end Sys2Proof.Machine
end

