-- ==== Sys2Proof/Laws/KeepsMediaCmds.lean ====
section
/-! SUPPORT. What the operations of Machine/MediaCmds.lean keep. -/
namespace Sys2Proof.Machine
open Sys2Proof

section
set_option Elab.async false

theorem keeps_endTraining {L : Touch} {s0 s : State} (ch : Nat) (pass : BitVec 4) (hk : Keeps L s0 s) (hfault : L.fault := by assumption) (hmedia : L.media := by assumption) (hplace : L.place := by assumption) (hhealth : L.health := by assumption) : Keeps L s0 (State.endTraining s ch pass) := by
  unfold State.endTraining
  repeat' first
    | with_reducible assumption | with_reducible rfl | with_reducible apply keeps_failChannel
    | with_reducible apply keeps_modChan | with_reducible apply keeps_ite | dsimp only | split | intro _

theorem keeps_setStatus {L : Touch} {s0 s : State} (ch : Nat) (slot : Nat) (st : Byte) (hk : Keeps L s0 s) (hmedia : L.media := by assumption) : Keeps L s0 (State.setStatus s ch slot st) := by
  unfold State.setStatus
  repeat' first
    | with_reducible assumption | with_reducible rfl | with_reducible apply keeps_modChan
    | with_reducible apply keeps_ite | dsimp only | split | intro _

theorem keeps_eraseFirst {L : Touch} {s0 s : State} (b : Nat) (m : Nat × Nat) (cls : BitVec 3) (hk : Keeps L s0 s) (hmedia : L.media := by assumption) : Keeps L s0 (State.eraseFirst s b m cls) := by
  unfold State.eraseFirst
  repeat' first
    | with_reducible assumption | with_reducible rfl | with_reducible apply keeps_submit
    | with_reducible apply keeps_modChan | with_reducible apply keeps_onMedia | with_reducible apply keeps_ite
    | dsimp only | split | intro _

theorem keeps_unstart {L : Touch} {s0 s : State} (b : Nat) (ch : Nat) (hk : Keeps L s0 s) (hmedia : L.media := by assumption) : Keeps L s0 (State.unstart s b ch) := by
  unfold State.unstart
  repeat' first
    | with_reducible assumption | with_reducible rfl | with_reducible apply keeps_modChan
    | with_reducible apply keeps_ite | dsimp only | split | intro _

theorem keeps_checkBand {L : Touch} {s0 s : State} (b : Nat) (notErased : List Nat) (hk : Keeps L s0 s) (hmedia : L.media := by assumption) (hplace : L.place := by assumption) : Keeps L s0 (State.checkBand s b notErased) := by
  unfold State.checkBand
  repeat' first
    | with_reducible assumption | with_reducible rfl | with_reducible apply keeps_unstart
    | with_reducible apply keeps_eraseFirst | with_reducible apply keeps_modBand | with_reducible apply keeps_ite
    | with_reducible refine keeps_foldl _ (fun _ _ _ => ?_) _ ?_ | dsimp only | split | intro _

theorem keeps_afterDesc {L : Touch} {s0 s : State} (ch : Nat) (e : QEntry) (st : Byte) (hk : Keeps L s0 s) (hfault : L.fault := by assumption) (hmedia : L.media := by assumption) (hplace : L.place := by assumption) (hhealth : L.health := by assumption) : Keeps L s0 (State.afterDesc s ch e st) := by
  unfold State.afterDesc
  repeat' first
    | with_reducible assumption | with_reducible rfl | with_reducible apply keeps_unitDone
    | with_reducible apply keeps_countFail | with_reducible apply keeps_blockFailed
    | with_reducible apply keeps_programLost | with_reducible apply keeps_dropMember
    | with_reducible apply keeps_closeFull | with_reducible apply keeps_parityDone
    | with_reducible apply keeps_parityFailed | with_reducible apply keeps_parityLost
    | with_reducible apply keeps_readFirst | with_reducible apply keeps_firstRead | with_reducible apply keeps_ite
    | dsimp only | split | intro _

theorem keeps_endScrub {L : Touch} {s0 s : State}  (hk : Keeps L s0 s) (hlink : L.link := by assumption) (hmedia : L.media := by assumption) (hhost : L.host := by assumption) (hhealth : L.health := by assumption) : Keeps L s0 (State.endScrub s) := by
  unfold State.endScrub
  repeat' first
    | with_reducible assumption | with_reducible rfl | with_reducible apply keeps_onMedia
    | with_reducible apply keeps_hset | with_reducible apply keeps_raise | with_reducible apply keeps_ite
    | exact twf_tmap _ _ _ | dsimp only | split | intro _

theorem keeps_scrubRead {L : Touch} {s0 s : State} (p : Profile) (ch : Nat) (b : Nat) (wl : Nat) (r : ReadIn) (hk : Keeps L s0 s) (hmedia : L.media := by assumption) (hhealth : L.health := by assumption) : Keeps L s0 (State.scrubRead s p ch b wl r) := by
  unfold State.scrubRead
  repeat' first
    | with_reducible assumption | with_reducible rfl | with_reducible apply keeps_countRead
    | with_reducible apply keeps_listRefresh | with_reducible apply keeps_ite | dsimp only | split | intro _

end

end Sys2Proof.Machine
end

