-- ==== Sys2Proof/Laws/KeepsPowerCmds.lean ====
section
/-! SUPPORT. What the operations of Machine/PowerCmds.lean keep. -/
namespace Sys2Proof.Machine
open Sys2Proof

section
set_option Elab.async false

theorem keeps_armVin {L : Touch} {s0 s : State}  (hk : Keeps L s0 s) (hclock : L.clock := by assumption) : Keeps L s0 (State.armVin s) := by
  unfold State.armVin
  repeat' first
    | with_reducible assumption | with_reducible rfl | with_reducible apply keeps_onClock
    | with_reducible apply keeps_ite | dsimp only | split | intro _

theorem keeps_atTick {L : Touch} {s0 s : State} (pos : Nat) (hk : Keeps L s0 s) (hlamp : L.lamp := by assumption) : Keeps L s0 (State.atTick s pos) := by
  unfold State.atTick
  repeat' first
    | with_reducible assumption | with_reducible rfl | with_reducible apply keeps_onLampSame
    | with_reducible apply keeps_ite | exact ⟨rfl, rfl, rfl, rfl⟩ | dsimp only | split | intro _

theorem keeps_reportOv {L : Touch} {s0 s : State}  (hk : Keeps L s0 s) (hclock : L.clock := by assumption) (hlamp : L.lamp := by assumption) (hlink : L.link := by assumption) (hfault : L.fault := by assumption) (hintake : L.intake := by assumption) (hmedia : L.media := by assumption) (hplace : L.place := by assumption) (hjournal : L.journal := by assumption) (hhost : L.host := by assumption) (hpower : L.power := by assumption) (hsnuff : L.snuff := by assumption) (hwick : L.wick := by assumption) (hmem : L.mem := by assumption) (hhealth : L.health := by assumption) : Keeps L s0 (State.reportOv s) := by
  unfold State.reportOv
  repeat' first
    | with_reducible assumption | with_reducible rfl | with_reducible apply keeps_resetSource
    | with_reducible apply keeps_takeReport | with_reducible apply keeps_ite | dsimp only | split | intro _

end

end Sys2Proof.Machine
end

