-- ==== Sys2Proof/Laws/KeepsHostPort.lean ====
section
/-! SUPPORT. What the operations of Machine/HostPort.lean keep. -/
namespace Sys2Proof.Machine
open Sys2Proof

section
set_option Elab.async false

theorem keeps_sendPending {L : Touch} {s0 s : State} (v : Nat) (hk : Keeps L s0 s) (hhost : L.host := by assumption) : Keeps L s0 (State.sendPending s v) := by
  unfold State.sendPending
  repeat' first
    | with_reducible assumption | with_reducible rfl | with_reducible apply keeps_onHost
    | with_reducible apply keeps_issue | with_reducible apply keeps_ite | dsimp only | split | intro _

theorem keeps_sendVectors {L : Touch} {s0 s : State}  (hk : Keeps L s0 s) (hhost : L.host := by assumption) : Keeps L s0 (State.sendVectors s) := by
  unfold State.sendVectors
  repeat' first
    | with_reducible assumption | with_reducible rfl | with_reducible apply keeps_sendPending
    | with_reducible apply keeps_ite | with_reducible refine keeps_foldl _ (fun _ _ _ => ?_) _ ?_ | dsimp only | split
    | intro _

theorem keeps_modSq {L : Touch} {s0 s : State} (i : Nat) (f : SRing → SRing) (hk : Keeps L s0 s) (hhost : L.host := by assumption) : Keeps L s0 (State.modSq s i f) := by
  unfold State.modSq
  repeat' first
    | with_reducible assumption | with_reducible rfl | with_reducible apply keeps_onHost
    | with_reducible apply keeps_ite | exact twf_tset _ _ _ _ | dsimp only | split | intro _

theorem keeps_modCq {L : Touch} {s0 s : State} (j : Nat) (f : CRing → CRing) (hk : Keeps L s0 s) (hhost : L.host := by assumption) : Keeps L s0 (State.modCq s j f) := by
  unfold State.modCq
  repeat' first
    | with_reducible assumption | with_reducible rfl | with_reducible apply keeps_onHost
    | with_reducible apply keeps_ite | exact twf_tset _ _ _ _ | dsimp only | split | intro _

theorem keeps_sqError {L : Touch} {s0 s : State} (i : Nat) (cause : BitVec 4) (hk : Keeps L s0 s) (hhost : L.host := by assumption) : Keeps L s0 (State.sqError s i cause) := by
  unfold State.sqError
  repeat' first
    | with_reducible assumption | with_reducible rfl | with_reducible apply keeps_modSq
    | with_reducible apply keeps_signal | with_reducible apply keeps_ite | dsimp only | split | intro _

theorem keeps_startSq {L : Touch} {s0 s : State} (i : Nat) (r : SRing) (hk : Keeps L s0 s) (hhost : L.host := by assumption) : Keeps L s0 (State.startSq s i r) := by
  unfold State.startSq
  repeat' first
    | with_reducible assumption | with_reducible rfl | with_reducible apply keeps_modSq
    | with_reducible apply keeps_sqError | with_reducible apply keeps_ite | dsimp only | split | intro _

theorem keeps_writeSq {L : Touch} {s0 s : State} (i : Nat) (off : Nat) (data : List Byte) (hk : Keeps L s0 s) (hhost : L.host := by assumption) : Keeps L s0 (State.writeSq s i off data) := by
  unfold State.writeSq
  repeat' first
    | with_reducible assumption | with_reducible rfl | with_reducible apply keeps_modSq
    | with_reducible apply keeps_startSq | with_reducible apply keeps_ite | dsimp only | split | intro _

theorem keeps_writeCq {L : Touch} {s0 s : State} (j : Nat) (off : Nat) (data : List Byte) (hk : Keeps L s0 s) (hhost : L.host := by assumption) : Keeps L s0 (State.writeCq s j off data) := by
  unfold State.writeCq
  repeat' first
    | with_reducible assumption | with_reducible rfl | with_reducible apply keeps_modCq
    | with_reducible apply keeps_ite | dsimp only | split | intro _

theorem keeps_acceptMark {L : Touch} {s0 s : State} (k : Nat) (data : List Byte) (hk : Keeps L s0 s) (hlink : L.link := by assumption) (hhost : L.host := by assumption) : Keeps L s0 (State.acceptMark s k data) := by
  unfold State.acceptMark
  repeat' first
    | with_reducible assumption | with_reducible rfl | with_reducible apply keeps_onHost
    | with_reducible apply keeps_raise | with_reducible apply keeps_ite | exact twf_tset _ _ _ _ | dsimp only | split
    | intro _

end

end Sys2Proof.Machine
end

