-- ==== Sys2Proof/Laws/KeepsRings.lean ====
section
/-! SUPPORT. What the operations of Machine/Rings.lean keep. -/
namespace Sys2Proof.Machine
open Sys2Proof

section
set_option Elab.async false

theorem keeps_modDesc {L : Touch} {s0 s : State} (id : Nat) (f : HDesc → HDesc) (hk : Keeps L s0 s) (hhost : L.host := by assumption) : Keeps L s0 (State.modDesc s id f) := by
  unfold State.modDesc
  repeat' first
    | with_reducible assumption | with_reducible rfl | with_reducible apply keeps_onHost
    | with_reducible apply keeps_ite | dsimp only | split | intro _

theorem keeps_endDesc {L : Touch} {s0 s : State} (id : Nat) (st : HStatus) (count : Nat) (hk : Keeps L s0 s) (hhost : L.host := by assumption) : Keeps L s0 (State.endDesc s id st count) := by
  unfold State.endDesc
  repeat' first
    | with_reducible assumption | with_reducible rfl | with_reducible apply keeps_modDesc
    | with_reducible apply keeps_ite | dsimp only | split | intro _

theorem keeps_sendData {L : Touch} {s0 s : State} (a : BitVec 64) (bs : List Byte) (hk : Keeps L s0 s) (hhost : L.host := by assumption) : Keeps L s0 (State.sendData s a bs) := by
  unfold State.sendData
  repeat' first
    | with_reducible assumption | with_reducible rfl | with_reducible apply keeps_issue
    | with_reducible apply keeps_ite | with_reducible refine keeps_foldl _ (fun _ _ _ => ?_) _ ?_ | dsimp only | split
    | intro _

theorem keeps_cachePages {L : Touch} {s0 s : State} (ls : List Loc) (hk : Keeps L s0 s) (hplace : L.place := by assumption) : Keeps L s0 (State.cachePages s ls) := by
  unfold State.cachePages
  repeat' first
    | with_reducible assumption | with_reducible rfl | with_reducible apply keeps_onPlace
    | with_reducible apply keeps_ite | dsimp only | split | intro _

theorem keeps_lookUp {L : Touch} {s0 : State} (s : State) (ps : List Nat) (hk : Keeps L s0 s) (hplace : L.place := by assumption) (hhost : L.host := by assumption) : KeepsO L s0 (State.lookUp s ps) := by
  induction ps generalizing s with
  | nil => exact keepsO_some hk
  | cons p ps ih =>
    unfold State.lookUp
    refine keepsO_ite (ih _ (keeps_useFrame _ hk)) ?_
    split
    next t e => exact ih _ (keepsO_out (keeps_gristMiss _ hk) e)
    next => exact keepsO_none

theorem keeps_reserveUnit {L : Touch} {s0 s : State} (d : HDesc) (k : Nat) (hk : Keeps L s0 s) (hintake : L.intake := by assumption) (hplace : L.place := by assumption) (hhost : L.host := by assumption) : KeepsO L s0 (State.reserveUnit s d k) := by
  unfold State.reserveUnit
  refine keepsO_ite keepsO_none ?_
  intro t e
  obtain ⟨u, hu, ht⟩ := Option.map_eq_some_iff.mp e
  have h : KeepsO L s0 (if s.hasFrame (unitLine (d.start.toNat + k)).1 then some s
      else s.gristMiss (unitLine (d.start.toNat + k)).1) :=
    keepsO_ite (keepsO_some hk) (keeps_gristMiss _ hk)
  rw [← ht]
  exact keeps_modDesc _ _ (keeps_onIntake _ (fun _ h => h) (keepsO_out h hu))

theorem keeps_reserveUnits {L : Touch} {s0 : State} (s : State) (d : HDesc) (n k : Nat) (hk : Keeps L s0 s) (hintake : L.intake := by assumption) (hplace : L.place := by assumption) (hhost : L.host := by assumption) :
    Keeps L s0 (State.reserveUnits s d n k) := by
  induction n generalizing s k with
  | zero => exact hk
  | succ n ih =>
    unfold State.reserveUnits
    split
    next => exact hk
    next t e => exact ih t (k + 1) (keepsO_out (keeps_reserveUnit _ _ hk) e)

theorem keeps_acceptUnit {L : Touch} {s0 s : State} (d : HDesc) (data : List Byte) (hk : Keeps L s0 s) (hintake : L.intake := by assumption) (hmedia : L.media := by assumption) (hplace : L.place := by assumption) (hhost : L.host := by assumption) : Keeps L s0 (State.acceptUnit s d data) := by
  unfold State.acceptUnit
  repeat' first
    | with_reducible assumption | with_reducible rfl | with_reducible apply keeps_onIntake
    | with_reducible apply keeps_onPlace | with_reducible apply keeps_takeEntry | with_reducible apply keeps_modDesc
    | with_reducible apply keeps_placeUnits | with_reducible apply keeps_ite | dsimp only | split | intro _

theorem keeps_signalRing {L : Touch} {s0 s : State} (j : Nat) (hk : Keeps L s0 s) (hhost : L.host := by assumption) : Keeps L s0 (State.signalRing s j) := by
  unfold State.signalRing
  repeat' first
    | with_reducible assumption | with_reducible rfl | with_reducible apply keeps_modCq
    | with_reducible apply keeps_signal | with_reducible apply keeps_ite | dsimp only | split | intro _

theorem keeps_postEntry {L : Touch} {s0 s : State} (d : HDesc) (st : Byte) (hk : Keeps L s0 s) (hhost : L.host := by assumption) : Keeps L s0 (State.postEntry s d st) := by
  unfold State.postEntry
  repeat' first
    | with_reducible assumption | with_reducible rfl | with_reducible apply keeps_onHost
    | with_reducible apply keeps_issue | with_reducible apply keeps_modCq | with_reducible apply keeps_signalRing
    | with_reducible apply keeps_ite | dsimp only | split | intro _

end

end Sys2Proof.Machine
end

