-- ==== Sys2Proof/Laws/KeepsRegisters.lean ====
section
/-! SUPPORT. What the operations of Machine/Registers.lean keep. -/
namespace Sys2Proof.Machine
open Sys2Proof

section
set_option Elab.async false

theorem keeps_takeSnap {L : Touch} {s0 s : State} (x : SnapArea) (hk : Keeps L s0 s) (hlink : L.link := by assumption) : Keeps L s0 (State.takeSnap s x) := by
  unfold State.takeSnap
  repeat' first
    | with_reducible assumption | with_reducible rfl | with_reducible apply keeps_onLink
    | with_reducible apply keeps_ite | dsimp only | split | intro _

theorem keeps_snapFor {L : Touch} {s0 s : State} (ar : Area) (hk : Keeps L s0 s) (hlink : L.link := by assumption) : Keeps L s0 (State.snapFor s ar) := by
  unfold State.snapFor
  repeat' first
    | with_reducible assumption | with_reducible rfl | with_reducible apply keeps_takeSnap
    | with_reducible apply keeps_ite | dsimp only | split | intro _

theorem keeps_indNext {L : Touch} {s0 s : State}  (hk : Keeps L s0 s) (hlink : L.link := by assumption) : Keeps L s0 (State.indNext s) := by
  unfold State.indNext
  repeat' first
    | with_reducible assumption | with_reducible rfl | with_reducible apply keeps_onLink
    | with_reducible apply keeps_ite | dsimp only | split | intro _

theorem keeps_writeIndAddr {L : Touch} {s0 s : State} (a : Word) (hk : Keeps L s0 s) (hlink : L.link := by assumption) : Keeps L s0 (State.writeIndAddr s a) := by
  unfold State.writeIndAddr
  repeat' first
    | with_reducible assumption | with_reducible rfl | with_reducible apply keeps_onLink
    | with_reducible apply keeps_snapFor | with_reducible apply keeps_ite | dsimp only | split | intro _

theorem keeps_indRead {L : Touch} {s0 s : State} (hk : Keeps L s0 s) (hlink : L.link := by assumption) (hdraws : L.draws := by assumption) : Keeps L s0 (State.indRead s).1 := by
  unfold State.indRead
  refine keeps_fst_ite (keeps_indNext hk) (keeps_fst_ite (keeps_indNext hk) ?_)
  exact keeps_indNext (keeps_draws _ (keeps_snapFor _ hk))

theorem keeps_writeCellSize {L : Touch} {s0 s : State} (hi : Word) (hk : Keeps L s0 s) (hplace : L.place := by assumption) : KeepsE L s0 (State.writeCellSize s hi) := by
  unfold State.writeCellSize
  repeat' first
    | with_reducible assumption | with_reducible rfl | with_reducible apply keepsE_ok | exact keepsE_error _
    | with_reducible apply keeps_onPlace | with_reducible apply keepsE_ite | with_reducible apply keeps_ite
    | dsimp only | split | intro _

theorem keeps_writeCellBase {L : Touch} {s0 s : State} (hi : Word) (hk : Keeps L s0 s) (hplace : L.place := by assumption) : KeepsE L s0 (State.writeCellBase s hi) := by
  unfold State.writeCellBase
  repeat' first
    | with_reducible assumption | with_reducible rfl | with_reducible apply keepsE_ok | exact keepsE_error _
    | with_reducible apply keeps_onPlace | with_reducible apply keepsE_ite | with_reducible apply keeps_ite
    | dsimp only | split | intro _

theorem keeps_writeCellar {L : Touch} {s0 s : State} (k : Nat) (v : Word) (hk : Keeps L s0 s) (hplace : L.place := by assumption) : KeepsE L s0 (State.writeCellar s k v) := by
  unfold State.writeCellar
  repeat' first
    | with_reducible assumption | with_reducible rfl | with_reducible apply keepsE_ok | exact keepsE_error _
    | with_reducible apply keeps_onPlace | with_reducible apply keeps_writeCellBase
    | with_reducible apply keeps_writeCellSize | with_reducible apply keepsE_ite | with_reducible apply keeps_ite
    | dsimp only | split | intro _ | refine keepsE_out (keeps_writeCellBase _ ?_) (by assumption)
    | refine keepsE_out (keeps_writeCellSize _ ?_) (by assumption)

theorem keeps_areaWrite {L : Touch} {s0 s : State} (ar : Area) (k : Nat) (v : Word) (mask : Word) (hk : Keeps L s0 s) (hplace : L.place := by assumption) : KeepsE L s0 (State.areaWrite s ar k v mask) := by
  unfold State.areaWrite
  repeat' first
    | with_reducible assumption | with_reducible rfl | with_reducible apply keepsE_ok | exact keepsE_error _
    | with_reducible apply keeps_writeCellar | with_reducible apply keeps_eccLog | with_reducible apply keepsE_ite
    | with_reducible apply keeps_ite | dsimp only | split | intro _
    | refine keepsE_out (keeps_writeCellar _ _ ?_) (by assumption)

theorem keeps_indWrite {L : Touch} {s0 s : State} (v mask : Word) (hk : Keeps L s0 s) (hlink : L.link := by assumption) (hplace : L.place := by assumption) : Keeps L s0 (State.indWrite s v mask).1 := by
  unfold State.indWrite
  refine keeps_fst_ite (keeps_indNext hk) (keeps_fst_ite (keeps_indNext hk) ?_)
  have ht := keeps_snapFor (areaOf s.link.indAddr) hk
  generalize s.snapFor (areaOf s.link.indAddr) = t at ht
  have hr := keeps_areaWrite (areaOf s.link.indAddr) (s.link.indAddr.toNat - (areaOf s.link.indAddr).base) v mask ht
  show Keeps L s0 (match t.areaWrite (areaOf s.link.indAddr) (s.link.indAddr.toNat - (areaOf s.link.indAddr).base) v mask with
    | .ok u => (u.indNext, Status.ok)
    | .error e => (t.indNext, e)).1
  cases e : t.areaWrite (areaOf s.link.indAddr) (s.link.indAddr.toNat - (areaOf s.link.indAddr).base) v mask with
  | ok u => exact keeps_indNext (keepsE_out hr e)
  | error e => exact keeps_indNext ht

theorem keeps_readEffect {L : Touch} {s0 s : State} (a : Nat) (hk : Keeps L s0 s) (hlamp : L.lamp := by assumption) (hintake : L.intake := by assumption) (hdraws : L.draws := by assumption) : Keeps L s0 (State.readEffect s a) := by
  unfold State.readEffect
  split
  all_goals first
    | exact hk
    | exact keeps_onIntake _ (fun _ h => h) hk
    | exact keeps_onLampSame _ (fun _ => ⟨rfl, rfl, rfl, rfl⟩) hk
    | exact keeps_draws _ hk

theorem keeps_regRead {L : Touch} {s0 s : State} (a : Nat) (hk : Keeps L s0 s) (hlamp : L.lamp := by assumption) (hlink : L.link := by assumption) (hintake : L.intake := by assumption) (hdraws : L.draws := by assumption) : Keeps L s0 (State.regRead s a).1 := by
  unfold State.regRead
  repeat' first
    | with_reducible assumption | with_reducible rfl | with_reducible apply keeps_indRead
    | with_reducible apply keeps_readEffect | with_reducible apply keeps_ite | dsimp only | split | intro _

theorem keeps_writeDevCtrl {L : Touch} {s0 s : State} (v : Word) (mask : Word) (hk : Keeps L s0 s) (hclock : L.clock := by assumption) (hlink : L.link := by assumption) (hintake : L.intake := by assumption) (hplace : L.place := by assumption) (hjournal : L.journal := by assumption) (hwick : L.wick := by assumption) (hdraws : L.draws := by assumption) : KeepsE L s0 (State.writeDevCtrl s v mask) := by
  unfold State.writeDevCtrl
  repeat' first
    | with_reducible assumption | with_reducible rfl | with_reducible apply keepsE_ok | exact keepsE_error _
    | with_reducible apply keeps_onClock | with_reducible apply keeps_onLink | with_reducible apply keeps_cryptoErase
    | with_reducible apply keepsE_ite | with_reducible apply keeps_ite | dsimp only | split | intro _

theorem keeps_writeIrqEnable {L : Touch} {s0 s : State} (v : Word) (mask : Word) (hk : Keeps L s0 s) (hlink : L.link := by assumption) (hhost : L.host := by assumption) : Keeps L s0 (State.writeIrqEnable s v mask) := by
  unfold State.writeIrqEnable
  repeat' first
    | with_reducible assumption | with_reducible rfl | with_reducible apply keeps_onLink
    | with_reducible apply keeps_signal | with_reducible apply keeps_ite | dsimp only | split | intro _

theorem keeps_writeCycCtrl {L : Touch} {s0 s : State} (v : Word) (mask : Word) (hk : Keeps L s0 s) (hlamp : L.lamp := by assumption) : KeepsE L s0 (State.writeCycCtrl s v mask) := by
  unfold State.writeCycCtrl
  repeat' first
    | with_reducible assumption | with_reducible rfl | with_reducible apply keepsE_ok | exact keepsE_error _
    | with_reducible apply keeps_onLampSame | with_reducible apply keepsE_ite | with_reducible apply keeps_ite
    | exact ⟨rfl, rfl, rfl, rfl⟩ | dsimp only | split | intro _

theorem keeps_writeCycSrc {L : Touch} {s0 s : State} (v mask : Word) (hk : Keeps L s0 s) (hlamp : L.lamp := by assumption) : KeepsE L s0 (State.writeCycSrc s v mask) := by
  unfold State.writeCycSrc
  dsimp only
  generalize written s.lamp.srcWord v mask 16 16 = div
  generalize hm : written s.lamp.srcWord v mask 0 2 = mode
  have hlt : ∀ m, mode = some m → m < 4 := by
    intro m e
    rw [e] at hm
    unfold written at hm
    split at hm
    · have := Option.some.inj hm
      rw [← this]
      unfold fieldOf
      exact Nat.mod_lt _ (by decide)
    · cases hm
  split
  next => exact keepsE_error _
  next hc =>
    refine keepsE_ok (keeps_onLamp _ (fun h => ?_) (fun _ => Nat.le_refl _) (fun _ => rfl) hk)
    unfold LampState.legal at h ⊢
    simp only [Bool.and_eq_true, bne_iff_ne] at h ⊢
    refine ⟨⟨h.1.1, ?_⟩, h.2⟩
    cases e : mode with
    | none => exact h.1.2
    | some m =>
      intro c
      have hm4 := hlt m e
      have h3 : m = 3 := by
        have e3 : m % 4 = 3 := congrArg BitVec.toNat (Option.some.inj c)
        omega
      exact hc (.inl (by rw [e, h3]))

theorem keeps_writeCycPeriod {L : Touch} {s0 s : State} (v : Word) (mask : Word) (hk : Keeps L s0 s) (hlamp : L.lamp := by assumption) : KeepsE L s0 (State.writeCycPeriod s v mask) := by
  unfold State.writeCycPeriod
  repeat' first
    | with_reducible assumption | with_reducible rfl | with_reducible apply keepsE_ok | exact keepsE_error _
    | with_reducible apply keeps_onLampSame | with_reducible apply keepsE_ite | with_reducible apply keeps_ite
    | exact ⟨rfl, rfl, rfl, rfl⟩ | dsimp only | split | intro _

theorem keeps_writeCycCount {L : Touch} {s0 s : State} (v mask : Word) (hk : Keeps L s0 s) (hlamp : L.lamp := by assumption) : KeepsE L s0 (State.writeCycCount s v mask) := by
  unfold State.writeCycCount
  refine keepsE_ite (keepsE_ok hk) ?_
  dsimp only
  generalize (merge (halfOf s.lamp.cycle 0) v mask).toNat + 4294967296 * (s.lamp.stagedHi.getD (halfOf s.lamp.cycle 1)).toNat = n
  split
  next => exact keepsE_ok hk
  next hn =>
    split
    next => exact keepsE_error _
    next hc =>
      refine keepsE_ok (keeps_onLamp _ (fun h => ?_) (fun _ => Nat.le_refl _) (fun _ => rfl) hk)
      unfold LampState.legal at h ⊢
      simp only [Bool.and_eq_true, decide_eq_true_eq] at h ⊢
      exact ⟨h.1, by omega⟩

theorem keeps_writeCycCountHi {L : Touch} {s0 s : State} (v : Word) (mask : Word) (hk : Keeps L s0 s) (hlamp : L.lamp := by assumption) : Keeps L s0 (State.writeCycCountHi s v mask) := by
  unfold State.writeCycCountHi
  repeat' first
    | with_reducible assumption | with_reducible rfl | with_reducible apply keeps_onLampSame
    | with_reducible apply keeps_ite | exact ⟨rfl, rfl, rfl, rfl⟩ | dsimp only | split | intro _

theorem keeps_writeTailGrace {L : Touch} {s0 s : State} (v : Word) (mask : Word) (hk : Keeps L s0 s) (hlamp : L.lamp := by assumption) : KeepsE L s0 (State.writeTailGrace s v mask) := by
  unfold State.writeTailGrace
  repeat' first
    | with_reducible assumption | with_reducible rfl | with_reducible apply keepsE_ok | exact keepsE_error _
    | with_reducible apply keeps_onLampSame | with_reducible apply keepsE_ite | with_reducible apply keeps_ite
    | exact ⟨rfl, rfl, rfl, rfl⟩ | dsimp only | split | intro _

theorem keeps_writePlanSel {L : Touch} {s0 s : State} (v : Word) (mask : Word) (hk : Keeps L s0 s) (hlink : L.link := by assumption) : KeepsE L s0 (State.writePlanSel s v mask) := by
  unfold State.writePlanSel
  repeat' first
    | with_reducible assumption | with_reducible rfl | with_reducible apply keepsE_ok | exact keepsE_error _
    | with_reducible apply keeps_onLink | with_reducible apply keepsE_ite | with_reducible apply keeps_ite
    | dsimp only | split | intro _

theorem keeps_writePlanWin {L : Touch} {s0 s : State} (v : Word) (mask : Word) (hk : Keeps L s0 s) (hlamp : L.lamp := by assumption) : KeepsE L s0 (State.writePlanWin s v mask) := by
  unfold State.writePlanWin
  repeat' first
    | with_reducible assumption | with_reducible rfl | with_reducible apply keepsE_ok | exact keepsE_error _
    | with_reducible apply keeps_onLampSame | with_reducible apply keepsE_ite | with_reducible apply keeps_ite
    | exact twf_tset _ _ _ _ | exact ⟨rfl, rfl, rfl, rfl⟩ | dsimp only | split | intro _

theorem keeps_writeStreamSel {L : Touch} {s0 s : State} (v : Word) (mask : Word) (hk : Keeps L s0 s) (hlink : L.link := by assumption) (hintake : L.intake := by assumption) : Keeps L s0 (State.writeStreamSel s v mask) := by
  unfold State.writeStreamSel
  repeat' first
    | with_reducible assumption | with_reducible rfl | with_reducible apply keeps_onLink
    | with_reducible apply keeps_onIntake | with_reducible apply keeps_ite | dsimp only | split | intro _

theorem keeps_writeStClass {L : Touch} {s0 s : State} (v : Word) (mask : Word) (hk : Keeps L s0 s) (hintake : L.intake := by assumption) : KeepsE L s0 (State.writeStClass s v mask) := by
  unfold State.writeStClass
  repeat' first
    | with_reducible assumption | with_reducible rfl | with_reducible apply keepsE_ok | exact keepsE_error _
    | with_reducible apply keeps_modStream | with_reducible apply keeps_noteChange | with_reducible apply keepsE_ite
    | with_reducible apply keeps_ite | dsimp only | split | intro _

theorem keeps_writeStTrimHi {L : Touch} {s0 s : State} (v : Word) (mask : Word) (hk : Keeps L s0 s) (hintake : L.intake := by assumption) : Keeps L s0 (State.writeStTrimHi s v mask) := by
  unfold State.writeStTrimHi
  repeat' first
    | with_reducible assumption | with_reducible rfl | with_reducible apply keeps_onIntake
    | with_reducible apply keeps_ite | dsimp only | split | intro _

theorem keeps_writeStFault {L : Touch} {s0 s : State} (v : Word) (mask : Word) (hk : Keeps L s0 s) (hintake : L.intake := by assumption) : Keeps L s0 (State.writeStFault s v mask) := by
  unfold State.writeStFault
  repeat' first
    | with_reducible assumption | with_reducible rfl | with_reducible apply keeps_modStream
    | with_reducible apply keeps_ite | dsimp only | split | intro _

theorem keeps_writeStQuota {L : Touch} {s0 s : State} (v : Word) (mask : Word) (hk : Keeps L s0 s) (hintake : L.intake := by assumption) : Keeps L s0 (State.writeStQuota s v mask) := by
  unfold State.writeStQuota
  repeat' first
    | with_reducible assumption | with_reducible rfl | with_reducible apply keeps_modStream
    | with_reducible apply keeps_ite | dsimp only | split | intro _

theorem keeps_writeHoldup {L : Touch} {s0 s : State} (v : Word) (mask : Word) (hk : Keeps L s0 s) (hclock : L.clock := by assumption) (hlink : L.link := by assumption) (hintake : L.intake := by assumption) (hhost : L.host := by assumption) (hpower : L.power := by assumption) (hhealth : L.health := by assumption) : Keeps L s0 (State.writeHoldup s v mask) := by
  unfold State.writeHoldup
  repeat' first
    | with_reducible assumption | with_reducible rfl | with_reducible apply keeps_onPower
    | with_reducible apply keeps_wtUpdate | with_reducible apply keeps_ite | dsimp only | split | intro _

theorem keeps_writePwr {L : Touch} {s0 s : State} (v : Word) (mask : Word) (hk : Keeps L s0 s) (hpower : L.power := by assumption) : KeepsE L s0 (State.writePwr s v mask) := by
  unfold State.writePwr
  repeat' first
    | with_reducible assumption | with_reducible rfl | with_reducible apply keepsE_ok | exact keepsE_error _
    | with_reducible apply keeps_onPower | with_reducible apply keepsE_ite | with_reducible apply keeps_ite
    | dsimp only | split | intro _

theorem keeps_writeAck {L : Touch} {s0 s : State} (v : Word) (mask : Word) (hk : Keeps L s0 s) (hclock : L.clock := by assumption) (hlink : L.link := by assumption) (hfault : L.fault := by assumption) (hintake : L.intake := by assumption) (hhost : L.host := by assumption) (hhealth : L.health := by assumption) : KeepsE L s0 (State.writeAck s v mask) := by
  unfold State.writeAck
  repeat' first
    | with_reducible assumption | with_reducible rfl | with_reducible apply keepsE_ok | exact keepsE_error _
    | with_reducible apply keeps_ackUnits | with_reducible apply keeps_ackSelf | with_reducible apply keepsE_ite
    | with_reducible apply keeps_ite | dsimp only | split | intro _

theorem keeps_writeConseq {L : Touch} {s0 s : State} (v : Word) (mask : Word) (hk : Keeps L s0 s) (hfault : L.fault := by assumption) : Keeps L s0 (State.writeConseq s v mask) := by
  unfold State.writeConseq
  repeat' first
    | with_reducible assumption | with_reducible rfl | with_reducible apply keeps_modUnit
    | with_reducible apply keeps_ite | with_reducible refine keeps_foldl _ (fun _ _ _ => ?_) _ ?_ | dsimp only | split
    | intro _

theorem keeps_writePolicy {L : Touch} {s0 s : State} (v : Word) (mask : Word) (hk : Keeps L s0 s) (hfault : L.fault := by assumption) : Keeps L s0 (State.writePolicy s v mask) := by
  unfold State.writePolicy
  repeat' first
    | with_reducible assumption | with_reducible rfl | with_reducible apply keeps_modUnit
    | with_reducible apply keeps_ite | dsimp only | split | intro _

theorem keeps_writeSetCtrl {L : Touch} {s0 s : State} (v : Word) (mask : Word) (hk : Keeps L s0 s) (hlink : L.link := by assumption) (hhost : L.host := by assumption) : KeepsE L s0 (State.writeSetCtrl s v mask) := by
  unfold State.writeSetCtrl
  repeat' first
    | with_reducible assumption | with_reducible rfl | with_reducible apply keepsE_ok | exact keepsE_error _
    | with_reducible apply keeps_onLink | with_reducible apply keeps_onHost | with_reducible apply keepsE_ite
    | with_reducible apply keeps_ite | with_reducible refine keeps_foldl _ (fun _ _ _ => ?_) _ ?_
    | exact twf_tset _ _ _ _ | dsimp only | split | intro _

theorem keeps_writePeer {L : Touch} {s0 s : State} (hi : Bool) (v : Word) (mask : Word) (hk : Keeps L s0 s) (hhost : L.host := by assumption) : Keeps L s0 (State.writePeer s hi v mask) := by
  unfold State.writePeer
  repeat' first
    | with_reducible assumption | with_reducible rfl | with_reducible apply keeps_onHost
    | with_reducible apply keeps_ite | exact twf_tset _ _ _ _ | dsimp only | split | intro _

theorem keepsE_putSel {L : Touch} {s0 : State} {α : Type} (n : Option α) (f : α → State) (hf : ∀ x, Keeps L s0 (f x)) :
    KeepsE L s0 (putSel n f) := by
  cases n with
  | none => exact keepsE_error _
  | some x => exact keepsE_ok (hf x)

theorem keeps_writeRetire {L : Touch} {s0 s : State} (v : Word) (mask : Word) (hk : Keeps L s0 s) (hmem : L.mem := by assumption) (hhealth : L.health := by assumption) : KeepsE L s0 (State.writeRetire s v mask) := by
  unfold State.writeRetire
  repeat' first
    | with_reducible assumption | with_reducible rfl | with_reducible apply keepsE_ok | exact keepsE_error _
    | with_reducible apply keeps_writeMemRetire | with_reducible apply keepsE_ite | with_reducible apply keeps_ite
    | dsimp only | split | intro _ | refine keepsE_out (keeps_writeMemRetire _ _ ?_) (by assumption)

theorem keeps_writeTest {L : Touch} {s0 s : State} (v : Word) (mask : Word) (hk : Keeps L s0 s) (hmem : L.mem := by assumption) (hdraws : L.draws := by assumption) : KeepsE L s0 (State.writeTest s v mask) := by
  unfold State.writeTest
  repeat' first
    | with_reducible assumption | with_reducible rfl | with_reducible apply keepsE_ok | exact keepsE_error _
    | with_reducible apply keeps_writeTestCtrl | with_reducible apply keepsE_ite | with_reducible apply keeps_ite
    | dsimp only | split | intro _ | refine keepsE_out (keeps_writeTestCtrl _ _ _ _ ?_) (by assumption)

theorem keeps_writeSubmit {L : Touch} {s0 s : State} (v : Word) (mask : Word) (hk : Keeps L s0 s) (hwick : L.wick := by assumption) : KeepsE L s0 (State.writeSubmit s v mask) := by
  unfold State.writeSubmit
  repeat' first
    | with_reducible assumption | with_reducible rfl | with_reducible apply keepsE_ok | exact keepsE_error _
    | with_reducible apply keeps_submitWick | with_reducible apply keeps_onWick | with_reducible apply keepsE_ite
    | with_reducible apply keeps_ite | dsimp only | split | intro _
    | refine keepsE_out (keeps_submitWick _ ?_) (by assumption)

theorem keeps_writePwrState {L : Touch} {s0 s : State} (v : Word) (mask : Word) (hk : Keeps L s0 s) (hmem : L.mem := by assumption) : KeepsE L s0 (State.writePwrState s v mask) := by
  unfold State.writePwrState
  repeat' first
    | with_reducible assumption | with_reducible rfl | with_reducible apply keepsE_ok | exact keepsE_error _
    | with_reducible apply keeps_writeMemPwr | with_reducible apply keepsE_ite | with_reducible apply keeps_ite
    | dsimp only | split | intro _ | refine keepsE_out (keeps_writeMemPwr _ _ ?_) (by assumption)

theorem keeps_regPut0 {L : Touch} {s0 s : State} (k : Nat) (v : Word) (mask : Word) (hk : Keeps L s0 s) (hclock : L.clock := by assumption) (hlamp : L.lamp := by assumption) (hlink : L.link := by assumption) (hintake : L.intake := by assumption) (hplace : L.place := by assumption) (hjournal : L.journal := by assumption) (hhost : L.host := by assumption) (hwick : L.wick := by assumption) (hdraws : L.draws := by assumption) : KeepsE L s0 (State.regPut0 s k v mask) := by
  unfold State.regPut0
  repeat' first
    | with_reducible assumption | with_reducible rfl | with_reducible apply keepsE_ok | exact keepsE_error _
    | with_reducible apply keeps_writeDevCtrl | with_reducible apply keeps_onLink
    | with_reducible apply keeps_writeIrqEnable | with_reducible apply keeps_writeCycCtrl
    | with_reducible apply keeps_writeCycSrc | with_reducible apply keeps_writeCycPeriod
    | with_reducible apply keeps_writeCycCount | with_reducible apply keeps_writeCycCountHi
    | with_reducible apply keeps_writeTailGrace | with_reducible apply keeps_writePlanSel
    | with_reducible apply keeps_writePlanWin | with_reducible apply keepsE_ite | with_reducible apply keeps_ite
    | dsimp only | split | intro _ | refine keepsE_out (keeps_writeDevCtrl _ _ ?_) (by assumption)
    | refine keepsE_out (keeps_writeCycCtrl _ _ ?_) (by assumption)
    | refine keepsE_out (keeps_writeCycSrc _ _ ?_) (by assumption)
    | refine keepsE_out (keeps_writeCycPeriod _ _ ?_) (by assumption)
    | refine keepsE_out (keeps_writeCycCount _ _ ?_) (by assumption)
    | refine keepsE_out (keeps_writeTailGrace _ _ ?_) (by assumption)
    | refine keepsE_out (keeps_writePlanSel _ _ ?_) (by assumption)
    | refine keepsE_out (keeps_writePlanWin _ _ ?_) (by assumption)

theorem keeps_regPut1 {L : Touch} {s0 s : State} (k : Nat) (v : Word) (mask : Word) (hk : Keeps L s0 s) (hlink : L.link := by assumption) (hintake : L.intake := by assumption) (hmedia : L.media := by assumption) (hplace : L.place := by assumption) (hhost : L.host := by assumption) : KeepsE L s0 (State.regPut1 s k v mask) := by
  unfold State.regPut1
  repeat' first
    | with_reducible assumption | with_reducible rfl | with_reducible apply keepsE_ok | exact keepsE_error _
    | with_reducible apply keeps_writeStreamSel | with_reducible apply keeps_stCommand
    | with_reducible apply keeps_writeStClass | with_reducible apply keeps_writeTrimLo
    | with_reducible apply keeps_writeStTrimHi | with_reducible apply keeps_writeStFault
    | with_reducible apply keeps_writeStQuota | with_reducible apply keepsE_ite | with_reducible apply keeps_ite
    | dsimp only | split | intro _ | refine keepsE_out (keeps_stCommand _ _ ?_) (by assumption)
    | refine keepsE_out (keeps_writeStClass _ _ ?_) (by assumption)
    | refine keepsE_out (keeps_writeTrimLo _ _ ?_) (by assumption)

theorem keeps_regPut2 {L : Touch} {s0 s : State} (k : Nat) (v : Word) (mask : Word) (hk : Keeps L s0 s) (hclock : L.clock := by assumption) (hlink : L.link := by assumption) (hintake : L.intake := by assumption) (hhost : L.host := by assumption) (hpower : L.power := by assumption) (hhealth : L.health := by assumption) : KeepsE L s0 (State.regPut2 s k v mask) := by
  unfold State.regPut2
  repeat' first
    | with_reducible assumption | with_reducible rfl | with_reducible apply keepsE_ok | exact keepsE_error _
    | with_reducible apply keeps_onLink | with_reducible apply keeps_writeHoldup | with_reducible apply keepsE_putSel
    | with_reducible apply keeps_writePwr | with_reducible apply keepsE_ite | with_reducible apply keeps_ite
    | dsimp only | split | intro _ | refine keepsE_out (keeps_putSel _ _ ?_) (by assumption)
    | refine keepsE_out (keeps_writePwr _ _ ?_) (by assumption) | refine keepsE_putSel _ _ (fun _ => ?_)

theorem keeps_regPut3 {L : Touch} {s0 s : State} (k : Nat) (v : Word) (mask : Word) (hk : Keeps L s0 s) (hclock : L.clock := by assumption) (hlink : L.link := by assumption) (hfault : L.fault := by assumption) (hintake : L.intake := by assumption) (hhost : L.host := by assumption) (hhealth : L.health := by assumption) : KeepsE L s0 (State.regPut3 s k v mask) := by
  unfold State.regPut3
  repeat' first
    | with_reducible assumption | with_reducible rfl | with_reducible apply keepsE_ok | exact keepsE_error _
    | with_reducible apply keeps_writeAck | with_reducible apply keeps_writeConseq
    | with_reducible apply keepsE_putSel | with_reducible apply keeps_onLink | with_reducible apply keeps_writePolicy
    | with_reducible apply keeps_writeSetCtrl | with_reducible apply keeps_writePeer | with_reducible apply keepsE_ite
    | with_reducible apply keeps_ite | dsimp only | split | intro _
    | refine keepsE_out (keeps_writeAck _ _ ?_) (by assumption)
    | refine keepsE_out (keeps_putSel _ _ ?_) (by assumption)
    | refine keepsE_out (keeps_writeSetCtrl _ _ ?_) (by assumption) | refine keepsE_putSel _ _ (fun _ => ?_)

theorem keeps_regPut4 {L : Touch} {s0 s : State} (k : Nat) (v : Word) (mask : Word) (hk : Keeps L s0 s) (hlink : L.link := by assumption) (hmem : L.mem := by assumption) (hhealth : L.health := by assumption) (hdraws : L.draws := by assumption) : KeepsE L s0 (State.regPut4 s k v mask) := by
  unfold State.regPut4
  repeat' first
    | with_reducible assumption | with_reducible rfl | with_reducible apply keepsE_ok | exact keepsE_error _
    | with_reducible apply keepsE_putSel | with_reducible apply keeps_onLink
    | with_reducible apply keeps_writePwrState | with_reducible apply keeps_writeRetire
    | with_reducible apply keeps_writeTest | with_reducible apply keeps_modMemory | with_reducible apply keepsE_ite
    | with_reducible apply keeps_ite | dsimp only | split | intro _
    | refine keepsE_out (keeps_putSel _ _ ?_) (by assumption)
    | refine keepsE_out (keeps_writePwrState _ _ ?_) (by assumption)
    | refine keepsE_out (keeps_writeRetire _ _ ?_) (by assumption)
    | refine keepsE_out (keeps_writeTest _ _ ?_) (by assumption) | refine keepsE_putSel _ _ (fun _ => ?_)

theorem keeps_regPut5 {L : Touch} {s0 s : State} (k : Nat) (v : Word) (mask : Word) (hk : Keeps L s0 s) (hwick : L.wick := by assumption) : KeepsE L s0 (State.regPut5 s k v mask) := by
  unfold State.regPut5
  repeat' first
    | with_reducible assumption | with_reducible rfl | with_reducible apply keepsE_ok | exact keepsE_error _
    | with_reducible apply keeps_onWick | with_reducible apply keeps_writeSubmit
    | with_reducible apply keeps_takeWickDone | with_reducible apply keepsE_ite | with_reducible apply keeps_ite
    | dsimp only | split | intro _ | refine keepsE_out (keeps_writeSubmit _ _ ?_) (by assumption)

theorem keeps_regPut6 {L : Touch} {s0 s : State} (k : Nat) (v : Word) (mask : Word) (hk : Keeps L s0 s) (hlink : L.link := by assumption) : KeepsE L s0 (State.regPut6 s k v mask) := by
  unfold State.regPut6
  repeat' first
    | with_reducible assumption | with_reducible rfl | with_reducible apply keepsE_ok | exact keepsE_error _
    | with_reducible apply keeps_writeIndAddr | with_reducible apply keepsE_ite | with_reducible apply keeps_ite
    | dsimp only | split | intro _

theorem keeps_regPut7 {L : Touch} {s0 s : State} (k : Nat) (v : Word) (mask : Word) (hk : Keeps L s0 s) (hclock : L.clock := by assumption) (hlink : L.link := by assumption) : KeepsE L s0 (State.regPut7 s k v mask) := by
  unfold State.regPut7
  repeat' first
    | with_reducible assumption | with_reducible rfl | with_reducible apply keepsE_ok | exact keepsE_error _
    | with_reducible apply keeps_onClock | with_reducible apply keeps_onLink | with_reducible apply keepsE_ite
    | with_reducible apply keeps_ite | dsimp only | split | intro _

theorem keeps_regPutAt {L : Touch} {s0 s : State} (page : Nat) (k : Nat) (v : Word) (mask : Word) (hk : Keeps L s0 s) (hclock : L.clock := by assumption) (hlamp : L.lamp := by assumption) (hlink : L.link := by assumption) (hfault : L.fault := by assumption) (hintake : L.intake := by assumption) (hmedia : L.media := by assumption) (hplace : L.place := by assumption) (hjournal : L.journal := by assumption) (hhost : L.host := by assumption) (hpower : L.power := by assumption) (hwick : L.wick := by assumption) (hmem : L.mem := by assumption) (hhealth : L.health := by assumption) (hdraws : L.draws := by assumption) : KeepsE L s0 (State.regPutAt s page k v mask) := by
  unfold State.regPutAt
  repeat' first
    | with_reducible assumption | with_reducible rfl | with_reducible apply keepsE_ok | exact keepsE_error _
    | with_reducible apply keeps_regPut0 | with_reducible apply keeps_regPut1 | with_reducible apply keeps_regPut2
    | with_reducible apply keeps_regPut3 | with_reducible apply keeps_regPut4 | with_reducible apply keeps_regPut5
    | with_reducible apply keeps_regPut6 | with_reducible apply keeps_regPut7 | with_reducible apply keepsE_ite
    | with_reducible apply keeps_ite | dsimp only | split | intro _
    | refine keepsE_out (keeps_regPut0 _ _ _ ?_) (by assumption)
    | refine keepsE_out (keeps_regPut1 _ _ _ ?_) (by assumption)
    | refine keepsE_out (keeps_regPut2 _ _ _ ?_) (by assumption)
    | refine keepsE_out (keeps_regPut3 _ _ _ ?_) (by assumption)
    | refine keepsE_out (keeps_regPut4 _ _ _ ?_) (by assumption)
    | refine keepsE_out (keeps_regPut5 _ _ _ ?_) (by assumption)
    | refine keepsE_out (keeps_regPut6 _ _ _ ?_) (by assumption)
    | refine keepsE_out (keeps_regPut7 _ _ _ ?_) (by assumption)

theorem keeps_regPut {L : Touch} {s0 s : State} (a : Nat) (v : Word) (mask : Word) (hk : Keeps L s0 s) (hclock : L.clock := by assumption) (hlamp : L.lamp := by assumption) (hlink : L.link := by assumption) (hfault : L.fault := by assumption) (hintake : L.intake := by assumption) (hmedia : L.media := by assumption) (hplace : L.place := by assumption) (hjournal : L.journal := by assumption) (hhost : L.host := by assumption) (hpower : L.power := by assumption) (hwick : L.wick := by assumption) (hmem : L.mem := by assumption) (hhealth : L.health := by assumption) (hdraws : L.draws := by assumption) : KeepsE L s0 (State.regPut s a v mask) := by
  unfold State.regPut
  repeat' first
    | with_reducible assumption | with_reducible rfl | with_reducible apply keepsE_ok | exact keepsE_error _
    | with_reducible apply keeps_regPutAt | with_reducible apply keepsE_ite | with_reducible apply keeps_ite
    | dsimp only | split | intro _ | refine keepsE_out (keeps_regPutAt _ _ _ _ ?_) (by assumption)

theorem keeps_regWrite {L : Touch} {s0 s : State} (a : Nat) (v : Word) (mask : Word) (hk : Keeps L s0 s) (hclock : L.clock := by assumption) (hlamp : L.lamp := by assumption) (hlink : L.link := by assumption) (hfault : L.fault := by assumption) (hintake : L.intake := by assumption) (hmedia : L.media := by assumption) (hplace : L.place := by assumption) (hjournal : L.journal := by assumption) (hhost : L.host := by assumption) (hpower : L.power := by assumption) (hwick : L.wick := by assumption) (hmem : L.mem := by assumption) (hhealth : L.health := by assumption) (hdraws : L.draws := by assumption) : Keeps L s0 (State.regWrite s a v mask).1 := by
  unfold State.regWrite
  repeat' first
    | with_reducible assumption | with_reducible rfl | with_reducible apply keeps_indWrite
    | with_reducible apply keeps_trigger | with_reducible apply keeps_regPut | with_reducible apply keeps_ite
    | dsimp only | split | intro _ | refine keepsE_out (keeps_regPut _ _ _ ?_) (by assumption)

end

end Sys2Proof.Machine
end

