-- ==== Sys2Proof/Laws/KeepsLink.lean ====
section
/-! SUPPORT. What the operations of Machine/Link.lean keep. -/
namespace Sys2Proof.Machine
open Sys2Proof

section
set_option Elab.async false

theorem keeps_doAct {L : Touch} {s0 s : State}  (hk : Keeps L s0 s) (hclock : L.clock := by assumption) (hlink : L.link := by assumption) (hfault : L.fault := by assumption) (hintake : L.intake := by assumption) (hmedia : L.media := by assumption) (hplace : L.place := by assumption) (hjournal : L.journal := by assumption) (hhost : L.host := by assumption) (hpower : L.power := by assumption) (hsnuff : L.snuff := by assumption) (hwick : L.wick := by assumption) (hmem : L.mem := by assumption) (hhealth : L.health := by assumption) : Keeps L s0 (State.doAct s) := by
  unfold State.doAct
  repeat' first
    | with_reducible assumption | with_reducible rfl | with_reducible apply keeps_onLink
    | with_reducible apply keeps_resetSource | with_reducible apply keeps_linkResetIfSelected
    | with_reducible apply keeps_startReset | with_reducible apply keeps_ite | dsimp only | split | intro _

theorem keeps_readRegs {L : Touch} {s0 : State} (k : Nat) (n : Nat) (s : State) (a : Nat) (hk : Keeps L s0 s) (hlamp : L.lamp := by assumption) (hlink : L.link := by assumption) (hintake : L.intake := by assumption) (hdraws : L.draws := by assumption) : Keeps L s0 (readRegs k n s a).1 := by
  induction n generalizing s a with
  | zero => exact hk
  | succ n ih =>
    unfold readRegs
    exact keeps_fst_ite (keeps_regRead a hk) (ih _ _ (keeps_regRead a hk))

theorem keeps_writeRegs {L : Touch} {s0 : State} (k : Nat) (ws : List Word) (s : State) (a : Nat) (hk : Keeps L s0 s) (hclock : L.clock := by assumption) (hlamp : L.lamp := by assumption) (hlink : L.link := by assumption) (hfault : L.fault := by assumption) (hintake : L.intake := by assumption) (hmedia : L.media := by assumption) (hplace : L.place := by assumption) (hjournal : L.journal := by assumption) (hhost : L.host := by assumption) (hpower : L.power := by assumption) (hwick : L.wick := by assumption) (hmem : L.mem := by assumption) (hhealth : L.health := by assumption) (hdraws : L.draws := by assumption) :
    Keeps L s0 (writeRegs k ws s a).1 := by
  induction ws generalizing s a with
  | nil => exact hk
  | cons w ws ih =>
    unfold writeRegs
    have h := keeps_regWrite a w maskAll hk
    exact keeps_fst_ite h (keeps_fst_ite (by dsimp only; exact keeps_onLink _ h) (ih _ _ h))

theorem keeps_askAct {L : Touch} {s0 s : State} (a : Option LinkAct) (hk : Keeps L s0 s) (hlink : L.link := by assumption) : Keeps L s0 (State.askAct s a).1 := by
  unfold State.askAct
  repeat' first
    | with_reducible assumption | with_reducible rfl | with_reducible apply keeps_onLink
    | with_reducible apply keeps_ite | dsimp only | split | intro _

theorem keeps_doOp {L : Touch} {s0 s : State} (o : LOp) (hk : Keeps L s0 s) (hclock : L.clock := by assumption) (hlamp : L.lamp := by assumption) (hlink : L.link := by assumption) (hfault : L.fault := by assumption) (hintake : L.intake := by assumption) (hmedia : L.media := by assumption) (hplace : L.place := by assumption) (hjournal : L.journal := by assumption) (hhost : L.host := by assumption) (hpower : L.power := by assumption) (hwick : L.wick := by assumption) (hmem : L.mem := by assumption) (hhealth : L.health := by assumption) (hdraws : L.draws := by assumption) : Keeps L s0 (State.doOp s o).1 := by
  unfold State.doOp
  repeat' first
    | with_reducible assumption | with_reducible rfl | with_reducible apply keeps_readRegs
    | with_reducible apply keeps_writeRegs | with_reducible apply keeps_regWrite | with_reducible apply keeps_indRead
    | with_reducible apply keeps_writeIndAddr | with_reducible apply keeps_indWrite
    | with_reducible apply keeps_askAct | with_reducible apply keeps_ite | dsimp only | split | intro _

theorem keeps_runOps {L : Touch} {s0 : State} (os : List LOp) (s : State) (hk : Keeps L s0 s) (hclock : L.clock := by assumption) (hlamp : L.lamp := by assumption) (hlink : L.link := by assumption) (hfault : L.fault := by assumption) (hintake : L.intake := by assumption) (hmedia : L.media := by assumption) (hplace : L.place := by assumption) (hjournal : L.journal := by assumption) (hhost : L.host := by assumption) (hpower : L.power := by assumption) (hwick : L.wick := by assumption) (hmem : L.mem := by assumption) (hhealth : L.health := by assumption) (hdraws : L.draws := by assumption) : Keeps L s0 (runOps os s).1 := by
  induction os generalizing s with
  | nil => exact hk
  | cons o os ih =>
    unfold runOps
    have h := keeps_doOp o hk
    exact keeps_fst_ite h (keeps_fst_ite h (ih _ h))

theorem keeps_runMessage {L : Touch} {s0 s : State} (bs : List Byte) (hk : Keeps L s0 s) (hclock : L.clock := by assumption) (hlamp : L.lamp := by assumption) (hlink : L.link := by assumption) (hfault : L.fault := by assumption) (hintake : L.intake := by assumption) (hmedia : L.media := by assumption) (hplace : L.place := by assumption) (hjournal : L.journal := by assumption) (hhost : L.host := by assumption) (hpower : L.power := by assumption) (hwick : L.wick := by assumption) (hmem : L.mem := by assumption) (hhealth : L.health := by assumption) (hdraws : L.draws := by assumption) : Keeps L s0 (State.runMessage s bs).2.1 := by
  unfold State.runMessage
  dsimp only
  split
  next => dsimp only; exact keeps_runOps _ _ (keeps_onLink _ hk)
  next => dsimp only; exact keeps_onLink _ hk

theorem keeps_pump {L : Touch} {s0 s : State}  (hk : Keeps L s0 s) (hclock : L.clock := by assumption) (hlink : L.link := by assumption) (hfault : L.fault := by assumption) (hintake : L.intake := by assumption) (hmedia : L.media := by assumption) (hplace : L.place := by assumption) (hjournal : L.journal := by assumption) (hhost : L.host := by assumption) (hpower : L.power := by assumption) (hsnuff : L.snuff := by assumption) (hwick : L.wick := by assumption) (hmem : L.mem := by assumption) (hhealth : L.health := by assumption) : Keeps L s0 (State.pump s) := by
  unfold State.pump
  repeat' first
    | with_reducible assumption | with_reducible rfl | with_reducible apply keeps_onLink
    | with_reducible apply keeps_doAct | with_reducible apply keeps_ite | dsimp only | split | intro _

theorem keeps_respond {L : Touch} {s0 s : State} (resp : List Byte) (hk : Keeps L s0 s) (hclock : L.clock := by assumption) (hlink : L.link := by assumption) (hfault : L.fault := by assumption) (hintake : L.intake := by assumption) (hmedia : L.media := by assumption) (hplace : L.place := by assumption) (hjournal : L.journal := by assumption) (hhost : L.host := by assumption) (hpower : L.power := by assumption) (hsnuff : L.snuff := by assumption) (hwick : L.wick := by assumption) (hmem : L.mem := by assumption) (hhealth : L.health := by assumption) : Keeps L s0 (State.respond s resp) := by
  unfold State.respond
  repeat' first
    | with_reducible assumption | with_reducible rfl | with_reducible apply keeps_onLink
    | with_reducible apply keeps_pump | with_reducible apply keeps_ite | dsimp only | split | intro _

theorem keeps_sendReplay {L : Touch} {s0 s : State} (vr : BitVec 3) (hk : Keeps L s0 s) (hclock : L.clock := by assumption) (hlink : L.link := by assumption) (hfault : L.fault := by assumption) (hintake : L.intake := by assumption) (hmedia : L.media := by assumption) (hplace : L.place := by assumption) (hjournal : L.journal := by assumption) (hhost : L.host := by assumption) (hpower : L.power := by assumption) (hsnuff : L.snuff := by assumption) (hwick : L.wick := by assumption) (hmem : L.mem := by assumption) (hhealth : L.health := by assumption) : Keeps L s0 (State.sendReplay s vr) := by
  unfold State.sendReplay
  repeat' first
    | with_reducible assumption | with_reducible rfl | with_reducible apply keeps_onLink
    | with_reducible apply keeps_respond | with_reducible apply keeps_ite | dsimp only | split | intro _

theorem keeps_noteFrame {L : Touch} {s0 s : State} (e : LinkLast) (hk : Keeps L s0 s) (hjournal : L.journal := by assumption) : Keeps L s0 (State.noteFrame s e) := by
  unfold State.noteFrame
  repeat' first
    | with_reducible assumption | with_reducible rfl | with_reducible apply keeps_onJournal
    | with_reducible apply keeps_ite | dsimp only | split | intro _

theorem keeps_endMessage {L : Touch} {s0 s : State} (ns : BitVec 3) (bs : List Byte) (count : Nat) (out : List Byte) (silent : Bool) (hk : Keeps L s0 s) (hclock : L.clock := by assumption) (hlink : L.link := by assumption) (hfault : L.fault := by assumption) (hintake : L.intake := by assumption) (hmedia : L.media := by assumption) (hplace : L.place := by assumption) (hjournal : L.journal := by assumption) (hhost : L.host := by assumption) (hpower : L.power := by assumption) (hsnuff : L.snuff := by assumption) (hwick : L.wick := by assumption) (hmem : L.mem := by assumption) (hhealth : L.health := by assumption) : Keeps L s0 (State.endMessage s ns bs count out silent) := by
  unfold State.endMessage
  repeat' first
    | with_reducible assumption | with_reducible rfl | with_reducible apply keeps_onLink
    | with_reducible apply keeps_noteFrame | with_reducible apply keeps_respond | with_reducible apply keeps_ite
    | dsimp only | split | intro _

theorem keeps_newMessage {L : Touch} {s0 s : State} (ns : BitVec 3) (vr : BitVec 3) (bs : List Byte) (hk : Keeps L s0 s) (hclock : L.clock := by assumption) (hlamp : L.lamp := by assumption) (hlink : L.link := by assumption) (hfault : L.fault := by assumption) (hintake : L.intake := by assumption) (hmedia : L.media := by assumption) (hplace : L.place := by assumption) (hjournal : L.journal := by assumption) (hhost : L.host := by assumption) (hpower : L.power := by assumption) (hsnuff : L.snuff := by assumption) (hwick : L.wick := by assumption) (hmem : L.mem := by assumption) (hhealth : L.health := by assumption) (hdraws : L.draws := by assumption) : Keeps L s0 (State.newMessage s ns vr bs) := by
  unfold State.newMessage
  repeat' first
    | with_reducible assumption | with_reducible rfl | with_reducible apply keeps_runMessage
    | with_reducible apply keeps_onLink | with_reducible apply keeps_endMessage | with_reducible apply keeps_ite
    | dsimp only | split | intro _

theorem keeps_decide343 {L : Touch} {s0 s : State} (ns : BitVec 3) (bs : List Byte) (hk : Keeps L s0 s) (hclock : L.clock := by assumption) (hlamp : L.lamp := by assumption) (hlink : L.link := by assumption) (hfault : L.fault := by assumption) (hintake : L.intake := by assumption) (hmedia : L.media := by assumption) (hplace : L.place := by assumption) (hjournal : L.journal := by assumption) (hhost : L.host := by assumption) (hpower : L.power := by assumption) (hsnuff : L.snuff := by assumption) (hwick : L.wick := by assumption) (hmem : L.mem := by assumption) (hhealth : L.health := by assumption) (hdraws : L.draws := by assumption) : Keeps L s0 (State.decide343 s ns bs) := by
  unfold State.decide343
  repeat' first
    | with_reducible assumption | with_reducible rfl | with_reducible apply keeps_onLink
    | with_reducible apply keeps_sendReplay | with_reducible apply keeps_newMessage | with_reducible apply keeps_ite
    | dsimp only | split | intro _

theorem keeps_finalFrame {L : Touch} {s0 s : State} (ns : BitVec 3) (info : List Byte) (hk : Keeps L s0 s) (hclock : L.clock := by assumption) (hlamp : L.lamp := by assumption) (hlink : L.link := by assumption) (hfault : L.fault := by assumption) (hintake : L.intake := by assumption) (hmedia : L.media := by assumption) (hplace : L.place := by assumption) (hjournal : L.journal := by assumption) (hhost : L.host := by assumption) (hpower : L.power := by assumption) (hsnuff : L.snuff := by assumption) (hwick : L.wick := by assumption) (hmem : L.mem := by assumption) (hhealth : L.health := by assumption) (hdraws : L.draws := by assumption) : Keeps L s0 (State.finalFrame s ns info) := by
  unfold State.finalFrame
  repeat' first
    | with_reducible assumption | with_reducible rfl | with_reducible apply keeps_newMessage
    | with_reducible apply keeps_onLink | with_reducible apply keeps_decide343 | with_reducible apply keeps_ite
    | dsimp only | split | intro _

theorem keeps_rFrame {L : Touch} {s0 s : State} (nr : BitVec 3) (reason : Byte) (hk : Keeps L s0 s) (hclock : L.clock := by assumption) (hlink : L.link := by assumption) (hfault : L.fault := by assumption) (hintake : L.intake := by assumption) (hmedia : L.media := by assumption) (hplace : L.place := by assumption) (hjournal : L.journal := by assumption) (hhost : L.host := by assumption) (hpower : L.power := by assumption) (hsnuff : L.snuff := by assumption) (hwick : L.wick := by assumption) (hmem : L.mem := by assumption) (hhealth : L.health := by assumption) : Keeps L s0 (State.rFrame s nr reason) := by
  unfold State.rFrame
  repeat' first
    | with_reducible assumption | with_reducible rfl | with_reducible apply keeps_pump
    | with_reducible apply keeps_onLink | with_reducible apply keeps_ite | dsimp only | split | intro _

theorem keeps_countRepeats {L : Touch} {s0 s : State} (n : Nat) (hk : Keeps L s0 s) (hhealth : L.health := by assumption) : Keeps L s0 (State.countRepeats s n) := by
  unfold State.countRepeats
  repeat' first
    | with_reducible assumption | with_reducible rfl | with_reducible apply keeps_countHi
    | with_reducible apply keeps_ite | dsimp only | split | intro _

theorem keeps_novvenEnd {L : Touch} {s0 s : State} (msg : List Byte) (answer : List Byte) (f : CharFails) (hk : Keeps L s0 s) (hlink : L.link := by assumption) (hjournal : L.journal := by assumption) (hhealth : L.health := by assumption) : Keeps L s0 (State.novvenEnd s msg answer f) := by
  unfold State.novvenEnd
  repeat' first
    | with_reducible assumption | with_reducible rfl | with_reducible apply keeps_countRepeats
    | with_reducible apply keeps_onLink | with_reducible apply keeps_noteFrame | with_reducible apply keeps_ite
    | dsimp only | split | intro _

theorem keeps_endAccess {L : Touch} {s0 s : State} (st : Status) (ws : List Word) (code : Byte) (hk : Keeps L s0 s) (hclock : L.clock := by assumption) (hlink : L.link := by assumption) (hfault : L.fault := by assumption) (hintake : L.intake := by assumption) (hmedia : L.media := by assumption) (hplace : L.place := by assumption) (hjournal : L.journal := by assumption) (hhost : L.host := by assumption) (hpower : L.power := by assumption) (hsnuff : L.snuff := by assumption) (hwick : L.wick := by assumption) (hmem : L.mem := by assumption) (hhealth : L.health := by assumption) : Keeps L s0 (State.endAccess s st ws code) := by
  unfold State.endAccess
  repeat' first
    | with_reducible assumption | with_reducible rfl | with_reducible apply keeps_onLink
    | with_reducible apply keeps_doAct | with_reducible apply keeps_ite | dsimp only | split | intro _

theorem keeps_single {L : Touch} {s0 s : State} (o : LOp) (hk : Keeps L s0 s) (hclock : L.clock := by assumption) (hlamp : L.lamp := by assumption) (hlink : L.link := by assumption) (hfault : L.fault := by assumption) (hintake : L.intake := by assumption) (hmedia : L.media := by assumption) (hplace : L.place := by assumption) (hjournal : L.journal := by assumption) (hhost : L.host := by assumption) (hpower : L.power := by assumption) (hsnuff : L.snuff := by assumption) (hwick : L.wick := by assumption) (hmem : L.mem := by assumption) (hhealth : L.health := by assumption) (hdraws : L.draws := by assumption) : KeepsN L s0 (State.single s o) := by
  unfold State.single
  repeat' first
    | with_reducible assumption | with_reducible rfl | with_reducible apply keepsN_next | exact keepsN_fault _
    | exact keepsN_refused _ | with_reducible apply keeps_onLink | with_reducible apply keeps_doOp
    | with_reducible apply keeps_endAccess | with_reducible apply keepsN_ite | with_reducible apply keeps_ite
    | dsimp only | split | intro _

end

end Sys2Proof.Machine
end

