-- ==== Sys2Proof/Laws/KeepsFinish.lean ====
section
/-! SUPPORT. What the operations of Machine/Finish.lean keep. -/
namespace Sys2Proof.Machine
open Sys2Proof

section
set_option Elab.async false

theorem keeps_endRun {L : Touch} {s0 s : State} (r : LinkRun) (st : Status) (hk : Keeps L s0 s) (hclock : L.clock := by assumption) (hlamp : L.lamp := by assumption) (hlink : L.link := by assumption) (hfault : L.fault := by assumption) (hintake : L.intake := by assumption) (hmedia : L.media := by assumption) (hplace : L.place := by assumption) (hjournal : L.journal := by assumption) (hhost : L.host := by assumption) (hpower : L.power := by assumption) (hsnuff : L.snuff := by assumption) (hwick : L.wick := by assumption) (hmem : L.mem := by assumption) (hhealth : L.health := by assumption) (hdraws : L.draws := by assumption) : Keeps L s0 (State.endRun s r st) := by
  unfold State.endRun
  repeat' first
    | with_reducible assumption | with_reducible rfl | with_reducible apply keeps_single
    | with_reducible apply keeps_onLink | with_reducible apply keeps_doAct | with_reducible apply keeps_novvenEnd
    | with_reducible apply keeps_endMessage | with_reducible apply keeps_runOps | with_reducible apply keeps_ite
    | dsimp only | split | intro _

theorem keeps_finishRun {L : Touch} {s0 s : State}  (hk : Keeps L s0 s) (hclock : L.clock := by assumption) (hlamp : L.lamp := by assumption) (hlink : L.link := by assumption) (hfault : L.fault := by assumption) (hintake : L.intake := by assumption) (hmedia : L.media := by assumption) (hplace : L.place := by assumption) (hjournal : L.journal := by assumption) (hhost : L.host := by assumption) (hpower : L.power := by assumption) (hsnuff : L.snuff := by assumption) (hwick : L.wick := by assumption) (hmem : L.mem := by assumption) (hhealth : L.health := by assumption) (hdraws : L.draws := by assumption) : Keeps L s0 (State.finishRun s) := by
  unfold State.finishRun
  repeat' first
    | with_reducible assumption | with_reducible rfl | with_reducible apply keeps_writeRegs
    | with_reducible apply keeps_onLink | with_reducible apply keeps_endRun | with_reducible apply keeps_ite
    | dsimp only | split | intro _

end

end Sys2Proof.Machine
end

