-- ==== Sys2Proof/Laws/KeepsRegCmds.lean ====
section
/-! SUPPORT. What the operations of Machine/RegCmds.lean keep. -/
namespace Sys2Proof.Machine
open Sys2Proof

section
set_option Elab.async false

theorem keeps_busWrite {L : Touch} {s0 s : State} (a : Nat) (v : Word) (mask : Word) (hk : Keeps L s0 s) (hclock : L.clock := by assumption) (hlamp : L.lamp := by assumption) (hlink : L.link := by assumption) (hfault : L.fault := by assumption) (hintake : L.intake := by assumption) (hmedia : L.media := by assumption) (hplace : L.place := by assumption) (hjournal : L.journal := by assumption) (hhost : L.host := by assumption) (hpower : L.power := by assumption) (hsnuff : L.snuff := by assumption) (hwick : L.wick := by assumption) (hmem : L.mem := by assumption) (hhealth : L.health := by assumption) (hdraws : L.draws := by assumption) : Keeps L s0 (State.busWrite s a v mask) := by
  unfold State.busWrite
  repeat' first
    | with_reducible assumption | with_reducible rfl | with_reducible apply keeps_onLink
    | with_reducible apply keeps_regWrite | with_reducible apply keeps_endAccess | with_reducible apply keeps_ite
    | dsimp only | split | intro _

theorem keeps_busRead {L : Touch} {s0 s : State} (a : Nat) (hk : Keeps L s0 s) (hlamp : L.lamp := by assumption) (hlink : L.link := by assumption) (hintake : L.intake := by assumption) (hdraws : L.draws := by assumption) : Keeps L s0 (State.busRead s a) := by
  unfold State.busRead
  repeat' first
    | with_reducible assumption | with_reducible rfl | with_reducible apply keeps_regRead
    | with_reducible apply keeps_onLink | with_reducible apply keeps_ite | dsimp only | split | intro _

end

end Sys2Proof.Machine
end

