-- ==== Sys2Proof/Laws/KeepsStart.lean ====
section
/-! SUPPORT. What the operations of Machine/Start.lean keep. -/
namespace Sys2Proof.Machine
open Sys2Proof

section
set_option Elab.async false

theorem keeps_pllsDone {L : Touch} {s0 s : State}  (hk : Keeps L s0 s) (hclock : L.clock := by assumption) : Keeps L s0 (State.pllsDone s) := by
  unfold State.pllsDone
  repeat' first
    | with_reducible assumption | with_reducible rfl | with_reducible apply keeps_onClock
    | with_reducible apply keeps_ite | dsimp only | split | intro _

theorem keeps_afterRails {L : Touch} {s0 s : State} (p : Pll) (hk : Keeps L s0 s) (hpower : L.power := by assumption) : Keeps L s0 (State.afterRails s p) := by
  unfold State.afterRails
  repeat' first
    | with_reducible assumption | with_reducible rfl | with_reducible apply keeps_tick
    | with_reducible apply keeps_railsGood | with_reducible apply keeps_ite | dsimp only | split | intro _

theorem keeps_reportOtp {L : Touch} {s0 s : State}  (hk : Keeps L s0 s) (hfault : L.fault := by assumption) : Keeps L s0 (State.reportOtp s) := by
  unfold State.reportOtp
  repeat' first
    | with_reducible assumption | with_reducible rfl | with_reducible apply keeps_assertError
    | with_reducible apply keeps_ite | with_reducible refine keeps_foldl _ (fun _ _ _ => ?_) _ ?_ | dsimp only | split
    | intro _

theorem keeps_takeAnchor {L : Touch} {s0 s : State} (a : Anchor) (hk : Keeps L s0 s) (hwick : L.wick := by assumption) : Keeps L s0 (State.takeAnchor s a) := by
  unfold State.takeAnchor
  repeat' first
    | with_reducible assumption | with_reducible rfl | with_reducible apply keeps_onWick
    | with_reducible apply keeps_ite | dsimp only | split | intro _

theorem keeps_bootCheck {L : Touch} {s0 s : State} (bad : List Nat) (hk : Keeps L s0 s) (hwick : L.wick := by assumption) : Keeps L s0 (State.bootCheck s bad) := by
  unfold State.bootCheck
  repeat' first
    | with_reducible assumption | with_reducible rfl | with_reducible apply keeps_takeAnchor
    | with_reducible apply keeps_ite | dsimp only | split | intro _

theorem keeps_enterDownload {L : Touch} {s0 s : State}  (hk : Keeps L s0 s) (hclock : L.clock := by assumption) (hlink : L.link := by assumption) (hintake : L.intake := by assumption) (hhost : L.host := by assumption) : Keeps L s0 (State.enterDownload s) := by
  unfold State.enterDownload
  repeat' first
    | with_reducible assumption | with_reducible rfl | with_reducible apply keeps_onLink
    | with_reducible apply keeps_onClock | with_reducible apply keeps_setDev | with_reducible apply keeps_ite
    | dsimp only | split | intro _

theorem keeps_startSlot {L : Touch} {s0 s : State} (slotB : Bool) (hk : Keeps L s0 s) (hclock : L.clock := by assumption) (hlink : L.link := by assumption) (hwick : L.wick := by assumption) : Keeps L s0 (State.startSlot s slotB) := by
  unfold State.startSlot
  repeat' first
    | with_reducible assumption | with_reducible rfl | with_reducible apply keeps_onClock
    | with_reducible apply keeps_onWick | with_reducible apply keeps_onLink | with_reducible apply keeps_ite
    | dsimp only | split | intro _

end

end Sys2Proof.Machine
end

