-- ==== Sys2Proof/Laws/KeepsRecovery.lean ====
section
/-! SUPPORT. What the operations of Machine/Recovery.lean keep. -/
namespace Sys2Proof.Machine
open Sys2Proof

section
set_option Elab.async false

theorem keeps_writeRecoveryCask {L : Touch} {s0 s : State} (r : RecoveryIn) (x : Snapshot) (ps : List Piece) (now : Option (Nat × Nat)) (n : Nat) (hk : Keeps L s0 s) (hfault : L.fault := by assumption) (hmedia : L.media := by assumption) (hplace : L.place := by assumption) (hjournal : L.journal := by assumption) (hhost : L.host := by assumption) (hhealth : L.health := by assumption) : Keeps L s0 (State.writeRecoveryCask r x ps now s n) := by
  unfold State.writeRecoveryCask
  repeat' first
    | with_reducible assumption | with_reducible rfl | with_reducible apply keeps_record
    | with_reducible apply keeps_onJournal | with_reducible apply keeps_postMarks | with_reducible apply keeps_ite
    | dsimp only | split | intro _

theorem keeps_formSnuff {L : Touch} {s0 s : State} (r : RecoveryIn) (d : Nat) (hk : Keeps L s0 s) (hfault : L.fault := by assumption) (hmedia : L.media := by assumption) (hplace : L.place := by assumption) (hhealth : L.health := by assumption) : Keeps L s0 (State.formSnuff s r d).1 := by
  unfold State.formSnuff
  have h := keeps_formNow r .snuff d hk
  split
  next t b e =>
    rw [e] at h
    exact keeps_fst_ite h (by dsimp only at h ⊢; exact keeps_modBand _ _ h)
  next t e =>
    rw [e] at h
    exact h

theorem keeps_fillSnuff {L : Touch} {s0 : State} (r : RecoveryIn) (n : Nat) (s : State) (hk : Keeps L s0 s) (hfault : L.fault := by assumption) (hmedia : L.media := by assumption) (hplace : L.place := by assumption) (hhealth : L.health := by assumption) : Keeps L s0 (State.fillSnuff r n s) := by
  induction n generalizing s with
  | zero => exact hk
  | succ n ih =>
    unfold State.fillSnuff
    refine keeps_ite hk ?_
    have h : Keeps L s0 (s.snuffIndexes.foldl (fun (a : State × Option Nat) d =>
        match a.2 with
        | some _ => a
        | none => a.1.formSnuff r d) (s, none)).1 := by
      refine keeps_foldl_fst _ (fun a d h => ?_) _ hk
      split
      next => exact h
      next => exact keeps_formSnuff r d h
    dsimp only
    split
    next b e => exact ih _ (keeps_onPlace _ h)
    next => exact h

theorem twf_table (x : Snapshot) (lens : Sparse Nat) (first : Nat) (sealed : Bool) :
    twf Stream.none (x.table lens first sealed) = true := by
  unfold Snapshot.table
  have h : ∀ (l : List (Nat × Stream)) (t : Sparse Stream), twf Stream.none t = true → twf Stream.none
      (l.foldl (fun t e => tset Stream.none t e.1 (e.2.restored (tget 0 lens e.1) first sealed)) t) = true := by
    intro l
    induction l with
    | nil => exact fun _ h => h
    | cons e l ih => exact fun t h => ih _ (twf_tset _ _ _ _ h)
  exact h _ _ rfl

theorem keeps_restoreSnuff {L : Touch} {s0 s : State} (r : RecoveryIn) (hk : Keeps L s0 s) (hfault : L.fault := by assumption) (hmedia : L.media := by assumption) (hplace : L.place := by assumption) (hhealth : L.health := by assumption) : Keeps L s0 (State.restoreSnuff s r) := by
  unfold State.restoreSnuff
  repeat' first
    | with_reducible assumption | with_reducible rfl | with_reducible apply keeps_fillSnuff
    | with_reducible apply keeps_ite | dsimp only | split | intro _

theorem keeps_enterRunning {L : Touch} {s0 s : State}  (hk : Keeps L s0 s) (hclock : L.clock := by assumption) (hlink : L.link := by assumption) (hintake : L.intake := by assumption) (hhost : L.host := by assumption) (hwick : L.wick := by assumption) (hhealth : L.health := by assumption) : Keeps L s0 (State.enterRunning s) := by
  unfold State.enterRunning
  repeat' first
    | with_reducible assumption | with_reducible rfl | with_reducible apply keeps_onWick
    | with_reducible apply keeps_setDev | with_reducible apply keeps_onIntake | with_reducible apply keeps_raise
    | with_reducible apply keeps_count32 | with_reducible apply keeps_ite | dsimp only | split | intro _

theorem keeps_leaveRecover {L : Touch} {s0 s : State} (code : BitVec 3) (ro : Bool) (link : Option LinkLast) (ms : Nat) (hk : Keeps L s0 s) (hclock : L.clock := by assumption) (hlink : L.link := by assumption) (hintake : L.intake := by assumption) (hplace : L.place := by assumption) (hjournal : L.journal := by assumption) (hhost : L.host := by assumption) (hwick : L.wick := by assumption) (hhealth : L.health := by assumption) : Keeps L s0 (State.leaveRecover s code ro link ms) := by
  unfold State.leaveRecover
  repeat' first
    | with_reducible assumption | with_reducible rfl | with_reducible apply keeps_onLink
    | with_reducible apply keeps_onClock | with_reducible apply keeps_onJournal | with_reducible apply keeps_setDev
    | with_reducible apply keeps_enterRunning | with_reducible apply keeps_holdC
    | with_reducible apply keeps_spaceCheck | with_reducible apply keeps_healthCheck | with_reducible apply keeps_ite
    | dsimp only | split | intro _

theorem keeps_recoveredWords {L : Touch} {s0 s : State} (img : Option SnuffImage) (hk : Keeps L s0 s) (hhealth : L.health := by assumption) : Keeps L s0 (State.recoveredWords s img) := by
  unfold State.recoveredWords
  repeat' first
    | with_reducible assumption | with_reducible rfl | with_reducible apply keeps_hset
    | with_reducible apply keeps_retiredWord | with_reducible apply keeps_trigger | with_reducible apply keeps_count32
    | with_reducible apply keeps_ite | dsimp only | split | intro _

theorem keeps_install {L : Touch} {s0 s : State} (a : Anchor) (x : Snapshot) (ps : List Piece) (lens : Sparse Nat) (first : Nat) (last : Nat) (sealed : Bool) (hk : Keeps L s0 s) (hintake : L.intake := by assumption) (hplace : L.place := by assumption) (hmem : L.mem := by assumption) (hhealth : L.health := by assumption) : Keeps L s0 (State.install s a x ps lens first last sealed) := by
  unfold State.install
  repeat' first
    | with_reducible assumption | with_reducible rfl | with_reducible apply keeps_onIntake
    | with_reducible apply keeps_onPlace | with_reducible apply keeps_modMemory | with_reducible apply keeps_countGood
    | with_reducible apply keeps_onHealth | with_reducible apply keeps_recoveredWords | with_reducible apply keeps_ite
    | with_reducible refine keeps_foldl _ (fun _ _ _ => ?_) _ ?_ | exact twf_tmap _ _ _ | dsimp only | split | intro _
    | exact twf_table _ _ _ _

theorem keeps_landAll {L : Touch} {s0 : State} (n : Nat) (s : State) (hk : Keeps L s0 s) (hmedia : L.media := by assumption) (hplace : L.place := by assumption) : Keeps L s0 (State.landAll n s) := by
  induction n generalizing s with
  | zero => exact hk
  | succ n ih =>
    unfold State.landAll
    exact keeps_ite hk (ih _ (keeps_foldl _ (fun _ _ h => keeps_landPage _ h) _ hk))

theorem keeps_shrinkRuns {L : Touch} {s0 : State} (n : Nat) (s : State) (hk : Keeps L s0 s) (hmedia : L.media := by assumption) (hplace : L.place := by assumption) : Keeps L s0 (State.shrinkRuns n s) := by
  induction n generalizing s with
  | zero => exact hk
  | succ n ih =>
    unfold State.shrinkRuns
    exact keeps_ite hk (ih _ (keeps_landAll 4 _ (keeps_formRunPage hk)))

theorem keeps_anchorNew {L : Touch} {s0 s : State} (r : RecoveryIn) (hk : Keeps L s0 s) (hfault : L.fault := by assumption) (hmedia : L.media := by assumption) (hplace : L.place := by assumption) (hjournal : L.journal := by assumption) (hwick : L.wick := by assumption) (hhealth : L.health := by assumption) : Keeps L s0 (State.anchorNew s r) := by
  unfold State.anchorNew
  repeat' first
    | with_reducible assumption | with_reducible rfl | with_reducible apply keeps_shrinkRuns
    | with_reducible apply keeps_submitPages | with_reducible apply keeps_landAll
    | with_reducible apply keeps_checkpoint | with_reducible apply keeps_onWick | with_reducible apply keeps_writePair
    | with_reducible apply keeps_onJournal | with_reducible apply keeps_setTail | with_reducible apply keeps_ite
    | dsimp only | split | intro _

theorem keeps_reportTie {L : Touch} {s0 s : State} (gen : Nat) (hk : Keeps L s0 s) (hclock : L.clock := by assumption) (hlamp : L.lamp := by assumption) (hlink : L.link := by assumption) (hfault : L.fault := by assumption) (hintake : L.intake := by assumption) (hmedia : L.media := by assumption) (hplace : L.place := by assumption) (hjournal : L.journal := by assumption) (hhost : L.host := by assumption) (hpower : L.power := by assumption) (hsnuff : L.snuff := by assumption) (hwick : L.wick := by assumption) (hmem : L.mem := by assumption) (hhealth : L.health := by assumption) : Keeps L s0 (State.reportTie s gen) := by
  unfold State.reportTie
  repeat' first
    | with_reducible assumption | with_reducible rfl | with_reducible apply keeps_assertError
    | with_reducible apply keeps_takeReport | with_reducible apply keeps_ite | dsimp only | split | intro _

theorem keeps_recoverFrom {L : Touch} {s0 s : State} (a : Anchor) (c : AnchorChoice) (r : RecoveryIn) (hk : Keeps L s0 s) (hclock : L.clock := by assumption) (hlamp : L.lamp := by assumption) (hlink : L.link := by assumption) (hfault : L.fault := by assumption) (hintake : L.intake := by assumption) (hmedia : L.media := by assumption) (hplace : L.place := by assumption) (hjournal : L.journal := by assumption) (hhost : L.host := by assumption) (hpower : L.power := by assumption) (hsnuff : L.snuff := by assumption) (hwick : L.wick := by assumption) (hmem : L.mem := by assumption) (hhealth : L.health := by assumption) : Keeps L s0 (State.recoverFrom s a c r) := by
  unfold State.recoverFrom
  repeat' first
    | with_reducible assumption | with_reducible rfl | with_reducible apply keeps_takeAnchor
    | with_reducible apply keeps_onLampSame | with_reducible apply keeps_install
    | with_reducible apply keeps_leaveRecover | with_reducible apply keeps_reportTie
    | with_reducible apply keeps_onJournal | with_reducible apply keeps_writeRecoveryCask
    | with_reducible apply keeps_sealWords | with_reducible apply keeps_anchorNew
    | with_reducible apply keeps_spareJournal | with_reducible apply keeps_restoreSnuff
    | with_reducible apply keeps_ite | with_reducible refine keeps_foldl _ (fun _ _ _ => ?_) _ ?_
    | exact ⟨rfl, rfl, rfl, rfl⟩ | dsimp only | split | intro _

theorem keeps_firstJournal {L : Touch} {s0 s : State} (r : RecoveryIn) (hk : Keeps L s0 s) (hfault : L.fault := by assumption) (hmedia : L.media := by assumption) (hplace : L.place := by assumption) (hjournal : L.journal := by assumption) (hhealth : L.health := by assumption) : Keeps L s0 (State.firstJournal s r) := by
  unfold State.firstJournal
  have h := keeps_formJournal r hk
  split
  next t b e =>
    rw [e] at h
    dsimp only at h ⊢
    exact keeps_spareJournal _ (keeps_onJournal _ h)
  next t e =>
    rw [e] at h
    exact h

theorem keeps_firstWords {L : Touch} {s0 s : State}  (hk : Keeps L s0 s) (hhealth : L.health := by assumption) : Keeps L s0 (State.firstWords s) := by
  unfold State.firstWords
  repeat' first
    | with_reducible assumption | with_reducible rfl | with_reducible apply keeps_hset
    | with_reducible apply keeps_retiredWord | with_reducible apply keeps_ite | dsimp only | split | intro _

theorem keeps_initMagazine {L : Touch} {s0 s : State} (r : RecoveryIn) (hk : Keeps L s0 s) (hclock : L.clock := by assumption) (hlink : L.link := by assumption) (hfault : L.fault := by assumption) (hintake : L.intake := by assumption) (hmedia : L.media := by assumption) (hplace : L.place := by assumption) (hjournal : L.journal := by assumption) (hhost : L.host := by assumption) (hwick : L.wick := by assumption) (hhealth : L.health := by assumption) (hdraws : L.draws := by assumption) : Keeps L s0 (State.initMagazine s r) := by
  unfold State.initMagazine
  have h0 := keeps_countGood (keeps_bootCheck r.badSeqs hk)
  generalize State.countGood _ = a at h0
  dsimp only
  refine keeps_ite (keeps_leaveRecover _ _ _ _ h0) ?_
  have h1 := keeps_onIntake (fun i => { i with streams := [], entrySeq := 0 }) (fun _ _ => rfl) (keeps_newKey 1 h0)
  generalize State.onIntake _ _ = b at h1
  exact keeps_leaveRecover _ _ _ _ (keeps_anchorNew r (keeps_restoreSnuff r (keeps_firstJournal r
    (keeps_firstWords (keeps_onJournal _ (keeps_onPlace _ h1))))))

end

end Sys2Proof.Machine
end

