-- ==== Sys2Proof/Laws/KeepsExec.lean ====
section
/-! SUPPORT. What the meaning of every command but VAUX_POR_RELEASE keeps, wherever it answers a next state. -/
namespace Sys2Proof.Machine
open Sys2Proof

section
set_option Elab.async false

theorem keeps_execErrorReport {L : Touch} {s0 s : State} (u : UnitId) (fresh : Option (Cause × BitVec 56)) (hk : Keeps L s0 s) (hclock : L.clock := by assumption) (hlamp : L.lamp := by assumption) (hlink : L.link := by assumption) (hfault : L.fault := by assumption) (hintake : L.intake := by assumption) (hmedia : L.media := by assumption) (hplace : L.place := by assumption) (hjournal : L.journal := by assumption) (hhost : L.host := by assumption) (hpower : L.power := by assumption) (hsnuff : L.snuff := by assumption) (hwick : L.wick := by assumption) (hmem : L.mem := by assumption) (hhealth : L.health := by assumption) : KeepsN L s0 (execErrorReport u fresh s) := by
  unfold execErrorReport
  repeat' first
    | with_reducible assumption | with_reducible rfl | with_reducible apply keepsN_next | exact keepsN_fault _
    | exact keepsN_refused _ | with_reducible apply keeps_takeReport | with_reducible apply keeps_ownReaction
    | with_reducible apply keeps_assertError | with_reducible apply keepsN_ite | with_reducible apply keeps_ite
    | dsimp only | split | intro _

theorem keeps_execUnitRestartRelease {L : Touch} {s0 s : State} (u : UnitId) (hk : Keeps L s0 s) (hclock : L.clock := by assumption) (hlink : L.link := by assumption) (hfault : L.fault := by assumption) (hintake : L.intake := by assumption) (hmedia : L.media := by assumption) (hhost : L.host := by assumption) (hpower : L.power := by assumption) (hhealth : L.health := by assumption) : KeepsN L s0 (execUnitRestartRelease u s) := by
  unfold execUnitRestartRelease
  repeat' first
    | with_reducible assumption | with_reducible rfl | with_reducible apply keepsN_next | exact keepsN_fault _
    | exact keepsN_refused _ | with_reducible apply keeps_releaseUnit | with_reducible apply keepsN_ite
    | with_reducible apply keeps_ite | dsimp only | split | intro _

theorem keeps_execShadowEnd {L : Touch} {s0 s : State} (u : UnitId) (hk : Keeps L s0 s) (hfault : L.fault := by assumption) : KeepsN L s0 (execShadowEnd u s) := by
  unfold execShadowEnd
  repeat' first
    | with_reducible assumption | with_reducible rfl | with_reducible apply keepsN_next | exact keepsN_fault _
    | exact keepsN_refused _ | with_reducible apply keeps_endShadow | with_reducible apply keepsN_ite
    | with_reducible apply keeps_ite | dsimp only | split | intro _

theorem keeps_execDupMismatch {L : Touch} {s0 s : State} (addr : BitVec 8) (other : Word) (persists : Bool) (hk : Keeps L s0 s) (hclock : L.clock := by assumption) (hlink : L.link := by assumption) (hfault : L.fault := by assumption) (hintake : L.intake := by assumption) (hmedia : L.media := by assumption) (hplace : L.place := by assumption) (hjournal : L.journal := by assumption) (hhost : L.host := by assumption) (hpower : L.power := by assumption) (hsnuff : L.snuff := by assumption) (hwick : L.wick := by assumption) (hmem : L.mem := by assumption) (hhealth : L.health := by assumption) : KeepsN L s0 (execDupMismatch addr other persists s) := by
  unfold execDupMismatch
  repeat' first
    | with_reducible assumption | with_reducible rfl | with_reducible apply keepsN_next | exact keepsN_fault _
    | exact keepsN_refused _ | with_reducible apply keeps_dupMismatch | with_reducible apply keepsN_ite
    | with_reducible apply keeps_ite | dsimp only | split | intro _

theorem keeps_execWatchdog {L : Touch} {s0 s : State} (c : Core) (hk : Keeps L s0 s) (hclock : L.clock := by assumption) (hlamp : L.lamp := by assumption) (hlink : L.link := by assumption) (hfault : L.fault := by assumption) (hintake : L.intake := by assumption) (hmedia : L.media := by assumption) (hplace : L.place := by assumption) (hjournal : L.journal := by assumption) (hhost : L.host := by assumption) (hpower : L.power := by assumption) (hsnuff : L.snuff := by assumption) (hwick : L.wick := by assumption) (hmem : L.mem := by assumption) (hhealth : L.health := by assumption) : KeepsN L s0 (execWatchdog c s) := by
  unfold execWatchdog
  repeat' first
    | with_reducible assumption | with_reducible rfl | with_reducible apply keepsN_next | exact keepsN_fault _
    | exact keepsN_refused _ | with_reducible apply keeps_assertError | with_reducible apply keeps_takeReport
    | with_reducible apply keepsN_ite | with_reducible apply keeps_ite | dsimp only | split | intro _

theorem keeps_execScrubAccess {L : Touch} {s0 s : State} (h : Option EccHit) (mem : BitVec 3) (lapMs : Option Nat) (hk : Keeps L s0 s) (hfault : L.fault := by assumption) (hmem : L.mem := by assumption) (hhealth : L.health := by assumption) : KeepsN L s0 (execScrubAccess h mem lapMs s) := by
  unfold execScrubAccess
  repeat' first
    | with_reducible assumption | with_reducible rfl | with_reducible apply keepsN_next | exact keepsN_fault _
    | exact keepsN_refused _ | with_reducible apply keeps_eccHit | with_reducible apply keeps_endLap
    | with_reducible apply keepsN_ite | with_reducible apply keeps_ite | dsimp only | split | intro _

theorem keeps_execEccEntryExamine {L : Touch} {s0 s : State}  (hk : Keeps L s0 s) (hfault : L.fault := by assumption) (hmem : L.mem := by assumption) (hhealth : L.health := by assumption) : KeepsN L s0 (execEccEntryExamine s) := by
  unfold execEccEntryExamine
  repeat' first
    | with_reducible assumption | with_reducible rfl | with_reducible apply keepsN_next | exact keepsN_fault _
    | exact keepsN_refused _ | with_reducible apply keeps_examine | with_reducible apply keepsN_ite
    | with_reducible apply keeps_ite | dsimp only | split | intro _

theorem keeps_execPoisonRebuild {L : Touch} {s0 s : State} (mem : BitVec 3) (word : BitVec 24) (hk : Keeps L s0 s) (hmem : L.mem := by assumption) : KeepsN L s0 (execPoisonRebuild mem word s) := by
  unfold execPoisonRebuild
  repeat' first
    | with_reducible assumption | with_reducible rfl | with_reducible apply keepsN_next | exact keepsN_fault _
    | exact keepsN_refused _ | with_reducible apply keeps_modMemory | with_reducible apply keepsN_ite
    | with_reducible apply keeps_ite | dsimp only | split | intro _

theorem keeps_execWickReadMargin {L : Touch} {s0 s : State} (pass : Bool) (hk : Keeps L s0 s) (hwick : L.wick := by assumption) : KeepsN L s0 (execWickReadMargin pass s) := by
  unfold execWickReadMargin
  repeat' first
    | with_reducible assumption | with_reducible rfl | with_reducible apply keepsN_next | exact keepsN_fault _
    | exact keepsN_refused _ | with_reducible apply keeps_onWick | with_reducible apply keepsN_ite
    | with_reducible apply keeps_ite | dsimp only | split | intro _

theorem keeps_execWickProgram {L : Touch} {s0 s : State} (blank : Bool) (verified : Bool) (src : HostRead) (hk : Keeps L s0 s) (hfault : L.fault := by assumption) (hwick : L.wick := by assumption) : KeepsN L s0 (execWickProgram blank verified src s) := by
  unfold execWickProgram
  repeat' first
    | with_reducible assumption | with_reducible rfl | with_reducible apply keepsN_next | exact keepsN_fault _
    | exact keepsN_refused _ | with_reducible apply keeps_wickProgram | with_reducible apply keepsN_ite
    | with_reducible apply keeps_ite | dsimp only | split | intro _

theorem keeps_execWickErase {L : Touch} {s0 s : State} (fetchOn : Bool) (hk : Keeps L s0 s) (hwick : L.wick := by assumption) : KeepsN L s0 (execWickErase fetchOn s) := by
  unfold execWickErase
  repeat' first
    | with_reducible assumption | with_reducible rfl | with_reducible apply keepsN_next | exact keepsN_fault _
    | exact keepsN_refused _ | with_reducible apply keeps_wickErase | with_reducible apply keepsN_ite
    | with_reducible apply keeps_ite | dsimp only | split | intro _

theorem keeps_execWickEraseSuspend {L : Touch} {s0 s : State}  (hk : Keeps L s0 s) (hwick : L.wick := by assumption) : KeepsN L s0 (execWickEraseSuspend s) := by
  unfold execWickEraseSuspend
  repeat' first
    | with_reducible assumption | with_reducible rfl | with_reducible apply keepsN_next | exact keepsN_fault _
    | exact keepsN_refused _ | with_reducible apply keeps_onWick | with_reducible apply keepsN_ite
    | with_reducible apply keeps_ite | dsimp only | split | intro _

theorem keeps_execWickEraseResume {L : Touch} {s0 s : State}  (hk : Keeps L s0 s) (hwick : L.wick := by assumption) : KeepsN L s0 (execWickEraseResume s) := by
  unfold execWickEraseResume
  repeat' first
    | with_reducible assumption | with_reducible rfl | with_reducible apply keepsN_next | exact keepsN_fault _
    | exact keepsN_refused _ | with_reducible apply keeps_onWick | with_reducible apply keepsN_ite
    | with_reducible apply keeps_ite | dsimp only | split | intro _

theorem keeps_execOtpProgram {L : Touch} {s0 s : State} (verified : Bool) (src : HostRead) (hk : Keeps L s0 s) (hwick : L.wick := by assumption) : KeepsN L s0 (execOtpProgram verified src s) := by
  unfold execOtpProgram
  repeat' first
    | with_reducible assumption | with_reducible rfl | with_reducible apply keepsN_next | exact keepsN_fault _
    | exact keepsN_refused _ | with_reducible apply keeps_wickOtp | with_reducible apply keepsN_ite
    | with_reducible apply keeps_ite | dsimp only | split | intro _

theorem keeps_execRotate {L : Touch} {s0 s : State}  (hk : Keeps L s0 s) (hwick : L.wick := by assumption) : KeepsN L s0 (execRotate s) := by
  unfold execRotate
  repeat' first
    | with_reducible assumption | with_reducible rfl | with_reducible apply keepsN_next | exact keepsN_fault _
    | exact keepsN_refused _ | with_reducible apply keeps_onWick | with_reducible apply keepsN_ite
    | with_reducible apply keeps_ite | dsimp only | split | intro _

theorem keeps_execWickDescComplete {L : Touch} {s0 s : State} (eraseOk : Bool) (margin : Bool) (slotsBlank : Bool) (hk : Keeps L s0 s) (hlink : L.link := by assumption) (hfault : L.fault := by assumption) (hhost : L.host := by assumption) (hwick : L.wick := by assumption) : KeepsN L s0 (execWickDescComplete eraseOk margin slotsBlank s) := by
  unfold execWickDescComplete
  repeat' first
    | with_reducible assumption | with_reducible rfl | with_reducible apply keepsN_next | exact keepsN_fault _
    | exact keepsN_refused _ | with_reducible apply keeps_completeWick | with_reducible apply keepsN_ite
    | with_reducible apply keeps_ite | dsimp only | split | intro _

theorem keeps_execPlaneAccessSuspend {L : Touch} {s0 s : State} (sector : BitVec 6) (req : BitVec 4) (hk : Keeps L s0 s) (hfault : L.fault := by assumption) (hwick : L.wick := by assumption) : KeepsN L s0 (execPlaneAccessSuspend sector req s) := by
  unfold execPlaneAccessSuspend
  repeat' first
    | with_reducible assumption | with_reducible rfl | with_reducible apply keepsN_next | exact keepsN_fault _
    | exact keepsN_refused _ | with_reducible apply keeps_assertError | with_reducible apply keeps_onWick
    | with_reducible apply keepsN_ite | with_reducible apply keeps_ite | dsimp only | split | intro _

theorem keeps_execEraseAutoResume {L : Touch} {s0 s : State}  (hk : Keeps L s0 s) (hwick : L.wick := by assumption) : KeepsN L s0 (execEraseAutoResume s) := by
  unfold execEraseAutoResume
  repeat' first
    | with_reducible assumption | with_reducible rfl | with_reducible apply keepsN_next | exact keepsN_fault _
    | exact keepsN_refused _ | with_reducible apply keeps_onWick | with_reducible apply keepsN_ite
    | with_reducible apply keeps_ite | dsimp only | split | intro _

theorem keeps_execWickBrownout {L : Touch} {s0 s : State} (low : Bool) (hk : Keeps L s0 s) (hwick : L.wick := by assumption) : KeepsN L s0 (execWickBrownout low s) := by
  unfold execWickBrownout
  repeat' first
    | with_reducible assumption | with_reducible rfl | with_reducible apply keepsN_next | exact keepsN_fault _
    | exact keepsN_refused _ | with_reducible apply keeps_onWick | with_reducible apply keepsN_ite
    | with_reducible apply keeps_ite | dsimp only | split | intro _

theorem keeps_execAnchorTokenAdd {L : Touch} {s0 s : State}  (hk : Keeps L s0 s) (hwick : L.wick := by assumption) : KeepsN L s0 (execAnchorTokenAdd s) := by
  unfold execAnchorTokenAdd
  repeat' first
    | with_reducible assumption | with_reducible rfl | with_reducible apply keepsN_next | exact keepsN_fault _
    | exact keepsN_refused _ | with_reducible apply keeps_onWick | with_reducible apply keepsN_ite
    | with_reducible apply keeps_ite | dsimp only | split | intro _

theorem keeps_execPhaseInEdge {L : Touch} {s0 s : State} (sinceNs : Nat) (pos : Nat) (hk : Keeps L s0 s) (hlamp : L.lamp := by assumption) : KeepsN L s0 (execPhaseInEdge sinceNs pos s) := by
  unfold execPhaseInEdge
  repeat' first
    | with_reducible assumption | with_reducible rfl | with_reducible apply keepsN_next | exact keepsN_fault _
    | exact keepsN_refused _ | with_reducible apply keeps_repeatPhase | with_reducible apply keeps_onLampSame
    | with_reducible apply keepsN_ite | with_reducible apply keeps_ite | exact ⟨rfl, rfl, rfl, rfl⟩ | dsimp only
    | split | intro _ | unfold LampState.stray

theorem keeps_execMarker {L : Touch} {s0 s : State} (pos : Nat) (m : MarkerIn) (hk : Keeps L s0 s) (hclock : L.clock := by assumption) (hlamp : L.lamp := by assumption) (hcyc : L.cyc := by assumption) (hlink : L.link := by assumption) (hfault : L.fault := by assumption) (hintake : L.intake := by assumption) (hmedia : L.media := by assumption) (hplace : L.place := by assumption) (hjournal : L.journal := by assumption) (hhost : L.host := by assumption) (hhealth : L.health := by assumption) : KeepsN L s0 (execMarker pos m s) := by
  unfold execMarker
  repeat' first
    | with_reducible assumption | with_reducible rfl | with_reducible apply keepsN_next | exact keepsN_fault _
    | exact keepsN_refused _ | with_reducible apply keeps_onLampSame | with_reducible apply keeps_markerAt
    | with_reducible apply keepsN_ite | with_reducible apply keeps_ite | exact ⟨rfl, rfl, rfl, rfl⟩ | dsimp only
    | split | intro _ | unfold LampState.realMarker

theorem keeps_execGeneratedMarker {L : Touch} {s0 s : State} (m : MarkerIn) (hk : Keeps L s0 s) (hclock : L.clock := by assumption) (hlamp : L.lamp := by assumption) (hcyc : L.cyc := by assumption) (hlink : L.link := by assumption) (hfault : L.fault := by assumption) (hintake : L.intake := by assumption) (hmedia : L.media := by assumption) (hplace : L.place := by assumption) (hjournal : L.journal := by assumption) (hhost : L.host := by assumption) (hhealth : L.health := by assumption) : KeepsN L s0 (execGeneratedMarker m s) := by
  unfold execGeneratedMarker
  repeat' first
    | with_reducible assumption | with_reducible rfl | with_reducible apply keepsN_next | exact keepsN_fault _
    | exact keepsN_refused _ | with_reducible apply keeps_markerAt | with_reducible apply keepsN_ite
    | with_reducible apply keeps_ite | dsimp only | split | intro _

theorem keeps_execAcquireSynthMarker {L : Touch} {s0 s : State} (m : MarkerIn) (hk : Keeps L s0 s) (hclock : L.clock := by assumption) (hlamp : L.lamp := by assumption) (hcyc : L.cyc := by assumption) (hlink : L.link := by assumption) (hfault : L.fault := by assumption) (hintake : L.intake := by assumption) (hmedia : L.media := by assumption) (hplace : L.place := by assumption) (hjournal : L.journal := by assumption) (hhost : L.host := by assumption) (hhealth : L.health := by assumption) : KeepsN L s0 (execAcquireSynthMarker m s) := by
  unfold execAcquireSynthMarker
  repeat' first
    | with_reducible assumption | with_reducible rfl | with_reducible apply keepsN_next | exact keepsN_fault _
    | exact keepsN_refused _ | with_reducible apply keeps_markerAt | with_reducible apply keepsN_ite
    | with_reducible apply keeps_ite | dsimp only | split | intro _

theorem keeps_execFlywheelSynthMarker {L : Touch} {s0 s : State} (m : MarkerIn) (hk : Keeps L s0 s) (hclock : L.clock := by assumption) (hlamp : L.lamp := by assumption) (hcyc : L.cyc := by assumption) (hlink : L.link := by assumption) (hfault : L.fault := by assumption) (hintake : L.intake := by assumption) (hmedia : L.media := by assumption) (hplace : L.place := by assumption) (hjournal : L.journal := by assumption) (hhost : L.host := by assumption) (hhealth : L.health := by assumption) : KeepsN L s0 (execFlywheelSynthMarker m s) := by
  unfold execFlywheelSynthMarker
  repeat' first
    | with_reducible assumption | with_reducible rfl | with_reducible apply keepsN_next | exact keepsN_fault _
    | exact keepsN_refused _ | with_reducible apply keeps_flywheel | with_reducible apply keepsN_ite
    | with_reducible apply keeps_ite | dsimp only | split | intro _

theorem keeps_execTickLimitMarker {L : Touch} {s0 s : State} (m : MarkerIn) (hk : Keeps L s0 s) (hclock : L.clock := by assumption) (hlamp : L.lamp := by assumption) (hcyc : L.cyc := by assumption) (hlink : L.link := by assumption) (hfault : L.fault := by assumption) (hintake : L.intake := by assumption) (hmedia : L.media := by assumption) (hplace : L.place := by assumption) (hjournal : L.journal := by assumption) (hhost : L.host := by assumption) (hhealth : L.health := by assumption) : KeepsN L s0 (execTickLimitMarker m s) := by
  unfold execTickLimitMarker
  repeat' first
    | with_reducible assumption | with_reducible rfl | with_reducible apply keepsN_next | exact keepsN_fault _
    | exact keepsN_refused _ | with_reducible apply keeps_markerAt | with_reducible apply keeps_flywheel
    | with_reducible apply keepsN_ite | with_reducible apply keeps_ite | dsimp only | split | intro _

theorem keeps_execTickLost {L : Touch} {s0 s : State} (pos : Nat) (edges : Nat) (spanClocks : Nat) (hk : Keeps L s0 s) (hlamp : L.lamp := by assumption) (hlink : L.link := by assumption) (hhost : L.host := by assumption) : KeepsN L s0 (execTickLost pos edges spanClocks s) := by
  unfold execTickLost
  repeat' first
    | with_reducible assumption | with_reducible rfl | with_reducible apply keepsN_next | exact keepsN_fault _
    | exact keepsN_refused _ | with_reducible apply keeps_onLampSame | with_reducible apply keeps_raise
    | with_reducible apply keepsN_ite | with_reducible apply keeps_ite | exact ⟨rfl, rfl, rfl, rfl⟩ | dsimp only
    | split | intro _

theorem keeps_execWindowOpen {L : Touch} {s0 s : State} (pos : Nat) (hk : Keeps L s0 s) (hlamp : L.lamp := by assumption) : KeepsN L s0 (execWindowOpen pos s) := by
  unfold execWindowOpen
  repeat' first
    | with_reducible assumption | with_reducible rfl | with_reducible apply keepsN_next | exact keepsN_fault _
    | exact keepsN_refused _ | with_reducible apply keeps_onLampSame | with_reducible apply keepsN_ite
    | with_reducible apply keeps_ite | exact ⟨rfl, rfl, rfl, rfl⟩ | dsimp only | split | intro _

theorem keeps_execWindowEnd {L : Touch} {s0 s : State} (pos : Nat) (hk : Keeps L s0 s) (hlamp : L.lamp := by assumption) : KeepsN L s0 (execWindowEnd pos s) := by
  unfold execWindowEnd
  repeat' first
    | with_reducible assumption | with_reducible rfl | with_reducible apply keepsN_next | exact keepsN_fault _
    | exact keepsN_refused _ | with_reducible apply keeps_onLampSame | with_reducible apply keepsN_ite
    | with_reducible apply keeps_ite | exact ⟨rfl, rfl, rfl, rfl⟩ | dsimp only | split | intro _

theorem keeps_execTailGraceExpire {L : Touch} {s0 s : State} (pos : Nat) (hk : Keeps L s0 s) (hlamp : L.lamp := by assumption) (hintake : L.intake := by assumption) (hhealth : L.health := by assumption) : KeepsN L s0 (execTailGraceExpire pos s) := by
  unfold execTailGraceExpire
  repeat' first
    | with_reducible assumption | with_reducible rfl | with_reducible apply keepsN_next | exact keepsN_fault _
    | exact keepsN_refused _ | with_reducible apply keeps_onLampSame | with_reducible apply keeps_forceCloses
    | with_reducible apply keepsN_ite | with_reducible apply keeps_ite | exact ⟨rfl, rfl, rfl, rfl⟩ | dsimp only
    | split | intro _

theorem keeps_execSealStart {L : Touch} {s0 s : State}  (hk : Keeps L s0 s) (hmedia : L.media := by assumption) (hplace : L.place := by assumption) (hjournal : L.journal := by assumption) : KeepsN L s0 (execSealStart s) := by
  unfold execSealStart
  repeat' first
    | with_reducible assumption | with_reducible rfl | with_reducible apply keepsN_next | exact keepsN_fault _
    | exact keepsN_refused _ | with_reducible apply keeps_beginSeal | with_reducible apply keepsN_ite
    | with_reducible apply keeps_ite | dsimp only | split | intro _

theorem keeps_execSealComplete {L : Touch} {s0 s : State}  (hk : Keeps L s0 s) (hlamp : L.lamp := by assumption) (hlink : L.link := by assumption) (hfault : L.fault := by assumption) (hintake : L.intake := by assumption) (hmedia : L.media := by assumption) (hplace : L.place := by assumption) (hjournal : L.journal := by assumption) (hhost : L.host := by assumption) (hhealth : L.health := by assumption) : KeepsN L s0 (execSealComplete s) := by
  unfold execSealComplete
  repeat' first
    | with_reducible assumption | with_reducible rfl | with_reducible apply keepsN_next | exact keepsN_fault _
    | exact keepsN_refused _ | with_reducible apply keeps_submitSealPages | with_reducible apply keeps_spareJournal
    | with_reducible apply keeps_completeSeal | with_reducible apply keeps_healthCheck
    | with_reducible apply keepsN_ite | with_reducible apply keeps_ite | dsimp only | split | intro _

theorem keeps_execApertureWrite {L : Touch} {s0 s : State} (off : BitVec 32) (data : List Byte) (be : BitVec 4) (ep : Bool) (eccBad : Bool) (hk : Keeps L s0 s) (hlink : L.link := by assumption) (hfault : L.fault := by assumption) (hintake : L.intake := by assumption) (hplace : L.place := by assumption) (hhost : L.host := by assumption) (hhealth : L.health := by assumption) : KeepsN L s0 (execApertureWrite off data be ep eccBad s) := by
  unfold execApertureWrite
  repeat' first
    | with_reducible assumption | with_reducible rfl | with_reducible apply keepsN_next | exact keepsN_fault _
    | exact keepsN_refused _ | with_reducible apply keeps_consume | with_reducible apply keeps_assertError
    | with_reducible apply keeps_streamWrite | with_reducible apply keepsN_ite | with_reducible apply keeps_ite
    | with_reducible refine keeps_foldl _ (fun _ _ _ => ?_) _ ?_ | dsimp only | split | intro _

theorem keeps_execCloseDoorbell {L : Touch} {s0 s : State} (stream : BitVec 10) (c : BitVec 64) (hk : Keeps L s0 s) (hintake : L.intake := by assumption) (hhealth : L.health := by assumption) : KeepsN L s0 (execCloseDoorbell stream c s) := by
  unfold execCloseDoorbell
  repeat' first
    | with_reducible assumption | with_reducible rfl | with_reducible apply keepsN_next | exact keepsN_fault _
    | exact keepsN_refused _ | with_reducible apply keeps_consume | with_reducible apply keeps_closeDoorbell
    | with_reducible apply keepsN_ite | with_reducible apply keeps_ite | dsimp only | split | intro _

theorem keeps_execCreditGrant {L : Touch} {s0 s : State}  (hk : Keeps L s0 s) (hlink : L.link := by assumption) (hintake : L.intake := by assumption) (hhost : L.host := by assumption) : KeepsN L s0 (execCreditGrant s) := by
  unfold execCreditGrant
  repeat' first
    | with_reducible assumption | with_reducible rfl | with_reducible apply keepsN_next | exact keepsN_fault _
    | exact keepsN_refused _ | with_reducible apply keeps_advertise | with_reducible apply keeps_onIntake
    | with_reducible apply keeps_watchSpace | with_reducible apply keepsN_ite | with_reducible apply keeps_ite
    | dsimp only | split | intro _

theorem keeps_execEnergyShortfallTimeout {L : Touch} {s0 s : State}  (hk : Keeps L s0 s) (hclock : L.clock := by assumption) (hlink : L.link := by assumption) (hintake : L.intake := by assumption) (hhost : L.host := by assumption) (hhealth : L.health := by assumption) : KeepsN L s0 (execEnergyShortfallTimeout s) := by
  unfold execEnergyShortfallTimeout
  repeat' first
    | with_reducible assumption | with_reducible rfl | with_reducible apply keepsN_next | exact keepsN_fault _
    | exact keepsN_refused _ | with_reducible apply keeps_onIntake | with_reducible apply keeps_wtUpdate
    | with_reducible apply keepsN_ite | with_reducible apply keeps_ite | dsimp only | split | intro _

theorem keeps_execWtFlushStart {L : Touch} {s0 s : State}  (hk : Keeps L s0 s) (hintake : L.intake := by assumption) (hmedia : L.media := by assumption) (hplace : L.place := by assumption) : KeepsN L s0 (execWtFlushStart s) := by
  unfold execWtFlushStart
  repeat' first
    | with_reducible assumption | with_reducible rfl | with_reducible apply keepsN_next | exact keepsN_fault _
    | exact keepsN_refused _ | with_reducible apply keeps_trigger | with_reducible apply keeps_startFlush
    | with_reducible apply keepsN_ite | with_reducible apply keeps_ite | dsimp only | split | intro _

theorem keeps_execAnchorPairWrite {L : Touch} {s0 s : State} (aged : Bool) (waited : Bool) (failA : Nat) (failB : Nat) (slotsBlank : Bool) (hk : Keeps L s0 s) (hfault : L.fault := by assumption) (hjournal : L.journal := by assumption) (hwick : L.wick := by assumption) : KeepsN L s0 (execAnchorPairWrite aged waited failA failB slotsBlank s) := by
  unfold execAnchorPairWrite
  repeat' first
    | with_reducible assumption | with_reducible rfl | with_reducible apply keepsN_next | exact keepsN_fault _
    | exact keepsN_refused _ | with_reducible apply keeps_failCopies | with_reducible apply keeps_programPair
    | with_reducible apply keeps_onWick | with_reducible apply keepsN_ite | with_reducible apply keeps_ite
    | dsimp only | split | intro _

theorem keeps_execKilnBatch {L : Touch} {s0 s : State} (m : MoveIn) (hk : Keeps L s0 s) (hlink : L.link := by assumption) (hfault : L.fault := by assumption) (hmedia : L.media := by assumption) (hplace : L.place := by assumption) (hhost : L.host := by assumption) (hhealth : L.health := by assumption) : KeepsN L s0 (execKilnBatch m s) := by
  unfold execKilnBatch
  repeat' first
    | with_reducible assumption | with_reducible rfl | with_reducible apply keepsN_next | exact keepsN_fault _
    | exact keepsN_refused _ | with_reducible apply keeps_verifyMoves | with_reducible apply keeps_moveBatch
    | with_reducible apply keeps_copyBatch | with_reducible apply keeps_stagingCheck | with_reducible apply keepsN_ite
    | with_reducible apply keeps_ite | dsimp only | split | intro _

theorem keeps_execSpargeCopy {L : Touch} {s0 s : State} (band : BitVec 24) (m : MoveIn) (hk : Keeps L s0 s) (hfault : L.fault := by assumption) (hmedia : L.media := by assumption) (hplace : L.place := by assumption) (hhealth : L.health := by assumption) : KeepsN L s0 (execSpargeCopy band m s) := by
  unfold execSpargeCopy
  repeat' first
    | with_reducible assumption | with_reducible rfl | with_reducible apply keepsN_next | exact keepsN_fault _
    | exact keepsN_refused _ | with_reducible apply keeps_verifyMoves | with_reducible apply keeps_moveBatch
    | with_reducible apply keeps_copyBatch | with_reducible apply keeps_markPages | with_reducible apply keepsN_ite
    | with_reducible apply keeps_ite | dsimp only | split | intro _

theorem keeps_execRefreshRewrite {L : Touch} {s0 s : State} (ch : BitVec 5) (band : BitVec 24) (m : MoveIn) (hk : Keeps L s0 s) (hfault : L.fault := by assumption) (hmedia : L.media := by assumption) (hplace : L.place := by assumption) (hhealth : L.health := by assumption) : KeepsN L s0 (execRefreshRewrite ch band m s) := by
  unfold execRefreshRewrite
  dsimp only
  split
  next => exact keepsN_next hk
  next x e =>
    refine keepsN_ite (keepsN_next hk) ?_
    have h1 := keeps_verifyMoves m hk
    generalize State.verifyMoves s m = s1 at h1 ⊢
    exact keepsN_ite (keepsN_next h1) (keepsN_next (keeps_markPages _ (keeps_rewriteBatch _ _ _ _ h1)))

theorem keeps_execRefreshUrgentAge {L : Touch} {s0 s : State} (ch : BitVec 5) (band : BitVec 24) (hk : Keeps L s0 s) (hmedia : L.media := by assumption) : KeepsN L s0 (execRefreshUrgentAge ch band s) := by
  unfold execRefreshUrgentAge
  repeat' first
    | with_reducible assumption | with_reducible rfl | with_reducible apply keepsN_next | exact keepsN_fault _
    | exact keepsN_refused _ | with_reducible apply keeps_onMedia | with_reducible apply keepsN_ite
    | with_reducible apply keeps_ite | dsimp only | split | intro _

theorem keeps_execRebuild {L : Touch} {s0 s : State} (ch : BitVec 5) (m : MoveIn) (hk : Keeps L s0 s) (hfault : L.fault := by assumption) (hmedia : L.media := by assumption) (hplace : L.place := by assumption) (hhealth : L.health := by assumption) : KeepsN L s0 (execRebuild ch m s) := by
  unfold execRebuild
  split
  next => exact keepsN_next hk
  next x e =>
    refine keepsN_ite (keepsN_next hk) ?_
    have h1 := keeps_verifyMoves m hk
    dsimp only
    generalize State.verifyMoves s m = s1 at h1 ⊢
    have h2 := keeps_lostRows (s1.toRebuild x) h1
    generalize State.lostRows s1 _ = s2 at h2 ⊢
    exact keepsN_ite (keepsN_next (keeps_onMedia _ (fun _ h => h) h2)) (keepsN_ite (keepsN_next h2)
      (keepsN_next (keeps_markPages _ (keeps_rewriteBatch _ _ _ _ h2))))

theorem keeps_execBandRelease {L : Touch} {s0 s : State} (band : BitVec 24) (hk : Keeps L s0 s) (hplace : L.place := by assumption) (hjournal : L.journal := by assumption) : KeepsN L s0 (execBandRelease band s) := by
  unfold execBandRelease
  repeat' first
    | with_reducible assumption | with_reducible rfl | with_reducible apply keepsN_next | exact keepsN_fault _
    | exact keepsN_refused _ | with_reducible apply keeps_freeBand | with_reducible apply keeps_dropJournal
    | with_reducible apply keepsN_ite | with_reducible apply keeps_ite | dsimp only | split | intro _

theorem keeps_execPiecePlacement {L : Touch} {s0 s : State} (stream : BitVec 10) (hk : Keeps L s0 s) (hmedia : L.media := by assumption) (hplace : L.place := by assumption) : KeepsN L s0 (execPiecePlacement stream s) := by
  unfold execPiecePlacement
  repeat' first
    | with_reducible assumption | with_reducible rfl | with_reducible apply keepsN_next | exact keepsN_fault _
    | exact keepsN_refused _ | with_reducible apply keeps_placeHeld | with_reducible apply keeps_sealUnits
    | with_reducible apply keepsN_ite | with_reducible apply keeps_ite | dsimp only | split | intro _

theorem keeps_execRunPageWrite {L : Touch} {s0 s : State}  (hk : Keeps L s0 s) (hmedia : L.media := by assumption) (hplace : L.place := by assumption) : KeepsN L s0 (execRunPageWrite s) := by
  unfold execRunPageWrite
  repeat' first
    | with_reducible assumption | with_reducible rfl | with_reducible apply keepsN_next | exact keepsN_fault _
    | exact keepsN_refused _ | with_reducible apply keeps_formRunPage | with_reducible apply keepsN_ite
    | with_reducible apply keeps_ite | dsimp only | split | intro _

theorem keeps_execJournalTailCommit {L : Touch} {s0 s : State}  (hk : Keeps L s0 s) (hmedia : L.media := by assumption) (hplace : L.place := by assumption) (hjournal : L.journal := by assumption) : KeepsN L s0 (execJournalTailCommit s) := by
  unfold execJournalTailCommit
  repeat' first
    | with_reducible assumption | with_reducible rfl | with_reducible apply keepsN_next | exact keepsN_fault _
    | exact keepsN_refused _ | with_reducible apply keeps_commitTail | with_reducible apply keepsN_ite
    | with_reducible apply keeps_ite | dsimp only | split | intro _

theorem keeps_execGristMiss {L : Touch} {s0 s : State} (page : BitVec 32) (hk : Keeps L s0 s) (hmedia : L.media := by assumption) (hplace : L.place := by assumption) (hhost : L.host := by assumption) : KeepsN L s0 (execGristMiss page s) := by
  unfold execGristMiss
  repeat' first
    | with_reducible assumption | with_reducible rfl | with_reducible apply keepsN_next | exact keepsN_fault _
    | exact keepsN_refused _ | with_reducible apply keeps_gristMiss | with_reducible apply keeps_makeRoom
    | with_reducible apply keepsN_ite | with_reducible apply keeps_ite | dsimp only | split | intro _
    | refine keepsO_out (keeps_gristMiss _ ?_) (by assumption)

theorem keeps_execCellarPageFetched {L : Touch} {s0 s : State} (page : BitVec 32) (r : HostRead) (hk : Keeps L s0 s) (hlink : L.link := by assumption) (hplace : L.place := by assumption) (hhost : L.host := by assumption) (hhealth : L.health := by assumption) : KeepsN L s0 (execCellarPageFetched page r s) := by
  unfold execCellarPageFetched
  repeat' first
    | with_reducible assumption | with_reducible rfl | with_reducible apply keepsN_next | exact keepsN_fault _
    | exact keepsN_refused _ | with_reducible apply keeps_onPlace | with_reducible apply keeps_cellarFail
    | with_reducible apply keepsN_ite | with_reducible apply keeps_ite | exact twf_tset _ _ _ _ | dsimp only | split
    | intro _

theorem keeps_execSnuffBandCheck {L : Touch} {s0 s : State} (firstErased : Bool) (secondErased : Bool) (hk : Keeps L s0 s) (hmedia : L.media := by assumption) (hplace : L.place := by assumption) : KeepsN L s0 (execSnuffBandCheck firstErased secondErased s) := by
  unfold execSnuffBandCheck
  repeat' first
    | with_reducible assumption | with_reducible rfl | with_reducible apply keepsN_next | exact keepsN_fault _
    | exact keepsN_refused _ | with_reducible apply keeps_checkSnuff | with_reducible apply keepsN_ite
    | with_reducible apply keeps_ite | dsimp only | split | intro _

theorem keeps_execMediaDiscovery {L : Touch} {s0 s : State} (d : DiscoveryIn) (hk : Keeps L s0 s) (hlink : L.link := by assumption) (hfault : L.fault := by assumption) (hmedia : L.media := by assumption) (hplace : L.place := by assumption) (hhealth : L.health := by assumption) (hdraws : L.draws := by assumption) : KeepsN L s0 (execMediaDiscovery d s) := by
  unfold execMediaDiscovery
  refine keepsN_ite (keepsN_next hk) ?_
  dsimp only
  have h1 : Keeps L s0 ((List.range 32).foldl (fun t ch => t.modChan ch Channel.discover) s) :=
    keeps_foldl _ (fun _ _ h => keeps_modChan _ _ h) _ hk
  generalize (List.range 32).foldl (fun t ch => State.modChan t ch Channel.discover) s = s1 at h1 ⊢
  have h2 := keeps_onMedia (fun x => { x with profile := magProfile d.table (s1.operated d) }) (fun _ h => h) h1
  generalize State.onMedia s1 _ = s2 at h2 ⊢
  exact keepsN_next (keeps_onLink _ (keeps_foldl _ (fun _ _ h => keeps_endTraining _ _ h) _ (keeps_countGood
    (keeps_draws _ (keeps_foldl _ (fun _ _ h => keeps_modChan _ _ h) _ h2)))))

theorem keeps_execChannelTraining {L : Touch} {s0 s : State} (ch : BitVec 5) (pass : BitVec 4) (hk : Keeps L s0 s) (hfault : L.fault := by assumption) (hmedia : L.media := by assumption) (hplace : L.place := by assumption) (hhealth : L.health := by assumption) : KeepsN L s0 (execChannelTraining ch pass s) := by
  unfold execChannelTraining
  repeat' first
    | with_reducible assumption | with_reducible rfl | with_reducible apply keepsN_next | exact keepsN_fault _
    | exact keepsN_refused _ | with_reducible apply keeps_endTraining | with_reducible apply keepsN_ite
    | with_reducible apply keeps_ite | dsimp only | split | intro _

theorem keeps_execZqCalibrationShort {L : Touch} {s0 s : State} (ch : BitVec 5) (hk : Keeps L s0 s) (hmedia : L.media := by assumption) : KeepsN L s0 (execZqCalibrationShort ch s) := by
  unfold execZqCalibrationShort
  repeat' first
    | with_reducible assumption | with_reducible rfl | with_reducible apply keepsN_next | exact keepsN_fault _
    | exact keepsN_refused _ | with_reducible apply keeps_modChan | with_reducible apply keepsN_ite
    | with_reducible apply keeps_ite | dsimp only | split | intro _

theorem keeps_execRetrainCheck {L : Touch} {s0 s : State} (ch : BitVec 5) (pass : Bool) (hk : Keeps L s0 s) (hfault : L.fault := by assumption) (hmedia : L.media := by assumption) : KeepsN L s0 (execRetrainCheck ch pass s) := by
  unfold execRetrainCheck
  repeat' first
    | with_reducible assumption | with_reducible rfl | with_reducible apply keepsN_next | exact keepsN_fault _
    | exact keepsN_refused _ | with_reducible apply keeps_busCheck | with_reducible apply keepsN_ite
    | with_reducible apply keeps_ite | dsimp only | split | intro _

theorem keeps_execTempRetrain {L : Touch} {s0 s : State} (ch : BitVec 5) (elapsedS : Nat) (hk : Keeps L s0 s) (hmedia : L.media := by assumption) : KeepsN L s0 (execTempRetrain ch elapsedS s) := by
  unfold execTempRetrain
  repeat' first
    | with_reducible assumption | with_reducible rfl | with_reducible apply keepsN_next | exact keepsN_fault _
    | exact keepsN_refused _ | with_reducible apply keeps_modChan | with_reducible apply keepsN_ite
    | with_reducible apply keeps_ite | dsimp only | split | intro _

theorem keeps_execChannelRetrain {L : Touch} {s0 s : State} (ch : BitVec 5) (pass : Bool) (hk : Keeps L s0 s) (hfault : L.fault := by assumption) (hmedia : L.media := by assumption) (hplace : L.place := by assumption) (hhealth : L.health := by assumption) : KeepsN L s0 (execChannelRetrain ch pass s) := by
  unfold execChannelRetrain
  repeat' first
    | with_reducible assumption | with_reducible rfl | with_reducible apply keepsN_next | exact keepsN_fault _
    | exact keepsN_refused _ | with_reducible apply keeps_modChan | with_reducible apply keeps_failChannel
    | with_reducible apply keepsN_ite | with_reducible apply keeps_ite | dsimp only | split | intro _

theorem keeps_execDescriptorStart {L : Touch} {s0 s : State} (ch : BitVec 5) (subs : List MDesc) (slot : BitVec 8) (eccBad : Bool) (hk : Keeps L s0 s) (hfault : L.fault := by assumption) (hmedia : L.media := by assumption) : KeepsN L s0 (execDescriptorStart ch subs slot eccBad s) := by
  unfold execDescriptorStart
  repeat' first
    | with_reducible assumption | with_reducible rfl | with_reducible apply keepsN_next | exact keepsN_fault _
    | exact keepsN_refused _ | with_reducible apply keeps_submit | with_reducible apply keeps_takeAll
    | with_reducible apply keeps_resumeErases | with_reducible apply keeps_queueEcc
    | with_reducible apply keeps_startDesc | with_reducible apply keepsN_ite | with_reducible apply keeps_ite
    | with_reducible refine keeps_foldl _ (fun _ _ _ => ?_) _ ?_ | dsimp only | split | intro _

theorem keeps_execTokenWaitAge {L : Touch} {s0 s : State} (ch : BitVec 5) (slot : BitVec 8) (hk : Keeps L s0 s) (hmedia : L.media := by assumption) : KeepsN L s0 (execTokenWaitAge ch slot s) := by
  unfold execTokenWaitAge
  repeat' first
    | with_reducible assumption | with_reducible rfl | with_reducible apply keepsN_next | exact keepsN_fault _
    | exact keepsN_refused _ | with_reducible apply keeps_modChan | with_reducible apply keepsN_ite
    | with_reducible apply keeps_ite | dsimp only | split | intro _

theorem keeps_execMediaProgram {L : Touch} {s0 s : State} (ch : BitVec 5) (slot : BitVec 8) (notErased : List (BitVec 5)) (failed : Bool) (hk : Keeps L s0 s) (hmedia : L.media := by assumption) (hplace : L.place := by assumption) : KeepsN L s0 (execMediaProgram ch slot notErased failed s) := by
  unfold execMediaProgram
  repeat' first
    | with_reducible assumption | with_reducible rfl | with_reducible apply keepsN_next | exact keepsN_fault _
    | exact keepsN_refused _ | with_reducible apply keeps_checkBand | with_reducible apply keeps_unstart
    | with_reducible apply keeps_accUnit | with_reducible apply keeps_setStatus | with_reducible apply keepsN_ite
    | with_reducible apply keeps_ite | dsimp only | split | intro _

theorem keeps_execMediaParity {L : Touch} {s0 s : State} (ch : BitVec 5) (slot : BitVec 8) (failed : Bool) (hk : Keeps L s0 s) (hmedia : L.media := by assumption) : KeepsN L s0 (execMediaParity ch slot failed s) := by
  unfold execMediaParity
  repeat' first
    | with_reducible assumption | with_reducible rfl | with_reducible apply keepsN_next | exact keepsN_fault _
    | exact keepsN_refused _ | with_reducible apply keeps_setStatus | with_reducible apply keepsN_ite
    | with_reducible apply keeps_ite | dsimp only | split | intro _

theorem keeps_execMediaErase {L : Touch} {s0 s : State} (ch : BitVec 5) (slot : BitVec 8) (failed : Bool) (hk : Keeps L s0 s) (hmedia : L.media := by assumption) : KeepsN L s0 (execMediaErase ch slot failed s) := by
  unfold execMediaErase
  repeat' first
    | with_reducible assumption | with_reducible rfl | with_reducible apply keepsN_next | exact keepsN_fault _
    | exact keepsN_refused _ | with_reducible apply keeps_trigger | with_reducible apply keeps_setStatus
    | with_reducible apply keeps_wearBlock | with_reducible apply keepsN_ite | with_reducible apply keeps_ite
    | dsimp only | split | intro _

theorem keeps_execMarkRead {L : Touch} {s0 s : State} (ch : BitVec 5) (slot : BitVec 8) (marked : Bool) (hk : Keeps L s0 s) (hmedia : L.media := by assumption) : KeepsN L s0 (execMarkRead ch slot marked s) := by
  unfold execMarkRead
  repeat' first
    | with_reducible assumption | with_reducible rfl | with_reducible apply keepsN_next | exact keepsN_fault _
    | exact keepsN_refused _ | with_reducible apply keeps_setStatus | with_reducible apply keepsN_ite
    | with_reducible apply keeps_ite | dsimp only | split | intro _

theorem keeps_execFeature {L : Touch} {s0 s : State} (ch : BitVec 5) (slot : BitVec 8) (hk : Keeps L s0 s) (hmedia : L.media := by assumption) (hdraws : L.draws := by assumption) : KeepsN L s0 (execFeature ch slot s) := by
  unfold execFeature
  repeat' first
    | with_reducible assumption | with_reducible rfl | with_reducible apply keepsN_next | exact keepsN_fault _
    | exact keepsN_refused _ | with_reducible apply keeps_modChan | with_reducible apply keeps_setStatus
    | with_reducible apply keeps_draws | with_reducible apply keepsN_ite | with_reducible apply keeps_ite
    | exact twf_tset _ _ _ _ | dsimp only | split | intro _

theorem keeps_execResetDie {L : Touch} {s0 s : State} (ch : BitVec 5) (slot : BitVec 8) (idMatches : Bool) (hk : Keeps L s0 s) (hfault : L.fault := by assumption) (hmedia : L.media := by assumption) (hplace : L.place := by assumption) (hhealth : L.health := by assumption) (hdraws : L.draws := by assumption) : KeepsN L s0 (execResetDie ch slot idMatches s) := by
  unfold execResetDie
  repeat' first
    | with_reducible assumption | with_reducible rfl | with_reducible apply keepsN_next | exact keepsN_fault _
    | exact keepsN_refused _ | with_reducible apply keeps_setStatus | with_reducible apply keeps_failDie
    | with_reducible apply keeps_checkChannel | with_reducible apply keeps_draws | with_reducible apply keepsN_ite
    | with_reducible apply keeps_ite | dsimp only | split | intro _

theorem keeps_execDieTimeout {L : Touch} {s0 s : State} (ch : BitVec 5) (slot : BitVec 8) (readyAgain : Bool) (idMatches : Bool) (inSecond : Bool) (hk : Keeps L s0 s) (hfault : L.fault := by assumption) (hmedia : L.media := by assumption) (hplace : L.place := by assumption) (hhealth : L.health := by assumption) : KeepsN L s0 (execDieTimeout ch slot readyAgain idMatches inSecond s) := by
  unfold execDieTimeout
  repeat' first
    | with_reducible assumption | with_reducible rfl | with_reducible apply keepsN_next | exact keepsN_fault _
    | exact keepsN_refused _ | with_reducible apply keeps_setStatus | with_reducible apply keeps_modChan
    | with_reducible apply keeps_count32 | with_reducible apply keeps_failDie
    | with_reducible apply keeps_checkChannel | with_reducible apply keeps_busCheck | with_reducible apply keepsN_ite
    | with_reducible apply keeps_ite | dsimp only | split | intro _

theorem keeps_execMediaRead {L : Touch} {s0 s : State} (ch : BitVec 5) (slot : BitVec 8) (r : ReadIn) (hk : Keeps L s0 s) (hlink : L.link := by assumption) (hfault : L.fault := by assumption) (hmedia : L.media := by assumption) (hplace : L.place := by assumption) (hhost : L.host := by assumption) (hhealth : L.health := by assumption) : KeepsN L s0 (execMediaRead ch slot r s) := by
  unfold execMediaRead
  repeat' first
    | with_reducible assumption | with_reducible rfl | with_reducible apply keepsN_next | exact keepsN_fault _
    | exact keepsN_refused _ | with_reducible apply keeps_trigger | with_reducible apply keeps_setStatus
    | with_reducible apply keeps_setChan | with_reducible apply keeps_endRead | with_reducible apply keeps_healthCheck
    | with_reducible apply keepsN_ite | with_reducible apply keeps_ite | exact twf_tset _ _ _ _ | dsimp only | split
    | intro _

theorem keeps_execDescriptorComplete {L : Touch} {s0 s : State} (ch : BitVec 5) (slot : BitVec 8) (e : DieEnd) (hk : Keeps L s0 s) (hlink : L.link := by assumption) (hfault : L.fault := by assumption) (hmedia : L.media := by assumption) (hplace : L.place := by assumption) (hhost : L.host := by assumption) (hhealth : L.health := by assumption) : KeepsN L s0 (execDescriptorComplete ch slot e s) := by
  unfold execDescriptorComplete
  repeat' first
    | with_reducible assumption | with_reducible rfl | with_reducible apply keepsN_next | exact keepsN_fault _
    | exact keepsN_refused _ | with_reducible apply keeps_modChan | with_reducible apply keeps_afterDesc
    | with_reducible apply keeps_takeDone | with_reducible apply keeps_resumeErases
    | with_reducible apply keeps_stagingCheck | with_reducible apply keeps_healthCheck
    | with_reducible apply keepsN_ite | with_reducible apply keeps_ite | dsimp only | split | intro _

theorem keeps_execScrubVisit {L : Touch} {s0 s : State} (ch : BitVec 5) (band : BitVec 24) (last : ReadIn) (further : ReadIn) (hk : Keeps L s0 s) (hlink : L.link := by assumption) (hmedia : L.media := by assumption) (hhost : L.host := by assumption) (hhealth : L.health := by assumption) : KeepsN L s0 (execScrubVisit ch band last further s) := by
  unfold execScrubVisit
  repeat' first
    | with_reducible assumption | with_reducible rfl | with_reducible apply keepsN_next | exact keepsN_fault _
    | exact keepsN_refused _ | with_reducible apply keeps_trigger | with_reducible apply keeps_scrubRead
    | with_reducible apply keeps_onMedia | with_reducible apply keeps_endScrub | with_reducible apply keepsN_ite
    | with_reducible apply keeps_ite | exact twf_tset _ _ _ _ | dsimp only | split | intro _

theorem keeps_execRailUv {L : Touch} {s0 s : State} (r : Rail) (below : Bool) (hk : Keeps L s0 s) (hfault : L.fault := by assumption) (hpower : L.power := by assumption) : KeepsN L s0 (execRailUv r below s) := by
  unfold execRailUv
  repeat' first
    | with_reducible assumption | with_reducible rfl | with_reducible apply keepsN_next | exact keepsN_fault _
    | exact keepsN_refused _ | with_reducible apply keeps_setRail | with_reducible apply keeps_holdCause
    | with_reducible apply keeps_dropCauseAt | with_reducible apply keepsN_ite | with_reducible apply keeps_ite
    | dsimp only | split | intro _

theorem keeps_execRailOv {L : Touch} {s0 s : State} (r : Rail) (hk : Keeps L s0 s) (hfault : L.fault := by assumption) (hpower : L.power := by assumption) : KeepsN L s0 (execRailOv r s) := by
  unfold execRailOv
  repeat' first
    | with_reducible assumption | with_reducible rfl | with_reducible apply keepsN_next | exact keepsN_fault _
    | exact keepsN_refused _ | with_reducible apply keeps_setRail | with_reducible apply keeps_assertError
    | with_reducible apply keepsN_ite | with_reducible apply keeps_ite | dsimp only | split | intro _

theorem keeps_execRailOc {L : Touch} {s0 s : State} (r : Rail) (beyond : Bool) (hk : Keeps L s0 s) (hfault : L.fault := by assumption) (hpower : L.power := by assumption) : KeepsN L s0 (execRailOc r beyond s) := by
  unfold execRailOc
  repeat' first
    | with_reducible assumption | with_reducible rfl | with_reducible apply keepsN_next | exact keepsN_fault _
    | exact keepsN_refused _ | with_reducible apply keeps_setRail | with_reducible apply keeps_holdCause
    | with_reducible apply keeps_dropCauseAt | with_reducible apply keepsN_ite | with_reducible apply keeps_ite
    | dsimp only | split | intro _

theorem keeps_execChargeTimeout {L : Touch} {s0 s : State} (vbankMv : Nat) (hk : Keeps L s0 s) (hfault : L.fault := by assumption) (hpower : L.power := by assumption) : KeepsN L s0 (execChargeTimeout vbankMv s) := by
  unfold execChargeTimeout
  repeat' first
    | with_reducible assumption | with_reducible rfl | with_reducible apply keepsN_next | exact keepsN_fault _
    | exact keepsN_refused _ | with_reducible apply keeps_onPower | with_reducible apply keeps_holdCause
    | with_reducible apply keepsN_ite | with_reducible apply keeps_ite | dsimp only | split | intro _

theorem keeps_execTempSample {L : Touch} {s0 s : State} (ctrl0 : Int) (ctrl1 : Int) (ctrl2 : Int) (ctrl3 : Int) (pwr : Int) (wick : Int) (hk : Keeps L s0 s) (hfault : L.fault := by assumption) (hpower : L.power := by assumption) : KeepsN L s0 (execTempSample ctrl0 ctrl1 ctrl2 ctrl3 pwr wick s) := by
  unfold execTempSample
  repeat' first
    | with_reducible assumption | with_reducible rfl | with_reducible apply keepsN_next | exact keepsN_fault _
    | exact keepsN_refused _ | with_reducible apply keeps_restart | with_reducible apply keeps_onPower
    | with_reducible apply keeps_assertError | with_reducible apply keepsN_ite | with_reducible apply keeps_ite
    | dsimp only | split | intro _ | unfold LampState.restart

theorem keeps_execThermalLimitRecompute {L : Touch} {s0 s : State} (higherForMs : Nat) (hk : Keeps L s0 s) (hpower : L.power := by assumption) : KeepsN L s0 (execThermalLimitRecompute higherForMs s) := by
  unfold execThermalLimitRecompute
  repeat' first
    | with_reducible assumption | with_reducible rfl | with_reducible apply keepsN_next | exact keepsN_fault _
    | exact keepsN_refused _ | with_reducible apply keeps_onPower | with_reducible apply keepsN_ite
    | with_reducible apply keeps_ite | dsimp only | split | intro _

theorem keeps_execHealthMinute {L : Touch} {s0 s : State}  (hk : Keeps L s0 s) (hhealth : L.health := by assumption) : KeepsN L s0 (execHealthMinute s) := by
  unfold execHealthMinute
  repeat' first
    | with_reducible assumption | with_reducible rfl | with_reducible apply keepsN_next | exact keepsN_fault _
    | exact keepsN_refused _ | with_reducible apply keeps_count32 | with_reducible apply keeps_tempWord
    | with_reducible apply keeps_onHealth | with_reducible apply keepsN_ite | with_reducible apply keeps_ite
    | dsimp only | split | intro _

theorem keeps_execGaugeMeasurement {L : Touch} {s0 s : State}  (hk : Keeps L s0 s) (hpower : L.power := by assumption) : KeepsN L s0 (execGaugeMeasurement s) := by
  unfold execGaugeMeasurement
  repeat' first
    | with_reducible assumption | with_reducible rfl | with_reducible apply keepsN_next | exact keepsN_fault _
    | exact keepsN_refused _ | with_reducible apply keeps_gaugeStart | with_reducible apply keepsN_ite
    | with_reducible apply keeps_ite | dsimp only | split | intro _

theorem keeps_execGaugeDeferFail {L : Touch} {s0 s : State}  (hk : Keeps L s0 s) (hclock : L.clock := by assumption) (hlink : L.link := by assumption) (hfault : L.fault := by assumption) (hintake : L.intake := by assumption) (hhost : L.host := by assumption) (hpower : L.power := by assumption) (hhealth : L.health := by assumption) : KeepsN L s0 (execGaugeDeferFail s) := by
  unfold execGaugeDeferFail
  repeat' first
    | with_reducible assumption | with_reducible rfl | with_reducible apply keepsN_next | exact keepsN_fault _
    | exact keepsN_refused _ | with_reducible apply keeps_gaugeFails | with_reducible apply keepsN_ite
    | with_reducible apply keeps_ite | dsimp only | split | intro _

theorem keeps_execGaugeMeasurementDone {L : Touch} {s0 s : State} (v0 : Nat) (v1 : Nat) (v2 : Nat) (hk : Keeps L s0 s) (hclock : L.clock := by assumption) (hlink : L.link := by assumption) (hfault : L.fault := by assumption) (hintake : L.intake := by assumption) (hhost : L.host := by assumption) (hpower : L.power := by assumption) (hhealth : L.health := by assumption) : KeepsN L s0 (execGaugeMeasurementDone v0 v1 v2 s) := by
  unfold execGaugeMeasurementDone
  repeat' first
    | with_reducible assumption | with_reducible rfl | with_reducible apply keepsN_next | exact keepsN_fault _
    | exact keepsN_refused _ | with_reducible apply keeps_gaugeFails | with_reducible apply keeps_gaugePasses
    | with_reducible apply keepsN_ite | with_reducible apply keeps_ite | dsimp only | split | intro _

theorem keeps_execEnergyAvailUpdate {L : Touch} {s0 s : State} (vbankMv : Nat) (hk : Keeps L s0 s) (hclock : L.clock := by assumption) (hlink : L.link := by assumption) (hfault : L.fault := by assumption) (hintake : L.intake := by assumption) (hhost : L.host := by assumption) (hpower : L.power := by assumption) (hhealth : L.health := by assumption) : KeepsN L s0 (execEnergyAvailUpdate vbankMv s) := by
  unfold execEnergyAvailUpdate
  repeat' first
    | with_reducible assumption | with_reducible rfl | with_reducible apply keepsN_next | exact keepsN_fault _
    | exact keepsN_refused _ | with_reducible apply keeps_onPower | with_reducible apply keeps_dropCause
    | with_reducible apply keeps_onIntake | with_reducible apply keeps_wtUpdate | with_reducible apply keepsN_ite
    | with_reducible apply keeps_ite | dsimp only | split | intro _

theorem keeps_execRemovalDetect {L : Touch} {s0 s : State} (pos : Nat) (hk : Keeps L s0 s) (hclock : L.clock := by assumption) (hlamp : L.lamp := by assumption) (hlink : L.link := by assumption) (hfault : L.fault := by assumption) (hintake : L.intake := by assumption) (hmedia : L.media := by assumption) (hplace : L.place := by assumption) (hjournal : L.journal := by assumption) (hhost : L.host := by assumption) (hpower : L.power := by assumption) (hsnuff : L.snuff := by assumption) (hwick : L.wick := by assumption) (hmem : L.mem := by assumption) (hhealth : L.health := by assumption) : KeepsN L s0 (execRemovalDetect pos s) := by
  unfold execRemovalDetect
  repeat' first
    | with_reducible assumption | with_reducible rfl | with_reducible apply keepsN_next | exact keepsN_fault _
    | exact keepsN_refused _ | with_reducible apply keeps_atTick | with_reducible apply keeps_onPower
    | with_reducible apply keeps_trigger | with_reducible apply keeps_armVin | with_reducible apply keepsN_ite
    | with_reducible apply keeps_ite | dsimp only | split | intro _

theorem keeps_execPresentLowQualify {L : Touch} {s0 s : State}  (hk : Keeps L s0 s) (hpower : L.power := by assumption) : KeepsN L s0 (execPresentLowQualify s) := by
  unfold execPresentLowQualify
  repeat' first
    | with_reducible assumption | with_reducible rfl | with_reducible apply keepsN_next | exact keepsN_fault _
    | exact keepsN_refused _ | with_reducible apply keeps_onPower | with_reducible apply keepsN_ite
    | with_reducible apply keeps_ite | dsimp only | split | intro _

theorem keeps_execBrownOut {L : Touch} {s0 s : State} (beyond : Bool) (pos : Nat) (hk : Keeps L s0 s) (hclock : L.clock := by assumption) (hlamp : L.lamp := by assumption) (hlink : L.link := by assumption) (hfault : L.fault := by assumption) (hintake : L.intake := by assumption) (hmedia : L.media := by assumption) (hplace : L.place := by assumption) (hjournal : L.journal := by assumption) (hhost : L.host := by assumption) (hpower : L.power := by assumption) (hsnuff : L.snuff := by assumption) (hwick : L.wick := by assumption) (hmem : L.mem := by assumption) (hhealth : L.health := by assumption) : KeepsN L s0 (execBrownOut beyond pos s) := by
  unfold execBrownOut
  repeat' first
    | with_reducible assumption | with_reducible rfl | with_reducible apply keepsN_next | exact keepsN_fault _
    | exact keepsN_refused _ | with_reducible apply keeps_atTick | with_reducible apply keeps_onPower
    | with_reducible apply keeps_holdCause | with_reducible apply keeps_reportOv | with_reducible apply keeps_trigger
    | with_reducible apply keeps_dropCause | with_reducible apply keeps_armVin | with_reducible apply keepsN_ite
    | with_reducible apply keeps_ite | dsimp only | split | intro _

theorem keeps_execVauxLoss {L : Touch} {s0 s : State}  (hk : Keeps L s0 s) (hclock : L.clock := by assumption) : KeepsN L s0 (execVauxLoss s) := by
  unfold execVauxLoss
  repeat' first
    | with_reducible assumption | with_reducible rfl | with_reducible apply keepsN_next | exact keepsN_fault _
    | exact keepsN_refused _ | with_reducible apply keeps_onClock | with_reducible apply keepsN_ite
    | with_reducible apply keeps_ite | dsimp only | split | intro _

theorem keeps_execBankLowAbort {L : Touch} {s0 s : State}  (hk : Keeps L s0 s) (hclock : L.clock := by assumption) (hlink : L.link := by assumption) (hfault : L.fault := by assumption) (hintake : L.intake := by assumption) (hmedia : L.media := by assumption) (hplace : L.place := by assumption) (hjournal : L.journal := by assumption) (hhost : L.host := by assumption) (hpower : L.power := by assumption) (hsnuff : L.snuff := by assumption) (hwick : L.wick := by assumption) (hmem : L.mem := by assumption) (hhealth : L.health := by assumption) : KeepsN L s0 (execBankLowAbort s) := by
  unfold execBankLowAbort
  repeat' first
    | with_reducible assumption | with_reducible rfl | with_reducible apply keepsN_next | exact keepsN_fault _
    | exact keepsN_refused _ | with_reducible apply keeps_flushAbort | with_reducible apply keepsN_ite
    | with_reducible apply keeps_ite | dsimp only | split | intro _

theorem keeps_execPerstAssert {L : Touch} {s0 s : State}  (hk : Keeps L s0 s) (hclock : L.clock := by assumption) (hintake : L.intake := by assumption) (hhost : L.host := by assumption) : KeepsN L s0 (execPerstAssert s) := by
  unfold execPerstAssert
  repeat' first
    | with_reducible assumption | with_reducible rfl | with_reducible apply keepsN_next | exact keepsN_fault _
    | exact keepsN_refused _ | with_reducible apply keeps_onHost | with_reducible apply keeps_resetSource
    | with_reducible apply keeps_portReset | with_reducible apply keepsN_ite | with_reducible apply keeps_ite
    | dsimp only | split | intro _

theorem keeps_execPerstDeassert {L : Touch} {s0 s : State}  (hk : Keeps L s0 s) (hhost : L.host := by assumption) : KeepsN L s0 (execPerstDeassert s) := by
  unfold execPerstDeassert
  repeat' first
    | with_reducible assumption | with_reducible rfl | with_reducible apply keepsN_next | exact keepsN_fault _
    | exact keepsN_refused _ | with_reducible apply keeps_onHost | with_reducible apply keepsN_ite
    | with_reducible apply keeps_ite | dsimp only | split | intro _

theorem keeps_execDlActive {L : Touch} {s0 s : State}  (hk : Keeps L s0 s) (hfault : L.fault := by assumption) (hhost : L.host := by assumption) : KeepsN L s0 (execDlActive s) := by
  unfold execDlActive
  repeat' first
    | with_reducible assumption | with_reducible rfl | with_reducible apply keepsN_next | exact keepsN_fault _
    | exact keepsN_refused _ | with_reducible apply keeps_onHost | with_reducible apply keeps_dropCause
    | with_reducible apply keeps_sendMarks | with_reducible apply keepsN_ite | with_reducible apply keeps_ite
    | dsimp only | split | intro _

theorem keeps_execTrainFail {L : Touch} {s0 s : State}  (hk : Keeps L s0 s) (hfault : L.fault := by assumption) : KeepsN L s0 (execTrainFail s) := by
  unfold execTrainFail
  repeat' first
    | with_reducible assumption | with_reducible rfl | with_reducible apply keepsN_next | exact keepsN_fault _
    | exact keepsN_refused _ | with_reducible apply keeps_assertError | with_reducible apply keepsN_ite
    | with_reducible apply keeps_ite | dsimp only | split | intro _

theorem keeps_execSurpriseDown {L : Touch} {s0 s : State} (kind : LinkLoss) (hk : Keeps L s0 s) (hfault : L.fault := by assumption) (hintake : L.intake := by assumption) (hhost : L.host := by assumption) (hhealth : L.health := by assumption) : KeepsN L s0 (execSurpriseDown kind s) := by
  unfold execSurpriseDown
  repeat' first
    | with_reducible assumption | with_reducible rfl | with_reducible apply keepsN_next | exact keepsN_fault _
    | exact keepsN_refused _ | with_reducible apply keeps_portReset | with_reducible apply keeps_onHost
    | with_reducible apply keeps_count32 | with_reducible apply keeps_holdCause | with_reducible apply keepsN_ite
    | with_reducible apply keeps_ite | dsimp only | split | intro _

theorem keeps_execFunctionLevelReset {L : Touch} {s0 s : State}  (hk : Keeps L s0 s) (hintake : L.intake := by assumption) (hhost : L.host := by assumption) : KeepsN L s0 (execFunctionLevelReset s) := by
  unfold execFunctionLevelReset
  repeat' first
    | with_reducible assumption | with_reducible rfl | with_reducible apply keepsN_next | exact keepsN_fault _
    | exact keepsN_refused _ | with_reducible apply keeps_functionReset | with_reducible apply keepsN_ite
    | with_reducible apply keeps_ite | dsimp only | split | intro _

theorem keeps_execD3hotEntry {L : Touch} {s0 s : State}  (hk : Keeps L s0 s) (hhost : L.host := by assumption) : KeepsN L s0 (execD3hotEntry s) := by
  unfold execD3hotEntry
  repeat' first
    | with_reducible assumption | with_reducible rfl | with_reducible apply keepsN_next | exact keepsN_fault _
    | exact keepsN_refused _ | with_reducible apply keeps_onHost | with_reducible apply keepsN_ite
    | with_reducible apply keeps_ite | dsimp only | split | intro _

theorem keeps_execD0Return {L : Touch} {s0 s : State}  (hk : Keeps L s0 s) (hhost : L.host := by assumption) : KeepsN L s0 (execD0Return s) := by
  unfold execD0Return
  repeat' first
    | with_reducible assumption | with_reducible rfl | with_reducible apply keepsN_next | exact keepsN_fault _
    | exact keepsN_refused _ | with_reducible apply keeps_onHost | with_reducible apply keeps_sendMarks
    | with_reducible apply keepsN_ite | with_reducible apply keeps_ite | dsimp only | split | intro _

theorem keeps_execConfigWrite {L : Touch} {s0 s : State} (bar0 : BitVec 64) (bar2 : BitVec 64) (mse : Bool) (bme : Bool) (ctl : DevCtl) (mps : Nat) (mrrs : Nat) (msixOn : Bool) (msixMask : Bool) (msix : List (Nat × Word)) (hk : Keeps L s0 s) (hhost : L.host := by assumption) : KeepsN L s0 (execConfigWrite bar0 bar2 mse bme ctl mps mrrs msixOn msixMask msix s) := by
  unfold execConfigWrite
  repeat' first
    | with_reducible assumption | with_reducible rfl | with_reducible apply keepsN_next | exact keepsN_fault _
    | exact keepsN_refused _ | with_reducible apply keeps_onHost | with_reducible apply keeps_sendVectors
    | with_reducible apply keeps_sendMarks | with_reducible apply keepsN_ite | with_reducible apply keeps_ite
    | dsimp only | split | intro _

theorem keeps_execBar0Read {L : Touch} {s0 s : State} (_off : BitVec 32) (len : Nat) (hk : Keeps L s0 s) (hhost : L.host := by assumption) : KeepsN L s0 (execBar0Read _off len s) := by
  unfold execBar0Read
  repeat' first
    | with_reducible assumption | with_reducible rfl | with_reducible apply keepsN_next | exact keepsN_fault _
    | exact keepsN_refused _ | with_reducible apply keeps_onHost | with_reducible apply keepsN_ite
    | with_reducible apply keeps_ite | dsimp only | split | intro _

theorem keeps_execSetupRecordWrite {L : Touch} {s0 s : State} (completion : Bool) (ring : BitVec 5) (off : BitVec 5) (data : List Byte) (hk : Keeps L s0 s) (hintake : L.intake := by assumption) (hhost : L.host := by assumption) : KeepsN L s0 (execSetupRecordWrite completion ring off data s) := by
  unfold execSetupRecordWrite
  repeat' first
    | with_reducible assumption | with_reducible rfl | with_reducible apply keepsN_next | exact keepsN_fault _
    | exact keepsN_refused _ | with_reducible apply keeps_consume | with_reducible apply keeps_writeCq
    | with_reducible apply keeps_writeSq | with_reducible apply keepsN_ite | with_reducible apply keeps_ite
    | dsimp only | split | intro _

theorem keeps_execTailDoorbell {L : Touch} {s0 s : State} (ring : BitVec 5) (v : Word) (hk : Keeps L s0 s) (hintake : L.intake := by assumption) (hhost : L.host := by assumption) : KeepsN L s0 (execTailDoorbell ring v s) := by
  unfold execTailDoorbell
  repeat' first
    | with_reducible assumption | with_reducible rfl | with_reducible apply keepsN_next | exact keepsN_fault _
    | exact keepsN_refused _ | with_reducible apply keeps_consume | with_reducible apply keeps_sqError
    | with_reducible apply keeps_modSq | with_reducible apply keepsN_ite | with_reducible apply keeps_ite | dsimp only
    | split | intro _

theorem keeps_execHeadDoorbell {L : Touch} {s0 s : State} (ring : BitVec 5) (v : Word) (hk : Keeps L s0 s) (hintake : L.intake := by assumption) (hhost : L.host := by assumption) : KeepsN L s0 (execHeadDoorbell ring v s) := by
  unfold execHeadDoorbell
  repeat' first
    | with_reducible assumption | with_reducible rfl | with_reducible apply keepsN_next | exact keepsN_fault _
    | exact keepsN_refused _ | with_reducible apply keeps_consume | with_reducible apply keeps_sqError
    | with_reducible apply keeps_modCq | with_reducible apply keepsN_ite | with_reducible apply keeps_ite
    | with_reducible refine keeps_foldl _ (fun _ _ _ => ?_) _ ?_ | dsimp only | split | intro _

theorem keeps_execMirrorBaseWrite {L : Touch} {s0 s : State} (v : BitVec 64) (hk : Keeps L s0 s) (hintake : L.intake := by assumption) (hhost : L.host := by assumption) : KeepsN L s0 (execMirrorBaseWrite v s) := by
  unfold execMirrorBaseWrite
  repeat' first
    | with_reducible assumption | with_reducible rfl | with_reducible apply keepsN_next | exact keepsN_fault _
    | exact keepsN_refused _ | with_reducible apply keeps_consume | with_reducible apply keeps_onHost
    | with_reducible apply keepsN_ite | with_reducible apply keeps_ite | dsimp only | split | intro _

theorem keeps_execSetMailboxWrite {L : Touch} {s0 s : State} (slot : BitVec 3) (data : List Byte) (hk : Keeps L s0 s) (hlink : L.link := by assumption) (hintake : L.intake := by assumption) (hhost : L.host := by assumption) (hhealth : L.health := by assumption) : KeepsN L s0 (execSetMailboxWrite slot data s) := by
  unfold execSetMailboxWrite
  repeat' first
    | with_reducible assumption | with_reducible rfl | with_reducible apply keepsN_next | exact keepsN_fault _
    | exact keepsN_refused _ | with_reducible apply keeps_consume | with_reducible apply keeps_acceptMark
    | with_reducible apply keeps_count32 | with_reducible apply keepsN_ite | with_reducible apply keeps_ite
    | dsimp only | split | intro _

theorem keeps_execBar2BadWrite {L : Touch} {s0 s : State} (off : BitVec 20) (len : Nat) (hk : Keeps L s0 s) (hintake : L.intake := by assumption) (hhealth : L.health := by assumption) : KeepsN L s0 (execBar2BadWrite off len s) := by
  unfold execBar2BadWrite
  repeat' first
    | with_reducible assumption | with_reducible rfl | with_reducible apply keepsN_next | exact keepsN_fault _
    | exact keepsN_refused _ | with_reducible apply keeps_consume | with_reducible apply keeps_count32
    | with_reducible apply keepsN_ite | with_reducible apply keeps_ite | dsimp only | split | intro _

theorem keeps_execSealMarkAbandon {L : Touch} {s0 s : State}  (hk : Keeps L s0 s) (hhost : L.host := by assumption) : KeepsN L s0 (execSealMarkAbandon s) := by
  unfold execSealMarkAbandon
  repeat' first
    | with_reducible assumption | with_reducible rfl | with_reducible apply keepsN_next | exact keepsN_fault _
    | exact keepsN_refused _ | with_reducible apply keeps_onHost | with_reducible apply keepsN_ite
    | with_reducible apply keeps_ite | dsimp only | split | intro _

theorem keeps_execDescriptorFetch {L : Touch} {s0 s : State} (r : HostRead) (eccBad : Bool) (hk : Keeps L s0 s) (hfault : L.fault := by assumption) (hhost : L.host := by assumption) : KeepsN L s0 (execDescriptorFetch r eccBad s) := by
  unfold execDescriptorFetch
  repeat' first
    | with_reducible assumption | with_reducible rfl | with_reducible apply keepsN_next | exact keepsN_fault _
    | exact keepsN_refused _ | with_reducible apply keeps_onHost | with_reducible apply keeps_sqError
    | with_reducible apply keeps_modSq | with_reducible apply keeps_assertError | with_reducible apply keepsN_ite
    | with_reducible apply keeps_ite | dsimp only | split | intro _

theorem keeps_execReadStream {L : Touch} {s0 s : State} (id : Nat) (back : List (Nat × Option (List Byte))) (hk : Keeps L s0 s) (hplace : L.place := by assumption) (hhost : L.host := by assumption) : KeepsN L s0 (execReadStream id back s) := by
  unfold execReadStream
  repeat' first
    | with_reducible assumption | with_reducible rfl | with_reducible apply keepsN_next | exact keepsN_fault _
    | exact keepsN_refused _ | with_reducible apply keeps_endDesc | with_reducible apply keeps_cachePages
    | with_reducible apply keeps_sendData | with_reducible apply keepsN_ite | with_reducible apply keeps_ite
    | dsimp only | split | intro _

theorem keeps_execReadRandom {L : Touch} {s0 s : State} (id : Nat) (back : List (Nat × Option (List Byte))) (hk : Keeps L s0 s) (hmedia : L.media := by assumption) (hplace : L.place := by assumption) (hhost : L.host := by assumption) : KeepsN L s0 (execReadRandom id back s) := by
  unfold execReadRandom
  repeat' first
    | with_reducible assumption | with_reducible rfl | with_reducible apply keepsN_next | exact keepsN_fault _
    | exact keepsN_refused _ | with_reducible apply keeps_endDesc | with_reducible apply keeps_lookUp
    | with_reducible apply keeps_makeRoom | with_reducible apply keeps_sendData | with_reducible apply keepsN_ite
    | with_reducible apply keeps_ite | dsimp only | split | intro _
    | refine keepsO_out (keeps_lookUp _ _ ?_) (by assumption)

theorem keeps_execWriteRandom {L : Touch} {s0 s : State} (id : Nat) (hk : Keeps L s0 s) (hintake : L.intake := by assumption) (hmedia : L.media := by assumption) (hplace : L.place := by assumption) (hhost : L.host := by assumption) : KeepsN L s0 (execWriteRandom id s) := by
  unfold execWriteRandom
  repeat' first
    | with_reducible assumption | with_reducible rfl | with_reducible apply keepsN_next | exact keepsN_fault _
    | exact keepsN_refused _ | with_reducible apply keeps_endDesc | with_reducible apply keeps_reserveUnits
    | with_reducible apply keeps_makeRoom | with_reducible apply keepsN_ite | with_reducible apply keeps_ite
    | dsimp only | split | intro _

theorem keeps_execDataFetchDone {L : Touch} {s0 s : State} (id : Nat) (r : HostRead) (hk : Keeps L s0 s) (hintake : L.intake := by assumption) (hmedia : L.media := by assumption) (hplace : L.place := by assumption) (hhost : L.host := by assumption) : KeepsN L s0 (execDataFetchDone id r s) := by
  unfold execDataFetchDone
  repeat' first
    | with_reducible assumption | with_reducible rfl | with_reducible apply keepsN_next | exact keepsN_fault _
    | exact keepsN_refused _ | with_reducible apply keeps_onIntake | with_reducible apply keeps_endDesc
    | with_reducible apply keeps_acceptUnit | with_reducible apply keepsN_ite | with_reducible apply keeps_ite
    | dsimp only | split | intro _

theorem keeps_execCaskQuery {L : Touch} {s0 s : State} (id : Nat) (hk : Keeps L s0 s) (hhost : L.host := by assumption) : KeepsN L s0 (execCaskQuery id s) := by
  unfold execCaskQuery
  repeat' first
    | with_reducible assumption | with_reducible rfl | with_reducible apply keepsN_next | exact keepsN_fault _
    | exact keepsN_refused _ | with_reducible apply keeps_endDesc | with_reducible apply keeps_sendData
    | with_reducible apply keepsN_ite | with_reducible apply keeps_ite | dsimp only | split | intro _

theorem keeps_execCompletionPost {L : Touch} {s0 s : State} (id : Nat) (hk : Keeps L s0 s) (hhost : L.host := by assumption) : KeepsN L s0 (execCompletionPost id s) := by
  unfold execCompletionPost
  repeat' first
    | with_reducible assumption | with_reducible rfl | with_reducible apply keepsN_next | exact keepsN_fault _
    | exact keepsN_refused _ | with_reducible apply keeps_postEntry | with_reducible apply keepsN_ite
    | with_reducible apply keeps_ite | dsimp only | split | intro _

theorem keeps_execCoalesceTimeout {L : Touch} {s0 s : State} (ring : BitVec 5) (hk : Keeps L s0 s) (hhost : L.host := by assumption) : KeepsN L s0 (execCoalesceTimeout ring s) := by
  unfold execCoalesceTimeout
  repeat' first
    | with_reducible assumption | with_reducible rfl | with_reducible apply keepsN_next | exact keepsN_fault _
    | exact keepsN_refused _ | with_reducible apply keeps_signalRing | with_reducible apply keepsN_ite
    | with_reducible apply keeps_ite | dsimp only | split | intro _

theorem keeps_execLinkDeselect {L : Touch} {s0 s : State}  (hk : Keeps L s0 s) (hlink : L.link := by assumption) : KeepsN L s0 (execLinkDeselect s) := by
  unfold execLinkDeselect
  repeat' first
    | with_reducible assumption | with_reducible rfl | with_reducible apply keepsN_next | exact keepsN_fault _
    | exact keepsN_refused _ | with_reducible apply keeps_onLink | with_reducible apply keepsN_ite
    | with_reducible apply keeps_ite | dsimp only | split | intro _

theorem keeps_execProtocolSelect {L : Touch} {s0 s : State} (ch : Byte) (parityFails : Nat) (hk : Keeps L s0 s) (hlink : L.link := by assumption) (hhealth : L.health := by assumption) : KeepsN L s0 (execProtocolSelect ch parityFails s) := by
  unfold execProtocolSelect
  repeat' first
    | with_reducible assumption | with_reducible rfl | with_reducible apply keepsN_next | exact keepsN_fault _
    | exact keepsN_refused _ | with_reducible apply keeps_countRepeats | with_reducible apply keeps_onLink
    | with_reducible apply keepsN_ite | with_reducible apply keeps_ite | dsimp only | split | intro _

theorem keeps_execChainedIFrame {L : Touch} {s0 s : State} (ns : BitVec 3) (info : List Byte) (hk : Keeps L s0 s) (hlink : L.link := by assumption) : KeepsN L s0 (execChainedIFrame ns info s) := by
  unfold execChainedIFrame
  repeat' first
    | with_reducible assumption | with_reducible rfl | with_reducible apply keepsN_next | exact keepsN_fault _
    | exact keepsN_refused _ | with_reducible apply keeps_onLink | with_reducible apply keepsN_ite
    | with_reducible apply keeps_ite | dsimp only | split | intro _

theorem keeps_execHostRFrame {L : Touch} {s0 s : State} (nr : BitVec 3) (reason : Byte) (hk : Keeps L s0 s) (hclock : L.clock := by assumption) (hlink : L.link := by assumption) (hfault : L.fault := by assumption) (hintake : L.intake := by assumption) (hmedia : L.media := by assumption) (hplace : L.place := by assumption) (hjournal : L.journal := by assumption) (hhost : L.host := by assumption) (hpower : L.power := by assumption) (hsnuff : L.snuff := by assumption) (hwick : L.wick := by assumption) (hmem : L.mem := by assumption) (hhealth : L.health := by assumption) : KeepsN L s0 (execHostRFrame nr reason s) := by
  unfold execHostRFrame
  repeat' first
    | with_reducible assumption | with_reducible rfl | with_reducible apply keepsN_next | exact keepsN_fault _
    | exact keepsN_refused _ | with_reducible apply keeps_onLink | with_reducible apply keeps_rFrame
    | with_reducible apply keepsN_ite | with_reducible apply keeps_ite | dsimp only | split | intro _

theorem keeps_execFrameCrcError {L : Touch} {s0 s : State}  (hk : Keeps L s0 s) (hlink : L.link := by assumption) (hhealth : L.health := by assumption) : KeepsN L s0 (execFrameCrcError s) := by
  unfold execFrameCrcError
  repeat' first
    | with_reducible assumption | with_reducible rfl | with_reducible apply keepsN_next | exact keepsN_fault _
    | exact keepsN_refused _ | with_reducible apply keeps_countLo | with_reducible apply keeps_onLink
    | with_reducible apply keepsN_ite | with_reducible apply keeps_ite | dsimp only | split | intro _

theorem keeps_execLength255Frame {L : Touch} {s0 s : State}  (hk : Keeps L s0 s) (hlink : L.link := by assumption) : KeepsN L s0 (execLength255Frame s) := by
  unfold execLength255Frame
  repeat' first
    | with_reducible assumption | with_reducible rfl | with_reducible apply keepsN_next | exact keepsN_fault _
    | exact keepsN_refused _ | with_reducible apply keeps_onLink | with_reducible apply keepsN_ite
    | with_reducible apply keeps_ite | dsimp only | split | intro _

theorem keeps_execResyncReq {L : Touch} {s0 s : State}  (hk : Keeps L s0 s) (hlink : L.link := by assumption) : KeepsN L s0 (execResyncReq s) := by
  unfold execResyncReq
  repeat' first
    | with_reducible assumption | with_reducible rfl | with_reducible apply keepsN_next | exact keepsN_fault _
    | exact keepsN_refused _ | with_reducible apply keeps_onLink | with_reducible apply keepsN_ite
    | with_reducible apply keeps_ite | dsimp only | split | intro _

theorem keeps_execAbortReq {L : Touch} {s0 s : State}  (hk : Keeps L s0 s) (hlink : L.link := by assumption) : KeepsN L s0 (execAbortReq s) := by
  unfold execAbortReq
  repeat' first
    | with_reducible assumption | with_reducible rfl | with_reducible apply keepsN_next | exact keepsN_fault _
    | exact keepsN_refused _ | with_reducible apply keeps_onLink | with_reducible apply keepsN_ite
    | with_reducible apply keeps_ite | dsimp only | split | intro _

theorem keeps_execCheckReq {L : Touch} {s0 s : State} (pattern : List Byte) (hk : Keeps L s0 s) (hlink : L.link := by assumption) : KeepsN L s0 (execCheckReq pattern s) := by
  unfold execCheckReq
  repeat' first
    | with_reducible assumption | with_reducible rfl | with_reducible apply keepsN_next | exact keepsN_fault _
    | exact keepsN_refused _ | with_reducible apply keeps_onLink | with_reducible apply keepsN_ite
    | with_reducible apply keeps_ite | dsimp only | split | intro _

theorem keeps_execSwitchRevert {L : Touch} {s0 s : State}  (hk : Keeps L s0 s) (hlink : L.link := by assumption) : KeepsN L s0 (execSwitchRevert s) := by
  unfold execSwitchRevert
  repeat' first
    | with_reducible assumption | with_reducible rfl | with_reducible apply keepsN_next | exact keepsN_fault _
    | exact keepsN_refused _ | with_reducible apply keeps_onLink | with_reducible apply keepsN_ite
    | with_reducible apply keeps_ite | dsimp only | split | intro _

theorem keeps_execReadReg {L : Touch} {s0 s : State} (addr : BitVec 8) (count : BitVec 8) (hk : Keeps L s0 s) (hclock : L.clock := by assumption) (hlamp : L.lamp := by assumption) (hlink : L.link := by assumption) (hfault : L.fault := by assumption) (hintake : L.intake := by assumption) (hmedia : L.media := by assumption) (hplace : L.place := by assumption) (hjournal : L.journal := by assumption) (hhost : L.host := by assumption) (hpower : L.power := by assumption) (hsnuff : L.snuff := by assumption) (hwick : L.wick := by assumption) (hmem : L.mem := by assumption) (hhealth : L.health := by assumption) (hdraws : L.draws := by assumption) : KeepsN L s0 (execReadReg addr count s) := by
  unfold execReadReg
  repeat' first
    | with_reducible assumption | with_reducible rfl | with_reducible apply keepsN_next | exact keepsN_fault _
    | exact keepsN_refused _ | with_reducible apply keeps_single | with_reducible apply keepsN_ite
    | with_reducible apply keeps_ite | dsimp only | split | intro _

theorem keeps_execWriteReg {L : Touch} {s0 s : State} (addr : BitVec 8) (data : List Word) (hk : Keeps L s0 s) (hclock : L.clock := by assumption) (hlamp : L.lamp := by assumption) (hlink : L.link := by assumption) (hfault : L.fault := by assumption) (hintake : L.intake := by assumption) (hmedia : L.media := by assumption) (hplace : L.place := by assumption) (hjournal : L.journal := by assumption) (hhost : L.host := by assumption) (hpower : L.power := by assumption) (hsnuff : L.snuff := by assumption) (hwick : L.wick := by assumption) (hmem : L.mem := by assumption) (hhealth : L.health := by assumption) (hdraws : L.draws := by assumption) : KeepsN L s0 (execWriteReg addr data s) := by
  unfold execWriteReg
  repeat' first
    | with_reducible assumption | with_reducible rfl | with_reducible apply keepsN_next | exact keepsN_fault _
    | exact keepsN_refused _ | with_reducible apply keeps_single | with_reducible apply keepsN_ite
    | with_reducible apply keeps_ite | dsimp only | split | intro _

theorem keeps_execWriteMasked {L : Touch} {s0 s : State} (addr : BitVec 8) (mask : Word) (v : Word) (hk : Keeps L s0 s) (hclock : L.clock := by assumption) (hlamp : L.lamp := by assumption) (hlink : L.link := by assumption) (hfault : L.fault := by assumption) (hintake : L.intake := by assumption) (hmedia : L.media := by assumption) (hplace : L.place := by assumption) (hjournal : L.journal := by assumption) (hhost : L.host := by assumption) (hpower : L.power := by assumption) (hsnuff : L.snuff := by assumption) (hwick : L.wick := by assumption) (hmem : L.mem := by assumption) (hhealth : L.health := by assumption) (hdraws : L.draws := by assumption) : KeepsN L s0 (execWriteMasked addr mask v s) := by
  unfold execWriteMasked
  repeat' first
    | with_reducible assumption | with_reducible rfl | with_reducible apply keepsN_next | exact keepsN_fault _
    | exact keepsN_refused _ | with_reducible apply keeps_single | with_reducible apply keepsN_ite
    | with_reducible apply keeps_ite | dsimp only | split | intro _

theorem keeps_execIndRead {L : Touch} {s0 s : State} (addr : Word) (count : BitVec 16) (hk : Keeps L s0 s) (hclock : L.clock := by assumption) (hlamp : L.lamp := by assumption) (hlink : L.link := by assumption) (hfault : L.fault := by assumption) (hintake : L.intake := by assumption) (hmedia : L.media := by assumption) (hplace : L.place := by assumption) (hjournal : L.journal := by assumption) (hhost : L.host := by assumption) (hpower : L.power := by assumption) (hsnuff : L.snuff := by assumption) (hwick : L.wick := by assumption) (hmem : L.mem := by assumption) (hhealth : L.health := by assumption) (hdraws : L.draws := by assumption) : KeepsN L s0 (execIndRead addr count s) := by
  unfold execIndRead
  repeat' first
    | with_reducible assumption | with_reducible rfl | with_reducible apply keepsN_next | exact keepsN_fault _
    | exact keepsN_refused _ | with_reducible apply keeps_single | with_reducible apply keeps_indRead
    | with_reducible apply keepsN_ite | with_reducible apply keeps_ite | dsimp only | split | intro _

theorem keeps_execIndWrite {L : Touch} {s0 s : State} (addr : Word) (data : List Word) (hk : Keeps L s0 s) (hclock : L.clock := by assumption) (hlamp : L.lamp := by assumption) (hlink : L.link := by assumption) (hfault : L.fault := by assumption) (hintake : L.intake := by assumption) (hmedia : L.media := by assumption) (hplace : L.place := by assumption) (hjournal : L.journal := by assumption) (hhost : L.host := by assumption) (hpower : L.power := by assumption) (hsnuff : L.snuff := by assumption) (hwick : L.wick := by assumption) (hmem : L.mem := by assumption) (hhealth : L.health := by assumption) (hdraws : L.draws := by assumption) : KeepsN L s0 (execIndWrite addr data s) := by
  unfold execIndWrite
  repeat' first
    | with_reducible assumption | with_reducible rfl | with_reducible apply keepsN_next | exact keepsN_fault _
    | exact keepsN_refused _ | with_reducible apply keeps_single | with_reducible apply keeps_indWrite
    | with_reducible apply keepsN_ite | with_reducible apply keeps_ite | dsimp only | split | intro _

theorem keeps_execResetCmdLink {L : Touch} {s0 s : State}  (hk : Keeps L s0 s) (hclock : L.clock := by assumption) (hlamp : L.lamp := by assumption) (hlink : L.link := by assumption) (hfault : L.fault := by assumption) (hintake : L.intake := by assumption) (hmedia : L.media := by assumption) (hplace : L.place := by assumption) (hjournal : L.journal := by assumption) (hhost : L.host := by assumption) (hpower : L.power := by assumption) (hsnuff : L.snuff := by assumption) (hwick : L.wick := by assumption) (hmem : L.mem := by assumption) (hhealth : L.health := by assumption) (hdraws : L.draws := by assumption) : KeepsN L s0 (execResetCmdLink s) := by
  unfold execResetCmdLink
  repeat' first
    | with_reducible assumption | with_reducible rfl | with_reducible apply keepsN_next | exact keepsN_fault _
    | exact keepsN_refused _ | with_reducible apply keeps_single | with_reducible apply keepsN_ite
    | with_reducible apply keeps_ite | dsimp only | split | intro _

theorem keeps_execResetCmdWarm {L : Touch} {s0 s : State}  (hk : Keeps L s0 s) (hclock : L.clock := by assumption) (hlamp : L.lamp := by assumption) (hlink : L.link := by assumption) (hfault : L.fault := by assumption) (hintake : L.intake := by assumption) (hmedia : L.media := by assumption) (hplace : L.place := by assumption) (hjournal : L.journal := by assumption) (hhost : L.host := by assumption) (hpower : L.power := by assumption) (hsnuff : L.snuff := by assumption) (hwick : L.wick := by assumption) (hmem : L.mem := by assumption) (hhealth : L.health := by assumption) (hdraws : L.draws := by assumption) : KeepsN L s0 (execResetCmdWarm s) := by
  unfold execResetCmdWarm
  repeat' first
    | with_reducible assumption | with_reducible rfl | with_reducible apply keepsN_next | exact keepsN_fault _
    | exact keepsN_refused _ | with_reducible apply keeps_single | with_reducible apply keepsN_ite
    | with_reducible apply keeps_ite | dsimp only | split | intro _

theorem keeps_execResetCmdCold {L : Touch} {s0 s : State}  (hk : Keeps L s0 s) (hclock : L.clock := by assumption) (hlamp : L.lamp := by assumption) (hlink : L.link := by assumption) (hfault : L.fault := by assumption) (hintake : L.intake := by assumption) (hmedia : L.media := by assumption) (hplace : L.place := by assumption) (hjournal : L.journal := by assumption) (hhost : L.host := by assumption) (hpower : L.power := by assumption) (hsnuff : L.snuff := by assumption) (hwick : L.wick := by assumption) (hmem : L.mem := by assumption) (hhealth : L.health := by assumption) (hdraws : L.draws := by assumption) : KeepsN L s0 (execResetCmdCold s) := by
  unfold execResetCmdCold
  repeat' first
    | with_reducible assumption | with_reducible rfl | with_reducible apply keepsN_next | exact keepsN_fault _
    | exact keepsN_refused _ | with_reducible apply keeps_single | with_reducible apply keepsN_ite
    | with_reducible apply keeps_ite | dsimp only | split | intro _

theorem keeps_execSwitch {L : Touch} {s0 s : State} (width : BitVec 8) (rate : BitVec 8) (hk : Keeps L s0 s) (hclock : L.clock := by assumption) (hlamp : L.lamp := by assumption) (hlink : L.link := by assumption) (hfault : L.fault := by assumption) (hintake : L.intake := by assumption) (hmedia : L.media := by assumption) (hplace : L.place := by assumption) (hjournal : L.journal := by assumption) (hhost : L.host := by assumption) (hpower : L.power := by assumption) (hsnuff : L.snuff := by assumption) (hwick : L.wick := by assumption) (hmem : L.mem := by assumption) (hhealth : L.health := by assumption) (hdraws : L.draws := by assumption) : KeepsN L s0 (execSwitch width rate s) := by
  unfold execSwitch
  repeat' first
    | with_reducible assumption | with_reducible rfl | with_reducible apply keepsN_next | exact keepsN_fault _
    | exact keepsN_refused _ | with_reducible apply keeps_single | with_reducible apply keepsN_ite
    | with_reducible apply keeps_ite | dsimp only | split | intro _

theorem keeps_execSleep {L : Touch} {s0 s : State}  (hk : Keeps L s0 s) (hclock : L.clock := by assumption) (hlamp : L.lamp := by assumption) (hlink : L.link := by assumption) (hfault : L.fault := by assumption) (hintake : L.intake := by assumption) (hmedia : L.media := by assumption) (hplace : L.place := by assumption) (hjournal : L.journal := by assumption) (hhost : L.host := by assumption) (hpower : L.power := by assumption) (hsnuff : L.snuff := by assumption) (hwick : L.wick := by assumption) (hmem : L.mem := by assumption) (hhealth : L.health := by assumption) (hdraws : L.draws := by assumption) : KeepsN L s0 (execSleep s) := by
  unfold execSleep
  repeat' first
    | with_reducible assumption | with_reducible rfl | with_reducible apply keepsN_next | exact keepsN_fault _
    | exact keepsN_refused _ | with_reducible apply keeps_single | with_reducible apply keepsN_ite
    | with_reducible apply keeps_ite | dsimp only | split | intro _

theorem keeps_execWake {L : Touch} {s0 s : State}  (hk : Keeps L s0 s) (hlink : L.link := by assumption) : KeepsN L s0 (execWake s) := by
  unfold execWake
  repeat' first
    | with_reducible assumption | with_reducible rfl | with_reducible apply keepsN_next | exact keepsN_fault _
    | exact keepsN_refused _ | with_reducible apply keeps_onLink | with_reducible apply keepsN_ite
    | with_reducible apply keeps_ite | dsimp only | split | intro _

theorem keeps_execEcho {L : Touch} {s0 s : State} (data : List Byte) (hk : Keeps L s0 s) (hlink : L.link := by assumption) : KeepsN L s0 (execEcho data s) := by
  unfold execEcho
  repeat' first
    | with_reducible assumption | with_reducible rfl | with_reducible apply keepsN_next | exact keepsN_fault _
    | exact keepsN_refused _ | with_reducible apply keeps_onLink | with_reducible apply keepsN_ite
    | with_reducible apply keeps_ite | dsimp only | split | intro _

theorem keeps_execNovvenHeader {L : Touch} {s0 s : State} (op : Byte) (addr : Byte) (count : Byte) (chk : Byte) (fails : HeaderFails) (hk : Keeps L s0 s) (hlink : L.link := by assumption) (hjournal : L.journal := by assumption) (hhealth : L.health := by assumption) : KeepsN L s0 (execNovvenHeader op addr count chk fails s) := by
  unfold execNovvenHeader
  repeat' first
    | with_reducible assumption | with_reducible rfl | with_reducible apply keepsN_next | exact keepsN_fault _
    | exact keepsN_refused _ | with_reducible apply keeps_countRepeats | with_reducible apply keeps_onLink
    | with_reducible apply keeps_novvenEnd | with_reducible apply keepsN_ite | with_reducible apply keeps_ite
    | dsimp only | split | intro _

theorem keeps_execNovvenRead {L : Touch} {s0 s : State}  (hk : Keeps L s0 s) (hclock : L.clock := by assumption) (hlamp : L.lamp := by assumption) (hlink : L.link := by assumption) (hfault : L.fault := by assumption) (hintake : L.intake := by assumption) (hmedia : L.media := by assumption) (hplace : L.place := by assumption) (hjournal : L.journal := by assumption) (hhost : L.host := by assumption) (hpower : L.power := by assumption) (hwick : L.wick := by assumption) (hmem : L.mem := by assumption) (hhealth : L.health := by assumption) (hdraws : L.draws := by assumption) : KeepsN L s0 (execNovvenRead s) := by
  unfold execNovvenRead
  repeat' first
    | with_reducible assumption | with_reducible rfl | with_reducible apply keepsN_next | exact keepsN_fault _
    | exact keepsN_refused _ | with_reducible apply keeps_onLink | with_reducible apply keeps_doOp
    | with_reducible apply keeps_novvenEnd | with_reducible apply keepsN_ite | with_reducible apply keeps_ite
    | dsimp only | split | intro _

theorem keeps_execNovvenWrite {L : Touch} {s0 s : State} (data : NovvenData) (chk : Byte) (hk : Keeps L s0 s) (hclock : L.clock := by assumption) (hlamp : L.lamp := by assumption) (hlink : L.link := by assumption) (hfault : L.fault := by assumption) (hintake : L.intake := by assumption) (hmedia : L.media := by assumption) (hplace : L.place := by assumption) (hjournal : L.journal := by assumption) (hhost : L.host := by assumption) (hpower : L.power := by assumption) (hsnuff : L.snuff := by assumption) (hwick : L.wick := by assumption) (hmem : L.mem := by assumption) (hhealth : L.health := by assumption) (hdraws : L.draws := by assumption) : KeepsN L s0 (execNovvenWrite data chk s) := by
  unfold execNovvenWrite
  repeat' first
    | with_reducible assumption | with_reducible rfl | with_reducible apply keepsN_next | exact keepsN_fault _
    | exact keepsN_refused _ | with_reducible apply keeps_countRepeats | with_reducible apply keeps_onLink
    | with_reducible apply keeps_novvenEnd | with_reducible apply keeps_doOp | with_reducible apply keeps_doAct
    | with_reducible apply keepsN_ite | with_reducible apply keeps_ite | dsimp only | split | intro _

theorem keeps_execNovvenReset {L : Touch} {s0 s : State}  (hk : Keeps L s0 s) (hclock : L.clock := by assumption) (hlamp : L.lamp := by assumption) (hlink : L.link := by assumption) (hfault : L.fault := by assumption) (hintake : L.intake := by assumption) (hmedia : L.media := by assumption) (hplace : L.place := by assumption) (hjournal : L.journal := by assumption) (hhost : L.host := by assumption) (hpower : L.power := by assumption) (hsnuff : L.snuff := by assumption) (hwick : L.wick := by assumption) (hmem : L.mem := by assumption) (hhealth : L.health := by assumption) (hdraws : L.draws := by assumption) : KeepsN L s0 (execNovvenReset s) := by
  unfold execNovvenReset
  repeat' first
    | with_reducible assumption | with_reducible rfl | with_reducible apply keepsN_next | exact keepsN_fault _
    | exact keepsN_refused _ | with_reducible apply keeps_onLink | with_reducible apply keeps_doOp
    | with_reducible apply keeps_novvenEnd | with_reducible apply keeps_doAct | with_reducible apply keepsN_ite
    | with_reducible apply keeps_ite | dsimp only | split | intro _

theorem keeps_execTunAck {L : Touch} {s0 s : State} (stream : BitVec 10) (hk : Keeps L s0 s) (hclock : L.clock := by assumption) (hlamp : L.lamp := by assumption) (hlink : L.link := by assumption) (hfault : L.fault := by assumption) (hintake : L.intake := by assumption) (hmedia : L.media := by assumption) (hplace : L.place := by assumption) (hjournal : L.journal := by assumption) (hhost : L.host := by assumption) (hpower : L.power := by assumption) (hsnuff : L.snuff := by assumption) (hwick : L.wick := by assumption) (hmem : L.mem := by assumption) (hhealth : L.health := by assumption) (hdraws : L.draws := by assumption) : KeepsN L s0 (execTunAck stream s) := by
  unfold execTunAck
  repeat' first
    | with_reducible assumption | with_reducible rfl | with_reducible apply keepsN_next | exact keepsN_fault _
    | exact keepsN_refused _ | with_reducible apply keeps_tunAck | with_reducible apply keeps_trigger
    | with_reducible apply keeps_flushProgram | with_reducible apply keeps_carryResumes
    | with_reducible apply keeps_finishRun | with_reducible apply keepsN_ite | with_reducible apply keeps_ite
    | with_reducible refine keeps_foldl _ (fun _ _ _ => ?_) _ ?_ | dsimp only | split | intro _

theorem keeps_execMirrorWrite {L : Touch} {s0 s : State} (stream : BitVec 10) (hk : Keeps L s0 s) (hclock : L.clock := by assumption) (hlamp : L.lamp := by assumption) (hlink : L.link := by assumption) (hfault : L.fault := by assumption) (hintake : L.intake := by assumption) (hmedia : L.media := by assumption) (hplace : L.place := by assumption) (hjournal : L.journal := by assumption) (hhost : L.host := by assumption) (hpower : L.power := by assumption) (hsnuff : L.snuff := by assumption) (hwick : L.wick := by assumption) (hmem : L.mem := by assumption) (hhealth : L.health := by assumption) (hdraws : L.draws := by assumption) : KeepsN L s0 (execMirrorWrite stream s) := by
  unfold execMirrorWrite
  repeat' first
    | with_reducible assumption | with_reducible rfl | with_reducible apply keepsN_next | exact keepsN_fault _
    | exact keepsN_refused _ | with_reducible apply keeps_issueMirror | with_reducible apply keeps_carryResume
    | with_reducible apply keeps_finishRun | with_reducible apply keepsN_ite | with_reducible apply keeps_ite
    | dsimp only | split | intro _

theorem keeps_execThroughNoteProgrammed {L : Touch} {s0 s : State}  (hk : Keeps L s0 s) (hclock : L.clock := by assumption) (hlamp : L.lamp := by assumption) (hlink : L.link := by assumption) (hfault : L.fault := by assumption) (hintake : L.intake := by assumption) (hmedia : L.media := by assumption) (hplace : L.place := by assumption) (hjournal : L.journal := by assumption) (hhost : L.host := by assumption) (hpower : L.power := by assumption) (hsnuff : L.snuff := by assumption) (hwick : L.wick := by assumption) (hmem : L.mem := by assumption) (hhealth : L.health := by assumption) (hdraws : L.draws := by assumption) : KeepsN L s0 (execThroughNoteProgrammed s) := by
  unfold execThroughNoteProgrammed
  repeat' first
    | with_reducible assumption | with_reducible rfl | with_reducible apply keepsN_next | exact keepsN_fault _
    | exact keepsN_refused _ | with_reducible apply keeps_trigger | with_reducible apply keeps_spareJournal
    | with_reducible apply keeps_programNotes | with_reducible apply keeps_noteDeltas
    | with_reducible apply keeps_onIntake | with_reducible apply keeps_carryResumes
    | with_reducible apply keeps_closeDrained | with_reducible apply keeps_finishRun | with_reducible apply keepsN_ite
    | with_reducible apply keeps_ite | dsimp only | split | intro _

theorem keeps_execSnufferFlush {L : Touch} {s0 s : State} (f : FlushIn) (hk : Keeps L s0 s) (hclock : L.clock := by assumption) (hlamp : L.lamp := by assumption) (hlink : L.link := by assumption) (hfault : L.fault := by assumption) (hintake : L.intake := by assumption) (hmedia : L.media := by assumption) (hplace : L.place := by assumption) (hjournal : L.journal := by assumption) (hhost : L.host := by assumption) (hpower : L.power := by assumption) (hsnuff : L.snuff := by assumption) (hwick : L.wick := by assumption) (hmem : L.mem := by assumption) (hhealth : L.health := by assumption) (hdraws : L.draws := by assumption) : KeepsN L s0 (execSnufferFlush f s) := by
  unfold execSnufferFlush
  repeat' first
    | with_reducible assumption | with_reducible rfl | with_reducible apply keepsN_next | exact keepsN_fault _
    | exact keepsN_refused _ | with_reducible apply keeps_trigger | with_reducible apply keeps_finishRun
    | with_reducible apply keeps_failCopies | with_reducible apply keeps_flush | with_reducible apply keepsN_ite
    | with_reducible apply keeps_ite | dsimp only | split | intro _

theorem keeps_execLinkReset {L : Touch} {s0 s : State}  (hk : Keeps L s0 s) (hclock : L.clock := by assumption) (hlamp : L.lamp := by assumption) (hlink : L.link := by assumption) (hfault : L.fault := by assumption) (hintake : L.intake := by assumption) (hmedia : L.media := by assumption) (hplace : L.place := by assumption) (hjournal : L.journal := by assumption) (hhost : L.host := by assumption) (hpower : L.power := by assumption) (hsnuff : L.snuff := by assumption) (hwick : L.wick := by assumption) (hmem : L.mem := by assumption) (hhealth : L.health := by assumption) (hdraws : L.draws := by assumption) : KeepsN L s0 (execLinkReset s) := by
  unfold execLinkReset
  repeat' first
    | with_reducible assumption | with_reducible rfl | with_reducible apply keepsN_next | exact keepsN_fault _
    | exact keepsN_refused _ | with_reducible apply keeps_finishRun | with_reducible apply keeps_onLink
    | with_reducible apply keeps_linkReset | with_reducible apply keepsN_ite | with_reducible apply keeps_ite
    | dsimp only | split | intro _

theorem keeps_execMessageReceive {L : Touch} {s0 s : State} (ns : BitVec 3) (_nr : BitVec 3) (info : List Byte) (hk : Keeps L s0 s) (hclock : L.clock := by assumption) (hlamp : L.lamp := by assumption) (hlink : L.link := by assumption) (hfault : L.fault := by assumption) (hintake : L.intake := by assumption) (hmedia : L.media := by assumption) (hplace : L.place := by assumption) (hjournal : L.journal := by assumption) (hhost : L.host := by assumption) (hpower : L.power := by assumption) (hsnuff : L.snuff := by assumption) (hwick : L.wick := by assumption) (hmem : L.mem := by assumption) (hhealth : L.health := by assumption) (hdraws : L.draws := by assumption) : KeepsN L s0 (execMessageReceive ns _nr info s) := by
  unfold execMessageReceive
  repeat' first
    | with_reducible assumption | with_reducible rfl | with_reducible apply keepsN_next | exact keepsN_fault _
    | exact keepsN_refused _ | with_reducible apply keeps_finalFrame | with_reducible apply keeps_finishRun
    | with_reducible apply keepsN_ite | with_reducible apply keeps_ite | dsimp only | split | intro _

theorem keeps_execCycSrcWrite {L : Touch} {s0 s : State} (v : Word) (mask : Word) (hk : Keeps L s0 s) (hclock : L.clock := by assumption) (hlamp : L.lamp := by assumption) (hlink : L.link := by assumption) (hfault : L.fault := by assumption) (hintake : L.intake := by assumption) (hmedia : L.media := by assumption) (hplace : L.place := by assumption) (hjournal : L.journal := by assumption) (hhost : L.host := by assumption) (hpower : L.power := by assumption) (hsnuff : L.snuff := by assumption) (hwick : L.wick := by assumption) (hmem : L.mem := by assumption) (hhealth : L.health := by assumption) (hdraws : L.draws := by assumption) : KeepsN L s0 (execCycSrcWrite v mask s) := by
  unfold execCycSrcWrite
  repeat' first
    | with_reducible assumption | with_reducible rfl | with_reducible apply keepsN_next | exact keepsN_fault _
    | exact keepsN_refused _ | with_reducible apply keeps_busWrite | with_reducible apply keepsN_ite
    | with_reducible apply keeps_ite | dsimp only | split | intro _

theorem keeps_execCycPeriodWrite {L : Touch} {s0 s : State} (v : Word) (hk : Keeps L s0 s) (hclock : L.clock := by assumption) (hlamp : L.lamp := by assumption) (hlink : L.link := by assumption) (hfault : L.fault := by assumption) (hintake : L.intake := by assumption) (hmedia : L.media := by assumption) (hplace : L.place := by assumption) (hjournal : L.journal := by assumption) (hhost : L.host := by assumption) (hpower : L.power := by assumption) (hsnuff : L.snuff := by assumption) (hwick : L.wick := by assumption) (hmem : L.mem := by assumption) (hhealth : L.health := by assumption) (hdraws : L.draws := by assumption) : KeepsN L s0 (execCycPeriodWrite v s) := by
  unfold execCycPeriodWrite
  repeat' first
    | with_reducible assumption | with_reducible rfl | with_reducible apply keepsN_next | exact keepsN_fault _
    | exact keepsN_refused _ | with_reducible apply keeps_busWrite | with_reducible apply keepsN_ite
    | with_reducible apply keeps_ite | dsimp only | split | intro _

theorem keeps_execCycCountRead {L : Touch} {s0 s : State}  (hk : Keeps L s0 s) (hlamp : L.lamp := by assumption) (hlink : L.link := by assumption) (hintake : L.intake := by assumption) (hdraws : L.draws := by assumption) : KeepsN L s0 (execCycCountRead s) := by
  unfold execCycCountRead
  repeat' first
    | with_reducible assumption | with_reducible rfl | with_reducible apply keepsN_next | exact keepsN_fault _
    | exact keepsN_refused _ | with_reducible apply keeps_busRead | with_reducible apply keepsN_ite
    | with_reducible apply keeps_ite | dsimp only | split | intro _

theorem keeps_execCycCountHiWrite {L : Touch} {s0 s : State} (v : Word) (hk : Keeps L s0 s) (hclock : L.clock := by assumption) (hlamp : L.lamp := by assumption) (hlink : L.link := by assumption) (hfault : L.fault := by assumption) (hintake : L.intake := by assumption) (hmedia : L.media := by assumption) (hplace : L.place := by assumption) (hjournal : L.journal := by assumption) (hhost : L.host := by assumption) (hpower : L.power := by assumption) (hsnuff : L.snuff := by assumption) (hwick : L.wick := by assumption) (hmem : L.mem := by assumption) (hhealth : L.health := by assumption) (hdraws : L.draws := by assumption) : KeepsN L s0 (execCycCountHiWrite v s) := by
  unfold execCycCountHiWrite
  repeat' first
    | with_reducible assumption | with_reducible rfl | with_reducible apply keepsN_next | exact keepsN_fault _
    | exact keepsN_refused _ | with_reducible apply keeps_busWrite | with_reducible apply keepsN_ite
    | with_reducible apply keeps_ite | dsimp only | split | intro _

theorem keeps_execCycCountWrite {L : Touch} {s0 s : State} (v : Word) (hk : Keeps L s0 s) (hclock : L.clock := by assumption) (hlamp : L.lamp := by assumption) (hlink : L.link := by assumption) (hfault : L.fault := by assumption) (hintake : L.intake := by assumption) (hmedia : L.media := by assumption) (hplace : L.place := by assumption) (hjournal : L.journal := by assumption) (hhost : L.host := by assumption) (hpower : L.power := by assumption) (hsnuff : L.snuff := by assumption) (hwick : L.wick := by assumption) (hmem : L.mem := by assumption) (hhealth : L.health := by assumption) (hdraws : L.draws := by assumption) : KeepsN L s0 (execCycCountWrite v s) := by
  unfold execCycCountWrite
  repeat' first
    | with_reducible assumption | with_reducible rfl | with_reducible apply keepsN_next | exact keepsN_fault _
    | exact keepsN_refused _ | with_reducible apply keeps_busWrite | with_reducible apply keepsN_ite
    | with_reducible apply keeps_ite | dsimp only | split | intro _

theorem keeps_execPlanWinWrite {L : Touch} {s0 s : State} (v : Word) (hk : Keeps L s0 s) (hclock : L.clock := by assumption) (hlamp : L.lamp := by assumption) (hlink : L.link := by assumption) (hfault : L.fault := by assumption) (hintake : L.intake := by assumption) (hmedia : L.media := by assumption) (hplace : L.place := by assumption) (hjournal : L.journal := by assumption) (hhost : L.host := by assumption) (hpower : L.power := by assumption) (hsnuff : L.snuff := by assumption) (hwick : L.wick := by assumption) (hmem : L.mem := by assumption) (hhealth : L.health := by assumption) (hdraws : L.draws := by assumption) : KeepsN L s0 (execPlanWinWrite v s) := by
  unfold execPlanWinWrite
  repeat' first
    | with_reducible assumption | with_reducible rfl | with_reducible apply keepsN_next | exact keepsN_fault _
    | exact keepsN_refused _ | with_reducible apply keeps_busWrite | with_reducible apply keepsN_ite
    | with_reducible apply keeps_ite | dsimp only | split | intro _

theorem keeps_execRegisterWrite {L : Touch} {s0 s : State} (addr : BitVec 7) (v : Word) (mask : Word) (hk : Keeps L s0 s) (hclock : L.clock := by assumption) (hlamp : L.lamp := by assumption) (hlink : L.link := by assumption) (hfault : L.fault := by assumption) (hintake : L.intake := by assumption) (hmedia : L.media := by assumption) (hplace : L.place := by assumption) (hjournal : L.journal := by assumption) (hhost : L.host := by assumption) (hpower : L.power := by assumption) (hsnuff : L.snuff := by assumption) (hwick : L.wick := by assumption) (hmem : L.mem := by assumption) (hhealth : L.health := by assumption) (hdraws : L.draws := by assumption) : KeepsN L s0 (execRegisterWrite addr v mask s) := by
  unfold execRegisterWrite
  repeat' first
    | with_reducible assumption | with_reducible rfl | with_reducible apply keepsN_next | exact keepsN_fault _
    | exact keepsN_refused _ | with_reducible apply keeps_busWrite | with_reducible apply keepsN_ite
    | with_reducible apply keeps_ite | dsimp only | split | intro _

theorem keeps_execStCmdOpen {L : Touch} {s0 s : State}  (hk : Keeps L s0 s) (hclock : L.clock := by assumption) (hlamp : L.lamp := by assumption) (hlink : L.link := by assumption) (hfault : L.fault := by assumption) (hintake : L.intake := by assumption) (hmedia : L.media := by assumption) (hplace : L.place := by assumption) (hjournal : L.journal := by assumption) (hhost : L.host := by assumption) (hpower : L.power := by assumption) (hsnuff : L.snuff := by assumption) (hwick : L.wick := by assumption) (hmem : L.mem := by assumption) (hhealth : L.health := by assumption) (hdraws : L.draws := by assumption) : KeepsN L s0 (execStCmdOpen s) := by
  unfold execStCmdOpen
  repeat' first
    | with_reducible assumption | with_reducible rfl | with_reducible apply keepsN_next | exact keepsN_fault _
    | exact keepsN_refused _ | with_reducible apply keeps_busWrite | with_reducible apply keepsN_ite
    | with_reducible apply keeps_ite | dsimp only | split | intro _

theorem keeps_execStCmdEnd {L : Touch} {s0 s : State}  (hk : Keeps L s0 s) (hclock : L.clock := by assumption) (hlamp : L.lamp := by assumption) (hlink : L.link := by assumption) (hfault : L.fault := by assumption) (hintake : L.intake := by assumption) (hmedia : L.media := by assumption) (hplace : L.place := by assumption) (hjournal : L.journal := by assumption) (hhost : L.host := by assumption) (hpower : L.power := by assumption) (hsnuff : L.snuff := by assumption) (hwick : L.wick := by assumption) (hmem : L.mem := by assumption) (hhealth : L.health := by assumption) (hdraws : L.draws := by assumption) : KeepsN L s0 (execStCmdEnd s) := by
  unfold execStCmdEnd
  repeat' first
    | with_reducible assumption | with_reducible rfl | with_reducible apply keepsN_next | exact keepsN_fault _
    | exact keepsN_refused _ | with_reducible apply keeps_busWrite | with_reducible apply keepsN_ite
    | with_reducible apply keeps_ite | dsimp only | split | intro _

theorem keeps_execStCmdResume {L : Touch} {s0 s : State}  (hk : Keeps L s0 s) (hclock : L.clock := by assumption) (hlamp : L.lamp := by assumption) (hlink : L.link := by assumption) (hfault : L.fault := by assumption) (hintake : L.intake := by assumption) (hmedia : L.media := by assumption) (hplace : L.place := by assumption) (hjournal : L.journal := by assumption) (hhost : L.host := by assumption) (hpower : L.power := by assumption) (hsnuff : L.snuff := by assumption) (hwick : L.wick := by assumption) (hmem : L.mem := by assumption) (hhealth : L.health := by assumption) (hdraws : L.draws := by assumption) : KeepsN L s0 (execStCmdResume s) := by
  unfold execStCmdResume
  repeat' first
    | with_reducible assumption | with_reducible rfl | with_reducible apply keepsN_next | exact keepsN_fault _
    | exact keepsN_refused _ | with_reducible apply keeps_busWrite | with_reducible apply keepsN_ite
    | with_reducible apply keeps_ite | dsimp only | split | intro _

theorem keeps_execStCmdDelete {L : Touch} {s0 s : State}  (hk : Keeps L s0 s) (hclock : L.clock := by assumption) (hlamp : L.lamp := by assumption) (hlink : L.link := by assumption) (hfault : L.fault := by assumption) (hintake : L.intake := by assumption) (hmedia : L.media := by assumption) (hplace : L.place := by assumption) (hjournal : L.journal := by assumption) (hhost : L.host := by assumption) (hpower : L.power := by assumption) (hsnuff : L.snuff := by assumption) (hwick : L.wick := by assumption) (hmem : L.mem := by assumption) (hhealth : L.health := by assumption) (hdraws : L.draws := by assumption) : KeepsN L s0 (execStCmdDelete s) := by
  unfold execStCmdDelete
  repeat' first
    | with_reducible assumption | with_reducible rfl | with_reducible apply keepsN_next | exact keepsN_fault _
    | exact keepsN_refused _ | with_reducible apply keeps_busWrite | with_reducible apply keepsN_ite
    | with_reducible apply keeps_ite | dsimp only | split | intro _

theorem keeps_execFrontierLoRead {L : Touch} {s0 s : State} (f : Frontier) (hk : Keeps L s0 s) (hlamp : L.lamp := by assumption) (hlink : L.link := by assumption) (hintake : L.intake := by assumption) (hdraws : L.draws := by assumption) : KeepsN L s0 (execFrontierLoRead f s) := by
  unfold execFrontierLoRead
  repeat' first
    | with_reducible assumption | with_reducible rfl | with_reducible apply keepsN_next | exact keepsN_fault _
    | exact keepsN_refused _ | with_reducible apply keeps_busRead | with_reducible apply keepsN_ite
    | with_reducible apply keeps_ite | dsimp only | split | intro _

theorem keeps_execStTrimHiWrite {L : Touch} {s0 s : State} (v : Word) (hk : Keeps L s0 s) (hclock : L.clock := by assumption) (hlamp : L.lamp := by assumption) (hlink : L.link := by assumption) (hfault : L.fault := by assumption) (hintake : L.intake := by assumption) (hmedia : L.media := by assumption) (hplace : L.place := by assumption) (hjournal : L.journal := by assumption) (hhost : L.host := by assumption) (hpower : L.power := by assumption) (hsnuff : L.snuff := by assumption) (hwick : L.wick := by assumption) (hmem : L.mem := by assumption) (hhealth : L.health := by assumption) (hdraws : L.draws := by assumption) : KeepsN L s0 (execStTrimHiWrite v s) := by
  unfold execStTrimHiWrite
  repeat' first
    | with_reducible assumption | with_reducible rfl | with_reducible apply keepsN_next | exact keepsN_fault _
    | exact keepsN_refused _ | with_reducible apply keeps_busWrite | with_reducible apply keepsN_ite
    | with_reducible apply keeps_ite | dsimp only | split | intro _

theorem keeps_execStTrimLoWrite {L : Touch} {s0 s : State} (v : Word) (hk : Keeps L s0 s) (hclock : L.clock := by assumption) (hlamp : L.lamp := by assumption) (hlink : L.link := by assumption) (hfault : L.fault := by assumption) (hintake : L.intake := by assumption) (hmedia : L.media := by assumption) (hplace : L.place := by assumption) (hjournal : L.journal := by assumption) (hhost : L.host := by assumption) (hpower : L.power := by assumption) (hsnuff : L.snuff := by assumption) (hwick : L.wick := by assumption) (hmem : L.mem := by assumption) (hhealth : L.health := by assumption) (hdraws : L.draws := by assumption) : KeepsN L s0 (execStTrimLoWrite v s) := by
  unfold execStTrimLoWrite
  repeat' first
    | with_reducible assumption | with_reducible rfl | with_reducible apply keepsN_next | exact keepsN_fault _
    | exact keepsN_refused _ | with_reducible apply keeps_busWrite | with_reducible apply keepsN_ite
    | with_reducible apply keeps_ite | dsimp only | split | intro _

theorem keeps_execStreamSelWrite {L : Touch} {s0 s : State} (v : Word) (hk : Keeps L s0 s) (hclock : L.clock := by assumption) (hlamp : L.lamp := by assumption) (hlink : L.link := by assumption) (hfault : L.fault := by assumption) (hintake : L.intake := by assumption) (hmedia : L.media := by assumption) (hplace : L.place := by assumption) (hjournal : L.journal := by assumption) (hhost : L.host := by assumption) (hpower : L.power := by assumption) (hsnuff : L.snuff := by assumption) (hwick : L.wick := by assumption) (hmem : L.mem := by assumption) (hhealth : L.health := by assumption) (hdraws : L.draws := by assumption) : KeepsN L s0 (execStreamSelWrite v s) := by
  unfold execStreamSelWrite
  repeat' first
    | with_reducible assumption | with_reducible rfl | with_reducible apply keepsN_next | exact keepsN_fault _
    | exact keepsN_refused _ | with_reducible apply keeps_busWrite | with_reducible apply keepsN_ite
    | with_reducible apply keeps_ite | dsimp only | split | intro _

theorem keeps_execCryptoErase {L : Touch} {s0 s : State}  (hk : Keeps L s0 s) (hclock : L.clock := by assumption) (hlamp : L.lamp := by assumption) (hlink : L.link := by assumption) (hfault : L.fault := by assumption) (hintake : L.intake := by assumption) (hmedia : L.media := by assumption) (hplace : L.place := by assumption) (hjournal : L.journal := by assumption) (hhost : L.host := by assumption) (hpower : L.power := by assumption) (hsnuff : L.snuff := by assumption) (hwick : L.wick := by assumption) (hmem : L.mem := by assumption) (hhealth : L.health := by assumption) (hdraws : L.draws := by assumption) : KeepsN L s0 (execCryptoErase s) := by
  unfold execCryptoErase
  repeat' first
    | with_reducible assumption | with_reducible rfl | with_reducible apply keepsN_next | exact keepsN_fault _
    | exact keepsN_refused _ | with_reducible apply keeps_busWrite | with_reducible apply keepsN_ite
    | with_reducible apply keeps_ite | dsimp only | split | intro _

theorem keeps_execSoftReset {L : Touch} {s0 s : State}  (hk : Keeps L s0 s) (hclock : L.clock := by assumption) (hlamp : L.lamp := by assumption) (hlink : L.link := by assumption) (hfault : L.fault := by assumption) (hintake : L.intake := by assumption) (hmedia : L.media := by assumption) (hplace : L.place := by assumption) (hjournal : L.journal := by assumption) (hhost : L.host := by assumption) (hpower : L.power := by assumption) (hsnuff : L.snuff := by assumption) (hwick : L.wick := by assumption) (hmem : L.mem := by assumption) (hhealth : L.health := by assumption) (hdraws : L.draws := by assumption) : KeepsN L s0 (execSoftReset s) := by
  unfold execSoftReset
  repeat' first
    | with_reducible assumption | with_reducible rfl | with_reducible apply keepsN_next | exact keepsN_fault _
    | exact keepsN_refused _ | with_reducible apply keeps_busWrite | with_reducible apply keepsN_ite
    | with_reducible apply keeps_ite | dsimp only | split | intro _

theorem keeps_execBootHoldWrite {L : Touch} {s0 s : State} (hold : Bool) (hk : Keeps L s0 s) (hclock : L.clock := by assumption) (hlamp : L.lamp := by assumption) (hlink : L.link := by assumption) (hfault : L.fault := by assumption) (hintake : L.intake := by assumption) (hmedia : L.media := by assumption) (hplace : L.place := by assumption) (hjournal : L.journal := by assumption) (hhost : L.host := by assumption) (hpower : L.power := by assumption) (hsnuff : L.snuff := by assumption) (hwick : L.wick := by assumption) (hmem : L.mem := by assumption) (hhealth : L.health := by assumption) (hdraws : L.draws := by assumption) : KeepsN L s0 (execBootHoldWrite hold s) := by
  unfold execBootHoldWrite
  repeat' first
    | with_reducible assumption | with_reducible rfl | with_reducible apply keepsN_next | exact keepsN_fault _
    | exact keepsN_refused _ | with_reducible apply keeps_busWrite | with_reducible apply keepsN_ite
    | with_reducible apply keeps_ite | dsimp only | split | intro _

theorem keeps_execIndAddrWrite {L : Touch} {s0 s : State} (v : Word) (hk : Keeps L s0 s) (hclock : L.clock := by assumption) (hlamp : L.lamp := by assumption) (hlink : L.link := by assumption) (hfault : L.fault := by assumption) (hintake : L.intake := by assumption) (hmedia : L.media := by assumption) (hplace : L.place := by assumption) (hjournal : L.journal := by assumption) (hhost : L.host := by assumption) (hpower : L.power := by assumption) (hsnuff : L.snuff := by assumption) (hwick : L.wick := by assumption) (hmem : L.mem := by assumption) (hhealth : L.health := by assumption) (hdraws : L.draws := by assumption) : KeepsN L s0 (execIndAddrWrite v s) := by
  unfold execIndAddrWrite
  repeat' first
    | with_reducible assumption | with_reducible rfl | with_reducible apply keepsN_next | exact keepsN_fault _
    | exact keepsN_refused _ | with_reducible apply keeps_busWrite | with_reducible apply keepsN_ite
    | with_reducible apply keeps_ite | dsimp only | split | intro _

theorem keeps_execIndDataAccess {L : Touch} {s0 s : State} (w : Option Word) (hk : Keeps L s0 s) (hclock : L.clock := by assumption) (hlamp : L.lamp := by assumption) (hlink : L.link := by assumption) (hfault : L.fault := by assumption) (hintake : L.intake := by assumption) (hmedia : L.media := by assumption) (hplace : L.place := by assumption) (hjournal : L.journal := by assumption) (hhost : L.host := by assumption) (hpower : L.power := by assumption) (hsnuff : L.snuff := by assumption) (hwick : L.wick := by assumption) (hmem : L.mem := by assumption) (hhealth : L.health := by assumption) (hdraws : L.draws := by assumption) : KeepsN L s0 (execIndDataAccess w s) := by
  unfold execIndDataAccess
  repeat' first
    | with_reducible assumption | with_reducible rfl | with_reducible apply keepsN_next | exact keepsN_fault _
    | exact keepsN_refused _ | with_reducible apply keeps_busWrite | with_reducible apply keeps_busRead
    | with_reducible apply keepsN_ite | with_reducible apply keeps_ite | dsimp only | split | intro _

theorem keeps_execGaugeNow {L : Touch} {s0 s : State}  (hk : Keeps L s0 s) (hclock : L.clock := by assumption) (hlamp : L.lamp := by assumption) (hlink : L.link := by assumption) (hfault : L.fault := by assumption) (hintake : L.intake := by assumption) (hmedia : L.media := by assumption) (hplace : L.place := by assumption) (hjournal : L.journal := by assumption) (hhost : L.host := by assumption) (hpower : L.power := by assumption) (hsnuff : L.snuff := by assumption) (hwick : L.wick := by assumption) (hmem : L.mem := by assumption) (hhealth : L.health := by assumption) (hdraws : L.draws := by assumption) : KeepsN L s0 (execGaugeNow s) := by
  unfold execGaugeNow
  repeat' first
    | with_reducible assumption | with_reducible rfl | with_reducible apply keepsN_next | exact keepsN_fault _
    | exact keepsN_refused _ | with_reducible apply keeps_busWrite | with_reducible apply keepsN_ite
    | with_reducible apply keeps_ite | dsimp only | split | intro _

theorem keeps_execIrqEnableWrite {L : Touch} {s0 s : State} (v : Word) (hk : Keeps L s0 s) (hclock : L.clock := by assumption) (hlamp : L.lamp := by assumption) (hlink : L.link := by assumption) (hfault : L.fault := by assumption) (hintake : L.intake := by assumption) (hmedia : L.media := by assumption) (hplace : L.place := by assumption) (hjournal : L.journal := by assumption) (hhost : L.host := by assumption) (hpower : L.power := by assumption) (hsnuff : L.snuff := by assumption) (hwick : L.wick := by assumption) (hmem : L.mem := by assumption) (hhealth : L.health := by assumption) (hdraws : L.draws := by assumption) : KeepsN L s0 (execIrqEnableWrite v s) := by
  unfold execIrqEnableWrite
  repeat' first
    | with_reducible assumption | with_reducible rfl | with_reducible apply keepsN_next | exact keepsN_fault _
    | exact keepsN_refused _ | with_reducible apply keeps_busWrite | with_reducible apply keepsN_ite
    | with_reducible apply keeps_ite | dsimp only | split | intro _

theorem keeps_execFaultAckWrite {L : Touch} {s0 s : State} (units : BitVec 13) (hk : Keeps L s0 s) (hclock : L.clock := by assumption) (hlamp : L.lamp := by assumption) (hlink : L.link := by assumption) (hfault : L.fault := by assumption) (hintake : L.intake := by assumption) (hmedia : L.media := by assumption) (hplace : L.place := by assumption) (hjournal : L.journal := by assumption) (hhost : L.host := by assumption) (hpower : L.power := by assumption) (hsnuff : L.snuff := by assumption) (hwick : L.wick := by assumption) (hmem : L.mem := by assumption) (hhealth : L.health := by assumption) (hdraws : L.draws := by assumption) : KeepsN L s0 (execFaultAckWrite units s) := by
  unfold execFaultAckWrite
  repeat' first
    | with_reducible assumption | with_reducible rfl | with_reducible apply keepsN_next | exact keepsN_fault _
    | exact keepsN_refused _ | with_reducible apply keeps_busWrite | with_reducible apply keepsN_ite
    | with_reducible apply keeps_ite | dsimp only | split | intro _

theorem keeps_execFaultAckSelf {L : Touch} {s0 s : State}  (hk : Keeps L s0 s) (hclock : L.clock := by assumption) (hlamp : L.lamp := by assumption) (hlink : L.link := by assumption) (hfault : L.fault := by assumption) (hintake : L.intake := by assumption) (hmedia : L.media := by assumption) (hplace : L.place := by assumption) (hjournal : L.journal := by assumption) (hhost : L.host := by assumption) (hpower : L.power := by assumption) (hsnuff : L.snuff := by assumption) (hwick : L.wick := by assumption) (hmem : L.mem := by assumption) (hhealth : L.health := by assumption) (hdraws : L.draws := by assumption) : KeepsN L s0 (execFaultAckSelf s) := by
  unfold execFaultAckSelf
  repeat' first
    | with_reducible assumption | with_reducible rfl | with_reducible apply keepsN_next | exact keepsN_fault _
    | exact keepsN_refused _ | with_reducible apply keeps_busWrite | with_reducible apply keepsN_ite
    | with_reducible apply keeps_ite | dsimp only | split | intro _

theorem keeps_execSetCtrlWrite {L : Touch} {s0 s : State} (v : Word) (hk : Keeps L s0 s) (hclock : L.clock := by assumption) (hlamp : L.lamp := by assumption) (hlink : L.link := by assumption) (hfault : L.fault := by assumption) (hintake : L.intake := by assumption) (hmedia : L.media := by assumption) (hplace : L.place := by assumption) (hjournal : L.journal := by assumption) (hhost : L.host := by assumption) (hpower : L.power := by assumption) (hsnuff : L.snuff := by assumption) (hwick : L.wick := by assumption) (hmem : L.mem := by assumption) (hhealth : L.health := by assumption) (hdraws : L.draws := by assumption) : KeepsN L s0 (execSetCtrlWrite v s) := by
  unfold execSetCtrlWrite
  repeat' first
    | with_reducible assumption | with_reducible rfl | with_reducible apply keepsN_next | exact keepsN_fault _
    | exact keepsN_refused _ | with_reducible apply keeps_busWrite | with_reducible apply keepsN_ite
    | with_reducible apply keeps_ite | dsimp only | split | intro _

theorem keeps_execMemRetireWrite {L : Touch} {s0 s : State} (target : BitVec 20) (hk : Keeps L s0 s) (hclock : L.clock := by assumption) (hlamp : L.lamp := by assumption) (hlink : L.link := by assumption) (hfault : L.fault := by assumption) (hintake : L.intake := by assumption) (hmedia : L.media := by assumption) (hplace : L.place := by assumption) (hjournal : L.journal := by assumption) (hhost : L.host := by assumption) (hpower : L.power := by assumption) (hsnuff : L.snuff := by assumption) (hwick : L.wick := by assumption) (hmem : L.mem := by assumption) (hhealth : L.health := by assumption) (hdraws : L.draws := by assumption) : KeepsN L s0 (execMemRetireWrite target s) := by
  unfold execMemRetireWrite
  repeat' first
    | with_reducible assumption | with_reducible rfl | with_reducible apply keepsN_next | exact keepsN_fault _
    | exact keepsN_refused _ | with_reducible apply keeps_busWrite | with_reducible apply keepsN_ite
    | with_reducible apply keeps_ite | dsimp only | split | intro _

theorem keeps_execMemPwrWrite {L : Touch} {s0 s : State} (st : BitVec 2) (hk : Keeps L s0 s) (hclock : L.clock := by assumption) (hlamp : L.lamp := by assumption) (hlink : L.link := by assumption) (hfault : L.fault := by assumption) (hintake : L.intake := by assumption) (hmedia : L.media := by assumption) (hplace : L.place := by assumption) (hjournal : L.journal := by assumption) (hhost : L.host := by assumption) (hpower : L.power := by assumption) (hsnuff : L.snuff := by assumption) (hwick : L.wick := by assumption) (hmem : L.mem := by assumption) (hhealth : L.health := by assumption) (hdraws : L.draws := by assumption) : KeepsN L s0 (execMemPwrWrite st s) := by
  unfold execMemPwrWrite
  repeat' first
    | with_reducible assumption | with_reducible rfl | with_reducible apply keepsN_next | exact keepsN_fault _
    | exact keepsN_refused _ | with_reducible apply keeps_busWrite | with_reducible apply keepsN_ite
    | with_reducible apply keeps_ite | dsimp only | split | intro _

theorem keeps_execMemTestEnWrite {L : Touch} {s0 s : State} (en : Bool) (hk : Keeps L s0 s) (hclock : L.clock := by assumption) (hlamp : L.lamp := by assumption) (hlink : L.link := by assumption) (hfault : L.fault := by assumption) (hintake : L.intake := by assumption) (hmedia : L.media := by assumption) (hplace : L.place := by assumption) (hjournal : L.journal := by assumption) (hhost : L.host := by assumption) (hpower : L.power := by assumption) (hsnuff : L.snuff := by assumption) (hwick : L.wick := by assumption) (hmem : L.mem := by assumption) (hhealth : L.health := by assumption) (hdraws : L.draws := by assumption) : KeepsN L s0 (execMemTestEnWrite en s) := by
  unfold execMemTestEnWrite
  repeat' first
    | with_reducible assumption | with_reducible rfl | with_reducible apply keepsN_next | exact keepsN_fault _
    | exact keepsN_refused _ | with_reducible apply keeps_busWrite | with_reducible apply keepsN_ite
    | with_reducible apply keeps_ite | dsimp only | split | intro _

theorem keeps_execMemTestRead {L : Touch} {s0 s : State}  (hk : Keeps L s0 s) (hclock : L.clock := by assumption) (hlamp : L.lamp := by assumption) (hlink : L.link := by assumption) (hfault : L.fault := by assumption) (hintake : L.intake := by assumption) (hmedia : L.media := by assumption) (hplace : L.place := by assumption) (hjournal : L.journal := by assumption) (hhost : L.host := by assumption) (hpower : L.power := by assumption) (hsnuff : L.snuff := by assumption) (hwick : L.wick := by assumption) (hmem : L.mem := by assumption) (hhealth : L.health := by assumption) (hdraws : L.draws := by assumption) : KeepsN L s0 (execMemTestRead s) := by
  unfold execMemTestRead
  repeat' first
    | with_reducible assumption | with_reducible rfl | with_reducible apply keepsN_next | exact keepsN_fault _
    | exact keepsN_refused _ | with_reducible apply keeps_busWrite | with_reducible apply keepsN_ite
    | with_reducible apply keeps_ite | dsimp only | split | intro _

theorem keeps_execMemTestWriteRaw {L : Touch} {s0 s : State}  (hk : Keeps L s0 s) (hclock : L.clock := by assumption) (hlamp : L.lamp := by assumption) (hlink : L.link := by assumption) (hfault : L.fault := by assumption) (hintake : L.intake := by assumption) (hmedia : L.media := by assumption) (hplace : L.place := by assumption) (hjournal : L.journal := by assumption) (hhost : L.host := by assumption) (hpower : L.power := by assumption) (hsnuff : L.snuff := by assumption) (hwick : L.wick := by assumption) (hmem : L.mem := by assumption) (hhealth : L.health := by assumption) (hdraws : L.draws := by assumption) : KeepsN L s0 (execMemTestWriteRaw s) := by
  unfold execMemTestWriteRaw
  repeat' first
    | with_reducible assumption | with_reducible rfl | with_reducible apply keepsN_next | exact keepsN_fault _
    | exact keepsN_refused _ | with_reducible apply keeps_busWrite | with_reducible apply keepsN_ite
    | with_reducible apply keeps_ite | dsimp only | split | intro _

theorem keeps_execMemTestWriteChecked {L : Touch} {s0 s : State}  (hk : Keeps L s0 s) (hclock : L.clock := by assumption) (hlamp : L.lamp := by assumption) (hlink : L.link := by assumption) (hfault : L.fault := by assumption) (hintake : L.intake := by assumption) (hmedia : L.media := by assumption) (hplace : L.place := by assumption) (hjournal : L.journal := by assumption) (hhost : L.host := by assumption) (hpower : L.power := by assumption) (hsnuff : L.snuff := by assumption) (hwick : L.wick := by assumption) (hmem : L.mem := by assumption) (hhealth : L.health := by assumption) (hdraws : L.draws := by assumption) : KeepsN L s0 (execMemTestWriteChecked s) := by
  unfold execMemTestWriteChecked
  repeat' first
    | with_reducible assumption | with_reducible rfl | with_reducible apply keepsN_next | exact keepsN_fault _
    | exact keepsN_refused _ | with_reducible apply keeps_busWrite | with_reducible apply keepsN_ite
    | with_reducible apply keeps_ite | dsimp only | split | intro _

theorem keeps_execWickSubmit {L : Touch} {s0 s : State} (tag : Byte) (hk : Keeps L s0 s) (hclock : L.clock := by assumption) (hlamp : L.lamp := by assumption) (hlink : L.link := by assumption) (hfault : L.fault := by assumption) (hintake : L.intake := by assumption) (hmedia : L.media := by assumption) (hplace : L.place := by assumption) (hjournal : L.journal := by assumption) (hhost : L.host := by assumption) (hpower : L.power := by assumption) (hsnuff : L.snuff := by assumption) (hwick : L.wick := by assumption) (hmem : L.mem := by assumption) (hhealth : L.health := by assumption) (hdraws : L.draws := by assumption) : KeepsN L s0 (execWickSubmit tag s) := by
  unfold execWickSubmit
  repeat' first
    | with_reducible assumption | with_reducible rfl | with_reducible apply keepsN_next | exact keepsN_fault _
    | exact keepsN_refused _ | with_reducible apply keeps_busWrite | with_reducible apply keepsN_ite
    | with_reducible apply keeps_ite | dsimp only | split | intro _

theorem keeps_execWickDoneTake {L : Touch} {s0 s : State}  (hk : Keeps L s0 s) (hclock : L.clock := by assumption) (hlamp : L.lamp := by assumption) (hlink : L.link := by assumption) (hfault : L.fault := by assumption) (hintake : L.intake := by assumption) (hmedia : L.media := by assumption) (hplace : L.place := by assumption) (hjournal : L.journal := by assumption) (hhost : L.host := by assumption) (hpower : L.power := by assumption) (hsnuff : L.snuff := by assumption) (hwick : L.wick := by assumption) (hmem : L.mem := by assumption) (hhealth : L.health := by assumption) (hdraws : L.draws := by assumption) : KeepsN L s0 (execWickDoneTake s) := by
  unfold execWickDoneTake
  repeat' first
    | with_reducible assumption | with_reducible rfl | with_reducible apply keepsN_next | exact keepsN_fault _
    | exact keepsN_refused _ | with_reducible apply keeps_busWrite | with_reducible apply keepsN_ite
    | with_reducible apply keeps_ite | dsimp only | split | intro _

theorem keeps_execCellarBaseWrite {L : Touch} {s0 s : State} (size : Bool) (hi : Word) (hk : Keeps L s0 s) (hclock : L.clock := by assumption) (hlamp : L.lamp := by assumption) (hlink : L.link := by assumption) (hfault : L.fault := by assumption) (hintake : L.intake := by assumption) (hmedia : L.media := by assumption) (hplace : L.place := by assumption) (hjournal : L.journal := by assumption) (hhost : L.host := by assumption) (hpower : L.power := by assumption) (hsnuff : L.snuff := by assumption) (hwick : L.wick := by assumption) (hmem : L.mem := by assumption) (hhealth : L.health := by assumption) (hdraws : L.draws := by assumption) : KeepsN L s0 (execCellarBaseWrite size hi s) := by
  unfold execCellarBaseWrite
  repeat' first
    | with_reducible assumption | with_reducible rfl | with_reducible apply keepsN_next | exact keepsN_fault _
    | exact keepsN_refused _ | with_reducible apply keeps_busWrite | with_reducible apply keepsN_ite
    | with_reducible apply keeps_ite | dsimp only | split | intro _

theorem keeps_execVauxPorAssert {L : Touch} {s0 s : State}  (hk : Keeps L s0 s) (hclock : L.clock := by assumption) : KeepsN L s0 (execVauxPorAssert s) := by
  unfold execVauxPorAssert
  repeat' first
    | with_reducible assumption | with_reducible rfl | with_reducible apply keepsN_next | exact keepsN_fault _
    | exact keepsN_refused _ | with_reducible apply keeps_onClock | with_reducible apply keepsN_ite
    | with_reducible apply keeps_ite | dsimp only | split | intro _

theorem keeps_execVauxReturn {L : Touch} {s0 s : State}  (hk : Keeps L s0 s) (hclock : L.clock := by assumption) : KeepsN L s0 (execVauxReturn s) := by
  unfold execVauxReturn
  repeat' first
    | with_reducible assumption | with_reducible rfl | with_reducible apply keepsN_next | exact keepsN_fault _
    | exact keepsN_refused _ | with_reducible apply keeps_onClock | with_reducible apply keeps_trigger
    | with_reducible apply keepsN_ite | with_reducible apply keeps_ite | dsimp only | split | intro _

theorem keeps_execFuseMapRead {L : Touch} {s0 s : State} (bad : List (BitVec 6)) (hk : Keeps L s0 s) (hclock : L.clock := by assumption) (hwick : L.wick := by assumption) (hdraws : L.draws := by assumption) : KeepsN L s0 (execFuseMapRead bad s) := by
  unfold execFuseMapRead
  repeat' first
    | with_reducible assumption | with_reducible rfl | with_reducible apply keepsN_next | exact keepsN_fault _
    | exact keepsN_refused _ | with_reducible apply keeps_onClock | with_reducible apply keeps_onWick
    | with_reducible apply keeps_draws | with_reducible apply keepsN_ite | with_reducible apply keeps_ite | dsimp only
    | split | intro _

theorem keeps_execVinPor {L : Touch} {s0 s : State}  (hk : Keeps L s0 s) (hclock : L.clock := by assumption) (hlink : L.link := by assumption) (hfault : L.fault := by assumption) (hintake : L.intake := by assumption) (hmedia : L.media := by assumption) (hplace : L.place := by assumption) (hjournal : L.journal := by assumption) (hhost : L.host := by assumption) (hpower : L.power := by assumption) (hsnuff : L.snuff := by assumption) (hwick : L.wick := by assumption) (hmem : L.mem := by assumption) (hhealth : L.health := by assumption) : KeepsN L s0 (execVinPor s) := by
  unfold execVinPor
  repeat' first
    | with_reducible assumption | with_reducible rfl | with_reducible apply keepsN_next | exact keepsN_fault _
    | exact keepsN_refused _ | with_reducible apply keeps_onPower | with_reducible apply keeps_dropCause
    | with_reducible apply keeps_resetSource | with_reducible apply keeps_onClock | with_reducible apply keeps_powerUp
    | with_reducible apply keepsN_ite | with_reducible apply keeps_ite | dsimp only | split | intro _

theorem keeps_execPllLock {L : Touch} {s0 s : State} (p : Pll) (hk : Keeps L s0 s) (hclock : L.clock := by assumption) (hpower : L.power := by assumption) : KeepsN L s0 (execPllLock p s) := by
  unfold execPllLock
  repeat' first
    | with_reducible assumption | with_reducible rfl | with_reducible apply keepsN_next | exact keepsN_fault _
    | exact keepsN_refused _ | with_reducible apply keeps_afterRails | with_reducible apply keeps_onClock
    | with_reducible apply keeps_pllsDone | with_reducible apply keepsN_ite | with_reducible apply keeps_ite
    | dsimp only | split | intro _ | unfold ClockState.setPll

theorem keeps_execPllLockTimeout {L : Touch} {s0 s : State} (p : Pll) (hk : Keeps L s0 s) (hclock : L.clock := by assumption) (hlink : L.link := by assumption) (hfault : L.fault := by assumption) (hintake : L.intake := by assumption) (hmedia : L.media := by assumption) (hplace : L.place := by assumption) (hjournal : L.journal := by assumption) (hhost : L.host := by assumption) (hpower : L.power := by assumption) (hsnuff : L.snuff := by assumption) (hwick : L.wick := by assumption) (hmem : L.mem := by assumption) (hhealth : L.health := by assumption) : KeepsN L s0 (execPllLockTimeout p s) := by
  unfold execPllLockTimeout
  repeat' first
    | with_reducible assumption | with_reducible rfl | with_reducible apply keepsN_next | exact keepsN_fault _
    | exact keepsN_refused _ | with_reducible apply keeps_afterRails | with_reducible apply keeps_onClock
    | with_reducible apply keeps_restart | with_reducible apply keeps_trigger | with_reducible apply keeps_pllsDone
    | with_reducible apply keepsN_ite | with_reducible apply keeps_ite | dsimp only | split | intro _
    | unfold ClockState.setPll | unfold LampState.restart

theorem keeps_execPllUnlock {L : Touch} {s0 s : State} (p : Pll) (hk : Keeps L s0 s) (hclock : L.clock := by assumption) (hlamp : L.lamp := by assumption) (hlink : L.link := by assumption) (hfault : L.fault := by assumption) (hintake : L.intake := by assumption) (hmedia : L.media := by assumption) (hplace : L.place := by assumption) (hjournal : L.journal := by assumption) (hhost : L.host := by assumption) (hpower : L.power := by assumption) (hsnuff : L.snuff := by assumption) (hwick : L.wick := by assumption) (hmem : L.mem := by assumption) (hhealth : L.health := by assumption) : KeepsN L s0 (execPllUnlock p s) := by
  unfold execPllUnlock
  repeat' first
    | with_reducible assumption | with_reducible rfl | with_reducible apply keepsN_next | exact keepsN_fault _
    | exact keepsN_refused _ | with_reducible apply keeps_assertError | with_reducible apply keeps_takeReport
    | with_reducible apply keepsN_ite | with_reducible apply keeps_ite | dsimp only | split | intro _

theorem keeps_execMemoryFill {L : Touch} {s0 s : State}  (hk : Keeps L s0 s) (hclock : L.clock := by assumption) (hlink : L.link := by assumption) (hfault : L.fault := by assumption) (hintake : L.intake := by assumption) (hhost : L.host := by assumption) : KeepsN L s0 (execMemoryFill s) := by
  unfold execMemoryFill
  repeat' first
    | with_reducible assumption | with_reducible rfl | with_reducible apply keepsN_next | exact keepsN_fault _
    | exact keepsN_refused _ | with_reducible apply keeps_onClock | with_reducible apply keeps_onHost
    | with_reducible apply keeps_reportOtp | with_reducible apply keeps_setDev | with_reducible apply keepsN_ite
    | with_reducible apply keeps_ite | dsimp only | split | intro _

theorem keeps_execHoldWindowEnd {L : Touch} {s0 s : State}  (hk : Keeps L s0 s) (hclock : L.clock := by assumption) : KeepsN L s0 (execHoldWindowEnd s) := by
  unfold execHoldWindowEnd
  repeat' first
    | with_reducible assumption | with_reducible rfl | with_reducible apply keepsN_next | exact keepsN_fault _
    | exact keepsN_refused _ | with_reducible apply keeps_onClock | with_reducible apply keepsN_ite
    | with_reducible apply keeps_ite | dsimp only | split | intro _

theorem keeps_execBootImageLoad {L : Touch} {s0 s : State} (aValid : Bool) (bValid : Bool) (hk : Keeps L s0 s) (hclock : L.clock := by assumption) (hlink : L.link := by assumption) (hintake : L.intake := by assumption) (hhost : L.host := by assumption) (hwick : L.wick := by assumption) : KeepsN L s0 (execBootImageLoad aValid bValid s) := by
  unfold execBootImageLoad
  repeat' first
    | with_reducible assumption | with_reducible rfl | with_reducible apply keepsN_next | exact keepsN_fault _
    | exact keepsN_refused _ | with_reducible apply keeps_bootCheck | with_reducible apply keeps_onWick
    | with_reducible apply keeps_onClock | with_reducible apply keeps_startSlot
    | with_reducible apply keeps_enterDownload | with_reducible apply keepsN_ite | with_reducible apply keeps_ite
    | dsimp only | split | intro _

theorem keeps_execFirmwareStart {L : Touch} {s0 s : State}  (hk : Keeps L s0 s) (hclock : L.clock := by assumption) (hlink : L.link := by assumption) (hintake : L.intake := by assumption) (hplace : L.place := by assumption) (hhost : L.host := by assumption) (hwick : L.wick := by assumption) (hdraws : L.draws := by assumption) : KeepsN L s0 (execFirmwareStart s) := by
  unfold execFirmwareStart
  repeat' first
    | with_reducible assumption | with_reducible rfl | with_reducible apply keepsN_next | exact keepsN_fault _
    | exact keepsN_refused _ | with_reducible apply keeps_onClock | with_reducible apply keeps_setDev
    | with_reducible apply keeps_unwrapKey | with_reducible apply keeps_onWick | with_reducible apply keeps_onIntake
    | with_reducible apply keeps_onPlace | with_reducible apply keeps_draws | with_reducible apply keepsN_ite
    | with_reducible apply keeps_ite | dsimp only | split | intro _ | exact twf_nil _

theorem keeps_execRecovery {L : Touch} {s0 s : State} (r : RecoveryIn) (hk : Keeps L s0 s) (hclock : L.clock := by assumption) (hlamp : L.lamp := by assumption) (hlink : L.link := by assumption) (hfault : L.fault := by assumption) (hintake : L.intake := by assumption) (hmedia : L.media := by assumption) (hplace : L.place := by assumption) (hjournal : L.journal := by assumption) (hhost : L.host := by assumption) (hpower : L.power := by assumption) (hsnuff : L.snuff := by assumption) (hwick : L.wick := by assumption) (hmem : L.mem := by assumption) (hhealth : L.health := by assumption) (hdraws : L.draws := by assumption) : KeepsN L s0 (execRecovery r s) := by
  unfold execRecovery
  repeat' first
    | with_reducible assumption | with_reducible rfl | with_reducible apply keepsN_next | exact keepsN_fault _
    | exact keepsN_refused _ | with_reducible apply keeps_recoverFrom | with_reducible apply keeps_initMagazine
    | with_reducible apply keeps_onClock | with_reducible apply keeps_setDev | with_reducible apply keepsN_ite
    | with_reducible apply keeps_ite | dsimp only | split | intro _

end

end Sys2Proof.Machine
end

