-- ==== Sys2Proof/Laws/KeepsStep.lean ====
section
/-! SUPPORT. What the dispatch keeps: every command but the release of VAUX POR leaves the queue and the straps, keeps the
invariant, and does not lower the cycle number. -/
namespace Sys2Proof.Machine
open Sys2Proof

section
set_option Elab.async false

/-- Every part of State. -/
def Touch.all : Touch :=
  ⟨true, true, true, true, true, true, true, true, true, true, true, true, true, true, true, true⟩

/-- What every command but VAUX_POR_RELEASE keeps, whatever parts of State it touches. -/
theorem keeps_exec (c : Instr) (s t : State) (hc : ∀ p, c ≠ .vauxPorRelease p) (hx : exec c s = .next t) :
    Keeps Touch.all s t := by
  cases c with
  | phaseInEdge sinceNs pos => exact keeps_execPhaseInEdge sinceNs pos (Keeps.refl Touch.all s) rfl t hx
  | marker pos m => exact keeps_execMarker pos m (Keeps.refl Touch.all s) rfl rfl rfl rfl rfl rfl rfl rfl rfl rfl rfl t hx
  | generatedMarker m => exact keeps_execGeneratedMarker m (Keeps.refl Touch.all s) rfl rfl rfl rfl rfl rfl rfl rfl rfl rfl rfl t hx
  | acquireSynthMarker m => exact keeps_execAcquireSynthMarker m (Keeps.refl Touch.all s) rfl rfl rfl rfl rfl rfl rfl rfl rfl rfl rfl t hx
  | flywheelSynthMarker m => exact keeps_execFlywheelSynthMarker m (Keeps.refl Touch.all s) rfl rfl rfl rfl rfl rfl rfl rfl rfl rfl rfl t hx
  | tickLimitMarker m => exact keeps_execTickLimitMarker m (Keeps.refl Touch.all s) rfl rfl rfl rfl rfl rfl rfl rfl rfl rfl rfl t hx
  | tickLost pos edges spanClocks => exact keeps_execTickLost pos edges spanClocks (Keeps.refl Touch.all s) rfl rfl rfl t hx
  | windowOpen pos => exact keeps_execWindowOpen pos (Keeps.refl Touch.all s) rfl t hx
  | windowEnd pos => exact keeps_execWindowEnd pos (Keeps.refl Touch.all s) rfl t hx
  | tailGraceExpire pos => exact keeps_execTailGraceExpire pos (Keeps.refl Touch.all s) rfl rfl rfl t hx
  | sealStart  => exact keeps_execSealStart (Keeps.refl Touch.all s) rfl rfl rfl t hx
  | sealComplete  => exact keeps_execSealComplete (Keeps.refl Touch.all s) rfl rfl rfl rfl rfl rfl rfl rfl rfl t hx
  | closeDoorbell stream c => exact keeps_execCloseDoorbell stream c (Keeps.refl Touch.all s) rfl rfl t hx
  | cycSrcWrite v mask => exact keeps_execCycSrcWrite v mask (Keeps.refl Touch.all s) rfl rfl rfl rfl rfl rfl rfl rfl rfl rfl rfl rfl rfl rfl rfl t hx
  | cycPeriodWrite v => exact keeps_execCycPeriodWrite v (Keeps.refl Touch.all s) rfl rfl rfl rfl rfl rfl rfl rfl rfl rfl rfl rfl rfl rfl rfl t hx
  | cycCountRead  => exact keeps_execCycCountRead (Keeps.refl Touch.all s) rfl rfl rfl rfl t hx
  | cycCountHiWrite v => exact keeps_execCycCountHiWrite v (Keeps.refl Touch.all s) rfl rfl rfl rfl rfl rfl rfl rfl rfl rfl rfl rfl rfl rfl rfl t hx
  | cycCountWrite v => exact keeps_execCycCountWrite v (Keeps.refl Touch.all s) rfl rfl rfl rfl rfl rfl rfl rfl rfl rfl rfl rfl rfl rfl rfl t hx
  | planWinWrite v => exact keeps_execPlanWinWrite v (Keeps.refl Touch.all s) rfl rfl rfl rfl rfl rfl rfl rfl rfl rfl rfl rfl rfl rfl rfl t hx
  | registerWrite addr v mask => exact keeps_execRegisterWrite addr v mask (Keeps.refl Touch.all s) rfl rfl rfl rfl rfl rfl rfl rfl rfl rfl rfl rfl rfl rfl rfl t hx
  | stCmdOpen  => exact keeps_execStCmdOpen (Keeps.refl Touch.all s) rfl rfl rfl rfl rfl rfl rfl rfl rfl rfl rfl rfl rfl rfl rfl t hx
  | stCmdEnd  => exact keeps_execStCmdEnd (Keeps.refl Touch.all s) rfl rfl rfl rfl rfl rfl rfl rfl rfl rfl rfl rfl rfl rfl rfl t hx
  | stCmdResume  => exact keeps_execStCmdResume (Keeps.refl Touch.all s) rfl rfl rfl rfl rfl rfl rfl rfl rfl rfl rfl rfl rfl rfl rfl t hx
  | stCmdDelete  => exact keeps_execStCmdDelete (Keeps.refl Touch.all s) rfl rfl rfl rfl rfl rfl rfl rfl rfl rfl rfl rfl rfl rfl rfl t hx
  | apertureWrite off data be ep eccBad => exact keeps_execApertureWrite off data be ep eccBad (Keeps.refl Touch.all s) rfl rfl rfl rfl rfl rfl t hx
  | tunAck stream => exact keeps_execTunAck stream (Keeps.refl Touch.all s) rfl rfl rfl rfl rfl rfl rfl rfl rfl rfl rfl rfl rfl rfl rfl t hx
  | mirrorWrite stream => exact keeps_execMirrorWrite stream (Keeps.refl Touch.all s) rfl rfl rfl rfl rfl rfl rfl rfl rfl rfl rfl rfl rfl rfl rfl t hx
  | frontierLoRead f => exact keeps_execFrontierLoRead f (Keeps.refl Touch.all s) rfl rfl rfl rfl t hx
  | stTrimHiWrite v => exact keeps_execStTrimHiWrite v (Keeps.refl Touch.all s) rfl rfl rfl rfl rfl rfl rfl rfl rfl rfl rfl rfl rfl rfl rfl t hx
  | stTrimLoWrite v => exact keeps_execStTrimLoWrite v (Keeps.refl Touch.all s) rfl rfl rfl rfl rfl rfl rfl rfl rfl rfl rfl rfl rfl rfl rfl t hx
  | streamSelWrite v => exact keeps_execStreamSelWrite v (Keeps.refl Touch.all s) rfl rfl rfl rfl rfl rfl rfl rfl rfl rfl rfl rfl rfl rfl rfl t hx
  | creditGrant  => exact keeps_execCreditGrant (Keeps.refl Touch.all s) rfl rfl rfl t hx
  | energyShortfallTimeout  => exact keeps_execEnergyShortfallTimeout (Keeps.refl Touch.all s) rfl rfl rfl rfl rfl t hx
  | wtFlushStart  => exact keeps_execWtFlushStart (Keeps.refl Touch.all s) rfl rfl rfl t hx
  | throughNoteProgrammed  => exact keeps_execThroughNoteProgrammed (Keeps.refl Touch.all s) rfl rfl rfl rfl rfl rfl rfl rfl rfl rfl rfl rfl rfl rfl rfl t hx
  | cryptoErase  => exact keeps_execCryptoErase (Keeps.refl Touch.all s) rfl rfl rfl rfl rfl rfl rfl rfl rfl rfl rfl rfl rfl rfl rfl t hx
  | softReset  => exact keeps_execSoftReset (Keeps.refl Touch.all s) rfl rfl rfl rfl rfl rfl rfl rfl rfl rfl rfl rfl rfl rfl rfl t hx
  | bootHoldWrite hold => exact keeps_execBootHoldWrite hold (Keeps.refl Touch.all s) rfl rfl rfl rfl rfl rfl rfl rfl rfl rfl rfl rfl rfl rfl rfl t hx
  | journalTailCommit  => exact keeps_execJournalTailCommit (Keeps.refl Touch.all s) rfl rfl rfl t hx
  | perstAssert  => exact keeps_execPerstAssert (Keeps.refl Touch.all s) rfl rfl rfl t hx
  | recovery r => exact keeps_execRecovery r (Keeps.refl Touch.all s) rfl rfl rfl rfl rfl rfl rfl rfl rfl rfl rfl rfl rfl rfl rfl t hx
  | mediaDiscovery d => exact keeps_execMediaDiscovery d (Keeps.refl Touch.all s) rfl rfl rfl rfl rfl rfl t hx
  | channelTraining ch pass => exact keeps_execChannelTraining ch pass (Keeps.refl Touch.all s) rfl rfl rfl rfl t hx
  | zqCalibrationShort ch => exact keeps_execZqCalibrationShort ch (Keeps.refl Touch.all s) rfl t hx
  | retrainCheck ch pass => exact keeps_execRetrainCheck ch pass (Keeps.refl Touch.all s) rfl rfl t hx
  | tempRetrain ch elapsedS => exact keeps_execTempRetrain ch elapsedS (Keeps.refl Touch.all s) rfl t hx
  | channelRetrain ch pass => exact keeps_execChannelRetrain ch pass (Keeps.refl Touch.all s) rfl rfl rfl rfl t hx
  | descriptorStart ch subs slot eccBad => exact keeps_execDescriptorStart ch subs slot eccBad (Keeps.refl Touch.all s) rfl rfl t hx
  | tokenWaitAge ch slot => exact keeps_execTokenWaitAge ch slot (Keeps.refl Touch.all s) rfl t hx
  | mediaRead ch slot r => exact keeps_execMediaRead ch slot r (Keeps.refl Touch.all s) rfl rfl rfl rfl rfl rfl t hx
  | mediaProgram ch slot notErased failed => exact keeps_execMediaProgram ch slot notErased failed (Keeps.refl Touch.all s) rfl rfl t hx
  | mediaParity ch slot failed => exact keeps_execMediaParity ch slot failed (Keeps.refl Touch.all s) rfl t hx
  | mediaErase ch slot failed => exact keeps_execMediaErase ch slot failed (Keeps.refl Touch.all s) rfl t hx
  | markRead ch slot marked => exact keeps_execMarkRead ch slot marked (Keeps.refl Touch.all s) rfl t hx
  | feature ch slot => exact keeps_execFeature ch slot (Keeps.refl Touch.all s) rfl rfl t hx
  | resetDie ch slot idMatches => exact keeps_execResetDie ch slot idMatches (Keeps.refl Touch.all s) rfl rfl rfl rfl rfl t hx
  | dieTimeout ch slot readyAgain idMatches inSecond => exact keeps_execDieTimeout ch slot readyAgain idMatches inSecond (Keeps.refl Touch.all s) rfl rfl rfl rfl t hx
  | descriptorComplete ch slot e => exact keeps_execDescriptorComplete ch slot e (Keeps.refl Touch.all s) rfl rfl rfl rfl rfl rfl t hx
  | rebuild ch m => exact keeps_execRebuild ch m (Keeps.refl Touch.all s) rfl rfl rfl rfl t hx
  | kilnBatch m => exact keeps_execKilnBatch m (Keeps.refl Touch.all s) rfl rfl rfl rfl rfl rfl t hx
  | spargeCopy band m => exact keeps_execSpargeCopy band m (Keeps.refl Touch.all s) rfl rfl rfl rfl t hx
  | refreshRewrite ch band m => exact keeps_execRefreshRewrite ch band m (Keeps.refl Touch.all s) rfl rfl rfl rfl t hx
  | refreshUrgentAge ch band => exact keeps_execRefreshUrgentAge ch band (Keeps.refl Touch.all s) rfl t hx
  | bandRelease band => exact keeps_execBandRelease band (Keeps.refl Touch.all s) rfl rfl t hx
  | piecePlacement stream => exact keeps_execPiecePlacement stream (Keeps.refl Touch.all s) rfl rfl t hx
  | runPageWrite  => exact keeps_execRunPageWrite (Keeps.refl Touch.all s) rfl rfl t hx
  | gristMiss page => exact keeps_execGristMiss page (Keeps.refl Touch.all s) rfl rfl rfl t hx
  | cellarPageFetched page r => exact keeps_execCellarPageFetched page r (Keeps.refl Touch.all s) rfl rfl rfl rfl t hx
  | snuffBandCheck firstErased secondErased => exact keeps_execSnuffBandCheck firstErased secondErased (Keeps.refl Touch.all s) rfl rfl t hx
  | scrubVisit ch band last further => exact keeps_execScrubVisit ch band last further (Keeps.refl Touch.all s) rfl rfl rfl rfl t hx
  | healthMinute  => exact keeps_execHealthMinute (Keeps.refl Touch.all s) rfl t hx
  | indAddrWrite v => exact keeps_execIndAddrWrite v (Keeps.refl Touch.all s) rfl rfl rfl rfl rfl rfl rfl rfl rfl rfl rfl rfl rfl rfl rfl t hx
  | indDataAccess w => exact keeps_execIndDataAccess w (Keeps.refl Touch.all s) rfl rfl rfl rfl rfl rfl rfl rfl rfl rfl rfl rfl rfl rfl rfl t hx
  | vinPor  => exact keeps_execVinPor (Keeps.refl Touch.all s) rfl rfl rfl rfl rfl rfl rfl rfl rfl rfl rfl rfl rfl t hx
  | railUv r below => exact keeps_execRailUv r below (Keeps.refl Touch.all s) rfl rfl t hx
  | railOv r => exact keeps_execRailOv r (Keeps.refl Touch.all s) rfl rfl t hx
  | railOc r beyond => exact keeps_execRailOc r beyond (Keeps.refl Touch.all s) rfl rfl t hx
  | chargeTimeout vbankMv => exact keeps_execChargeTimeout vbankMv (Keeps.refl Touch.all s) rfl rfl t hx
  | tempSample ctrl0 ctrl1 ctrl2 ctrl3 pwr wick => exact keeps_execTempSample ctrl0 ctrl1 ctrl2 ctrl3 pwr wick (Keeps.refl Touch.all s) rfl rfl t hx
  | thermalLimitRecompute higherForMs => exact keeps_execThermalLimitRecompute higherForMs (Keeps.refl Touch.all s) rfl t hx
  | gaugeMeasurement  => exact keeps_execGaugeMeasurement (Keeps.refl Touch.all s) rfl t hx
  | gaugeNow  => exact keeps_execGaugeNow (Keeps.refl Touch.all s) rfl rfl rfl rfl rfl rfl rfl rfl rfl rfl rfl rfl rfl rfl rfl t hx
  | gaugeDeferFail  => exact keeps_execGaugeDeferFail (Keeps.refl Touch.all s) rfl rfl rfl rfl rfl rfl rfl t hx
  | gaugeMeasurementDone v0 v1 v2 => exact keeps_execGaugeMeasurementDone v0 v1 v2 (Keeps.refl Touch.all s) rfl rfl rfl rfl rfl rfl rfl t hx
  | energyAvailUpdate vbankMv => exact keeps_execEnergyAvailUpdate vbankMv (Keeps.refl Touch.all s) rfl rfl rfl rfl rfl rfl rfl t hx
  | removalDetect pos => exact keeps_execRemovalDetect pos (Keeps.refl Touch.all s) rfl rfl rfl rfl rfl rfl rfl rfl rfl rfl rfl rfl rfl rfl t hx
  | presentLowQualify  => exact keeps_execPresentLowQualify (Keeps.refl Touch.all s) rfl t hx
  | brownOut beyond pos => exact keeps_execBrownOut beyond pos (Keeps.refl Touch.all s) rfl rfl rfl rfl rfl rfl rfl rfl rfl rfl rfl rfl rfl rfl t hx
  | vauxLoss  => exact keeps_execVauxLoss (Keeps.refl Touch.all s) rfl t hx
  | snufferFlush left => exact keeps_execSnufferFlush left (Keeps.refl Touch.all s) rfl rfl rfl rfl rfl rfl rfl rfl rfl rfl rfl rfl rfl rfl rfl t hx
  | bankLowAbort  => exact keeps_execBankLowAbort (Keeps.refl Touch.all s) rfl rfl rfl rfl rfl rfl rfl rfl rfl rfl rfl rfl rfl t hx
  | perstDeassert  => exact keeps_execPerstDeassert (Keeps.refl Touch.all s) rfl t hx
  | trainFail  => exact keeps_execTrainFail (Keeps.refl Touch.all s) rfl t hx
  | surpriseDown kind => exact keeps_execSurpriseDown kind (Keeps.refl Touch.all s) rfl rfl rfl rfl t hx
  | functionLevelReset  => exact keeps_execFunctionLevelReset (Keeps.refl Touch.all s) rfl rfl t hx
  | d3hotEntry  => exact keeps_execD3hotEntry (Keeps.refl Touch.all s) rfl t hx
  | d0Return  => exact keeps_execD0Return (Keeps.refl Touch.all s) rfl t hx
  | bar0Read off len => exact keeps_execBar0Read off len (Keeps.refl Touch.all s) rfl t hx
  | tailDoorbell ring v => exact keeps_execTailDoorbell ring v (Keeps.refl Touch.all s) rfl rfl t hx
  | headDoorbell ring v => exact keeps_execHeadDoorbell ring v (Keeps.refl Touch.all s) rfl rfl t hx
  | setupRecordWrite completion ring off data => exact keeps_execSetupRecordWrite completion ring off data (Keeps.refl Touch.all s) rfl rfl t hx
  | mirrorBaseWrite v => exact keeps_execMirrorBaseWrite v (Keeps.refl Touch.all s) rfl rfl t hx
  | setMailboxWrite slot data => exact keeps_execSetMailboxWrite slot data (Keeps.refl Touch.all s) rfl rfl rfl rfl t hx
  | bar2BadWrite off len => exact keeps_execBar2BadWrite off len (Keeps.refl Touch.all s) rfl rfl t hx
  | descriptorFetch r eccBad => exact keeps_execDescriptorFetch r eccBad (Keeps.refl Touch.all s) rfl rfl t hx
  | readStream id back => exact keeps_execReadStream id back (Keeps.refl Touch.all s) rfl rfl t hx
  | readRandom id back => exact keeps_execReadRandom id back (Keeps.refl Touch.all s) rfl rfl rfl t hx
  | writeRandom id => exact keeps_execWriteRandom id (Keeps.refl Touch.all s) rfl rfl rfl rfl t hx
  | dataFetchDone id r => exact keeps_execDataFetchDone id r (Keeps.refl Touch.all s) rfl rfl rfl rfl t hx
  | caskQuery id => exact keeps_execCaskQuery id (Keeps.refl Touch.all s) rfl t hx
  | completionPost id => exact keeps_execCompletionPost id (Keeps.refl Touch.all s) rfl t hx
  | coalesceTimeout ring => exact keeps_execCoalesceTimeout ring (Keeps.refl Touch.all s) rfl t hx
  | sealMarkAbandon  => exact keeps_execSealMarkAbandon (Keeps.refl Touch.all s) rfl t hx
  | linkReset  => exact keeps_execLinkReset (Keeps.refl Touch.all s) rfl rfl rfl rfl rfl rfl rfl rfl rfl rfl rfl rfl rfl rfl rfl t hx
  | linkDeselect  => exact keeps_execLinkDeselect (Keeps.refl Touch.all s) rfl t hx
  | protocolSelect ch parityFails => exact keeps_execProtocolSelect ch parityFails (Keeps.refl Touch.all s) rfl rfl t hx
  | chainedIFrame ns info => exact keeps_execChainedIFrame ns info (Keeps.refl Touch.all s) rfl t hx
  | messageReceive ns nr info => exact keeps_execMessageReceive ns nr info (Keeps.refl Touch.all s) rfl rfl rfl rfl rfl rfl rfl rfl rfl rfl rfl rfl rfl rfl rfl t hx
  | hostRFrame nr reason => exact keeps_execHostRFrame nr reason (Keeps.refl Touch.all s) rfl rfl rfl rfl rfl rfl rfl rfl rfl rfl rfl rfl rfl t hx
  | frameCrcError  => exact keeps_execFrameCrcError (Keeps.refl Touch.all s) rfl rfl t hx
  | length255Frame  => exact keeps_execLength255Frame (Keeps.refl Touch.all s) rfl t hx
  | resyncReq  => exact keeps_execResyncReq (Keeps.refl Touch.all s) rfl t hx
  | abortReq  => exact keeps_execAbortReq (Keeps.refl Touch.all s) rfl t hx
  | checkReq pattern => exact keeps_execCheckReq pattern (Keeps.refl Touch.all s) rfl t hx
  | switchRevert  => exact keeps_execSwitchRevert (Keeps.refl Touch.all s) rfl t hx
  | readReg addr count => exact keeps_execReadReg addr count (Keeps.refl Touch.all s) rfl rfl rfl rfl rfl rfl rfl rfl rfl rfl rfl rfl rfl rfl rfl t hx
  | writeReg addr data => exact keeps_execWriteReg addr data (Keeps.refl Touch.all s) rfl rfl rfl rfl rfl rfl rfl rfl rfl rfl rfl rfl rfl rfl rfl t hx
  | writeMasked addr mask v => exact keeps_execWriteMasked addr mask v (Keeps.refl Touch.all s) rfl rfl rfl rfl rfl rfl rfl rfl rfl rfl rfl rfl rfl rfl rfl t hx
  | indRead addr count => exact keeps_execIndRead addr count (Keeps.refl Touch.all s) rfl rfl rfl rfl rfl rfl rfl rfl rfl rfl rfl rfl rfl rfl rfl t hx
  | indWrite addr data => exact keeps_execIndWrite addr data (Keeps.refl Touch.all s) rfl rfl rfl rfl rfl rfl rfl rfl rfl rfl rfl rfl rfl rfl rfl t hx
  | resetCmdLink  => exact keeps_execResetCmdLink (Keeps.refl Touch.all s) rfl rfl rfl rfl rfl rfl rfl rfl rfl rfl rfl rfl rfl rfl rfl t hx
  | resetCmdWarm  => exact keeps_execResetCmdWarm (Keeps.refl Touch.all s) rfl rfl rfl rfl rfl rfl rfl rfl rfl rfl rfl rfl rfl rfl rfl t hx
  | resetCmdCold  => exact keeps_execResetCmdCold (Keeps.refl Touch.all s) rfl rfl rfl rfl rfl rfl rfl rfl rfl rfl rfl rfl rfl rfl rfl t hx
  | switch width rate => exact keeps_execSwitch width rate (Keeps.refl Touch.all s) rfl rfl rfl rfl rfl rfl rfl rfl rfl rfl rfl rfl rfl rfl rfl t hx
  | sleep  => exact keeps_execSleep (Keeps.refl Touch.all s) rfl rfl rfl rfl rfl rfl rfl rfl rfl rfl rfl rfl rfl rfl rfl t hx
  | wake  => exact keeps_execWake (Keeps.refl Touch.all s) rfl t hx
  | echo data => exact keeps_execEcho data (Keeps.refl Touch.all s) rfl t hx
  | novvenHeader op addr count chk fails => exact keeps_execNovvenHeader op addr count chk fails (Keeps.refl Touch.all s) rfl rfl rfl t hx
  | novvenRead  => exact keeps_execNovvenRead (Keeps.refl Touch.all s) rfl rfl rfl rfl rfl rfl rfl rfl rfl rfl rfl rfl rfl rfl t hx
  | novvenWrite data chk => exact keeps_execNovvenWrite data chk (Keeps.refl Touch.all s) rfl rfl rfl rfl rfl rfl rfl rfl rfl rfl rfl rfl rfl rfl rfl t hx
  | novvenReset  => exact keeps_execNovvenReset (Keeps.refl Touch.all s) rfl rfl rfl rfl rfl rfl rfl rfl rfl rfl rfl rfl rfl rfl rfl t hx
  | irqEnableWrite v => exact keeps_execIrqEnableWrite v (Keeps.refl Touch.all s) rfl rfl rfl rfl rfl rfl rfl rfl rfl rfl rfl rfl rfl rfl rfl t hx
  | faultAckWrite units => exact keeps_execFaultAckWrite units (Keeps.refl Touch.all s) rfl rfl rfl rfl rfl rfl rfl rfl rfl rfl rfl rfl rfl rfl rfl t hx
  | faultAckSelf  => exact keeps_execFaultAckSelf (Keeps.refl Touch.all s) rfl rfl rfl rfl rfl rfl rfl rfl rfl rfl rfl rfl rfl rfl rfl t hx
  | setCtrlWrite v => exact keeps_execSetCtrlWrite v (Keeps.refl Touch.all s) rfl rfl rfl rfl rfl rfl rfl rfl rfl rfl rfl rfl rfl rfl rfl t hx
  | memRetireWrite target => exact keeps_execMemRetireWrite target (Keeps.refl Touch.all s) rfl rfl rfl rfl rfl rfl rfl rfl rfl rfl rfl rfl rfl rfl rfl t hx
  | memPwrWrite st => exact keeps_execMemPwrWrite st (Keeps.refl Touch.all s) rfl rfl rfl rfl rfl rfl rfl rfl rfl rfl rfl rfl rfl rfl rfl t hx
  | memTestEnWrite en => exact keeps_execMemTestEnWrite en (Keeps.refl Touch.all s) rfl rfl rfl rfl rfl rfl rfl rfl rfl rfl rfl rfl rfl rfl rfl t hx
  | memTestRead  => exact keeps_execMemTestRead (Keeps.refl Touch.all s) rfl rfl rfl rfl rfl rfl rfl rfl rfl rfl rfl rfl rfl rfl rfl t hx
  | memTestWriteRaw  => exact keeps_execMemTestWriteRaw (Keeps.refl Touch.all s) rfl rfl rfl rfl rfl rfl rfl rfl rfl rfl rfl rfl rfl rfl rfl t hx
  | memTestWriteChecked  => exact keeps_execMemTestWriteChecked (Keeps.refl Touch.all s) rfl rfl rfl rfl rfl rfl rfl rfl rfl rfl rfl rfl rfl rfl rfl t hx
  | wickSubmit tag => exact keeps_execWickSubmit tag (Keeps.refl Touch.all s) rfl rfl rfl rfl rfl rfl rfl rfl rfl rfl rfl rfl rfl rfl rfl t hx
  | wickDoneTake  => exact keeps_execWickDoneTake (Keeps.refl Touch.all s) rfl rfl rfl rfl rfl rfl rfl rfl rfl rfl rfl rfl rfl rfl rfl t hx
  | cellarBaseWrite size hi => exact keeps_execCellarBaseWrite size hi (Keeps.refl Touch.all s) rfl rfl rfl rfl rfl rfl rfl rfl rfl rfl rfl rfl rfl rfl rfl t hx
  | errorReport u fresh => exact keeps_execErrorReport u fresh (Keeps.refl Touch.all s) rfl rfl rfl rfl rfl rfl rfl rfl rfl rfl rfl rfl rfl rfl t hx
  | unitRestartRelease u => exact keeps_execUnitRestartRelease u (Keeps.refl Touch.all s) rfl rfl rfl rfl rfl rfl rfl rfl t hx
  | shadowEnd u => exact keeps_execShadowEnd u (Keeps.refl Touch.all s) rfl t hx
  | dupMismatch addr other persists => exact keeps_execDupMismatch addr other persists (Keeps.refl Touch.all s) rfl rfl rfl rfl rfl rfl rfl rfl rfl rfl rfl rfl rfl t hx
  | watchdog c => exact keeps_execWatchdog c (Keeps.refl Touch.all s) rfl rfl rfl rfl rfl rfl rfl rfl rfl rfl rfl rfl rfl rfl t hx
  | wickReadMargin pass => exact keeps_execWickReadMargin pass (Keeps.refl Touch.all s) rfl t hx
  | wickProgram blank verified src => exact keeps_execWickProgram blank verified src (Keeps.refl Touch.all s) rfl rfl t hx
  | wickErase fetchOn => exact keeps_execWickErase fetchOn (Keeps.refl Touch.all s) rfl t hx
  | wickEraseSuspend  => exact keeps_execWickEraseSuspend (Keeps.refl Touch.all s) rfl t hx
  | wickEraseResume  => exact keeps_execWickEraseResume (Keeps.refl Touch.all s) rfl t hx
  | otpProgram verified src => exact keeps_execOtpProgram verified src (Keeps.refl Touch.all s) rfl t hx
  | rotate  => exact keeps_execRotate (Keeps.refl Touch.all s) rfl t hx
  | wickDescComplete eraseOk imageValid slotsBlank => exact keeps_execWickDescComplete eraseOk imageValid slotsBlank (Keeps.refl Touch.all s) rfl rfl rfl rfl t hx
  | planeAccessSuspend sector req => exact keeps_execPlaneAccessSuspend sector req (Keeps.refl Touch.all s) rfl rfl t hx
  | eraseAutoResume  => exact keeps_execEraseAutoResume (Keeps.refl Touch.all s) rfl t hx
  | wickBrownout low => exact keeps_execWickBrownout low (Keeps.refl Touch.all s) rfl t hx
  | anchorPairWrite aged waited failA failB slotsBlank => exact keeps_execAnchorPairWrite aged waited failA failB slotsBlank (Keeps.refl Touch.all s) rfl rfl rfl t hx
  | anchorTokenAdd  => exact keeps_execAnchorTokenAdd (Keeps.refl Touch.all s) rfl t hx
  | scrubAccess h mem lapMs => exact keeps_execScrubAccess h mem lapMs (Keeps.refl Touch.all s) rfl rfl rfl t hx
  | eccEntryExamine  => exact keeps_execEccEntryExamine (Keeps.refl Touch.all s) rfl rfl rfl t hx
  | poisonRebuild mem word => exact keeps_execPoisonRebuild mem word (Keeps.refl Touch.all s) rfl t hx
  | memoryFill  => exact keeps_execMemoryFill (Keeps.refl Touch.all s) rfl rfl rfl rfl rfl t hx
  | vauxPorAssert  => exact keeps_execVauxPorAssert (Keeps.refl Touch.all s) rfl t hx
  | vauxPorRelease p => exact absurd rfl (hc p)
  | fuseMapRead bad => exact keeps_execFuseMapRead bad (Keeps.refl Touch.all s) rfl rfl rfl t hx
  | pllLock p => exact keeps_execPllLock p (Keeps.refl Touch.all s) rfl rfl t hx
  | pllLockTimeout p => exact keeps_execPllLockTimeout p (Keeps.refl Touch.all s) rfl rfl rfl rfl rfl rfl rfl rfl rfl rfl rfl rfl rfl t hx
  | pllUnlock p => exact keeps_execPllUnlock p (Keeps.refl Touch.all s) rfl rfl rfl rfl rfl rfl rfl rfl rfl rfl rfl rfl rfl rfl t hx
  | holdWindowEnd  => exact keeps_execHoldWindowEnd (Keeps.refl Touch.all s) rfl t hx
  | bootImageLoad aValid bValid => exact keeps_execBootImageLoad aValid bValid (Keeps.refl Touch.all s) rfl rfl rfl rfl rfl t hx
  | firmwareStart  => exact keeps_execFirmwareStart (Keeps.refl Touch.all s) rfl rfl rfl rfl rfl rfl rfl t hx
  | dlActive  => exact keeps_execDlActive (Keeps.refl Touch.all s) rfl rfl t hx
  | configWrite bar0 bar2 mse bme ctl mps mrrs msixOn msixMask msix => exact keeps_execConfigWrite bar0 bar2 mse bme ctl mps mrrs msixOn msixMask msix (Keeps.refl Touch.all s) rfl t hx
  | vauxReturn  => exact keeps_execVauxReturn (Keeps.refl Touch.all s) rfl t hx

end

end Sys2Proof.Machine
end

