-- ==== Sys2Proof/Laws/Access.lean ====
section
/-! SUPPORT. What a register access leaves, once it is known what the register's own rule leaves. -/
namespace Sys2Proof.Machine
open Sys2Proof

section
set_option Elab.async false

/-- A write of the whole register leaves the word written. -/
theorem merge_all (cur v : Word) : merge cur v maskAll = v := by
  show (cur &&& ~~~(BitVec.allOnes 32)) ||| (v &&& BitVec.allOnes 32) = v
  have h : ~~~(BitVec.allOnes 32) = 0#32 := by decide
  rw [h, BitVec.and_allOnes, BitVec.and_zero, BitVec.zero_or]

/-- The mask of a whole write selects every field. -/
theorem sel_all (lo w : Nat) (h : lo + w ≤ 32) (h0 : 0 < w) : selects maskAll lo w = true := by
  unfold selects fieldOf maskAll
  have : (0xFFFFFFFF : Word).toNat = 2^32 - 1 := by decide
  rw [this]
  simp only [bne_iff_ne]
  have e : (2^32 - 1) / 2^lo % 2^w = 2^w - 1 := by
    have : 2^32 - 1 = 2^lo * (2^(32-lo) - 1) + (2^lo - 1) := by
      have := Nat.pow_add 2 lo (32-lo)
      rw [show lo + (32-lo) = 32 by omega] at this
      have h1 : 0 < 2^lo := Nat.two_pow_pos _
      have h2 : 0 < 2^(32-lo) := Nat.two_pow_pos _
      rw [Nat.mul_sub, this.symm]
      have : 2^lo ≤ 2^32 := Nat.pow_le_pow_right (by omega) (by omega)
      omega
    rw [this, Nat.mul_add_div (Nat.two_pow_pos _), Nat.div_eq_of_lt (by have := Nat.two_pow_pos lo; omega), Nat.add_zero]
    have : 2^(32-lo) - 1 = 2^w * (2^(32-lo-w) - 1) + (2^w-1) := by
      have := Nat.pow_add 2 w (32-lo-w)
      rw [show w + (32-lo-w) = 32 - lo by omega] at this
      rw [Nat.mul_sub, this.symm]
      have h1 : 0 < 2^w := Nat.two_pow_pos _
      have : 2^w ≤ 2^(32-lo) := Nat.pow_le_pow_right (by omega) (by omega)
      omega
    rw [this, Nat.mul_add_mod, Nat.mod_eq_of_lt (by have := Nat.two_pow_pos w; omega)]
  rw [e]
  have : 2^1 ≤ 2^w := Nat.pow_le_pow_right (by omega) (by omega)
  omega

/-- A whole write writes every field. -/
theorem written_all (cur v : Word) (lo w : Nat) (h : lo + w ≤ 32) (h0 : 0 < w) : written cur v maskAll lo w = some (fieldOf v lo w) := by
  unfold written; rw [sel_all _ _ h h0, merge_all]; rfl


/-- While LINK takes an access, no execution waits. -/
theorem busOpen_idle {s : State} (h : s.busOpen = true) : s.link.run = none ∧ s.link.paused = none := by
  unfold State.busOpen State.linkOpen at h
  simp only [Bool.and_eq_true, Option.isNone_iff_eq_none] at h
  exact ⟨h.1.1.2, h.1.2⟩

/-- A write reaches the register's own rule while the register answers (R353). -/
theorem regWrite_serves {s : State} {a : Nat} {v mask : Word} (h : s.serves a = true) (ha : a ≠ 0x61) :
    (s.onLink fun l => { l with act := .none }).regWrite a v mask =
      match (s.onLink fun l => { l with act := .none }).regPut a v mask with
      | .ok t => (t, .ok)
      | .error e => (s.onLink fun l => { l with act := .none }, e) := by
  unfold State.serves at h
  simp only [Bool.and_eq_true, Bool.not_eq_true'] at h
  obtain ⟨⟨h1, h2⟩, h3⟩ := h
  have h2' : (ownerOf (s.onLink fun l => { l with act := .none }) a).noPower (s.onLink fun l => { l with act := .none }) = false :=
    h2
  have h3' : (ownerOf (s.onLink fun l => { l with act := .none }) a).held (s.onLink fun l => { l with act := .none }) = false :=
    h3
  have h4 : (s.onLink fun l => { l with act := .none }).link.run.isSome = false := by
    rw [State.onLink_link]
    show s.link.run.isSome = false
    rw [(busOpen_idle h1).1]
    rfl
  unfold State.regWrite
  rw [if_neg ha]
  dsimp only
  rw [h2', h3', h4]
  rfl

/-- A write whose register rule accepts it (R353). -/
theorem busWrite_ok {s t : State} {a : Nat} {v mask : Word} (h : s.serves a = true) (ha : a ≠ 0x61)
    (hp : (s.onLink fun l => { l with act := .none }).regPut a v mask = .ok t) (ht : t.link.act = .none)
    (hq : t.link.paused = none) : s.busWrite a v mask = t.wrote .ok := by
  have e := regWrite_serves (v := v) (mask := mask) h ha
  rw [hp] at e
  unfold State.serves at h
  simp only [Bool.and_eq_true, Bool.not_eq_true'] at h
  unfold State.busWrite State.endAccess
  rw [h.1.1, e]
  simp only [Bool.not_true, Bool.false_eq_true, if_false, State.doAct, State.onLink_link, hq, Option.isSome_none, ht]
  rfl

/-- A write that the register's rule refuses (R353). -/
theorem busWrite_error {s : State} {a : Nat} {v mask : Word} {e : Status} (h : s.serves a = true) (ha : a ≠ 0x61)
    (hp : (s.onLink fun l => { l with act := .none }).regPut a v mask = .error e) : s.busWrite a v mask = s.wrote e := by
  have e' := regWrite_serves (v := v) (mask := mask) h ha
  rw [hp] at e'
  unfold State.serves at h
  simp only [Bool.and_eq_true, Bool.not_eq_true'] at h
  have hq := (busOpen_idle h.1.1).2
  unfold State.busWrite State.endAccess
  rw [h.1.1, e']
  simp only [Bool.not_true, Bool.false_eq_true, if_false, State.doAct, State.onLink_link, hq, Option.isSome_none]
  rfl

/-- A read (R353). -/
theorem busRead_ok {s : State} {a : Nat} (h : s.serves a = true) (ha : a ≠ 0x61) :
    s.busRead a = (s.readEffect a).gave (s.regValue a) := by
  unfold State.serves at h
  simp only [Bool.and_eq_true, Bool.not_eq_true'] at h
  obtain ⟨⟨h1, h2⟩, h3⟩ := h
  unfold State.busRead State.regRead
  rw [h1, if_neg ha]
  dsimp only
  rw [h2, h3]
  rfl

end

end Sys2Proof.Machine
end

