-- ==== Sys2Proof/Laws/Cipher.lean ====
section
/-! SUPPORT. The lengths of what AES-256 and AES-CMAC give. -/
namespace Sys2Proof.Laws
open Sys2Proof Sys2Proof.Machine

/-- A word of the key schedule is 4 bytes. -/
theorem keyWord_length (i : Nat) (ws : List (List Byte)) (n : 8 ≤ ws.length) (h : ∀ w ∈ ws, w.length = 4) :
    (keyWord i ws).length = 4 := by
  match ws, n with
  | a :: b :: c :: d :: e :: f :: g :: k :: rest, _ =>
    have ha := h a (by simp)
    have hk := h k (by simp)
    simp only [keyWord, xorBytes, subBytes, List.headD_cons]
    split
    · simp [hk]; omega
    · split <;> simp [hk, ha]

/-- The key schedule, counted. -/
theorem expandKey_length (n i : Nat) (ws : List (List Byte)) (k : 8 ≤ ws.length) (h : ∀ w ∈ ws, w.length = 4) :
    (expandKey n i ws).length = n + ws.length ∧ ∀ w ∈ expandKey n i ws, w.length = 4 := by
  induction n generalizing i ws with
  | zero => exact ⟨by simp [expandKey], h⟩
  | succ n ih =>
    have x := ih (i + 1) (keyWord i ws :: ws) (by simp; omega) (by simpa using ⟨keyWord_length i ws k h, h⟩)
    exact ⟨by rw [expandKey, x.1, List.length_cons]; omega, x.2⟩

/-- The pieces of a list have the length asked for. -/
theorem chunksOf_length (k n : Nat) (bs : List Byte) (h : n * k ≤ bs.length) : ∀ c ∈ chunksOf k n bs, c.length = k := by
  induction n generalizing bs with
  | zero => simp [chunksOf]
  | succ n ih =>
    intro c hc
    rcases List.mem_cons.1 hc with rfl | hc
    · simp [Nat.succ_mul] at h ⊢; omega
    · exact ih (bs.drop k) (by simp [Nat.succ_mul] at h ⊢; omega) c hc

/-- Lists of one length, joined. -/
theorem flatten_length (ws : List (List Byte)) (k : Nat) (h : ∀ w ∈ ws, w.length = k) : ws.flatten.length = ws.length * k := by
  induction ws with
  | nil => simp
  | cons w ws ih =>
    rw [List.flatten_cons, List.length_append, ih fun x hx => h x (by simp [hx]), h w (by simp), List.length_cons, Nat.succ_mul,
      Nat.add_comm]

/-- There are as many pieces as asked for. -/
theorem chunksOf_count (k n : Nat) (bs : List Byte) : (chunksOf k n bs).length = n := by
  induction n generalizing bs with
  | zero => rfl
  | succ n ih => simp [chunksOf, ih]

/-- A round key is 16 bytes. -/
theorem roundKeys_length (key : List Byte) (h : key.length = 32) : ∀ k ∈ roundKeys key, k.length = 16 := by
  have x := expandKey_length 52 8 (chunksOf 4 8 key).reverse (by simp [chunksOf_count])
    (fun w hw => chunksOf_length 4 8 key (by omega) w (by simpa using hw))
  refine chunksOf_length 16 15 _ ?_
  rw [flatten_length _ 4 (fun w hw => x.2 w (by simpa using hw))]
  simp [x.1, chunksOf_count]

/-- The rounds leave 16 bytes. -/
theorem encRounds_length (ks : List (List Byte)) (s : List Byte) (n : ks ≠ []) (h : ∀ k ∈ ks, k.length = 16) :
    (encRounds ks s).length = 16 := by
  induction ks generalizing s with
  | nil => exact absurd rfl n
  | cons k ks ih =>
    cases ks with
    | nil => simp [encRounds, xorBytes, shiftRows, h k (by simp)]
    | cons l ks => exact ih _ (by simp) fun x hx => h x (by simp [hx])

/-- A block of AES-256 under a key of 32 bytes is 16 bytes. -/
theorem aesEnc_length (key block : List Byte) (h : key.length = 32) : (aesEnc key block).length = 16 := by
  have x := roundKeys_length key h
  have n : (roundKeys key).length = 15 := chunksOf_count _ _ _
  unfold aesEnc
  match e : roundKeys key, n with
  | k :: l :: ks, _ => exact encRounds_length _ _ (by simp) fun y hy => x y (by simp [e] at *; simp [hy])

/-- One pass of the wrap keeps the registers' number and their 8 bytes. -/
theorem wrapPass_length (kek : List Byte) (rs : List (List Byte)) (t : Nat) (a : List Byte) (h : kek.length = 32)
    (ha : a.length = 8) (hr : ∀ r ∈ rs, r.length = 8) :
    (wrapPass kek rs t a).1.length = 8 ∧ (wrapPass kek rs t a).2.length = rs.length ∧
      ∀ r ∈ (wrapPass kek rs t a).2, r.length = 8 := by
  induction rs generalizing t a with
  | nil => exact ⟨ha, rfl, by simp [wrapPass]⟩
  | cons r rs ih =>
    have x := ih (t + 1) (xorBytes ((aesEnc kek (a ++ r)).take 8) (stepBytes t))
      (by simp [xorBytes, stepBytes, aesEnc_length _ _ h]) fun y hy => hr y (by simp [hy])
    exact ⟨x.1, by simp [wrapPass, x.2.1], by simpa [wrapPass, aesEnc_length _ _ h] using x.2.2⟩

/-- All passes keep them. -/
theorem wrapPasses_length (kek : List Byte) (n t : Nat) (x : List Byte × List (List Byte)) (h : kek.length = 32)
    (ha : x.1.length = 8) (hr : ∀ r ∈ x.2, r.length = 8) :
    (wrapPasses kek n t x).1.length = 8 ∧ (wrapPasses kek n t x).2.length = x.2.length ∧
      ∀ r ∈ (wrapPasses kek n t x).2, r.length = 8 := by
  induction n generalizing t x with
  | zero => exact ⟨ha, rfl, hr⟩
  | succ n ih =>
    have y := wrapPass_length kek x.2 t x.1 h ha hr
    have z := ih (t + x.2.length) _ y.1 y.2.2
    exact ⟨z.1, z.2.1.trans y.2.1, z.2.2⟩

/-- A wrapped key of 64 bytes is 72 bytes (R101, R419). -/
theorem keyWrap_length (kek key : List Byte) (h : kek.length = 32) (hk : key.length = 64) : (keyWrap kek key).length = 72 := by
  have x := wrapPasses_length kek 6 1 (wrapIv, chunksOf 8 (key.length / 8) key) h (by simp [wrapIv])
    fun r hr => chunksOf_length 8 _ key (by omega) r hr
  rw [keyWrap, List.length_append, x.1, flatten_length _ 8 x.2.2, x.2.1, chunksOf_count, hk]

/-- A CMAC is 16 bytes. -/
theorem cmacChain_length (key k1 k2 : List Byte) (n : Nat) (x m : List Byte) (h : key.length = 32) (l : x.length = 16) :
    (cmacChain key k1 k2 n x m).length = 16 := by
  induction n generalizing x m with
  | zero => exact l
  | succ n ih =>
    simp only [cmacChain]
    split
    · exact ih _ _ (aesEnc_length _ _ h)
    · split <;> exact aesEnc_length _ _ h

/-- A Cellar tag is 8 bytes (R224). -/
theorem cellarTag_length (s : State) (p : Nat) (seq entries : List Byte) : (s.cellarTag p seq entries).length = 8 := by
  simp [State.cellarTag, cmac, cmacChain_length _ _ _ _ _ _ (show s.cellarKey.length = 32 by simp [State.cellarKey, leBytes])]

end Sys2Proof.Laws
end

