-- ==== Sys2Proof/Laws/Marker.lean ====
section
/-! SUPPORT. What a marker leaves in LAMP: the ended cycle's windows cut, the next cycle open, the class C values in force. -/
namespace Sys2Proof.Machine
open Sys2Proof

section
set_option Elab.async false

/-- What a plan that a marker takes leaves alone (R52). -/
def LampState.planned (l : LampState) : LampState :=
  match l.planP with
  | none => l
  | some p => if planOk p then { l with plan := p, planP := none } else { l with planP := none }

theorem raise_lamp (s : State) (a : Attn) : (s.raise a).lamp = s.lamp :=
  (keeps_raise (L := { link := true, host := true }) a (Keeps.refl _ s) rfl rfl).lampF rfl

theorem takePlan_lamp (s : State) : s.takePlan.lamp = s.lamp.planned := by
  unfold State.takePlan LampState.planned
  cases s.lamp.planP with
  | none => rfl
  | some p =>
    dsimp only
    split
    · rfl
    · rw [raise_lamp]; rfl

/-- LAMP after a marker (R36, R37, R41, R45, R47, R52, R57): only the SEAL extension is left open here. -/
theorem markerAt_lamp (s : State) (kind : MarkKind) (pos o : Nat) (m : MarkerIn) :
    ∃ e, (s.markerAt kind pos o m).lamp =
      (((({ s.lamp with openWin := none, sealExt := e }.openCycle kind pos o m.clocks).resumeTicks
        m.edgesResumed).takeMode.takePeriod).takeFields).planned := by
  unfold State.markerAt
  have h0 := keeps_forceCloses (L := { intake := true, health := true }) s.lamp.cycle (Keeps.refl _ s) rfl rfl
  generalize s.forceCloses s.lamp.cycle = a at h0
  dsimp only
  have h1 : Keeps { fault := true } a (if a.running = true then a.overruns else a) :=
    keeps_ite (keeps_overruns (Keeps.refl _ a) rfl) (Keeps.refl _ a)
  generalize (if a.running = true then a.overruns else a) = b at h1
  have hb : b.lamp = s.lamp := (h1.lampF rfl).trans (h0.lampF rfl)
  have h2 := keeps_endCycle (L := { journal := true }) (pos - b.lamp.openPos) m.clocks (Keeps.refl _ b.cutWindows) rfl
  generalize b.cutWindows.endCycle (pos - b.lamp.openPos) m.clocks = c at h2
  have hc : ∃ e, c.lamp = { s.lamp with openWin := none, sealExt := e } := by
    refine ⟨b.cutWindows.lamp.sealExt, (h2.lampF rfl).trans ?_⟩
    unfold State.cutWindows
    rw [State.onLamp_lamp, hb]
  obtain ⟨e, hc⟩ := hc
  refine ⟨e, ?_⟩
  rw [← hc]
  generalize hd : (c.onLamp fun l =>
    (((l.openCycle kind pos o m.clocks).resumeTicks m.edgesResumed).takeMode.takePeriod).takeFields) = d
  have hl : d.takePlan.lamp = ((((c.lamp.openCycle kind pos o m.clocks).resumeTicks m.edgesResumed).takeMode.takePeriod).takeFields).planned := by
    rw [takePlan_lamp, ← hd]; rfl
  rw [← hl]
  have h3 := keeps_takeOthers (L := { clock := true, intake := true }) (keeps_noteQuotas d.lamp.cycle (Keeps.refl _ d.takePlan) rfl)
    rfl rfl
  generalize (d.takePlan.noteQuotas d.lamp.cycle).takeOthers = f at h3
  have h4 : Keeps { link := true, host := true } f (if f.clock.mainOn = true then f.checkPeers else f) :=
    keeps_ite (keeps_checkPeers (Keeps.refl _ f) rfl rfl) (Keeps.refl _ f)
  generalize (if f.clock.mainOn = true then f.checkPeers else f) = g at h4
  have h5 : Keeps { clock := true, link := true, fault := true, intake := true, media := true, place := true, host := true, health := true } g
      (if g.running = true then g.chooseModes.dryRun m.dry else g) :=
    keeps_ite (keeps_dryRun _ (keeps_chooseModes (Keeps.refl _ g) rfl rfl rfl) rfl rfl rfl rfl rfl rfl) (Keeps.refl _ g)
  exact (h5.lampF rfl).trans ((h4.lampF rfl).trans (h3.lampF rfl))

/-! ### Field by field -/

variable (l : LampState)

@[simp] theorem LampState.resumeTicks_cycle (e : Bool) : (l.resumeTicks e).cycle = l.cycle := by
  unfold LampState.resumeTicks; split <;> rfl
@[simp] theorem LampState.resumeTicks_cycleP (e : Bool) : (l.resumeTicks e).cycleP = l.cycleP := by
  unfold LampState.resumeTicks; split <;> rfl
@[simp] theorem LampState.resumeTicks_cycleFloor (e : Bool) : (l.resumeTicks e).cycleFloor = l.cycleFloor := by
  unfold LampState.resumeTicks; split <;> rfl
@[simp] theorem LampState.resumeTicks_openPos (e : Bool) : (l.resumeTicks e).openPos = l.openPos := by
  unfold LampState.resumeTicks; split <;> rfl
@[simp] theorem LampState.resumeTicks_tickPos (e : Bool) : (l.resumeTicks e).tickPos = l.tickPos := by
  unfold LampState.resumeTicks; split <;> rfl
@[simp] theorem LampState.resumeTicks_lastTicks (e : Bool) : (l.resumeTicks e).lastTicks = l.lastTicks := by
  unfold LampState.resumeTicks; split <;> rfl
@[simp] theorem LampState.resumeTicks_openWin (e : Bool) : (l.resumeTicks e).openWin = l.openWin := by
  unfold LampState.resumeTicks; split <;> rfl
@[simp] theorem LampState.resumeTicks_strays (e : Bool) : (l.resumeTicks e).strays = l.strays := by
  unfold LampState.resumeTicks; split <;> rfl
@[simp] theorem LampState.resumeTicks_edgeTaken (e : Bool) : (l.resumeTicks e).edgeTaken = l.edgeTaken := by
  unfold LampState.resumeTicks; split <;> rfl
@[simp] theorem LampState.resumeTicks_openedReal (e : Bool) : (l.resumeTicks e).openedReal = l.openedReal := by
  unfold LampState.resumeTicks; split <;> rfl
@[simp] theorem LampState.resumeTicks_mode (e : Bool) : (l.resumeTicks e).mode = l.mode := by
  unfold LampState.resumeTicks; split <;> rfl
@[simp] theorem LampState.resumeTicks_modeP (e : Bool) : (l.resumeTicks e).modeP = l.modeP := by
  unfold LampState.resumeTicks; split <;> rfl
@[simp] theorem LampState.resumeTicks_period (e : Bool) : (l.resumeTicks e).period = l.period := by
  unfold LampState.resumeTicks; split <;> rfl
@[simp] theorem LampState.resumeTicks_periodP (e : Bool) : (l.resumeTicks e).periodP = l.periodP := by
  unfold LampState.resumeTicks; split <;> rfl
@[simp] theorem LampState.resumeTicks_tickDiv (e : Bool) : (l.resumeTicks e).tickDiv = l.tickDiv := by
  unfold LampState.resumeTicks; split <;> rfl
@[simp] theorem LampState.resumeTicks_tickDivP (e : Bool) : (l.resumeTicks e).tickDivP = l.tickDivP := by
  unfold LampState.resumeTicks; split <;> rfl
@[simp] theorem LampState.resumeTicks_jitterWin (e : Bool) : (l.resumeTicks e).jitterWin = l.jitterWin := by
  unfold LampState.resumeTicks; split <;> rfl
@[simp] theorem LampState.resumeTicks_jitterWinP (e : Bool) : (l.resumeTicks e).jitterWinP = l.jitterWinP := by
  unfold LampState.resumeTicks; split <;> rfl
@[simp] theorem LampState.resumeTicks_markTrim (e : Bool) : (l.resumeTicks e).markTrim = l.markTrim := by
  unfold LampState.resumeTicks; split <;> rfl
@[simp] theorem LampState.resumeTicks_markTrimP (e : Bool) : (l.resumeTicks e).markTrimP = l.markTrimP := by
  unfold LampState.resumeTicks; split <;> rfl
@[simp] theorem LampState.resumeTicks_permil (e : Bool) : (l.resumeTicks e).permil = l.permil := by
  unfold LampState.resumeTicks; split <;> rfl
@[simp] theorem LampState.resumeTicks_permilP (e : Bool) : (l.resumeTicks e).permilP = l.permilP := by
  unfold LampState.resumeTicks; split <;> rfl
@[simp] theorem LampState.resumeTicks_lock (e : Bool) : (l.resumeTicks e).lock = l.lock := by
  unfold LampState.resumeTicks; split <;> rfl
@[simp] theorem LampState.resumeTicks_intervals (e : Bool) : (l.resumeTicks e).intervals = l.intervals := by
  unfold LampState.resumeTicks; split <;> rfl
@[simp] theorem LampState.resumeTicks_synthCount (e : Bool) : (l.resumeTicks e).synthCount = l.synthCount := by
  unfold LampState.resumeTicks; split <;> rfl

@[simp] theorem LampState.takeMode_cycle : l.takeMode.cycle = l.cycle := by
  unfold LampState.takeMode; repeat' first | rfl | split
@[simp] theorem LampState.takeMode_cycleP : l.takeMode.cycleP = l.cycleP := by
  unfold LampState.takeMode; repeat' first | rfl | split
@[simp] theorem LampState.takeMode_cycleFloor : l.takeMode.cycleFloor = l.cycleFloor := by
  unfold LampState.takeMode; repeat' first | rfl | split
@[simp] theorem LampState.takeMode_openPos : l.takeMode.openPos = l.openPos := by
  unfold LampState.takeMode; repeat' first | rfl | split
@[simp] theorem LampState.takeMode_tickPos : l.takeMode.tickPos = l.tickPos := by
  unfold LampState.takeMode; repeat' first | rfl | split
@[simp] theorem LampState.takeMode_lastTicks : l.takeMode.lastTicks = l.lastTicks := by
  unfold LampState.takeMode; repeat' first | rfl | split
@[simp] theorem LampState.takeMode_openWin : l.takeMode.openWin = l.openWin := by
  unfold LampState.takeMode; repeat' first | rfl | split
@[simp] theorem LampState.takeMode_strays : l.takeMode.strays = l.strays := by
  unfold LampState.takeMode; repeat' first | rfl | split
@[simp] theorem LampState.takeMode_edgeTaken : l.takeMode.edgeTaken = l.edgeTaken := by
  unfold LampState.takeMode; repeat' first | rfl | split
@[simp] theorem LampState.takeMode_openedReal : l.takeMode.openedReal = l.openedReal := by
  unfold LampState.takeMode; repeat' first | rfl | split
@[simp] theorem LampState.takeMode_period : l.takeMode.period = l.period := by
  unfold LampState.takeMode; repeat' first | rfl | split
@[simp] theorem LampState.takeMode_periodP : l.takeMode.periodP = l.periodP := by
  unfold LampState.takeMode; repeat' first | rfl | split
@[simp] theorem LampState.takeMode_tickDiv : l.takeMode.tickDiv = l.tickDiv := by
  unfold LampState.takeMode; repeat' first | rfl | split
@[simp] theorem LampState.takeMode_tickDivP : l.takeMode.tickDivP = l.tickDivP := by
  unfold LampState.takeMode; repeat' first | rfl | split
@[simp] theorem LampState.takeMode_jitterWin : l.takeMode.jitterWin = l.jitterWin := by
  unfold LampState.takeMode; repeat' first | rfl | split
@[simp] theorem LampState.takeMode_jitterWinP : l.takeMode.jitterWinP = l.jitterWinP := by
  unfold LampState.takeMode; repeat' first | rfl | split
@[simp] theorem LampState.takeMode_markTrim : l.takeMode.markTrim = l.markTrim := by
  unfold LampState.takeMode; repeat' first | rfl | split
@[simp] theorem LampState.takeMode_markTrimP : l.takeMode.markTrimP = l.markTrimP := by
  unfold LampState.takeMode; repeat' first | rfl | split
@[simp] theorem LampState.takeMode_permil : l.takeMode.permil = l.permil := by
  unfold LampState.takeMode; repeat' first | rfl | split
@[simp] theorem LampState.takeMode_permilP : l.takeMode.permilP = l.permilP := by
  unfold LampState.takeMode; repeat' first | rfl | split
@[simp] theorem LampState.takeMode_mode : l.takeMode.mode = l.modeP.getD l.mode := by
  unfold LampState.takeMode
  cases l.modeP with
  | none => rfl
  | some m => dsimp only; split <;> rfl
@[simp] theorem LampState.takeMode_modeP : l.takeMode.modeP = none := by
  unfold LampState.takeMode
  cases e : l.modeP with
  | none => exact e
  | some m => dsimp only; split <;> rfl
theorem LampState.takeMode_lock (h : l.modeP = none) : l.takeMode.lock = l.lock := by
  unfold LampState.takeMode; rw [h]
theorem LampState.takeMode_intervals (h : l.modeP = none) : l.takeMode.intervals = l.intervals := by
  unfold LampState.takeMode; rw [h]
theorem LampState.takeMode_synthCount (h : l.modeP = none) : l.takeMode.synthCount = l.synthCount := by
  unfold LampState.takeMode; rw [h]

@[simp] theorem LampState.planned_cycle : l.planned.cycle = l.cycle := by
  unfold LampState.planned; repeat' first | rfl | split
@[simp] theorem LampState.planned_cycleP : l.planned.cycleP = l.cycleP := by
  unfold LampState.planned; repeat' first | rfl | split
@[simp] theorem LampState.planned_cycleFloor : l.planned.cycleFloor = l.cycleFloor := by
  unfold LampState.planned; repeat' first | rfl | split
@[simp] theorem LampState.planned_openPos : l.planned.openPos = l.openPos := by
  unfold LampState.planned; repeat' first | rfl | split
@[simp] theorem LampState.planned_tickPos : l.planned.tickPos = l.tickPos := by
  unfold LampState.planned; repeat' first | rfl | split
@[simp] theorem LampState.planned_lastTicks : l.planned.lastTicks = l.lastTicks := by
  unfold LampState.planned; repeat' first | rfl | split
@[simp] theorem LampState.planned_openWin : l.planned.openWin = l.openWin := by
  unfold LampState.planned; repeat' first | rfl | split
@[simp] theorem LampState.planned_strays : l.planned.strays = l.strays := by
  unfold LampState.planned; repeat' first | rfl | split
@[simp] theorem LampState.planned_edgeTaken : l.planned.edgeTaken = l.edgeTaken := by
  unfold LampState.planned; repeat' first | rfl | split
@[simp] theorem LampState.planned_openedReal : l.planned.openedReal = l.openedReal := by
  unfold LampState.planned; repeat' first | rfl | split
@[simp] theorem LampState.planned_mode : l.planned.mode = l.mode := by
  unfold LampState.planned; repeat' first | rfl | split
@[simp] theorem LampState.planned_modeP : l.planned.modeP = l.modeP := by
  unfold LampState.planned; repeat' first | rfl | split
@[simp] theorem LampState.planned_period : l.planned.period = l.period := by
  unfold LampState.planned; repeat' first | rfl | split
@[simp] theorem LampState.planned_periodP : l.planned.periodP = l.periodP := by
  unfold LampState.planned; repeat' first | rfl | split
@[simp] theorem LampState.planned_tickDiv : l.planned.tickDiv = l.tickDiv := by
  unfold LampState.planned; repeat' first | rfl | split
@[simp] theorem LampState.planned_tickDivP : l.planned.tickDivP = l.tickDivP := by
  unfold LampState.planned; repeat' first | rfl | split
@[simp] theorem LampState.planned_jitterWin : l.planned.jitterWin = l.jitterWin := by
  unfold LampState.planned; repeat' first | rfl | split
@[simp] theorem LampState.planned_jitterWinP : l.planned.jitterWinP = l.jitterWinP := by
  unfold LampState.planned; repeat' first | rfl | split
@[simp] theorem LampState.planned_markTrim : l.planned.markTrim = l.markTrim := by
  unfold LampState.planned; repeat' first | rfl | split
@[simp] theorem LampState.planned_markTrimP : l.planned.markTrimP = l.markTrimP := by
  unfold LampState.planned; repeat' first | rfl | split
@[simp] theorem LampState.planned_permil : l.planned.permil = l.permil := by
  unfold LampState.planned; repeat' first | rfl | split
@[simp] theorem LampState.planned_permilP : l.planned.permilP = l.permilP := by
  unfold LampState.planned; repeat' first | rfl | split
@[simp] theorem LampState.planned_lock : l.planned.lock = l.lock := by
  unfold LampState.planned; repeat' first | rfl | split
@[simp] theorem LampState.planned_intervals : l.planned.intervals = l.intervals := by
  unfold LampState.planned; repeat' first | rfl | split
@[simp] theorem LampState.planned_synthCount : l.planned.synthCount = l.synthCount := by
  unfold LampState.planned; repeat' first | rfl | split

/-- What a marker leaves in LAMP, whatever waits. -/
theorem marker_opens (s : State) (kind : MarkKind) (pos o : Nat) (m : MarkerIn) :
    Opened s (s.markerAt kind pos o m) pos o ∧ (s.markerAt kind pos o m).lamp.mode = s.lamp.modeP.getD s.lamp.mode ∧
    (s.lamp.modeP = none → (s.markerAt kind pos o m).lamp.lock = s.lamp.lock ∧
      (s.markerAt kind pos o m).lamp.intervals = s.lamp.intervals ∧
      (s.markerAt kind pos o m).lamp.synthCount = s.lamp.synthCount) ∧
    (s.markerAt kind pos o m).lamp.openedReal = decide (kind = .real) ∧
    (s.markerAt kind pos o m).lamp.period =
      if extMode (s.lamp.modeP.getD s.lamp.mode) then s.lamp.period else s.lamp.periodP.getD s.lamp.period := by
  obtain ⟨e, h⟩ := markerAt_lamp s kind pos o m
  generalize (s.markerAt kind pos o m) = t at h
  have hl : s.lamp.modeP = none → t.lamp.lock = s.lamp.lock ∧ t.lamp.intervals = s.lamp.intervals ∧
      t.lamp.synthCount = s.lamp.synthCount := by
    intro hm
    rw [h]
    simp only [LampState.planned_lock, LampState.planned_intervals, LampState.planned_synthCount, LampState.takeFields,
      LampState.takePeriod]
    rw [LampState.takeMode_lock, LampState.takeMode_intervals, LampState.takeMode_synthCount] <;>
      simp [LampState.openCycle, hm]
  refine ⟨⟨?_, ?_, ?_, ?_, ?_, ?_, ?_, ?_, ?_, ?_, ?_⟩, ?_, hl, ?_, ?_⟩ <;> rw [h] <;>
    simp [LampState.takeFields, LampState.takePeriod, LampState.openCycle, LampState.nextCycle]

end

end Sys2Proof.Machine
end

