-- ==== Sys2Proof/Laws/Order.lean ====
section
/-! SUPPORT. The laws of a list put in order: it holds the same elements, as often as before, and it is in order. -/
namespace Sys2Proof.Machine
open Sys2Proof

section
set_option Elab.async false

variable {α : Type} (le : α → α → Bool)

@[simp] theorem sortBy_nil : sortBy le [] = [] := rfl

theorem insertBy_perm (a : α) (l : List α) : (insertBy le a l).Perm (a :: l) := by
  induction l with
  | nil => exact List.Perm.refl _
  | cons b bs ih =>
    simp only [insertBy]
    split
    · exact List.Perm.refl _
    · exact (ih.cons b).trans (List.Perm.swap a b bs)

/-- The ordered list is a permutation of the list. -/
theorem sortBy_perm (l : List α) : (sortBy le l).Perm l := by
  induction l with
  | nil => exact List.Perm.refl _
  | cons a as ih => exact (insertBy_perm le a (sortBy le as)).trans (ih.cons a)

@[simp] theorem mem_sortBy (x : α) (l : List α) : x ∈ sortBy le l ↔ x ∈ l := (sortBy_perm le l).mem_iff

@[simp] theorem length_sortBy (l : List α) : (sortBy le l).length = l.length := (sortBy_perm le l).length_eq

/-- An element put into a list in order leaves it in order. -/
theorem insertBy_sorted (total : ∀ a b, le a b = true ∨ le b a = true) (trans : ∀ a b c, le a b = true → le b c = true → le a c = true)
    (a : α) (l : List α) (h : l.Pairwise fun x y => le x y = true) : (insertBy le a l).Pairwise fun x y => le x y = true := by
  induction l with
  | nil => simp [insertBy]
  | cons b bs ih =>
    obtain ⟨hb, hbs⟩ := List.pairwise_cons.mp h
    simp only [insertBy]
    split
    · rename_i hab
      exact List.pairwise_cons.mpr ⟨fun c hc => by
        rcases List.mem_cons.mp hc with rfl | hc
        · exact hab
        · exact trans a b c hab (hb c hc), h⟩
    · rename_i hab
      have hba : le b a = true := (total a b).resolve_left hab
      exact List.pairwise_cons.mpr ⟨fun c hc => by
        rcases List.mem_cons.mp ((insertBy_perm le a bs).mem_iff.mp hc) with rfl | hc
        · exact hba
        · exact hb c hc, ih hbs⟩

/-- The list is in order. -/
theorem sortBy_sorted (total : ∀ a b, le a b = true ∨ le b a = true) (trans : ∀ a b c, le a b = true → le b c = true → le a c = true)
    (l : List α) : (sortBy le l).Pairwise fun x y => le x y = true := by
  induction l with
  | nil => simp
  | cons a as ih => exact insertBy_sorted le total trans a _ ih

end

end Sys2Proof.Machine
end

