-- ==== Sys2Proof/Laws/Runs.lean ====
section
/-! SUPPORT. The run table. -/
namespace Sys2Proof.Laws
open Sys2Proof Sys2Proof.Machine

/-- A run that meets none of the table's goes to its end (R207). -/
theorem addRun_new (rs : List Run) (r : Run) (h : ∀ x ∈ rs, cutRun r x = [x] ∧ runJoins x r = false ∧ runJoins r x = false) :
    addRun rs r = rs ++ [r] := by
  have kept : rs.flatMap (cutRun r) = rs := by
    induction rs with
    | nil => rfl
    | cons a as ih => simp [h a (by simp), ih fun x hx => h x (by simp [hx])]
  have before : (rs.find? fun x => runJoins x r) = none := List.find?_eq_none.2 fun x hx => by simp [(h x hx).2.1]
  have after : (rs.find? fun x => runJoins r x) = none := List.find?_eq_none.2 fun x hx => by simp [(h x hx).2.2]
  have whole : (rs.filter fun y => (none : Option Run) != some y && (none : Option Run) != some y) = rs :=
    List.filter_eq_self.2 fun x _ => rfl
  unfold addRun
  rw [kept]
  dsimp only
  rw [before]
  dsimp only
  rw [after]
  exact congrArg (· ++ [r]) whole

end Sys2Proof.Laws
end

