-- ==== Sys2Proof/Laws/Wick.lean ====
section
/-! SUPPORT. What the records of the Wick array hold and how the window's sectors are named. -/
namespace Sys2Proof.Laws
open Sys2Proof Sys2Proof.Machine

/-- n bytes are n long. -/
theorem leBytes_length (n v : Nat) : (leBytes n v).length = n := by
  induction n generalizing v with
  | zero => rfl
  | succ n ih => simp [leBytes, ih]

/-- What n bytes hold. -/
theorem leNat_leBytes (n v : Nat) (h : v < 256 ^ n) : leNat (leBytes n v) = v := by
  induction n generalizing v with
  | zero => simp [leBytes, leNat] at *; omega
  | succ n ih =>
    have := ih (v / 256) (by rw [Nat.pow_succ] at h; omega)
    simp only [leBytes, leNat, this, BitVec.toNat_ofNat]
    omega

/-- A BOOT record says what was written into it (R419). -/
theorem bootOf_body (b : BootRec) (h : b.starts < 256) : bootOf b.body = b := by
  have x := leNat_leBytes 4 b.verA.toNat (by simpa using b.verA.isLt)
  have y := leNat_leBytes 4 b.verB.toNat (by simpa using b.verB.isLt)
  obtain ⟨a, t, n, v, w⟩ := b
  have e : ∀ (u : List Byte) (k : Nat), (leBytes 4 k ++ u).take 4 = leBytes 4 k := fun u k => by
    rw [List.take_append_of_le_length (by simp [leBytes_length])]; exact List.take_of_length_le (by simp [leBytes_length])
  have d : ∀ (u : List Byte) (k : Nat), (leBytes 4 k ++ u).drop 4 = u := fun u k => by
    rw [List.drop_append_of_le_length (by simp [leBytes_length])]; simp [List.drop_of_length_le, leBytes_length]
  have n' : n % 256 = n := Nat.mod_eq_of_lt h
  simp only at x y
  cases a <;> cases t <;> simp [bootOf, BootRec.body, e, x, y, n', d]

/-- A KEY record holds the generation and the wrapped key that were written into it (R419, R426). -/
theorem keyBody_holds (gen : Nat) (w : List Byte) (h : gen < 4294967296) (l : w.length = 72) :
    leNat ((keyBody gen w).take 4) = gen ∧ ((keyBody gen w).drop 4).take 72 = w := by
  have x := leNat_leBytes 4 gen (by omega)
  have e := leBytes_length 4 gen
  constructor
  · rw [keyBody, List.append_assoc, List.take_append_of_le_length (by omega), List.take_of_length_le (by omega), x]
  · simp only [keyBody, List.append_assoc]
    rw [List.drop_append_of_le_length (by omega), List.drop_of_length_le (by omega), List.nil_append,
      List.take_append_of_le_length (by simp [l]), List.take_of_length_le (by simp [l]), List.take_of_length_le (by omega)]

/-- The window names a sector anew and it is the same sector (R417). -/
theorem phys_relog (w : WickState) (base l : Nat) : w.phys (w.relog base l) = (base + l) % 48 := by
  simp only [WickState.phys, WickState.relog]
  omega

end Sys2Proof.Laws
end

