-- ==== Sys2Proof/Tests/Slice0.lean ====
section
/-! SUPPORT. Tests: for each statement, small states that meet its hypotheses, with what the spec's rules say the command leaves there;
and one ill-formed command for each check of the well-formedness. The expected values are read off the rules named. -/
namespace Sys2Proof.Tests
open Sys2Proof Sys2Proof.Machine

section
set_option Elab.async false

/-! ### Small states -/

/-- The command answers a next state that has the property. -/
def ran (c : Instr) (s : State) (p : State → Bool) : Bool :=
  match exec c s with
  | .next t => p t
  | .fault _ => false
  | .refused _ => false

/-- A channel with one ACTIVE die. -/
def chanOne : Channel := { Channel.none with st := .active, rate := 4, dies := [(0, .active)] }

/-- A small magazine profile of one bit a cell (R154). -/
def prof : Profile :=
  { maker := 0x45, model := [1], bits := 1, slcMode := some (0x91, [1]), planes := 1, spare := 2176, wordlines := 2, blocks := 4
    unitKiB := 16, slcUnitKiB := 16, tProg := 600, tProgSlc := 150, tRead := 50, tReadSlc := 25, tErase := 5000, tReset := 500
    retry := List.replicate 15 [], soft := 4, suspend := some 1000, rated := 3000, ratedSlc := 60000, topRate := 4 }

/-- The clocks run and the main domain is on, in a DEV_STATE. -/
def clockIn (d : DevState) : ClockState :=
  { ClockState.reset with
    dev := d, mainOn := true, mainPwr := true, phase := .done, filled := true, fwUp := true, fuseRead := true, step := 9
    vinArmed := false
    pllTick := ⟨true, false⟩, pllFabric := ⟨true, false⟩, pllNand := ⟨true, false⟩, pllPcie := ⟨true, false⟩ }

/-- The link selected, in the native protocol, with the match window closed. -/
def linkOn : LinkState := { LinkState.reset with selected := true, dead := false, matchOpen := false }

/-- A magazine in a DEV_STATE, every unit released, with one ACTIVE die on each channel, VIN present and the bank full. -/
def inDev (d : DevState) : State :=
  { State.reset with
    clock := clockIn d
    link := linkOn
    media := { MediaState.reset with chans := (List.range 32).map fun c => (c, chanOne), profile := some prof }
    place := { PlaceState.reset with good := [(0, 2000000)], cHeld := 9167892766108876800000000, randSize := 4096000, snuff := [(0, true), (16, true)] }
    intake := { IntakeState.reset with keyGen := 1, keyReady := true, dryFirst := false, gaugeFirst := false }
    power := { PowerState.reset with
      vin := true, absent := false, vbank := 28000, cap := 2000, avail := 2000 * (28000 * 28000 - 64000000) / 2, blind := false
      gauged := true, rails := [(0, ⟨.on, false, false⟩), (1, ⟨.on, false, false⟩), (2, ⟨.on, false, false⟩), (3, ⟨.on, false, false⟩), (4, ⟨.on, false, false⟩)] } }

/-- READY. -/
def ready : State := inDev .ready

/-- READY, with the port open in every direction and MSI-X on. -/
def port : State :=
  { ready with host := { HostState.reset with dlActive := true, mse := true, bme := true, msixOn := true } }

/-- READY, with the native protocol selected and the match window closed. -/
def linked : State :=
  ready

/-- A stream in a state, with 8,192 bytes accepted and 4,096 durable, in the cycle 7. -/
def streamIn (st : SState) : Stream :=
  { Stream.none with st := st, epoch := 1, accept := 8192, front := 8192, durable := 4096, trim := 16, openCycle := 7, pieceStart := 8192 }

/-- READY in cycle 7, with stream 3 in a state and selected. -/
def withStream (st : SState) : State :=
  { port with
    lamp := { LampState.reset with cycle := 7 }
    link := { linkOn with streamSel := 3 }
    intake := { port.intake with streams := [(3, streamIn st)] } }

/-- The measurements of a marker: the cycle took so many clocks, and the dry run passes. -/
def mk (clocks : Nat) : MarkerIn :=
  { clocks := clocks, edgesResumed := true
    dry := { removalSeen := true, brownSeen := true, pumpMv := 13500, gatePf := 0, tailReads := true, listsAgree := true, slotsBlank := true } }

/-- Band 32 of a pool, on block 2 of every channel: row 0 holds a unit and its parity, row 1 another unit, which the accumulator covers. -/
def bandIn (pool : Pool) (ph : BandPhase) : Band :=
  { bandNone with
    pool := pool, members := (List.range 32).map fun c => (c, 2), group := [32], phase := ph, checked := true
    units := [(0, 3), (1, 4)], parity := [0], accs := [1]
    heads := (List.range 32).map (fun c => (0, c, 0, List.replicate 16 0)) ++ [(1, 5, 0, List.replicate 16 0)] }

/-! ### Well-formed commands -/

theorem test_wf_chained : (Instr.chainedIFrame 0 (List.replicate 254 0)).wf = true ∧
    (Instr.chainedIFrame 0 (List.replicate 255 0)).wf = false := by decide +kernel
theorem test_wf_message : (Instr.messageReceive 0 0 [1]).wf = true ∧
    (Instr.messageReceive 0 0 (List.replicate 255 0)).wf = false := by decide +kernel
theorem test_wf_report : (Instr.errorReport .front (some (.frontWatchdog, 0))).wf = true ∧
    (Instr.errorReport .back (some (.frontWatchdog, 0))).wf = false := by decide
theorem test_wf_descriptor : (Instr.descriptorFetch (.ok (List.replicate 32 0)) false).wf = true ∧
    (Instr.descriptorFetch (.ok (List.replicate 31 0)) false).wf = false := by decide
theorem test_wf_unit : (Instr.dataFetchDone 0 .failed).wf = true ∧ (Instr.dataFetchDone 0 (.ok [0])).wf = false := by decide

/-! ### The queue and the step -/

theorem test_step : step { ready with pending := [.wake, .healthMinute] } = exec .wake { ready with pending := [.healthMinute] } ∧
    step ready = .next { ready with lamp := { LampState.reset with tickPos := 1 } } := ⟨rfl, rfl⟩
theorem test_reset : State.reset.Inv ∧ ready.Inv := by
  refine ⟨⟨?_, ?_, ?_, ?_, ?_, ?_⟩, ⟨?_, ?_, ?_, ?_, ?_, ?_⟩⟩ <;> decide
theorem test_number : ready.Inv ∧ ready.pending.head? = none ∧
    ran (.registerWrite 0x7F 1 maskAll) ready (fun t => decide (t.lamp.cycle = 0 ∧ t.clock.clkMode = 0)) = true :=
  ⟨test_reset.2, rfl, by decide⟩

/-! ### The Lamplighter -/

/-- R38, R40: the first edge accepted in ACQUIRE stands 200 µs after the marker; P − J and P + J in LOCKED. -/
theorem test_edge :
    ran (.phaseInEdge 200000 5) ready (fun t => t.lamp.edgeTaken && t.lamp.phaseOut == 2 && t.lamp.strays == 0) = true ∧
    ran (.phaseInEdge 199999 5) ready (fun t => !t.lamp.edgeTaken && t.lamp.strays == 1) = true ∧
    ran (.phaseInEdge 200000 99936) { ready with lamp := { LampState.reset with lock := .locked } } (fun t => t.lamp.edgeTaken) = true ∧
    ran (.phaseInEdge 200000 100065) { ready with lamp := { LampState.reset with lock := .locked } }
      (fun t => !t.lamp.edgeTaken) = true ∧
    ran (.phaseInEdge 200000 5) { ready with clock := { clockIn .ready with pllTick := ⟨false, false⟩ } }
      (fun t => !t.lamp.edgeTaken && t.lamp.phaseOut == 2) = true ∧
    ran (.phaseInEdge 200000 5) { ready with clock := { clockIn .ready with vauxPor := true } }
      (fun t => !t.lamp.edgeTaken && t.lamp.phaseOut == 2) = true ∧
    ran (.phaseInEdge 200000 5) { ready with clock := { clockIn .ready with vauxPor := true, vauxPin := false } }
      (fun t => t.lamp.phaseOut == 0) = true := by decide

/-- READY in cycle 7 in a lock state, an edge accepted or not. -/
def lampIn (l : LockState) (edge : Bool) : State :=
  { ready with lamp := { LampState.reset with cycle := 7, lock := l, edgeTaken := edge } }

/-- R37, R42, R47: each marker opens cycle 8. -/
theorem test_markers :
    ran (.marker 90000 (mk 9000000)) (lampIn .acquire true) (fun t => t.lamp.cycle == 8 && t.lamp.lastTicks == 90000 &&
      t.lamp.openPos == 0 && t.journal.ended == [7]) = true ∧
    ran (.generatedMarker (mk 9000000)) (lampIn .free false) (fun t => t.lamp.cycle == 8 && t.lamp.lastTicks == 100000) = true ∧
    ran (.acquireSynthMarker (mk 9000000)) (lampIn .acquire false) (fun t => t.lamp.cycle == 8 && t.lamp.lastTicks == 100000) = true ∧
    ran (.tickLimitMarker (mk 9000000)) (lampIn .acquire false) (fun t => t.lamp.cycle == 8 && t.lamp.lastTicks == 67108863) = true := by
  decide

/-- R41, R42, R45, R46: LOCKED again; the flywheel at P + J opens at J; the eighth synthesised marker is FREE. -/
theorem test_locks :
    ran (.marker 100020 (mk 10002000)) (lampIn .coast true) (fun t => t.lamp.lock = .locked && t.lamp.synthCount == 0) = true ∧
    ran (.flywheelSynthMarker (mk 1)) (lampIn .locked false) (fun t => t.lamp.lock = .coast && t.lamp.synthCount == 1 &&
      t.lamp.openPos == 64) = true ∧
    ran (.flywheelSynthMarker (mk 1)) { ready with lamp := { LampState.reset with lock := .coast, synthCount := 7 } }
      (fun t => t.lamp.lock = .free && t.lamp.mode == 2 && t.lamp.openPos == 0) = true ∧
    ran (.tickLimitMarker (mk 1)) { ready with lamp := { LampState.reset with lock := .locked, period := 67108863 } }
      (fun t => t.lamp.lock = .coast && t.lamp.openPos == 0) = true := by decide

/-- R39: 200,000 clocks at 100 ticks in 10,000 clocks are 2,000 ticks. R57: a window covers START and ends at START + LENGTH. -/
theorem test_ticks :
    ran (.tickLost 50 100 10000) { ready with lamp := { LampState.reset with
      tickSrc := .phaseTick, cycleSince := true, lastClocks := some 10000, lastTicks := 100 } }
      (fun t => t.lamp.tickPos == 2050 && t.lamp.tickSrc = .substitute) = true ∧
    (let s : State := { ready with lamp := { LampState.reset with plan := [(2, { start := 100, len := 50, kind := 2 })] } }
     s.lamp.covering 100 = some 2 ∧ s.lamp.covering 150 = none ∧ ran (.windowOpen 100) s (fun t => t.lamp.openWin == some 2) = true ∧
     ran (.windowEnd 150) { s with lamp := { s.lamp with openWin := some 2 } } (fun t => t.lamp.openWin == none) = true) := by decide

/-- R62, R63: a stream open in cycle 6 with bytes in it is late once 5,000 of 100,000 ticks have passed, one without bytes is not, and
one that a fault has closed for every cycle stays (R65). -/
theorem test_tail_grace :
    (let s := fun (e : Stream) => ({ withStream .open with intake := { ready.intake with streams := [(3, e)] } } : State)
     let late := { streamIn .open with openCycle := 6, credited := [(6, 10)] }
     (s late).lamp.openPos + (s late).lamp.period * (s late).lamp.permil / 1000 = 5000 ∧
     ran (.tailGraceExpire 5000) (s late)
       (fun t => (t.stream 3).fault == 0x10 && (t.stream 3).late == [6] && (t.stream 3).openCycle == 7) = true ∧
     ran (.tailGraceExpire 4999) (s late) (fun t => t.stream 3 == late) = true ∧
     ran (.tailGraceExpire 5000) (s { late with credited := [] }) (fun t => (t.stream 3).fault == 0 && (t.stream 3).openCycle == 7) = true ∧
     (let gone := { late with st := .draining, closedAll := true }
      ran (.tailGraceExpire 5000) (s gone) (fun t => t.stream 3 == gone) = true)) := by decide +kernel

/-- R66, R125, R128: the oldest ended cycle is sealed, and a stream with bytes credited has its frontier frozen; the seal of a cycle whose
checkpoint is due waits for the pages. -/
theorem test_seals :
    (let s := { lampIn .acquire false with
        journal := { JournalState.reset with ended := [6] }
        intake := { ready.intake with streams := [(3, { streamIn .open with credited := [(6, 10)], closes := [(6, 8192)] })] } }
     s.nextSeal = some 6 ∧ s.running = true ∧ s.stopped .back = false ∧
     ran .sealStart s (fun t => t.journal.sealing.map (fun x => (x.cycle, x.fronts)) == some (6, [(3, 8192)]) && t.journal.ended == []) = true) ∧
    (let x : Seal := { cycle := 6, fronts := [(3, 8192)], setSealed := 0, missing := 0, pages := false }
     let s : State := { lampIn .acquire false with
       journal := { JournalState.reset with sealing := some x, bands := [48] }
       place := { ready.place with bands := [(48, { bandIn .journal .open with slc := true })] }
       intake := { ready.intake with streams := [(3, { streamIn .open with credited := [(6, 10)] })] } }
     let due : State := { s with
       journal := { s.journal with cpClocks := 100000000 }
       place := { s.place with bands := [(32, { bandNone with pool := .random, phase := .open })], frames := [(0, { frameNone with st := .dirty, lines := [0] })], pagesDue := [0] } }
     s.stopped .media = false ∧ s.checkpointDue (s.composeCask x) = false ∧ s.canRecord (s.sealPages x) = true ∧
     ran .sealComplete s (fun t => t.journal.lastSeal == some 6 && t.journal.sealing.isNone && (t.stream 3).durable == 8192) = true ∧
     due.checkpointDue (due.composeCask x) = true ∧ due.pagesDone x = false ∧
     ran .sealComplete due (fun t => t.journal.sealing == some { x with pages := true }) = true) := by decide +kernel

/-! ### Registers -/

/-- R25: NOPWR in the dark, WERR in a RESTART; R352, R361: an echo and attention bits. -/
theorem test_writes :
    (let dark := State.reset
     let lit := ({ dark with link := linkOn, clock := { ClockState.reset with pllTick := ⟨true, false⟩ } } : State)
     lit.busOpen = true ∧ (ownerOf lit 0x12).noPower lit = true ∧
     ran (.registerWrite 0x12 1 maskAll) lit (fun t => t.link.status = .nopwr) = true) ∧
    (let s := ready.modUnit .intake fun r => { r with restart := true }
     s.busOpen = true ∧ (ownerOf s 0x12).held s = true ∧ (ownerOf s 0x12).noPower s = false ∧
     ran (.registerWrite 0x12 1 maskAll) s (fun t => t.link.status = .werr) = true) ∧
    ready.serves 0x7F = true ∧ ready.serves 0x05 = true ∧ ready.serves 0x00 = true ∧ ready.serves 0x20 = true ∧ ready.serves 0x51 = true ∧
    ready.serves 0x70 = true ∧ ready.serves 0x12 = true ∧
    ran (.registerWrite 0x00 5 maskAll) ready (fun t => t.link.status = .ok) = true ∧
    ran (.registerWrite 0x20 0x3F maskAll) ready (fun t => t.link.chanSel == 31) = true ∧
    ran (.registerWrite 0x51 0x12345678 0xFF) ready (fun t => t.wick.desc0 == 0x78) = true ∧
    ran (.registerWrite 0x70 1 maskAll) ready (fun t => t.clock.cause == 0) = true ∧
    (match (ready.onLink fun l => { l with act := .none }).regPut 0x20 1 maskAll with
     | .ok t => t.link.act == .none
     | .error _ => false) = true ∧
    (match (ready.onLink fun l => { l with act := .none }).regPut 0x12 0xFF maskAll with
     | .ok _ => false
     | .error _ => true) = true ∧
    ran (.registerWrite 0x7F 0xFF00FF00 0x0000FFFF) ready (fun t => t.link.echoReg == 0xFF00) = true := by decide

/-- R35, R36, R41, R51: what class C writes leave pending, and what they refuse. -/
theorem test_class_c :
    ready.serves 0x09 = true ∧ ready.serves 0x0A = true ∧ ready.serves 0x0F = true ∧
    ran (.cycSrcWrite 0x00C80002 maskAll) ready (fun t => t.lamp.modeP == some 2 && t.lamp.tickDivP == some 200) = true ∧
    ran (.cycSrcWrite 0x00640003 maskAll) ready (fun t => t.link.status = .werr && t.lamp.modeP == none) = true ∧
    ran (.cycSrcWrite 0x00000001 maskAll) ready (fun t => t.link.status = .werr) = true ∧
    ran (.cycSrcWrite 0x00C80000 0xFFFF0000) ready (fun t => t.lamp.modeP == none && t.lamp.tickDivP == some 200) = true ∧
    (let s : State := { ready with lamp := { LampState.reset with mode := 2 } }
     ran (.cycPeriodWrite 256) s (fun t => t.lamp.periodP == some 256) = true ∧
     ran (.cycPeriodWrite 255) s (fun t => t.link.status = .werr) = true) ∧
    ran (.cycPeriodWrite 100000) ready (fun t => t.link.status = .ok) = true ∧
    ran (.cycPeriodWrite 100001) ready (fun t => t.link.status = .werr) = true ∧
    ran (.planWinWrite 67108863) { ready with link := { linkOn with planWin := 15 } }
      (fun t => (tget winNone (t.lamp.planP.getD []) 15).start == 67108863) = true ∧
    ran (.planWinWrite 0) { ready with link := { linkOn with planField := 1 } } (fun t => t.link.status = .werr) = true ∧
    ran (.planWinWrite 15) { ready with link := { linkOn with planField := 2 } }
      (fun t => (tget winNone (t.lamp.planP.getD []) 0).kind == 15) = true := by decide

/-- R48, R49, R89: a number above the current one is pending; the reads latch the high word. -/
theorem test_cycle_number :
    (let s : State := { withStream .open with lamp := { LampState.reset with cycle := 0x100000007, stagedHi := some 2 } }
     s.serves 0x0B = true ∧ s.serves 0x0C = true ∧ s.serves 0x14 = true ∧ s.serves 0x16 = true ∧ s.serves 0x18 = true ∧
     ran (.cycCountHiWrite 5) s (fun t => t.lamp.stagedHi == some 5) = true ∧
     ran (.cycCountWrite 0) s (fun t => t.lamp.cycleP == some 0x200000000) = true ∧
     ran (.cycCountWrite 6) { s with lamp := { s.lamp with stagedHi := some 1 } } (fun t => t.link.status = .werr) = true ∧
     ran (.cycCountWrite 7) { s with lamp := { s.lamp with stagedHi := some 1 } } (fun t => t.link.status = .ok && t.lamp.cycleP == none) = true ∧
     ran (.cycCountWrite 8) { s with lamp := { s.lamp with stagedHi := none } } (fun t => t.lamp.cycleP == some 0x100000008) = true ∧
     ran .cycCountRead s (fun t => t.link.rdata == [7] && t.lamp.latchHi == some 1) = true ∧
     ran (.frontierLoRead .accept) s (fun t => t.link.rdata == [8192] && t.intake.latchAccept == some 0) = true ∧
     ran (.frontierLoRead .durable) s (fun t => t.link.rdata == [4096]) = true ∧
     ran (.frontierLoRead .trim) s (fun t => t.link.rdata == [16]) = true) := by decide

/-- R73, R81: each command from a state that allows it, and one that does not. -/
theorem test_streams :
    (let s := withStream
     (s .free).serves 0x12 = true ∧ (s .free).running = true ∧ (s .free).stopped .intake = false ∧
     ran .stCmdOpen { s .free with intake := { ready.intake with streams := [(3, { Stream.none with epoch := 4 })] } }
       (fun t => (t.stream 3).st = .open && (t.stream 3).epoch == 5 && (t.stream 3).openCycle == 7) = true ∧
     ran .stCmdEnd (s .open) (fun t => (t.stream 3).st = .draining && (t.stream 3).openCycle == 8) = true ∧
     ran .stCmdEnd (s .faulted) (fun t => (t.stream 3).st = .draining) = true ∧
     ran .stCmdDelete (s .closed) (fun t => (t.stream 3).delPend && (t.stream 3).delCycle == some 7) = true ∧
     ran .stCmdResume (s .faulted) (fun t => (t.stream 3).st = .open && (t.stream 3).replay) = true ∧
     (let held := { s .draining with intake := { ready.intake with streams := [(3, { streamIn .draining with front := 8200 })] } }
      ran .stCmdResume held (fun t => (t.stream 3).st = .draining && (t.stream 3).resumeDue) = true) ∧
     (let due := { s .draining with intake := { ready.intake with streams := [(3, { streamIn .draining with resumeDue := true })] } }
      due.running = true ∧ due.stopped .intake = false ∧ ((due.carryResume 3).stream 3).st = .open ∧ ((due.carryResume 3).stream 3).replay = true) ∧
     ran .stCmdOpen { s .free with intake := { ready.intake with streams := [(3, { Stream.none with epoch := 4, epochLost := true })] } }
       (fun t => (t.stream 3).epoch == 1) = true ∧
     ran .stCmdResume (s .open) (fun t => t.link.status = .werr) = true ∧
     ran .stCmdOpen (s .open) (fun t => t.link.status = .werr) = true ∧
     ran .stCmdEnd (s .closed) (fun t => t.link.status = .werr) = true ∧
     ran .stCmdDelete (s .open) (fun t => t.link.status = .werr) = true) := by decide

/-- R90, R357: the trim moves within (ST_TRIM, ST_DURABLE]. -/
theorem test_trim :
    (let s := withStream .open
     s.serves 0x10 = true ∧ s.serves 0x19 = true ∧ s.serves 0x18 = true ∧
     ran (.streamSelWrite 0xFFFFFFFF) s (fun t => t.link.streamSel == 1023) = true ∧
     ran (.stTrimHiWrite 1) s (fun t => t.intake.trimHi == some 1) = true ∧
     ran (.stTrimLoWrite 4096) s (fun t => (t.stream 3).trim == 4096) = true ∧
     ran (.stTrimLoWrite 4097) s (fun t => t.link.status = .werr && (t.stream 3).trim == 16) = true ∧
     ran (.stTrimLoWrite 15) s (fun t => t.link.status = .werr) = true) := by decide

/-- R102. -/
theorem test_crypto :
    (withStream .closed).serves 0x03 = true ∧ (withStream .closed).clock.dev = .ready ∧
    ((withStream .closed).wick.freePlace recKey false = some 0 ∧ (withStream .closed).wick.freePlace recKey true = some 256 ∧
      max (withStream .closed).wick.keyA (withStream .closed).wick.keyB ≤ (withStream .closed).intake.keyGen) ∧
    ran .cryptoErase (withStream .closed) (fun t => (t.stream 3).st = .free && (t.stream 3).epoch == 0 && t.intake.keyGen == 2 &&
      t.wick.keyA == 2 && t.wick.keyB == 2) = true ∧
    ran .cryptoErase (withStream .draining) (fun t => t.link.status = .werr) = true := by decide

/-- R148, R359, R361, R371. -/
theorem test_control :
    (inDev .boot).serves 0x03 = true ∧ ran (.bootHoldWrite true) (inDev .boot) (fun t => t.clock.bootHold) = true ∧
    ran (.bootHoldWrite true) ready (fun t => t.link.status = .werr) = true ∧
    (let s : State := { port with link := { linkOn with irqStatus := 4 } }
     s.serves 0x06 = true ∧ s.upstreamOpen = true ∧ s.host.vectorMasked 32 = false ∧
     ran (.irqEnableWrite 4) s (fun t => t.host.out == [.vector 32] && t.link.irqEnable == 4) = true ∧
     ran (.irqEnableWrite 8) s (fun t => t.host.out == []) = true) ∧
    ready.serves 0x38 = true ∧ ran (.setCtrlWrite 0x01651234) ready (fun t => t.link.count == 6 && t.link.member == 5 &&
      t.link.wait == 1 && t.link.setId == 0x1234) = true ∧
    ran (.setCtrlWrite 0x01661234) ready (fun t => t.link.status = .werr) = true ∧
    ran (.setCtrlWrite 0x00601234) ready (fun t => t.link.status = .werr) = true := by decide

/-- R240, R375: IND_ADDR takes the word, and a health address takes a snapshot; IND_DATA goes on by one. -/
theorem test_indirect :
    ready.serves 0x60 = true ∧ ready.serves 0x61 = true ∧ ready.dark = false ∧
    ran (.indAddrWrite 0x100FF) ready (fun t => t.link.indAddr == 0x100FF && (t.link.snap.map Prod.fst == some .health)) = true ∧
    ran (.indAddrWrite 0x10100) ready (fun t => t.link.snap.isNone) = true ∧
    ran (.indDataAccess none) { ready with link := { linkOn with indAddr := 0x20000 } }
      (fun t => t.link.indAddr == 0x20001 && t.link.status = .ok) = true ∧
    ran (.indDataAccess (some 5)) { ready with link := { linkOn with indAddr := 0x70000 } }
      (fun t => t.link.indAddr == 0x70001 && t.place.cellBaseLo == 5) = true := by decide +kernel

/-- R338, R359, R461, R463. -/
theorem test_resets :
    ready.opsOpen = true ∧ ready.warmRefused = false ∧ ready.coldRefused = false ∧ (inDev .snuffed).warmRefused = true ∧
    ({ ready with power := PowerState.reset } : State).coldRefused = true ∧
    ran .resetCmdLink linked (fun t => t.clock.cause == 0x41 && t.link.awaiting && t.link.matchOpen) = true ∧
    ran .resetCmdWarm ready (fun t => t.snuff.after == some .warm && t.snuff.trigger == some 4 && t.snuff.keepVin && t.clock.dev = .ready) = true ∧
    ran .softReset ready (fun t => t.snuff.after == some .soft) = true ∧ ran .resetCmdCold ready (fun t => t.snuff.after == some .cold) = true ∧
    ran .resetCmdWarm (inDev .readOnly) (fun t => t.clock.cause == 0x81 && t.clock.dev = .boot && t.clock.phase = .fill && !t.clock.mainOn) = true ∧
    ran .softReset (inDev .readOnly) (fun t => t.clock.cause == 0x2001 && t.clock.dev = .boot && t.clock.phase = .fill) = true ∧
    ran .resetCmdCold (inDev .readOnly) (fun t => t.clock.cause.getLsbD 8 && t.clock.phase = .plls && t.journal.powerUps == 1) = true ∧
    ran .resetCmdCold { inDev .readOnly with clock := { clockIn .readOnly with vauxPin := false } } (fun t => t.clock.vauxPor && t.clock.phase = .off) = true ∧
    (let s := fun (k : ResetKind) => ({ ready with snuff := { after := some k, trigger := some 4, keepVin := true, endHalt := false, trigPos := 0 } } : State)
     (s .warm).flushStarts = true ∧ ran (.snufferFlush ⟨[], 0, 0⟩) (s .warm) (fun t => t.clock.cause == 0x81 && t.clock.dev = .boot) = true ∧
     ran (.snufferFlush ⟨[], 0, 0⟩) (s .cold) (fun t => t.clock.cause.getLsbD 8 && t.clock.phase = .plls) = true) ∧
    ran .resetCmdWarm (inDev .snuffed) (fun t => t.link.status = .werr && t.clock.dev = .snuffed) = true := by decide +kernel

/-- A unit with a fault latched at NOTE. -/
def latched : UnitFault := { UnitFault.none with latched := true, level := 1, cause := 3, detail := 9, count := 2, conseq := true }

/-- R455: FRONT acknowledged; refused while a unit named is in a RESTART reset; SELF. -/
theorem test_acks :
    (let s := ready.setUnit .front latched
     s.busOpen = true ∧ s.fault.differs = false ∧
     ran (.faultAckWrite 0x0020) s (fun t => !(t.unit .front).latched && (t.unit .front).count == 0 && (t.unit .front).conseq) = true ∧
     ran (.faultAckWrite 0x0040) s (fun t => (t.unit .front).latched) = true ∧
     ran .faultAckSelf { s with fault := { s.fault with self := true } }
       (fun t => !t.fault.self && !(t.unit .front).latched && !(t.unit .front).conseq && (t.unit .tun).snuffEnd) = true ∧
     ran .faultAckSelf { s with fault := { s.fault with self := true, differs := true } } (fun t => t.link.status = .werr) = true) ∧
    (let s := ready.setUnit .front { latched with restart := true }
     (s.unit .front).restart = true ∧ ran (.faultAckWrite 0x0020) s (fun t => t.link.status = .werr && (t.unit .front).latched) = true) := by
  decide +kernel

/-- DOWNLOAD with memory m selected, its test mode on or off, one word of it raw. -/
def testing (m : Nat) (en : Bool) : State :=
  { inDev .download with
    link := { linkOn with memSel := BitVec.ofNat 3 m }
    mem := { MemState.reset with
      mems := [(m, { MemRec.none with addr := 5, stage := 0x1122334455667788, stageChk := 0x99, testEn := en, cells := [(5, .raw 0xABCD 0x12)] })] } }

/-- R373, R389, R390, R396, R397, R401, at the last macro and the last row. -/
theorem test_memories :
    (testing 0 false).serves 0x44 = true ∧ (testing 0 false).serves 0x41 = true ∧ (testing 0 false).serves 0x45 = true ∧
    (testing 1 false).memQuiet 1 true = true ∧ ready.memQuiet 1 false = false ∧
    ran (.memRetireWrite 143) (testing 0 false) (fun t => (t.memory 0).retired == [143]) = true ∧
    ran (.memRetireWrite 144) (testing 0 false) (fun t => t.link.status = .werr) = true ∧
    ran (.memRetireWrite 32767) (testing 1 false) (fun t => (t.memory 1).retired == [32767]) = true ∧
    ran (.memPwrWrite 2) (testing 1 false) (fun t => (t.memory 1).now = .off && (t.memory 1).cells == []) = true ∧
    ran (.memPwrWrite 1) (testing 1 false) (fun t => (t.memory 1).now = .retain && (t.memory 1).cells.length == 1) = true ∧
    ran (.memPwrWrite 3) (testing 1 false) (fun t => t.link.status = .werr) = true ∧
    ran (.memPwrWrite 2) { ready with link := { linkOn with memSel := 1 } } (fun t => t.link.status = .werr) = true ∧
    ran (.memTestEnWrite true) (testing 1 false) (fun t => (t.memory 1).testEn) = true ∧
    ran (.memTestEnWrite true) ready (fun t => t.link.status = .werr) = true ∧
    ran .memTestRead (testing 1 true) (fun t => (t.memory 1).stage == 0xABCD && (t.memory 1).stageChk == 0x12 && (t.memory 1).testDone) = true ∧
    ran .memTestWriteRaw (testing 1 true) (fun t => (t.memory 1).cells == [(5, .raw 0x1122334455667788 0x99)]) = true ∧
    ran .memTestWriteChecked (testing 1 true) (fun t => (t.memory 1).cells == [(5, .coded 0x1122334455667788)]) = true ∧
    ran .memTestWriteRaw (testing 1 false) (fun t => t.link.status = .werr) = true := by decide +kernel

/-- READY with one descriptor word 0 staged: PROGRAM of unit 0 of sector 8, the inactive slot's first. -/
def wickGo (w0 : Word) : State := { ready with wick := { WickState.reset with desc0 := w0, hostDone := [(7, 0)] } }

/-- R223, R225, R374, R378, R412. -/
theorem test_wick_registers :
    (wickGo 0x82).serves 0x54 = true ∧ (wickGo 0x82).serves 0x55 = true ∧
    ran (.wickSubmit 9) (wickGo 0x82) (fun t => (t.wick.queue.map fun d => (d.tag, d.op, d.sector)) == [(9, 2, 8)]) = true ∧
    ran (.wickSubmit 9) (wickGo 0x02) (fun t => t.link.status = .werr && t.wick.queue == []) = true ∧
    ran .wickDoneTake (wickGo 0) (fun t => t.wick.hostDone == []) = true ∧
    ready.serves 0x60 = true ∧ ready.serves 0x03 = true ∧
    (let n := ready.cellarNeed
     ran (.cellarBaseWrite true 0) { ready with place := { ready.place with cellSizeLo := BitVec.ofNat 32 n } }
       (fun t => t.place.cellSize.toNat == n) = true ∧
     ran (.cellarBaseWrite true 1) ready (fun t => t.link.status = .werr) = true ∧
     ran (.cellarBaseWrite false 1) { ready with place := { ready.place with cellSize := BitVec.ofNat 64 n, cellCur := [3] } }
       (fun t => t.place.cellBase == 0x100000000 && t.place.cellCur == []) = true ∧
     ran (.cellarBaseWrite false 1) ready (fun t => t.link.status = .werr) = true) := by decide +kernel

/-! ### Intake -/

/-- R76, R77, R84: NEW at the frontier 8,192 of stream 3, STALE below, OVERLAP across, GAP above, and DISCARD. -/
theorem test_aperture :
    (withStream .open).portUp = true ∧ reconstruct 8192 8192 = 8192 ∧ reconstruct 4194304 0 = 4194304 ∧
    reconstruct 2097152 4194303 = 4194303 ∧ reconstruct 2097153 0 = 4194304 ∧
    (let w := fun (off : Nat) (n : Nat) => Instr.apertureWrite (BitVec.ofNat 32 (3 * 4194304 + off)) (List.replicate n 0xAA) 0xF false false
     ran (w 8192 4) (withStream .open) (fun t => (t.stream 3).front == 8196) = true ∧
     ran (w 8188 4) (withStream .open) (fun t => (t.stream 3).fault == 0x04 && (t.stream 3).front == 8192) = true ∧
     ran (w 8196 4) (withStream .open) (fun t => (t.stream 3).st = .faulted && (t.stream 3).fault == 0x01) = true ∧
     ran (w 8192 4) (withStream .closed) (fun t => (t.stream 3).fault == 0x08) = true ∧
     (let dw := fun (be : BitVec 4) => Instr.apertureWrite (3 * 4194304 + 8192) [1, 2, 3, 4] be false false
      ran (dw 0) (withStream .open) (fun t => (t.stream 3).front == 8192 && (t.stream 3).fault == 0) = true ∧
      ran (dw 3) (withStream .open) (fun t => (t.stream 3).front == 8194) = true ∧
      ran (dw 6) (withStream .open) (fun t => (t.stream 3).st = .faulted && (t.stream 3).fault == 0x01) = true ∧
      ran (dw 9) (withStream .open) (fun t => (t.stream 3).st = .faulted && (t.stream 3).front == 8193 && (t.stream 3).fault == 0x01) = true) ∧
     (let odd := { withStream .open with intake := { port.intake with streams := [(3, { streamIn .open with front := 8200, accept := 8200 })] } }
      ran (w 8196 8) odd (fun t => (t.stream 3).st = .faulted && (t.stream 3).fault == 0x02) = true ∧
      ran (w 8196 8) { odd with intake := { odd.intake with streams := [(3, { odd.stream 3 with replay := true })] } }
        (fun t => (t.stream 3).front == 8204 && !(t.stream 3).replay) = true)) ∧
    ran (.apertureWrite (3 * 4194304 + 8192) [1, 2, 3, 4] 0xF false true) (withStream .open)
      (fun t => (t.stream 3).front == 8192) = true := by decide +kernel

/-- R60, in cycle 7 with cycle 7 open: 6 repeats, 7 closes, 8 is ahead. -/
theorem test_close :
    (withStream .open).portUp = true ∧ (withStream .open).host.mse = true ∧
    ran (.closeDoorbell 3 6) (withStream .open) (fun t => t.hget 0x26 == 1 && (t.stream 3).openCycle == 7) = true ∧
    ran (.closeDoorbell 3 7) (withStream .open) (fun t => (t.stream 3).openCycle == 8) = true ∧
    ran (.closeDoorbell 3 8) (withStream .open) (fun t => (t.stream 3).fault == 0x20 && t.hget 0x27 == 1) = true ∧
    ran (.closeDoorbell 3 7) (withStream .closed) (fun t => t.hget 0x26 == 1) = true ∧
    (let gone : State := { withStream .draining with intake := { port.intake with streams := [(3, { streamIn .draining with closedAll := true })] } }
     ran (.closeDoorbell 3 7) gone (fun t => t.hget 0x26 == 1 && t.stream 3 == gone.stream 3) = true) := by decide +kernel

/-- READY, with credits granted. -/
def granted (credits : Nat) (adv : Bool) : State :=
  { port with
    intake := { ready.intake with credits := credits, advertised := adv }
    host := { port.host with training := !adv } }

/-- R86, R78, R92: 4,032 credits are the most; the oldest write of the stream is acknowledged; the mirror's sixteen bytes. -/
theorem test_credits :
    (granted 4000 true).stepOk 512 true = true ∧ (granted 0 false).stepOk 32768 true = true ∧
    ran .creditGrant (granted 4000 true) (fun t => t.intake.credits == 4032 && t.intake.hdrCredits == 1) = true ∧
    ran .creditGrant (granted 4001 true) (fun t => t.intake.credits == 4001) = true ∧
    ran .creditGrant (granted 0 false) (fun t => t.intake.credits == 2048 && t.intake.hdrCredits == 64 && t.intake.advertised) = true ∧
    (let s := { withStream .open with intake := { port.intake with
        streams := [(3, { streamIn .open with front := 8200, mirrorDue := true })], unacked := [(3, 8192, 8196), (3, 8196, 8200)] }
                                      host := { port.host with mirBase := 0x1000 } }
     s.acceptHeld 3 = false ∧ s.upstreamOpen = true ∧ s.host.mirrorBase ≠ 0 ∧
     ran (.tunAck 3) s (fun t => (t.stream 3).accept == 8196 && t.intake.unacked == [(3, 8196, 8200)]) = true ∧
     (let due : State := { s with intake := { s.intake with
        streams := [(3, { streamIn .draining with front := 8196, resumeDue := true })], unacked := [(3, 8192, 8196)] } }
      due.acceptHeld 3 = false ∧ due.running = true ∧ due.stopped .intake = false ∧
      ran (.tunAck 3) due (fun t => (t.stream 3).st = .open && (t.stream 3).replay && !(t.stream 3).resumeDue) = true) ∧
     (let through : State := { s with clock := clockIn .degraded, intake := { s.intake with wtEnergy := true } }
      through.acceptHeld 3 = true ∧ ran (.tunAck 3) through (fun t => (t.stream 3).accept == 8192) = true) ∧
     ran (.mirrorWrite 3) s (fun t => !(t.stream 3).mirrorDue &&
       (match t.host.out with
        | [.mirror a b] => a == 0x1030 && b.length == 16 && b.take 8 == [0x00, 0x20, 0, 0, 0, 0, 0, 0]
        | _ => false)) = true) := by decide +kernel

/-- R107 to R109: a shortfall, a flush and its note. -/
theorem test_write_through :
    (let s : State := { withStream .open with power := { ready.power with avail := 0 } }
     s.shortfall = true ∧ ran .energyShortfallTimeout s (fun t => t.clock.dev = .degraded && t.intake.wtEnergy) = true) ∧
    (let s : State := { withStream .open with
        clock := clockIn .degraded, intake := { port.intake with wtEnergy := true, streams := [(3, { streamIn .open with front := 8200 })] }
        journal := { JournalState.reset with bands := [48] }
        place := { ready.place with bands := [(48, { bandIn .journal .open with slc := true })] } }
     s.canRecord (s.notePages [(3, 8200)]) = true ∧ s.openFrontiers = [(3, 8200)] ∧ s.intake.lastFlush = [] ∧
     ran .wtFlushStart s (fun t => t.intake.flushes == [[(3, 8200)]]) = true ∧
     ran .throughNoteProgrammed { s with intake := { s.intake with flushes := [[(3, 8200)]] } }
       (fun t => t.intake.flushes == [] && (t.stream 3).accept == 8200) = true ∧
     (let left : Piece := { unit := none, stream := 3, epoch := 1, off := 8192, data := List.replicate 8 0, crc := 0, cycle := 7, keyGen := 1
                            staged := false, fixed := true, src := none, loc := none, done := false, noted := false, inTun := true
                            spill := none, spillOk := false, seq := 0 }
      covered [(3, 8200)] left = true ∧
      ran .throughNoteProgrammed { s with intake := { s.intake with flushes := [[(3, 8200)]] }, place := { s.place with pieces := [left] } }
        (fun t => t.intake.flushes == [[(3, 8200)]]) = true)) := by decide +kernel

/-! ### Placement and background work -/

/-- A piece of stream 3, one codeword of band 32, programmed there. -/
def piece : Piece :=
  { unit := none, stream := 3, epoch := 1, off := 0, data := List.replicate 16 0, crc := 0, cycle := 5, keyGen := 1, staged := false
    fixed := true, src := none, loc := some { band := 32, width := 1, slc := false, q := 0 }, done := true, noted := true, inTun := false, spill := none
    spillOk := false, seq := 0 }

/-- READY in cycle 7, stream 3 open, its piece in band 32 of a pool. -/
def stored (pool : Pool) : State :=
  { withStream .open with place := { ready.place with pieces := [piece], bands := [(32, bandIn pool .closed)] }
                          intake := { port.intake with streams := [(3, { streamIn .open with trim := 0 })] } }

/-- R216, R227, R230, R193: each kind of move covers the piece. -/
theorem test_moves :
    (stored .staging).backUp = true ∧ (stored .staging).kilnBatch ≠ [] ∧ ((stored .staging).allocate .fold 1).isSome = true ∧
    (stored .staging).mayIssue 2 false = true ∧
    ran (.kilnBatch { reads := [], verify := [] }) (stored .staging)
      (fun t => (t.place.moves.map fun m => (m.kind, m.off, m.len)) == [(1, 0, 16)]) = true ∧
    (stored .stream).mayIssue 3 ((stored .stream).poolShort .stream) = true ∧
    (stored .stream).victim .stream = some 32 ∧ ((stored .stream).spargeBatch 32).length = 1 ∧
    ran (.spargeCopy 32 { reads := [], verify := [] }) (stored .stream) (fun t => t.place.moves.map Move.kind == [2]) = true ∧
    (let x : Refresh := ⟨32, 3, none, 3, 1, true⟩
     let s := { stored .stream with media := { ready.media with refresh := [x], rebuilds := [(1, none)] } }
     s.mayIssue 4 true = true ∧ (s.refreshBatch x).length = 1 ∧ s.poolOf piece = some .stream ∧
     ran (.refreshRewrite 3 32 { reads := [], verify := [] }) s (fun t => t.place.moves.map Move.kind == [3]) = true ∧
     s.liesOn 3 none piece = true ∧ s.movable piece = true ∧
     ran (.rebuild 1 { reads := [], verify := [] }) s (fun t => t.media.rebuilds == []) = true ∧
     ran (.rebuild 3 { reads := [], verify := [] }) { s with media := { s.media with rebuilds := [(3, none)] } }
       (fun t => t.place.moves.map Move.kind == [3]) = true) := by decide +kernel

/-- A move of stream 3 whose target is programmed, and waits to be verified. -/
def movedTo : Move :=
  { kind := 2, stream := 3, off := 0, len := 16, dest := { band := 32, width := 1, slc := false, q := 0 }, checked := false, noted := false }

/-- R231, R236: 240 errors verify the target, 241 do not, and the move is done again. -/
theorem test_verify :
    (let s := { stored .stream with place := { (stored .stream).place with moves := [movedTo] } }
     let read := fun (e : Nat) => ({ ones := false, lost := [], rungs := [⟨e, 0, false,
       [{ band := 32, cw := 0, kind := 0, page := BitVec.ofNat 24 (pageIndex prof false 0 3 0), seq := 0 }]⟩] } : ReadIn)
     targets s.toVerify = [(movedTo, movedTo.dest)] ∧ s.canRead 6 ((targets s.toVerify).map Prod.snd) = true ∧
     s.verifies movedTo.dest (read 240) = true ∧ s.verifies movedTo.dest (read 241) = false ∧
     (s.verifyMoves ⟨[], []⟩).place.moves.map Move.checked = [true] ∧
     (s.verifyMoves ⟨[], [(0, read 241)]⟩).place.moves = []) := by decide +kernel

/-- An anchor copy of a generation, which names a head. -/
def anchorOf (gen head : Nat) (b : Bool) : Anchor :=
  { gen := gen, copyB := b, snuff := false, readOnly := false, headSeq := head, headAddr := 0, lastCask := 0, snuffLoc := none
    intent := none, intKind := 0, wbase := 0, doneSec := none, serial := 0, powerUps := 0, intact := true
    place := (if b then 3072 else 1024) + gen }

/-- READY with two pairs, generations 1 and 2, heads 10 and 20, a token, and checkpoint 30. -/
def anchored : State :=
  { stored .stream with
    wick := { WickState.reset with
      tokens := 1, anchors := [anchorOf 2 20 false, anchorOf 2 20 true, anchorOf 1 10 false, anchorOf 1 10 true] }
    journal := { JournalState.reset with newestCp := some 30, sinceHead := 9, nextSeq := 31 } }

/-- R122, R123, R204, R213, R230, R232, R238. -/
theorem test_background :
    ran .journalTailCommit { anchored with place := { anchored.place with pieces := [{ piece with noted := false, inTun := true }] } }
      (fun t => t.place.pieces.all (fun p => p.noted && !p.inTun) && t.journal.tail.isSome) = true ∧
    (let b : Band := { bandIn .stream .released with relSeq := 9 }
     let s : State := { anchored with place := { anchored.place with bands := [(32, b)], pieces := [] } }
     s.secondHead = some 10 ∧ ran (.bandRelease 32) s (fun t => (t.band 32).phase = .erasable) = true ∧
     ran (.bandRelease 32) { s with place := { s.place with bands := [(32, { b with relSeq := 10 })] } }
       (fun t => (t.band 32).phase = .released) = true) ∧
    ran (.refreshUrgentAge 3 32) { anchored with media := { ready.media with refresh := [⟨32, 3, none, 3, 1, false⟩, ⟨32, 4, none, 3, 1, false⟩] } }
      (fun t => t.media.refresh == [⟨32, 3, none, 3, 1, true⟩, ⟨32, 4, none, 3, 1, false⟩]) = true ∧
    (let rec_ : JRec := { seq := 1, parts := 1, cycle := 5, len := 64, addr := 33 * 16777216, body := .checkpoint Snapshot.empty }
     let s : State := { anchored with
       place := { anchored.place with bands := [(33, bandIn .journal .closed), (34, bandIn .journal .open)] }
       journal := { anchored.journal with recs := [rec_, { rec_ with seq := 30, addr := 34 * 16777216 }], bands := [33, 34] } }
     s.journalDone 33 = true ∧ s.readsBand 33 = false ∧
     ran (.bandRelease 33) s (fun t => (t.band 33).phase = .erasable && t.journal.bands == [34] && t.journal.recs.map JRec.seq == [30]) = true ∧
     ran (.bandRelease 34) s (fun t => t.journal.bands == [33, 34]) = true) ∧
    ran (.snuffBandCheck false true) { anchored with place := { anchored.place with snuff := [(0, true), (16, false)] } }
      (fun t => t.place.snuff == [(0, false), (16, true)]) = true := by decide +kernel

/-- A run of stream 0. -/
def aRun : Run := { stream := 0, off := 0, len := 16, kind := 0, loc := { band := 32, width := 1, slc := false, q := 0 }, leaf := 0 }

/-- Stream 3's piece waits for its commit, and the run table holds n runs of stream 0. -/
def crowded (n : Nat) : State :=
  { stored .stream with place := { (stored .stream).place with
      randomRes := 100, runs := List.replicate n aRun, pieces := [{ piece with noted := false, inTun := true }] } }

/-- The entries of a page are 170 of the runs (R208). -/
theorem crowded_entries (n : Nat) (h : 170 ≤ n) : (crowded n).pageEntries = List.replicate 170 aRun := by
  have fold : ∀ l : List Nat, l.foldl (fun m i => if ((crowded n).place.runs.filter fun r => r.stream = m).length <
      ((crowded n).place.runs.filter fun r => r.stream = i).length then i else m) 0 = 0 := by
    intro l
    induction l with
    | nil => rfl
    | cons i l ih =>
      have z : ¬ ((crowded n).place.runs.filter fun r => r.stream = 0).length <
          ((crowded n).place.runs.filter fun r => r.stream = i).length := by
        have all : ((crowded n).place.runs.filter fun r => r.stream = 0) = List.replicate n aRun :=
          (List.filter_replicate ..).trans (if_pos (by decide))
        rw [all, Nat.not_lt]
        exact Nat.le_trans (List.length_filter_le ..) (by simp [crowded])
      rw [List.foldl_cons, if_neg z]
      exact ih
  have full : (crowded n).fullestStream = 0 := fold _
  have sorted : ∀ k, sortBy (fun (a b : Run) => decide (a.off ≤ b.off)) (List.replicate k aRun) = List.replicate k aRun := by
    intro k
    induction k with
    | zero => rfl
    | succ k ih =>
      rw [List.replicate_succ, sortBy, ih]
      cases k <;> simp [insertBy, List.replicate_succ]
  have depth : (crowded n).runDepth aRun = 0 := rfl
  have mine : (crowded n).place.runs.filter (fun r => r.stream = (crowded n).fullestStream) = List.replicate n aRun := by
    rw [full]
    exact (List.filter_replicate ..).trans (if_pos (by decide))
  have stretch : ∀ k, stretches (crowded n).runDepth (List.replicate (k + 1) aRun) = [(0, List.replicate (k + 1) aRun)] := by
    intro k
    induction k with
    | zero => rfl
    | succ k ih => rw [List.replicate_succ, stretches, ih, depth]; rfl
  obtain ⟨k, rfl⟩ : ∃ k, n = k + 1 := ⟨n - 1, by omega⟩
  rw [State.pageEntries, mine, sorted, stretch]
  simp [h, List.take_replicate, Nat.min_eq_left h]

/-- R208: a commit that would leave 21,505 entries, and entries that a run page takes. -/
theorem test_full_table :
    (crowded 21504).backUp = true ∧ 21504 < (crowded 21504).commitTail.place.runs.length ∧
    (crowded 21504).place.runs.length < (crowded 21504).commitTail.place.runs.length ∧
    20480 < (crowded 20481).place.runs.length ∧ (crowded 20481).runPagePending = false ∧
    ((crowded 20481).allocate .random 1).isSome = true ∧ (crowded 20481).pageEntries = List.replicate 170 aRun := by
  have before : ∀ n, (crowded n).place.runs.length = n := fun n => List.length_replicate
  have commits : ∀ n, (crowded n).commitTail.place.runs = addRun (List.replicate n aRun) { aRun with stream := 3 } := fun n => rfl
  have after : ∀ n, (crowded n).commitTail.place.runs.length = n + 1 := by
    intro n
    rw [commits, Laws.addRun_new _ _ fun x hx => by rw [List.eq_of_mem_replicate hx]; decide]
    simp
  refine ⟨by decide +kernel, by rw [after]; decide, by rw [after, before]; decide, by rw [before]; decide, by decide +kernel,
    by decide +kernel, crowded_entries _ (by decide)⟩
/-- R213: the piece that the Tun holds of the stream's closed cycle is placed. -/
theorem test_placement :
    (let s : State := { stored .stream with place := { ready.place with pieces :=
       [{ piece with loc := none, done := false, noted := false, inTun := true }] } }
     s.backUp = true ∧ s.placeDue 3 = true ∧ (s.place.pieces.all fun p => s.heldPiece 3 p && !s.goesStaged p) = true ∧
     (s.allocate (s.roleFor 3 false) 1).isSome = true ∧
     ran (.piecePlacement 3) s (fun t => t.place.pieces.all fun p => p.loc.isSome) = true) := by decide +kernel

/-- R222, R225, R226: a frame is taken; a fetch ends; the sixteenth tag failure ends the Cellar's use. -/
theorem test_grist :
    (let s : State := { port with place := { ready.place with cellBase := 0x1000, cellCur := [0], cellFails := 15 } }
     s.pageOk 0 = true ∧ s.pageOk 2147483648 = true ∧ s.pageOk 1 = false ∧ s.hasFrame 0 = false ∧
     ran (.gristMiss 0) s (fun t => (tget frameNone t.place.frames 0).st = .fetching) = true ∧
     ran (.gristMiss 2147483648) s (fun t => t.place.frames.length == 1) = true ∧
     (let full : State := { s with place := { s.place with frames := (List.range' 1 4096).map fun p => (p, { frameNone with st := .dirty }) } }
      ran (.gristMiss 0) full (fun t => t.place.frames.length == 4096 && !t.hasFrame 0) = true) ∧
     (let f := { s with place := { s.place with frames := [(0, { frameNone with st := .fetching, lines := [2] })] } }
      ran (.cellarPageFetched 0 .failed) f (fun t => !t.place.cellOff && t.place.cellFails == 15 && t.place.cellCur == [] &&
        t.hget 0x2A == 1 && (tget frameNone t.place.frames 0).st = .dirty) = true)) := by decide +kernel

/-- R224: whatever the Cellar key is, some copy of page 0 carries its tag, and some other does not. -/
theorem test_tags (s : State) :
    (∃ bs : List Byte, bs.length = 4096 ∧ (bs.drop 8).take 8 = s.cellarTag 0 (bs.take 8) (bs.drop 16)) ∧
    (∃ bs : List Byte, bs.length = 4096 ∧ (bs.drop 8).take 8 ≠ s.cellarTag 0 (bs.take 8) (bs.drop 16)) := by
  let seq : List Byte := List.replicate 8 0
  let rest : List Byte := List.replicate 4080 0
  let g := s.cellarTag 0 seq rest
  have ls : seq.length = 8 := List.length_replicate
  have lr : rest.length = 4080 := List.length_replicate
  have lg : g.length = 8 := Laws.cellarTag_length s 0 seq rest
  have of_ : ∀ x : List Byte, x.length = 8 → (seq ++ (x ++ rest)).length = 4096 ∧ ((seq ++ (x ++ rest)).drop 8).take 8 = x ∧
      s.cellarTag 0 ((seq ++ (x ++ rest)).take 8) ((seq ++ (x ++ rest)).drop 16) = g := by
    intro x lx
    have d8 : (seq ++ (x ++ rest)).drop 8 = x ++ rest := List.drop_left' (by rfl)
    have d16 : (seq ++ (x ++ rest)).drop 16 = rest := by
      rw [show 16 = 8 + 8 from rfl, ← List.drop_drop, d8]
      exact List.drop_left' lx
    refine ⟨by rw [List.length_append, List.length_append, lx, ls, lr], by rw [d8]; exact List.take_left' lx, ?_⟩
    rw [d16, List.take_left' (by rfl)]
  refine ⟨⟨_, (of_ g lg).1, by rw [(of_ g lg).2.1, (of_ g lg).2.2]⟩, ?_⟩
  by_cases h : g = List.replicate 8 0
  · have l1 : (List.replicate 8 (1 : Byte)).length = 8 := rfl
    refine ⟨_, (of_ _ l1).1, ?_⟩
    rw [(of_ _ l1).2.1, (of_ _ l1).2.2, h]
    decide
  · have l0 : (List.replicate 8 (0 : Byte)).length = 8 := rfl
    refine ⟨_, (of_ _ l0).1, ?_⟩
    rw [(of_ _ l0).2.1, (of_ _ l0).2.2]
    exact fun e => h e.symm

/-- FIPS 197, appendix C.3; RFC 4493's CMAC of the empty message under the 256-bit key of NIST SP 800-38B, D.3. -/
theorem test_aes :
    (let count := fun (n : Nat) => (List.range n).map fun i => BitVec.ofNat 8 i
     let block := (List.range 16).map fun i => BitVec.ofNat 8 (17 * i)
     aesEnc (count 32) block =
       [0x8E, 0xA2, 0xB7, 0xCA, 0x51, 0x67, 0x45, 0xBF, 0xEA, 0xFC, 0x49, 0x90, 0x4B, 0x49, 0x60, 0x89] ∧
     aesDec (count 32) (aesEnc (count 32) block) = block ∧
     cmac [0x60, 0x3D, 0xEB, 0x10, 0x15, 0xCA, 0x71, 0xBE, 0x2B, 0x73, 0xAE, 0xF0, 0x85, 0x7D, 0x77, 0x81, 0x1F, 0x35, 0x2C, 0x07, 0x3B, 0x61, 0x08,
       0xD7, 0x2D, 0x98, 0x10, 0xA3, 0x09, 0x14, 0xDF, 0xF4] [] =
       [0x02, 0x89, 0x62, 0xF6, 0x1B, 0x7B, 0xF8, 0x9E, 0xFC, 0x6B, 0x55, 0x1F, 0x46, 0x67, 0xD9, 0x83]) := by decide +kernel

/-- R130 to R133, R422. -/
theorem test_anchors :
    anchored.wickUp = true ∧ anchored.pairDue true = true ∧ anchored.pairDue false = false ∧ anchored.mayIssue 6 false = true ∧
    ran (.anchorPairWrite true false 0 0 true) anchored (fun t => t.wick.anchors.length == 6 && t.wick.tokens == 0 &&
      (t.wick.anchors.take 2).map (fun a => (a.gen, a.copyB, a.headSeq)) == [(3, false, 30), (3, true, 30)]) = true ∧
    ran (.anchorPairWrite true false 0 0 true) { anchored with wick := { anchored.wick with tokens := 0 } }
      (fun t => t.wick.pairAged && t.wick.anchors.length == 4) = true ∧
    ran .anchorTokenAdd { ready with wick := { WickState.reset with tokens := 16 } } (fun t => t.wick.tokens == 16) = true := by
  decide +kernel

/-! ### Media -/

/-- READY with channel 5 in a state. -/
def chanIn (f : Channel → Channel) : State := ready.modChan 5 f

/-- R157 to R162. -/
theorem test_channels :
    ready.mediaUp = true ∧
    (let off : State := { ready with media := MediaState.reset }
     let found : DiscoveryIn := { table := [prof], dies := [{ channel := 5, die := 0, maker := 0x45, model := [1], beyond := false }], passes := [], rawGB10 := 77 }
     off.media.chans.all (fun x => x.2.st = .off) = true ∧
     ran (.mediaDiscovery found) off (fun t => (t.chan 5).st = .train && (t.chan 6).st = .absent && t.link.rawCode == 77 && t.media.profile == some prof) = true) ∧
    ran (.channelTraining 5 0) (chanIn fun c => { c with st := .train }) (fun t => (t.chan 5).st = .failed && (t.chan 5).retired) = true ∧
    ran (.channelTraining 5 4) (chanIn fun c => { c with st := .train }) (fun t => (t.chan 5).st = .active && (t.chan 5).rate == 3) = true ∧
    ran (.channelTraining 5 8) (chanIn fun c => { c with st := .train }) (fun t => (t.chan 5).st = .active && (t.chan 5).rate == 4) = true ∧
    ran (.retrainCheck 5 false) ready (fun t => (t.chan 5).st = .quiesced) = true ∧
    ran (.tempRetrain 5 600) { ready with power := { ready.power with tCtrl := 30 } } (fun t => (t.chan 5).trainTemp == 30) = true ∧
    ran (.tempRetrain 5 0) { ready with power := { ready.power with tCtrl := 15 } } (fun t => (t.chan 5).trainTemp == 15) = true ∧
    ran (.channelRetrain 5 true) (chanIn fun c => { c with st := .quiesced, trainFails := 1 }) (fun t => (t.chan 5).st = .active) = true ∧
    ran (.channelRetrain 5 false) (chanIn fun c => { c with st := .quiesced }) (fun t => (t.chan 5).st = .quiesced && (t.chan 5).trainFails == 1) = true ∧
    ran (.channelRetrain 5 false) (chanIn fun c => { c with st := .quiesced, trainFails := 1 }) (fun t => (t.chan 5).st = .failed) = true := by
  decide +kernel

/-- A descriptor of an opcode for die 0, block 2, wordline 1, of BACK. -/
def mdesc (op : BitVec 8) : MDesc :=
  { op := op, die := 0, mode := 0, acc := false, cls := 2, ladder := 0, planes := 1, block := 2, wl := 1, tunAddr := 0, cwFirst := 0
    cwCount := 1, accAddr := 0, band := 32, tag := 0x55, submitter := 6 }

/-- READY with an entry in slot 7 of channel 5. -/
def queued (op : BitVec 8) (ph : EntryPhase) (st : Option Byte) : State :=
  (stored .stream).modChan 5 fun c => { c with queue :=
    [{ slot := 7, d := mdesc op, order := 0, phase := ph, aged := false, status := st, rung := 0, corr := 0, held := false, climbed := false, fan := [], soft := 0, comp := none }] }

/-- R164, R167, R168, R175, R188, R190. -/
theorem test_descriptors :
    maySubmit (mdesc 1) = true ∧ (ready.chan 5).freeSlot false = some 0 ∧
    ran (.descriptorStart 5 [mdesc 1] 7 false) ready (fun t => (t.chan 5).queue.map QEntry.slot == [0]) = true ∧
    (let s := queued 1 .queued none
     (s.chan 5).queue.all (fun e => descValid prof (s.dieAt 5 0) e.d && !(s.chan 5).barred e && s.mayStart prof 5 e && s.isNext prof e) = true) ∧
    (let full := chanIn fun c => { c with queue := (List.range 240).map fun i =>
       { slot := i, d := mdesc 1, order := 0, phase := .started, aged := false, status := none, rung := 0, corr := 0, held := false
         climbed := false, fan := [], soft := 0, comp := none } }
     (full.chan 5).freeSlot false = none ∧
     ran (.descriptorStart 5 [mdesc 1] 255 false) full (fun t => (t.chan 5).waits == [mdesc 1] && (t.chan 5).queue.length == 240) = true) ∧
    ran (.descriptorStart 5 [] 7 true) (queued 2 .queued none) (fun t => ((t.chan 5).queue.map QEntry.status).contains none) = true ∧
    ran (.descriptorStart 5 [] 7 false) (queued 1 .queued none) (fun t => (t.chan 5).queue.map QEntry.phase == [.started]) = true ∧
    ran (.descriptorStart 5 [] 7 false) { queued 1 .queued none with media := { (queued 1 .queued none).media with profile := none } }
      (fun t => (t.chan 5).queue.map QEntry.status == [some 0x18]) = true ∧
    ran (.tokenWaitAge 5 7) (queued 1 .queued none) (fun t => (t.chan 5).queue.map QEntry.aged == [true]) = true ∧
    ran (.descriptorComplete 5 7 { status := 0, elapsed := 9 }) (queued 2 .started (some 0))
      (fun t => t.media.done.map (fun c => (c.tag, c.status, c.elapsed)) == [(0x55, 0, 9)] && (t.band 32).units.contains (1, 5)) = true ∧
    ran (.descriptorComplete 5 7 { status := 0, elapsed := 9 }) (queued 3 .started (some 0)) (fun t => (t.band 32).parity.contains 1) = true ∧
    ran (.descriptorComplete 5 7 { status := 0, elapsed := 9 }) (queued 4 .started (some 0x13))
      (fun t => (t.chan 5).blocks.contains (0, 2)) = true := by decide +kernel

/-- The page index of a unit of one page (log 107). -/
def pageOf (row ch : Nat) : BitVec 24 := BitVec.ofNat 24 (pageIndex prof false row ch 0)

/-- What the action of the running descriptor of an opcode leaves as its status. -/
def endsWith (code : Byte) (t : State) : Bool := (t.chan 5).queue.map QEntry.status == [some code]

/-- R169, R170, R182. -/
theorem test_actions :
    (let run := fun (op : BitVec 8) => queued op .started none
     let up := (run 1).modChan 5 fun c => { c with queue := c.queue.map fun e => { e with climbed := true, fan := [(4, 0)] } }
     let place : Header := { band := 32, cw := 0, kind := 0, page := pageOf 1 5, seq := 0 }
     let good : RungIn := ⟨320, 0, false, [place]⟩
     let bad : RungIn := ⟨321, 0, false, []⟩
     let wrong : RungIn := ⟨0, 0, false, [{ place with cw := 1 }]⟩
     let rd := fun (ones : Bool) (k : Nat) (x : RungIn) => Instr.mediaRead 5 7 ⟨ones, (List.replicate k bad) ++ [x], []⟩
     ((run 1).runningOp 5 7 .read).isSome = true ∧ ((run 2).runningOp 5 7 .program).isSome = true ∧
     ((run 3).runningOp 5 7 .parity).isSome = true ∧ ((run 4).runningOp 5 7 .erase).isSome = true ∧
     ((run 5).runningOp 5 7 .markRead).isSome = true ∧ ((run 6).runningOp 5 7 .feature).isSome = true ∧
     ((run 7).runningOp 5 7 .resetDie).isSome = true ∧
     ran (rd true 0 bad) (run 1) (endsWith 0x04) = true ∧ ran (rd false 0 good) (run 1) (endsWith 0x00) = true ∧
     ran (rd false 1 good) (run 1) (endsWith 0x01) = true ∧ ran (rd false 15 good) (run 1) (endsWith 0x01) = true ∧
     ran (rd false 18 good) (run 1) (fun t => (t.chan 5).queue.map QEntry.climbed == [true] && (t.chan 5).queue.map QEntry.fan == [[(4, 0)]]) = true ∧
     ran (rd false 17 ⟨321, 0, true, [place]⟩) (run 1) (endsWith 0x02) = true ∧ ran (rd false 18 good) up (endsWith 0x03) = true ∧
     ran (.mediaRead 5 7 ⟨false, [], [4]⟩) up (endsWith 0x10) = true ∧
     ran (.mediaRead 5 7 ⟨false, List.replicate 19 { wrong with decoded := true }, []⟩) up (endsWith 0x11) = true ∧
     (let gone := up.modChan 5 fun c => { c with st := .quiesced }
      ran (rd false 18 good) gone (endsWith 0x03) = true ∧ ran (rd false 18 wrong) gone (endsWith 0x11) = true ∧
      ran (.mediaRead 5 7 ⟨false, [], [4]⟩) gone (endsWith 0x10) = true) ∧
     ran (rd false 0 good) { run 1 with snuff := { after := none, trigger := some 1, keepVin := false, endHalt := false, trigPos := 0 } }
       (endsWith 0x17) = true ∧
     ran (.mediaErase 5 7 false) { run 4 with snuff := { after := none, trigger := some 1, keepVin := false, endHalt := false, trigPos := 0 } }
       (endsWith 0x17) = true ∧
     ran (.mediaProgram 5 7 [9] false) { run 2 with place := { (run 2).place with bands := [(32, { bandIn .stream .closed with checked := false })] } }
       (fun t => (t.chan 5).queue.all (fun e => e.phase = .queued) && (t.band 32).checked) = true ∧
     ran (.mediaProgram 5 7 [] true) (run 2) (endsWith 0x12) = true ∧ ran (.mediaProgram 5 7 [] false) (run 2) (endsWith 0x00) = true ∧
     ran (.mediaParity 5 7 true) (run 3) (endsWith 0x12) = true ∧ ran (.mediaErase 5 7 true) (run 4) (endsWith 0x13) = true ∧
     ran (.mediaErase 5 7 false) (run 4) (fun t => endsWith 0x00 t && tget 0 t.media.wear (wearKey 5 0 2) == 1) = true ∧
     ran (.markRead 5 7 true) (run 5) (endsWith 0x19) = true ∧ ran (.feature 5 7) (run 6) (endsWith 0x00) = true ∧
     ran (.resetDie 5 7 true) (run 7) (endsWith 0x00) = true) := by decide +kernel

/-- R184, R185, R191: the third timeout in the hour retires the die; a scrub read one bit past the threshold of 75 % of 320. -/
theorem test_timeouts :
    (let run := queued 1 .started none
     let third := run.modChan 5 fun c => { c with timeouts := [(0, 0), (0, 0)] }
     third.recentTimeouts 5 0 = 2 ∧ run.recentTimeouts 5 0 = 0 ∧
     ran (.dieTimeout 5 7 true true true) third (fun t => tget DieCode.absent (t.chan 5).dies 0 = .retired && endsWith 0x14 t) = true ∧
     ran (.dieTimeout 5 7 true true false) run (fun t => tget DieCode.absent (t.chan 5).dies 0 = .active && endsWith 0x14 t) = true ∧
     ran (.dieTimeout 5 7 false true false) run (fun t => (t.chan 5).retDies == 1) = true) := by decide +kernel

/-- A scrub read of the wordline 0 or 1 of band 32 on a channel that has so many errors in its worst codeword. -/
def scrubIn (row ch n : Nat) : ReadIn :=
  { ones := false, lost := []
    rungs := [⟨n, 0, false, (List.range 4).map fun q =>
      { band := 32, cw := BitVec.ofNat 2 q, kind := 0, page := BitVec.ofNat 24 (pageIndex prof false row ch 0), seq := 0 }⟩] }

theorem test_scrub :
    (let s := { stored .stream with lamp := { (stored .stream).lamp with openWin := some 0, plan := [(0, { start := 0, len := 9, kind := 5 })] } }
     let c := (s.scrubBlocks.headD (0, 99)).2
     s.mayIssue 5 false = true ∧ s.scrubBlocks = [(32, c)] ∧ s.canUse 0x01 6 [(0, 32, c)] = true ∧
     ran (.scrubVisit (BitVec.ofNat 5 c) 32 (scrubIn 0 c 241) (scrubIn 0 c 0)) s (fun t => t.media.refresh.map Refresh.band == [32]) = true ∧
     ran (.scrubVisit (BitVec.ofNat 5 c) 32 (scrubIn 0 c 240) (scrubIn 0 c 240)) s (fun t => t.media.refresh == [] && t.media.visited == [] &&
       tget 0 t.media.rotate (wearKey c 0 (s.memberBlock 32 c)) == 1) = true ∧
     ran (.scrubVisit (BitVec.ofNat 5 c) 32 (scrubIn 0 c 321) (scrubIn 0 c 0)) s (fun t => (t.chan c).eUncorr == 1 && t.hget 0x13 == 1) = true ∧
     (let two : State := { s with place := { s.place with pieces := [piece, { piece with off := 4096, loc := some { band := 32, width := 1, slc := false, q := 12 } }] } }
      two.scrubBlocks.length = 2 ∧
      ran (.scrubVisit (BitVec.ofNat 5 c) 32 (scrubIn 0 c 0) (scrubIn 0 c 0)) two (fun t => t.media.visited == [(32, c)]) = true)) := by decide +kernel

/-! ### Power and the Snuffer -/

/-- R254, R256, R261. -/
theorem test_rails :
    (ready.rail .vcc).good = true ∧
    ran (.railUv .vcc true) ready (fun t => (t.rail .vcc).uv && (t.unit .power).held.any fun h => h.1 = .powerRailUv) = true ∧
    ran (.railUv .vcc false) ready (fun t => !(t.rail .vcc).uv) = true ∧
    ran (.railOv .vcc) ready (fun t => (t.rail .vcc).st = .shut && (t.rail .vcc).ov && (t.rail .vwk).st = .on) = true ∧
    ran (.railOc .vcc true) ready (fun t => (t.rail .vcc).st = .limit) = true ∧
    ran (.railOc .vcc false) ready (fun t => (t.rail .vcc).st = .on) = true ∧
    ran (.chargeTimeout 26999) { ready with power := { ready.power with charging := true } }
      (fun t => (t.unit .power).held.any fun h => h.1 = .powerChargeTimeout) = true := by decide +kernel

/-- R243, R257, R259, R260. -/
theorem test_temperature :
    ready.powerUnitUp = true ∧
    ran (.tempSample 20 30 40 50 60 70) ready (fun t => t.power.temp == 70) = true ∧
    ran (.tempSample 20 112 40 50 60 70) { ready with power := { ready.power with tripRun := 9 } }
      (fun t => t.power.tripRun == 10 && (t.unit .power).waiting.isSome) = true ∧
    ran (.tempSample 20 111 40 50 60 70) { ready with power := { ready.power with tripRun := 9 } }
      (fun t => t.power.tripRun == 0 && (t.unit .power).waiting.isNone) = true ∧
    ran (.thermalLimitRecompute 0) { ready with power := { ready.power with tCtrl := 100 } } (fun t => t.power.thermal == 56000) = true ∧
    ran (.thermalLimitRecompute 1000) { ready with power := { ready.power with thermal := 50000 } } (fun t => t.power.thermal == 56000) = true ∧
    ran (.thermalLimitRecompute 999) { ready with power := { ready.power with thermal := 50000 } } (fun t => t.power.thermal == 50000) = true ∧
    ran .healthMinute { ready with power := { ready.power with tCtrl := 105 } } (fun t => t.hget 0x02 == 60 && t.hget 0x3F == 1) = true := by
  decide +kernel

/-- READY, with a measurement under way. -/
def gauging : State := { ready with power := { ready.power with gauge := .running } }

/-- R262 to R265: 2,000 µF is 240,075 µV of droop in 1,980 µs at 0.25 A, times 0.97. -/
theorem test_gauge :
    ready.serves 0x2A = true ∧ ready.gaugeCan = true ∧
    ran .gaugeNow ready (fun t => t.power.gaugeReq) = true ∧
    ran .gaugeMeasurement { ready with power := { ready.power with charging := true } }
      (fun t => t.power.gauge = .running && !t.power.charging) = true ∧
    ran .gaugeDeferFail gauging (fun t => t.intake.gaugeOwed == 3 && t.power.gauge = .idle && t.power.cap == 2000) = true ∧
    ran .gaugeDeferFail { ready with power := { ready.power with vbank := 26999, gaugeReq := true } }
      (fun t => t.intake.gaugeOwed == 3 && !t.power.gaugeReq) = true ∧
    gaugeCap 27500000 27259925 = 2000 ∧ gaugeEsr 27530000 27500000 27259925 = 111 ∧
    ran (.gaugeMeasurementDone 27530000 27500000 27259925) gauging
      (fun t => t.power.cap == 2000 && t.power.esr == 111 && t.power.gauge = .idle && !t.power.blind) = true ∧
    ran (.gaugeMeasurementDone 27530000 27500000 27499999) gauging (fun t => t.intake.gaugeOwed == 3 && t.power.cap == 2000) = true ∧
    ran (.energyAvailUpdate 8000) ready (fun t => t.power.avail == 0 && t.power.vbank == 8000) = true ∧
    ran (.energyAvailUpdate 8001) ready (fun t => t.power.avail == 16001000) = true := by decide +kernel

/-- A trigger waits for its flush. -/
def triggered (keep : Bool) : State :=
  { anchored with snuff := { after := none, trigger := some 2, keepVin := keep, endHalt := false, trigPos := 4 } }

/-- R268, R269, R271, R283, R459. -/
theorem test_wires :
    ready.running = true ∧
    ran (.removalDetect 70) ready (fun t => t.snuff == { after := none, trigger := some 1, keepVin := false, endHalt := false, trigPos := 70 } && t.power.absent && t.clock.dev = .ready) = true ∧
    ran (.brownOut false 7) ready (fun t => t.snuff.trigger == some 2 && !t.power.vin) = true ∧
    ran (.brownOut true 7) ready (fun t => t.snuff.trigger == some 3) = true ∧
    ran (.removalDetect 7) (triggered false) (fun t => t.snuff.trigger == some 2) = true ∧
    ran .presentLowQualify { ready with power := { ready.power with absent := true, removal := true } } (fun t => !t.power.absent) = true ∧
    ran .vauxLoss ready (fun t => !t.clock.vauxPin && t.clock.vauxAlt) = true ∧
    ran .vauxReturn { ready with clock := { clockIn .ready with vauxPin := false, vauxAlt := true } } (fun t => t.clock.vauxPin && !t.clock.vauxAlt) = true ∧
    ran .vauxReturn { triggered false with clock := { clockIn .ready with vauxPin := false, vauxAlt := true } }
      (fun t => t.clock.vauxPin && t.clock.vauxAlt) = true := by decide +kernel

/-- R134, R272, R275, R280, R450. -/
theorem test_flush :
    (triggered false).snuffBands = [0, 16] ∧
    ran (.snufferFlush ⟨[], 0, 0⟩) (triggered false) (fun t => t.clock.dev = .snuffed && t.clock.flushBy == 2 && !t.clock.mainPwr &&
      (t.journal.snuff.map SnuffImage.cycle) == some 7 &&
      (t.wick.anchors.take 2).map (fun a => (a.gen, a.snuff, a.snuffLoc)) == [(3, true, some 0), (3, true, some 0)]) = true ∧
    ran (.snufferFlush ⟨[(0, 3, 0)], 1, 0⟩) (triggered true) (fun t => t.clock.dev = .recover && t.clock.snuffMount && t.clock.mainPwr) = true ∧
    ran .bankLowAbort (triggered false) (fun t => t.clock.dev = .snuffed && t.wick.anchors.length == 4 && t.journal.snuff.isNone) = true := by
  decide +kernel

/-! ### The host port -/

/-- R81, R294, R314 to R317. -/
theorem test_port_resets :
    (let s := { withStream .open with intake := { (withStream .open).intake with credits := 9, advertised := true } }
     s.portUp = true ∧ s.hostUp = true ∧
     ran .perstAssert s (fun t => t.host.perst && !t.host.mse && !t.host.dlActive && t.intake.credits == 0 && (t.stream 3).st = .draining) = true ∧
     ran .perstDeassert { s with host := { s.host with perst := true } } (fun t => !t.host.perst && t.host.training) = true ∧
     ran (.surpriseDown .surpriseDown) s (fun t => !t.host.dlActive && t.host.training && t.hget 0x2C == 1 && t.intake.credits == 0) = true ∧
     ran .functionLevelReset s (fun t => t.host.dlActive && !t.host.mse && t.intake.credits == 9 && (t.stream 3).st = .draining) = true ∧
     (let due := { s with host := { s.host with d3hot := true, marksDue := [(1, [7])] } }
      ran .d0Return due (fun t => !t.host.d3hot && t.host.marksDue == [] && t.host.out.length == 1) = true) ∧
     ran .d3hotEntry s (fun t => t.host.d3hot) = true ∧ ran .d0Return { s with host := { s.host with d3hot := true } } (fun t => !t.host.d3hot) = true ∧
     (let tr := { s with host := { s.host with training := true, dlActive := false } }
      tr.canTrain = true ∧ ran .trainFail tr (fun t => (t.unit .host).waiting.isSome) = true ∧
      ran .dlActive tr (fun t => t.host.dlActive && !t.host.training) = true)) := by decide +kernel

/-- READY with submission ring 4 on completion ring 2, both of 16 entries. -/
def ringed : State :=
  { port with host := { port.host with
      sqs := [(4, { SRing.none with base := 0x10000, entries := 16, cq := 2, enable := true, tail := 3 })]
      cqs := [(2, { CRing.none with base := 0x20000, entries := 16, enable := true, phase := true, coTime := 5, coCount := 4 })]
      lastRing := 31 } }

/-- A seal mark of member 1 of set 0 for a cycle below 256 (R148). -/
def mark (n : Byte) : List Byte :=
  let b : List Byte := [0, 0, 1, 0, n, 0, 0, 0, 0, 0, 0, 0]
  b ++ leBytes 4 (crc32c b).toNat

/-- R148, R290, R296 to R303, R313: a doorbell of 15 and of 16 to a ring of 16. -/
theorem test_port_writes :
    ringed.barOpen = true ∧
    ran (.configWrite 0x1234567890 0xABCDEF12345 true false ⟨true, false, false, false⟩ 256 512 false true []) ringed (fun t => t.configIdentity.bar0 == 0x120000000C &&
      t.configIdentity.bar2 == 0xABCDEF00004 && t.configIdentity.subVendor == 0x1F2C && t.host.mps == 256 && t.host.mrrs == 512 && !t.host.bme) = true ∧
    ran (.bar0Read 0 8) ringed (fun t => t.host.barRead == List.replicate 8 0) = true ∧
    ran (.mirrorBaseWrite 0x5000) ringed (fun t => t.host.mirBase == 0x5000) = true ∧
    ran (.tailDoorbell 4 15) ringed (fun t => (t.sq 4).tail == 15 && (t.sq 4).error == 0) = true ∧
    ran (.tailDoorbell 4 16) ringed (fun t => (t.sq 4).error == 2) = true ∧
    ran (.headDoorbell 2 15) ringed (fun t => (t.cq 2).head == 15) = true ∧
    ran (.headDoorbell 2 16) ringed (fun t => (t.sq 4).error == 2) = true ∧
    (let s : State := { ringed with link := { linkOn with count := 2 }, host := { ringed.host with missing := 2, mp := [(1, 8)] } }
     s.markOk 1 (mark 9) = true ∧ s.markOk 1 (mark 8) = false ∧
     ran (.setMailboxWrite 1 (mark 9)) s (fun t => t.mOf 1 == 9 && t.host.missing == 0) = true ∧
     ran (.setMailboxWrite 1 (mark 8)) s (fun t => t.mOf 1 == 8 && t.hget 0x2B == 1) = true) ∧
    ran (.bar2BadWrite 0x1FFF 4) ringed (fun t => t.hget 0x28 == 1) = true ∧
    ran .sealMarkAbandon { ringed with host := { ringed.host with marksDue := [(1, [])] } } (fun t => t.host.marksDue == []) = true := by
  decide +kernel

/-- R299: the doubleword at offset 8 of submission ring 5 gives 16 entries, completion ring 2, and ENABLE. -/
theorem test_setup :
    recordWriteOk 8 [16, 0, 2, 1] = true ∧ recordWriteOk 4 (List.replicate 8 0) = false ∧
    ran (.setupRecordWrite false 5 8 [16, 0, 2, 1]) ringed (fun t => (t.sq 5).enable && (t.sq 5).entries == 16 && (t.sq 5).error == 0) = true ∧
    ran (.setupRecordWrite false 5 8 [17, 0, 2, 1]) ringed (fun t => (t.sq 5).error == 1) = true ∧
    ran (.setupRecordWrite false 5 8 [16, 0, 2, 0]) ringed (fun t => !(t.sq 5).enable && (t.sq 5).entries == 16) = true ∧
    ran (.setupRecordWrite false 4 8 [32, 0, 2, 1]) ringed (fun t => (t.sq 4).entries == 16) = true ∧
    ran (.setupRecordWrite false 4 8 [16, 0, 2, 0]) ringed (fun t => !(t.sq 4).enable) = true ∧
    ringed.cqHeld 2 = true ∧ ringed.cqHeld 3 = false ∧
    ran (.setupRecordWrite true 3 8 [16, 0, 0, 0, 1, 0, 0, 0]) ringed (fun t => (t.cq 3).enable && (t.cq 3).entries == 16) = true ∧
    ran (.setupRecordWrite true 2 8 [16, 0, 0, 0, 0, 0, 0, 0]) ringed (fun t => (t.cq 2).enable) = true := by decide +kernel

/-- A descriptor: READ_STREAM of stream 3, or another opcode, of a length from a start on (R304). -/
def hbytes (op : Byte) (start len : Nat) : List Byte :=
  [op, 0, 3, 0] ++ leBytes 4 0x77 ++ leBytes 8 start ++ leBytes 4 len ++ leBytes 4 0 ++ leBytes 8 0x9000

/-- The same, fetched, as descriptor 0. -/
def hdesc (op : Byte) (start len : Nat) : HDesc :=
  { id := 0, ring := 4, cq := 2, opcode := op, noIrq := false, stream := 3, tag := 0x77, start := BitVec.ofNat 64 start
    len := BitVec.ofNat 32 len, buffer := 0x9000, badRes := false, headAft := 1, count := 0, reserved := 0, status := none, awaits := [] }

/-- READY with stream 3's piece, and a descriptor in progress. -/
def asked (d : HDesc) : State :=
  { stored .stream with host := { ringed.host with active := [d] }
                        intake := { (stored .stream).intake with streams := [(3, { streamIn .open with trim := 0, accept := 16, front := 16 })] } }

/-- R302 to R309. -/
theorem test_rings :
    ringed.upstreamOpen = true ∧ ringed.hostUp = true ∧ ringed.fetchState = true ∧ ringed.nextRing = some 4 ∧
    ran (.descriptorFetch (.ok (hbytes 1 0 16)) false) ringed (fun t => t.host.active.map (fun d => (d.opcode, d.tag, d.status)) == [(1, 0x77, none)] &&
      (t.sq 4).head == 1) = true ∧
    ran (.descriptorFetch (.ok (hbytes 1 0 0)) false) ringed (fun t => t.host.active.map HDesc.status == [some 0x10]) = true ∧
    ran (.descriptorFetch .failed false) ringed (fun t => (t.sq 4).error == 3) = true ∧
    ran (.completionPost 0) (asked { hdesc 1 0 16 with status := some 0, count := 16 })
      (fun t => t.host.active == [] && (match t.host.out with
        | .completion a _ :: _ => a == 0x20000
        | _ => false)) = true ∧
    (let s := { ringed with host := { ringed.host with cqs := [(2, { ringed.cq 2 with since := 1 })] } }
     ran (.coalesceTimeout 2) s (fun t => t.host.out == [.vector 2] && (t.cq 2).since == 0) = true) := by decide +kernel

/-- R91, R218, R306, R308. -/
theorem test_reads :
    ((asked (hdesc 1 0 16)).ready 0 1).isSome = true ∧
    ran (.readStream 0 []) (asked (hdesc 1 0 16)) (fun t => t.host.out == [.data 0x9000 (List.replicate 16 0) true] &&
      t.host.active.map (fun d => (d.status, d.count)) == [(some 0, 16)]) = true ∧
    ran (.readStream 0 []) (asked (hdesc 1 0 17)) (fun t => t.host.active.map HDesc.status == [some 0x11]) = true ∧
    ran (.readRandom 0 []) (asked (hdesc 2 999 1)) (fun t => t.host.active.map (fun d => (d.status, d.count)) == [(some 0, 1)]) = true ∧
    ran (.readRandom 0 []) (asked (hdesc 2 999 2)) (fun t => t.host.active.map HDesc.status == [some 0x11]) = true ∧
    ran (.readStream 0 [(0, none)]) (asked (hdesc 1 0 16)) (fun t => t.host.active.map (fun d => (d.status, d.count)) == [(some 0x14, 0)]) = true ∧
    (let s := { asked (hdesc 2 999 1) with place := { (stored .stream).place with frames := [(0, { frameNone with used := 1 })]
                                                                                  pieces := [{ piece with unit := some 999 }] } }
     s.hasFrame (unitLine 999).1 = true ∧ s.fetching (unitLine 999).1 = false ∧
     ran (.readRandom 0 [(999, none)]) s (fun t => t.host.active.map HDesc.status == [some 0x14]) = true ∧
     ran (.readRandom 0 []) s (fun t => t.host.active.map HDesc.status == [some 0x00]) = true) ∧
    ran (.caskQuery 0) (asked (hdesc 4 5 64)) (fun t => t.host.active.map HDesc.status == [some 0x15]) = true := by decide +kernel

/-- A cask of cycle 5 with nothing in it. -/
def emptyCask : Cask :=
  { cycle := 5, setSealed := 0, missing := 0, joined := false, recovered := false, cut := false, synth := false, degraded := false
    free := false, ticks := 0, entries := [], runs := [], deltas := [], released := [] }

/-- R151, R306: the cask held is answered, whole or cut off. -/
theorem test_cask_query :
    (let s := fun (n : Nat) => { asked (hdesc 4 5 n) with journal := { JournalState.reset with
       recs := [{ seq := 1, parts := 1, cycle := 5, len := 64, addr := 0, body := .cask emptyCask }], lastSeal := some 5 } }
     ran (.caskQuery 0) (s 4096) (fun t => t.host.active.map HDesc.status == [some 0x00]) = true ∧
     ran (.caskQuery 0) (s 16) (fun t => t.host.active.map HDesc.status == [some 0x01] && (match t.host.out with
       | [.data _ b _] => b.take 8 == [5, 0, 0, 0, 0, 0, 0, 0] && b.length == 16
       | _ => false)) = true) := by decide +kernel

/-- R307. -/
theorem test_random_writes :
    ran (.writeRandom 0) { asked (hdesc 3 0 1) with clock := clockIn .readOnly } (fun t => t.host.active.map HDesc.status == [some 0x16]) = true ∧
    ran (.writeRandom 0) (asked (hdesc 3 1000 1)) (fun t => t.host.active.map HDesc.status == [some 0x11]) = true ∧
    (let s := { asked (hdesc 3 0 1) with place := { (stored .stream).place with frames := [(0, { frameNone with used := 1 })] } }
     s.reserveOk 0 = true ∧ s.hasFrame 0 = true ∧
     ran (.writeRandom 0) s (fun t => t.intake.reserved == 4112 && t.host.active.map HDesc.reserved == [1]) = true ∧
     (let r := { s with host := { s.host with active := [{ hdesc 3 0 1 with reserved := 1 }] }, intake := { s.intake with reserved := 4112 } }
      r.unitTurn { hdesc 3 0 1 with reserved := 1 } 0 = true ∧
      ran (.dataFetchDone 0 .failed) r (fun t => t.intake.reserved == 0 && t.host.active.map HDesc.status == [some 0x17]) = true)) := by
  decide +kernel

/-! ### The Weasko link -/

/-- R320 to R323, R345, R348, R351. -/
theorem test_link_selects :
    linked.linkUp = true ∧
    ran .linkReset linked (fun t => t.link.awaiting && t.link.matchOpen && t.link.lantern.length == 32) = true ∧
    ran .linkDeselect linked (fun t => !t.link.selected) = true ∧
    (let s := { linked with link := { linked.link with awaiting := true } }
     ran (.protocolSelect 0xF1 0) s (fun t => !t.link.awaiting && !t.link.novven) = true ∧
     ran (.protocolSelect 0xA1 3) s (fun t => t.link.novven && t.link.opSeen == some 0xA1) = true ∧
     ran (.protocolSelect 0xF1 4) s (fun t => t.link.dead) = true) := by decide +kernel

/-- The frame sent last, as control byte and information field. -/
def sentIs (c : Byte) (info : List Byte) (t : State) : Bool := t.link.sent == some { control := c, info := info, width := 0 }

/-- R325, R328 to R331, R339: frames in and out of sequence, the 65th, and the answers. -/
theorem test_frames :
    linked.nativeUp = true ∧
    ran (.chainedIFrame 0 [9]) linked (fun t => sentIs 0x81 [0] t && t.link.chain == [9] && t.link.vr == 1) = true ∧
    ran (.chainedIFrame 2 [9]) linked (fun t => sentIs 0x80 [2] t && t.link.chain == []) = true ∧
    ran (.chainedIFrame 0 [9]) { linked with link := { linked.link with chainN := 64, chain := [1] } }
      (fun t => sentIs 0x81 [3] t && t.link.chain == [] && t.link.chainN == 0) = true ∧
    ran (.hostRFrame 0 0) { linked with link := { linked.link with toSend := [[1], [2]] } } (fun t => sentIs 0x40 [1] t && t.link.vs == 1) = true ∧
    ran (.hostRFrame 0 0) { linked with link := { linked.link with toSend := [[1]] } } (sentIs 0x00 [1]) = true ∧
    (let f : Frame := { control := 0x01, info := [7], width := 0 }
     ran (.hostRFrame 0 1) { linked with link := { linked.link with lastI := some f } } (sentIs 0x01 [7]) = true ∧
     receivedFrame f.bytes = some (0x01, [7]) ∧ receivedFrame (f.bytes.set 2 8) = none) ∧
    ran .frameCrcError linked (fun t => sentIs 0x80 [1] t && t.hget 0x2D == 1) = true ∧
    ran .length255Frame linked (sentIs 0x80 [4]) = true ∧ ran .resyncReq linked (sentIs 0xC8 []) = true ∧
    ran .abortReq linked (sentIs 0xD8 []) = true ∧
    ran (.checkReq [0, 1, 2, 3, 4, 5, 6, 0xFF]) linked (sentIs 0xE8 [0xFF, 0xFE, 0xFD, 0xFC, 0xFB, 0xFA, 0xF9, 0]) = true ∧
    ran .switchRevert { linked with link := { linked.link with switching := some (1, 2, false) } } (fun t => t.link.width == 1 && t.link.rate == 2) = true := by
  decide +kernel

/-- R334, R335, R341 to R343: an ECHO of two bytes runs once, and is answered again with REPLAYED; nonsense is answered BADMSG. -/
theorem test_messages :
    checkMsg [0xEE] = none ∧
    ran (.messageReceive 0 0 [0x0A, 2, 0, 7, 8]) linked (fun t => sentIs 0x01 [0, 0, 1, 0, 0x0A, 0, 7, 8] t && t.link.vr == 1 &&
      t.journal.frames.length == 1) = true ∧
    ran (.messageReceive 0 0 [0xEE]) linked (fun t => sentIs 0x01 [0, 0, 1, 0, 0, 3] t) = true ∧
    (match exec (.messageReceive 0 0 [0x0A, 2, 0, 7, 8]) linked with
     | .next t => ran (.messageReceive 0 1 [0x0A, 2, 0, 7, 8]) t (fun u => (u.link.sent.map Frame.info) == some [1, 0, 1, 0, 0x0A, 0, 7, 8] && u.link.vr == 1)
     | _ => false) = true ∧
    ran (.messageReceive 3 0 [0x0A, 0, 0]) linked (sentIs 0x80 [2]) = true := by decide +kernel

/-- R333, R335, R336, R339, R340, R375. -/
theorem test_operations :
    linked.serves 0x03 = true ∧
    ran (.readReg 0x7F 1) { linked with link := { linked.link with echoReg := 5 } } (fun t => t.link.rdata == [5]) = true ∧
    ran (.readReg 0x7F 2) linked (fun t => t.link.status = .range) = true ∧
    ran (.writeReg 0x7F [6]) linked (fun t => t.link.echoReg == 6) = true ∧
    ran (.writeMasked 0x7F 0xF0 0xFF) linked (fun t => t.link.echoReg == 0xF0) = true ∧
    ran (.indRead 0x20007 1) { linked with link := { linked.link with lantern := List.replicate 28 0 ++ [1, 2, 3, 4] } }
      (fun t => t.link.rdata == [0x04030201] && t.link.indAddr == 0x20008) = true ∧
    ran (.indWrite 0x70000 [7]) linked (fun t => t.place.cellBaseLo == 7) = true ∧
    ran (.switch 1 3) linked (fun t => t.link.width == 1 && t.link.rate == 3 && t.link.switching == some (0, 0, false)) = true ∧
    ran (.switch 2 0) linked (fun t => t.link.status = .werr) = true ∧
    ran .sleep linked (fun t => t.link.asleep) = true ∧ ran .wake { linked with link := { linked.link with asleep := true } } (fun t => !t.link.asleep) = true ∧
    ran (.echo [1, 2]) linked (fun t => t.link.answer == [1, 2]) = true := by decide +kernel

/-- No character fails. -/
def noFails : CharFails := { again := 0, lost := none }

/-- The Novven protocol with a command accepted, or none. -/
def novven (c : Option NovvenCmd) : State := { linked with link := { linked.link with novven := true, command := c } }

/-- R345 to R349. -/
theorem test_novven :
    (novven none).novvenUp = true ∧ novvenByte (novvenSymbols 0xA1) = some 0xA1 ∧ ((novvenSymbols 0xA1).take 9).map (·.getLsbD 0) = [false, true, false, false, false, false, true, false, true] ∧
    ran (.novvenHeader 0xA1 0x7F 1 (0xA1 ^^^ 0x7F ^^^ 1) ⟨⟨1, some 2⟩, noFails⟩) (novven none) (fun t => t.link.answer == [] && t.link.command.isNone) = true ∧
    ran (.novvenHeader 0xA1 0x7F 1 (0xA1 ^^^ 0x7F ^^^ 1) ⟨noFails, noFails⟩) (novven none) (fun t => t.link.answer == [0x5A] && t.link.command.isSome) = true ∧
    ran (.novvenHeader 0xA2 0x7F 16 (0xA2 ^^^ 0x7F ^^^ 16) ⟨noFails, noFails⟩) (novven none) (fun t => t.link.answer == [0x5A]) = true ∧
    ran (.novvenHeader 0xA1 0x7F 1 0 ⟨noFails, noFails⟩) (novven none) (fun t => t.link.answer == [0x63] && t.link.command.isNone) = true ∧
    ran .novvenRead { novven (some { op := 0xA1, addr := 0x7F, count := 1, fails := noFails }) with
        link := { (novven (some { op := 0xA1, addr := 0x7F, count := 1, fails := noFails })).link with echoReg := 0x04030201 } }
      (fun t => t.link.answer == [0x60, 1, 2, 3, 4, 4]) = true ∧
    ran (.novvenWrite ⟨[0x04030201], noFails⟩ 4) (novven (some { op := 0xA2, addr := 0x7F, count := 1, fails := noFails })) (fun t => t.link.echoReg == 0x04030201) = true ∧
    ran (.novvenWrite ⟨[0x04030201], noFails⟩ 5) (novven (some { op := 0xA2, addr := 0x7F, count := 1, fails := noFails })) (fun t => t.link.echoReg == 0 && t.link.answer == [0x63]) = true ∧
    ran .novvenReset (novven (some { op := 0xA4, addr := 1, count := 0, fails := noFails })) (fun t => t.link.awaiting && t.clock.cause == 0x41) = true := by
  decide +kernel

/-! ### Faults -/

/-- READY in cycle 7, with FRONT's record, or RESTARTs as they are. -/
def faulty (f : UnitFault) : State := { (withStream .open).setUnit .front f with journal := JournalState.reset }

/-- R437 to R440, R443, R446: a first report at the higher of BASE and its own level, a second one level up, one in HOST's shadow. -/
theorem test_reports :
    (faulty UnitFault.none).shadowsOver .front = [] ∧ (faulty UnitFault.none).clock.mainOn = true ∧
    ran (.errorReport .front (some (.frontMemNoSpare, 9))) (faulty { UnitFault.none with base := 1 }) (fun t => (t.unit .front).latched &&
      (t.unit .front).level == 1 && (t.unit .front).cause == causeCode .frontMemNoSpare && (t.unit .front).detail == 9 &&
      (t.unit .front).cycle == 7 && (t.unit .front).count == 1) = true ∧
    ran (.errorReport .front (some (.frontMemNoSpare, 8))) (faulty { latched with lastLevel := 1 }) (fun t => (t.unit .front).level == 2 &&
      (t.unit .front).cause == 3 && (t.unit .front).count == 3 && (t.unit .front).restart) = true ∧
    ran (.errorReport .front (some (.frontMemNoSpare, 8))) (faulty { latched with lastLevel := 3, count := 255 }) (fun t =>
      (t.unit .front).level == 3 && (t.unit .front).count == 255) = true ∧
    (let s := (faulty UnitFault.none).setUnit .host { UnitFault.none with shadow := true }
     s.shadowsOver .front = [.host] ∧
     ran (.errorReport .front (some (.frontMemNoSpare, 8))) s (fun t => (t.unit .front).conseq && !(t.unit .front).latched) = true) ∧
    (let s := faulty { UnitFault.none with waiting := some { cause := .frontMemNoSpare, detail := 8, inShadow := [] } }
     s.shadowsOver .front = [] ∧
     ran (.errorReport .front (some (.frontWatchdog, 0))) s (fun t => (t.unit .front).level == 2 && (t.unit .front).detail == 8 &&
       (t.unit .front).cause == causeCode .frontMemNoSpare && (t.unit .front).count == 2 && (t.unit .front).restart) = true) := by
  decide +kernel

/-- R457: a watchdog of FRONT waits when HOST's shadow begins; FRONT restarts, and its reports are echoes until its own shadow ends too. -/
theorem test_shadows_together :
    (let s := (faulty { UnitFault.none with waiting := some { cause := .frontWatchdog, detail := 0, inShadow := [] } }).setUnit .host
       { UnitFault.none with shadow := true }
     ran (.errorReport .front none) s (fun t => (t.unit .front).latched && (t.unit .front).restart && t.shadowsOver .front == [.host, .front] &&
       t.shadowsOver .host == [.host, .front]) = true) := by decide +kernel

/-- R439, R441, R442, R446, R449. -/
theorem test_reactions :
    ready.coreRuns .front = true ∧ ready.coreRuns .back = true ∧ ready.shadowsOver .back = [] ∧
    ran (.watchdog .front) ready (fun t => (t.unit .front).restart && (t.unit .front).shadow && t.clock.cause == 0x201) = true ∧
    ran (.watchdog .back) ready (fun t => (t.unit .back).restart && t.clock.cause == 0x401) = true ∧
    ran (.pllUnlock .nand) ready (fun t => (t.unit .clock).restart && t.clock.pllNand == ⟨false, false⟩ && t.fault.pllShad == some .nand) = true ∧
    ran (.unitRestartRelease .front) (faulty { latched with restart := true, shadow := true })
      (fun t => !(t.unit .front).restart && (t.unit .front).shadow) = true ∧
    ran (.unitRestartRelease .clock) { ready.setUnit .clock { latched with restart := true } with
        clock := { clockIn .ready with pllNand := ⟨false, false⟩ }, fault := { (ready.setUnit .clock { latched with restart := true }).fault with pllShad := some .nand } }
      (fun t => (t.unit .clock).restart) = true ∧
    ran (.shadowEnd .front) (faulty { latched with shadow := true }) (fun t => !(t.unit .front).shadow) = true ∧
    ran (.dupMismatch 0x31 0 true) ready (fun t => t.fault.self && t.fault.selfAddr == 0x31 && t.fault.selfCnt == 1 && t.fault.differs) = true ∧
    ran (.dupMismatch 0x33 0 true) { ready with fault := { ready.fault with self := true, selfAddr := 0x31, selfCnt := 255 } }
      (fun t => t.fault.selfAddr == 0x31 && t.fault.selfCnt == 255) = true := by decide +kernel

/-- An error in word 130 of the Grist. -/
def hit (uncorr : Bool) : EccHit := { mem := 1, word := 130, uncorr := uncorr, scrub := false, req := 5, places := [3] }

/-- READY with an entry of the ECC log that waits, and rows of the Grist retired. -/
def logged (recur : Bool) (rows : Nat) : State :=
  { ready with mem := { MemState.reset with
      seq := 1, log := [(0, { hit := hit false, recur := recur, waiting := true, seq := 1, lap := 0 })]
      mems := [(1, { MemRec.none with retired := List.range rows })] } }

/-- R372, R387, R393 to R397: word 130 lies in row 2 of 64 words; the last of the 64 spare rows. -/
theorem test_ecc :
    ready.hitOk (hit true) = true ∧
    ran (.scrubAccess (some (hit true)) 1 none) ready (fun t => (t.memory 1).uncorr == 1 && (t.memory 1).poison == [130] &&
      (t.unit .grist).waiting.isSome) = true ∧
    ran (.scrubAccess (some (hit false)) 1 none) ready (fun t => (t.memory 1).corr == 1 && (t.unit .grist).waiting.isNone) = true ∧
    ran (.scrubAccess none 1 (some 20000000)) ready (fun t => (t.memory 1).lap == 0xFFFFFF) = true ∧
    (logged true 63).mem.firstWaiting.isSome = true ∧
    ran .eccEntryExamine (logged true 63) (fun t => (t.memory 1).retired.length == 64 && (t.memory 1).retired.getLast? == some 2 &&
      (t.unit .grist).waiting.isNone) = true ∧
    ran .eccEntryExamine (logged true 64) (fun t => (t.memory 1).retired.length == 64 && (t.unit .grist).waiting.isSome) = true ∧
    ran .eccEntryExamine (logged false 0) (fun t => (t.memory 1).retired == [] && t.mem.firstWaiting.isNone) = true ∧
    ran (.poisonRebuild 3 9) { ready with mem := { MemState.reset with mems := [(3, { MemRec.none with poison := [9, 8] })] } }
      (fun t => (t.memory 3).poison == [8]) = true := by decide +kernel

/-! ### The Wick -/

/-- A descriptor of the Wick's queue: an opcode, a sector, its first unit. -/
def wdesc (who : WickFrom) (op sector first : Nat) : WDesc :=
  { who := who, tag := 9, w0 := BitVec.ofNat 32 (op + 16 * sector + 1024 * first), w1 := 0, w2 := 0, status := none }

/-- READY with one descriptor in the Wick's queue. -/
def wickWith (d : WDesc) (f : WickState → WickState := id) : State := { port with wick := f { WickState.reset with queue := [d] } }

/-- The status of the descriptor in the queue. -/
def wickSt (code : Byte) (t : State) : Bool := t.wick.queue.map WDesc.status == [some code]

/-- R406, R410, R413, R430: the last unit of a small sector, and one past it. -/
theorem test_wick_programs :
    (wdesc .hostSw 2 16 255).valid = true ∧ (wdesc .hostSw 2 16 256).valid = false ∧ (wdesc .hostSw 6 0 63).valid = true ∧
    ((wickWith (wdesc .hostSw 1 8 0)).wickNext wopReadMargin).isSome = true ∧
    ran (.wickReadMargin true) (wickWith (wdesc .hostSw 1 8 0)) (wickSt 0) = true ∧
    ran (.wickReadMargin false) (wickWith (wdesc .hostSw 1 8 0)) (wickSt 1) = true ∧
    ((wickWith (wdesc .hostSw 2 8 0)).wickNext wopProgram).isSome = true ∧ (wickWith (wdesc .hostSw 2 8 0)).sourceOpen (wdesc .hostSw 2 8 0) = true ∧
    ready.sourceOpen (wdesc .hostSw 2 8 0) = false ∧
    ran (.wickProgram true true .failed) (wickWith (wdesc .hostSw 2 8 0)) (wickSt 7) = true ∧
    ran (.wickProgram false true (.ok [])) (wickWith (wdesc .hostSw 2 8 0)) (wickSt 2) = true ∧
    ran (.wickProgram true true (.ok [])) (wickWith (wdesc .hostSw 2 8 0) fun w => { w with blankL := [8] })
      (fun t => wickSt 0 t && t.wick.blankL == []) = true ∧
    ran (.wickProgram true false (.ok [])) (wickWith (wdesc .hostSw 2 8 0)) (fun t => wickSt 3 t && t.wick.badL == [8]) = true ∧
    ran (.wickProgram true true (.ok [1])) (wickWith (wdesc .hostSw 2 8 3)) (fun t => (tget [] t.wick.lUnits 65539).take 2 == [1, 0xFF]) = true ∧
    (wickWith (wdesc .hostSw 2 8 3)).wick.targetUsed (wdesc .hostSw 2 8 3) = false ∧
    ran (.wickProgram true true (.ok [])) (wickWith (wdesc .hostSw 2 8 3) fun w => { w with lUnits := [(65539, [1])] }) (wickSt 2) = true ∧
    ran (.wickProgram true true (.ok [])) (wickWith (wdesc .back 2 16 255)) (fun t => t.wick.usedP == [0]) = true ∧
    ((wickWith (wdesc .hostSw 6 0 63)).wickNext wopOtp).isSome = true ∧
    ran (.otpProgram true (.ok (List.replicate 32 0xA5))) (wickWith (wdesc .hostSw 6 0 63)) (fun t => wickSt 0 t &&
      tget 0xFF t.wick.otp 2047 == 0xA5 && t.wick.otpDone == [63]) = true ∧
    ran (.otpProgram true (.ok [])) (wickWith (wdesc .hostSw 6 0 63) fun w => { w with otpDone := [63] }) (wickSt 2) = true := by
  decide +kernel

/-- An erase of sector 20 under way. -/
def erasing (held : Bool) (w : WickState) : WickState :=
  { w with erase := some { sector := 20, hostSus := held, autoSus := false }, intent := some (20, 1), intentOn := true
           queue := wdesc .back 3 20 0 :: w.queue.filter fun d => d.op != 3 }

/-- R133, R408, R410, R411, R413 to R416, R418. -/
theorem test_wick_erases :
    (let e := wickWith (wdesc .back 3 20 0)
     (e.wickNext wopErase).isSome = true ∧
     ran (.wickErase true) { e with wick := { e.wick with intent := some (20, 1), intentOn := true } } (fun t => t.wick.erase.isSome) = true ∧
     ran (.wickErase true) e (fun t => t.wick.erase.isNone) = true) ∧
    (let s := fun (op sector : Nat) (held : Bool) => wickWith (wdesc .hostSw op sector 0) (erasing held)
     ran .wickEraseSuspend (s 4 20 false) (fun t => t.wick.erase.any WErase.hostSus && t.wick.queue.map WDesc.status == [none, some 0]) = true ∧
     ran .wickEraseSuspend (s 4 21 false) (fun t => t.wick.queue.map WDesc.status == [none, some 0x0A]) = true ∧
     ran .wickEraseResume (s 5 20 true) (fun t => t.wick.erase.any (fun e => !e.held) && t.wick.queue.map WDesc.status == [none, some 0]) = true ∧
     ran .wickEraseResume (s 5 20 false) (fun t => t.wick.queue.map WDesc.status == [none, some 0x0A]) = true) ∧
    (let run := { ready with wick := erasing false WickState.reset }
     ran (.planeAccessSuspend 20 5) run (fun t => (t.unit .wick).waiting.isSome) = true ∧
     ran (.planeAccessSuspend 16 5) run (fun t => t.wick.erase.any WErase.autoSus) = true ∧
     ran .eraseAutoResume { run with wick := { run.wick with erase := some { sector := 20, hostSus := false, autoSus := true } } }
       (fun t => t.wick.erase.any fun e => !e.autoSus) = true ∧
     ran (.wickBrownout true) run (fun t => t.wick.erase.isNone && t.wick.suspect == [20] && wickSt 6 t && t.wick.tripped) = true ∧
     ran (.wickBrownout false) { run with wick := { run.wick with tripped := true } } (fun t => !t.wick.tripped) = true ∧
     (erasingAt run.wick run.wick.queue 0).isSome = true ∧
     ran (.wickDescComplete true true true) { run with wick := { run.wick with usedP := [4] } } (fun t => t.wick.erase.isNone &&
       t.wick.usedP == [] && t.wick.doneSec == some 20) = true) ∧
    ran (.wickDescComplete true true true) (wickWith { wdesc .hostSw 1 8 0 with status := some 1 })
      (fun t => t.wick.hostDone == [(9, 1)] && t.wick.queue == []) = true ∧
    (let s := wickWith (wdesc .back 7 24 0) fun w => { w with slotA := 1920, intent := some (24, 3), intentOn := true, wbase := 47, erases := 32 }
     s.wick.rotateReady = true ∧ (s.wickNext wopRotate).isSome = true ∧
     ran .rotate s (fun t => t.wick.wbase == 0 && t.wick.erases == 0 && wickSt 0 t) = true) ∧
    (let boot : WRec := { kind := 2, copyB := false, seq := 1, body := [], intact := true, place := 47 * 64 + 5 }
     let s := wickWith (wdesc .back 7 24 0) fun w => { w with slotA := 1920, intent := some (24, 3), intentOn := true, wbase := 47, recs := [boot] }
     s.wick.phys 8 = 7 ∧ s.wick.isLive boot = true ∧ s.wick.phys 8 ∉ s.wick.retired ∧
     ran .rotate s (fun t => t.wick.recs.any fun r => r.kind == 2 && r.place == 7 * 64 + 5) = true) := by decide +kernel

set_option maxRecDepth 100000 in
/-- R419: the bytes of a BOOT record; its CRC from a separate program. -/
theorem test_record :
    (let r : WRec := { kind := 2, copyB := true, seq := 7, body := BootRec.body { active := true, trial := true, starts := 2, verA := 11, verB := 22 }
                       intact := true, place := 0 }
     r.bytes.length = 128 ∧ r.bytes.take 4 = [0x52, 0x57, 2, 1] ∧ leNat (r.bytes.drop 124) = 0xB6867A32) := by decide +kernel

/-- FIPS 180-4, the example "abc": the padded block, words 16 and 17 of the schedule, and the chaining words after the first round. -/
theorem test_sha256 :
    (let ws := (beWords 16 (shaPad [0x61, 0x62, 0x63])).reverse
     ws.getD 15 0 = 0x61626380 ∧ ws.getD 0 0 = 24 ∧ (shaExtend 2 ws).take 2 = [0x000F0000, 0x61626380]) ∧
    shaRound shaInit (rootFraction 3 2) 0x61626380 =
      ⟨0x5D6AEBCD, 0x6A09E667, 0xBB67AE85, 0x3C6EF372, 0xFA2A4622, 0x510E527F, 0x9B05688C, 0x1F83D9AB⟩ := by decide +kernel

/-! ### Start-up and recovery -/

/-- A start-up phase of the main domain. -/
def starting (ph : BootPhase) : State :=
  { ready with clock := { clockIn .boot with phase := ph, mainOn := false, filled := false, fwUp := false, step := 0 } }

/-- A copy of an intact pin fuse map with no group (R431). -/
def fuseMap : List Byte :=
  let b : List Byte := [0x50, 0x46, 0, 0] ++ List.replicate 120 0
  b ++ leBytes 4 (crc32c b).toNat

/-- R458, R460, R464, R468, R470, R471, R473, R474. -/
theorem test_power_up :
    ran .vauxPorAssert State.reset (fun t => t.clock.vauxPor) = true ∧
    ran (.vauxPorRelease 0x6) { ready with clock := { clockIn .boot with vauxPor := true } } (fun t => t.clock.bootSrc == 2 && t.clock.clkMode == 1 &&
      !t.clock.vauxPor && t.lamp.cycle == 0) = true ∧
    (let s : State := { State.reset with power := { PowerState.reset with absent := false } }
     s.clock.vinArmed = true ∧ ran .vinPor s (fun t => t.clock.phase = .plls && t.clock.mainPwr && t.clock.dev = .boot && t.clock.cause == 3 &&
       (t.rail .vccq).st = .ramp && t.journal.powerUps == 1) = true) ∧
    (let s : State := { starting .plls with clock := { (starting .plls).clock with pllNand := ⟨false, false⟩ } }
     ran .vinPor { inDev .snuffed with power := { (inDev .snuffed).power with vin := false } } (fun t => t.power.vin && t.clock.dev = .snuffed) = true ∧
     s.pllWaits .nand = true ∧ ran (.pllLock .nand) s (fun t => t.clock.phase = .fill && t.clock.pllNand.up) = true ∧
     ran (.pllLockTimeout .nand) s (fun t => t.clock.pllNand == ⟨true, true⟩ && t.clock.fallback) = true) ∧
    ran .memoryFill (starting .fill) (fun t => t.clock.mainOn && t.clock.phase = .hold && t.host.training) = true ∧
    ran .memoryFill { starting .fill with clock := { (starting .fill).clock with pllNand := ⟨true, true⟩ } } (fun t => t.clock.dev = .halted) = true ∧
    ran .holdWindowEnd (starting .hold) (fun t => t.clock.phase = .image) = true := by decide +kernel

set_option maxRecDepth 100000 in
/-- R431, R468: the one intact copy is in force. -/
theorem test_map_intact : chooseMap fuseMap [] = (some fuseMap, false) := by decide +kernel

/-- R467, R468: with no intact copy there is no map in force. -/
theorem test_fuse_map :
    mapIntact (List.replicate 128 0xFF) = false ∧
    ran (.fuseMapRead []) State.reset (fun t => t.clock.fuseRead && t.clock.fuseMap == none && !t.clock.pinConf) = true := by decide +kernel

/-- The boot ROM before the choice of the image, with BOOT_SRC and a BOOT record. -/
def booting (src : BitVec 2) (b : Option BootRec) : State :=
  { starting .image with
    clock := { (starting .image).clock with bootSrc := src, mainOn := true, filled := true }
    wick := match b with
      | none => { WickState.reset with hdrA := 11, hdrB := 22 }
      | some r => { WickState.reset.putBoot r with hdrA := 11, hdrB := 22 } }

/-- The 64 bytes 00 01 ... 3F wrapped under the 256-bit key 00 01 ... 1F, by a separate program that gives the vector of RFC 3394, 4.6. -/
def wrapped64 : List Byte :=
  leBytes 72
    0xEBDEB7429852192A52284B8AD1F612DE215B0B0FA7941E23F88C28CEC174CD1F704A723B9EE85E19EDF9BEF4E9006AF1D6583CA0421518529C0D7DEFE8688C12B762059185DA60FD

/-- KEY records of two generations, each with its wrapped key; none of generation 0. -/
def withKeys (a b : Nat) (wrap : List Byte) : WickState :=
  let put := fun (w : WickState) (n : Nat) (copyB : Bool) =>
    if n = 0 then w
    else w.placeRec { kind := 1, copyB := copyB, seq := 1, body := keyBody n wrap, intact := true, place := 0 } (if copyB then 256 else 0)
  put (put WickState.reset a false) b true

/-- R101, R429, R432, R473, R476, R477. -/
theorem test_images :
    (booting 0 none).stopped .front = false ∧
    (let trial : BootRec := { active := false, trial := true, starts := 3, verA := 11, verB := 22 }
     (booting 0 (some trial)).wick.freePlace recBoot false = some 1 ∧
     ran (.bootImageLoad true true) (booting 0 (some trial)) (fun t => t.clock.image == 1 && t.link.fwVersion == 22 &&
       t.wick.boot == some { trial with starts := 2 }) = true ∧
     ran (.bootImageLoad true false) (booting 0 (some trial)) (fun t => t.clock.image == 0 && t.link.fwVersion == 11) = true) ∧
    ran (.bootImageLoad true true) (booting 1 none) (fun t => t.clock.image == 0 && t.clock.phase = .discovery) = true ∧
    ran (.bootImageLoad true true) (booting 2 none) (fun t => t.clock.image == 1) = true ∧
    ran (.bootImageLoad true true) (booting 3 none) (fun t => t.clock.dev = .download) = true ∧
    ran (.bootImageLoad false false) (booting 0 none) (fun t => t.clock.dev = .download && t.clock.image == 2) = true ∧
    (let s := fun (bad : List Nat) => { starting .discovery with wick := { withKeys 2 3 wrapped64 with otpBad := bad } }
     (s []).discovered = true ∧ ran .firmwareStart (s []) (fun t => t.clock.dev = .recover && t.intake.keyGen == 3 && t.clock.step == 2) = true ∧
     (let live := { s [] with wick := { (s []).wick with otp := (List.range 32).map fun i => (96 + i, BitVec.ofNat 8 i) } }
      ran .firmwareStart live (fun t => t.intake.keyReady && t.intake.key == (List.range 64).map (BitVec.ofNat 8) && t.wick.keyA == 0) = true ∧
      ran .firmwareStart { s [] with wick := withKeys 0 0 [] } (fun t => !t.intake.keyReady && t.intake.keyGen == 0) = true) ∧
     ran .firmwareStart (s [3]) (fun t => t.clock.dev = .halted) = true) := by decide +kernel

/-- RECOVER, with keys and the checkpoint that a pair names, or blank. -/
def recovering (keys : Nat) (pair : Bool) : State :=
  { inDev .recover with
    wick := { withKeys keys keys [] with tokens := 1, anchors := if pair then [anchorOf 1 1 false, anchorOf 1 1 true] else [] }
    journal := { JournalState.reset with
      nextSeq := 2
      recs := [{ seq := 1, parts := 1, cycle := 5, len := 64, addr := 0, body := .checkpoint { Snapshot.empty with
        streams := [(3, { streamIn .open with accept := 0, front := 0, durable := 0, trim := 0 })], randSize := 4096 } }] } }

/-- What recovery is told: no byte missing, no snuff bands, 500 ms. -/
def told : RecoveryIn := { missing := [], badSeqs := [], snuffBands := false, ms := 500, marked := [], eraseFails := [], notErased := [] }

/-- R83, R135 to R145. -/
theorem test_recovery :
    (recovering 1 true).recoverUp = true ∧ (recovering 1 true).tooFewDies = false ∧ ((recovering 1 true).chooseAnchor []).anchor.isSome = true ∧
    ((recovering 1 true).chooseAnchor []).tie = false ∧ ((recovering 0 false).chooseAnchor []).anchor = none ∧
    ((recovering 0 false).bootCheck []).wick.freePlace recKey false = some 0 ∧ ((recovering 0 false).bootCheck []).wick.freePlace recKey true = some 256 ∧
    ran (.recovery told) (recovering 1 true) (fun t => t.clock.step == 9 && t.clock.recMs == 500 && (t.stream 3).st = .closed &&
      (t.wick.anchors.take 2).map Anchor.gen == [2, 2]) = true ∧
    ran (.recovery told) (recovering 0 false) (fun t => t.clock.step == 9 && t.wick.keyA == 1 && t.clock.recCode == 7 && t.clock.dev = .readOnly) = true ∧
    ran (.recovery told) (recovering 1 false) (fun t => t.clock.dev = .halted && t.clock.recCode == 5) = true := by decide +kernel

end

end Sys2Proof.Tests
end

/-! # What the stream table and the register bus answer, and the close doorbell and the cycle number on top of them -/

namespace Sys2Proof.Machine
open Sys2Proof

/-! ### The stream table: what a write of one entry leaves (R71) -/

section StreamTable

variable (s : State) (i : Nat)

@[simp] theorem setStream_stream_same (e : Stream) : (s.setStream i e).stream i = e :=
  tget_tset_same Stream.none s.intake.streams i e

theorem setStream_stream_ne {j : Nat} (e : Stream) (h : j ≠ i) : (s.setStream i e).stream j = s.stream j :=
  tget_tset_ne Stream.none s.intake.streams e h

@[simp] theorem modStream_stream_same (f : Stream → Stream) : (s.modStream i f).stream i = f (s.stream i) :=
  setStream_stream_same s i _

theorem modStream_stream_ne {j : Nat} (f : Stream → Stream) (h : j ≠ i) : (s.modStream i f).stream j = s.stream j :=
  setStream_stream_ne s i _ h

/-- A mirror event touches nothing of the stream but the mark that its mirror write falls due (R93). -/
theorem mirrorEvent_stream_same : ∃ due, (s.mirrorEvent i).stream i = { s.stream i with mirrorDue := due } := by
  unfold State.mirrorEvent
  split
  · exact ⟨true, modStream_stream_same s i _⟩
  · exact ⟨(s.stream i).mirrorDue, rfl⟩

theorem mirrorEvent_stream_ne {j : Nat} (h : j ≠ i) : (s.mirrorEvent i).stream j = s.stream j := by
  unfold State.mirrorEvent
  split
  · exact modStream_stream_ne s i _ h
  · rfl

@[simp] theorem mirrorEvent_hdrCredits : (s.mirrorEvent i).intake.hdrCredits = s.intake.hdrCredits := by
  unfold State.mirrorEvent
  split <;> rfl

end StreamTable

/-! ### The health log's counts (R242) -/

@[simp] theorem hget_count32_same (s : State) (w n : Nat) : (s.count32 w n).hget w = min (s.hget w + n) 0xFFFFFFFF :=
  tget_tset_same 0 s.health.words w _

@[simp] theorem count32_stream (s : State) (w n i : Nat) : (s.count32 w n).stream i = s.stream i := rfl

/-! ### The close doorbell (R60, R65) -/

section CloseDoorbell

variable {s : State} {i c : Nat}

/-- A stream has an open cycle exactly where it is OPEN or DRAINING and no fault closed every cycle for it (R65). -/
theorem noOpen_eq_false_iff (e : Stream) : e.noOpen = false ↔ (e.st = .open ∨ e.st = .draining) ∧ e.closedAll = false := by
  rw [and_comm]
  simp only [Stream.noOpen, Bool.or_eq_false_iff, Bool.not_eq_false', Bool.or_eq_true, decide_eq_true_eq]

/-- The open cycle becomes n, and the cycle that was open closes at the frontier if bytes are credited to it. -/
theorem closeTo_fields (e : Stream) (c n : Nat) :
    (e.closeTo c n).openCycle = n ∧ (e.closeTo c n).front = e.front ∧ (e.closeTo c n).accept = e.accept ∧
      (e.closeTo c n).fault = e.fault ∧
      (tget 0 e.credited e.openCycle ≠ 0 → tget 0 (e.closeTo c n).closes e.openCycle = e.front) := by
  refine ⟨rfl, rfl, rfl, rfl, fun h => ?_⟩
  simp [Stream.closeTo, Stream.cut, h]

theorem closeDoorbell_repeated (h : (s.stream i).noOpen = true ∨ c < (s.stream i).openCycle) :
    s.closeDoorbell i c = s.count32 0x26 1 := by
  have hk : s.closeKind i c = .repeated := by
    unfold State.closeKind
    rcases h with h | h <;> simp [h]
  simp [State.closeDoorbell, hk]

theorem closeDoorbell_applied (hl : (s.stream i).noOpen = false) (ho : (s.stream i).openCycle ≤ c)
    (hn : c ≤ s.lamp.cycle) : s.closeDoorbell i c = s.applyClose i c := by
  have hk : s.closeKind i c = .applied := by simp [State.closeKind, hl, Nat.not_lt.mpr ho, hn]
  simp [State.closeDoorbell, hk]

theorem closeDoorbell_ahead (hl : (s.stream i).noOpen = false) (ho : (s.stream i).openCycle ≤ c)
    (hn : s.lamp.cycle < c) :
    s.closeDoorbell i c = (s.modStream i fun e => { e with fault := e.fault ||| 0x20 }).count32 0x27 1 := by
  have hk : s.closeKind i c = .ahead := by simp [State.closeKind, hl, Nat.not_lt.mpr ho, Nat.not_le.mpr hn]
  simp [State.closeDoorbell, hk]

/-- Whichever row of R60 it takes, a close doorbell moves no credit and no other stream. -/
theorem closeDoorbell_frame (s : State) (i c : Nat) :
    (s.closeDoorbell i c).intake.hdrCredits = s.intake.hdrCredits ∧
      ∀ j, j ≠ i → (s.closeDoorbell i c).stream j = s.stream j := by
  unfold State.closeDoorbell
  cases s.closeKind i c with
  | repeated => exact ⟨rfl, fun _ _ => rfl⟩
  | applied =>
    exact ⟨mirrorEvent_hdrCredits _ i, fun j h => (mirrorEvent_stream_ne _ i h).trans (modStream_stream_ne s i _ h)⟩
  | ahead => exact ⟨rfl, fun j h => (count32_stream _ 0x27 1 j).trans (modStream_stream_ne s i _ h)⟩

/-- What the close of cycles o to c leaves of the stream (R60). -/
theorem applyClose_stream (s : State) (i c : Nat) :
    ∃ due, (s.applyClose i c).stream i = { (s.stream i).closeTo c (c + 1) with mirrorDue := due } := by
  obtain ⟨due, h⟩ := mirrorEvent_stream_same (s.modStream i fun e => e.closeTo c (c + 1)) i
  exact ⟨due, by rw [State.applyClose, h, modStream_stream_same]⟩

/-- A write to the close doorbells of any size but 8 bytes only counts, besides its credits. -/
theorem exec_bar2BadWrite_doorbell {off : BitVec 20} {len : Nat} (hb : s.barOpen = true) (ho : off.toNat < 0x2000)
    (hl : len ≠ 8) : exec (.bar2BadWrite off len) s = .next ((s.consume len).count32 0x28 1) := by
  simp [exec, execBar2BadWrite, hb, ho, hl]

theorem exec_closeDoorbell (stream : BitVec 10) (c : BitVec 64) (hp : s.portUp = true) (hm : s.host.mse = true)
    (hd : s.host.d3hot = false) :
    exec (.closeDoorbell stream c) s = .next ((s.consume 8).closeDoorbell stream.toNat c.toNat) := by
  simp [exec, execCloseDoorbell, hp, hm, hd]

end CloseDoorbell

/-- Settles O25: one equation for each row of R60, over what a write of one stream entry leaves. -/
theorem closeDoorbells : Obligations.CloseDoorbells := by
  unfold Obligations.CloseDoorbells
  refine ⟨fun s off len hb ho hl => ?_, fun s stream c hp hm hd => ?_⟩
  · exact ⟨_, exec_bar2BadWrite_doorbell hb ho hl, hget_count32_same _ 0x28 1, rfl, rfl⟩
  · obtain ⟨hcredit, hothers⟩ := closeDoorbell_frame (s.consume 8) stream.toNat c.toNat
    have hopen := noOpen_eq_false_iff (s.stream stream.toNat)
    refine ⟨_, exec_closeDoorbell stream c hp hm hd, hcredit, hothers, fun hrep => ?_, fun hlive ho hn => ?_,
      fun hlive ho hn => ?_⟩
    · rw [← hopen, Bool.not_eq_false] at hrep
      rw [closeDoorbell_repeated (s := s.consume 8) hrep]
      exact ⟨rfl, hget_count32_same _ 0x26 1⟩
    · rw [closeDoorbell_applied (s := s.consume 8) (hopen.mpr hlive) ho hn]
      obtain ⟨due, h⟩ := applyClose_stream (s.consume 8) stream.toNat c.toNat
      rw [h]
      exact closeTo_fields (s.stream stream.toNat) c.toNat (c.toNat + 1)
    · rw [closeDoorbell_ahead (s := s.consume 8) (hopen.mpr hlive) ho hn]
      exact ⟨(count32_stream _ 0x27 1 _).trans (modStream_stream_same _ _ _), hget_count32_same _ 0x27 1⟩

/-! ### One register read over the link (R25, R335, R353) -/

section ReadReg

theorem serves_busOpen {s : State} {a : Nat} (h : s.serves a = true) : s.busOpen = true := by
  simp only [State.serves, Bool.and_eq_true] at h
  exact h.1.1

/-- No RESUME waits while a register answers. -/
theorem serves_idle {s : State} {a : Nat} (h : s.serves a = true) : s.link.paused = none :=
  (busOpen_idle (serves_busOpen h)).2

/-- The state on which LINK executes an operation that comes by itself: the answer before it is gone. -/
def State.answerDropped (s : State) : State := s.onLink fun l => { l with act := .none, answer := [] }

theorem readEffect_answerDropped (s : State) (a : Nat) :
    s.answerDropped.readEffect a = (s.readEffect a).answerDropped := by
  unfold State.readEffect
  split <;> rfl

theorem regValue_answerDropped (s : State) (a : Nat) : s.answerDropped.regValue a = s.regValue a := rfl

/-- No effect of a read lies in LINK. -/
@[simp] theorem readEffect_link (s : State) (a : Nat) : (s.readEffect a).link = s.link := by
  unfold State.readEffect
  split <;> rfl

/-- The read of a register that answers gives its value and has its effect. -/
theorem regRead_answerDropped {s : State} {a : Nat} (h : s.serves a = true) (ha : a ≠ 0x61) :
    s.answerDropped.regRead a = ((s.readEffect a).answerDropped, .ok, s.regValue a) := by
  unfold State.serves at h
  simp only [Bool.and_eq_true, Bool.not_eq_true'] at h
  obtain ⟨⟨-, hpower⟩, hheld⟩ := h
  have hpower' : (ownerOf s.answerDropped a).noPower s.answerDropped = false := hpower
  have hheld' : (ownerOf s.answerDropped a).held s.answerDropped = false := hheld
  simp [State.regRead, ha, hpower', hheld', readEffect_answerDropped, regValue_answerDropped]

/-- The four bytes of one word are read back as that word. -/
theorem wordList_wordBytes_one (w : Word) : wordList (wordBytes [w]) 1 = [w] := by
  have h : leNat (leBytes 4 w.toNat) = w.toNat := Laws.leNat_leBytes 4 w.toNat w.isLt
  have htake : (leBytes 4 w.toNat).take 4 = leBytes 4 w.toNat :=
    List.take_of_length_le (Nat.le_of_eq (Laws.leBytes_length 4 w.toNat))
  simp [wordList, wordBytes, wordAt, htake, h]

/-- An access that asks for no act, with no RESUME that waits, ends with its status and words. -/
theorem endAccess_idle {s : State} (st : Status) (ws : List Word) (code : Byte) (hp : s.link.paused = none)
    (ha : s.link.act = .none) :
    s.endAccess st ws code = s.onLink fun l => { l with status := st, rdata := ws, act := .none } := by
  simp [State.endAccess, State.doAct, State.onLink, hp, ha]

/-- READ_REG of one register that answers, in the native protocol: its value, its effect, and nothing else beside LINK's answer. -/
theorem exec_readReg_one {s : State} {a : Byte} (hn : s.link.novven = false) (h : s.serves a.toNat = true)
    (hlt : a.toNat < 128) (ha : a ≠ 0x61) :
    ∃ t, exec (.readReg a 1) s = .next t ∧ t.link.status = .ok ∧ t.link.rdata = [s.regValue a.toNat] ∧
      t = { s.readEffect a.toNat with link := t.link } := by
  have ha' : a.toNat ≠ 0x61 := fun e => ha (BitVec.eq_of_toNat_eq e)
  have hopen := serves_busOpen h
  have hops : s.opsOpen = true := by
    simpa [State.opsOpen, State.nativeUp, State.busOpen, hn] using hopen
  have hop : s.answerDropped.doOp (.readReg a 1) =
      ((s.readEffect a.toNat).answerDropped, .ok, wordBytes [s.regValue a.toNat]) := by
    have hreach : reaches a 1 = true := by simp [reaches]; omega
    simp [State.doOp, hreach, readRegs, regRead_answerDropped h ha']
  have hpaused : (s.readEffect a.toNat).answerDropped.link.paused = none := by
    simpa [State.answerDropped] using serves_idle h
  have hexec : exec (.readReg a 1) s = .next ((s.readEffect a.toNat).answerDropped.endAccess .ok
      (wordList (wordBytes [s.regValue a.toNat]) 1) 0x01) := by
    show s.single (.readReg a 1) = _
    unfold State.single
    rw [hops]
    exact congrArg (fun r => Host.Outcome.next (r.1.endAccess r.2.1 (wordList r.2.2 1) 0x01)) hop
  rw [wordList_wordBytes_one, endAccess_idle _ _ _ hpaused rfl] at hexec
  exact ⟨_, hexec, rfl, rfl, rfl⟩

/-- The same, where it is known what word the register shows. -/
theorem exec_readReg_gives {s : State} {a : Byte} {w : Word} (hn : s.link.novven = false) (h : s.serves a.toNat = true)
    (hlt : a.toNat < 128) (ha : a ≠ 0x61) (hw : s.regValue a.toNat = w) :
    ∃ t, exec (.readReg a 1) s = .next t ∧ t.link.status = .ok ∧ t.link.rdata = [w] ∧
      t = { s.readEffect a.toNat with link := t.link } :=
  hw ▸ exec_readReg_one hn h hlt ha

/-- Once DEV_STATE has left RECOVER, what recovery restores shows as it is (R354). -/
theorem afterRec_restored {s : State} (h : s.restored = true) (w : Word) : s.afterRec w = w := if_pos h

/-- A read of CYC_COUNT (R48). -/
theorem exec_cycCountRead {s : State} (h : s.serves 0x0B = true) :
    exec .cycCountRead s = .next ((s.readEffect 0x0B).gave (s.regValue 0x0B)) :=
  congrArg Host.Outcome.next (busRead_ok h (by decide))

/-- A read of a frontier's low word (R89). -/
theorem exec_frontierLoRead {s : State} (f : Frontier) (h : s.serves (frontierLo f) = true) :
    exec (.frontierLoRead f) s = .next ((s.readEffect (frontierLo f)).gave (s.regValue (frontierLo f))) :=
  congrArg Host.Outcome.next (busRead_ok h (by cases f <;> decide))

end ReadReg

/-! ### The cycle number over the link (R48, R49, R353) -/

section CycleNumber

variable {s : State} {v : Word}

/-- The number that a whole write of CYC_COUNT names: its own word below the staged high word, or the current one (R49). -/
def LampState.named (l : LampState) (v : Word) : Nat :=
  v.toNat + 4294967296 * match l.stagedHi with
    | some h => h.toNat
    | none => l.cycle / 4294967296 % 4294967296

/-- The whole write of CYC_COUNT, by where the number named lies from the current one (R49, R353). -/
theorem regPut_cycCount (s : State) (v : Word) :
    s.regPut 0x0B v maskAll =
      if s.lamp.named v = s.lamp.cycle then .ok s
      else if s.lamp.named v < s.lamp.cycle then .error .werr
      else .ok (s.onLamp fun l => { l with cycleP := some (s.lamp.named v) }) := by
  have hn : v.toNat + 4294967296 * (s.lamp.stagedHi.getD (halfOf s.lamp.cycle 1)).toNat = s.lamp.named v := by
    unfold LampState.named
    cases s.lamp.stagedHi <;> simp [halfOf]
  show s.writeCycCount v maskAll = _
  simp only [State.writeCycCount, merge_all, hn]
  rfl

/-- The whole write of CYC_COUNT_HI (R49). -/
theorem regPut_cycCountHi (s : State) (v : Word) :
    s.regPut 0x0C v maskAll = .ok (s.onLamp fun l => { l with stagedHi := some v }) := by
  show Except.ok (s.writeCycCountHi v maskAll) = _
  simp only [State.writeCycCountHi, merge_all]
  rfl

theorem exec_cycCountHiWrite (h : s.serves 0x0C = true) :
    exec (.cycCountHiWrite v) s = .next (State.wrote { s with lamp := { s.lamp with stagedHi := some v } } .ok) := by
  show Host.Outcome.next (s.busWrite 0x0C v maskAll) = _
  rw [busWrite_ok h (by decide) (regPut_cycCountHi _ v) rfl (serves_idle h)]
  rfl

theorem exec_cycCountWrite_above (h : s.serves 0x0B = true) (hn : s.lamp.cycle < s.lamp.named v) :
    exec (.cycCountWrite v) s =
      .next (State.wrote { s with lamp := { s.lamp with cycleP := some (s.lamp.named v) } } .ok) := by
  have hput := ((regPut_cycCount (s.onLink fun l => { l with act := .none }) v).trans
    (if_neg (Nat.ne_of_gt hn))).trans (if_neg (Nat.lt_asymm hn))
  show Host.Outcome.next (s.busWrite 0x0B v maskAll) = _
  rw [busWrite_ok h (by decide) hput rfl (serves_idle h)]
  rfl

theorem exec_cycCountWrite_same (h : s.serves 0x0B = true) (hn : s.lamp.named v = s.lamp.cycle) :
    exec (.cycCountWrite v) s = .next (s.wrote .ok) := by
  have hput := (regPut_cycCount (s.onLink fun l => { l with act := .none }) v).trans (if_pos hn)
  show Host.Outcome.next (s.busWrite 0x0B v maskAll) = _
  rw [busWrite_ok h (by decide) hput rfl (serves_idle h)]
  rfl

theorem exec_cycCountWrite_below (h : s.serves 0x0B = true) (hn : s.lamp.named v < s.lamp.cycle) :
    exec (.cycCountWrite v) s = .next (s.wrote .werr) := by
  have hput := ((regPut_cycCount (s.onLink fun l => { l with act := .none }) v).trans
    (if_neg (Nat.ne_of_lt hn))).trans (if_pos hn)
  exact congrArg Host.Outcome.next (busWrite_error h (by decide) hput)

end CycleNumber

/-! ### The marker that takes the cycle number (R49, R50) -/

section Marker

variable {s : State} {n : Nat}

/-- A marker gives its cycle the number that waits, where recovery left no higher one to exceed. -/
theorem markerAt_takes_number (kind : MarkKind) (pos o : Nat) (m : MarkerIn) (hn : s.lamp.cycleP = some n)
    (hf : s.lamp.cycleFloor.getD 0 ≤ n) :
    (s.markerAt kind pos o m).lamp.cycle = n ∧ (s.markerAt kind pos o m).lamp.cycleP = none := by
  have hopened := (marker_opens s kind pos o m).1
  have hcycle := hopened.number
  rw [hn, Option.getD_some, Nat.max_eq_left hf] at hcycle
  exact ⟨hcycle, hopened.noNumber.1⟩

theorem realMarker_number (l : LampState) (pos clocks : Nat) :
    (l.realMarker pos clocks).cycleP = l.cycleP ∧ (l.realMarker pos clocks).cycleFloor = l.cycleFloor := by
  unfold LampState.realMarker
  dsimp only
  split
  · split
    · split <;> exact ⟨rfl, rfl⟩
    · exact ⟨rfl, rfl⟩
  · exact ⟨rfl, rfl⟩
  · exact ⟨rfl, rfl⟩
  · exact ⟨rfl, rfl⟩

/-- The flywheel's marker takes the number too, in COAST and where it gives up (R46). -/
theorem flywheel_takes_number (m : MarkerIn) (hn : s.lamp.cycleP = some n) (hf : s.lamp.cycleFloor.getD 0 ≤ n) :
    (s.flywheel m).lamp.cycle = n ∧ (s.flywheel m).lamp.cycleP = none := by
  unfold State.flywheel
  dsimp only
  split
  · exact markerAt_takes_number _ _ _ m (by rw [raise_lamp]; exact hn) (by rw [raise_lamp]; exact hf)
  · exact markerAt_takes_number _ _ _ m hn hf

theorem exec_marker_takes_number (pos : Nat) (m : MarkerIn) (hup : s.lampUp = true) (he : s.lamp.edgeTaken = true)
    (hn : s.lamp.cycleP = some n) (hf : s.lamp.cycleFloor.getD 0 ≤ n) :
    ∃ t, exec (.marker pos m) s = .next t ∧ t.lamp.cycle = n ∧ t.lamp.cycleP = none := by
  obtain ⟨hp, hfloor⟩ := realMarker_number s.lamp pos m.clocks
  refine ⟨(s.onLamp fun l => l.realMarker pos m.clocks).markerAt .real pos 0 m,
    by simp [exec, execMarker, hup, he], markerAt_takes_number _ _ _ m (hp.trans hn) ?_⟩
  rw [State.onLamp_lamp, hfloor]
  exact hf

end Marker

/-- Settles O14: one equation for each place of the number written, one for each register read, and the marker's law. -/
theorem cycleNumberWrites : Obligations.CycleNumberWrites := by
  unfold Obligations.CycleNumberWrites
  refine ⟨fun s v => ⟨exec_cycCountHiWrite, fun h => ?_, ?_⟩, fun s => ?_⟩
  · exact ⟨exec_cycCountWrite_above h, exec_cycCountWrite_same h, exec_cycCountWrite_below h⟩
  · rintro n pos m hup hn hf c (⟨rfl, he⟩ | ⟨rfl, hl⟩ | ⟨rfl, hl, he⟩ | ⟨rfl, hl, he⟩)
    · exact exec_marker_takes_number pos m hup he hn hf
    · exact ⟨s.markerAt .generated s.lamp.period 0 m, by simp [exec, execGeneratedMarker, hup, hl],
        markerAt_takes_number _ _ _ m hn hf⟩
    · exact ⟨s.markerAt .synth s.lamp.period 0 m, by simp [exec, execAcquireSynthMarker, hup, hl, he],
        markerAt_takes_number _ _ _ m hn hf⟩
    · exact ⟨s.flywheel m, by simp [exec, execFlywheelSynthMarker, hup, hl, he], flywheel_takes_number m hn hf⟩
  · refine ⟨exec_cycCountRead, exec_frontierLoRead .accept, exec_frontierLoRead .durable, exec_frontierLoRead .trim,
      fun hn h => ?_, fun hn h hr => ?_, fun hn h hr => ?_, fun hn h hr => ?_⟩
    · exact exec_readReg_gives (a := 0x0C) hn h (by decide) (by decide) rfl
    · exact exec_readReg_gives (a := 0x15) hn h (by decide) (by decide) (afterRec_restored hr _)
    · exact exec_readReg_gives (a := 0x17) hn h (by decide) (by decide) (afterRec_restored hr _)
    · exact exec_readReg_gives (a := 0x19) hn h (by decide) (by decide) (afterRec_restored hr _)

end Sys2Proof.Machine

/-! # Crypto-erase: the stream table swept, both copies of the new key stored, and the register write that asks for it -/

namespace Sys2Proof.Machine
open Sys2Proof

/-! ### Some entry of a sparse table has a property -/

section Sparse

variable {α : Type} [DecidableEq α] {d : α} {m : Sparse α}

theorem tget_of_mem {e : Nat × α} (hwf : twf d m = true) (he : e ∈ m) : tget d m e.1 = e.2 := by
  induction m with
  | nil => simp at he
  | cons x m ih =>
    obtain ⟨k, v⟩ := x
    obtain ⟨-, hlt, hm⟩ := (twf_cons d k v m).mp hwf
    rcases List.mem_cons.mp he with rfl | he
    · simp [tget]
    · have hk : k ≠ e.1 := Nat.ne_of_lt (hlt e he)
      simpa [tget, hk] using ih hm he

omit [DecidableEq α] in
theorem mem_of_tget_ne {a : Nat} (h : tget d m a ≠ d) : (a, tget d m a) ∈ m := by
  induction m with
  | nil => simp at h
  | cons x m ih =>
    obtain ⟨k, v⟩ := x
    by_cases hk : k = a
    · simp [tget, hk]
    · simp only [tget, hk, if_false] at h ⊢
      exact List.mem_cons_of_mem _ (ih h)

theorem any_eq_true_iff_tget (p : α → Bool) (hwf : twf d m = true) (hd : p d = false) :
    (m.any fun e => p e.2) = true ↔ ∃ a, p (tget d m a) = true := by
  rw [List.any_eq_true]
  constructor
  · rintro ⟨e, he, hp⟩
    exact ⟨e.1, by rwa [tget_of_mem hwf he]⟩
  · rintro ⟨a, hp⟩
    have hne : tget d m a ≠ d := fun e => by simp [e, hd] at hp
    exact ⟨_, mem_of_tget_ne hne, hp⟩

end Sparse

/-! ### Where a copy of a record may go (R417, R419, R424, R425) -/

section Places

variable {w : WickState} {ls : List Nat} {kind : Nat} {copyB : Bool} {p : Nat}

/-- A place where a copy of a kind may be programmed. -/
structure WickState.FreeAt (w : WickState) (ls : List Nat) (kind : Nat) (copyB : Bool) (p : Nat) : Prop where
  sector      : ∃ l ∈ ls, w.phys l = p / 64
  unretired   : p / 64 ∉ w.retired
  unsuspected : w.suspectP (p / 64) = false
  apart       : ∀ r, w.copyOf kind (!copyB) = some r → r.place / 64 ≠ p / 64
  blank       : ∀ r ∈ w.recs, r.place ≠ p

/-- The search for a place takes the first of those where the copy may go. -/
theorem freePlaceIn_eq_head (w : WickState) (ls : List Nat) (kind : Nat) (copyB : Bool) :
    ∃ ps : List Nat, w.freePlaceIn ls kind copyB = ps.head? ∧ ∀ p, p ∈ ps ↔ w.FreeAt ls kind copyB p := by
  refine ⟨_, rfl, fun p => ?_⟩
  rw [List.mem_flatMap]
  constructor
  · rintro ⟨l, hl, hp⟩
    dsimp only at hp
    split at hp
    · simp at hp
    · next hok =>
      simp only [Bool.or_eq_true, not_or, List.contains_iff_mem, Bool.not_eq_true, beq_eq_false_iff_ne] at hok
      obtain ⟨⟨hretired, hsuspect⟩, hother⟩ := hok
      simp only [List.mem_filter, List.mem_range'_1, Bool.not_eq_true', List.any_eq_false, beq_iff_eq] at hp
      obtain ⟨hrange, hblank⟩ := hp
      have hsec : p / 64 = w.phys l := by omega
      rw [← hsec] at hretired hsuspect hother
      exact ⟨⟨l, hl, hsec.symm⟩, hretired, hsuspect, fun r hr e => hother (by rw [hr, Option.map_some, e]), hblank⟩
  · rintro ⟨⟨l, hl, hsec⟩, hretired, hsuspect, hapart, hblank⟩
    refine ⟨l, hl, ?_⟩
    have hother : (w.copyOf kind (!copyB)).map (fun r => r.place / 64) ≠ some (p / 64) := fun e => by
      obtain ⟨r, hr, hplace⟩ := Option.map_eq_some_iff.mp e
      exact hapart r hr hplace
    dsimp only
    rw [hsec, if_neg (by simp [hretired, hsuspect, hother])]
    simp only [List.mem_filter, List.mem_range'_1, Bool.not_eq_true', List.any_eq_false, beq_iff_eq]
    exact ⟨by omega, hblank⟩

theorem freeAt_of_freePlace (h : w.freePlace kind copyB = some p) : w.FreeAt (copySectors copyB) kind copyB p := by
  obtain ⟨ps, hhead, hmem⟩ := freePlaceIn_eq_head w (copySectors copyB) kind copyB
  exact (hmem p).mp (List.mem_of_mem_head? (hhead ▸ h))

theorem freePlace_ne_none (h : w.FreeAt (copySectors copyB) kind copyB p) : w.freePlace kind copyB ≠ none := by
  obtain ⟨ps, hhead, hmem⟩ := freePlaceIn_eq_head w (copySectors copyB) kind copyB
  intro hnone
  have hnil : ps = [] := List.head?_eq_none_iff.mp (hhead.symm.trans hnone)
  simpa [hnil] using (hmem p).mpr h

/-- Copies A and copies B have no physical sector in common (R417). -/
theorem phys_copySectors_ne {a b : Nat} (ha : a ∈ copySectors false) (hb : b ∈ copySectors true) : w.phys a ≠ w.phys b := by
  simp only [copySectors, Bool.false_eq_true, if_false, if_true, List.mem_cons, List.not_mem_nil, or_false] at ha hb
  simp only [WickState.phys]
  omega

end Places

/-! ### Which copy decides (R419) -/

section TopRec

variable {rs : List WRec} {r x : WRec}

/-- The one of two copies that decides: the later one only where it stands above. -/
def WRec.better (x r : WRec) : WRec := if r.above x then r else x

theorem topRec_cons (r : WRec) (rs : List WRec) : topRec (r :: rs) = some (rs.foldl WRec.better r) := by
  induction rs generalizing r with
  | nil => rfl
  | cons x rs ih =>
    have hstep : topRec (r :: x :: rs) = topRec (r.better x :: rs) := by
      unfold WRec.better
      show List.foldl _ (if x.above r then some x else some r) rs = List.foldl _ (some (if x.above r then x else r)) rs
      split <;> rfl
    rw [hstep, ih, List.foldl_cons]

theorem rank_le_better : x.rank.1 ≤ (x.better r).rank.1 ∧ r.rank.1 ≤ (x.better r).rank.1 := by
  unfold WRec.better
  split
  · next habove =>
    simp only [WRec.above, Bool.or_eq_true, decide_eq_true_eq, Bool.and_eq_true, beq_iff_eq] at habove
    omega
  · next habove =>
    simp only [WRec.above, Bool.or_eq_true, decide_eq_true_eq, not_or] at habove
    omega

theorem better_mem_pair : x.better r = x ∨ x.better r = r := by
  unfold WRec.better
  split
  · exact .inr rfl
  · exact .inl rfl

/-- The copy that decides is one of them, and none has a higher first rank. -/
theorem foldl_better_max (r : WRec) (rs : List WRec) :
    rs.foldl WRec.better r ∈ r :: rs ∧ ∀ y ∈ r :: rs, y.rank.1 ≤ (rs.foldl WRec.better r).rank.1 := by
  induction rs generalizing r with
  | nil => exact ⟨List.mem_cons_self, fun y hy => Nat.le_of_eq (by rw [List.mem_singleton.mp hy]; rfl)⟩
  | cons x rs ih =>
    obtain ⟨hmem, hmax⟩ := ih (r.better x)
    obtain ⟨hr, hx⟩ := rank_le_better (x := r) (r := x)
    have hbest := hmax _ List.mem_cons_self
    rw [List.foldl_cons]
    constructor
    · rcases List.mem_cons.mp hmem with hm | hm
      · rw [hm]
        rcases better_mem_pair (x := r) (r := x) with hb | hb
        · rw [hb]
          exact List.mem_cons_self
        · rw [hb]
          exact List.mem_cons_of_mem _ List.mem_cons_self
      · exact List.mem_cons_of_mem _ (List.mem_cons_of_mem _ hm)
    · intro y hy
      rcases List.mem_cons.mp hy with rfl | hy
      · exact Nat.le_trans hr hbest
      · rcases List.mem_cons.mp hy with rfl | hy
        · exact Nat.le_trans hx hbest
        · exact hmax y (List.mem_cons_of_mem _ hy)

theorem topRec_eq_none (h : topRec rs = none) : rs = [] := by
  cases rs with
  | nil => rfl
  | cons r rs => rw [topRec_cons] at h; cases h

theorem topRec_eq_some {m : WRec} (h : topRec rs = some m) : m ∈ rs ∧ ∀ y ∈ rs, y.rank.1 ≤ m.rank.1 := by
  cases rs with
  | nil => cases h
  | cons r rs =>
    rw [topRec_cons] at h
    cases h
    exact foldl_better_max r rs

theorem topRec_cons_of_not_above (h : ∀ y ∈ rs, y.above r = false) : topRec (r :: rs) = some r := by
  rw [topRec_cons]
  induction rs with
  | nil => rfl
  | cons x rs ih =>
    have hkeep : r.better x = r := by rw [WRec.better, h x List.mem_cons_self]; rfl
    rw [List.foldl_cons, hkeep]
    exact ih fun y hy => h y (List.mem_cons_of_mem _ hy)

theorem not_above_of_gen_lt (hx : x.kind = recKey) (hr : r.kind = recKey) (h : x.gen < r.gen) : x.above r = false := by
  have hne : x.gen ≠ r.gen := Nat.ne_of_lt h
  have hge : x.gen ≤ r.gen := Nat.le_of_lt h
  simp [WRec.above, WRec.rank, hx, hr, hne, hge]

end TopRec

/-! ### The KEY records (R101, R419, R426) -/

section KeyRecords

variable {w : WickState} {n : Nat} {r : WRec} {pre post : List WRec}

@[simp] theorem suspectP_placeRec (p k : Nat) : (w.placeRec r p).suspectP k = w.suspectP k := rfl

theorem reads_putCopy (x : WRec) : (w.putCopy r).reads x = w.reads x := by
  unfold WickState.putCopy
  split <;> rfl

/-- A KEY copy that can be read, after which stand only copies of lower generations, is the one its side has. -/
theorem copyOf_key_of_recs (hrecs : w.recs = pre ++ r :: post) (hkind : r.kind = recKey) (hreads : w.reads r = true)
    (hpre : ∀ x ∈ pre, x.copyB ≠ r.copyB)
    (hpost : ∀ x ∈ post, x.kind = recKey → x.copyB = r.copyB → w.reads x = true → x.gen < r.gen) :
    w.copyOf recKey r.copyB = some r := by
  have hnone : pre.filter (fun x => x.kind == recKey && x.copyB == r.copyB && w.reads x) = [] :=
    List.filter_eq_nil_iff.mpr fun x hx => by simp [hpre x hx]
  unfold WickState.copyOf
  rw [hrecs, List.filter_append, hnone, List.nil_append, List.filter_cons_of_pos (by simp [hkind, hreads])]
  refine topRec_cons_of_not_above fun x hx => ?_
  simp only [List.mem_filter, Bool.and_eq_true, beq_iff_eq] at hx
  obtain ⟨hmem, ⟨hkey, hcopy⟩, hread⟩ := hx
  exact not_above_of_gen_lt hkey hkind (hpost x hmem hkey hcopy hread)

/-- No KEY copy that can be read has a higher generation. -/
def WickState.KeysUpTo (w : WickState) (n : Nat) : Prop := ∀ r ∈ w.recs, r.kind = recKey → w.reads r = true → r.gen ≤ n

theorem gen_copyOf_le_iff (w : WickState) (n : Nat) (copyB : Bool) :
    ((w.copyOf recKey copyB).map WRec.gen).getD 0 ≤ n ↔
      ∀ r ∈ w.recs, r.kind = recKey → r.copyB = copyB → w.reads r = true → r.gen ≤ n := by
  have hmem : ∀ r, r ∈ w.recs.filter (fun r => r.kind == recKey && r.copyB == copyB && w.reads r) ↔
      r ∈ w.recs ∧ r.kind = recKey ∧ r.copyB = copyB ∧ w.reads r = true := by simp [and_assoc]
  cases htop : w.copyOf recKey copyB with
  | none =>
    refine ⟨fun _ r hr hk hb hread => ?_, fun _ => Nat.zero_le n⟩
    have hin := (hmem r).mpr ⟨hr, hk, hb, hread⟩
    rw [topRec_eq_none htop] at hin
    cases hin
  | some m =>
    obtain ⟨hm, hmax⟩ := topRec_eq_some htop
    obtain ⟨hmrec, hmkey, hmb, hmread⟩ := (hmem m).mp hm
    refine ⟨fun h r hr hk hb hread => ?_, fun h => h m hmrec hmkey hmb hmread⟩
    have hle := hmax r ((hmem r).mpr ⟨hr, hk, hb, hread⟩)
    rw [WRec.rank, if_pos hk, WRec.rank, if_pos hmkey] at hle
    exact Nat.le_trans hle h

theorem keysUpTo_iff : w.KeysUpTo n ↔ max w.keyA w.keyB ≤ n := by
  rw [Nat.max_le, WickState.keyA, WickState.keyB, gen_copyOf_le_iff, gen_copyOf_le_iff]
  constructor
  · exact fun h => ⟨fun r hr hk _ => h r hr hk, fun r hr hk _ => h r hr hk⟩
  · rintro ⟨hA, hB⟩ r hr hk
    cases hb : r.copyB with
    | false => exact hA r hr hk hb
    | true => exact hB r hr hk hb

theorem keysUpTo_putCopy (h : w.KeysUpTo n) (hr : r.gen ≤ n) : (w.putCopy r).KeysUpTo n := by
  unfold WickState.putCopy
  split
  · intro x hx hk hread
    rcases List.mem_cons.mp hx with rfl | hx
    · exact hr
    · exact h x hx hk hread
  · exact h

theorem putCopy_eq_placeRec {p : Nat} (h : w.freePlace r.kind r.copyB = some p) : w.putCopy r = w.placeRec r p := by
  simp only [WickState.putCopy, h]

theorem mem_recsDue_putCopy_of_none (h : w.freePlace r.kind r.copyB = none) : r ∈ (w.putCopy r).recsDue := by
  simp [WickState.putCopy, h]

theorem mem_recsDue_putCopy {x : WRec} (h : x ∈ w.recsDue) : x ∈ (w.putCopy r).recsDue := by
  unfold WickState.putCopy
  split
  · exact h
  · exact List.mem_append_left _ h

/-- Where copy A of a generation above all has just been programmed, copy B still finds a place. -/
theorem freePlace_copyB_placeRec {p q : Nat} (hkind : r.kind = recKey) (hcopy : r.copyB = false) (hintact : r.intact = true)
    (hlow : w.KeysUpTo n) (hgen : n < r.gen) (hp : w.freePlace recKey false = some p) (hq : w.freePlace recKey true = some q) :
    (w.placeRec r p).freePlace recKey true ≠ none := by
  have hA := freeAt_of_freePlace hp
  have hB := freeAt_of_freePlace hq
  obtain ⟨a, ha, hap⟩ := hA.sector
  obtain ⟨b, hb, hbq⟩ := hB.sector
  have hpq : p / 64 ≠ q / 64 := fun e => phys_copySectors_ne ha hb (by rw [hap, hbq, e])
  have hcopyA : (w.placeRec r p).copyOf recKey false = some { r with place := p } :=
    hcopy ▸ copyOf_key_of_recs (w := w.placeRec r p) (pre := []) rfl hkind
      (by simp [WickState.reads, hintact, hA.unsuspected]) (by simp)
      fun x hx hk _ hread => Nat.lt_of_le_of_lt (hlow x hx hk hread) hgen
  refine freePlace_ne_none (p := q) ⟨⟨b, hb, hbq⟩, hB.unretired, hB.unsuspected, fun x hx => ?_, fun x hx => ?_⟩
  · obtain rfl := Option.some.inj (hcopyA.symm.trans hx)
    exact hpq
  · rcases List.mem_cons.mp hx with rfl | hx
    · exact fun e => hpq (congrArg (· / 64) e)
    · exact hB.blank x hx

/-! What zeroing the older generations leaves (R426) -/

/-- The record is a KEY copy of a generation below the highest. -/
def WRec.staleBelow (r : WRec) (top : Nat) : Bool := r.kind == recKey && decide (r.gen < top)

/-- A record after the units of the older generations have been programmed to zeros. -/
def WRec.zeroBelow (top : Nat) (r : WRec) : WRec :=
  if r.staleBelow top then { r with body := List.replicate 112 0, intact := false } else r

theorem zeroStale_recs : w.zeroStale.recs = w.recs.map (WRec.zeroBelow (max w.keyA w.keyB)) := rfl

theorem zeroStale_recsDue : w.zeroStale.recsDue = w.recsDue.filter fun r => !r.staleBelow (max w.keyA w.keyB) := rfl

theorem staleBelow_eq_false {top : Nat} (h : top ≤ r.gen) : r.staleBelow top = false := by
  simp [WRec.staleBelow, h]

theorem zeroBelow_of_le {top : Nat} (h : top ≤ r.gen) : r.zeroBelow top = r := by
  simp [WRec.zeroBelow, staleBelow_eq_false h]

theorem zeroBelow_of_intact {top : Nat} (h : (r.zeroBelow top).intact = true) : r.zeroBelow top = r := by
  unfold WRec.zeroBelow at h ⊢
  split at h
  · simp at h
  · next hfresh => exact if_neg hfresh

/-- No KEY record of a generation below the highest stays intact. -/
theorem zeroStale_intact_eq_false (hr : r ∈ w.zeroStale.recs) (hkind : r.kind = recKey)
    (hgen : r.gen < max w.keyA w.keyB) : r.intact = false := by
  rw [zeroStale_recs] at hr
  obtain ⟨x, -, rfl⟩ := List.mem_map.mp hr
  cases hintact : (x.zeroBelow (max w.keyA w.keyB)).intact with
  | false => rfl
  | true =>
    rw [zeroBelow_of_intact hintact] at hkind hgen
    have hstale : x.staleBelow (max w.keyA w.keyB) = true := by simp [WRec.staleBelow, hkind, hgen]
    simp [WRec.zeroBelow, hstale] at hintact

end KeyRecords

/-! ### A new key in both records (R101, R102, R419, R426) -/

section NewKey

variable {w : WickState} {n g : Nat} {k : List Byte}

/-- One copy of the KEY record of a generation, at a place. -/
def WickState.keyCopy (w : WickState) (copyB : Bool) (g : Nat) (k : List Byte) (p : Nat) : WRec :=
  { kind := recKey, copyB := copyB, seq := w.nextRec recKey, body := keyBody g k, intact := true, place := p }

theorem putRec_key (w : WickState) (g : Nat) (k : List Byte) :
    w.putRec recKey (keyBody g k) = (w.putCopy (w.keyCopy false g k 0)).putCopy (w.keyCopy true g k 0) := rfl

theorem placeRec_keyCopy_recs (u : WickState) (copyB : Bool) (p : Nat) :
    (u.placeRec (w.keyCopy copyB g k 0) p).recs = w.keyCopy copyB g k p :: u.recs := rfl

/-- The Wick array after a new key has been stored and the older ones zeroed, as State.newKey leaves it. -/
def WickState.storeKey (w : WickState) (g : Nat) (k : List Byte) : WickState := (w.putRec recKey (keyBody g k)).zeroStale

theorem reads_putRec_key (x : WRec) : (w.putRec recKey (keyBody g k)).reads x = w.reads x := by
  rw [putRec_key, reads_putCopy, reads_putCopy]

theorem reads_storeKey (x : WRec) : (w.storeKey g k).reads x = w.reads x := reads_putRec_key x

theorem reads_keyCopy {copyB : Bool} {p : Nat} (h : w.suspectP (p / 64) = false) :
    w.reads (w.keyCopy copyB g k p) = true := by
  simp [WickState.reads, WickState.keyCopy, h]

theorem wrapKey_keyBytes_length (w : WickState) (draw : Nat) : (keyWrap w.wrapKey (keyBytes draw)).length = 72 :=
  Laws.keyWrap_length _ _ (by simp [WickState.wrapKey]) (Laws.leBytes_length 64 _)

variable (hlow : w.KeysUpTo n) (hgen : n < g) (hword : g < 4294967296) (hlen : k.length = 72)

include hword hlen in
theorem keyCopy_gen (copyB : Bool) (p : Nat) : (w.keyCopy copyB g k p).gen = g := (Laws.keyBody_holds g k hword hlen).1

include hword hlen in
theorem keyCopy_wrapped (copyB : Bool) (p : Nat) : (w.keyCopy copyB g k p).wrapped = k :=
  (Laws.keyBody_holds g k hword hlen).2

include hlow hgen hword hlen in
/-- No generation stands above the new one. -/
theorem keysUpTo_putRec_key : (w.putRec recKey (keyBody g k)).KeysUpTo g := by
  have hcopy : ∀ copyB, (w.keyCopy copyB g k 0).gen ≤ g := fun copyB => Nat.le_of_eq (keyCopy_gen hword hlen copyB 0)
  have hle : w.KeysUpTo g := fun r hr hk hread => Nat.le_trans (hlow r hr hk hread) (Nat.le_of_lt hgen)
  exact keysUpTo_putCopy (keysUpTo_putCopy hle (hcopy false)) (hcopy true)

include hlow hgen hword hlen in
/-- A copy A that finds no place waits for a ROTATE (R419). -/
theorem storeKey_recsDue_ne_nil (hfull : w.freePlace recKey false = none) : (w.storeKey g k).recsDue ≠ [] := by
  have hdue : w.keyCopy false g k 0 ∈ (w.putRec recKey (keyBody g k)).recsDue :=
    mem_recsDue_putCopy (mem_recsDue_putCopy_of_none hfull)
  have htop := keysUpTo_iff.mp (keysUpTo_putRec_key hlow hgen hword hlen)
  have hfresh := staleBelow_eq_false (Nat.le_trans htop (Nat.le_of_eq (keyCopy_gen (w := w) hword hlen false 0).symm))
  refine List.ne_nil_of_mem (a := w.keyCopy false g k 0) ?_
  rw [WickState.storeKey, zeroStale_recsDue]
  exact List.mem_filter.mpr ⟨hdue, congrArg (! ·) hfresh⟩

variable (hA : w.freePlace recKey false ≠ none) (hB : w.freePlace recKey true ≠ none)

include hlow hgen hword hlen hA hB in
/-- Both copies find their places, in sectors that can be read. -/
theorem putRec_key_recs : ∃ p q, w.suspectP (p / 64) = false ∧ w.suspectP (q / 64) = false ∧
    (w.putRec recKey (keyBody g k)).recs = w.keyCopy true g k q :: w.keyCopy false g k p :: w.recs := by
  obtain ⟨p, hp⟩ := Option.ne_none_iff_exists'.mp hA
  obtain ⟨b, hb⟩ := Option.ne_none_iff_exists'.mp hB
  have hnew : n < (w.keyCopy false g k 0).gen := (keyCopy_gen (w := w) hword hlen false 0).symm ▸ hgen
  obtain ⟨q, hq⟩ := Option.ne_none_iff_exists'.mp (freePlace_copyB_placeRec rfl rfl rfl hlow hnew hp hb)
  refine ⟨p, q, (freeAt_of_freePlace hp).unsuspected, (freeAt_of_freePlace hq).unsuspected, ?_⟩
  rw [putRec_key, putCopy_eq_placeRec (r := w.keyCopy false g k 0) hp, putCopy_eq_placeRec (r := w.keyCopy true g k 0) hq,
    placeRec_keyCopy_recs, placeRec_keyCopy_recs]

include hlow hgen hword hlen hA hB in
/-- The new generation is then the highest. -/
theorem max_key_putRec_key : max (w.putRec recKey (keyBody g k)).keyA (w.putRec recKey (keyBody g k)).keyB = g := by
  refine Nat.le_antisymm (keysUpTo_iff.mp (keysUpTo_putRec_key hlow hgen hword hlen)) ?_
  obtain ⟨p, q, hp, -, hrecs⟩ := putRec_key_recs hlow hgen hword hlen hA hB
  have hbound := (keysUpTo_iff (w := w.putRec recKey (keyBody g k))).mpr (Nat.le_refl _)
  exact Nat.le_trans (Nat.le_of_eq (keyCopy_gen (w := w) hword hlen false p).symm)
    (hbound _ (by simp [hrecs]) rfl ((reads_putRec_key _).trans (reads_keyCopy hp)))

include hlow hgen in
/-- A KEY copy that can still be read after the zeroing is of an older generation where it stood before. -/
theorem gen_lt_of_mem_zeroBelow {x : WRec} (hx : x ∈ w.recs.map (WRec.zeroBelow g)) (hkind : x.kind = recKey)
    (hread : w.reads x = true) : x.gen < g := by
  obtain ⟨y, hy, rfl⟩ := List.mem_map.mp hx
  have hsame := zeroBelow_of_intact (Bool.and_eq_true_iff.mp hread).1
  rw [hsame] at hkind hread ⊢
  exact Nat.lt_of_le_of_lt (hlow y hy hkind hread) hgen

include hlow hgen hword hlen hA hB in
/-- Each side's copy is then the new one. -/
theorem storeKey_copyOf (copyB : Bool) : ∃ p, (w.storeKey g k).copyOf recKey copyB = some (w.keyCopy copyB g k p) := by
  obtain ⟨p, q, hp, hq, hput⟩ := putRec_key_recs hlow hgen hword hlen hA hB
  have hcopy := fun copyB place => keyCopy_gen (w := w) hword hlen copyB place
  have hrecs : (w.storeKey g k).recs =
      w.keyCopy true g k q :: w.keyCopy false g k p :: w.recs.map (WRec.zeroBelow g) := by
    rw [WickState.storeKey, zeroStale_recs, max_key_putRec_key hlow hgen hword hlen hA hB, hput, List.map_cons,
      List.map_cons, zeroBelow_of_le (Nat.le_of_eq (hcopy true q).symm),
      zeroBelow_of_le (Nat.le_of_eq (hcopy false p).symm)]
  cases copyB with
  | false =>
    refine ⟨p, copyOf_key_of_recs (pre := [w.keyCopy true g k q]) hrecs rfl
      ((reads_storeKey _).trans (reads_keyCopy hp)) (by simp [WickState.keyCopy]) fun x hx hkind _ hread => ?_⟩
    rw [hcopy false p]
    exact gen_lt_of_mem_zeroBelow hlow hgen hx hkind ((reads_storeKey x).symm.trans hread)
  | true =>
    refine ⟨q, copyOf_key_of_recs (pre := []) hrecs rfl ((reads_storeKey _).trans (reads_keyCopy hq)) (by simp)
      fun x hx hkind hside hread => ?_⟩
    rw [hcopy true q]
    rcases List.mem_cons.mp hx with rfl | hx
    · cases hside
    · exact gen_lt_of_mem_zeroBelow hlow hgen hx hkind ((reads_storeKey x).symm.trans hread)

include hlow hgen hword hlen hA hB in
/-- Both records hold the new key wrapped, and no older one stays intact. -/
theorem storeKey_gives :
    (w.storeKey g k).keyA = g ∧ (w.storeKey g k).keyB = g ∧ (w.storeKey g k).wrapA = k ∧
      (w.storeKey g k).wrapB = (w.storeKey g k).wrapA ∧
      ∀ r ∈ (w.storeKey g k).recs, r.kind = recKey → r.gen < g → r.intact = false := by
  obtain ⟨p, hp⟩ := storeKey_copyOf hlow hgen hword hlen hA hB false
  obtain ⟨q, hq⟩ := storeKey_copyOf hlow hgen hword hlen hA hB true
  simp only [WickState.keyA, WickState.keyB, WickState.wrapA, WickState.wrapB, hp, hq, Option.map_some, Option.getD_some,
    keyCopy_gen hword hlen, keyCopy_wrapped hword hlen, true_and]
  intro r hr hkind hlt
  exact zeroStale_intact_eq_false hr hkind ((max_key_putRec_key hlow hgen hword hlen hA hB).symm ▸ hlt)

end NewKey

/-! ### What crypto-erase leaves (R102) -/

section CryptoErase

variable {s : State}

/-- LINK's answer is its own: crypto-erase does not touch it. -/
theorem wrote_cryptoErase_link (s : State) (st : Status) : (s.cryptoErase.wrote st).link = (s.wrote st).link := rfl

theorem cryptoErase_keyGen (s : State) : s.cryptoErase.intake.keyGen = s.intake.keyGen + 1 := rfl

theorem cryptoErase_key (s : State) : s.cryptoErase.intake.key = keyBytes s.draws := rfl

theorem cryptoErase_draws (s : State) : s.cryptoErase.draws = s.draws + 1 := rfl

theorem cryptoErase_pieces (s : State) : s.cryptoErase.place.pieces = [] := rfl

theorem cryptoErase_runs (s : State) : s.cryptoErase.place.runs = [] := rfl

theorem cryptoErase_frames (s : State) : s.cryptoErase.place.frames = [] := rfl

theorem cryptoErase_wick (s : State) :
    s.cryptoErase.wick = s.wick.storeKey (s.intake.keyGen + 1) (keyWrap s.wick.wrapKey (keyBytes s.draws)) := rfl

/-- The KEY records after the erase: both the new one's, or a copy that waits. -/
theorem cryptoErase_records (hlow : max s.wick.keyA s.wick.keyB ≤ s.intake.keyGen)
    (hword : s.cryptoErase.intake.keyGen < 4294967296) :
    (s.wick.freePlace recKey false ≠ none → s.wick.freePlace recKey true ≠ none →
      s.cryptoErase.wick.keyA = s.cryptoErase.intake.keyGen ∧ s.cryptoErase.wick.keyB = s.cryptoErase.intake.keyGen ∧
      s.cryptoErase.wick.wrapA = keyWrap s.wick.wrapKey s.cryptoErase.intake.key ∧
      s.cryptoErase.wick.wrapB = s.cryptoErase.wick.wrapA ∧
      ∀ r ∈ s.cryptoErase.wick.recs, r.kind = recKey → r.gen < s.cryptoErase.intake.keyGen → r.intact = false) ∧
    (s.wick.freePlace recKey false = none → s.cryptoErase.wick.recsDue ≠ []) := by
  rw [cryptoErase_keyGen] at hword
  rw [cryptoErase_wick, cryptoErase_keyGen, cryptoErase_key]
  have hkeys := keysUpTo_iff.mpr hlow
  have hlen := wrapKey_keyBytes_length s.wick s.draws
  exact ⟨storeKey_gives hkeys (Nat.lt_succ_self _) hword hlen,
    storeKey_recsDue_ne_nil hkeys (Nat.lt_succ_self _) hword hlen⟩

/-- Where no piece is mapped, every unit of the random region reads as zeros (R218). -/
theorem unitData_of_no_pieces (h : s.place.pieces = []) (back : List (Nat × Option (List Byte))) (u : Nat) :
    s.unitData back u = some (List.replicate 4096 0) := by
  have hnone : s.unitPiece u = none := by rw [State.unitPiece, h]; rfl
  rw [State.unitData, hnone]

theorem cryptoErase_stream_free (h : twf Stream.none s.intake.streams = true) (i : Nat) :
    (s.cryptoErase.stream i).st = .free ∧ (s.cryptoErase.stream i).epoch = 0 := by
  have hsweep : s.cryptoErase.stream i = if (s.stream i).st = .free ∧ (s.stream i).epoch = 0 then s.stream i
      else (s.stream i).erased s.lamp.cycle (s.host.mirrorBase != 0) :=
    tget_tmap Stream.none _ s.intake.streams i rfl h
  rw [hsweep]
  split
  · next hfree => exact hfree
  · exact ⟨rfl, rfl⟩

end CryptoErase

/-! ### The register write that asks for it (R359) -/

section EraseWrite

variable {s : State}

/-- A stream in one of these states stands against crypto-erase (R102). -/
def Stream.inUse (e : Stream) : Bool := e.st = .open || e.st = .draining || e.st = .faulted

theorem eraseRefused_iff (h : twf Stream.none s.intake.streams = true) :
    s.eraseRefused = true ↔ s.clock.dev ≠ .ready ∨ ∃ i, (s.stream i).inUse = true := by
  have hany := any_eq_true_iff_tget Stream.inUse h rfl
  show (_ || s.intake.streams.any fun x => x.2.inUse) = true ↔ _
  rw [Bool.or_eq_true, hany, decide_eq_true_eq]
  rfl

/-- The write of ACTION 2 with its CONFIRM touches no other field of DEV_CTRL. -/
theorem regPut_cryptoErase (s : State) :
    s.regPut 0x03 0xA5000200 actionMask = if s.eraseRefused then .error .werr else .ok s.cryptoErase := by
  have hpct : ∀ cur, written cur 0xA5000200 actionMask 0 8 = none := fun _ => rfl
  have hhold : ∀ cur, written cur 0xA5000200 actionMask 16 1 = none := fun _ => rfl
  have hact : fieldOf (0xA5000200 &&& actionMask) 8 4 = 2 := by decide
  have hconfirm : fieldOf (0xA5000200 &&& actionMask) 24 8 = 0xA5 := by decide
  have hbit : (bit s.clock.bootHold != 0) = s.clock.bootHold := by cases s.clock.bootHold <;> rfl
  show s.writeDevCtrl 0xA5000200 actionMask = _
  simp only [State.writeDevCtrl, hpct, hhold, hact, hconfirm, Option.getD_none, hbit]
  simp [refusedC, pendC, State.onClock]

theorem exec_cryptoErase (hserves : s.serves 0x03 = true) (h : s.eraseRefused = false) :
    exec .cryptoErase s = .next (s.cryptoErase.wrote .ok) := by
  have hput := (regPut_cryptoErase (s.onLink fun l => { l with act := .none })).trans (if_neg (ne_true_of_eq_false h))
  show Host.Outcome.next (s.busWrite 0x03 0xA5000200 actionMask) = _
  rw [busWrite_ok hserves (by decide) hput rfl (serves_idle hserves)]
  rfl

theorem exec_cryptoErase_refused (hserves : s.serves 0x03 = true) (h : s.eraseRefused = true) :
    exec .cryptoErase s = .next (s.wrote .werr) :=
  congrArg Host.Outcome.next (busWrite_error hserves (by decide)
    ((regPut_cryptoErase (s.onLink fun l => { l with act := .none })).trans (if_pos h)))

end EraseWrite

/-- Settles O17: what the erase leaves, part by part, and the one condition under which the register write refuses it. -/
theorem cryptoErases : Obligations.CryptoErases := by
  unfold Obligations.CryptoErases
  rintro s ⟨hstreams, -⟩ hserves
  refine ⟨fun hready hidle => ?_, fun h => ?_⟩
  · have hallowed : s.eraseRefused = false := by
      rw [Bool.eq_false_iff, Ne, eraseRefused_iff hstreams]
      rintro (hdev | ⟨i, huse⟩)
      · exact hdev hready
      · rcases hidle i with hst | hst <;> simp [Stream.inUse, hst] at huse
    exact ⟨s.cryptoErase.wrote .ok, exec_cryptoErase hserves hallowed, wrote_cryptoErase_link s .ok, cryptoErase_keyGen s,
      cryptoErase_key s, cryptoErase_records, cryptoErase_draws s, cryptoErase_pieces s, cryptoErase_runs s,
      cryptoErase_frames s, unitData_of_no_pieces (cryptoErase_pieces s), cryptoErase_stream_free hstreams⟩
  · refine exec_cryptoErase_refused hserves ((eraseRefused_iff hstreams).mpr (h.imp_right ?_))
    rintro ⟨i, hst | hst | hst⟩ <;> exact ⟨i, by simp [Stream.inUse, hst]⟩

end Sys2Proof.Machine

/-! # What a sample of the sensors, the thermal limit's turn and a minute of power leave -/

namespace Sys2Proof.Machine
open Sys2Proof

/-! ### A report on an error line (R436) -/

section ErrorLine

variable (s : State)

/-- While the main domain is on, the report waits in its unit's record, or is merged into the one that waits there; nothing but
the collector's records changes. -/
theorem assertError_waits (c : Cause) (d : BitVec 56) (hon : s.clock.mainOn = true) :
    ∃ x, s.assertError c d = { s with fault := x } ∧
      (State.unit { s with fault := x } (causeUnit c)).waiting ≠ none := by
  have hopen : ¬(!s.clock.mainOn && !unitVaux (causeUnit c)) = true := by simp [hon]
  refine ⟨_, if_neg hopen, ?_⟩
  show (tget UnitFault.none (tset UnitFault.none _ _ _) _).waiting ≠ none
  rw [tget_tset_same]
  cases hw : (s.unit (causeUnit c)).waiting <;> simp [hw]

end ErrorLine

/-! ### A sample of the six sensors (R255, R257, R260) -/

section TempSample

variable {s : State} (a b c d p w : Int)

/-- POWER after a sample: TEMP_NOW, the hottest sensor, and the run of samples at 112 °C or above, counted to 10. -/
def PowerState.sampled (x : PowerState) : PowerState :=
  let y := { x with tCtrl := max (max a b) (max c d), tPwr := p, tWick := w, hottest := hottestOf [b, c, d, p, w] 1 0 a }
  { y with tripRun := if 112 ≤ y.temp then min (x.tripRun + 1) 10 else 0 }

/-- The sample is the tenth hot one in a row: it takes the run to 10, where the run has not been (R260, log 46). -/
abbrev PowerState.tripsAt (x : PowerState) : Prop := (x.sampled a b c d p w).tripRun = 10 ∧ x.tripRun < 10

theorem sampled_temp (x : PowerState) : (x.sampled a b c d p w).temp = max (max (max a b) (max c d)) (max p w) := rfl

theorem sampled_tripRun (x : PowerState) : (x.sampled a b c d p w).tripRun =
    if 112 ≤ (x.sampled a b c d p w).temp then min (x.tripRun + 1) 10 else 0 := rfl

theorem tripsAt_of_ninth {x : PowerState} (hrun : x.tripRun = 9) (hhot : 112 ≤ (x.sampled a b c d p w).temp) :
    x.tripsAt a b c d p w := by
  rw [PowerState.tripsAt, sampled_tripRun, if_pos hhot, hrun]
  decide

theorem not_tripsAt_of_cool {x : PowerState} (hcool : (x.sampled a b c d p w).temp < 112) : ¬ x.tripsAt a b c d p w := by
  rw [PowerState.tripsAt, sampled_tripRun, if_neg (by omega)]
  omega

theorem powerUnitUp_iff (s : State) : s.powerUnitUp = true ↔ s.clock.mainOn = true ∧ (s.unit .power).restart = false := by
  rw [State.powerUnitUp, Bool.and_eq_true, Bool.not_eq_true']

/-- The working POWER takes the sample, and asserts THERM_TRIP at the tenth hot one (R260). -/
theorem exec_tempSample_up (hup : s.powerUnitUp = true) :
    exec (.tempSample a b c d p w) s = .next (if s.power.tripsAt a b c d p w then
      (s.onPower fun x => x.sampled a b c d p w).assertError .powerThermTrip
        (detail [(3, (s.power.sampled a b c d p w).hottest)])
      else s.onPower fun x => x.sampled a b c d p w) := by
  obtain ⟨hon, hrun⟩ := (powerUnitUp_iff s).mp hup
  show execTempSample a b c d p w s = _
  simp only [execTempSample, hon, hrun, Bool.not_true, Bool.false_eq_true, if_false]
  rfl

theorem exec_tempSample_quiet (hup : s.powerUnitUp = true) (htrip : ¬ s.power.tripsAt a b c d p w) :
    exec (.tempSample a b c d p w) s = .next { s with power := s.power.sampled a b c d p w } := by
  rw [exec_tempSample_up a b c d p w hup, if_neg htrip]
  rfl

theorem exec_tempSample_trip (hup : s.powerUnitUp = true) (htrip : s.power.tripsAt a b c d p w) :
    ∃ x, exec (.tempSample a b c d p w) s = .next { s with power := s.power.sampled a b c d p w, fault := x } ∧
      (State.unit { s with power := s.power.sampled a b c d p w, fault := x } .power).waiting ≠ none := by
  have hon := ((powerUnitUp_iff s).mp hup).1
  obtain ⟨x, hx, hwaits⟩ := assertError_waits (s.onPower fun x => x.sampled a b c d p w) .powerThermTrip
    (detail [(3, (s.power.sampled a b c d p w).hottest)]) hon
  exact ⟨x, by rw [exec_tempSample_up a b c d p w hup, if_pos htrip, hx]; rfl, hwaits⟩

/-- In a RESTART reset of POWER the sample goes to the sensors alone (R255). -/
theorem exec_tempSample_restart (hon : s.clock.mainOn = true) (hrun : (s.unit .power).restart = true) :
    exec (.tempSample a b c d p w) s = .next { s with power :=
      { s.power with tCtrl := max (max a b) (max c d), tPwr := p, tWick := w } } := by
  show execTempSample a b c d p w s = _
  simp only [execTempSample, hon, hrun, Bool.not_true, Bool.false_eq_true, if_false, if_true]
  rfl

end TempSample

/-! ### The thermal limit (R255, R259) -/

section ThermalLimit

variable {s : State} {ms : Nat}

/-- A limit that lies lower applies at once, a higher one after a second and by at most 6 W, and else the limit stands. -/
theorem exec_thermalLimitRecompute (hon : s.clock.mainOn = true) :
    exec (.thermalLimitRecompute ms) s =
      if s.power.limitNow < s.power.thermal then .next { s with power := { s.power with thermal := s.power.limitNow } }
      else if s.power.thermal < s.power.limitNow ∧ 1000 ≤ ms then
        .next { s with power := { s.power with thermal := min s.power.limitNow (s.power.thermal + 6000) } }
      else .next s := by
  show execThermalLimitRecompute ms s = _
  simp only [execThermalLimitRecompute, hon, Bool.not_true, Bool.false_eq_true, if_false]
  rfl

theorem exec_thermalLimitRecompute_lower (hon : s.clock.mainOn = true) (h : s.power.limitNow < s.power.thermal) :
    exec (.thermalLimitRecompute ms) s = .next { s with power := { s.power with thermal := s.power.limitNow } } :=
  (exec_thermalLimitRecompute hon).trans (if_pos h)

theorem exec_thermalLimitRecompute_higher (hon : s.clock.mainOn = true) (h : s.power.thermal < s.power.limitNow)
    (hms : 1000 ≤ ms) : exec (.thermalLimitRecompute ms) s =
      .next { s with power := { s.power with thermal := min s.power.limitNow (s.power.thermal + 6000) } } :=
  (exec_thermalLimitRecompute hon).trans ((if_neg (Nat.lt_asymm h)).trans (if_pos ⟨h, hms⟩))

theorem exec_thermalLimitRecompute_early (hon : s.clock.mainOn = true) (h : s.power.thermal ≤ s.power.limitNow)
    (hms : ms < 1000) : exec (.thermalLimitRecompute ms) s = .next s :=
  (exec_thermalLimitRecompute hon).trans ((if_neg (Nat.not_lt.mpr h)).trans (if_neg fun hrise => Nat.not_le.mpr hms hrise.2))

end ThermalLimit

/-! ### A minute of main-domain power in the health log (R242, R243, R244) -/

section HealthMinute

variable {s : State}

theorem hget_hset_ne {k x : Nat} (v : Nat) (h : k ≠ x) : (s.hset x v).hget k = s.hget k :=
  tget_tset_ne 0 s.health.words v h

theorem hget_count32_ne {k x : Nat} (n : Nat) (h : k ≠ x) : (s.count32 x n).hget k = s.hget k :=
  hget_hset_ne _ h

theorem hget_onHealth_of_words {k : Nat} {f : HealthState → HealthState} (h : (f s.health).words = s.health.words) :
    (s.onHealth f).hget k = s.hget k :=
  congrArg (tget 0 · k) h

/-- The extreme temperatures stand in word 0x40 (R242). -/
theorem hget_tempWord_ne {k : Nat} (t : Int) (h : k ≠ 0x40) : (s.tempWord t).hget k = s.hget k := hget_hset_ne _ h

theorem tempBin_cold {t : Int} (h : t < 35) : tempBin t = 0 := if_pos h

theorem tempBin_hot {t : Int} (h : 105 ≤ t) : tempBin t = 15 := by
  rw [tempBin, if_neg (by omega), if_pos h]

/-- Bins 1 to 14 are 5 °C wide, from 35 °C (R243). -/
theorem tempBin_between {t : Int} {i : Nat} (hlow : 1 ≤ i) (htop : i ≤ 14) (hge : 30 + 5 * (i : Int) ≤ t)
    (hlt : t < 35 + 5 * (i : Int)) : tempBin t = i := by
  rw [tempBin, if_neg (by omega), if_neg (by omega)]
  omega

theorem tempBin_lt (t : Int) : tempBin t < 16 := by
  rw [tempBin]
  split
  · decide
  · split
    · decide
    · omega

/-- The state after a minute of power: the hours, the bin, word 0x40 and the bin that HEALTH_SUMMARY shows. -/
def State.minuteCounted (s : State) : State :=
  (((s.count32 0x02 60).count32 (0x30 + tempBin s.power.temp) 1).tempWord s.power.temp).onHealth fun h =>
    { h with tempBin := tempBin s.power.temp }

theorem exec_healthMinute (hon : s.clock.mainOn = true) : exec .healthMinute s = .next s.minuteCounted := if_pos hon

theorem minuteCounted_frame (s : State) : s.minuteCounted = { s with health := s.minuteCounted.health } := by
  simp only [State.minuteCounted, State.onHealth, State.tempWord, State.count32, State.hset]

/-- Apart from word 0x40, which keeps the extreme temperatures (R242), a minute writes the two counts alone. -/
theorem hget_minuteCounted {k : Nat} (h : k ≠ 0x40) :
    s.minuteCounted.hget k = ((s.count32 0x02 60).count32 (0x30 + tempBin s.power.temp) 1).hget k := by
  rw [State.minuteCounted, hget_onHealth_of_words rfl, hget_tempWord_ne _ h]

theorem hget_minuteCounted_hours (s : State) : s.minuteCounted.hget 0x02 = min (s.hget 0x02 + 60) 0xFFFFFFFF := by
  rw [hget_minuteCounted (by decide), hget_count32_ne 1 (by omega), hget_count32_same]

theorem hget_minuteCounted_bin (s : State) : s.minuteCounted.hget (0x30 + tempBin s.power.temp) =
    min (s.hget (0x30 + tempBin s.power.temp) + 1) 0xFFFFFFFF := by
  have hbin := tempBin_lt s.power.temp
  rw [hget_minuteCounted (by omega), hget_count32_same, hget_count32_ne 60 (by omega)]

theorem hget_minuteCounted_otherBin {k : Nat} (hk : k < 16) (hne : k ≠ tempBin s.power.temp) :
    s.minuteCounted.hget (0x30 + k) = s.hget (0x30 + k) := by
  rw [hget_minuteCounted (by omega), hget_count32_ne 1 (by omega), hget_count32_ne 60 (by omega)]

/-- The bin of TEMP_NOW counts the minute, and no other bin does. -/
theorem minuteCounted_counts_bin {bin : Nat} (h : tempBin s.power.temp = bin) :
    s.minuteCounted.hget (0x30 + bin) = min (s.hget (0x30 + bin) + 1) 0xFFFFFFFF ∧
      ∀ k, k < 16 → k ≠ bin → s.minuteCounted.hget (0x30 + k) = s.hget (0x30 + k) := by
  subst h
  exact ⟨hget_minuteCounted_bin s, fun _ hk hne => hget_minuteCounted_otherBin hk hne⟩

end HealthMinute

/-- Settles O37: a sample by whether it is the tenth hot one, the limit by where it lies beside the one in force, the minute by the bin of
its temperature. -/
theorem temperature : Obligations.Temperature := by
  unfold Obligations.Temperature
  intro s
  refine ⟨fun a b c d p w hup => ?_, fun a b c d p w => exec_tempSample_restart a b c d p w, fun ms hon => ?_, fun hon => ?_⟩
  · by_cases htrip : s.power.tripsAt a b c d p w
    · obtain ⟨x, hx, hwaits⟩ := exec_tempSample_trip a b c d p w hup htrip
      exact ⟨_, hx, rfl, sampled_temp a b c d p w _, sampled_tripRun a b c d p w _, fun _ _ => hwaits,
        fun hcool => absurd htrip (not_tripsAt_of_cool a b c d p w hcool)⟩
    · exact ⟨_, exec_tempSample_quiet a b c d p w hup htrip, rfl, sampled_temp a b c d p w _, sampled_tripRun a b c d p w _,
        fun hrun hhot => absurd (tripsAt_of_ninth a b c d p w hrun hhot) htrip, fun _ => rfl⟩
  · exact ⟨exec_thermalLimitRecompute_lower hon, exec_thermalLimitRecompute_higher hon, exec_thermalLimitRecompute_early hon⟩
  · exact ⟨_, exec_healthMinute hon, minuteCounted_frame s, hget_minuteCounted_hours s,
      fun h => minuteCounted_counts_bin (tempBin_cold h),
      fun _ hlow htop hge hlt => minuteCounted_counts_bin (tempBin_between hlow htop hge hlt),
      fun h => minuteCounted_counts_bin (tempBin_hot h)⟩

end Sys2Proof.Machine

/-! # What a write of any register leaves, by whether its owner answers, and the registers with no row of their own -/

namespace Sys2Proof.Machine
open Sys2Proof

/-! ### The two refusals, and the write that is carried out (R25, R353, R355) -/

section RegisterWrite

variable {s : State} {addr : BitVec 7} {v mask : Word}

/-- The state on which the register bus takes a write: the act of the access before it is gone. -/
def State.actDropped (s : State) : State := s.onLink fun l => { l with act := .none }

/-- IND_DATA's write goes to the indirect access, and every other address's to the register's own rule (R375). -/
theorem toNat_ne_indData (ha : addr ≠ 0x61) : addr.toNat ≠ 0x61 :=
  fun e => ha (BitVec.eq_of_toNat_eq e)

theorem regWrite_noPower {a : Nat} (ha : a ≠ 0x61) (h : (ownerOf s a).noPower s = true) :
    s.regWrite a v mask = (s, .nopwr) := by
  simp [State.regWrite, ha, h]

theorem regWrite_held {a : Nat} (ha : a ≠ 0x61) (hrun : s.link.run = none) (hpower : (ownerOf s a).noPower s = false)
    (h : (ownerOf s a).held s = true) : s.regWrite a v mask = (s, .werr) := by
  simp [State.regWrite, ha, hrun, hpower, h]

/-- A write that the register bus refuses leaves its status alone. -/
theorem busWrite_refused {a : Nat} {e : Status} (h : s.busOpen = true)
    (hw : s.actDropped.regWrite a v mask = (s.actDropped, e)) : s.busWrite a v mask = s.wrote e := by
  have hend : s.busWrite a v mask = s.actDropped.endAccess e [] 0x02 := by
    unfold State.busWrite
    rw [h]
    exact congrArg (fun r : State × Status => r.1.endAccess r.2 [] 0x02) hw
  exact hend.trans (endAccess_idle e [] 0x02 (busOpen_idle h).2 rfl)

theorem exec_registerWrite_noPower (h : s.busOpen = true) (ha : addr ≠ 0x61)
    (hpower : (ownerOf s addr.toNat).noPower s = true) :
    exec (.registerWrite addr v mask) s = .next (s.wrote .nopwr) :=
  congrArg Host.Outcome.next
    (busWrite_refused h (regWrite_noPower (s := s.actDropped) (toNat_ne_indData ha) hpower))

theorem exec_registerWrite_held (h : s.busOpen = true) (ha : addr ≠ 0x61)
    (hpower : (ownerOf s addr.toNat).noPower s = false) (hheld : (ownerOf s addr.toNat).held s = true) :
    exec (.registerWrite addr v mask) s = .next (s.wrote .werr) :=
  congrArg Host.Outcome.next
    (busWrite_refused h (regWrite_held (s := s.actDropped) (toNat_ne_indData ha) (busOpen_idle h).1 hpower hheld))

theorem exec_registerWrite_error {e : Status} (h : s.serves addr.toNat = true) (ha : addr ≠ 0x61)
    (hput : s.actDropped.regPut addr.toNat v mask = .error e) :
    exec (.registerWrite addr v mask) s = .next (s.wrote e) :=
  congrArg Host.Outcome.next (busWrite_error h (toNat_ne_indData ha) hput)

theorem exec_registerWrite_ok {t : State} (h : s.serves addr.toNat = true) (ha : addr ≠ 0x61)
    (hput : s.actDropped.regPut addr.toNat v mask = .ok t) (hact : t.link.act = .none)
    (hpaused : t.link.paused = none) : exec (.registerWrite addr v mask) s = .next (t.wrote .ok) :=
  congrArg Host.Outcome.next (busWrite_ok h (toNat_ne_indData ha) hput hact hpaused)

/-- The same, for a rule that leaves t, where the state after it is known. -/
theorem exec_registerWrite_leaves {t u : State} (h : s.serves addr.toNat = true) (ha : addr ≠ 0x61)
    (hput : s.actDropped.regPut addr.toNat v mask = .ok t) (hact : t.link.act = .none) (hpaused : t.link.paused = none)
    (hu : t.wrote .ok = u) : exec (.registerWrite addr v mask) s = .next u :=
  hu ▸ exec_registerWrite_ok h ha hput hact hpaused

end RegisterWrite

/-! ### The rules of the registers with no row of their own (R7, R352, R353) -/

section PlainRegisters

variable (s : State) (v mask : Word)

/-- A word of one field from bit 0 is that field, widened. -/
theorem wordOf_low {w : Nat} (x : BitVec w) : wordOf [(0, w, x.toNat)] = x.setWidth 32 := by
  apply BitVec.eq_of_toNat_eq
  simp [wordOf, Nat.mod_eq_of_lt x.isLt]

/-- ID_MAGIC, ID_REV and addresses that hold no register ignore what is written. -/
theorem regPut_ignored {a : BitVec 7} (h : a = 0x00 ∨ a = 0x01 ∨ a = 0x25 ∨ a = 0x3D) :
    s.regPut a.toNat v mask = .ok s := by
  rcases h with rfl | rfl | rfl | rfl <;> rfl

theorem regPut_chanSel : s.regPut 0x20 v mask =
    .ok (s.onLink fun l => { l with chanSel := (merge (l.chanSel.setWidth 32) v mask).setWidth 5 }) := by
  have hshown : s.regValue 0x20 = s.link.chanSel.setWidth 32 := wordOf_low s.link.chanSel
  show Except.ok (s.onLink fun l => { l with chanSel := (merge (s.regValue 0x20) v mask).setWidth 5 }) = _
  rw [hshown]
  rfl

theorem regPut_wickDesc0 : s.regPut 0x51 v mask = .ok (s.onWick fun w => { w with desc0 := merge w.desc0 v mask }) :=
  rfl

theorem regPut_resetCause : s.regPut 0x70 v mask =
    .ok (s.onClock fun c => { c with cause := c.cause &&& ~~~((v &&& mask).setWidth 14) }) := rfl

theorem regPut_irqStatus : s.regPut 0x05 v mask =
    .ok (s.onLink fun l => { l with irqStatus := l.irqStatus &&& ~~~((v &&& mask).setWidth 20) }) := rfl

theorem regPut_linkEcho : s.regPut 0x7F v mask =
    .ok (s.onLink fun l => { l with echoReg := merge l.echoReg v mask }) := rfl

end PlainRegisters

/-- VAUX POR gives every VAUX-domain value of LINK its reset value, LINK_ECHO among them. -/
theorem exec_vauxPorRelease_link {s : State} (p : BitVec 4) (h : s.clock.vauxPor = true) :
    ∃ t, exec (.vauxPorRelease p) s = .next t ∧ t.link = { LinkState.reset with selected := s.link.selected } := by
  simp [exec, execVauxPorRelease, h]

/-- Settles O12: the two refusals, then the write that is carried out, which each named register's own rule instantiates. -/
theorem registerWriteOutcomes : Obligations.RegisterWriteOutcomes := by
  unfold Obligations.RegisterWriteOutcomes
  refine ⟨fun s addr v mask hopen ha => ⟨exec_registerWrite_noPower hopen ha, exec_registerWrite_held hopen ha,
    fun h => ?_⟩, fun s p => ⟨fun hn h => ?_, fun h => ?_⟩⟩
  · have hidle := serves_idle h
    refine ⟨fun _ => exec_registerWrite_error h ha, fun _ => exec_registerWrite_ok h ha, fun hro => ?_, ?_, ?_, ?_, ?_, ?_⟩
    · exact exec_registerWrite_leaves h ha (regPut_ignored _ v mask hro) rfl hidle rfl
    · rintro rfl
      exact exec_registerWrite_leaves h ha (regPut_chanSel _ v mask) rfl hidle rfl
    · rintro rfl
      exact exec_registerWrite_leaves h ha (regPut_wickDesc0 _ v mask) rfl hidle rfl
    · rintro rfl
      exact exec_registerWrite_leaves h ha (regPut_resetCause _ v mask) rfl hidle rfl
    · rintro rfl
      exact exec_registerWrite_leaves h ha (regPut_linkEcho _ v mask) rfl hidle rfl
    · rintro rfl
      exact exec_registerWrite_leaves h ha (regPut_irqStatus _ v mask) rfl hidle rfl
  · exact exec_readReg_gives (a := 0x7F) hn h (by decide) (by decide) rfl
  · obtain ⟨t, hexec, hlink⟩ := exec_vauxPorRelease_link p h
    exact ⟨t, hexec, by rw [hlink]; rfl⟩

end Sys2Proof.Machine

/-! # What the fault collector stores of a report, and what its reaction leaves of the record -/

namespace Sys2Proof.Machine
open Sys2Proof

/-! ### The collector's records: a read after a write -/

section CollectorRecords

variable (s : State) (u : UnitId)

theorem unitOf_unitIdx (u : UnitId) : unitOf (unitIdx u) = some u := by
  cases u <;> rfl

theorem unitIdx_injective : Function.Injective unitIdx := fun u v h =>
  Option.some.inj ((unitOf_unitIdx u).symm.trans ((congrArg unitOf h).trans (unitOf_unitIdx v)))

@[simp] theorem setUnit_unit_same (r : UnitFault) : (s.setUnit u r).unit u = r :=
  tget_tset_same UnitFault.none s.fault.units (unitIdx u) r

theorem setUnit_unit_ne {v : UnitId} (r : UnitFault) (h : v ≠ u) : (s.setUnit u r).unit v = s.unit v :=
  tget_tset_ne UnitFault.none s.fault.units r (unitIdx_injective.ne h)

@[simp] theorem modUnit_unit_same (f : UnitFault → UnitFault) : (s.modUnit u f).unit u = f (s.unit u) :=
  setUnit_unit_same s u _

end CollectorRecords

/-! ### What stands of every record -/

/-- What the collector stores of a unit: its record without the unit's line, its RESTART reset and its shadow. -/
def UnitFault.stored (r : UnitFault) : UnitFault := { r.quiet with heldShad := [] }

/-- What FAULT_STATUS, FAULT_LEVEL, FAULT_CONSEQ and the syndrome show of a unit is among what is stored (R369, R438). -/
theorem shown_of_stored {r x : UnitFault} (h : r.stored = x.stored) :
    r.latched = x.latched ∧ r.level = x.level ∧ r.cause = x.cause ∧ r.detail = x.detail ∧ r.cycle = x.cycle ∧
      r.count = x.count ∧ r.conseq = x.conseq ∧ r.shadowed = x.shadowed := by
  obtain ⟨hlatched, hlevel, hcause, hdetail, _, _, hshadowed, hcount, hcycle, hconseq, _⟩ := UnitFault.mk.inj h
  exact ⟨hlatched, hlevel, hcause, hdetail, hcycle, hcount, hconseq, hshadowed⟩

/-- From s to t the collector stores the same of every unit. -/
def State.SameStored (s t : State) : Prop := ∀ v, (t.unit v).stored = (s.unit v).stored

/-- Every part of State but the collector's. -/
def Touch.besideFault : Touch := { Touch.all with fault := false }

section SameStored

variable {s t : State}

theorem State.SameStored.refl (s : State) : s.SameStored s := fun _ => rfl

theorem State.SameStored.trans {w : State} (h : s.SameStored t) (k : t.SameStored w) : s.SameStored w :=
  fun v => (k v).trans (h v)

theorem sameStored_of_fault (h : t.fault = s.fault) : s.SameStored t :=
  fun v => congrArg (fun f : FaultState => (tget UnitFault.none f.units (unitIdx v)).stored) h

theorem sameStored_of_keeps (h : Keeps .besideFault s t) : s.SameStored t := sameStored_of_fault (h.faultF rfl)

theorem sameStored_onPower (s : State) (f : PowerState → PowerState) : s.SameStored (s.onPower f) := sameStored_of_fault rfl

theorem sameStored_onClock (s : State) (f : ClockState → ClockState) : s.SameStored (s.onClock f) := sameStored_of_fault rfl

theorem sameStored_foldl {β : Type} {f : State → β → State} (hf : ∀ (t : State) x, t.SameStored (f t x)) (l : List β) (s : State) :
    s.SameStored (l.foldl f s) := by
  induction l generalizing s with
  | nil => exact .refl s
  | cons x l ih => exact (hf s x).trans (ih (f s x))

theorem sameStored_setUnit (s : State) (u : UnitId) {r : UnitFault} (h : r.stored = (s.unit u).stored) :
    s.SameStored (s.setUnit u r) := by
  intro v
  by_cases hv : v = u
  · rw [hv, setUnit_unit_same, h]
  · rw [setUnit_unit_ne s u r hv]

theorem sameStored_modUnit (s : State) (u : UnitId) {f : UnitFault → UnitFault} (h : ∀ r, (f r).stored = r.stored) :
    s.SameStored (s.modUnit u f) :=
  sameStored_setUnit s u (h _)

/-- The record once its line is asserted with a report: the report waits, or is merged into the one that does (R436). -/
def UnitFault.hold (r : UnitFault) (w : Report) : UnitFault :=
  match r.waiting with
  | .none => { r with waiting := some w, merged := [] }
  | some _ => { r with merged := r.merged ++ [w] }

theorem hold_stored (r : UnitFault) (w : Report) : (r.hold w).stored = r.stored := by
  unfold UnitFault.hold
  split <;> rfl

theorem assertError_eq (s : State) (c : Cause) (d : BitVec 56) :
    s.assertError c d = if !s.clock.mainOn && !unitVaux (causeUnit c) then s
      else s.modUnit (causeUnit c) fun r => r.hold ⟨c, d, s.shadowsOver (causeUnit c)⟩ := rfl

/-- A unit's line is no part of what the collector stores (R436). -/
theorem sameStored_assertError (s : State) (c : Cause) (d : BitVec 56) : s.SameStored (s.assertError c d) := by
  rw [assertError_eq]
  split
  · exact .refl s
  · exact sameStored_modUnit s _ fun r => hold_stored r _

theorem sameStored_reportShadowed (s : State) (r u : UnitId) : s.SameStored (s.reportShadowed r u) := by
  unfold State.reportShadowed
  refine State.SameStored.trans ?_ (sameStored_foldl (fun t (h : Cause × BitVec 56) => sameStored_assertError t h.1 h.2) _ _)
  exact sameStored_setUnit s u rfl

theorem sameStored_lateEchoes (s : State) (u : UnitId) (es : List Report) : s.SameStored (s.lateEchoes u es) :=
  sameStored_foldl (fun t r => sameStored_reportShadowed t r u) _ s

end SameStored

/-! ### A reaction leaves what is stored (R439, R442) -/

section Reaction

variable (s : State) (u : UnitId)

theorem sameStored_wtUpdate : s.SameStored s.wtUpdate :=
  sameStored_of_keeps (keeps_wtUpdate (Keeps.refl _ s) rfl rfl rfl rfl rfl)

theorem sameStored_openShadow : s.SameStored (s.openShadow u) := by
  unfold State.openShadow
  refine State.SameStored.trans ?_ (sameStored_foldl (fun t p => sameStored_modUnit t p fun _ => ?_) _ _)
  · exact sameStored_modUnit s u fun _ => rfl
  · rfl

theorem sameStored_restartEffect (d : BitVec 56) : s.SameStored (s.restartEffect u d) := by
  have h := Keeps.refl .besideFault s
  cases u with
  | host => exact sameStored_of_keeps (keeps_portReset h rfl rfl)
  | link => exact sameStored_of_keeps (keeps_linkResetIfSelected h rfl)
  | media => exact sameStored_of_keeps (keeps_restartMedia h rfl)
  | back => exact sameStored_of_keeps (keeps_restartBack h rfl rfl)
  | wick => exact sameStored_of_keeps (keeps_restartWick h rfl rfl rfl)
  | lamp | intake | front | tun | grist | power | snuff => exact sameStored_of_fault rfl
  | clock => exact fun _ => rfl

theorem sameStored_restart (bit : Nat) (d : BitVec 56) : s.SameStored (s.restart u bit d) := by
  unfold State.restart
  split
  · exact .refl s
  · exact ((sameStored_of_fault rfl).trans (sameStored_openShadow (s.resetSource bit) u)).trans (sameStored_restartEffect _ u d)

/-- The main domain's reset clears a unit's line, reset and shadow alone (R25). -/
theorem sameStored_mainReset (hinv : s.Inv) (powerUp : Bool) : s.SameStored (s.mainReset powerUp) := by
  obtain ⟨_, _, hwf, _⟩ := hinv
  intro v
  have hread := tget_tmap UnitFault.none (fun k r => if (unitOf k).any unitVaux then r else r.quiet) s.fault.units (unitIdx v)
    (by split <;> rfl) hwf
  refine (congrArg UnitFault.stored hread).trans ?_
  split <;> rfl

theorem sameStored_mainDown (hinv : s.Inv) : s.SameStored s.mainDown := by
  have hrails : (s.mainReset true).SameStored (s.mainReset true).railsDown :=
    sameStored_of_keeps (keeps_railsDown (Keeps.refl _ _) rfl)
  unfold State.mainDown
  exact ((sameStored_mainReset s hinv true).trans hrails).trans ((sameStored_onPower _ _).trans (sameStored_onClock _ _))

/-- A change of DEV_STATE, and the check of VAUX after it, leave the collector alone. -/
theorem sameStored_setDev_vauxCheck (d : DevState) : s.SameStored ((s.setDev d).vauxCheck) :=
  sameStored_of_keeps (keeps_vauxCheck (keeps_setDev d (Keeps.refl _ s) rfl rfl rfl rfl) rfl)

theorem sameStored_trigger (hinv : s.Inv) (bit : Nat) (code : BitVec 3) (wire halt : Bool) :
    s.SameStored (s.trigger bit code wire halt) := by
  have hcut : Keeps .besideFault s (s.resetSource bit).gaugeCut :=
    keeps_gaugeCut (keeps_resetSource bit (Keeps.refl _ s) rfl) rfl
  have hdown (d : DevState) : s.SameStored (((s.resetSource bit).gaugeCut.mainDown.setDev d).vauxCheck) :=
    ((sameStored_of_keeps hcut).trans (sameStored_mainDown _ (hcut.inv hinv))).trans (sameStored_setDev_vauxCheck _ d)
  have hflush := sameStored_of_keeps (keeps_beginFlush code (!wire) halt none hcut rfl rfl)
  unfold State.trigger
  split
  · exact .refl s
  split
  · split
    · exact sameStored_of_keeps (keeps_cutReset bit (Keeps.refl _ s) rfl rfl rfl)
    · exact .refl s
  dsimp only
  split
  · exact hflush
  · exact hflush
  · exact hdown .boot
  · exact hdown .boot
  · exact hdown .boot
  · exact hdown _
  · exact hdown _
  · exact sameStored_of_keeps hcut

/-- Whatever level is carried out, what the collector stores stands. -/
theorem sameStored_react (hinv : s.Inv) (level : Nat) (c : Cause) (d : BitVec 56) :
    s.SameStored (s.react u level c d) := by
  unfold State.react
  split
  · exact .refl s
  · exact sameStored_of_keeps (keeps_contain c d (Keeps.refl _ s) rfl rfl rfl)
  · exact sameStored_restart s u _ d
  · exact sameStored_trigger s hinv 12 4 false _

end Reaction

/-! ### What the collector takes from a unit's line (R437, R440, R443, R446) -/

section TakeReport

variable {s : State} {u : UnitId}

/-- Reports of which none is to be acted on are consequential: the unit's record takes them so, and no more is stored. -/
theorem takeReport_consequential_stored (hnone : (s.unit u).reports.filter (fun w => !w.echo) = [])
    (hecho : (s.unit u).reports.filter Report.echo ≠ []) :
    ((s.takeReport u).unit u).stored = ((s.unit u).handOver ((s.unit u).reports.filter Report.echo)).stored := by
  simp only [State.takeReport, hnone, List.isEmpty_iff, hecho, if_false]
  refine (((sameStored_of_keeps (keeps_raise .fault (Keeps.refl _ _) rfl rfl)).trans (sameStored_lateEchoes _ u _)) u).trans ?_
  rw [setUnit_unit_same]

/-- What follows the record of the reports acted on, the counts of R242, attention and the reaction, stores nothing more. -/
theorem sameStored_carriedOut (hinv : s.Inv) (u : UnitId) (again : Bool) (word level : Nat) (c : Cause) (d : BitVec 56)
    (es : List Report) :
    s.SameStored ((((((if again then s else s.count32 word 1).count32 (0x55 + level) 1).raise .fault).react u level c
      d).wtUpdate).lateEchoes u es) := by
  have hcount : Keeps .besideFault s (((if again then s else s.count32 word 1).count32 (0x55 + level) 1).raise .fault) :=
    keeps_raise .fault (keeps_count32 _ 1 (keeps_ite (Keeps.refl _ s) (keeps_count32 word 1 (Keeps.refl _ s) rfl)) rfl) rfl rfl
  have hreact := sameStored_react _ u (hcount.inv hinv) level c d
  exact (((sameStored_of_keeps hcount).trans hreact).trans (sameStored_wtUpdate _)).trans (sameStored_lateEchoes _ u es)

/-- Reports to be acted on, w the first of them, are stored at the level acted on; the reaction changes nothing that is stored. -/
theorem takeReport_acted_stored {w : Report} {ws : List Report} (hinv : s.Inv)
    (hacted : (s.unit u).reports.filter (fun w => !w.echo) = w :: ws) :
    ((s.takeReport u).unit u).stored = (((s.unit u).handOver ((s.unit u).reports.filter Report.echo)).take
      (reportLevel (s.unit u) s.fault.self (topReport w ws).cause) w (topReport w ws).cause (1 + ws.length) s.lamp.cycle).stored := by
  simp only [State.takeReport, hacted]
  refine (sameStored_carriedOut ((keeps_setUnit u _ (Keeps.refl .all s) rfl).inv hinv) u _ _ _ _ _ _ u).trans ?_
  rw [setUnit_unit_same]

end TakeReport

/-! ### A report that reaches the line is taken with what waits there (R436) -/

section ErrorReport

variable {s : State} {c : Cause} {d : BitVec 56}

theorem hold_waiting_none {r : UnitFault} (h : r.waiting = none) (w : Report) :
    r.hold w = { r with waiting := some w, merged := [] } := by
  rw [UnitFault.hold, h]

theorem hold_waiting_some {r : UnitFault} {v : Report} (h : r.waiting = some v) (w : Report) :
    r.hold w = { r with merged := r.merged ++ [w] } := by
  rw [UnitFault.hold, h]

theorem hold_reports_first {r : UnitFault} (h : r.waiting = none) (w : Report) : (r.hold w).reports = [w] := by
  rw [hold_waiting_none h]
  rfl

theorem hold_reports_merged {r : UnitFault} {v : Report} (h : r.waiting = some v) (w : Report) :
    (r.hold w).reports = v :: (r.merged ++ [w]) := by
  rw [hold_waiting_some h, UnitFault.reports, h]
  rfl

/-- Once the reports are taken nothing waits: the record no longer shows that the line was asserted. -/
theorem hold_handOver (r : UnitFault) (w : Report) (es : List Report) : (r.hold w).handOver es = r.handOver es := by
  unfold UnitFault.hold
  split <;> rfl

theorem hold_reportLevel (r : UnitFault) (w : Report) (self : Bool) (c : Cause) :
    reportLevel (r.hold w) self c = reportLevel r self c := by
  unfold UnitFault.hold
  split <;> rfl

/-- A report is not consequential exactly where it arrived in no shadow or its cause level is SNUFF (R446). -/
theorem echo_eq_false_iff (w : Report) : w.echo = false ↔ w.inShadow = [] ∨ 3 ≤ causeLevel w.cause := by
  rw [Report.echo, Bool.and_eq_false_iff, Bool.not_eq_false', List.isEmpty_iff, decide_eq_false_iff_not, Nat.not_lt]

/-- The report that a command gives for unit u, with the shadows that are open over u. -/
abbrev State.freshReport (s : State) (c : Cause) (d : BitVec 56) : Report := ⟨c, d, s.shadowsOver (causeUnit c)⟩

/-- The state in which the collector takes a fresh report: the unit has done what it does by itself, and its line is asserted. -/
def State.reported (s : State) (c : Cause) (d : BitVec 56) : State := (s.ownReaction c d).assertError c d

/-- What a unit does by itself on an error is WICK's alone (R434). -/
theorem ownReaction_frame (s : State) (c : Cause) (d : BitVec 56) : ∃ w, s.ownReaction c d = { s with wick := w } := by
  unfold State.ownReaction
  split
  · exact ⟨_, rfl⟩
  · exact ⟨s.wick, rfl⟩

/-- The lines of the VAUX domain are always watched, the others while the main domain is on (R25). -/
theorem reported_unit (hline : s.clock.mainOn = true ∨ unitVaux (causeUnit c) = true) :
    (s.reported c d).unit (causeUnit c) = (s.unit (causeUnit c)).hold (s.freshReport c d) := by
  obtain ⟨w, hown⟩ := ownReaction_frame s c d
  have hopen : ¬(!s.clock.mainOn && !unitVaux (causeUnit c)) = true := by
    rcases hline with h | h <;> simp [h]
  rw [State.reported, hown, assertError_eq, if_neg hopen, modUnit_unit_same]
  rfl

theorem keeps_reported (s : State) (c : Cause) (d : BitVec 56) : Keeps { wick := true, fault := true } s (s.reported c d) :=
  keeps_assertError c d (keeps_ownReaction c d (Keeps.refl _ s) rfl) rfl

/-- FAULT_STATUS[31] is no unit's. -/
theorem reported_self (s : State) (c : Cause) (d : BitVec 56) : (s.reported c d).fault.self = s.fault.self := by
  obtain ⟨w, hown⟩ := ownReaction_frame s c d
  rw [State.reported, hown, assertError_eq]
  split <;> rfl

theorem exec_errorReport (s : State) (c : Cause) (d : BitVec 56) :
    exec (.errorReport (causeUnit c) (some (c, d))) s = .next ((s.reported c d).takeReport (causeUnit c)) := if_pos rfl

/-- The reports to be acted on, w the first of them, are stored at the level acted on. -/
theorem exec_errorReport_acted {w : Report} {ws es : List Report} (hinv : s.Inv)
    (hline : s.clock.mainOn = true ∨ unitVaux (causeUnit c) = true)
    (hacted : ((s.unit (causeUnit c)).hold (s.freshReport c d)).reports.filter (fun w => !w.echo) = w :: ws)
    (hes : ((s.unit (causeUnit c)).hold (s.freshReport c d)).reports.filter Report.echo = es) :
    ∃ t, exec (.errorReport (causeUnit c) (some (c, d))) s = .next t ∧ (t.unit (causeUnit c)).stored =
      (((s.unit (causeUnit c)).handOver es).take (reportLevel (s.unit (causeUnit c)) s.fault.self (topReport w ws).cause) w
        (topReport w ws).cause (1 + ws.length) s.lamp.cycle).stored := by
  have hunit := reported_unit (d := d) hline
  have hkeeps := keeps_reported s c d
  have htake := takeReport_acted_stored (u := causeUnit c) (hkeeps.inv hinv) (hunit ▸ hacted)
  rw [hunit, hes, hold_handOver, hold_reportLevel, reported_self, hkeeps.lampF rfl] at htake
  exact ⟨_, exec_errorReport s c d, htake⟩

/-- Reports that are all consequential leave what is stored as it was but for FAULT_CONSEQ and SHADOWED. -/
theorem exec_errorReport_consequential {es : List Report}
    (hline : s.clock.mainOn = true ∨ unitVaux (causeUnit c) = true)
    (hnone : ((s.unit (causeUnit c)).hold (s.freshReport c d)).reports.filter (fun w => !w.echo) = [])
    (hes : ((s.unit (causeUnit c)).hold (s.freshReport c d)).reports.filter Report.echo = es) (hsome : es ≠ []) :
    ∃ t, exec (.errorReport (causeUnit c) (some (c, d))) s = .next t ∧
      (t.unit (causeUnit c)).stored = ((s.unit (causeUnit c)).handOver es).stored := by
  have hunit := reported_unit (d := d) hline
  have htake := takeReport_consequential_stored (s := s.reported c d) (u := causeUnit c) (hunit ▸ hnone)
    (hunit ▸ hes ▸ hsome)
  rw [hunit, hes, hold_handOver] at htake
  exact ⟨_, exec_errorReport s c d, htake⟩

end ErrorReport

/-! ### The level acted on and the syndrome stored (R437, R438, R440, R443) -/

section Latch

variable {r : UnitFault} {w : Report} {level n cyc : Nat} {c top : Cause}

theorem take_unlatched (h : r.latched = false) : r.take level w top n cyc =
    { r with latched := true, level := level, cause := causeCode w.cause, detail := w.detail, lastLevel := level,
             escalated := decide (max r.base (causeLevel top) < level), count := min 255 (r.count + n),
             cycle := BitVec.ofNat 32 cyc } := by
  simp [UnitFault.take, h]

theorem take_latched (h : r.latched = true) : r.take level w top n cyc =
    { r with level := level, lastLevel := level,
             escalated := r.escalated || decide (max r.base (causeLevel top) < level), count := min 255 (r.count + n) } := by
  simp [UnitFault.take, h]

theorem reportLevel_unlatched (h : r.latched = false) : reportLevel r false c = max r.base (causeLevel c) := by
  simp [reportLevel, h]

theorem reportLevel_latched (h : r.latched = true) :
    reportLevel r false c = min 3 (max (max r.base (causeLevel c)) (r.lastLevel + 1)) := by
  simp [reportLevel, h]

/-- Two reports that are taken together count as one at the higher of their levels (R443). -/
theorem causeLevel_topReport_pair (v w : Report) :
    causeLevel (topReport v [w]).cause = max (causeLevel v.cause) (causeLevel w.cause) := by
  simp only [topReport, List.foldl_cons, List.foldl_nil]
  split <;> omega

end Latch

/-! ### One report, alone or merged into one that waits -/

section Reports

variable {s : State} {c : Cause} {d : BitVec 56} (hline : s.clock.mainOn = true ∨ unitVaux (causeUnit c) = true)

include hline

/-- In a shadow a report below SNUFF sets FAULT_CONSEQ and SHADOWED, and nothing is latched, acted on or counted (R446). -/
theorem exec_errorReport_shadowed (hwait : (s.unit (causeUnit c)).waiting = none)
    (hshadow : s.shadowsOver (causeUnit c) ≠ []) (hlow : causeLevel c < 3) :
    ∃ t, exec (.errorReport (causeUnit c) (some (c, d))) s = .next t ∧ (t.unit (causeUnit c)).conseq = true ∧
      (t.unit (causeUnit c)).shadowed = true ∧ (t.unit (causeUnit c)).latched = (s.unit (causeUnit c)).latched ∧
      (t.unit (causeUnit c)).level = (s.unit (causeUnit c)).level ∧
      (t.unit (causeUnit c)).count = (s.unit (causeUnit c)).count := by
  have hecho : (s.freshReport c d).echo = true :=
    Bool.of_not_eq_false fun h => ((echo_eq_false_iff _).mp h).elim hshadow (Nat.not_le.mpr hlow)
  have hreports := hold_reports_first hwait (s.freshReport c d)
  obtain ⟨t, hexec, hstored⟩ := exec_errorReport_consequential (d := d) (es := [s.freshReport c d]) hline
    (by simp [hreports, hecho]) (by simp [hreports, hecho]) (List.cons_ne_nil _ _)
  obtain ⟨hlatched, hlevel, _, _, _, hcount, hconseq, hshadowed⟩ := shown_of_stored hstored
  exact ⟨t, hexec, hconseq.trans (Bool.or_true _), hshadowed.trans (Bool.or_true _), hlatched, hlevel, hcount⟩

variable (hinv : s.Inv) (hself : s.fault.self = false)

include hinv hself

/-- A report merged into one that waits counts with it, at the higher of their levels; the first one's syndrome is stored (R436, R443). -/
theorem exec_errorReport_merged {w : Report} (hwait : (s.unit (causeUnit c)).waiting = some w)
    (hmerged : (s.unit (causeUnit c)).merged = []) (hw : w.echo = false) (hshadow : s.shadowsOver (causeUnit c) = [])
    (hfree : (s.unit (causeUnit c)).latched = false) :
    ∃ t, exec (.errorReport (causeUnit c) (some (c, d))) s = .next t ∧ (t.unit (causeUnit c)).latched = true ∧
      (t.unit (causeUnit c)).level = max (s.unit (causeUnit c)).base (max (causeLevel w.cause) (causeLevel c)) ∧
      (t.unit (causeUnit c)).cause = causeCode w.cause ∧ (t.unit (causeUnit c)).detail = w.detail ∧
      (t.unit (causeUnit c)).count = min 255 ((s.unit (causeUnit c)).count + 2) := by
  have hecho : (s.freshReport c d).echo = false := (echo_eq_false_iff _).mpr (Or.inl hshadow)
  have hreports := hold_reports_merged hwait (s.freshReport c d)
  rw [hmerged, List.nil_append] at hreports
  obtain ⟨t, hexec, hstored⟩ := exec_errorReport_acted (d := d) (w := w) (ws := [s.freshReport c d]) (es := []) hinv hline
    (by simp [hreports, hw, hecho]) (by simp [hreports, hw, hecho])
  rw [hself, reportLevel_unlatched hfree, causeLevel_topReport_pair, take_unlatched (r := UnitFault.handOver _ _) hfree] at hstored
  obtain ⟨hlatched, hlevel, hcause, hdetail, _, hcount, _⟩ := shown_of_stored hstored
  exact ⟨t, hexec, hlatched, hlevel, hcause, hdetail, hcount⟩

variable (hwait : (s.unit (causeUnit c)).waiting = none) (hact : s.shadowsOver (causeUnit c) = [] ∨ causeLevel c = 3)

include hwait hact

/-- A report that meets an empty line, in no shadow or at SNUFF, is acted on alone. -/
theorem exec_errorReport_alone :
    ∃ t, exec (.errorReport (causeUnit c) (some (c, d))) s = .next t ∧ (t.unit (causeUnit c)).stored =
      (((s.unit (causeUnit c)).handOver []).take (reportLevel (s.unit (causeUnit c)) false c) (s.freshReport c d) c 1
        s.lamp.cycle).stored := by
  have hecho : (s.freshReport c d).echo = false := (echo_eq_false_iff _).mpr (hact.imp_right fun h => Nat.le_of_eq h.symm)
  have hreports := hold_reports_first hwait (s.freshReport c d)
  exact hself ▸ exec_errorReport_acted (w := s.freshReport c d) (ws := []) hinv hline (by simp [hreports, hecho])
    (by simp [hreports, hecho])

/-- With nothing latched a report latches the fault, at the level of R440. -/
theorem exec_errorReport_latches (hfree : (s.unit (causeUnit c)).latched = false) :
    ∃ t, exec (.errorReport (causeUnit c) (some (c, d))) s = .next t ∧ (t.unit (causeUnit c)).latched = true ∧
      (t.unit (causeUnit c)).level = max (s.unit (causeUnit c)).base (causeLevel c) ∧
      (t.unit (causeUnit c)).cause = causeCode c ∧ (t.unit (causeUnit c)).detail = d ∧
      (t.unit (causeUnit c)).cycle = BitVec.ofNat 32 s.lamp.cycle ∧
      (t.unit (causeUnit c)).count = min 255 ((s.unit (causeUnit c)).count + 1) := by
  obtain ⟨t, hexec, hstored⟩ := exec_errorReport_alone (d := d) hline hinv hself hwait hact
  rw [reportLevel_unlatched hfree, take_unlatched (r := UnitFault.handOver _ _) hfree] at hstored
  obtain ⟨hlatched, hlevel, hcause, hdetail, hcycle, hcount, _⟩ := shown_of_stored hstored
  exact ⟨t, hexec, hlatched, hlevel, hcause, hdetail, hcycle, hcount⟩

/-- With a fault latched a report rises above its last one, as R443 says, and the first report's syndrome stands. -/
theorem exec_errorReport_escalates (hlatched : (s.unit (causeUnit c)).latched = true) :
    ∃ t, exec (.errorReport (causeUnit c) (some (c, d))) s = .next t ∧ (t.unit (causeUnit c)).latched = true ∧
      (t.unit (causeUnit c)).level =
        min 3 (max (max (s.unit (causeUnit c)).base (causeLevel c)) ((s.unit (causeUnit c)).lastLevel + 1)) ∧
      (t.unit (causeUnit c)).cause = (s.unit (causeUnit c)).cause ∧
      (t.unit (causeUnit c)).detail = (s.unit (causeUnit c)).detail ∧
      (t.unit (causeUnit c)).cycle = (s.unit (causeUnit c)).cycle ∧
      (t.unit (causeUnit c)).count = min 255 ((s.unit (causeUnit c)).count + 1) := by
  obtain ⟨t, hexec, hstored⟩ := exec_errorReport_alone (d := d) hline hinv hself hwait hact
  rw [reportLevel_latched hlatched, take_latched (r := UnitFault.handOver _ _) hlatched] at hstored
  obtain ⟨hstill, hlevel, hcause, hdetail, hcycle, hcount, _⟩ := shown_of_stored hstored
  exact ⟨t, hexec, hstill.trans hlatched, hlevel, hcause, hdetail, hcycle, hcount⟩

end Reports

/-! ### VAUX POR (R440) -/

theorem exec_vauxPorRelease_fault {s : State} (p : BitVec 4) (h : s.clock.vauxPor = true) :
    ∃ t, exec (.vauxPorRelease p) s = .next t ∧ t.fault = FaultState.reset := by
  simp [exec, execVauxPorRelease, h]

/-- Every BASE resets to NOTE. -/
theorem unit_base_of_fault_reset {s : State} (h : s.fault = FaultState.reset) (u : UnitId) : (s.unit u).base = 0 := by
  rw [State.unit, h]
  cases u <;> rfl

/-- Settles O51: a report's exec is that of its line, taken; what is stored then stands through the reaction, and its level and syndrome
are read off the record taken, by whether a fault was latched, a shadow is open, or a report waited. -/
theorem reportsLatch : Obligations.ReportsLatch := by
  unfold Obligations.ReportsLatch
  refine ⟨fun s p hpor => ?_, ?_, ?_⟩
  · obtain ⟨t, hexec, hfault⟩ := exec_vauxPorRelease_fault p hpor
    exact ⟨t, hexec, unit_base_of_fault_reset hfault⟩
  · rintro s _ c d hinv rfl hline hwait hself
    exact ⟨exec_errorReport_latches hline hinv hself hwait, exec_errorReport_escalates hline hinv hself hwait,
      exec_errorReport_shadowed hline hwait⟩
  · rintro s _ c d w hinv rfl hline
    exact fun hwait hmerged hw hshadow hfree hself => exec_errorReport_merged hline hinv hself hwait hmerged hw hshadow hfree

end Sys2Proof.Machine

/-! # Which BOOT_SRC a start takes: what the resets and the power-up leave in CLOCK, and the slot that the boot ROM picks -/

namespace Sys2Proof.Machine
open Sys2Proof

/-! ### CLOCK's state through the operations of a reset -/

/-- Every part of State but CLOCK's. -/
def Touch.besideClock : Touch := { Touch.all with clock := false }

section ClockFields

variable (s : State)

theorem raise_clock (a : Attn) : (s.raise a).clock = s.clock :=
  (keeps_raise a (Keeps.refl .besideClock s) rfl rfl).clockF rfl

theorem drainOpen_clock : s.drainOpen.clock = s.clock := (keeps_drainOpen (Keeps.refl .besideClock s) rfl).clockF rfl

theorem railsUp_clock (vinPor : Bool) : (s.railsUp vinPor).clock = s.clock :=
  (keeps_railsUp vinPor (Keeps.refl .besideClock s) rfl).clockF rfl

theorem bootCheck_clock (bad : List Nat) : (s.bootCheck bad).clock = s.clock :=
  (keeps_bootCheck bad (Keeps.refl .besideClock s) rfl).clockF rfl

theorem linkResetIfSelected_clock : s.linkResetIfSelected.clock = s.clock :=
  (keeps_linkResetIfSelected (Keeps.refl .besideClock s) rfl).clockF rfl

/-- The attention and the streams that drain on a change of DEV_STATE lie outside CLOCK (R81, R360). -/
theorem setDev_clock (d : DevState) : (s.setDev d).clock = { s.clock with dev := d } := by
  unfold State.setDev
  split
  · next h => rw [← h]
  · cases d <;> simp only [drainOpen_clock, raise_clock, State.onClock_clock]

theorem bootBegin_clock : s.bootBegin.clock = { s.clock with dev := .boot, step := 0, bootHold := false } := by
  simp only [State.bootBegin, State.onClock_clock, setDev_clock]

theorem mainReset_bootAs00 (powerUp : Bool) : (s.mainReset powerUp).clock.bootAs00 = s.clock.bootAs00 := rfl

theorem mainUp_bootAs00 (vinPor : Bool) : (s.mainUp vinPor).clock.bootAs00 = s.clock.bootAs00 := by
  simp only [State.mainUp, State.onClock_clock, State.onPower_clock, railsUp_clock]

/-- A power-up alone leaves how BOOT_SRC is taken as it stands. -/
theorem powerUp_bootAs00 (vinPor : Bool) : (s.powerUp vinPor).clock.bootAs00 = s.clock.bootAs00 := by
  simp only [State.powerUp, State.chargerUpdate, State.peersNow, State.onPower_clock, State.onJournal_clock, State.onHost_clock,
    bootBegin_clock, mainUp_bootAs00, mainReset_bootAs00]

/-- WARM and SOFT_RESET have BOOT_SRC taken as 0 from DOWNLOAD, and only from there (R478). -/
theorem warmReset_bootAs00 (bit : Nat) (hpwr : s.clock.mainPwr = true) :
    (s.warmReset bit).clock.bootAs00 = decide (s.clock.dev = .download) := by
  simp only [State.warmReset, hpwr, Bool.not_true, Bool.false_eq_true, if_false, bootBegin_clock, State.onClock_clock]

/-- COLD has BOOT_SRC taken as sampled, whether the domain powers up again or VAUX POR follows (R459, R478). -/
theorem coldReset_bootAs00 : s.coldReset.clock.bootAs00 = false := by
  unfold State.coldReset
  extract_lets _ t
  have hsampled : t.clock.bootAs00 = false := rfl
  split
  · exact hsampled
  · rw [powerUp_bootAs00, hsampled]

end ClockFields

/-- No command but the release of VAUX POR changes what was sampled (R464). -/
theorem exec_bootSrc {c : Instr} {s t : State} (hx : exec c s = .next t) (hc : ∀ p, c ≠ .vauxPorRelease p) :
    t.clock.bootSrc = s.clock.bootSrc :=
  (keeps_exec c s t hc hx).bootSrc

/-! ### A reset that LINK's response leaves behind (R338, R359, R462) -/

section ResetCommands

variable {s : State}

/-- The state in which the act of an access that ended OK and read nothing is carried out. -/
def State.respondedOk (s : State) : State := s.onLink fun l => { l with status := .ok, rdata := [], act := .none }

/-- Outside READY and DEGRADED no flush precedes a reset (R462). -/
theorem startReset_at_once {k : ResetKind} (hallow : s.resetRefused k = false) (hrun : s.running = false) :
    s.startReset k = s.carryReset k := by
  simp only [State.startReset, hallow, hrun, Bool.false_eq_true, if_false]

theorem running_of_download (hdev : s.clock.dev = .download) : s.running = false := by
  simp only [State.running, hdev, reduceCtorEq, decide_false, Bool.or_false]

theorem warmReset_download (bit : Nat) (hdev : s.clock.dev = .download) (hpwr : s.clock.mainPwr = true) :
    (s.warmReset bit).linkResetIfSelected.clock.bootAs00 = true := by
  rw [linkResetIfSelected_clock, warmReset_bootAs00 s bit hpwr]
  exact decide_eq_true hdev

/-- WARM and SOFT_RESET differ in the RESET_CAUSE bit alone (R376, R461). -/
theorem startReset_warm_or_soft_download {k : ResetKind} (hk : k ≠ .cold) (hdev : s.clock.dev = .download)
    (hallow : s.resetRefused k = false) (hpwr : s.clock.mainPwr = true) : (s.startReset k).clock.bootAs00 = true := by
  rw [startReset_at_once hallow (running_of_download hdev)]
  cases k with
  | warm => exact warmReset_download 7 hdev hpwr
  | soft => exact warmReset_download 13 hdev hpwr
  | cold => exact absurd rfl hk

theorem startReset_cold_download (hdev : s.clock.dev = .download) (hallow : s.coldRefused = false) :
    (s.startReset .cold).clock.bootAs00 = false := by
  rw [startReset_at_once (k := .cold) hallow (running_of_download hdev), State.carryReset, linkResetIfSelected_clock,
    coldReset_bootAs00]

/-- While LINK takes an operation, no RESUME waits. -/
theorem opsOpen_idle (hopen : s.opsOpen = true) : s.link.paused = none := by
  have hbus : s.busOpen = true := by
    simp only [State.opsOpen, State.nativeUp, Bool.and_eq_true] at hopen
    simp only [State.busOpen, hopen, Bool.and_self]
  exact (busOpen_idle hbus).2

/-- With no RESUME that waits, an access's act follows its answer (R338). -/
theorem endAccess_doAct (s : State) (st : Status) (ws : List Word) (code : Byte) (hidle : s.link.paused = none) :
    s.endAccess st ws code = (s.onLink fun l => { l with status := st, rdata := ws }).doAct := by
  simp only [State.endAccess, State.onLink_link, hidle, Option.isSome_none, Bool.false_eq_true, if_false]

/-- The reset that an act asks for. -/
def ResetKind.act : ResetKind → LinkAct
  | .warm => .resetWarm
  | .cold => .resetCold
  | .soft => .softReset

/-- LINK has a reset to carry out once the answer is sent. -/
def State.askReset (s : State) (k : ResetKind) : State := s.onLink fun l => { l with act := k.act }

theorem doAct_startReset (s : State) (k : ResetKind) (hact : s.link.act = k.act) :
    s.doAct = (s.onLink fun l => { l with act := .none }).startReset k := by
  unfold State.doAct
  rw [hact]
  cases k <;> rfl

/-- An access that ended OK and asked for a reset is followed by it (R338). -/
theorem endAccess_askReset (s : State) (k : ResetKind) (code : Byte) (hidle : s.link.paused = none) :
    (s.askReset k).endAccess .ok [] code = s.respondedOk.startReset k := by
  rw [endAccess_doAct (s.askReset k) .ok [] code hidle, doAct_startReset _ k rfl]
  rfl

/-- A reset command that is not refused asks for its reset, and ends OK (R333, R338). -/
theorem single_reset {kind : Byte} {k : ResetKind} (hopen : s.opsOpen = true) (hact : s.resetAct kind = some k.act) :
    s.single (.reset kind) = .next (s.answerDropped.respondedOk.startReset k) := by
  have hask : s.answerDropped.doOp (.reset kind) = (s.answerDropped.askReset k, .ok, []) := by
    show s.answerDropped.askAct (s.resetAct kind) = _
    rw [hact]
    rfl
  have hexec : s.single (.reset kind) = .next ((s.answerDropped.askReset k).endAccess .ok [] 0x06) := by
    unfold State.single
    rw [hopen]
    exact congrArg (fun r => Host.Outcome.next (r.1.endAccess r.2.1 (wordList r.2.2 0) 0x06)) hask
  rw [hexec, endAccess_askReset s.answerDropped k 0x06 (opsOpen_idle hopen)]

theorem exec_resetCmdWarm (hopen : s.opsOpen = true) (hallow : s.warmRefused = false) :
    exec .resetCmdWarm s = .next (s.answerDropped.respondedOk.startReset .warm) :=
  single_reset (k := .warm) hopen (if_neg (ne_true_of_eq_false hallow))

theorem exec_resetCmdCold (hopen : s.opsOpen = true) (hallow : s.coldRefused = false) :
    exec .resetCmdCold s = .next (s.answerDropped.respondedOk.startReset .cold) :=
  single_reset (k := .cold) hopen (if_neg (ne_true_of_eq_false hallow))

/-- The write of ACTION 1 with its CONFIRM touches no other field of DEV_CTRL (R358, R359). -/
theorem regPut_softReset {s : State} (hallow : s.warmRefused = false) :
    s.regPut 0x03 0xA5000100 actionMask = .ok (s.askReset .soft) := by
  have hpct : ∀ cur, written cur 0xA5000100 actionMask 0 8 = none := fun _ => rfl
  have hhold : ∀ cur, written cur 0xA5000100 actionMask 16 1 = none := fun _ => rfl
  have hact : fieldOf (0xA5000100 &&& actionMask) 8 4 = 1 := by decide
  have hconfirm : fieldOf (0xA5000100 &&& actionMask) 24 8 = 0xA5 := by decide
  have hbit : (bit s.clock.bootHold != 0) = s.clock.bootHold := by cases s.clock.bootHold <;> rfl
  show s.writeDevCtrl 0xA5000100 actionMask = _
  simp only [State.writeDevCtrl, hpct, hhold, hact, hconfirm, Option.getD_none, hbit]
  simp [refusedC, pendC, State.onClock, hallow, State.askReset, ResetKind.act]

theorem exec_softReset (hserves : s.serves 0x03 = true) (hallow : s.warmRefused = false) :
    exec .softReset s = .next (s.respondedOk.startReset .soft) := by
  have hput := regPut_softReset (s := s.onLink fun l => { l with act := .none }) hallow
  have hwrite := regWrite_serves (v := 0xA5000100) (mask := actionMask) hserves (by decide)
  rw [hput] at hwrite
  show Host.Outcome.next (s.busWrite 0x03 0xA5000100 actionMask) = _
  unfold State.busWrite
  rw [serves_busOpen hserves, hwrite]
  exact congrArg Host.Outcome.next (endAccess_askReset (s.onLink fun l => { l with act := .none }) .soft 0x02 (serves_idle hserves))

end ResetCommands

/-! ### VIN POR (R460, R478) -/

/-- The state in which an armed VIN POR powers the main domain up: VIN is back, and BOOT_SRC counts as sampled. -/
def State.vinBack (s : State) : State :=
  (((s.onPower fun p => { p with vin := true, brown := false }).dropCause .powerVinOv).resetSource 1).onClock fun c =>
    { c with vinArmed := false, bootAs00 := false, snuffMount := false }

theorem exec_vinPor_armed {s : State} (hvaux : s.clock.vauxPor = false) (hoff : s.clock.mainPwr = false)
    (harmed : s.clock.vinArmed = true) (hin : s.power.absent = false) : exec .vinPor s = .next (s.vinBack.powerUp true) := by
  have hstays : (s.clock.mainPwr || !s.clock.vinArmed) = false := by rw [hoff, harmed]; rfl
  show execVinPor s = _
  unfold execVinPor
  rw [hvaux, hin]
  exact if_neg (ne_true_of_eq_false hstays)

/-! ### The boot ROM's choice (R429, R476 to R478) -/

section BootRom

variable {s : State} {a b : Bool}

/-- The BOOT_SRC that this start takes (R478). -/
def State.takenSrc (s : State) : BitVec 2 := if s.clock.bootAs00 then 0 else s.clock.bootSrc

/-- The slot whose image starts, once the boot check is made; a and b say whether the images pass their margin reads. -/
def State.bootSlot (s : State) (a b : Bool) : Option Bool :=
  let t := s.bootCheck []
  t.pickSlot s.takenSrc (t.wick.slotStarts false a) (t.wick.slotStarts true b)

/-- The state once the choice is made: the BOOT record is brought up to date where it was asked, and a
BOOT_SRC taken as 0 is used up. -/
def State.slotChosen (s : State) : State :=
  let t := s.bootCheck []
  (if s.takenSrc = 0 then t.onWick WickState.startRecord else t).onClock fun c => { c with bootAs00 := false }

theorem slotChosen_clock (s : State) : s.slotChosen.clock = { s.clock with bootAs00 := false } := by
  unfold State.slotChosen
  dsimp only
  split <;> simp only [State.onClock_clock, State.onWick_clock, bootCheck_clock]

theorem startSlot_clock (s : State) (slotB : Bool) :
    (s.startSlot slotB).clock = { s.clock with phase := .discovery, image := if slotB then 1 else 0 } := rfl

theorem enterDownload_clock (s : State) :
    s.enterDownload.clock = { s.clock with phase := .done, image := 2, dev := .download } := setDev_clock _ _

theorem pickSlot_three (s : State) (aOk bOk : Bool) : s.pickSlot 3 aOk bOk = none := rfl

theorem pickSlot_named {aOk bOk : Bool} (h : (if s.wick.namedSlot then bOk else aOk) = true) :
    s.pickSlot 0 aOk bOk = some s.wick.namedSlot := if_pos h

theorem bootSlot_download (htaken : s.clock.bootAs00 = false) (hsrc : s.clock.bootSrc = 3) : s.bootSlot a b = none := by
  simp only [State.bootSlot, State.takenSrc, htaken, Bool.false_eq_true, if_false, hsrc, pickSlot_three]

/-- With BOOT_SRC taken as 0 the slot that the BOOT record names is started where it can start. -/
theorem bootSlot_named (htaken : s.clock.bootAs00 = true)
    (hok : (s.bootCheck []).wick.slotStarts (s.bootCheck []).wick.namedSlot
      (if (s.bootCheck []).wick.namedSlot then b else a) = true) :
    s.bootSlot a b = some (s.bootCheck []).wick.namedSlot := by
  simp only [State.bootSlot, State.takenSrc, htaken, if_true]
  refine pickSlot_named ?_
  cases hn : (s.bootCheck []).wick.namedSlot <;> rw [hn] at hok <;> exact hok

/-- The state in which the boot ROM hands over, or enters DOWNLOAD (R472, R477). -/
def State.booted (s : State) (a b : Bool) : State :=
  (s.bootSlot a b).elim s.slotChosen.enterDownload s.slotChosen.startSlot

theorem exec_bootImageLoad (hphase : s.clock.phase = .image) (hhold : s.clock.bootHold = false)
    (hup : s.stopped .front = false) : exec (.bootImageLoad a b) s = .next (s.booted a b) := by
  show execBootImageLoad a b s = _
  rw [execBootImageLoad, hphase, hhold, hup, State.booted]
  cases hslot : s.bootSlot a b <;>
  · simp only [State.bootSlot, State.takenSrc] at hslot
    simp only [ne_eq, not_true_eq_false, hslot]
    rfl

/-- Whatever the boot ROM chooses, it uses up a BOOT_SRC that was taken as 0. -/
theorem booted_bootAs00 (s : State) (a b : Bool) : (s.booted a b).clock.bootAs00 = false := by
  unfold State.booted
  cases s.bootSlot a b with
  | none => rw [Option.elim_none, enterDownload_clock, slotChosen_clock]
  | some slotB => rw [Option.elim_some, startSlot_clock, slotChosen_clock]

theorem booted_download (hslot : s.bootSlot a b = none) : s.booted a b = s.slotChosen.enterDownload := by
  rw [State.booted, hslot, Option.elim_none]

theorem booted_slot {slotB : Bool} (hslot : s.bootSlot a b = some slotB) : s.booted a b = s.slotChosen.startSlot slotB := by
  rw [State.booted, hslot, Option.elim_some]

end BootRom

/-- Settles O57: each reset by what it leaves of bootAs00, the boot ROM by the slot it picks; what was sampled stands by the law of every
command. -/
theorem resetsChooseTheBootSource : Obligations.ResetsChooseTheBootSource := by
  unfold Obligations.ResetsChooseTheBootSource
  refine ⟨fun s hdev hopen => ⟨fun hallow hpwr => ?_, fun hserves hallow hpwr => ?_, fun hallow => ?_⟩,
    fun s hvaux hoff harmed hin => ?_, fun s a b hphase hhold hup => ?_⟩
  · have hx := exec_resetCmdWarm hopen hallow
    exact ⟨_, hx, startReset_warm_or_soft_download nofun hdev hallow hpwr, exec_bootSrc hx nofun⟩
  · have hx := exec_softReset hserves hallow
    exact ⟨_, hx, startReset_warm_or_soft_download nofun hdev hallow hpwr, exec_bootSrc hx nofun⟩
  · have hx := exec_resetCmdCold hopen hallow
    exact ⟨_, hx, startReset_cold_download hdev hallow, exec_bootSrc hx nofun⟩
  · have hx := exec_vinPor_armed hvaux hoff harmed hin
    exact ⟨_, hx, powerUp_bootAs00 s.vinBack true, exec_bootSrc hx nofun⟩
  · have hx := exec_bootImageLoad (a := a) (b := b) hphase hhold hup
    refine ⟨_, hx, booted_bootAs00 s a b, exec_bootSrc hx nofun, fun htaken hsrc => ?_, fun htaken hok => ?_⟩
    · rw [booted_download (bootSlot_download htaken hsrc), enterDownload_clock]
    · rw [booted_slot (bootSlot_named htaken hok), startSlot_clock, slotChosen_clock]
      exact ⟨rfl, rfl, rfl⟩

end Sys2Proof.Machine

/-! # What every command keeps: its frame, the invariant, the cycle number -/

namespace Sys2Proof.Machine
open Sys2Proof

/-- The parts of State that a command may write. -/
def commandTouch : Instr → Touch
  | .vauxPorRelease _ => { clock := true, lamp := true, link := true, fault := true, intake := true }
  | .vauxLoss | .vauxPorAssert | .holdWindowEnd | .vauxReturn => { clock := true }
  | .phaseInEdge _ _ | .windowOpen _ | .windowEnd _ => { lamp := true }
  | .linkDeselect | .chainedIFrame _ _ | .length255Frame | .resyncReq | .abortReq | .checkReq _ | .switchRevert | .wake | .echo _ =>
    { link := true }
  | .trainFail | .shadowEnd _ => { fault := true }
  | .zqCalibrationShort _ | .tempRetrain _ _ | .tokenWaitAge _ _ | .mediaParity _ _ _ | .mediaErase _ _ _ | .markRead _ _ _ |
    .refreshUrgentAge _ _ => { media := true }
  | .perstDeassert | .d3hotEntry | .d0Return | .bar0Read _ _ | .caskQuery _ | .completionPost _ | .coalesceTimeout _ | .sealMarkAbandon |
    .configWrite _ _ _ _ _ _ _ _ _ _ => { host := true }
  | .thermalLimitRecompute _ | .gaugeMeasurement | .presentLowQualify => { power := true }
  | .wickReadMargin _ | .wickErase _ | .wickEraseSuspend | .wickEraseResume | .otpProgram _ _ | .rotate | .eraseAutoResume | .wickBrownout _ |
    .anchorTokenAdd => { wick := true }
  | .poisonRebuild _ _ => { mem := true }
  | .healthMinute => { health := true }
  | .pllLock _ => { clock := true, power := true }
  | .protocolSelect _ _ | .frameCrcError => { link := true, health := true }
  | .retrainCheck _ _ | .descriptorStart _ _ _ _ => { fault := true, media := true }
  | .descriptorFetch _ _ | .dlActive => { fault := true, host := true }
  | .railUv _ _ | .railOv _ | .railOc _ _ | .chargeTimeout _ | .tempSample _ _ _ _ _ _ => { fault := true, power := true }
  | .wickProgram _ _ _ | .planeAccessSuspend _ _ => { fault := true, wick := true }
  | .functionLevelReset | .tailDoorbell _ _ | .headDoorbell _ _ | .setupRecordWrite _ _ _ _ | .mirrorBaseWrite _ => { intake := true, host := true }
  | .closeDoorbell _ _ | .bar2BadWrite _ _ => { intake := true, health := true }
  | .mediaProgram _ _ _ _ | .piecePlacement _ | .runPageWrite | .snuffBandCheck _ _ => { media := true, place := true }
  | .feature _ _ => { media := true, draws := true }
  | .bandRelease _ => { place := true, journal := true }
  | .readStream _ _ => { place := true, host := true }
  | .perstAssert => { clock := true, intake := true, host := true }
  | .fuseMapRead _ => { clock := true, wick := true, draws := true }
  | .tickLost _ _ _ => { lamp := true, link := true, host := true }
  | .tailGraceExpire _ => { lamp := true, intake := true, health := true }
  | .creditGrant => { link := true, intake := true, host := true }
  | .novvenHeader _ _ _ _ _ => { link := true, journal := true, health := true }
  | .anchorPairWrite _ _ _ _ _ => { fault := true, journal := true, wick := true }
  | .scrubAccess _ _ _ | .eccEntryExamine => { fault := true, mem := true, health := true }
  | .wtFlushStart => { intake := true, media := true, place := true }
  | .sealStart | .journalTailCommit => { media := true, place := true, journal := true }
  | .gristMiss _ | .readRandom _ _ => { media := true, place := true, host := true }
  | .cycCountRead | .frontierLoRead _ => { lamp := true, link := true, intake := true, draws := true }
  | .wickDescComplete _ _ _ => { link := true, fault := true, host := true, wick := true }
  | .setMailboxWrite _ _ => { link := true, intake := true, host := true, health := true }
  | .scrubVisit _ _ _ _ => { link := true, media := true, host := true, health := true }
  | .cellarPageFetched _ _ => { link := true, place := true, host := true, health := true }
  | .surpriseDown _ => { fault := true, intake := true, host := true, health := true }
  | .channelTraining _ _ | .channelRetrain _ _ | .dieTimeout _ _ _ _ _ | .rebuild _ _ | .spargeCopy _ _ | .refreshRewrite _ _ _ =>
    { fault := true, media := true, place := true, health := true }
  | .writeRandom _ | .dataFetchDone _ _ => { intake := true, media := true, place := true, host := true }
  | .memoryFill => { clock := true, link := true, fault := true, intake := true, host := true }
  | .bootImageLoad _ _ => { clock := true, link := true, intake := true, host := true, wick := true }
  | .energyShortfallTimeout => { clock := true, link := true, intake := true, host := true, health := true }
  | .resetDie _ _ _ => { fault := true, media := true, place := true, health := true, draws := true }
  | .apertureWrite _ _ _ _ _ => { link := true, fault := true, intake := true, place := true, host := true, health := true }
  | .mediaRead _ _ _ | .descriptorComplete _ _ _ | .kilnBatch _ =>
    { link := true, fault := true, media := true, place := true, host := true, health := true }
  | .mediaDiscovery _ => { link := true, fault := true, media := true, place := true, health := true, draws := true }
  | .gaugeDeferFail | .gaugeMeasurementDone _ _ _ | .energyAvailUpdate _ =>
    { clock := true, link := true, fault := true, intake := true, host := true, power := true, health := true }
  | .firmwareStart => { clock := true, link := true, intake := true, place := true, host := true, wick := true, draws := true }
  | .unitRestartRelease _ =>
    { clock := true, link := true, fault := true, intake := true, media := true, host := true, power := true, health := true }
  | .sealComplete =>
    { lamp := true, link := true, fault := true, intake := true, media := true, place := true, journal := true, host := true, health := true }
  | .marker _ _ | .generatedMarker _ | .acquireSynthMarker _ | .flywheelSynthMarker _ | .tickLimitMarker _ =>
    { Touch.all with power := false, snuff := false, wick := false, mem := false, draws := false }
  | .vinPor | .bankLowAbort | .hostRFrame _ _ | .dupMismatch _ _ _ | .pllLockTimeout _ =>
    { Touch.all with cyc := false, lamp := false, draws := false }
  | .removalDetect _ | .brownOut _ _ | .errorReport _ _ | .watchdog _ | .pllUnlock _ => { Touch.all with cyc := false, draws := false }
  | .novvenRead => { Touch.all with cyc := false, snuff := false }
  | .cycSrcWrite _ _ | .cycPeriodWrite _ | .cycCountHiWrite _ | .cycCountWrite _ | .planWinWrite _ | .registerWrite _ _ _ | .stCmdOpen |
    .stCmdEnd | .stCmdResume | .stCmdDelete | .tunAck _ | .mirrorWrite _ | .stTrimHiWrite _ | .stTrimLoWrite _ | .streamSelWrite _ |
    .throughNoteProgrammed | .cryptoErase | .softReset | .bootHoldWrite _ | .recovery _ | .indAddrWrite _ | .indDataAccess _ | .gaugeNow |
    .snufferFlush _ | .linkReset | .messageReceive _ _ _ | .readReg _ _ | .writeReg _ _ | .writeMasked _ _ _ | .indRead _ _ | .indWrite _ _
    | .resetCmdLink | .resetCmdWarm | .resetCmdCold | .switch _ _ | .sleep | .novvenWrite _ _ | .novvenReset | .irqEnableWrite _ |
    .faultAckWrite _ | .faultAckSelf | .setCtrlWrite _ | .memRetireWrite _ | .memPwrWrite _ | .memTestEnWrite _ | .memTestRead |
    .memTestWriteRaw | .memTestWriteChecked | .wickSubmit _ | .wickDoneTake | .cellarBaseWrite _ _ => { Touch.all with cyc := false }

/-- What of t may differ from s where only the parts named in L were written. -/
def Touch.frame (L : Touch) (s t : State) : State :=
  { clock := bif L.clock then t.clock else s.clock,
    lamp := bif L.lamp then t.lamp else s.lamp,
    link := bif L.link then t.link else s.link,
    fault := bif L.fault then t.fault else s.fault,
    intake := bif L.intake then t.intake else s.intake,
    media := bif L.media then t.media else s.media,
    place := bif L.place then t.place else s.place,
    journal := bif L.journal then t.journal else s.journal,
    host := bif L.host then t.host else s.host,
    power := bif L.power then t.power else s.power,
    snuff := bif L.snuff then t.snuff else s.snuff,
    wick := bif L.wick then t.wick else s.wick,
    mem := bif L.mem then t.mem else s.mem,
    health := bif L.health then t.health else s.health,
    draws := bif L.draws then t.draws else s.draws,
    pending := s.pending }

/-- A part that may be written only where L names it. -/
theorem cond_frame {α : Type} {b : Bool} {x y : α} (h : b = false → y = x) : y = bif b then y else x := by
  cases b with
  | false => exact h rfl
  | true => rfl

theorem Keeps.frame {L : Touch} {s t : State} (h : Keeps L s t) : t = L.frame s t := by
  rw [Touch.frame, ← cond_frame h.clockF, ← cond_frame h.lampF, ← cond_frame h.linkF, ← cond_frame h.faultF, ← cond_frame h.intakeF, ← cond_frame h.mediaF, ← cond_frame h.placeF, ← cond_frame h.journalF, ← cond_frame h.hostF, ← cond_frame h.powerF, ← cond_frame h.snuffF, ← cond_frame h.wickF, ← cond_frame h.memF, ← cond_frame h.healthF, ← cond_frame h.drawsF, ← h.pending]

theorem commandTouch_frame (c : Instr) (s t : State) : (commandTouch c).frame s t = commandFrame c s t := by
  cases c <;> rfl

/-- Every command but the release of VAUX POR keeps what it may not write. -/
theorem keeps_exec_commandTouch (c : Instr) (s t : State) (hc : ∀ p, c ≠ .vauxPorRelease p) (hx : exec c s = .next t) :
    Keeps (commandTouch c) s t := by
  cases c with
  | phaseInEdge sinceNs pos => exact keeps_execPhaseInEdge sinceNs pos (Keeps.refl _ s) rfl t hx
  | marker pos m => exact keeps_execMarker pos m (Keeps.refl _ s) rfl rfl rfl rfl rfl rfl rfl rfl rfl rfl rfl t hx
  | generatedMarker m => exact keeps_execGeneratedMarker m (Keeps.refl _ s) rfl rfl rfl rfl rfl rfl rfl rfl rfl rfl rfl t hx
  | acquireSynthMarker m => exact keeps_execAcquireSynthMarker m (Keeps.refl _ s) rfl rfl rfl rfl rfl rfl rfl rfl rfl rfl rfl t hx
  | flywheelSynthMarker m => exact keeps_execFlywheelSynthMarker m (Keeps.refl _ s) rfl rfl rfl rfl rfl rfl rfl rfl rfl rfl rfl t hx
  | tickLimitMarker m => exact keeps_execTickLimitMarker m (Keeps.refl _ s) rfl rfl rfl rfl rfl rfl rfl rfl rfl rfl rfl t hx
  | tickLost pos edges spanClocks => exact keeps_execTickLost pos edges spanClocks (Keeps.refl _ s) rfl rfl rfl t hx
  | windowOpen pos => exact keeps_execWindowOpen pos (Keeps.refl _ s) rfl t hx
  | windowEnd pos => exact keeps_execWindowEnd pos (Keeps.refl _ s) rfl t hx
  | tailGraceExpire pos => exact keeps_execTailGraceExpire pos (Keeps.refl _ s) rfl rfl rfl t hx
  | sealStart => exact keeps_execSealStart (Keeps.refl _ s) rfl rfl rfl t hx
  | sealComplete => exact keeps_execSealComplete (Keeps.refl _ s) rfl rfl rfl rfl rfl rfl rfl rfl rfl t hx
  | closeDoorbell stream c => exact keeps_execCloseDoorbell stream c (Keeps.refl _ s) rfl rfl t hx
  | cycSrcWrite v mask => exact keeps_execCycSrcWrite v mask (Keeps.refl _ s) rfl rfl rfl rfl rfl rfl rfl rfl rfl rfl rfl rfl rfl rfl rfl t hx
  | cycPeriodWrite v => exact keeps_execCycPeriodWrite v (Keeps.refl _ s) rfl rfl rfl rfl rfl rfl rfl rfl rfl rfl rfl rfl rfl rfl rfl t hx
  | cycCountRead => exact keeps_execCycCountRead (Keeps.refl _ s) rfl rfl rfl rfl t hx
  | cycCountHiWrite v => exact keeps_execCycCountHiWrite v (Keeps.refl _ s) rfl rfl rfl rfl rfl rfl rfl rfl rfl rfl rfl rfl rfl rfl rfl t hx
  | cycCountWrite v => exact keeps_execCycCountWrite v (Keeps.refl _ s) rfl rfl rfl rfl rfl rfl rfl rfl rfl rfl rfl rfl rfl rfl rfl t hx
  | planWinWrite v => exact keeps_execPlanWinWrite v (Keeps.refl _ s) rfl rfl rfl rfl rfl rfl rfl rfl rfl rfl rfl rfl rfl rfl rfl t hx
  | registerWrite addr v mask =>
    exact keeps_execRegisterWrite addr v mask (Keeps.refl _ s) rfl rfl rfl rfl rfl rfl rfl rfl rfl rfl rfl rfl rfl rfl rfl t hx
  | stCmdOpen => exact keeps_execStCmdOpen (Keeps.refl _ s) rfl rfl rfl rfl rfl rfl rfl rfl rfl rfl rfl rfl rfl rfl rfl t hx
  | stCmdEnd => exact keeps_execStCmdEnd (Keeps.refl _ s) rfl rfl rfl rfl rfl rfl rfl rfl rfl rfl rfl rfl rfl rfl rfl t hx
  | stCmdResume => exact keeps_execStCmdResume (Keeps.refl _ s) rfl rfl rfl rfl rfl rfl rfl rfl rfl rfl rfl rfl rfl rfl rfl t hx
  | stCmdDelete => exact keeps_execStCmdDelete (Keeps.refl _ s) rfl rfl rfl rfl rfl rfl rfl rfl rfl rfl rfl rfl rfl rfl rfl t hx
  | apertureWrite off data be ep eccBad => exact keeps_execApertureWrite off data be ep eccBad (Keeps.refl _ s) rfl rfl rfl rfl rfl rfl t hx
  | tunAck stream => exact keeps_execTunAck stream (Keeps.refl _ s) rfl rfl rfl rfl rfl rfl rfl rfl rfl rfl rfl rfl rfl rfl rfl t hx
  | mirrorWrite stream => exact keeps_execMirrorWrite stream (Keeps.refl _ s) rfl rfl rfl rfl rfl rfl rfl rfl rfl rfl rfl rfl rfl rfl rfl t hx
  | frontierLoRead f => exact keeps_execFrontierLoRead f (Keeps.refl _ s) rfl rfl rfl rfl t hx
  | stTrimHiWrite v => exact keeps_execStTrimHiWrite v (Keeps.refl _ s) rfl rfl rfl rfl rfl rfl rfl rfl rfl rfl rfl rfl rfl rfl rfl t hx
  | stTrimLoWrite v => exact keeps_execStTrimLoWrite v (Keeps.refl _ s) rfl rfl rfl rfl rfl rfl rfl rfl rfl rfl rfl rfl rfl rfl rfl t hx
  | streamSelWrite v => exact keeps_execStreamSelWrite v (Keeps.refl _ s) rfl rfl rfl rfl rfl rfl rfl rfl rfl rfl rfl rfl rfl rfl rfl t hx
  | creditGrant => exact keeps_execCreditGrant (Keeps.refl _ s) rfl rfl rfl t hx
  | energyShortfallTimeout => exact keeps_execEnergyShortfallTimeout (Keeps.refl _ s) rfl rfl rfl rfl rfl t hx
  | wtFlushStart => exact keeps_execWtFlushStart (Keeps.refl _ s) rfl rfl rfl t hx
  | throughNoteProgrammed =>
    exact keeps_execThroughNoteProgrammed (Keeps.refl _ s) rfl rfl rfl rfl rfl rfl rfl rfl rfl rfl rfl rfl rfl rfl rfl t hx
  | cryptoErase => exact keeps_execCryptoErase (Keeps.refl _ s) rfl rfl rfl rfl rfl rfl rfl rfl rfl rfl rfl rfl rfl rfl rfl t hx
  | softReset => exact keeps_execSoftReset (Keeps.refl _ s) rfl rfl rfl rfl rfl rfl rfl rfl rfl rfl rfl rfl rfl rfl rfl t hx
  | bootHoldWrite hold => exact keeps_execBootHoldWrite hold (Keeps.refl _ s) rfl rfl rfl rfl rfl rfl rfl rfl rfl rfl rfl rfl rfl rfl rfl t hx
  | journalTailCommit => exact keeps_execJournalTailCommit (Keeps.refl _ s) rfl rfl rfl t hx
  | perstAssert => exact keeps_execPerstAssert (Keeps.refl _ s) rfl rfl rfl t hx
  | recovery r => exact keeps_execRecovery r (Keeps.refl _ s) rfl rfl rfl rfl rfl rfl rfl rfl rfl rfl rfl rfl rfl rfl rfl t hx
  | mediaDiscovery d => exact keeps_execMediaDiscovery d (Keeps.refl _ s) rfl rfl rfl rfl rfl rfl t hx
  | channelTraining ch pass => exact keeps_execChannelTraining ch pass (Keeps.refl _ s) rfl rfl rfl rfl t hx
  | zqCalibrationShort ch => exact keeps_execZqCalibrationShort ch (Keeps.refl _ s) rfl t hx
  | retrainCheck ch pass => exact keeps_execRetrainCheck ch pass (Keeps.refl _ s) rfl rfl t hx
  | tempRetrain ch elapsedS => exact keeps_execTempRetrain ch elapsedS (Keeps.refl _ s) rfl t hx
  | channelRetrain ch pass => exact keeps_execChannelRetrain ch pass (Keeps.refl _ s) rfl rfl rfl rfl t hx
  | descriptorStart ch subs slot eccBad => exact keeps_execDescriptorStart ch subs slot eccBad (Keeps.refl _ s) rfl rfl t hx
  | tokenWaitAge ch slot => exact keeps_execTokenWaitAge ch slot (Keeps.refl _ s) rfl t hx
  | mediaRead ch slot r => exact keeps_execMediaRead ch slot r (Keeps.refl _ s) rfl rfl rfl rfl rfl rfl t hx
  | mediaProgram ch slot notErased failed => exact keeps_execMediaProgram ch slot notErased failed (Keeps.refl _ s) rfl rfl t hx
  | mediaParity ch slot failed => exact keeps_execMediaParity ch slot failed (Keeps.refl _ s) rfl t hx
  | mediaErase ch slot failed => exact keeps_execMediaErase ch slot failed (Keeps.refl _ s) rfl t hx
  | markRead ch slot marked => exact keeps_execMarkRead ch slot marked (Keeps.refl _ s) rfl t hx
  | feature ch slot => exact keeps_execFeature ch slot (Keeps.refl _ s) rfl rfl t hx
  | resetDie ch slot idMatches => exact keeps_execResetDie ch slot idMatches (Keeps.refl _ s) rfl rfl rfl rfl rfl t hx
  | dieTimeout ch slot readyAgain idMatches inSecond =>
    exact keeps_execDieTimeout ch slot readyAgain idMatches inSecond (Keeps.refl _ s) rfl rfl rfl rfl t hx
  | descriptorComplete ch slot e => exact keeps_execDescriptorComplete ch slot e (Keeps.refl _ s) rfl rfl rfl rfl rfl rfl t hx
  | rebuild ch m => exact keeps_execRebuild ch m (Keeps.refl _ s) rfl rfl rfl rfl t hx
  | kilnBatch m => exact keeps_execKilnBatch m (Keeps.refl _ s) rfl rfl rfl rfl rfl rfl t hx
  | spargeCopy band m => exact keeps_execSpargeCopy band m (Keeps.refl _ s) rfl rfl rfl rfl t hx
  | refreshRewrite ch band m => exact keeps_execRefreshRewrite ch band m (Keeps.refl _ s) rfl rfl rfl rfl t hx
  | refreshUrgentAge ch band => exact keeps_execRefreshUrgentAge ch band (Keeps.refl _ s) rfl t hx
  | bandRelease band => exact keeps_execBandRelease band (Keeps.refl _ s) rfl rfl t hx
  | piecePlacement stream => exact keeps_execPiecePlacement stream (Keeps.refl _ s) rfl rfl t hx
  | runPageWrite => exact keeps_execRunPageWrite (Keeps.refl _ s) rfl rfl t hx
  | gristMiss page => exact keeps_execGristMiss page (Keeps.refl _ s) rfl rfl rfl t hx
  | cellarPageFetched page r => exact keeps_execCellarPageFetched page r (Keeps.refl _ s) rfl rfl rfl rfl t hx
  | snuffBandCheck firstErased secondErased => exact keeps_execSnuffBandCheck firstErased secondErased (Keeps.refl _ s) rfl rfl t hx
  | scrubVisit ch band last further => exact keeps_execScrubVisit ch band last further (Keeps.refl _ s) rfl rfl rfl rfl t hx
  | healthMinute => exact keeps_execHealthMinute (Keeps.refl _ s) rfl t hx
  | indAddrWrite v => exact keeps_execIndAddrWrite v (Keeps.refl _ s) rfl rfl rfl rfl rfl rfl rfl rfl rfl rfl rfl rfl rfl rfl rfl t hx
  | indDataAccess w => exact keeps_execIndDataAccess w (Keeps.refl _ s) rfl rfl rfl rfl rfl rfl rfl rfl rfl rfl rfl rfl rfl rfl rfl t hx
  | vinPor => exact keeps_execVinPor (Keeps.refl _ s) rfl rfl rfl rfl rfl rfl rfl rfl rfl rfl rfl rfl rfl t hx
  | railUv r below => exact keeps_execRailUv r below (Keeps.refl _ s) rfl rfl t hx
  | railOv r => exact keeps_execRailOv r (Keeps.refl _ s) rfl rfl t hx
  | railOc r beyond => exact keeps_execRailOc r beyond (Keeps.refl _ s) rfl rfl t hx
  | chargeTimeout vbankMv => exact keeps_execChargeTimeout vbankMv (Keeps.refl _ s) rfl rfl t hx
  | tempSample ctrl0 ctrl1 ctrl2 ctrl3 pwr wick => exact keeps_execTempSample ctrl0 ctrl1 ctrl2 ctrl3 pwr wick (Keeps.refl _ s) rfl rfl t hx
  | thermalLimitRecompute higherForMs => exact keeps_execThermalLimitRecompute higherForMs (Keeps.refl _ s) rfl t hx
  | gaugeMeasurement => exact keeps_execGaugeMeasurement (Keeps.refl _ s) rfl t hx
  | gaugeNow => exact keeps_execGaugeNow (Keeps.refl _ s) rfl rfl rfl rfl rfl rfl rfl rfl rfl rfl rfl rfl rfl rfl rfl t hx
  | gaugeDeferFail => exact keeps_execGaugeDeferFail (Keeps.refl _ s) rfl rfl rfl rfl rfl rfl rfl t hx
  | gaugeMeasurementDone v0 v1 v2 => exact keeps_execGaugeMeasurementDone v0 v1 v2 (Keeps.refl _ s) rfl rfl rfl rfl rfl rfl rfl t hx
  | energyAvailUpdate vbankMv => exact keeps_execEnergyAvailUpdate vbankMv (Keeps.refl _ s) rfl rfl rfl rfl rfl rfl rfl t hx
  | removalDetect pos => exact keeps_execRemovalDetect pos (Keeps.refl _ s) rfl rfl rfl rfl rfl rfl rfl rfl rfl rfl rfl rfl rfl rfl t hx
  | presentLowQualify => exact keeps_execPresentLowQualify (Keeps.refl _ s) rfl t hx
  | brownOut beyond pos => exact keeps_execBrownOut beyond pos (Keeps.refl _ s) rfl rfl rfl rfl rfl rfl rfl rfl rfl rfl rfl rfl rfl rfl t hx
  | vauxLoss => exact keeps_execVauxLoss (Keeps.refl _ s) rfl t hx
  | snufferFlush left => exact keeps_execSnufferFlush left (Keeps.refl _ s) rfl rfl rfl rfl rfl rfl rfl rfl rfl rfl rfl rfl rfl rfl rfl t hx
  | bankLowAbort => exact keeps_execBankLowAbort (Keeps.refl _ s) rfl rfl rfl rfl rfl rfl rfl rfl rfl rfl rfl rfl rfl t hx
  | perstDeassert => exact keeps_execPerstDeassert (Keeps.refl _ s) rfl t hx
  | trainFail => exact keeps_execTrainFail (Keeps.refl _ s) rfl t hx
  | surpriseDown kind => exact keeps_execSurpriseDown kind (Keeps.refl _ s) rfl rfl rfl rfl t hx
  | functionLevelReset => exact keeps_execFunctionLevelReset (Keeps.refl _ s) rfl rfl t hx
  | d3hotEntry => exact keeps_execD3hotEntry (Keeps.refl _ s) rfl t hx
  | d0Return => exact keeps_execD0Return (Keeps.refl _ s) rfl t hx
  | bar0Read off len => exact keeps_execBar0Read off len (Keeps.refl _ s) rfl t hx
  | tailDoorbell ring v => exact keeps_execTailDoorbell ring v (Keeps.refl _ s) rfl rfl t hx
  | headDoorbell ring v => exact keeps_execHeadDoorbell ring v (Keeps.refl _ s) rfl rfl t hx
  | setupRecordWrite completion ring off data => exact keeps_execSetupRecordWrite completion ring off data (Keeps.refl _ s) rfl rfl t hx
  | mirrorBaseWrite v => exact keeps_execMirrorBaseWrite v (Keeps.refl _ s) rfl rfl t hx
  | setMailboxWrite slot data => exact keeps_execSetMailboxWrite slot data (Keeps.refl _ s) rfl rfl rfl rfl t hx
  | bar2BadWrite off len => exact keeps_execBar2BadWrite off len (Keeps.refl _ s) rfl rfl t hx
  | descriptorFetch r eccBad => exact keeps_execDescriptorFetch r eccBad (Keeps.refl _ s) rfl rfl t hx
  | readStream id back => exact keeps_execReadStream id back (Keeps.refl _ s) rfl rfl t hx
  | readRandom id back => exact keeps_execReadRandom id back (Keeps.refl _ s) rfl rfl rfl t hx
  | writeRandom id => exact keeps_execWriteRandom id (Keeps.refl _ s) rfl rfl rfl rfl t hx
  | dataFetchDone id r => exact keeps_execDataFetchDone id r (Keeps.refl _ s) rfl rfl rfl rfl t hx
  | caskQuery id => exact keeps_execCaskQuery id (Keeps.refl _ s) rfl t hx
  | completionPost id => exact keeps_execCompletionPost id (Keeps.refl _ s) rfl t hx
  | coalesceTimeout ring => exact keeps_execCoalesceTimeout ring (Keeps.refl _ s) rfl t hx
  | sealMarkAbandon => exact keeps_execSealMarkAbandon (Keeps.refl _ s) rfl t hx
  | linkReset => exact keeps_execLinkReset (Keeps.refl _ s) rfl rfl rfl rfl rfl rfl rfl rfl rfl rfl rfl rfl rfl rfl rfl t hx
  | linkDeselect => exact keeps_execLinkDeselect (Keeps.refl _ s) rfl t hx
  | protocolSelect ch parityFails => exact keeps_execProtocolSelect ch parityFails (Keeps.refl _ s) rfl rfl t hx
  | chainedIFrame ns info => exact keeps_execChainedIFrame ns info (Keeps.refl _ s) rfl t hx
  | messageReceive ns nr info =>
    exact keeps_execMessageReceive ns nr info (Keeps.refl _ s) rfl rfl rfl rfl rfl rfl rfl rfl rfl rfl rfl rfl rfl rfl rfl t hx
  | hostRFrame nr reason => exact keeps_execHostRFrame nr reason (Keeps.refl _ s) rfl rfl rfl rfl rfl rfl rfl rfl rfl rfl rfl rfl rfl t hx
  | frameCrcError => exact keeps_execFrameCrcError (Keeps.refl _ s) rfl rfl t hx
  | length255Frame => exact keeps_execLength255Frame (Keeps.refl _ s) rfl t hx
  | resyncReq => exact keeps_execResyncReq (Keeps.refl _ s) rfl t hx
  | abortReq => exact keeps_execAbortReq (Keeps.refl _ s) rfl t hx
  | checkReq pattern => exact keeps_execCheckReq pattern (Keeps.refl _ s) rfl t hx
  | switchRevert => exact keeps_execSwitchRevert (Keeps.refl _ s) rfl t hx
  | readReg addr count => exact keeps_execReadReg addr count (Keeps.refl _ s) rfl rfl rfl rfl rfl rfl rfl rfl rfl rfl rfl rfl rfl rfl rfl t hx
  | writeReg addr data => exact keeps_execWriteReg addr data (Keeps.refl _ s) rfl rfl rfl rfl rfl rfl rfl rfl rfl rfl rfl rfl rfl rfl rfl t hx
  | writeMasked addr mask v =>
    exact keeps_execWriteMasked addr mask v (Keeps.refl _ s) rfl rfl rfl rfl rfl rfl rfl rfl rfl rfl rfl rfl rfl rfl rfl t hx
  | indRead addr count => exact keeps_execIndRead addr count (Keeps.refl _ s) rfl rfl rfl rfl rfl rfl rfl rfl rfl rfl rfl rfl rfl rfl rfl t hx
  | indWrite addr data => exact keeps_execIndWrite addr data (Keeps.refl _ s) rfl rfl rfl rfl rfl rfl rfl rfl rfl rfl rfl rfl rfl rfl rfl t hx
  | resetCmdLink => exact keeps_execResetCmdLink (Keeps.refl _ s) rfl rfl rfl rfl rfl rfl rfl rfl rfl rfl rfl rfl rfl rfl rfl t hx
  | resetCmdWarm => exact keeps_execResetCmdWarm (Keeps.refl _ s) rfl rfl rfl rfl rfl rfl rfl rfl rfl rfl rfl rfl rfl rfl rfl t hx
  | resetCmdCold => exact keeps_execResetCmdCold (Keeps.refl _ s) rfl rfl rfl rfl rfl rfl rfl rfl rfl rfl rfl rfl rfl rfl rfl t hx
  | switch width rate => exact keeps_execSwitch width rate (Keeps.refl _ s) rfl rfl rfl rfl rfl rfl rfl rfl rfl rfl rfl rfl rfl rfl rfl t hx
  | sleep => exact keeps_execSleep (Keeps.refl _ s) rfl rfl rfl rfl rfl rfl rfl rfl rfl rfl rfl rfl rfl rfl rfl t hx
  | wake => exact keeps_execWake (Keeps.refl _ s) rfl t hx
  | echo data => exact keeps_execEcho data (Keeps.refl _ s) rfl t hx
  | novvenHeader op addr count chk fails => exact keeps_execNovvenHeader op addr count chk fails (Keeps.refl _ s) rfl rfl rfl t hx
  | novvenRead => exact keeps_execNovvenRead (Keeps.refl _ s) rfl rfl rfl rfl rfl rfl rfl rfl rfl rfl rfl rfl rfl rfl t hx
  | novvenWrite data chk => exact keeps_execNovvenWrite data chk (Keeps.refl _ s) rfl rfl rfl rfl rfl rfl rfl rfl rfl rfl rfl rfl rfl rfl rfl t hx
  | novvenReset => exact keeps_execNovvenReset (Keeps.refl _ s) rfl rfl rfl rfl rfl rfl rfl rfl rfl rfl rfl rfl rfl rfl rfl t hx
  | irqEnableWrite v => exact keeps_execIrqEnableWrite v (Keeps.refl _ s) rfl rfl rfl rfl rfl rfl rfl rfl rfl rfl rfl rfl rfl rfl rfl t hx
  | faultAckWrite units => exact keeps_execFaultAckWrite units (Keeps.refl _ s) rfl rfl rfl rfl rfl rfl rfl rfl rfl rfl rfl rfl rfl rfl rfl t hx
  | faultAckSelf => exact keeps_execFaultAckSelf (Keeps.refl _ s) rfl rfl rfl rfl rfl rfl rfl rfl rfl rfl rfl rfl rfl rfl rfl t hx
  | setCtrlWrite v => exact keeps_execSetCtrlWrite v (Keeps.refl _ s) rfl rfl rfl rfl rfl rfl rfl rfl rfl rfl rfl rfl rfl rfl rfl t hx
  | memRetireWrite target =>
    exact keeps_execMemRetireWrite target (Keeps.refl _ s) rfl rfl rfl rfl rfl rfl rfl rfl rfl rfl rfl rfl rfl rfl rfl t hx
  | memPwrWrite st => exact keeps_execMemPwrWrite st (Keeps.refl _ s) rfl rfl rfl rfl rfl rfl rfl rfl rfl rfl rfl rfl rfl rfl rfl t hx
  | memTestEnWrite en => exact keeps_execMemTestEnWrite en (Keeps.refl _ s) rfl rfl rfl rfl rfl rfl rfl rfl rfl rfl rfl rfl rfl rfl rfl t hx
  | memTestRead => exact keeps_execMemTestRead (Keeps.refl _ s) rfl rfl rfl rfl rfl rfl rfl rfl rfl rfl rfl rfl rfl rfl rfl t hx
  | memTestWriteRaw => exact keeps_execMemTestWriteRaw (Keeps.refl _ s) rfl rfl rfl rfl rfl rfl rfl rfl rfl rfl rfl rfl rfl rfl rfl t hx
  | memTestWriteChecked => exact keeps_execMemTestWriteChecked (Keeps.refl _ s) rfl rfl rfl rfl rfl rfl rfl rfl rfl rfl rfl rfl rfl rfl rfl t hx
  | wickSubmit tag => exact keeps_execWickSubmit tag (Keeps.refl _ s) rfl rfl rfl rfl rfl rfl rfl rfl rfl rfl rfl rfl rfl rfl rfl t hx
  | wickDoneTake => exact keeps_execWickDoneTake (Keeps.refl _ s) rfl rfl rfl rfl rfl rfl rfl rfl rfl rfl rfl rfl rfl rfl rfl t hx
  | cellarBaseWrite size hi =>
    exact keeps_execCellarBaseWrite size hi (Keeps.refl _ s) rfl rfl rfl rfl rfl rfl rfl rfl rfl rfl rfl rfl rfl rfl rfl t hx
  | errorReport u fresh => exact keeps_execErrorReport u fresh (Keeps.refl _ s) rfl rfl rfl rfl rfl rfl rfl rfl rfl rfl rfl rfl rfl rfl t hx
  | unitRestartRelease u => exact keeps_execUnitRestartRelease u (Keeps.refl _ s) rfl rfl rfl rfl rfl rfl rfl rfl t hx
  | shadowEnd u => exact keeps_execShadowEnd u (Keeps.refl _ s) rfl t hx
  | dupMismatch addr other persists =>
    exact keeps_execDupMismatch addr other persists (Keeps.refl _ s) rfl rfl rfl rfl rfl rfl rfl rfl rfl rfl rfl rfl rfl t hx
  | watchdog c => exact keeps_execWatchdog c (Keeps.refl _ s) rfl rfl rfl rfl rfl rfl rfl rfl rfl rfl rfl rfl rfl rfl t hx
  | wickReadMargin pass => exact keeps_execWickReadMargin pass (Keeps.refl _ s) rfl t hx
  | wickProgram blank verified src => exact keeps_execWickProgram blank verified src (Keeps.refl _ s) rfl rfl t hx
  | wickErase fetchOn => exact keeps_execWickErase fetchOn (Keeps.refl _ s) rfl t hx
  | wickEraseSuspend => exact keeps_execWickEraseSuspend (Keeps.refl _ s) rfl t hx
  | wickEraseResume => exact keeps_execWickEraseResume (Keeps.refl _ s) rfl t hx
  | otpProgram verified src => exact keeps_execOtpProgram verified src (Keeps.refl _ s) rfl t hx
  | rotate => exact keeps_execRotate (Keeps.refl _ s) rfl t hx
  | wickDescComplete eraseOk imageValid slotsBlank =>
    exact keeps_execWickDescComplete eraseOk imageValid slotsBlank (Keeps.refl _ s) rfl rfl rfl rfl t hx
  | planeAccessSuspend sector req => exact keeps_execPlaneAccessSuspend sector req (Keeps.refl _ s) rfl rfl t hx
  | eraseAutoResume => exact keeps_execEraseAutoResume (Keeps.refl _ s) rfl t hx
  | wickBrownout low => exact keeps_execWickBrownout low (Keeps.refl _ s) rfl t hx
  | anchorPairWrite aged waited failA failB slotsBlank =>
    exact keeps_execAnchorPairWrite aged waited failA failB slotsBlank (Keeps.refl _ s) rfl rfl rfl t hx
  | anchorTokenAdd => exact keeps_execAnchorTokenAdd (Keeps.refl _ s) rfl t hx
  | scrubAccess h mem lapMs => exact keeps_execScrubAccess h mem lapMs (Keeps.refl _ s) rfl rfl rfl t hx
  | eccEntryExamine => exact keeps_execEccEntryExamine (Keeps.refl _ s) rfl rfl rfl t hx
  | poisonRebuild mem word => exact keeps_execPoisonRebuild mem word (Keeps.refl _ s) rfl t hx
  | memoryFill => exact keeps_execMemoryFill (Keeps.refl _ s) rfl rfl rfl rfl rfl t hx
  | vauxPorAssert => exact keeps_execVauxPorAssert (Keeps.refl _ s) rfl t hx
  | vauxPorRelease p => exact absurd rfl (hc p)
  | fuseMapRead bad => exact keeps_execFuseMapRead bad (Keeps.refl _ s) rfl rfl rfl t hx
  | pllLock p => exact keeps_execPllLock p (Keeps.refl _ s) rfl rfl t hx
  | pllLockTimeout p => exact keeps_execPllLockTimeout p (Keeps.refl _ s) rfl rfl rfl rfl rfl rfl rfl rfl rfl rfl rfl rfl rfl t hx
  | pllUnlock p => exact keeps_execPllUnlock p (Keeps.refl _ s) rfl rfl rfl rfl rfl rfl rfl rfl rfl rfl rfl rfl rfl rfl t hx
  | holdWindowEnd => exact keeps_execHoldWindowEnd (Keeps.refl _ s) rfl t hx
  | bootImageLoad aValid bValid => exact keeps_execBootImageLoad aValid bValid (Keeps.refl _ s) rfl rfl rfl rfl rfl t hx
  | firmwareStart => exact keeps_execFirmwareStart (Keeps.refl _ s) rfl rfl rfl rfl rfl rfl rfl t hx
  | dlActive => exact keeps_execDlActive (Keeps.refl _ s) rfl rfl t hx
  | configWrite bar0 bar2 mse bme ctl mps mrrs msixOn msixMask msix =>
    exact keeps_execConfigWrite bar0 bar2 mse bme ctl mps mrrs msixOn msixMask msix (Keeps.refl _ s) rfl t hx
  | vauxReturn => exact keeps_execVauxReturn (Keeps.refl _ s) rfl t hx

theorem commandTouch_cyc {c : Instr} (h : markerCommand c = false) : (commandTouch c).cyc = false := by
  cases c with
  | marker | generatedMarker | acquireSynthMarker | flywheelSynthMarker | tickLimitMarker => cases h
  | _ => rfl

/-- The release of VAUX POR writes nothing outside its frame. -/
theorem exec_vauxPorRelease_frame {p : BitVec 4} {s t : State} (hx : exec (.vauxPorRelease p) s = .next t) :
    t = commandFrame (.vauxPorRelease p) s t := by
  change execVauxPorRelease p s = .next t at hx
  unfold execVauxPorRelease at hx
  split at hx <;> cases hx <;> rfl

/-- Settles O60: the law of every command over the parts that it may write, and the release of VAUX POR by its own equation. -/
theorem commandsKeepTheRest : Obligations.CommandsKeepTheRest := by
  unfold Obligations.CommandsKeepTheRest
  intro c s t hx
  by_cases hc : ∃ p, c = .vauxPorRelease p
  · obtain ⟨p, rfl⟩ := hc
    exact exec_vauxPorRelease_frame hx
  · have hkeeps := keeps_exec_commandTouch c s t (fun p hp => hc ⟨p, hp⟩) hx
    exact hkeeps.frame.trans (commandTouch_frame c s t)

/-! ### The step (R10) -/

theorem step_empty {s : State} (h : s.pending = []) : step s = .next s.tick := by
  rw [step, h]

theorem step_front {s : State} {c : Instr} {rest : List Instr} (h : s.pending = c :: rest) :
    step s = exec c { s with pending := rest } := by
  rw [step, h]

/-- Settles O1: the step by the shape of the queue. -/
theorem stepRunsTheFront : Obligations.StepRunsTheFront := by
  unfold Obligations.StepRunsTheFront
  exact fun s c rest => ⟨step_front, fun h => (step_empty h).trans rfl⟩

/-- Settles O3: the tables of the state after reset are empty, or evaluate to canonical ones. -/
theorem resetIsLegal : Obligations.ResetIsLegal := by
  unfold Obligations.ResetIsLegal
  exact ⟨⟨rfl, rfl, rfl, rfl, rfl, rfl⟩, rfl⟩

theorem inv_exec_vauxPorRelease {p : BitVec 4} {s t : State} (hinv : s.Inv) (hx : exec (.vauxPorRelease p) s = .next t) : t.Inv := by
  have ⟨hstreams, hchans, _, hmems, hrails, _⟩ := hinv
  change execVauxPorRelease p s = .next t at hx
  unfold execVauxPorRelease at hx
  split at hx
  · cases hx; exact hinv
  · cases hx; exact ⟨hstreams, hchans, rfl, hmems, hrails, rfl⟩

/-- The invariant says nothing of the queue. -/
theorem inv_dequeued {s : State} (rest : List Instr) (hinv : s.Inv) : State.Inv { s with pending := rest } := hinv

/-- Settles O4: the law of every command, the release of VAUX POR apart, and of the tick. -/
theorem stepKeepsTheInvariant : Obligations.StepKeepsTheInvariant := by
  unfold Obligations.StepKeepsTheInvariant
  intro s t hinv hx
  cases hq : s.pending with
  | nil =>
    cases (step_empty hq).symm.trans hx
    exact (keeps_tick (Keeps.refl Touch.all s) rfl).inv hinv
  | cons c rest =>
    have hrun := (step_front hq).symm.trans hx
    by_cases hc : ∃ p, c = .vauxPorRelease p
    · obtain ⟨p, rfl⟩ := hc
      exact inv_exec_vauxPorRelease (inv_dequeued rest hinv) hrun
    · exact (keeps_exec c _ t (fun p hp => hc ⟨p, hp⟩) hrun).inv (inv_dequeued rest hinv)

/-- Settles O5: the law of every command and of the tick. -/
theorem cycleNumberNeverDecreases : Obligations.CycleNumberNeverDecreases := by
  unfold Obligations.CycleNumberNeverDecreases
  intro s t hinv hnot hx
  cases hq : s.pending with
  | nil =>
    cases (step_empty hq).symm.trans hx
    exact (keeps_tick (Keeps.refl Touch.all s) rfl).cycle hinv
  | cons c rest =>
    have hc : ∀ p, c ≠ .vauxPorRelease p := fun p hp => hnot p (by rw [hq, hp]; rfl)
    exact (keeps_exec c _ t hc ((step_front hq).symm.trans hx)).cycle (inv_dequeued rest hinv)

/-- Settles O6: no command that is no marker may write the cycle number, and none but the release of VAUX POR what the straps selected. -/
theorem onlyMarkersNumberCycles : Obligations.OnlyMarkersNumberCycles := by
  unfold Obligations.OnlyMarkersNumberCycles
  refine ⟨fun c s t hmark hc hx => ?_, fun c s t hc hx => ?_⟩
  · exact (keeps_exec_commandTouch c s t hc hx).cycF (commandTouch_cyc hmark)
  · have hkeeps := keeps_exec c s t hc hx
    exact ⟨hkeeps.bootSrc, hkeeps.clkMode⟩

end Sys2Proof.Machine

/-! # Every well-formed command ends in a next state -/

namespace Sys2Proof.Machine
open Sys2Proof

/-- The command ends in a next state. -/
def Answers (o : Host.Outcome State Fault Refusal) : Prop := ∃ t, o = .next t

theorem answers_next (t : State) : Answers (.next t) := ⟨t, rfl⟩

theorem answers_ite {p : Prop} [Decidable p] {a b : Host.Outcome State Fault Refusal} :
    Answers (if p then a else b) ↔ (p → Answers a) ∧ (¬ p → Answers b) := by
  by_cases h : p <;> simp [h]

theorem single_answers (s : State) (op : LOp) : Answers (s.single op) := by
  unfold State.single
  simp only [↓answers_next, answers_ite, implies_true, and_self]

/-- The commands on which an operand may be ill formed (log 60). -/
def mayFault : Instr → Bool
  | .chainedIFrame _ _ | .messageReceive _ _ _ | .errorReport _ _ | .descriptorFetch _ _ | .dataFetchDone _ _ | .cellarPageFetched _ _ => true
  | _ => false

/-- Every branch of every other command ends in a next state. -/
theorem exec_answers (c : Instr) (s : State) (h : mayFault c = false) : Answers (exec c s) := by
  cases c with
  | chainedIFrame | messageReceive | errorReport | descriptorFetch | dataFetchDone | cellarPageFetched => cases h
  | _ =>
    simp only [exec, 
    execUnitRestartRelease, execShadowEnd, execDupMismatch, execWatchdog, execScrubAccess, execEccEntryExamine, execPoisonRebuild,
    execWickReadMargin, execWickProgram, execWickErase, execWickEraseSuspend, execWickEraseResume, execOtpProgram, execRotate,
    execWickDescComplete, execPlaneAccessSuspend, execEraseAutoResume, execWickBrownout, execAnchorTokenAdd, execPhaseInEdge, execMarker,
    execGeneratedMarker, execAcquireSynthMarker, execFlywheelSynthMarker, execTickLimitMarker, execTickLost, execWindowOpen, execWindowEnd,
    execTailGraceExpire, execSealStart, execSealComplete, execApertureWrite, execCloseDoorbell, execCreditGrant,
    execEnergyShortfallTimeout, execWtFlushStart, execAnchorPairWrite, execKilnBatch, execSpargeCopy, execRefreshRewrite,
    execRefreshUrgentAge, execRebuild, execBandRelease, execPiecePlacement, execRunPageWrite, execJournalTailCommit, execGristMiss,
    execSnuffBandCheck, execMediaDiscovery, execChannelTraining, execZqCalibrationShort, execRetrainCheck, execTempRetrain,
    execChannelRetrain, execDescriptorStart, execTokenWaitAge, execMediaProgram, execMediaParity, execMediaErase, execMarkRead,
    execFeature, execResetDie, execDieTimeout, execMediaRead, execDescriptorComplete, execScrubVisit, execRailUv, execRailOv, execRailOc,
    execChargeTimeout, execTempSample, execThermalLimitRecompute, execHealthMinute, execGaugeMeasurement, execGaugeDeferFail,
    execGaugeMeasurementDone, execEnergyAvailUpdate, execRemovalDetect, execPresentLowQualify, execBrownOut, execVauxLoss,
    execBankLowAbort, execPerstAssert, execPerstDeassert, execDlActive, execTrainFail, execSurpriseDown, execFunctionLevelReset,
    execD3hotEntry, execD0Return, execConfigWrite, execBar0Read, execSetupRecordWrite, execTailDoorbell, execHeadDoorbell,
    execMirrorBaseWrite, execSetMailboxWrite, execBar2BadWrite, execSealMarkAbandon, execReadStream, execReadRandom, execWriteRandom,
    execCaskQuery, execCompletionPost, execCoalesceTimeout, execLinkDeselect, execProtocolSelect, execHostRFrame, execFrameCrcError,
    execLength255Frame, execResyncReq, execAbortReq, execCheckReq, execSwitchRevert, execReadReg, execWriteReg, execWriteMasked,
    execIndRead, execIndWrite, execResetCmdLink, execResetCmdWarm, execResetCmdCold, execSwitch, execSleep, execWake, execEcho,
    execNovvenHeader, execNovvenRead, execNovvenWrite, execNovvenReset, execTunAck, execMirrorWrite, execThroughNoteProgrammed,
    execSnufferFlush, execLinkReset, execCycSrcWrite, execCycPeriodWrite, execCycCountRead, execCycCountHiWrite, execCycCountWrite,
    execPlanWinWrite, execRegisterWrite, execStCmdOpen, execStCmdEnd, execStCmdResume, execStCmdDelete, execFrontierLoRead,
    execStTrimHiWrite, execStTrimLoWrite, execStreamSelWrite, execCryptoErase, execSoftReset, execBootHoldWrite, execIndAddrWrite,
    execIndDataAccess, execGaugeNow, execIrqEnableWrite, execFaultAckWrite, execFaultAckSelf, execSetCtrlWrite, execMemRetireWrite,
    execMemPwrWrite, execMemTestEnWrite, execMemTestRead, execMemTestWriteRaw, execMemTestWriteChecked, execWickSubmit, execWickDoneTake,
    execCellarBaseWrite, execVauxPorAssert, execVauxPorRelease, execVauxReturn, execFuseMapRead, execVinPor, execPllLock,
    execPllLockTimeout, execPllUnlock, execMemoryFill, execHoldWindowEnd, execBootImageLoad, execFirmwareStart, execRecovery,
      ↓answers_next, answers_ite, single_answers, implies_true, and_self] <;>
    (repeat' split) <;> simp only [↓answers_next, implies_true, and_self]

/-! ### The commands with an operand that may be ill formed -/

theorem answers_or_fault_ite {p : Prop} [Decidable p] {b : Host.Outcome State Fault Refusal} {c : Instr} (hwf : p → c.wf = false)
    (hb : Answers b) :
    Answers (if p then .fault .illFormedCommand else b) ∨
      (c.wf = false ∧ (if p then .fault .illFormedCommand else b) = .fault .illFormedCommand) := by
  by_cases h : p
  · exact .inr ⟨hwf h, if_pos h⟩
  · rw [if_neg h]; exact .inl hb

theorem wf_of_long_info {info : List Byte} (h : 254 < info.length) : decide (info.length ≤ 254) = false :=
  decide_eq_false (Nat.not_le.mpr h)

theorem sized_eq_false {data : List Byte} {n : Nat} (h : data.length ≠ n) : HostRead.sized n (.ok data) = false :=
  beq_eq_false_iff_ne.mpr h

/-- Settles O2: the six commands that check an operand fault on an ill-formed one alone, and every branch of every other command ends in
a next state. -/
theorem everyWellFormedCommandRuns : Obligations.EveryWellFormedCommandRuns := by
  unfold Obligations.EveryWellFormedCommandRuns
  intro c s
  cases c with
  | chainedIFrame ns info =>
    exact answers_or_fault_ite wf_of_long_info (answers_ite.mpr ⟨fun _ => answers_next _, fun _ => answers_next _⟩)
  | messageReceive ns nr info =>
    exact answers_or_fault_ite wf_of_long_info (answers_ite.mpr ⟨fun _ => answers_next _, fun _ => answers_next _⟩)
  | errorReport u fresh =>
    match fresh with
    | none => exact .inl (answers_next _)
    | some (c, d) =>
      by_cases hc : causeUnit c = u
      · exact .inl ⟨_, if_pos hc⟩
      · exact .inr ⟨decide_eq_false hc, if_neg hc⟩
  | descriptorFetch r eccBad =>
    simp only [exec, execDescriptorFetch]
    split
    · exact .inl (answers_next _)
    split
    · exact .inl (answers_next _)
    split
    · exact .inl (answers_next _)
    · exact answers_or_fault_ite sized_eq_false (answers_next _)
  | dataFetchDone id r =>
    simp only [exec, execDataFetchDone]
    split
    · exact .inl (answers_next _)
    split
    · exact .inl (answers_next _)
    split
    · exact .inl (answers_next _)
    · exact answers_or_fault_ite sized_eq_false (answers_ite.mpr ⟨fun _ => answers_next _, fun _ => answers_next _⟩)
  | cellarPageFetched page r =>
    simp only [exec, execCellarPageFetched]
    split
    · exact .inl (answers_next _)
    split
    · exact .inl (answers_next _)
    · exact answers_or_fault_ite sized_eq_false (answers_ite.mpr ⟨fun _ => answers_next _, fun _ => answers_next _⟩)
  | _ => exact .inl (exec_answers _ s rfl)

end Sys2Proof.Machine

/-! # The Lamplighter: edges, markers, the lock, lost ticks and windows -/

namespace Sys2Proof.Machine
open Sys2Proof

/-! ### PHASE_IN (R34, R38, R40, R42) -/

section PhaseIn

variable {s : State} {sinceNs pos : Nat}

/-- The state accepts an edge at a position (R38, R40, R42). -/
def LampState.takesEdge (l : LampState) (sinceNs pos : Nat) : Prop :=
  200000 ≤ sinceNs ∧ l.edgeTaken = false ∧ (l.lock = .acquire ∨ ((l.lock = .locked ∨ l.lock = .coast) ∧
    l.period ≤ pos + min l.jitterWin (l.period / 8) ∧ pos ≤ l.period + min l.jitterWin (l.period / 8)))

/-- What an edge of PHASE_IN leaves in LAMP. -/
def LampState.edge (l : LampState) (sinceNs pos : Nat) : LampState :=
  if sinceNs < 200000 ∨ l.edgeTaken then l.stray
  else match l.lock with
    | .free => l.stray
    | .acquire => { l with edgeTaken := true, tickPos := max l.tickPos pos }
    | .locked | .coast => if l.accepts pos then { l with edgeTaken := true, tickPos := max l.tickPos pos } else l.stray

theorem accepts_iff (l : LampState) : l.accepts pos = true ↔
    l.period ≤ pos + min l.jitterWin (l.period / 8) ∧ pos ≤ l.period + min l.jitterWin (l.period / 8) := by
  simp only [LampState.accepts, Bool.and_eq_true, decide_eq_true_eq]
  rfl

theorem edge_taken {l : LampState} (h : l.takesEdge sinceNs pos) :
    l.edge sinceNs pos = { l with edgeTaken := true, tickPos := max l.tickPos pos } := by
  obtain ⟨hsince, hfree, hlock⟩ := h
  unfold LampState.edge
  rw [if_neg (by simp [hfree]; omega)]
  rcases hlock with hacq | ⟨hlocked | hcoast, hwin⟩
  · simp only [hacq]
  · simp only [hlocked, (accepts_iff l).mpr hwin, if_true]
  · simp only [hcoast, (accepts_iff l).mpr hwin, if_true]

theorem edge_stray {l : LampState} (h : ¬ l.takesEdge sinceNs pos) : l.edge sinceNs pos = l.stray := by
  unfold LampState.edge
  split
  · rfl
  next hearly =>
  have hsince : 200000 ≤ sinceNs := by omega
  have hfree : l.edgeTaken = false := by simpa using fun he => hearly (.inr he)
  have hout (hlock : l.lock = .locked ∨ l.lock = .coast) : ¬ l.accepts pos = true := fun hacc =>
    h ⟨hsince, hfree, .inr ⟨hlock, (accepts_iff l).mp hacc⟩⟩
  split
  · rfl
  next hlock => exact absurd ⟨hsince, hfree, .inl hlock⟩ h
  next hlock => exact if_neg (hout (.inl hlock))
  next hlock => exact if_neg (hout (.inr hlock))

theorem repeatPhase_eq (s : State) : s.repeatPhase = { s with lamp := { s.lamp with
    phaseOut := if s.clock.vauxPin || s.clock.vauxAlt then s.lamp.phaseOut + 2 else s.lamp.phaseOut } } := by
  unfold State.repeatPhase State.vauxOn
  cases (s.clock.vauxPin || s.clock.vauxAlt) <;> rfl

theorem takesEdge_repeatPhase : s.repeatPhase.lamp.takesEdge sinceNs pos ↔ s.lamp.takesEdge sinceNs pos := by
  rw [repeatPhase_eq]; rfl

theorem exec_phaseInEdge_held (h : s.clock.vauxPor = true ∨ s.stopped .lamp = true) :
    exec (.phaseInEdge sinceNs pos) s = .next s.repeatPhase :=
  if_pos (Bool.or_eq_true_iff.mpr h)

theorem exec_phaseInEdge_up (hpor : s.clock.vauxPor = false) (hup : s.stopped .lamp = false) :
    exec (.phaseInEdge sinceNs pos) s = .next (s.repeatPhase.onLamp fun l => l.edge sinceNs pos) :=
  if_neg (by simp [hpor, hup])

end PhaseIn

/-- Settles O7: the three ways of an edge, each over PHASE_OUT's own equation. -/
theorem edgeOfPhaseIn : Obligations.EdgeOfPhaseIn := by
  unfold Obligations.EdgeOfPhaseIn
  refine fun s sinceNs pos => ⟨fun h => ?_, fun hpor hup h => ?_, fun hpor hup h => ?_⟩
  · rw [exec_phaseInEdge_held h, repeatPhase_eq]
  · rw [exec_phaseInEdge_up hpor hup, State.onLamp, edge_taken (takesEdge_repeatPhase.mpr h), repeatPhase_eq]
  · rw [exec_phaseInEdge_up hpor hup, State.onLamp, edge_stray (mt takesEdge_repeatPhase.mp h), repeatPhase_eq]; rfl

/-! ### What a marker leaves (R36, R37, R42, R66) -/

/-- Every part of State but the journal's. -/
def Touch.besideJournal : Touch := { Touch.all with journal := false }

section MarkerAt

variable {s : State}

/-- While the block runs, the cycle that ends waits for its seal (R66). -/
theorem markerAt_ended (kind : MarkKind) (pos o : Nat) (m : MarkerIn) (hrun : s.running = true) :
    (s.markerAt kind pos o m).journal.ended = s.journal.ended ++ [s.lamp.cycle] := by
  unfold State.markerAt
  have h0 := keeps_forceCloses (L := { intake := true, health := true }) s.lamp.cycle (Keeps.refl _ s) rfl rfl
  generalize s.forceCloses s.lamp.cycle = a at h0
  dsimp only
  have h1 : Keeps { fault := true } a (if a.running = true then a.overruns else a) :=
    keeps_ite (keeps_overruns (Keeps.refl _ a) rfl) (Keeps.refl _ a)
  generalize (if a.running = true then a.overruns else a) = b at h1
  have hended : (b.cutWindows.endCycle (pos - b.lamp.openPos) m.clocks).journal.ended = s.journal.ended ++ [s.lamp.cycle] := by
    have hclock : b.clock = s.clock := (h1.clockF rfl).trans (h0.clockF rfl)
    have hlamp : b.lamp = s.lamp := (h1.lampF rfl).trans (h0.lampF rfl)
    have hjournal : b.journal = s.journal := (h1.journalF rfl).trans (h0.journalF rfl)
    have hb : b.cutWindows.running = true := by
      rw [State.running, State.cutWindows, State.onLamp_clock, hclock]
      exact hrun
    rw [State.endCycle, if_pos hb, State.onJournal_journal, State.cutWindows, State.onLamp_journal, State.onLamp_lamp, hjournal,
      hlamp]
  generalize b.cutWindows.endCycle (pos - b.lamp.openPos) m.clocks = c at hended
  rw [← hended]
  have h2 := keeps_openLamp kind pos o m.clocks m.edgesResumed (Keeps.refl .besideJournal c) rfl rfl
  generalize State.onLamp _ _ = d at h2 ⊢
  have h3 := keeps_takeOthers (keeps_noteQuotas d.lamp.cycle (keeps_takePlan h2 rfl rfl rfl) rfl) rfl rfl
  generalize State.takeOthers _ = e at h3 ⊢
  have h4 : Keeps .besideJournal c (if e.clock.mainOn = true then e.checkPeers else e) := keeps_ite (keeps_checkPeers h3 rfl rfl) h3
  generalize (if e.clock.mainOn = true then e.checkPeers else e) = f at h4 ⊢
  exact congrArg JournalState.ended
    ((keeps_ite (keeps_dryRun _ (keeps_chooseModes h4 rfl rfl rfl) rfl rfl rfl rfl rfl rfl) h4).journalF rfl)

/-- What Opened says rests on LAMP's numbers and pending values alone: not on the lock, the intervals, the period or the mode. -/
theorem Opened.of_lock {s t : State} {pos o : Nat} {i : List Nat} {n p : Nat} {k : LockState} {m : BitVec 2}
    {u : State} (hu : u.lamp = { s.lamp with intervals := i, synthCount := n, lock := k, period := p, mode := m })
    (h : Opened u t pos o) : Opened s t pos o := by
  obtain ⟨hnumber, hnone, hopen, hlen, hwin, hfresh, hmode, hdiv, hjit, htrim, hper⟩ := h
  rw [hu] at *
  exact ⟨hnumber, hnone, hopen, hlen, hwin, hfresh, hmode, hdiv, hjit, htrim, hper⟩

/-- What every marker leaves, over LAMP as its lock logic left it. -/
theorem markerAt_opens {kind : MarkKind} {pos o : Nat} {m : MarkerIn} :
    Opened s (s.markerAt kind pos o m) pos o ∧ (s.markerAt kind pos o m).lamp.mode = s.lamp.modeP.getD s.lamp.mode ∧
      (s.running = true → (s.markerAt kind pos o m).journal.ended = s.journal.ended ++ [s.lamp.cycle]) :=
  ⟨(marker_opens s kind pos o m).1, (marker_opens s kind pos o m).2.1, markerAt_ended kind pos o m⟩

theorem realMarker_eq (l : LampState) (pos clocks : Nat) : ∃ k p, l.realMarker pos clocks =
    { l with intervals := l.withInterval pos clocks, synthCount := 0, lock := k, period := p } := by
  unfold LampState.realMarker
  dsimp only
  split
  · split
    · split <;> exact ⟨_, _, rfl⟩
    · exact ⟨_, _, rfl⟩
  · exact ⟨_, _, rfl⟩
  · exact ⟨_, _, rfl⟩
  · exact ⟨_, _, rfl⟩

/-- The real marker of a state (R44). -/
def State.realMark (s : State) (pos : Nat) (m : MarkerIn) : State :=
  (s.onLamp fun l => l.realMarker pos m.clocks).markerAt .real pos 0 m

theorem exec_marker {pos : Nat} {m : MarkerIn} (hup : s.lampUp = true) (he : s.lamp.edgeTaken = true) :
    exec (.marker pos m) s = .next (s.realMark pos m) := by
  simp [exec, execMarker, hup, he, State.realMark]

theorem realMark_opens (pos : Nat) (m : MarkerIn) :
    Opened s (s.realMark pos m) pos 0 ∧ (s.realMark pos m).lamp.mode = s.lamp.modeP.getD s.lamp.mode ∧
      (s.running = true → (s.realMark pos m).journal.ended = s.journal.ended ++ [s.lamp.cycle]) := by
  obtain ⟨k, p, hl⟩ := realMarker_eq s.lamp pos m.clocks
  have hu : (s.onLamp fun l => l.realMarker pos m.clocks).lamp = { s.lamp with
      intervals := s.lamp.withInterval pos m.clocks, synthCount := 0, lock := k, period := p, mode := s.lamp.mode } := hl
  obtain ⟨hopened, hmode, hended⟩ := markerAt_opens (s := s.onLamp fun l => l.realMarker pos m.clocks) (kind := .real) (pos := pos)
    (o := 0) (m := m)
  rw [hu] at hmode hended
  exact ⟨hopened.of_lock hu, hmode, hended⟩

end MarkerAt

/-- Settles O8: the four markers that open a cycle, each by the one law of what a marker leaves. -/
theorem markersOpenCycles : Obligations.MarkersOpenCycles := by
  unfold Obligations.MarkersOpenCycles
  refine fun s pos m hup => ⟨fun he => ?_, fun hl => ?_, fun hl he => ?_, fun hl he => ?_⟩
  · exact ⟨_, exec_marker hup he, realMark_opens pos m⟩
  · exact ⟨s.markerAt .generated s.lamp.period 0 m, by simp [exec, execGeneratedMarker, hup, hl], markerAt_opens⟩
  · exact ⟨s.markerAt .synth s.lamp.period 0 m, by simp [exec, execAcquireSynthMarker, hup, hl, he], markerAt_opens⟩
  · refine ⟨s.markerAt .synth maxTick 0 m, ?_, markerAt_opens⟩
    rcases hl with hl | hl <;> simp [exec, execTickLimitMarker, hup, hl, he]

/-! ### The lock (R41, R42, R45, R46) -/

section Lock

variable {s : State} {m : MarkerIn}

/-- In LOCKED and COAST a real marker locks and measures (R41, R42). -/
theorem realMarker_locked {l : LampState} {pos clocks : Nat} (h : l.lock = .locked ∨ l.lock = .coast) :
    l.realMarker pos clocks = { l with
      intervals := l.withInterval pos clocks, synthCount := 0, lock := .locked,
      period := if l.withInterval pos clocks = [] then l.period else meanRound (l.withInterval pos clocks) } := by
  unfold LampState.realMarker
  rcases h with h | h <;> simp only [h]

theorem realMark_lock (pos : Nat) (hmode : s.lamp.modeP = none) (hext : extMode s.lamp.mode = true)
    (hlock : s.lamp.lock = .locked ∨ s.lamp.lock = .coast) :
    (s.realMark pos m).lamp.lock = .locked ∧ (s.realMark pos m).lamp.synthCount = 0 ∧ (s.realMark pos m).lamp.openedReal = true ∧
      (s.realMark pos m).lamp.intervals = s.lamp.withInterval pos m.clocks ∧ (s.realMark pos m).lamp.period =
        if s.lamp.withInterval pos m.clocks = [] then s.lamp.period else meanRound (s.lamp.withInterval pos m.clocks) := by
  obtain ⟨_, _, hkept, hreal, hperiod⟩ := marker_opens (s.onLamp fun l => l.realMarker pos m.clocks) .real pos 0 m
  rw [State.onLamp_lamp, realMarker_locked hlock] at hkept hperiod
  obtain ⟨hl, hi, hn⟩ := hkept hmode
  have hstill : extMode (s.lamp.modeP.getD s.lamp.mode) = true := by rw [hmode]; exact hext
  exact ⟨hl, hn, hreal, hi, hperiod.trans (if_pos hstill)⟩

/-- The flywheel before its eighth marker coasts (R42, R45). -/
theorem flywheel_coasts (hmode : s.lamp.modeP = none) (hper : s.lamp.periodP = none) (hn : s.lamp.synthCount + 1 < 8) :
    Opened s (s.flywheel m) s.lamp.flyAt (s.lamp.flyAt - s.lamp.period) ∧ (s.flywheel m).lamp.lock = .coast ∧
      (s.flywheel m).lamp.synthCount = s.lamp.synthCount + 1 ∧ (s.flywheel m).lamp.period = s.lamp.period ∧
      (s.flywheel m).lamp.mode = s.lamp.mode := by
  unfold State.flywheel
  rw [if_neg (by omega)]
  have hu : (s.onLamp fun l => { l with lock := .coast, synthCount := l.synthCount + 1 }).lamp = { s.lamp with
      intervals := s.lamp.intervals, synthCount := s.lamp.synthCount + 1, lock := .coast, period := s.lamp.period,
      mode := s.lamp.mode } := rfl
  obtain ⟨hopened, hmode', hkept, _, hperiod⟩ := marker_opens
    (s.onLamp fun l => { l with lock := .coast, synthCount := l.synthCount + 1 }) .synth s.lamp.flyAt
    (s.lamp.flyAt - s.lamp.period) m
  rw [hu] at hmode' hkept hperiod
  obtain ⟨hl, _, hc⟩ := hkept hmode
  refine ⟨hopened.of_lock hu, hl, hc, ?_, ?_⟩
  · rw [hperiod, hper]; exact ite_self _
  · rw [hmode', hmode]; rfl

/-- The eighth leaves external mode (R46). -/
theorem flywheel_gives_up (hmode : s.lamp.modeP = none) (hper : s.lamp.periodP = none) (hn : s.lamp.synthCount + 1 = 8) :
    Opened s (s.flywheel m) s.lamp.flyAt 0 ∧ (s.flywheel m).lamp.lock = .free ∧ (s.flywheel m).lamp.mode = 2 ∧
      (s.flywheel m).lamp.period = s.lamp.period := by
  unfold State.flywheel
  rw [if_pos hn]
  have hu : ((s.onLamp fun l => { l with lock := .free, mode := 2, synthCount := 0 }).raise .phaseLost).lamp = { s.lamp with
      intervals := s.lamp.intervals, synthCount := 0, lock := .free, period := s.lamp.period, mode := 2 } := raise_lamp _ _
  obtain ⟨hopened, hmode', hkept, _, hperiod⟩ := marker_opens
    ((s.onLamp fun l => { l with lock := .free, mode := 2, synthCount := 0 }).raise .phaseLost) .synth s.lamp.flyAt 0 m
  rw [hu] at hmode' hkept hperiod
  obtain ⟨hl, _, _⟩ := hkept hmode
  refine ⟨hopened.of_lock hu, hl, ?_, ?_⟩
  · rw [hmode', hmode]; rfl
  · rw [hperiod, hper]; exact ite_self _

end Lock

/-- Settles O9: the lock logic of the real marker and of the flywheel, over the one law of what a marker leaves. -/
theorem markersLock : Obligations.MarkersLock := by
  unfold Obligations.MarkersLock
  refine ⟨fun s pos m hup he hmode hext hlock => ?_, fun s m hup he hlock hmode hper => ?_⟩
  · have hm : extMode s.lamp.mode = true := by rcases hext with h | h <;> rw [h] <;> rfl
    obtain ⟨hl, hn, hreal, hi, hp⟩ := realMark_lock (m := m) pos hmode hm hlock
    exact ⟨_, exec_marker hup he, hl, hn, hreal, hi, fun h => hp.trans (if_neg h), fun h => hp.trans (if_pos h)⟩
  · rintro j at_ c hc
    have hx : exec c s = .next (s.flywheel m) := by
      rcases hc with rfl | ⟨rfl, hlimit⟩
      · rcases hlock with h | h <;> simp [exec, execFlywheelSynthMarker, hup, h, he]
      · have hl : maxTick < s.lamp.period + s.lamp.jitter := hlimit
        rcases hlock with h | h <;> simp [exec, execTickLimitMarker, hup, h, he, hl]
    exact ⟨fun hn => ⟨_, hx, flywheel_coasts hmode hper hn⟩, fun hn => ⟨_, hx, flywheel_gives_up hmode hper hn⟩⟩

/-! ### Lost ticks and windows (R39, R57, R58) -/

section Ticks

variable {s : State} {pos w : Nat}

theorem exec_tickLost {edges span c : Nat} (hup : s.lampUp = true) (hsrc : s.lamp.tickSrc = .phaseTick)
    (hsince : s.lamp.cycleSince = true) (hc : s.lamp.lastClocks = some c) (hpos : 0 < c) (hticks : 0 < s.lamp.lastTicks) :
    exec (.tickLost pos edges span) s = .next (({ s with lamp := { s.lamp with
      tickSrc := .substitute, subInterval := some (c, s.lamp.lastTicks), tickPos := pos + 200000 * s.lamp.lastTicks / c } }).raise .tickLost) := by
  have hmean : s.lamp.meanInterval edges span = (c, s.lamp.lastTicks) := by
    simp [LampState.meanInterval, hsince, hc, hpos, hticks]
  simp only [exec, execTickLost, hup, hsrc, hmean, decide_true, Bool.and_self, if_true]
  rfl

theorem exec_windowOpen (hup : s.lampUp = true) (hext : s.lamp.sealExt = none) (hnone : s.lamp.openWin = none)
    (hcov : s.lamp.covering pos = some w) :
    exec (.windowOpen pos) s = .next { s with lamp := { s.lamp with openWin := some w, tickPos := max s.lamp.tickPos pos } } := by
  simp [exec, execWindowOpen, hup, hext, hnone, hcov, State.onLamp]

theorem exec_windowEnd (hup : s.lampUp = true) (hwin : s.lamp.openWin = some w)
    (hend : (s.lamp.win w).start + (s.lamp.win w).len ≤ pos) :
    exec (.windowEnd pos) s = .next { s with lamp := { s.lamp with
      openWin := none, tickPos := max s.lamp.tickPos pos,
      sealExt := if (s.lamp.win w).kind = 1 then s.served.map fun c => (c, 0) else none } } := by
  simp only [exec, execWindowEnd, hup, hwin, if_neg (Nat.not_lt.mpr hend)]
  rfl

end Ticks

/-- Settles O10: one equation for each of the three commands. -/
theorem ticksAndWindows : Obligations.TicksAndWindows := by
  unfold Obligations.TicksAndWindows
  exact ⟨fun s pos edges span c => exec_tickLost, fun s pos w hup => ⟨exec_windowOpen hup, exec_windowEnd hup⟩⟩

end Sys2Proof.Machine

/-! # Tail grace and the seal of a cycle -/

namespace Sys2Proof.Machine
open Sys2Proof

/-! ### A change of every entry of a table, at one key -/

/-- What a change of every entry gives at a key that an entry carries. -/
theorem tget_tmap_of_ne {α : Type} [DecidableEq α] {d : α} {m : Sparse α} {a : Nat} (f : Nat → α → α) (h : twf d m = true)
    (ha : tget d m a ≠ d) : tget d (tmap d f m) a = f a (tget d m a) := by
  induction m with
  | nil => exact absurd rfl ha
  | cons e m ih =>
    obtain ⟨k, v⟩ := e
    obtain ⟨_, hlt, hm⟩ := (twf_cons d k v m).mp h
    by_cases hk : k = a
    · subst hk
      have habs : tget d (tmap d f m) k = d := tget_absent d _ k fun e he => by
        obtain ⟨x, hx, hxk⟩ := mem_tmap d f m e he
        have := hlt x hx
        omega
      by_cases hd : f k v = d <;> simp [tmap, hd, tget, habs]
    · have ha' : tget d m a ≠ d := by simpa [tget, hk] using ha
      by_cases hd : f k v = d <;> simp [tmap, hd, tget, hk, ih hm ha']

/-! ### Tail grace (R62, R63) -/

section TailGrace

variable {s : State} {e : Stream} {n : Nat} {due : Bool}

theorem overdue_iff : e.overdue n = true ↔ (e.st = .open ∨ e.st = .draining) ∧ e.closedAll = false ∧ e.openCycle < n := by
  rw [Stream.overdue, Bool.and_eq_true, Bool.not_eq_true', noOpen_eq_false_iff, decide_eq_true_iff, and_assoc]

theorem forceClose_overdue (h : e.overdue n = true) :
    (e.forceClose n due).openCycle = n ∧ (e.forceClose n due).st = e.st ∧ (e.forceClose n due).front = e.front ∧
      (tget 0 e.credited e.openCycle ≠ 0 →
        (e.forceClose n due).fault = e.fault ||| 0x10 ∧ (e.forceClose n due).late = e.openCycle :: e.late) ∧
      (tget 0 e.credited e.openCycle = 0 → (e.forceClose n due).fault = e.fault ∧ (e.forceClose n due).late = e.late) := by
  unfold Stream.forceClose
  rw [if_pos h]
  by_cases hlate : tget 0 e.credited e.openCycle = 0
  · simp [Stream.lateNow, hlate, Stream.closeTo, Stream.cut]
  · simp [Stream.lateNow, hlate, Stream.closeTo, Stream.cut, Stream.note]

theorem forceClose_other (h : ¬ e.overdue n = true) : e.forceClose n due = e := if_neg h

theorem forceCloses_stream (hwf : twf Stream.none s.intake.streams = true) (i : Nat) :
    (s.forceCloses n).stream i = (s.stream i).forceClose n (s.host.mirrorBase != 0) :=
  tget_tmap Stream.none (fun _ e => e.forceClose n (s.host.mirrorBase != 0)) s.intake.streams i rfl hwf

/-- The state that the end of the tail grace leaves. -/
def State.graceEnded (s : State) (pos : Nat) : State :=
  (s.onLamp fun l => { l with tickPos := max l.tickPos pos }).forceCloses s.lamp.cycle

theorem exec_tailGraceExpire_early {pos : Nat} (h : pos < s.lamp.openPos + s.lamp.period * s.lamp.permil / 1000) :
    exec (.tailGraceExpire pos) s = .next s := by
  have hearly : s.lamp.graceOver pos = false := decide_eq_false (Nat.not_le.mpr h)
  simp [exec, execTailGraceExpire, hearly]

theorem exec_tailGraceExpire_over {pos : Nat} (hon : s.clock.mainOn = true)
    (h : s.lamp.openPos + s.lamp.period * s.lamp.permil / 1000 ≤ pos) :
    exec (.tailGraceExpire pos) s = .next (s.graceEnded pos) := by
  have hover : s.lamp.graceOver pos = true := decide_eq_true h
  simp [exec, execTailGraceExpire, hover, hon, State.graceEnded]

end TailGrace

/-! ### The start of a seal (R66, R125) -/

section SealStart

variable {s : State} {n : Nat}

theorem allClosed_of_beyond (h : ∀ e ∈ s.intake.streams, (e.2.st = .open ∨ e.2.st = .draining) → e.2.closedAll = false →
    tget 0 e.2.credited e.2.openCycle ≠ 0 → n < e.2.openCycle) : s.allClosed n = true := by
  unfold State.allClosed
  rw [List.all_eq_true]
  intro e he
  rw [Bool.not_eq_true', Bool.and_eq_false_iff, Bool.and_eq_false_iff, Bool.not_eq_false', decide_eq_false_iff_not]
  by_cases hopen : e.2.noOpen = true
  · exact .inl (.inl hopen)
  obtain ⟨hst, hall⟩ := (noOpen_eq_false_iff e.2).mp (Bool.eq_false_iff.mpr hopen)
  by_cases hlate : tget 0 e.2.credited e.2.openCycle = 0
  · exact .inr (by simp [Stream.lateNow, hlate])
  · exact .inl (.inr (Nat.not_le.mpr (h e he hst hall hlate)))

theorem exec_sealStart (hnext : s.nextSeal = some n) (hready : s.sealReady n = true) : exec .sealStart s = .next (s.beginSeal n) := by
  simp only [exec, execSealStart, hnext, hready, if_true]

theorem beginSeal_journal (s : State) (n : Nat) : (s.beginSeal n).journal = { s.journal with
    sealing := some { cycle := n, setSealed := s.setSealed, missing := s.host.missing, pages := false,
                      fronts := s.intake.streams.filterMap fun e =>
                        if (upTo n e.2.credited) ≠ [] then some (e.1, e.2.closeFront n) else none }
    ended := s.journal.ended.filter fun c => n < c } := by
  have hplaced : Keeps { media := true, place := true } s ((s.placeUnits false).placeUnits true) :=
    keeps_placeUnits _ (keeps_placeUnits _ (Keeps.refl _ s) rfl rfl) rfl rfl
  have hheld : Keeps { media := true, place := true } s
      (s.intake.streams.foldl (fun t e => t.placeHeld e.1) ((s.placeUnits false).placeUnits true)) :=
    keeps_foldl _ (fun t x h => keeps_placeHeld _ h rfl rfl) _ hplaced
  have hpadded := keeps_padStaging (keeps_spillUnits n hheld rfl rfl) rfl rfl
  unfold State.beginSeal
  rw [State.onJournal_journal, hpadded.journalF rfl]

end SealStart

/-! ### The completion of a seal (R125, R128) -/

/-- Every part of State but INTAKE's. -/
def Touch.besideIntake : Touch := { Touch.all with intake := false }

/-- What seal is in progress and which cycle was sealed last stand from s to t. -/
def State.SameSeal (s t : State) : Prop := t.journal.sealing = s.journal.sealing ∧ t.journal.lastSeal = s.journal.lastSeal

section SameSeal

variable {s t u : State}

theorem State.SameSeal.refl (s : State) : s.SameSeal s := ⟨rfl, rfl⟩

theorem State.SameSeal.trans (h : s.SameSeal t) (k : t.SameSeal u) : s.SameSeal u := ⟨k.1.trans h.1, k.2.trans h.2⟩

theorem sameSeal_of_keeps (h : Keeps .besideJournal s t) : s.SameSeal t := by
  have hjournal := h.journalF rfl
  exact ⟨congrArg _ hjournal, congrArg _ hjournal⟩

theorem sameSeal_onJournal (s : State) {f : JournalState → JournalState}
    (h : ∀ j, (f j).sealing = j.sealing ∧ (f j).lastSeal = j.lastSeal) : s.SameSeal (s.onJournal f) := h s.journal

theorem sameSeal_settleJournal (s : State) : s.SameSeal s.settleJournal := by
  unfold State.settleJournal
  dsimp only
  split
  · exact .refl s
  split
  · exact .refl s
  · exact ⟨rfl, rfl⟩

theorem sameSeal_append (s : State) (b : Body) : s.SameSeal (s.append b) := by
  have hpages : Keeps .besideJournal s (s.programPages ((s.journal.bands.getLast?).getD 0) s.journal.page (recordPages b.size)) :=
    keeps_programPages _ _ _ (Keeps.refl _ s) rfl
  exact (sameSeal_of_keeps hpages).trans (sameSeal_onJournal _ fun _ => ⟨rfl, rfl⟩)

theorem sameSeal_dropSpare (s : State) (now : Bool) : s.SameSeal (s.dropSpare now) := by
  unfold State.dropSpare
  split
  · exact .refl s
  · split
    · exact ⟨rfl, rfl⟩
    · exact .refl s

/-- Outside recovery the next journal band is formed without a change of what is sealed. -/
theorem sameSeal_spareJournal (s : State) : s.SameSeal (s.spareJournal none) := by
  unfold State.spareJournal
  dsimp only
  have hdrop := sameSeal_dropSpare s (none : Option RecoveryIn).isSome
  generalize s.dropSpare (none : Option RecoveryIn).isSome = t at hdrop ⊢
  refine hdrop.trans ?_
  split
  · exact .refl t
  split
  · next u b hform =>
    obtain ⟨d, _, hd⟩ := List.exists_of_findSome?_eq_some hform
    have hband : Keeps .besideJournal t u := keepsP_out (keeps_formBand d .journal true false (Keeps.refl _ t) rfl rfl) hd
    exact (sameSeal_of_keeps hband).trans ⟨rfl, rfl⟩
  · exact ⟨rfl, rfl⟩

theorem sameSeal_linkBand (s : State) : s.SameSeal (s.linkBand none) := by
  unfold State.linkBand
  dsimp only
  have hspare : s.SameSeal (if s.spareReady = true then s else s.spareJournal none) := by
    split
    · exact .refl s
    · exact sameSeal_spareJournal s
  generalize (if s.spareReady = true then s else s.spareJournal none) = t at hspare ⊢
  split
  · exact hspare
  · split
    · exact hspare
    · exact hspare.trans ((sameSeal_append t _).trans
        ((sameSeal_onJournal _ fun _ => ⟨rfl, rfl⟩).trans (sameSeal_spareJournal _)))

theorem sameSeal_record (s : State) (b : Body) : s.SameSeal (s.record b none) := by
  unfold State.record
  dsimp only
  refine (sameSeal_settleJournal s).trans (State.SameSeal.trans ?_ (sameSeal_append _ b))
  split
  · exact .refl _
  · exact sameSeal_linkBand _

theorem sameSeal_checkpoint (s : State) : s.SameSeal (s.checkpoint none) := by
  have hwear : Keeps .besideJournal s s.wearWords := keeps_wearWords (Keeps.refl _ s) rfl
  unfold State.checkpoint
  dsimp only
  exact (sameSeal_of_keeps hwear).trans ((sameSeal_record _ _).trans (sameSeal_onJournal _ fun _ => ⟨rfl, rfl⟩))

theorem streams_raise (s : State) (a : Attn) : (s.raise a).intake = s.intake :=
  (keeps_raise (L := { link := true, host := true }) a (Keeps.refl _ s) rfl rfl).intakeF rfl

theorem spaceCheck_streams (s : State) : s.spaceCheck.intake.streams = s.intake.streams := by
  unfold State.spaceCheck
  dsimp only
  rw [State.onIntake_intake]
  split <;> split <;> simp only [streams_raise]

theorem forgetStream_streams (l : List Nat) (s : State) : (l.foldl State.forgetStream s).intake.streams = s.intake.streams := by
  induction l generalizing s with
  | nil => rfl
  | cons i l ih => exact ih _

/-- What the completion of a seal leaves of what is sealed. -/
theorem completeSeal_sealed (s : State) (x : Seal) :
    (s.completeSeal x).journal.sealing = none ∧ (s.completeSeal x).journal.lastSeal = some x.cycle := by
  unfold State.completeSeal
  extract_lets n c due seq gone s1 s2 s3 s4 s5 s6 s7
  have h6 : s5.SameSeal s6 := sameSeal_of_keeps (keeps_postMarks _ _ (keeps_sealWords (Keeps.refl _ s5) rfl) rfl)
  have h7 : s6.SameSeal s7 := by
    show s6.SameSeal (if _ then _ else _)
    split
    · exact sameSeal_checkpoint s6
    · exact .refl s6
  have h8 : s7.SameSeal s7.refreshCheck.releaseAccs :=
    sameSeal_of_keeps (keeps_releaseAccs (keeps_refreshCheck (Keeps.refl _ s7) rfl rfl) rfl)
  have h9 : s7.refreshCheck.releaseAccs.SameSeal s7.refreshCheck.releaseAccs.setTail := sameSeal_onJournal _ fun _ => ⟨rfl, rfl⟩
  have h10 := sameSeal_of_keeps (keeps_spaceCheck (keeps_holdC (Keeps.refl .besideJournal s7.refreshCheck.releaseAccs.setTail) rfl)
    rfl rfl rfl)
  have h5 : s5.journal.sealing = none ∧ s5.journal.lastSeal = some x.cycle := ⟨rfl, rfl⟩
  obtain ⟨hsealing, hlast⟩ := h6.trans (h7.trans (h8.trans (h9.trans h10)))
  exact ⟨hsealing.trans h5.1, hlast.trans h5.2⟩

/-- What the completion of a seal makes of one stream's entry (R81, R125). -/
def Stream.atSealEnd (e : Stream) (x : Seal) (due : Bool) (i : Nat) : Stream :=
  let a := e.sealed x.cycle (tget 0 x.fronts i)
  if a.deleteDue x.cycle then a.cleared (a.mirrorEn && due)
  else { a with mirrorDue := a.mirrorDue || (a.mirrorEn && due && a.st ≠ e.st) }

theorem completeSeal_streams (s : State) (x : Seal) : (s.completeSeal x).intake.streams =
    tmap Stream.none (fun i e => e.atSealEnd x (s.host.mirrorBase != 0) i) s.intake.streams := by
  unfold State.completeSeal
  extract_lets n c due seq gone s1 s2 s3 s4 s5 s6 s7
  have hrec : Keeps .besideIntake s (s.record (.cask c) none) := keeps_record _ _ (Keeps.refl _ s) rfl rfl rfl rfl rfl
  have h1 : s1.intake.streams = s.intake.streams :=
    (forgetStream_streams gone _).trans (congrArg IntakeState.streams (hrec.intakeF rfl))
  have h2 : s5.intake.streams = tmap Stream.none (fun i e => e.atSealEnd x due i) s.intake.streams :=
    congrArg (tmap Stream.none fun i e => e.atSealEnd x due i) h1
  have h6 : Keeps .besideIntake s5 s6 := keeps_postMarks _ _ (keeps_sealWords (Keeps.refl _ s5) rfl) rfl
  have h7 : Keeps .besideIntake s5 s7 := keeps_ite (keeps_checkpoint _ h6 rfl rfl rfl rfl rfl) h6
  have h10 := keeps_holdC (keeps_setTail (keeps_releaseAccs (keeps_refreshCheck h7 rfl rfl) rfl) rfl) rfl
  rw [spaceCheck_streams, h10.intakeF rfl, h2]

end SameSeal

section SealComplete

variable {s : State} {x : Seal}

theorem sealed_fields (e : Stream) (n f : Nat) :
    (e.sealed n f).durable = max e.durable f ∧ (e.sealed n f).front = e.front ∧ (e.sealed n f).accept = e.accept := by
  unfold Stream.sealed
  extract_lets e1
  split <;> exact ⟨rfl, rfl, rfl⟩

/-- A stream that stands keeps its frontiers but ST_DURABLE, which reaches the frozen one. -/
theorem atSealEnd_fields {e : Stream} {due : Bool} {i : Nat} (h : (e.sealed x.cycle (tget 0 x.fronts i)).deleteDue x.cycle = false) :
    (e.atSealEnd x due i).durable = max e.durable (tget 0 x.fronts i) ∧ (e.atSealEnd x due i).front = e.front ∧
      (e.atSealEnd x due i).accept = e.accept := by
  unfold Stream.atSealEnd
  dsimp only
  rw [if_neg (by rw [h]; exact Bool.false_ne_true)]
  exact sealed_fields e _ _

/-- The state that the end of a seal leaves (R125). -/
def State.sealEnded (s : State) (x : Seal) : State := (s.completeSeal x).healthCheck

theorem keeps_sealEnded (s : State) (x : Seal) : Keeps { link := true, host := true, health := true } (s.completeSeal x) (s.sealEnded x) :=
  keeps_healthCheck (Keeps.refl _ _) rfl rfl rfl

theorem sealEnded_stream (hinv : s.Inv) {i : Nat} (hi : s.stream i ≠ Stream.none) :
    (s.sealEnded x).stream i = (s.stream i).atSealEnd x (s.host.mirrorBase != 0) i := by
  rw [State.stream, (keeps_sealEnded s x).intakeF rfl, completeSeal_streams]
  exact tget_tmap_of_ne (fun i e => e.atSealEnd x (s.host.mirrorBase != 0) i) hinv.1 hi

theorem sealDone_of (hrun : s.running = true) (htrig : s.snuff.trigger = none) (hback : s.stopped .back = false)
    (hmedia : s.stopped .media = false) (hintake : s.stopped .intake = false)
    (hflash : ∀ p ∈ s.place.pieces, p.cycle ≤ x.cycle → p.onFlash = true) (hacc : ∀ f ∈ x.fronts, f.2 ≤ (s.stream f.1).accept) :
    s.sealDone x = true := by
  have hpieces : (s.place.pieces.all fun p => decide (x.cycle < p.cycle) || p.onFlash) = true := by
    rw [List.all_eq_true]
    intro p hp
    rcases Nat.lt_or_ge x.cycle p.cycle with hlater | hlater
    · simp [hlater]
    · simp [hflash p hp hlater]
  have hfronts : (x.fronts.all fun f => decide (f.2 ≤ (s.stream f.1).accept)) = true := by
    rw [List.all_eq_true]
    exact fun f hf => decide_eq_true (hacc f hf)
  simp [State.sealDone, hpieces, hfronts, hrun, htrig, hback, hmedia, hintake]

theorem exec_sealComplete_ends (hseal : s.journal.sealing = some x) (hdone : s.sealDone x = true)
    (hpages : s.checkpointDue (s.composeCask x) = false ∨ s.pagesDone x = true) (hroom : s.canRecord (s.sealPages x) = true) :
    exec .sealComplete s = .next (s.sealEnded x) := by
  have hgo : (s.checkpointDue (s.composeCask x) && !s.pagesDone x) = false := by
    rcases hpages with h | h <;> simp [h]
  simp only [exec, execSealComplete, hseal, hdone, hgo, hroom, Bool.not_true, Bool.false_eq_true, if_false, State.sealEnded]

theorem exec_sealComplete_submits (hseal : s.journal.sealing = some x) (hdone : s.sealDone x = true)
    (hdue : s.checkpointDue (s.composeCask x) = true) (hpages : s.pagesDone x = false) :
    exec .sealComplete s = .next (s.submitSealPages x) := by
  simp only [exec, execSealComplete, hseal, hdone, hdue, hpages, Bool.not_true, Bool.not_false, Bool.and_self, Bool.false_eq_true,
    if_false, if_true]

theorem submitSealPages_journal (s : State) (x : Seal) :
    (s.submitSealPages x).journal = { s.journal with sealing := some { x with pages := true } } := by
  have hpages : Keeps { media := true, place := true } s s.submitPages := keeps_submitPages (Keeps.refl _ s) rfl rfl
  rw [State.submitSealPages, State.onJournal_journal, hpages.journalF rfl]

end SealComplete

/-- Settles O11: what force-closing makes of each stream, what the start of a seal leaves in the journal, and which operations after its
completion leave what is sealed and the streams alone. -/
theorem sealsRunInOrder : Obligations.SealsRunInOrder := by
  unfold Obligations.SealsRunInOrder
  refine ⟨fun s pos hinv hon => ⟨exec_tailGraceExpire_early, fun hover => ?_⟩, fun s n x => ⟨?_, ?_⟩⟩
  · refine ⟨_, exec_tailGraceExpire_over hon hover, rfl, fun i => ?_⟩
    have hstream : (s.graceEnded pos).stream i = (s.stream i).forceClose s.lamp.cycle (s.host.mirrorBase != 0) :=
      forceCloses_stream (s := s.onLamp fun l => { l with tickPos := max l.tickPos pos }) hinv.1 i
    rw [hstream]
    refine ⟨fun hst hall hlt => forceClose_overdue (overdue_iff.mpr ⟨hst, hall, hlt⟩), fun hno => forceClose_other fun hover => ?_⟩
    obtain ⟨hst, hall, hlt⟩ := overdue_iff.mp hover
    rcases hno with ⟨hopen, hdrain⟩ | hclosed | hge
    · exact hst.elim hopen hdrain
    · exact absurd (hall.symm.trans hclosed) Bool.false_ne_true
    · exact Nat.not_le.mpr hlt hge
  · intro hnext hlt hfree htrig hrun hback hbeyond
    have hready : s.sealReady n = true := by
      simp [State.sealReady, hrun, hfree, htrig, hback, hlt, allClosed_of_beyond hbeyond]
    have hx := exec_sealStart hnext hready
    refine ⟨_, hx, ?_, ?_, commandsKeepTheRest _ s _ hx⟩ <;> rw [beginSeal_journal]
    exact ⟨_, rfl, rfl, rfl, rfl⟩
  · intro hseal hrun htrig hback hmedia hintake hflash hacc
    have hdone := sealDone_of hrun htrig hback hmedia hintake hflash hacc
    refine ⟨fun hpages hroom => ?_, fun hdue hpages => ?_⟩
    · have hx := exec_sealComplete_ends hseal hdone hpages hroom
      have hjournal := (keeps_sealEnded s x).journalF rfl
      obtain ⟨hnone, hlast⟩ := completeSeal_sealed s x
      refine ⟨_, hx, (congrArg _ hjournal).trans hnone, (congrArg _ hjournal).trans hlast,
        (keeps_exec_commandTouch .sealComplete s _ nofun hx).cycF rfl, fun hinv i hi hstands => ?_⟩
      rw [sealEnded_stream hinv hi]
      exact atSealEnd_fields hstands
    · have hx := exec_sealComplete_submits hseal hdone hdue hpages
      have hkeeps := keeps_submitSealPages x (Keeps.refl { media := true, place := true, journal := true } s) rfl rfl rfl
      exact ⟨_, hx, submitSealPages_journal s x, hkeeps.frame⟩

end Sys2Proof.Machine

/-! # The writes of CYC_SRC, CYC_PERIOD and PLAN_WIN -/

namespace Sys2Proof.Machine
open Sys2Proof

/-! ### Fields of a masked write (R333) -/

theorem fieldOf_eq_extract (v : Word) (lo w : Nat) : fieldOf v lo w = (v.extractLsb' lo w).toNat := by
  simp [fieldOf, BitVec.extractLsb'_toNat, Nat.shiftRight_eq_div_pow]

/-- A field that the mask covers takes the value written. -/
theorem fieldOf_merge_covered (cur v : Word) {mask : Word} {lo w : Nat} (h : mask.extractLsb' lo w = BitVec.allOnes w) :
    fieldOf (merge cur v mask) lo w = fieldOf v lo w := by
  rw [fieldOf_eq_extract, fieldOf_eq_extract]
  refine congrArg BitVec.toNat (BitVec.eq_of_getLsbD_eq fun i hi => ?_)
  have hbit : mask.getLsbD (lo + i) = true := by
    simpa [BitVec.getLsbD_extractLsb', hi] using congrArg (fun x => x.getLsbD i) h
  simp [merge, hi, hbit]

/-- The upper half of a word. -/
theorem fieldOf_upperHalf (v : Word) : fieldOf v 16 16 = v.toNat / 65536 :=
  Nat.mod_eq_of_lt (by have := v.isLt; omega)

theorem fieldOf_low (v : Word) (w : Nat) : fieldOf v 0 w = v.toNat % 2 ^ w := by
  simp [fieldOf]

theorem ofNat_fieldOf_low (v : Word) (w : Nat) : BitVec.ofNat w (fieldOf v 0 w) = v.setWidth w := by
  apply BitVec.eq_of_toNat_eq
  simp [fieldOf]

/-! ### A register's own rule and the access that carries it out -/

/-- A whole or masked write whose rule leaves t, where the state after it is known. -/
theorem busWrite_leaves {s t u : State} {a : Nat} {v mask : Word} (h : s.serves a = true) (ha : a ≠ 0x61)
    (hput : s.actDropped.regPut a v mask = .ok t) (hact : t.link.act = .none) (hpaused : t.link.paused = none)
    (hu : t.wrote .ok = u) : s.busWrite a v mask = u :=
  hu ▸ busWrite_ok h ha hput hact hpaused

section ClassC

variable {s : State} {v mask : Word}

/-! ### CYC_SRC (R35, R36, R364) -/

/-- A divider that the write makes pending is accepted where the product with the period stands in its bounds, or the mode at the next
marker is not INTERNAL. -/
theorem cycSrc_divider_taken {mode : Option Nat} {d : Nat} (hd : d ≠ 0)
    (hprod : s.lamp.modeNext mode = 2 → d ≠ s.lamp.tickDivP.getD s.lamp.tickDiv →
      20000 ≤ s.lamp.periodP.getD s.lamp.period * d ∧ s.lamp.periodP.getD s.lamp.period * d ≤ 400000000) :
    refusedC s.lamp.tickDiv s.lamp.tickDivP (some d) (fun x =>
      decide (x = 0) || (s.lamp.modeNext mode == 2 && !productOk (shownC s.lamp.period s.lamp.periodP) x)) = false := by
  by_cases hshown : d = s.lamp.tickDivP.getD s.lamp.tickDiv
  · simp [refusedC, shownC, ← hshown]
  · by_cases hmode : s.lamp.modeNext mode = 2
    · simp [refusedC, shownC, productOk, hd, hprod hmode hshown]
    · simp only [refusedC, hd, beq_eq_false_iff_ne.mpr hmode, decide_false, Bool.false_and, Bool.or_self, Bool.and_false]

/-- A write of MODE and TICK_DIV makes the mode pending, whatever it was. -/
theorem writeCycSrc_mode {m d : Nat} (hmode : written s.lamp.srcWord v mask 0 2 = some m)
    (hdiv : written s.lamp.srcWord v mask 16 16 = some d) (hm : m ≠ 3) (hd : d ≠ 0)
    (hprod : s.lamp.modeNext (some m) = 2 → d ≠ s.lamp.tickDivP.getD s.lamp.tickDiv →
      20000 ≤ s.lamp.periodP.getD s.lamp.period * d ∧ s.lamp.periodP.getD s.lamp.period * d ≤ 400000000) :
    s.writeCycSrc v mask = .ok { s with lamp := { s.lamp with
      modeP := some (BitVec.ofNat 2 m)
      tickDivP := if d = s.lamp.tickDivP.getD s.lamp.tickDiv then s.lamp.tickDivP else some d } } := by
  have htaken := cycSrc_divider_taken (mode := some m) hd hprod
  simp only [State.writeCycSrc, hmode, hdiv]
  rw [if_neg (not_or.mpr ⟨by simpa using hm, ne_true_of_eq_false htaken⟩)]
  rfl

/-- A write of TICK_DIV alone leaves the mode that waits. -/
theorem writeCycSrc_divider {d : Nat} (hmode : written s.lamp.srcWord v mask 0 2 = none)
    (hdiv : written s.lamp.srcWord v mask 16 16 = some d) (hd : d ≠ 0)
    (hprod : s.lamp.modeNext none = 2 → d ≠ s.lamp.tickDivP.getD s.lamp.tickDiv →
      20000 ≤ s.lamp.periodP.getD s.lamp.period * d ∧ s.lamp.periodP.getD s.lamp.period * d ≤ 400000000) :
    s.writeCycSrc v mask = .ok { s with lamp := { s.lamp with
      tickDivP := if d = s.lamp.tickDivP.getD s.lamp.tickDiv then s.lamp.tickDivP else some d } } := by
  have htaken := cycSrc_divider_taken (mode := none) hd hprod
  simp only [State.writeCycSrc, hmode, hdiv]
  rw [if_neg (not_or.mpr ⟨nofun, ne_true_of_eq_false htaken⟩)]
  rfl

theorem writeCycSrc_reservedMode (hmode : written s.lamp.srcWord v mask 0 2 = some 3) : s.writeCycSrc v mask = .error .werr :=
  if_pos (Or.inl hmode)

theorem writeCycSrc_zeroDivider (hdiv : written s.lamp.srcWord v mask 16 16 = some 0)
    (hshown : s.lamp.tickDivP.getD s.lamp.tickDiv ≠ 0) : s.writeCycSrc v mask = .error .werr :=
  if_pos (Or.inr (by simp [hdiv, refusedC, shownC, hshown.symm]))

/-! ### CYC_PERIOD (R41, R364) -/

theorem writeCycPeriod_taken {p : Nat} (hp : written (s.regValue 0x0A) v mask 0 26 = some p)
    (hnew : p ≠ s.lamp.periodP.getD s.lamp.period) (hmode : s.lamp.modeP.getD s.lamp.mode = 2) (hlow : 256 ≤ p)
    (hge : 20000 ≤ p * s.lamp.tickDivP.getD s.lamp.tickDiv) (hle : p * s.lamp.tickDivP.getD s.lamp.tickDiv ≤ 400000000) :
    s.writeCycPeriod v mask = .ok { s with lamp := { s.lamp with periodP := some p } } := by
  have htaken : refusedC s.lamp.period s.lamp.periodP (some p) (fun x => extMode (s.lamp.modeNext none) || decide (x < 256) ||
      !productOk x (shownC s.lamp.tickDiv s.lamp.tickDivP)) = false := by
    simp [refusedC, LampState.modeNext, shownC, hmode, extMode, productOk, hlow, hge, hle]
  simp only [State.writeCycPeriod, hp, htaken]
  simp [pendC, shownC, hnew, State.onLamp]

theorem writeCycPeriod_external {p : Nat} (hp : written (s.regValue 0x0A) v mask 0 26 = some p)
    (hnew : p ≠ s.lamp.periodP.getD s.lamp.period) (hmode : s.lamp.modeP.getD s.lamp.mode = 0 ∨ s.lamp.modeP.getD s.lamp.mode = 1) :
    s.writeCycPeriod v mask = .error .werr := by
  refine if_pos ?_
  rw [hp]
  rcases hmode with hmode | hmode <;> simp [refusedC, LampState.modeNext, shownC, hmode, extMode, hnew]

/-- The value shown is never refused, and changes nothing (R353). -/
theorem writeCycPeriod_shown (hp : written (s.regValue 0x0A) v mask 0 26 = some (s.lamp.periodP.getD s.lamp.period)) :
    s.writeCycPeriod v mask = .ok s := by
  simp only [State.writeCycPeriod, hp]
  simp [refusedC, pendC, shownC, State.onLamp]

/-! ### PLAN_WIN (R51, R364) -/

/-- The field that PLAN_SEL names of the window it names, in the pending plan, which starts as the plan in force. -/
def State.planWindow (s : State) : Window := tget winNone (s.lamp.planP.getD s.lamp.plan) s.link.planWin.toNat

theorem writePlanWin_taken {n : Nat} (hn : written (BitVec.ofNat 32 (s.planWindow.field s.link.planField)) v mask 0 26 = some n)
    (hnew : n ≠ s.planWindow.field s.link.planField) (hlen : s.link.planField = 1 → n ≠ 0) (hkind : s.link.planField = 2 → n ≤ 15) :
    s.writePlanWin v mask = .ok { s with lamp := { s.lamp with
      planP := some (tset winNone (s.lamp.planP.getD s.lamp.plan) s.link.planWin.toNat
        (s.planWindow.withField s.link.planField n)) } } := by
  have hok : ¬((s.link.planField = 1 ∧ n = 0) ∨ (s.link.planField = 2 ∧ 15 < n)) := by
    rintro (⟨hf, hz⟩ | ⟨hf, hz⟩)
    · exact hlen hf hz
    · exact absurd (hkind hf) (by omega)
  unfold State.planWindow at hn hnew
  simp only [State.writePlanWin, shownC, hn, if_neg hnew, if_neg hok]
  rfl

theorem writePlanWin_zeroLength (hn : written (BitVec.ofNat 32 (s.planWindow.field s.link.planField)) v mask 0 26 = some 0)
    (hnew : s.planWindow.field s.link.planField ≠ 0) (hlen : s.link.planField = 1) : s.writePlanWin v mask = .error .werr := by
  unfold State.planWindow at hn hnew
  simp only [State.writePlanWin, shownC, hn, if_neg hnew.symm]
  exact if_pos (Or.inl ⟨hlen, trivial⟩)

end ClassC

/-! ### The three registers' rows -/

theorem written_all_low (cur v : Word) (w : Nat) (h : w ≤ 32) (h0 : 0 < w) :
    written cur v maskAll 0 w = some (v.toNat % 2 ^ w) := by
  rw [written_all cur v 0 w (by omega) h0, fieldOf_low]

theorem written_all_upperHalf (cur v : Word) : written cur v maskAll 16 16 = some (v.toNat / 65536) := by
  rw [written_all cur v 16 16 (by omega) (by omega), fieldOf_upperHalf]

theorem written_upperHalf (cur v : Word) : written cur v 0xFFFF0000 16 16 = some (v.toNat / 65536) := by
  rw [← fieldOf_upperHalf, ← fieldOf_merge_covered cur v (mask := 0xFFFF0000) (lo := 16) (w := 16) (by decide)]
  rfl

theorem exec_cycSrcWrite {s : State} {v : Word} (h : s.serves 0x09 = true) :
    let l := s.lamp
    let m : BitVec 2 := v.setWidth 2
    let d := v.toNat / 65536
    let shown := l.tickDivP.getD l.tickDiv
    (m ≠ 3 → d ≠ 0 → (m = 2 → d ≠ shown →
        20000 ≤ l.periodP.getD l.period * d ∧ l.periodP.getD l.period * d ≤ 400000000) →
      exec (.cycSrcWrite v 0xFFFFFFFF) s = .next (State.wrote { s with lamp := { l with
        modeP := some m, tickDivP := if d = shown then l.tickDivP else some d } } .ok)) ∧
    (m = 3 → exec (.cycSrcWrite v 0xFFFFFFFF) s = .next (s.wrote .werr)) ∧
    (d = 0 → shown ≠ 0 → exec (.cycSrcWrite v 0xFFFFFFFF) s = .next (s.wrote .werr)) ∧
    (d ≠ 0 → (l.modeP.getD l.mode = 2 → d ≠ shown →
        20000 ≤ l.periodP.getD l.period * d ∧ l.periodP.getD l.period * d ≤ 400000000) →
      exec (.cycSrcWrite v 0xFFFF0000) s = .next (State.wrote { s with lamp := { l with
        tickDivP := if d = shown then l.tickDivP else some d } } .ok)) := by
  have hidle := serves_idle h
  have hmode : BitVec.ofNat 2 (v.toNat % 2 ^ 2) = v.setWidth 2 := by
    rw [← fieldOf_low, ofNat_fieldOf_low]
  have hthree : v.toNat % 2 ^ 2 = 3 ↔ v.setWidth 2 = 3 := by
    rw [← BitVec.toNat_inj]
    simp
  have hlow (cur : Word) := written_all_low cur v 2 (by omega) (by omega)
  refine ⟨fun hm hd hprod => ?_, fun hm => ?_, fun hd hshown => ?_, fun hd hprod => ?_⟩
  · have hput := writeCycSrc_mode (s := s.actDropped) (hlow _) (written_all_upperHalf _ v) (mt hthree.mp hm) hd
      (fun hint => hprod (hmode ▸ hint))
    rw [hmode] at hput
    exact congrArg Host.Outcome.next (busWrite_leaves h (by decide) hput rfl hidle rfl)
  · have hput := writeCycSrc_reservedMode (s := s.actDropped) (hlow _ ▸ congrArg some (hthree.mpr hm))
    exact congrArg Host.Outcome.next (busWrite_error h (by decide) hput)
  · have hput := writeCycSrc_zeroDivider (s := s.actDropped) (written_all_upperHalf _ v ▸ congrArg some hd) hshown
    exact congrArg Host.Outcome.next (busWrite_error h (by decide) hput)
  · have hput := writeCycSrc_divider (s := s.actDropped) (v := v) (mask := 0xFFFF0000) rfl (written_upperHalf _ v) hd hprod
    exact congrArg Host.Outcome.next (busWrite_leaves h (by decide) hput rfl hidle rfl)

theorem exec_cycPeriodWrite {s : State} {v : Word} (h : s.serves 0x0A = true) :
    let l := s.lamp
    let p := v.toNat % 67108864
    let shown := l.periodP.getD l.period
    let div := l.tickDivP.getD l.tickDiv
    (p ≠ shown → l.modeP.getD l.mode = 2 → 256 ≤ p → 20000 ≤ p * div → p * div ≤ 400000000 →
      exec (.cycPeriodWrite v) s = .next (State.wrote { s with lamp := { l with periodP := some p } } .ok)) ∧
    (p ≠ shown → l.modeP.getD l.mode = 0 ∨ l.modeP.getD l.mode = 1 →
      exec (.cycPeriodWrite v) s = .next (s.wrote .werr)) ∧
    (shown < 67108864 → p = shown → exec (.cycPeriodWrite v) s = .next (s.wrote .ok)) := by
  have hidle := serves_idle h
  have hlow (cur : Word) := written_all_low cur v 26 (by omega) (by omega)
  refine ⟨fun hnew hmode hlo hge hle => ?_, fun hnew hmode => ?_, fun _ hshown => ?_⟩
  · have hput := writeCycPeriod_taken (s := s.actDropped) (hlow _) hnew hmode hlo hge hle
    exact congrArg Host.Outcome.next (busWrite_leaves h (by decide) hput rfl hidle rfl)
  · have hput := writeCycPeriod_external (s := s.actDropped) (hlow _) hnew hmode
    exact congrArg Host.Outcome.next (busWrite_error h (by decide) hput)
  · have hput := writeCycPeriod_shown (s := s.actDropped) (hlow _ ▸ congrArg some hshown)
    exact congrArg Host.Outcome.next (busWrite_leaves h (by decide) hput rfl hidle rfl)

theorem exec_planWinWrite {s : State} {v : Word} (h : s.serves 0x0F = true)
    (hnew : v.toNat % 67108864 ≠ s.planWindow.field s.link.planField) (hlen : s.link.planField = 1 → v.toNat % 67108864 ≠ 0)
    (hkind : s.link.planField = 2 → v.toNat % 67108864 ≤ 15) :
    exec (.planWinWrite v) s = .next (State.wrote { s with lamp := { s.lamp with
      planP := some (tset winNone (s.lamp.planP.getD s.lamp.plan) s.link.planWin.toNat
        (s.planWindow.withField s.link.planField (v.toNat % 67108864))) } } .ok) := by
  have hput := writePlanWin_taken (s := s.actDropped) (written_all_low _ v 26 (by omega) (by omega)) hnew hlen hkind
  exact congrArg Host.Outcome.next (busWrite_leaves h (by decide) hput rfl (serves_idle h) rfl)

theorem exec_planWinWrite_zeroLength {s : State} {v : Word} (h : s.serves 0x0F = true) (hfield : s.link.planField = 1)
    (hnew : s.planWindow.len ≠ 0) (hz : v.toNat % 67108864 = 0) : exec (.planWinWrite v) s = .next (s.wrote .werr) := by
  have hn (cur : Word) : written cur v maskAll 0 26 = some 0 :=
    (written_all_low cur v 26 (by omega) (by omega)).trans (congrArg some hz)
  have hput := writePlanWin_zeroLength (s := s.actDropped) (hn _) (by
    rw [show s.actDropped.link.planField = 1 from hfield]
    exact hnew) hfield
  exact congrArg Host.Outcome.next (busWrite_error h (by decide) hput)

/-- Settles O13: each write is a whole or masked one whose fields are the word's own, and the register's rule gives what they leave. -/
theorem classCWrites : Obligations.ClassCWrites := by
  unfold Obligations.ClassCWrites
  refine ⟨fun _ _ => exec_cycSrcWrite, fun _ _ => exec_cycPeriodWrite, fun s v h => ⟨fun hf hnew => ?_, fun hf hnew hpos => ?_,
    fun hf hnew hle => ?_, fun hf hnew hz => exec_planWinWrite_zeroLength h hf hnew hz⟩⟩
  · have hrun := exec_planWinWrite (v := v) h (by rw [hf]; exact hnew) (by simp [hf]) (by simp [hf])
    rw [hf] at hrun
    exact hrun
  · have hrun := exec_planWinWrite (v := v) h (by rw [hf]; exact hnew) (fun _ => by omega) (by simp [hf])
    rw [hf] at hrun
    exact hrun
  · have hrun := exec_planWinWrite (v := v) h (by rw [hf]; exact hnew) (by simp [hf]) (fun _ => hle)
    rw [hf] at hrun
    exact hrun

end Sys2Proof.Machine

/-! # ST_CMD, STREAM_SEL and ST_TRIM -/

namespace Sys2Proof.Machine
open Sys2Proof

/-! ### A register write whose rule changes INTAKE alone -/

/-- The parts that the stream registers write: INTAKE's. -/
def Touch.intakeOnly : Touch := { intake := true }

section StreamWrite

variable {s t : State} {a : Nat} {v mask : Word}

@[simp] theorem wrote_stream (t : State) (st : Status) (i : Nat) : (t.wrote st).stream i = t.stream i := rfl

/-- A write whose rule leaves t goes to the end of its access, with its act or its wait. -/
theorem busWrite_put (h : s.serves a = true) (ha : a ≠ 0x61) (hput : s.actDropped.regPut a v mask = .ok t) :
    s.busWrite a v mask = t.endAccess .ok [] 0x02 := by
  have e := regWrite_serves (v := v) (mask := mask) h ha
  rw [show (s.onLink fun l => { l with act := .none }).regPut a v mask = .ok t from hput] at e
  unfold State.serves at h
  simp only [Bool.and_eq_true, Bool.not_eq_true'] at h
  unfold State.busWrite
  rw [h.1.1, e]
  rfl

theorem busWrite_intakeOnly (h : s.serves a = true) (ha : a ≠ 0x61) (hput : s.actDropped.regPut a v mask = .ok t)
    (hk : Keeps .intakeOnly s.actDropped t) : s.busWrite a v mask = t.wrote .ok := by
  have hlink : t.link = s.actDropped.link := hk.linkF rfl
  exact busWrite_ok h ha hput (by rw [hlink]; rfl) (by rw [hlink]; exact serves_idle h)

theorem wrote_link_of_intakeOnly (hk : Keeps .intakeOnly s.actDropped t) : (t.wrote .ok).link = (s.wrote .ok).link := by
  have hlink : t.link = s.actDropped.link := hk.linkF rfl
  unfold State.wrote
  rw [hlink]
  rfl

theorem wrote_frame_of_intakeOnly (hk : Keeps .intakeOnly s.actDropped t) :
    t.wrote .ok = { s with link := (t.wrote .ok).link, intake := (t.wrote .ok).intake } := by
  have hframe : t = { s.actDropped with intake := t.intake } := hk.frame
  rw [hframe]
  rfl

end StreamWrite

/-! ### The commands' rules (R73, R81) -/

section StreamRules

variable {s : State} {i : Nat}

theorem stCommand_refused {o : StOp} {op : Nat} (hop : stOpOf op = some o) (hz : op ≠ 0)
    (h : s.running = false ∨ o.allowed (s.stream i) = false) : s.stCommand i op = .error .werr := by
  unfold State.stCommand
  rw [if_neg hz, hop]
  exact if_pos (by rcases h with h | h <;> simp [h])

/-! The states that R73 allows each command from. -/

theorem open_allowed (e : Stream) : StOp.open_.allowed e = (decide (e.st = .free) && !e.delPend) := by
  cases h : e.st <;> simp [StOp.allowed, h]

theorem end_allowed (e : Stream) : StOp.end_.allowed e = (decide (e.st = .open) || decide (e.st = .faulted)) := by
  cases h : e.st <;> simp [StOp.allowed, h]

theorem resume_allowed (e : Stream) : StOp.resume.allowed e =
    (decide (e.st = .draining) || decide (e.st = .faulted) || (decide (e.st = .closed) && !e.delPend)) := by
  cases h : e.st <;> simp [StOp.allowed, h]

theorem delete_allowed (e : Stream) : StOp.delete.allowed e = (decide (e.st = .closed) && !e.delPend) := by
  cases h : e.st <;> simp [StOp.allowed, h]

/-- What an allowed command does to the stream. -/
def State.stOp (s : State) (i : Nat) : StOp → State
  | .open_ => s.openStream i
  | .end_ => s.endStream i
  | .resume => (s.askResume i).awaitResume i
  | .delete => s.deleteStream i

theorem stCommand_taken {o : StOp} {op : Nat} (hop : stOpOf op = some o) (hz : op ≠ 0) (hrun : s.running = true)
    (h : o.allowed (s.stream i) = true) : s.stCommand i op = .ok (s.stOp i o) := by
  unfold State.stCommand
  rw [if_neg hz, hop]
  refine (if_neg (by simp [hrun, h])).trans ?_
  cases o <;> rfl

/-- The entry of a stream that OPEN takes into use (R81), but for the note that the next cask has of it. -/
def Stream.opened (e : Stream) (epoch n : Nat) : Stream :=
  { e with st := .open, replay := false, epoch := epoch, epochLost := false, accept := 0, durable := 0, trim := 0, front := 0, openCycle := n,
           fault := 0, lastBytes := 0, quotaSaid := [], poisonSaid := [], delCycle := Option.none, late := [], closedAll := false,
           resumeDue := false, trimSealed := 0 }

/-- The epoch that OPEN goes on from: the entry's own, or that of the journal's records where CONTAIN struck it (R80). -/
def State.epochBefore (s : State) (i : Nat) : Nat := if (s.stream i).epochLost then s.rebuiltEpoch i else (s.stream i).epoch

/-- OPEN leaves the entry new but for its class, its quota and its mirror (R81). -/
theorem openStream_stream (s : State) (i : Nat) : ∃ due, (s.openStream i).stream i =
    { ((s.stream i).opened (s.epochBefore i + 1) s.lamp.cycle).cut.note s.lamp.cycle .opened with mirrorDue := due } := by
  obtain ⟨due, h⟩ := mirrorEvent_stream_same ((s.forgetStream i).setStream i
    (((s.stream i).opened (s.epochBefore i + 1) s.lamp.cycle).cut.note s.lamp.cycle .opened)) i
  exact ⟨due, h.trans (by rw [setStream_stream_same])⟩

theorem openStream_stream_ne {j : Nat} (h : j ≠ i) : (s.openStream i).stream j = s.stream j :=
  (mirrorEvent_stream_ne _ i h).trans (modStream_stream_ne _ i _ h)

/-- A change of state leaves every field but the state and the mark of the mirror write. -/
theorem setSState_stream (s : State) (i : Nat) (x : SState) :
    ∃ due, (s.setSState i x).stream i = { s.stream i with st := x, mirrorDue := due } := by
  unfold State.setSState
  split
  · next h => exact ⟨(s.stream i).mirrorDue, by rw [← h]⟩
  · obtain ⟨due, h⟩ := mirrorEvent_stream_same (s.modStream i fun e => { e with st := x }) i
    exact ⟨due, by rw [h, modStream_stream_same]⟩

theorem setSState_stream_ne {j : Nat} (x : SState) (h : j ≠ i) : (s.setSState i x).stream j = s.stream j := by
  unfold State.setSState
  split
  · rfl
  · exact (mirrorEvent_stream_ne _ i h).trans (modStream_stream_ne s i _ h)

theorem closeUpTo_stream (s : State) (i : Nat) : (s.closeUpTo i).stream i = s.stream i ∧ ¬ (s.stream i).openCycle ≤ s.lamp.cycle ∨
    (s.stream i).openCycle ≤ s.lamp.cycle ∧ ∃ due, (s.closeUpTo i).stream i =
      { (s.stream i).closeTo s.lamp.cycle (s.lamp.cycle + 1) with mirrorDue := due } := by
  unfold State.closeUpTo
  split
  · next h => exact Or.inr ⟨h, applyClose_stream s i s.lamp.cycle⟩
  · next h => exact Or.inl ⟨rfl, h⟩

theorem closeUpTo_stream_ne {j : Nat} (h : j ≠ i) : (s.closeUpTo i).stream j = s.stream j := by
  unfold State.closeUpTo
  split
  · exact (mirrorEvent_stream_ne _ i h).trans (modStream_stream_ne s i _ h)
  · rfl

/-- END closes every cycle up to the current one for an OPEN stream, and takes either to DRAINING with its frontiers (R81). -/
theorem endStream_stream (s : State) (i : Nat) :
    ((s.endStream i).stream i).st = .draining ∧ ((s.endStream i).stream i).accept = (s.stream i).accept ∧
      ((s.endStream i).stream i).durable = (s.stream i).durable ∧ ((s.endStream i).stream i).front = (s.stream i).front ∧
      ((s.endStream i).stream i).openCycle =
        if (s.stream i).st = .open ∧ (s.stream i).openCycle ≤ s.lamp.cycle then s.lamp.cycle + 1 else (s.stream i).openCycle := by
  obtain ⟨due, h⟩ := setSState_stream ((if (s.stream i).st = .open then s.closeUpTo i else s).noteChange i .ended) i .draining
  rw [State.endStream, h, State.noteChange, modStream_stream_same]
  by_cases hopen : (s.stream i).st = .open
  · rw [if_pos hopen]
    rcases closeUpTo_stream s i with ⟨hsame, hlate⟩ | ⟨hle, due', hclosed⟩
    · rw [hsame, if_neg (fun h => hlate h.2)]
      exact ⟨rfl, rfl, rfl, rfl, rfl⟩
    · rw [hclosed, if_pos ⟨hopen, hle⟩]
      exact ⟨rfl, rfl, rfl, rfl, rfl⟩
  · rw [if_neg hopen, if_neg (fun h => hopen h.1)]
    exact ⟨rfl, rfl, rfl, rfl, rfl⟩

theorem endStream_stream_ne {j : Nat} (h : j ≠ i) : (s.endStream i).stream j = s.stream j := by
  refine (setSState_stream_ne _ h).trans ((modStream_stream_ne _ i _ h).trans ?_)
  split
  · exact closeUpTo_stream_ne h
  · rfl

theorem deleteStream_stream (s : State) (i : Nat) : (s.deleteStream i).stream i =
    ({ s.stream i with delPend := true, delCycle := some s.lamp.cycle } : Stream).note s.lamp.cycle .deleted := by
  rw [State.deleteStream, State.noteChange, modStream_stream_same, modStream_stream_same]
  rfl

theorem deleteStream_stream_ne {j : Nat} (h : j ≠ i) : (s.deleteStream i).stream j = s.stream j :=
  (modStream_stream_ne _ i _ h).trans (modStream_stream_ne s i _ h)

/-! ### RESUME (R59, R65, R81) -/

/-- What a RESUME that is carried out needs: acceptance at the intake frontier, INTAKE in no reset, and the port's leave for the mirror
write of a mirrored stream. -/
def State.canResume (s : State) (i : Nat) : Prop :=
  (s.stream i).accept = (s.stream i).front ∧ s.stopped .intake = false ∧ (s.mirrored i = false ∨ s.upstreamOpen = true)

/-- The stream after its mirror write, if it has one: but for the sequence and the mark of that write, as before. -/
theorem issueMirror_stream (s : State) (i : Nat) (st : SState) (replay : Bool) : ∃ seq due,
    (s.issueMirror i st replay).stream i = { s.stream i with mirrorSeq := seq, mirrorDue := due } :=
  ⟨_, _, by rw [State.issueMirror, modStream_stream_same]; rfl⟩

/-- What RESUME leaves of the stream: OPEN with REPLAY, the frontiers and ST_FAULT as they stand (R59, R65). -/
theorem resumeStream_stream (s : State) (i : Nat) :
    ∃ seq due changed, (s.resumeStream i).stream i = { s.stream i with
      mirrorSeq := seq, mirrorDue := due, changed := changed, st := .open, replay := true, resumeDue := false, closedAll := false,
      openCycle := if (s.stream i).noOpen then s.lamp.cycle else (s.stream i).openCycle } := by
  unfold State.resumeStream
  rw [modStream_stream_same]
  by_cases hm : s.mirrored i = true
  · rw [if_pos hm]
    obtain ⟨seq, due, h⟩ := issueMirror_stream s i .open true
    rw [h]
    exact ⟨seq, due, _, rfl⟩
  · rw [if_neg hm]
    exact ⟨(s.stream i).mirrorSeq, (s.stream i).mirrorDue, _, rfl⟩

/-- The open cycle after a RESUME, which no OPEN stream takes: the stream's own in DRAINING with no fault before it (R65). -/
theorem resumed_openCycle (e : Stream) (n : Nat) (h : e.st ≠ .open) :
    (if e.noOpen then n else e.openCycle) = if e.st = .draining ∧ e.closedAll = false then e.openCycle else n := by
  have hlive : e.noOpen = false ↔ e.st = .draining ∧ e.closedAll = false := by simp [noOpen_eq_false_iff, h]
  simp only [← hlive]
  cases e.noOpen <;> rfl

theorem carryResume_due (hdue : (s.stream i).resumeDue = true) (hrun : s.running = true) (h : s.canResume i) :
    s.carryResume i = s.resumeStream i := by
  obtain ⟨haccept, hintake, hport⟩ := h
  exact if_pos (by simpa [hdue, hrun, haccept, hintake] using hport)

theorem carryResume_waits (h : ¬ s.canResume i) : s.carryResume i = s := by
  refine if_neg fun hc => h ?_
  simp only [Bool.and_eq_true, decide_eq_true_eq, Bool.or_eq_true, Bool.not_eq_true'] at hc
  obtain ⟨⟨⟨⟨hdue, haccept⟩, hrun⟩, hintake⟩, hport⟩ := hc
  exact ⟨haccept, hintake, hport⟩

/-- The state in which RESUME has been asked for stream i. -/
def State.resumeAsked (s : State) (i : Nat) : State := s.modStream i fun e => { e with resumeDue := true }

theorem resumeAsked_stream (s : State) (i : Nat) : (s.resumeAsked i).stream i = { s.stream i with resumeDue := true } :=
  modStream_stream_same s i _

theorem canResume_resumeAsked : (s.resumeAsked i).canResume i ↔ s.canResume i := by
  unfold State.canResume State.mirrored
  rw [resumeAsked_stream]
  rfl

theorem askResume_carried (hrun : s.running = true) (h : s.canResume i) : s.askResume i = (s.resumeAsked i).resumeStream i := by
  have hasked := canResume_resumeAsked.mpr h
  have hdue : ((s.resumeAsked i).stream i).resumeDue = true := congrArg Stream.resumeDue (resumeAsked_stream s i)
  exact (if_pos hasked.1).trans (carryResume_due hdue hrun hasked)

/-- A flush that starts changes no stream: only its list of flushes, and what it programs. -/
theorem startFlush_stream (s : State) (f : Sparse Nat) (j : Nat) : (s.startFlush f).stream j = s.stream j := by
  have hk := keeps_flushProgram f (Keeps.refl { media := true, place := true } (s.onIntake fun t => { t with flushes := t.flushes ++ [f] }))
    rfl rfl
  unfold State.stream State.startFlush
  rw [hk.intakeF rfl]
  rfl

/-- A RESUME that waits leaves its mark on the stream, and a flush where ST_ACCEPT moves with notes (R81, R109). -/
theorem askResume_held (h : ¬ s.canResume i) :
    s.askResume i = s.resumeAsked i ∨ ∃ f, s.askResume i = (s.resumeAsked i).startFlush f := by
  have hcarry : (s.resumeAsked i).carryResume i = s.resumeAsked i := carryResume_waits (mt canResume_resumeAsked.mp h)
  unfold State.askResume
  rw [show (s.modStream i fun e => { e with resumeDue := true }) = s.resumeAsked i from rfl]
  extract_lets f
  rw [hcarry]
  split
  · exact Or.inl rfl
  · split
    · exact Or.inr ⟨_, rfl⟩
    · exact Or.inl rfl

theorem askResume_waits (h : ¬ s.canResume i) :
    (s.askResume i).stream i = { s.stream i with resumeDue := true } ∧
      Keeps { intake := true, media := true, place := true } s (s.askResume i) := by
  have hk : Keeps { intake := true, media := true, place := true } s (s.resumeAsked i) :=
    keeps_modStream i _ (Keeps.refl _ s) rfl
  rcases askResume_held h with h | ⟨f, h⟩ <;> rw [h]
  · exact ⟨resumeAsked_stream s i, hk⟩
  · exact ⟨(startFlush_stream _ f i).trans (resumeAsked_stream s i), keeps_startFlush f hk rfl rfl rfl⟩

/-- The execution waits with a RESUME that is held in write-through, and not with one that has been carried out. -/
theorem awaitResume_held (hwt : s.writeThrough = true) (hdue : (s.stream i).resumeDue = true) : s.awaitResume i =
    s.onLink fun l => { l with paused := some { stream := i, addr := 0, step := 0, words := [] } } :=
  if_pos (by simp [hwt, hdue])

theorem awaitResume_passes (h : s.writeThrough = false ∨ (s.stream i).resumeDue = false) : s.awaitResume i = s :=
  if_neg (by rcases h with h | h <;> simp [h])

/-- The end of an access that waits: its execution goes on with the RESUME. -/
theorem endAccess_held {w : LinkWait} (st : Status) (code : Byte) (hp : s.link.paused = some w) (hact : s.link.act = .none) :
    s.endAccess st [] code = s.onLink fun l => { l with
      status := st, rdata := [], act := .none
      run := some { kind := .single, count := 1, out := [], code := code, rest := [], silent := false } } := by
  simp [State.endAccess, State.doAct, State.onLink, hp, hact]

/-- The end of the access of a RESUME that waits: the execution waits with it in write-through, and ends with OK elsewhere (R81). -/
theorem awaitResume_endAccess (code : Byte) (hpaused : s.link.paused = none) (hact : s.link.act = .none) (hidle : s.link.run = none)
    (hdue : (s.stream i).resumeDue = true) : ∃ l, (s.awaitResume i).endAccess .ok [] code = { s with link := l } ∧
      (s.writeThrough = false → l.status = .ok ∧ l.run = none ∧ l.paused = none) ∧
      (s.writeThrough = true → (∃ r, l.run = some r ∧ r.kind = .single) ∧ ∃ w, l.paused = some w ∧ w.stream = i ∧ w.words = []) := by
  cases hw : s.writeThrough with
  | false =>
    rw [awaitResume_passes (Or.inl hw), endAccess_idle _ _ _ hpaused hact]
    exact ⟨_, rfl, fun _ => ⟨rfl, hidle, hpaused⟩, nofun⟩
  | true =>
    rw [awaitResume_held hw hdue, endAccess_held (w := { stream := i, addr := 0, step := 0, words := [] }) _ _ rfl (by exact hact)]
    exact ⟨_, rfl, nofun, fun _ => ⟨⟨_, rfl, rfl⟩, _, rfl, rfl, rfl⟩⟩

/-- An execution by itself that waits with no more words ends with OK once its RESUME is over. -/
theorem finishRun_single {u : State} {r : LinkRun} {w : LinkWait} (hrun : u.link.run = some r) (hkind : r.kind = .single)
    (hpaused : u.link.paused = some w) (hwords : w.words = []) (hact : u.link.act = .none) (hw : u.waits w = false) :
    u.finishRun = { u with link := { u.link with paused := none, run := none, status := .ok, rdata := [], act := .none } } := by
  simp [State.finishRun, hrun, hpaused, hw, hwords, writeRegs, State.endRun, hkind, State.doAct, State.onLink, hact]

theorem finishRun_waits {u : State} {r : LinkRun} {w : LinkWait} (hrun : u.link.run = some r) (hpaused : u.link.paused = some w)
    (hw : u.waits w = true) : u.finishRun = u := by
  simp [State.finishRun, hrun, hpaused, hw]

end StreamRules

/-! ### The writes of ST_CMD -/

/-- The word that asks for a command (R73). -/
def StOp.word : StOp → Word
  | .open_ => 1 | .end_ => 2 | .resume => 3 | .delete => 4

theorem stOpOf_word (o : StOp) :
    fieldOf (o.word &&& maskAll) 0 3 ≠ 0 ∧ stOpOf (fieldOf (o.word &&& maskAll) 0 3) = some o := by
  cases o <;> decide

section StreamWrites

variable {s : State}

theorem regPut_stCmd_taken {o : StOp} (hrun : s.running = true) (hok : o.allowed (s.stream s.link.streamSel.toNat) = true) :
    s.actDropped.regPut 0x12 o.word maskAll = .ok (s.actDropped.stOp s.link.streamSel.toNat o) :=
  stCommand_taken (s := s.actDropped) (stOpOf_word o).2 (stOpOf_word o).1 hrun hok

/-- ST_CMD written with an allowed command that leaves LINK alone. -/
theorem busWrite_stOp (o : StOp) (h : s.serves 0x12 = true) (hrun : s.running = true)
    (hok : o.allowed (s.stream s.link.streamSel.toNat) = true)
    (hk : Keeps .intakeOnly s.actDropped (s.actDropped.stOp s.link.streamSel.toNat o)) :
    s.busWrite 0x12 o.word maskAll = (s.actDropped.stOp s.link.streamSel.toNat o).wrote .ok :=
  busWrite_intakeOnly h (by decide) (regPut_stCmd_taken hrun hok) hk

theorem busWrite_stOp_refused (o : StOp) (h : s.serves 0x12 = true)
    (hno : s.running = false ∨ o.allowed (s.stream s.link.streamSel.toNat) = false) :
    s.busWrite 0x12 o.word maskAll = s.wrote .werr :=
  busWrite_error h (by decide) (stCommand_refused (s := s.actDropped) (stOpOf_word o).2 (stOpOf_word o).1 hno)

theorem exec_stCmdOpen (h : s.serves 0x12 = true) (hrun : s.running = true)
    (hok : StOp.open_.allowed (s.stream s.link.streamSel.toNat) = true) :
    exec .stCmdOpen s = .next ((s.actDropped.openStream s.link.streamSel.toNat).wrote .ok) :=
  congrArg Host.Outcome.next (busWrite_stOp .open_ h hrun hok (keeps_openStream _ (Keeps.refl _ _) rfl))

theorem exec_stCmdEnd (h : s.serves 0x12 = true) (hrun : s.running = true)
    (hok : StOp.end_.allowed (s.stream s.link.streamSel.toNat) = true) :
    exec .stCmdEnd s = .next ((s.actDropped.endStream s.link.streamSel.toNat).wrote .ok) :=
  congrArg Host.Outcome.next (busWrite_stOp .end_ h hrun hok (keeps_endStream _ (Keeps.refl _ _) rfl))

theorem exec_stCmdDelete (h : s.serves 0x12 = true) (hrun : s.running = true)
    (hok : StOp.delete.allowed (s.stream s.link.streamSel.toNat) = true) :
    exec .stCmdDelete s = .next ((s.actDropped.deleteStream s.link.streamSel.toNat).wrote .ok) :=
  congrArg Host.Outcome.next (busWrite_stOp .delete h hrun hok (keeps_deleteStream _ (Keeps.refl _ _) rfl))

/-- RESUME goes to the end of its access with what it did, or with its wait. -/
theorem exec_stCmdResume (h : s.serves 0x12 = true) (hrun : s.running = true)
    (hok : StOp.resume.allowed (s.stream s.link.streamSel.toNat) = true) :
    exec .stCmdResume s = .next
      (((s.actDropped.askResume s.link.streamSel.toNat).awaitResume s.link.streamSel.toNat).endAccess .ok [] 0x02) :=
  congrArg Host.Outcome.next (busWrite_put (v := StOp.resume.word) h (by decide) (regPut_stCmd_taken (o := .resume) hrun hok))

/-- A RESUME that may be carried out is carried out within the access (R81). -/
theorem exec_stCmdResume_now (h : s.serves 0x12 = true) (hrun : s.running = true)
    (hok : StOp.resume.allowed (s.stream s.link.streamSel.toNat) = true) (hnow : s.canResume s.link.streamSel.toNat) :
    exec .stCmdResume s = .next (((s.actDropped.resumeAsked s.link.streamSel.toNat).resumeStream s.link.streamSel.toNat).wrote .ok) := by
  rw [exec_stCmdResume h hrun hok, askResume_carried (s := s.actDropped) hrun hnow]
  have hk := keeps_resumeStream (L := { intake := true, host := true }) s.link.streamSel.toNat
    (Keeps.refl _ (s.actDropped.resumeAsked s.link.streamSel.toNat)) rfl rfl
  have hlink : ((s.actDropped.resumeAsked s.link.streamSel.toNat).resumeStream s.link.streamSel.toNat).link = s.actDropped.link :=
    hk.linkF rfl
  obtain ⟨seq, due, changed, hstream⟩ := resumeStream_stream (s.actDropped.resumeAsked s.link.streamSel.toNat) s.link.streamSel.toNat
  rw [awaitResume_passes (Or.inr (by rw [hstream])), endAccess_idle _ _ _ (by rw [hlink]; exact serves_idle h) (by rw [hlink]; rfl)]
  rfl

theorem exec_stCmdResume_waits (h : s.serves 0x12 = true) (hrun : s.running = true)
    (hok : StOp.resume.allowed (s.stream s.link.streamSel.toNat) = true) (hno : ¬ s.canResume s.link.streamSel.toNat) :
    ∃ t, exec .stCmdResume s = .next t ∧
      t.stream s.link.streamSel.toNat = { s.stream s.link.streamSel.toNat with resumeDue := true } ∧
      (s.writeThrough = false → t.link.status = .ok ∧ t.link.run = none ∧ t.link.paused = none) ∧
      (s.writeThrough = true → (∃ r, t.link.run = some r ∧ r.kind = .single) ∧
        ∃ w, t.link.paused = some w ∧ w.stream = s.link.streamSel.toNat ∧ w.words = []) := by
  obtain ⟨hstream, hk⟩ := askResume_waits (s := s.actDropped) hno
  have hlink := hk.linkF rfl
  have hwt : (s.actDropped.askResume s.link.streamSel.toNat).writeThrough = s.writeThrough :=
    congrArg (fun c : ClockState => decide (c.dev = .degraded)) (hk.clockF rfl)
  obtain ⟨l, hend, hback, hthrough⟩ := awaitResume_endAccess 0x02 (by rw [hlink]; exact serves_idle h) (by rw [hlink]; rfl)
    (by rw [hlink]; exact (busOpen_idle (serves_busOpen h)).1) (congrArg Stream.resumeDue hstream)
  rw [hwt] at hback hthrough
  exact ⟨_, (exec_stCmdResume h hrun hok).trans (congrArg Host.Outcome.next hend), hstream, hback, hthrough⟩

end StreamWrites

/-- Settles O15: each command by its rule on the selected entry; RESUME by whether it may be carried out at once. -/
theorem streamCommands : Obligations.StreamCommands := by
  unfold Obligations.StreamCommands
  refine ⟨fun s h hrun => ⟨fun hfree hdel => ?_, fun hst => ?_, fun hclosed hdel => ?_⟩,
    fun s h hrun hst => ⟨fun hnow => ?_, fun hno => ?_, fun u hu hintake hdue haccept hport => ?_,
      fun u r w hr hkind hp hwords hact => ⟨fun hw => finishRun_waits hr hp hw, fun hw => finishRun_single hr hkind hp hwords hact hw⟩⟩,
    fun s h => ⟨fun hno => ?_, fun hno => ?_, fun hno => ?_, fun hno => ?_⟩⟩
  · have hk := keeps_openStream (L := .intakeOnly) s.link.streamSel.toNat (Keeps.refl _ s.actDropped) rfl
    obtain ⟨due, hstream⟩ := openStream_stream s.actDropped s.link.streamSel.toNat
    refine ⟨_, exec_stCmdOpen h hrun (by simp [open_allowed, hfree, hdel]), wrote_link_of_intakeOnly hk, wrote_frame_of_intakeOnly hk,
      fun j hj => openStream_stream_ne hj, ?_⟩
    rw [wrote_stream, hstream]
    exact ⟨rfl, rfl, rfl, rfl, rfl, rfl, rfl, rfl, rfl, rfl, rfl⟩
  · have hk := keeps_endStream (L := .intakeOnly) s.link.streamSel.toNat (Keeps.refl _ s.actDropped) rfl
    refine ⟨_, exec_stCmdEnd h hrun (by simpa [end_allowed] using hst), wrote_link_of_intakeOnly hk,
      wrote_frame_of_intakeOnly hk, ?_⟩
    simp only [wrote_stream]
    exact ⟨fun j hj => endStream_stream_ne hj, endStream_stream s.actDropped s.link.streamSel.toNat⟩
  · have hk := keeps_deleteStream (L := .intakeOnly) s.link.streamSel.toNat (Keeps.refl _ s.actDropped) rfl
    refine ⟨_, exec_stCmdDelete h hrun (by simp [delete_allowed, hclosed, hdel]), wrote_link_of_intakeOnly hk,
      wrote_frame_of_intakeOnly hk, fun j hj => deleteStream_stream_ne hj, ?_⟩
    rw [wrote_stream, deleteStream_stream]
    exact ⟨hclosed, rfl, rfl⟩
  · have hok : StOp.resume.allowed (s.stream s.link.streamSel.toNat) = true := by simpa [resume_allowed, or_assoc] using hst
    obtain ⟨seq, due, changed, hstream⟩ := resumeStream_stream (s.actDropped.resumeAsked s.link.streamSel.toNat) s.link.streamSel.toNat
    have hk := keeps_resumeStream (L := { intake := true, host := true }) s.link.streamSel.toNat
      (Keeps.refl _ (s.actDropped.resumeAsked s.link.streamSel.toNat)) rfl rfl
    refine ⟨_, exec_stCmdResume_now h hrun hok hnow, rfl, ?_, ?_⟩
    · exact (congrArg LinkState.run (hk.linkF rfl)).trans (busOpen_idle (serves_busOpen h)).1
    · rw [wrote_stream, hstream, resumeAsked_stream]
      refine ⟨rfl, rfl, rfl, rfl, rfl, rfl, rfl, ?_⟩
      exact resumed_openCycle (s.stream s.link.streamSel.toNat) s.lamp.cycle (by rcases hst with hst | hst | ⟨hst, -⟩ <;> simp [hst])
  · have hok : StOp.resume.allowed (s.stream s.link.streamSel.toNat) = true := by simpa [resume_allowed, or_assoc] using hst
    exact exec_stCmdResume_waits h hrun hok hno
  · obtain ⟨seq, due, changed, hstream⟩ := resumeStream_stream u s.link.streamSel.toNat
    rw [carryResume_due hdue hu ⟨haccept, hintake, hport⟩, hstream]
    exact ⟨rfl, rfl, rfl⟩
  · exact congrArg Host.Outcome.next (busWrite_stOp_refused .open_ h (hno.imp_right fun hno => by
      rcases hno with hno | hno <;> simp [open_allowed, hno]))
  · exact congrArg Host.Outcome.next (busWrite_stOp_refused .end_ h (hno.imp_right fun ⟨hopen, hfault⟩ => by
      simp [end_allowed, hopen, hfault]))
  · exact congrArg Host.Outcome.next (busWrite_stOp_refused .resume h (hno.imp_right fun hno => by
      rcases hno with hno | hno | ⟨hno, hdel⟩ <;> simp [resume_allowed, *]))
  · exact congrArg Host.Outcome.next (busWrite_stOp_refused .delete h (hno.imp_right fun hno => by
      rcases hno with hno | hno <;> simp [delete_allowed, hno]))

end Sys2Proof.Machine

/-! # STREAM_SEL, ST_TRIM, BOOT_HOLD, IRQ_ENABLE, SET_CTRL and the indirect access -/

namespace Sys2Proof.Machine
open Sys2Proof

/-! ### STREAM_SEL and ST_TRIM (R90, R357) -/

section SelectTrim

variable {s : State} {v : Word}

theorem regPut_streamSel (s : State) (v : Word) : s.regPut 0x10 v maskAll = .ok { s with
    link := { s.link with streamSel := v.setWidth 10 }
    intake := { s.intake with latchAccept := none, latchDurable := none, latchTrim := none, trimHi := none } } := by
  show Except.ok (s.writeStreamSel v maskAll) = _
  unfold State.writeStreamSel
  rw [sel_all 0 10 (by omega) (by omega), merge_all]
  rfl

theorem exec_streamSelWrite (h : s.serves 0x10 = true) : exec (.streamSelWrite v) s = .next (State.wrote { s with
    link := { s.link with streamSel := v.setWidth 10 }
    intake := { s.intake with latchAccept := none, latchDurable := none, latchTrim := none, trimHi := none } } .ok) :=
  congrArg Host.Outcome.next (busWrite_leaves h (by decide) (regPut_streamSel _ v) rfl (serves_idle h) rfl)

theorem regPut_stTrimHi (s : State) (v : Word) :
    s.regPut 0x19 v maskAll = .ok { s with intake := { s.intake with trimHi := some v } } := by
  show Except.ok (s.writeStTrimHi v maskAll) = _
  unfold State.writeStTrimHi
  rw [if_neg (by decide)]
  simp only [merge_all]
  rfl

theorem exec_stTrimHiWrite (h : s.serves 0x19 = true) :
    exec (.stTrimHiWrite v) s = .next (State.wrote { s with intake := { s.intake with trimHi := some v } } .ok) :=
  congrArg Host.Outcome.next (busWrite_leaves h (by decide) (regPut_stTrimHi _ v) rfl (serves_idle h) rfl)

/-- The word that a write of ST_TRIM_LO completes: with the staged high word, or that of ST_TRIM as it stands (R90). -/
def State.trimWritten (s : State) (v : Word) : Nat := s.trimValue s.link.streamSel.toNat v

theorem regPut_stTrimLo (s : State) (v : Word) : s.regPut 0x18 v maskAll = s.writeTrimLo s.link.streamSel.toNat v := by
  show s.writeTrimLo s.link.streamSel.toNat (merge (halfOf s.selStream.trim 0) v maskAll) = _
  rw [merge_all]

/-- The state in which ST_TRIM of stream i has moved to n, which the next cask says (R90, R124). -/
def State.trimmedTo (s : State) (i n : Nat) : State :=
  ((s.onIntake fun x => { x with trimHi := none }).modStream i fun e => { e with trim := n }).noteChange i .trimmed

theorem writeTrimLo_taken {i : Nat} (hst : (s.stream i).st ≠ .free) (hlow : (s.stream i).trim < s.trimValue i v)
    (hhigh : s.trimValue i v ≤ (s.stream i).durable) : s.writeTrimLo i v = .ok (s.trimmedTo i (s.trimValue i v)) := by
  unfold State.writeTrimLo
  rw [if_neg (by omega), if_neg (by simp only [hst, false_or]; omega)]
  rfl

theorem writeTrimLo_refused {i : Nat} (hnew : s.trimValue i v ≠ (s.stream i).trim)
    (hno : (s.stream i).st = .free ∨ s.trimValue i v < (s.stream i).trim ∨ (s.stream i).durable < s.trimValue i v) :
    s.writeTrimLo i v = .error .werr := by
  unfold State.writeTrimLo
  rw [if_neg hnew, if_pos hno]

theorem trimmedTo_stream (s : State) (i n : Nat) :
    (s.trimmedTo i n).stream i = ({ s.stream i with trim := n } : Stream).note s.lamp.cycle .trimmed := by
  rw [State.trimmedTo, State.noteChange, modStream_stream_same, modStream_stream_same]
  rfl

theorem trimmedTo_stream_ne {i j : Nat} (n : Nat) (h : j ≠ i) : (s.trimmedTo i n).stream j = s.stream j :=
  (modStream_stream_ne _ i _ h).trans (modStream_stream_ne _ i _ h)

theorem keeps_trimmedTo (i n : Nat) : Keeps .intakeOnly s (s.trimmedTo i n) :=
  keeps_noteChange i .trimmed (keeps_modStream i _ (keeps_onIntake _ (fun _ h => h) (Keeps.refl _ s) rfl) rfl) rfl

theorem exec_stTrimLoWrite (h : s.serves 0x18 = true) {n : Nat} (hn : s.trimWritten v = n)
    (hst : (s.stream s.link.streamSel.toNat).st ≠ .free) (hlow : (s.stream s.link.streamSel.toNat).trim < n)
    (hhigh : n ≤ (s.stream s.link.streamSel.toNat).durable) :
    exec (.stTrimLoWrite v) s = .next ((s.actDropped.trimmedTo s.link.streamSel.toNat n).wrote .ok) := by
  subst hn
  exact congrArg Host.Outcome.next (busWrite_intakeOnly h (by decide)
    ((regPut_stTrimLo _ v).trans (writeTrimLo_taken (s := s.actDropped) hst hlow hhigh)) (keeps_trimmedTo _ _))

theorem exec_stTrimLoWrite_refused (h : s.serves 0x18 = true)
    (hnew : s.trimWritten v ≠ (s.stream s.link.streamSel.toNat).trim)
    (hno : (s.stream s.link.streamSel.toNat).st = .free ∨ s.trimWritten v < (s.stream s.link.streamSel.toNat).trim ∨
      (s.stream s.link.streamSel.toNat).durable < s.trimWritten v) : exec (.stTrimLoWrite v) s = .next (s.wrote .werr) :=
  congrArg Host.Outcome.next (busWrite_error h (by decide)
    ((regPut_stTrimLo s.actDropped v).trans (writeTrimLo_refused (s := s.actDropped) hnew hno)))

end SelectTrim

/-- Settles O16: the three registers' own rules, ST_TRIM_LO's by the place of the value between ST_TRIM and ST_DURABLE. -/
theorem selectAndTrim : Obligations.SelectAndTrim := by
  unfold Obligations.SelectAndTrim
  refine fun s v => ⟨exec_streamSelWrite, exec_stTrimHiWrite, fun h => ?_⟩
  intro i e n
  have hn : s.trimWritten v = n := by
    unfold State.trimWritten State.trimValue
    cases hhi : s.intake.trimHi with
    | none => simp only [n, hhi, Option.getD_none, BitVec.toNat_ofNat]; rfl
    | some hi => simp only [n, hhi, Option.getD_some]
  refine ⟨fun hst hlow hhigh => ?_, fun hnew hno => exec_stTrimLoWrite_refused h (hn ▸ hnew) (hn ▸ hno)⟩
  have hk : Keeps .intakeOnly s.actDropped (s.actDropped.trimmedTo i n) := keeps_trimmedTo i n
  refine ⟨_, exec_stTrimLoWrite h hn hst hlow hhigh, wrote_link_of_intakeOnly hk, wrote_frame_of_intakeOnly hk, rfl, ?_⟩
  simp only [wrote_stream]
  rw [trimmedTo_stream]
  exact ⟨rfl, rfl, rfl, fun j hj => trimmedTo_stream_ne n hj⟩

/-! ### BOOT_HOLD, IRQ_ENABLE and SET_CTRL (R148, R358 to R361, R371) -/

section Control

variable {s : State} {v : Word}

/-- The word that BOOT_HOLD is written with. -/
def holdWord (h : Bool) : Word := if h then 0x10000 else 0

/-- The bit of BOOT_HOLD is the mask's own, and the write selects no other field. -/
theorem written_hold (cur : Word) (h : Bool) : written cur (holdWord h) 0x10000 16 1 = some (bit h) := by
  have hfield : fieldOf (holdWord h) 16 1 = bit h := by cases h <;> rfl
  rw [← hfield, ← fieldOf_merge_covered cur (holdWord h) (mask := 0x10000) (lo := 16) (w := 1) (by decide)]
  rfl

theorem written_hold_refresh (cur : Word) (h : Bool) : written cur (holdWord h) 0x10000 0 8 = none := rfl

theorem bit_ne_zero (h : Bool) : (bit h != 0) = h := by cases h <;> rfl

theorem fieldOf_hold_action (h : Bool) : fieldOf (holdWord h &&& 0x10000) 8 4 = 0 := by cases h <;> rfl

theorem writeDevCtrl_hold (s : State) (h : Bool) : s.writeDevCtrl (holdWord h) 0x10000 =
    if h != s.clock.bootHold && decide (s.clock.dev ≠ .boot) then .error .werr
    else .ok { s with clock := { s.clock with bootHold := h } } := by
  unfold State.writeDevCtrl
  simp only [written_hold, written_hold_refresh, fieldOf_hold_action, Option.getD_some, bit_ne_zero, refusedC, pendC, bne_self_eq_false,
    Bool.false_and, Bool.or_false, Bool.false_or]
  rfl

theorem exec_bootHoldWrite {h : Bool} (hs : s.serves 0x03 = true) (hboot : s.clock.dev = .boot) :
    exec (.bootHoldWrite h) s = .next (State.wrote { s with clock := { s.clock with bootHold := h } } .ok) :=
  congrArg Host.Outcome.next (busWrite_leaves hs (by decide)
    ((writeDevCtrl_hold s.actDropped h).trans (if_neg (by
      rw [decide_eq_false (not_not_intro (show s.actDropped.clock.dev = .boot from hboot)), Bool.and_false]
      nofun))) rfl (serves_idle hs) rfl)

theorem exec_bootHoldWrite_refused {h : Bool} (hs : s.serves 0x03 = true) (hboot : s.clock.dev ≠ .boot) (hnew : h ≠ s.clock.bootHold) :
    exec (.bootHoldWrite h) s = .next (s.wrote .werr) :=
  congrArg Host.Outcome.next (busWrite_error hs (by decide)
    ((writeDevCtrl_hold s.actDropped h).trans (if_pos (Bool.and_eq_true_iff.mpr ⟨bne_iff_ne.mpr hnew, decide_eq_true hboot⟩))))

/-- The state in which IRQ_ENABLE holds n. -/
def State.irqEnabled (s : State) (n : BitVec 20) : State := s.onLink fun l => { l with irqEnable := n }

theorem regPut_irqEnable (s : State) (v : Word) : s.regPut 0x06 v maskAll =
    .ok (if s.link.irqStatus &&& v.setWidth 20 &&& ~~~s.link.irqEnable ≠ 0 then (s.irqEnabled (v.setWidth 20)).signal 32
      else s.irqEnabled (v.setWidth 20)) := by
  show Except.ok (s.writeIrqEnable v maskAll) = _
  unfold State.writeIrqEnable
  rw [merge_all]
  rfl

/-- A vector that nothing masks is signalled at once where the port may issue (R311). -/
theorem signal_issued {k : Nat} (hport : s.upstreamOpen = true) (hon : s.host.msixOn = true) (hmask : s.host.vectorMasked k = false) :
    s.signal k = s.issue (.vector k) := by
  have hmain : s.clock.mainOn = true := by
    unfold State.upstreamOpen at hport
    simp only [Bool.and_eq_true] at hport
    exact hport.1.1.1
  simp [State.signal, hmain, hon, hmask, hport]

theorem exec_irqEnableWrite_quiet (h : s.serves 0x06 = true) (hnew : s.link.irqStatus &&& v.setWidth 20 &&& ~~~s.link.irqEnable = 0) :
    exec (.irqEnableWrite v) s = .next ((s.irqEnabled (v.setWidth 20)).wrote .ok) :=
  congrArg Host.Outcome.next (busWrite_leaves h (by decide)
    ((regPut_irqEnable _ v).trans (congrArg Except.ok (if_neg (not_not_intro hnew)))) rfl (serves_idle h) rfl)

theorem exec_irqEnableWrite_signals (h : s.serves 0x06 = true)
    (hnew : s.link.irqStatus &&& v.setWidth 20 &&& ~~~s.link.irqEnable ≠ 0) (hport : s.upstreamOpen = true)
    (hon : s.host.msixOn = true) (hmask : s.host.vectorMasked 32 = false) :
    exec (.irqEnableWrite v) s = .next (((s.irqEnabled (v.setWidth 20)).issue (.vector 32)).wrote .ok) :=
  congrArg Host.Outcome.next (busWrite_leaves h (by decide)
    ((regPut_irqEnable _ v).trans (congrArg Except.ok ((if_pos hnew).trans
      (signal_issued (s := s.actDropped.irqEnabled (v.setWidth 20)) hport hon hmask)))) rfl (serves_idle h) rfl)

/-- A table in which every index of a list holds x. -/
theorem tget_foldl_tset {α : Type} [DecidableEq α] (d x : α) {p : Nat} (l : List Nat) (t : Sparse α)
    (h : p ∈ l ∨ tget d t p = x) : tget d (l.foldl (fun t p => tset d t p x) t) p = x := by
  induction l generalizing t with
  | nil => simpa using h
  | cons q l ih =>
    refine ih _ ?_
    by_cases hq : p = q
    · subst hq
      exact Or.inr (tget_tset_same d t p x)
    · rcases h with h | h
      · exact Or.inl ((List.mem_cons.mp h).resolve_left hq)
      · exact Or.inr ((tget_tset_ne d t x hq).trans h)

/-- The state in which SET_CTRL has been accepted: its four fields, and each peer's last cycle number the current one (R148, R371). -/
def State.setWrittenWith (s : State) (v : Word) : State :=
  { s with
    link := { s.link with
      setId := v.setWidth 16, member := fieldOf v 16 3, count := fieldOf v 20 3, wait := fieldOf v 24 8, setWritten := true }
    host := { s.host with mp := (List.range 6).foldl (fun t p => tset 0 t p s.lamp.cycle) [] } }

theorem regPut_setCtrl_masked (s : State) (v mask : Word) :
    s.regPut 0x38 v mask = if mask &&& 0xFF77FFFF = 0 then .ok s else s.writeSetCtrl v mask := rfl

theorem regPut_setCtrl (s : State) (v : Word) : s.regPut 0x38 v maskAll =
    if fieldOf v 20 3 = 0 ∨ 6 < fieldOf v 20 3 ∨ fieldOf v 20 3 ≤ fieldOf v 16 3 ∨ fieldOf v 24 8 = 0 then .error .werr
    else .ok (s.setWrittenWith v) := by
  rw [regPut_setCtrl_masked, if_neg (by decide)]
  unfold State.writeSetCtrl
  rw [merge_all]
  rfl

theorem fieldOf_topByte (v : Word) : fieldOf v 24 8 = v.toNat / 16777216 :=
  Nat.mod_eq_of_lt (by have := v.isLt; omega)

end Control

/-- Settles O18: each register's own rule, with the fields of the word that is written. -/
theorem controlRegisters : Obligations.ControlRegisters := by
  unfold Obligations.ControlRegisters
  refine ⟨fun s h hs => ⟨exec_bootHoldWrite hs, exec_bootHoldWrite_refused hs⟩, fun s v hs => ⟨exec_irqEnableWrite_quiet hs,
    exec_irqEnableWrite_signals hs⟩, fun s v hs => ?_⟩
  rw [← fieldOf_topByte v]
  refine ⟨fun hlow hhigh hmember hwait => ?_, fun hno => ?_⟩
  · have hput : s.actDropped.regPut 0x38 v maskAll = .ok (s.actDropped.setWrittenWith v) :=
      (regPut_setCtrl _ v).trans (if_neg (by
        change 1 ≤ fieldOf v 20 3 at hlow
        change fieldOf v 20 3 ≤ 6 at hhigh
        change fieldOf v 16 3 < fieldOf v 20 3 at hmember
        omega))
    exact ⟨_, congrArg Host.Outcome.next (busWrite_ok hs (by decide) hput rfl (serves_idle hs)), rfl, rfl,
      fun p hp => tget_foldl_tset 0 s.lamp.cycle _ _ (Or.inl (List.mem_range.mpr hp))⟩
  · exact congrArg Host.Outcome.next (busWrite_error hs (by decide) ((regPut_setCtrl _ v).trans (if_pos hno)))

/-! ### The indirect access (R240, R375) -/

section Indirect

variable {s : State} {v : Word}

/-- The state in which LINK holds another snapshot. -/
def State.snapped (s : State) (x : Option (SnapArea × List Word)) : State := s.onLink fun l => { l with snap := x }

/-- What a snapshot taken leaves: the held one where it is of the area, and the area's words where none is held (R240). -/
theorem takeSnap_snapped (s : State) (x : SnapArea) :
    ∃ y, s.takeSnap x = s.snapped y ∧ (s.link.snap = none → y = some (x, s.snapWords x)) := by
  unfold State.takeSnap
  cases hsnap : s.link.snap with
  | none => exact ⟨_, rfl, fun _ => rfl⟩
  | some y =>
    dsimp only
    split
    · exact ⟨s.link.snap, rfl, by simp [hsnap]⟩
    · exact ⟨_, rfl, nofun⟩

theorem snapFor_snapped (s : State) (ar : Area) :
    ∃ y, s.snapFor ar = s.snapped y ∧ ∀ x, ar.snap = some x → s.link.snap = none → y = some (x, s.snapWords x) := by
  unfold State.snapFor
  cases ar.snap with
  | none => exact ⟨s.link.snap, rfl, nofun⟩
  | some x =>
    obtain ⟨y, hy, hwords⟩ := takeSnap_snapped s x
    exact ⟨y, hy, fun z hz hnone => by rw [← Option.some.inj hz]; exact hwords hnone⟩

theorem snapLeave_snap (l : LinkState) : ∃ y, l.snapLeave = { l with snap := y } := by
  unfold LinkState.snapLeave
  split
  · split
    · exact ⟨l.snap, rfl⟩
    · exact ⟨none, rfl⟩
  · exact ⟨l.snap, rfl⟩

/-- IND_ADDR goes on by 1, and a snapshot that it leaves behind goes (R375). -/
theorem indNext_snapped (s : State) :
    ∃ y, s.indNext = (s.onLink fun l => { l with indAddr := l.indAddr + 1 }).snapped y := by
  obtain ⟨y, hy⟩ := snapLeave_snap { s.link with indAddr := s.link.indAddr + 1 }
  exact ⟨y, congrArg (fun l => ({ s with link := l } : State)) hy⟩

/-- A write of IND_ADDR takes the word, and with power for its area the area's snapshot (R240). -/
theorem writeIndAddr_snapped (s : State) (a : Word) : ∃ y, s.writeIndAddr a = (s.onLink fun l => { l with indAddr := a }).snapped y ∧
    ∀ x, (areaOf a).snap = some x → (areaOf a).owner.noPower s = false → y = some (x, s.snapWords x) := by
  cases hpower : (areaOf a).owner.noPower s with
  | true => exact ⟨none, if_pos hpower, nofun⟩
  | false =>
    obtain ⟨y, hy, hwords⟩ := snapFor_snapped (s.onLink fun l => { l with indAddr := a, snap := none }) (areaOf a)
    refine ⟨y, (if_neg (ne_true_of_eq_false hpower)).trans hy, fun x hx _ => ?_⟩
    rw [hwords x hx rfl]
    cases x <;> rfl

theorem regPut_indAddr (s : State) (v : Word) : s.regPut 0x60 v maskAll = .ok (s.writeIndAddr v) := by
  show Except.ok (s.writeIndAddr (merge s.link.indAddr v maskAll)) = _
  rw [merge_all]

theorem exec_indAddrWrite (h : s.serves 0x60 = true) : ∃ y, exec (.indAddrWrite v) s =
      .next (((s.onLink fun l => { l with indAddr := v }).snapped y).wrote .ok) ∧
    ∀ x, (areaOf v).snap = some x → (areaOf v).owner.noPower s = false → y = some (x, s.snapWords x) := by
  obtain ⟨y, hy, hwords⟩ := writeIndAddr_snapped s.actDropped v
  refine ⟨y, congrArg Host.Outcome.next (busWrite_leaves h (by decide) ((regPut_indAddr _ v).trans (congrArg Except.ok hy)) rfl
    (serves_idle h) rfl), fun x hx hpower => ?_⟩
  rw [hwords x hx hpower]
  cases x <;> rfl

/-- The addresses of the health log's area, which FRONT owns (R377). -/
theorem areaOf_health {a : Word} (hlow : 0x10000 ≤ a.toNat) (hhigh : a.toNat ≤ 0x100FF) : areaOf a = .health :=
  if_pos ⟨hlow, hhigh⟩

/-- IND_DATA's owner is that of the area addressed. -/
theorem serves_indData (h : s.serves 0x61 = true) : s.busOpen = true ∧
    (areaOf s.link.indAddr).owner.noPower s = false ∧ (areaOf s.link.indAddr).owner.held s = false := by
  unfold State.serves at h
  simp only [Bool.and_eq_true, Bool.not_eq_true'] at h
  exact ⟨h.1.1, h.1.2, h.2⟩

/-- IND_DATA reads the word of the area, and draws where it lies in the OTP row. -/
theorem exec_indDataRead (h : s.serves 0x61 = true) : ∃ y d, exec (.indDataAccess none) s = .next
    (({ s.onLink fun l => { l with indAddr := l.indAddr + 1 } with draws := d } : State).snapped y |>.gave
      ((s.snapFor (areaOf s.link.indAddr)).areaWord (areaOf s.link.indAddr) (s.link.indAddr.toNat - (areaOf s.link.indAddr).base))) := by
  obtain ⟨hopen, hpower, hheld⟩ := serves_indData h
  obtain ⟨x, hx, -⟩ := snapFor_snapped s (areaOf s.link.indAddr)
  let d := if areaOf s.link.indAddr = .otp then s.draws + 1 else s.draws
  obtain ⟨y, hy⟩ := indNext_snapped { s.snapped x with draws := d }
  refine ⟨y, d, congrArg Host.Outcome.next ?_⟩
  have hread : s.indRead = (({ s.snapped x with draws := d } : State).indNext, .ok,
      (s.snapFor (areaOf s.link.indAddr)).areaWord (areaOf s.link.indAddr) (s.link.indAddr.toNat - (areaOf s.link.indAddr).base)) := by
    unfold State.indRead
    simp only [hpower, hheld, Bool.false_eq_true, if_false]
    rw [hx]
    rfl
  unfold State.busRead State.regRead
  rw [hopen, if_pos rfl, hread, hy]
  rfl

/-- A word of the Cellar's base written through IND_DATA is staged (R378). -/
theorem indWrite_cellBaseLo (haddr : s.link.indAddr = 0x70000) (hpower : (areaOf s.link.indAddr).owner.noPower s = false)
    (hheld : (areaOf s.link.indAddr).owner.held s = false) :
    s.indWrite v maskAll = ((s.onPlace fun p => { p with cellBaseLo := v }).indNext, .ok) := by
  have harea : areaOf s.link.indAddr = .cellar := by rw [haddr]; rfl
  have hword : s.areaWrite .cellar 0 v maskAll = .ok (s.onPlace fun p => { p with cellBaseLo := v }) := by
    show Except.ok (s.onPlace fun p => { p with cellBaseLo := merge (s.areaWord .cellar 0) v maskAll }) = _
    rw [merge_all]
  rw [harea] at hpower hheld
  unfold State.indWrite
  simp only [harea, hpower, hheld, Bool.false_eq_true, if_false]
  rw [show s.snapFor .cellar = s from rfl, show s.link.indAddr.toNat - Area.cellar.base = 0 by rw [haddr]; rfl, hword]

theorem exec_indDataWrite_cellBaseLo (h : s.serves 0x61 = true) (haddr : s.link.indAddr = 0x70000) : ∃ y,
    exec (.indDataAccess (some v)) s = .next
      (((s.onPlace fun p => { p with cellBaseLo := v }).onLink fun l => { l with indAddr := l.indAddr + 1 }).snapped y |>.wrote .ok) := by
  obtain ⟨hopen, hpower, hheld⟩ := serves_indData h
  obtain ⟨y, hy⟩ := indNext_snapped (s.actDropped.onPlace fun p => { p with cellBaseLo := v })
  refine ⟨y, congrArg Host.Outcome.next ?_⟩
  have hwrite : s.actDropped.regWrite 0x61 v maskAll = (_, .ok) := (if_pos rfl).trans (indWrite_cellBaseLo (s := s.actDropped) haddr hpower hheld)
  have hend : s.busWrite 0x61 v maskAll = ((s.actDropped.onPlace fun p => { p with cellBaseLo := v }).indNext).endAccess .ok [] 0x02 := by
    unfold State.busWrite
    rw [hopen]
    exact congrArg (fun r : State × Status => r.1.endAccess r.2 [] 0x02) hwrite
  rw [hend, hy, endAccess_idle _ _ _ (by exact (busOpen_idle hopen).2) rfl]
  rfl

end Indirect

/-- Settles O19: a snapshot is LINK's alone, and IND_DATA's access is that of the area's owner. -/
theorem indirectAccess : Obligations.IndirectAccess := by
  unfold Obligations.IndirectAccess
  refine fun s v => ⟨fun h => ?_, fun h => ⟨?_, fun haddr => ?_⟩⟩
  · obtain ⟨y, hx, hwords⟩ := exec_indAddrWrite (v := v) h
    refine ⟨_, hx, rfl, rfl, rfl, fun hlow hhigh hlit => ?_⟩
    have harea := areaOf_health hlow hhigh
    exact hwords .health (by rw [harea]; rfl) (by rw [harea]; exact (Bool.and_eq_false_iff.mpr (Or.inr hlit)))
  · obtain ⟨y, d, hx⟩ := exec_indDataRead h
    exact ⟨_, hx, rfl, rfl, rfl, rfl⟩
  · obtain ⟨y, hx⟩ := exec_indDataWrite_cellBaseLo (v := v) h haddr
    exact ⟨_, hx, rfl, by rw [show (0x70001 : Word) = 0x70000 + 1 from rfl, ← haddr]; rfl, rfl, rfl⟩

end Sys2Proof.Machine

/-! # A cold reset at the last count of the power-ups -/

namespace Sys2Proof.Machine
open Sys2Proof

/-- The part after 0xFFFFFFFF power-ups, SNUFFED and with VIN present: the native protocol is selected, and the count stands at its top
(R242, R461). -/
def wornOut : State :=
  { State.reset with
    clock := { ClockState.reset with dev := .snuffed, vauxPor := false, vauxPin := true, pllTick := ⟨true, false⟩ }
    link := { LinkState.reset with selected := true, dead := false }
    power := { PowerState.reset with vin := true, absent := false }
    journal := { JournalState.reset with powerUps := 0xFFFFFFFF } }

/-- COLD powers the main domain up, and the count of its power-ups saturates (R242, R461). -/
theorem wornOut_resetCmdCold : ∃ t, exec .resetCmdCold wornOut = .next t ∧ t.journal.powerUps = 0xFFFFFFFF :=
  ⟨_, rfl, by decide⟩

/-- Refutes O20: the clause on COLD has the count of power-ups always go up by one, but the 2^32th power-up leaves it at 0xFFFFFFFF, while
0xFFFFFFFF + 1 is 0 in the 32 bits that it has. -/
theorem not_linkResets : ¬ Obligations.LinkResets := by
  unfold Obligations.LinkResets
  intro h
  obtain ⟨-, -, -, -, -, -, hcold, -⟩ := h wornOut (by decide)
  obtain ⟨t, hx, -, -, -, -, -, -, hcount, -⟩ := hcold (by decide) (by decide) (Or.inl (by decide))
  obtain ⟨u, hu, hfull⟩ := wornOut_resetCmdCold
  have htu : t = u := Host.Outcome.next.inj (hx.symm.trans hu)
  rw [htu, hfull] at hcount
  exact absurd hcount (by decide)

end Sys2Proof.Machine

/-! # FAULT_ACK -/

namespace Sys2Proof.Machine
open Sys2Proof

/-! ### What attention changes of LINK (R360) -/

section Attention

/-- LINK stands but for the attention bits. -/
def State.linkButIrq (s t : State) : Prop := ∃ q, t.link = { s.link with irqStatus := q }

theorem State.linkButIrq.refl (s : State) : s.linkButIrq s := ⟨s.link.irqStatus, rfl⟩

theorem State.linkButIrq.trans {s t u : State} (h : s.linkButIrq t) (k : t.linkButIrq u) : s.linkButIrq u := by
  obtain ⟨q, h⟩ := h
  obtain ⟨q', k⟩ := k
  exact ⟨q', by rw [k, h]⟩

theorem linkButIrq_of_link {s t : State} (h : t.link = s.link) : s.linkButIrq t := ⟨s.link.irqStatus, h⟩

theorem linkButIrq_raise (s : State) (a : Attn) : s.linkButIrq (s.raise a) := by
  refine ⟨s.link.irqStatus ||| 1#20 <<< attnBit a, ?_⟩
  unfold State.raise
  dsimp only
  split
  · exact (keeps_signal (L := { host := true }) 32 (Keeps.refl _ _) rfl).linkF rfl
  · rfl

theorem linkButIrq_setDev (s : State) (d : DevState) : s.linkButIrq (s.setDev d) := by
  unfold State.setDev
  split
  · exact .refl s
  · have hraise : s.linkButIrq ((s.onClock fun c => { c with dev := d }).raise .stateChange) :=
      linkButIrq_raise (s.onClock fun c => { c with dev := d }) .stateChange
    cases d <;> exact hraise

theorem linkButIrq_wtUpdate (s : State) : s.linkButIrq s.wtUpdate := by
  unfold State.wtUpdate
  split
  · exact (linkButIrq_setDev s .degraded).trans (linkButIrq_raise _ .wtEnter)
  · split
    · exact (linkButIrq_setDev s .ready).trans (linkButIrq_raise _ .wtExit)
    · exact .refl s

end Attention

/-! ### The records acknowledged (R448, R455) -/

section Acknowledge

variable (s : State) (u v : UnitId)

/-- A record acknowledged as R455 says: with a fault latched it goes whole, with none SHADOWED alone. -/
def UnitFault.ackedAs (r : UnitFault) : UnitFault := if r.latched then r.acked else { r with shadowed := false }

theorem ackedAs_stored {r x : UnitFault} (h : r.stored = x.stored) : r.ackedAs.stored = x.ackedAs.stored := by
  have hcomm (y : UnitFault) : y.ackedAs.stored = y.stored.ackedAs := by
    show (if y.latched then y.acked else _ : UnitFault).stored = if y.latched then y.stored.acked else _
    split <;> rfl
  rw [hcomm, hcomm, h]

theorem ackedAs_ackedAs (r : UnitFault) : r.ackedAs.ackedAs = r.ackedAs := by
  unfold UnitFault.ackedAs
  cases r.latched <;> simp [UnitFault.acked]

/-- The held causes that are reported again put nothing into the records (R448). -/
theorem ackUnit_stored : ((s.ackUnit u).unit v).stored = if v = u then (s.unit u).ackedAs.stored else (s.unit v).stored := by
  have hset : ((s.setUnit u (s.unit u).ackedAs).unit v).stored = if v = u then (s.unit u).ackedAs.stored else (s.unit v).stored := by
    split
    · next h => rw [h, setUnit_unit_same]
    · next h => rw [setUnit_unit_ne s u _ h]
  rw [← hset]
  unfold State.ackUnit UnitFault.ackedAs
  dsimp only
  split
  · exact sameStored_foldl (fun t (h : Cause × BitVec 56) => sameStored_assertError t h.1 h.2) _ _ v
  · rfl

theorem foldl_ackUnit_stored (l : List UnitId) :
    ((l.foldl State.ackUnit s).unit v).stored = if v ∈ l then (s.unit v).ackedAs.stored else (s.unit v).stored := by
  induction l generalizing s with
  | nil => rfl
  | cons u l ih =>
    rw [List.foldl_cons, ih (s.ackUnit u)]
    by_cases hu : v = u
    · subst hu
      have hone : ((s.ackUnit v).unit v).stored = (s.unit v).ackedAs.stored := by rw [ackUnit_stored, if_pos rfl]
      rw [if_pos List.mem_cons_self, hone, ackedAs_stored hone, ackedAs_ackedAs, ite_self]
    · have hone : ((s.ackUnit u).unit v).stored = (s.unit v).stored := by rw [ackUnit_stored, if_neg hu]
      rw [ackedAs_stored hone, hone]
      simp only [List.mem_cons, hu, false_or]

theorem mem_unitsOf (m : BitVec 13) : v ∈ unitsOf m ↔ m.getLsbD (unitIdx v) = true := by
  have hall : v ∈ allUnits := by cases v <;> decide
  simp [unitsOf, hall]

theorem ackUnits_stored (m : BitVec 13) : ((s.ackUnits m).unit v).stored =
    if m.getLsbD (unitIdx v) = true then (s.unit v).ackedAs.stored else (s.unit v).stored := by
  have hfold := foldl_ackUnit_stored s v (unitsOf m)
  simp only [mem_unitsOf] at hfold
  exact (sameStored_wtUpdate _ v).trans hfold

theorem ackRefused_iff (m : BitVec 13) :
    s.ackRefused m = true ↔ ∃ u, m.getLsbD (unitIdx u) = true ∧ (s.unit u).restart = true := by
  simp only [State.ackRefused, List.any_eq_true, mem_unitsOf]

/-! The collector's own fault and LINK's access stand. -/

theorem assertError_self (c : Cause) (d : BitVec 56) : (s.assertError c d).fault.self = s.fault.self := by
  rw [assertError_eq]
  split <;> rfl

theorem foldl_self {β : Type} {f : State → β → State} (hf : ∀ t x, (f t x).fault.self = t.fault.self) (l : List β) :
    (l.foldl f s).fault.self = s.fault.self := by
  induction l generalizing s with
  | nil => rfl
  | cons x l ih => exact (ih (f s x)).trans (hf s x)

theorem ackUnit_self : (s.ackUnit u).fault.self = s.fault.self := by
  unfold State.ackUnit
  dsimp only
  split
  · exact foldl_self _ (fun t (h : Cause × BitVec 56) => assertError_self t h.1 h.2) _
  · rfl

theorem wtUpdate_fault : s.wtUpdate.fault = s.fault :=
  (keeps_wtUpdate (Keeps.refl .besideFault s) rfl rfl rfl rfl rfl).faultF rfl

theorem ackUnits_self (m : BitVec 13) : (s.ackUnits m).fault.self = s.fault.self := by
  rw [State.ackUnits, wtUpdate_fault]
  exact foldl_self s ackUnit_self _

theorem linkButIrq_ackUnits (m : BitVec 13) : s.linkButIrq (s.ackUnits m) := by
  have hk : Keeps { fault := true } s ((unitsOf m).foldl State.ackUnit s) :=
    keeps_foldl _ (fun _ u h => keeps_ackUnit u h rfl) _ (Keeps.refl _ s)
  exact (linkButIrq_of_link (hk.linkF rfl)).trans (linkButIrq_wtUpdate _)

/-- Each unit's record changed by its own rule. -/
theorem foldl_modUnit (f : UnitId → UnitFault → UnitFault) (l : List UnitId) (hl : l.Nodup) :
    (l.foldl (fun t u => t.modUnit u (f u)) s).unit v = if v ∈ l then f v (s.unit v) else s.unit v := by
  induction l generalizing s with
  | nil => rfl
  | cons u l ih =>
    obtain ⟨hu, hrest⟩ := List.nodup_cons.mp hl
    rw [List.foldl_cons, ih (s.modUnit u (f u)) hrest]
    by_cases hv : v = u
    · subst hv
      rw [if_neg hu, if_pos List.mem_cons_self, modUnit_unit_same]
    · rw [show (s.modUnit u (f u)).unit v = s.unit v from setUnit_unit_ne s u _ hv]
      simp only [List.mem_cons, hv, false_or]

/-- A record as FAULT_ACK.SELF leaves it. -/
def UnitFault.selfAcked (u : UnitId) (r : UnitFault) : UnitFault := { r.acked.policyReset u with conseq := false }

/-- Every record acknowledged as SELF does. -/
def State.recordsAcked (s : State) : State := allUnits.foldl (fun t u => t.modUnit u (UnitFault.selfAcked u)) s

/-- No fault of the collector's own. -/
def State.selfCleared (s : State) : State := s.onFault fun f => { f with self := false, selfAddr := 0, selfCyc := 0, selfCnt := 0 }

theorem selfCleared_unit : s.selfCleared.unit v = s.unit v := rfl

theorem ackSelf_eq : s.ackSelf = s.recordsAcked.selfCleared.wtUpdate := rfl

theorem recordsAcked_unit : s.recordsAcked.unit v = (s.unit v).selfAcked v := by
  have hall : v ∈ allUnits := by cases v <;> decide
  exact (foldl_modUnit s v UnitFault.selfAcked allUnits (by decide)).trans (if_pos hall)

theorem unit_of_fault {s t : State} (h : t.fault = s.fault) : t.unit v = s.unit v :=
  congrArg (fun f : FaultState => tget UnitFault.none f.units (unitIdx v)) h

theorem ackSelf_unit : s.ackSelf.unit v = (s.unit v).selfAcked v := by
  rw [ackSelf_eq, unit_of_fault v (wtUpdate_fault _), selfCleared_unit, recordsAcked_unit]

theorem ackSelf_self : s.ackSelf.fault.self = false := by
  rw [ackSelf_eq, wtUpdate_fault]
  rfl

theorem linkButIrq_ackSelf : s.linkButIrq s.ackSelf := by
  have hk : Keeps { fault := true } s s.recordsAcked.selfCleared :=
    keeps_onFault _ (fun _ h => h) (keeps_foldl _ (fun _ u h => keeps_modUnit u _ h rfl) _ (Keeps.refl _ s)) rfl
  rw [ackSelf_eq]
  exact (linkButIrq_of_link (hk.linkF rfl)).trans (linkButIrq_wtUpdate _)

end Acknowledge

/-! ### The write of FAULT_ACK -/

section FaultAck

variable {s : State}

/-- The collector answers whenever LINK takes an access (R355). -/
theorem serves_faultAck (h : s.busOpen = true) : s.serves 0x32 = true := by
  simp only [State.serves, h, Bool.true_and]
  rfl

theorem busWrite_linkButIrq {t : State} {a : Nat} {v mask : Word} (h : s.serves a = true) (ha : a ≠ 0x61)
    (hput : s.actDropped.regPut a v mask = .ok t) (hl : s.actDropped.linkButIrq t) : s.busWrite a v mask = t.wrote .ok := by
  obtain ⟨q, hl⟩ := hl
  exact busWrite_ok h ha hput (by rw [hl]; rfl) (by rw [hl]; exact serves_idle h)

theorem faultAck_units (units : BitVec 13) : ((units.setWidth 32 &&& 0x1FFF : Word)).setWidth 13 = units := by
  apply BitVec.eq_of_getLsbD_eq
  intro i hi
  have hbit : (0x1FFF : Word).getLsbD i = true := by
    rw [show (0x1FFF : Word) = (BitVec.allOnes 13).setWidth 32 by decide, BitVec.getLsbD_setWidth, BitVec.getLsbD_allOnes]
    simp only [hi, decide_true, Bool.and_true, decide_eq_true_eq]
    omega
  rw [BitVec.getLsbD_setWidth, BitVec.getLsbD_and, hbit, BitVec.getLsbD_setWidth]
  simp only [hi, decide_true, Bool.true_and, Bool.and_true, Bool.and_eq_right_iff_imp, decide_eq_true_eq]
  omega

theorem faultAck_noSelf (units : BitVec 13) : (fieldOf ((units.setWidth 32 : Word) &&& 0x1FFF) 31 1 != 0) = false := by
  have hle : ((units.setWidth 32 : Word) &&& 0x1FFF).toNat ≤ 0x1FFF := by
    rw [BitVec.toNat_and]
    exact Nat.and_le_right
  simp only [fieldOf, bne_eq_false_iff_eq]
  omega

theorem regPut_faultAck (s : State) (units : BitVec 13) : s.regPut 0x32 (units.setWidth 32) 0x1FFF =
    if s.ackRefused units then .error .werr else .ok (s.ackUnits units) := by
  show s.writeAck (units.setWidth 32) 0x1FFF = _
  unfold State.writeAck
  simp only [faultAck_units, faultAck_noSelf, Bool.false_and, Bool.or_false, Bool.false_eq_true, if_false]

theorem regPut_faultAckSelf (s : State) : s.regPut 0x32 0x80000000 0x80000000 =
    if s.fault.differs then .error .werr else .ok (s.ackUnits 0).ackSelf := by
  have hnone : s.ackRefused 0 = false := rfl
  have hunits : (0x80000000 &&& 0x80000000 : Word).setWidth 13 = (0 : BitVec 13) := by decide
  have hself : (fieldOf (0x80000000 &&& 0x80000000) 31 1 != 0) = true := by decide
  show s.writeAck 0x80000000 0x80000000 = _
  unfold State.writeAck
  simp only [hunits, hself, hnone, Bool.false_or, Bool.true_and, if_true]

theorem exec_faultAckWrite {units : BitVec 13} (h : s.busOpen = true) (hok : s.ackRefused units = false) :
    exec (.faultAckWrite units) s = .next ((s.actDropped.ackUnits units).wrote .ok) :=
  congrArg Host.Outcome.next (busWrite_linkButIrq (serves_faultAck h) (by decide)
    ((regPut_faultAck _ units).trans (if_neg (ne_true_of_eq_false hok))) (linkButIrq_ackUnits _ units))

theorem exec_faultAckWrite_refused {units : BitVec 13} (h : s.busOpen = true) (hno : s.ackRefused units = true) :
    exec (.faultAckWrite units) s = .next (s.wrote .werr) :=
  congrArg Host.Outcome.next (busWrite_error (serves_faultAck h) (by decide) ((regPut_faultAck s.actDropped units).trans (if_pos hno)))

theorem exec_faultAckSelf (h : s.busOpen = true) (hok : s.fault.differs = false) :
    exec .faultAckSelf s = .next (((s.actDropped.ackUnits 0).ackSelf).wrote .ok) :=
  congrArg Host.Outcome.next (busWrite_linkButIrq (serves_faultAck h) (by decide)
    ((regPut_faultAckSelf s.actDropped).trans (if_neg (ne_true_of_eq_false hok)))
    ((linkButIrq_ackUnits _ 0).trans (linkButIrq_ackSelf _)))

theorem exec_faultAckSelf_refused (h : s.busOpen = true) (hno : s.fault.differs = true) :
    exec .faultAckSelf s = .next (s.wrote .werr) :=
  congrArg Host.Outcome.next (busWrite_error (serves_faultAck h) (by decide) ((regPut_faultAckSelf s.actDropped).trans (if_pos hno)))

end FaultAck

/-- What an acknowledgement leaves of a record, in the fields that the collector shows (R455). -/
theorem ackedAs_shown {r x : UnitFault} (h : x.stored = r.ackedAs.stored) : x.latched = false ∧ x.shadowed = false ∧
    (r.latched = true → x.level = 0 ∧ x.count = 0 ∧ x.cause = 0 ∧ x.detail = 0 ∧ x.escalated = false) := by
  have hesc : x.escalated = r.ackedAs.escalated := (congrArg UnitFault.escalated h :)
  obtain ⟨hlatched, hlevel, hcause, hdetail, -, hcount, -, hshadowed⟩ := shown_of_stored h
  rw [hlatched, hlevel, hcause, hdetail, hcount, hshadowed, hesc]
  unfold UnitFault.ackedAs
  cases hl : r.latched with
  | true =>
    rw [if_pos rfl]
    exact ⟨rfl, rfl, fun _ => ⟨rfl, rfl, rfl, rfl, rfl⟩⟩
  | false =>
    rw [if_neg (by decide)]
    exact ⟨rfl, rfl, nofun⟩

/-- Settles O21: the acknowledgement by what the collector stores of each unit, SELF by the record it leaves. -/
theorem faultAcks : Obligations.FaultAcks := by
  unfold Obligations.FaultAcks
  refine fun s _ h => ⟨fun units hno => exec_faultAckWrite_refused h ((ackRefused_iff s units).mpr hno), fun units hok => ?_, fun hok => ?_,
    exec_faultAckSelf_refused h⟩
  · have hallow : s.ackRefused units = false := by
      rw [Bool.eq_false_iff]
      intro hno
      obtain ⟨u, hu, hheld⟩ := (ackRefused_iff s units).mp hno
      rw [hok u hu] at hheld
      exact Bool.noConfusion hheld
    refine ⟨_, exec_faultAckWrite h hallow, rfl, ackUnits_self _ units, fun u => ?_⟩
    have hstored := ackUnits_stored s.actDropped u units
    refine ⟨fun hnamed => ackedAs_shown (hstored.trans (if_pos hnamed)), fun hother => ?_⟩
    obtain ⟨hlatched, hlevel, -⟩ := shown_of_stored (hstored.trans (if_neg (ne_true_of_eq_false hother)))
    exact ⟨hlatched, hlevel⟩
  · refine ⟨_, exec_faultAckSelf h hok, rfl, ackSelf_self _, fun u => ?_⟩
    have hunit : (((s.actDropped.ackUnits 0).ackSelf).wrote .ok).unit u = _ := ackSelf_unit (s.actDropped.ackUnits 0) u
    rw [hunit]
    refine ⟨rfl, rfl, rfl, rfl, ?_⟩
    simp [UnitFault.selfAcked, UnitFault.policyReset, or_assoc]

end Sys2Proof.Machine

/-! # MEM_RETIRE, MEM_PWR and MEM_TEST -/

namespace Sys2Proof.Machine
open Sys2Proof

/-! ### The memories' records -/

section MemoryRecords

variable (s : State) (m : Nat)

@[simp] theorem modMemory_memory_same (f : MemRec → MemRec) : (s.modMemory m f).memory m = f (s.memory m) :=
  tget_tset_same MemRec.none s.mem.mems m _

theorem modMemory_memory_ne {k : Nat} (f : MemRec → MemRec) (h : k ≠ m) : (s.modMemory m f).memory k = s.memory k :=
  tget_tset_ne MemRec.none s.mem.mems _ h

theorem memPut_memory (w : Nat) (c : MemCell) : (s.memPut m w c).memory m =
    { s.memory m with cells := tset (MemCell.coded 0) (s.memory m).cells w c, poison := (s.memory m).poison.filter fun k => k ≠ w
                      fixed := (s.memory m).fixed.filter fun k => k ≠ w } :=
  modMemory_memory_same s m _

end MemoryRecords

/-! ### The memories' own rules (R373, R389, R390, R396, R397, R401) -/

section MemoryRules

variable {s : State} {m : Nat}

theorem writeMemRetire_taken {t : Nat} (ht : t < memTargets m) (hnew : ¬ (m = 0 ∧ (s.memory m).retired.contains t = true))
    (hspare : (s.memory m).retired.length < memSpares m) : s.writeMemRetire m t = .ok (s.retireOne m t) := by
  unfold State.writeMemRetire
  rw [if_neg (by omega), if_neg hnew, if_neg (by omega)]

theorem writeMemRetire_already {t : Nat} (ht : t < memTargets m) (h : m = 0 ∧ (s.memory m).retired.contains t = true) :
    s.writeMemRetire m t = .ok s := by
  unfold State.writeMemRetire
  rw [if_neg (by omega), if_pos h]

theorem writeMemRetire_refused {t : Nat} (h : memTargets m ≤ t ∨
      (¬ (m = 0 ∧ (s.memory m).retired.contains t = true) ∧ memSpares m ≤ (s.memory m).retired.length)) :
    s.writeMemRetire m t = .error .werr := by
  unfold State.writeMemRetire
  dsimp only
  rcases h with h | ⟨hnew, hspare⟩
  · rw [if_pos h]
  · rw [if_neg hnew, if_pos hspare, ite_self]

theorem memRetWord_memory (s : State) (k : Nat) : s.memRetWord.memory k = s.memory k := rfl

/-- A retirement is listed, and in a SECDED memory the row's words stand copied. -/
theorem retireOne_retired (s : State) (m t : Nat) : ((s.retireOne m t).memory m).retired = (s.memory m).retired ++ [t] := by
  rw [State.retireOne, memRetWord_memory, modMemory_memory_same]

theorem retireOne_memory_ne {k : Nat} (t : Nat) (h : k ≠ m) : (s.retireOne m t).memory k = s.memory k := by
  rw [State.retireOne, memRetWord_memory, modMemory_memory_ne s m _ h]

theorem keeps_retireOne_mem (s : State) (m t : Nat) : Keeps { mem := true, health := true } s (s.retireOne m t) :=
  keeps_retireOne m t (Keeps.refl _ s) rfl rfl

/-- The state that MEM_PWR.STATE asks for; 3 is none. -/
def pwrAsked (st : BitVec 2) : MemPwr := if st = 0 then .on else if st = 1 then .retain else .off

theorem writeMemPwr_eq (s : State) (m : Nat) {st : BitVec 2} (h : st ≠ 3) : s.writeMemPwr m st =
    if (s.memory m).req = pwrAsked st then .ok s
    else if !s.memQuiet m true || ((s.memory m).now = .off && pwrAsked st = .retain) then .error .werr
    else .ok (s.modMemory m fun y => y.toPower (pwrAsked st)) := by
  have hst : st = 0 ∨ st = 1 ∨ st = 2 := by
    revert h
    revert st
    decide
  rcases hst with rfl | rfl | rfl <;> rfl

theorem pwrAsked_retain {st : BitVec 2} : pwrAsked st = .retain ↔ st = 1 := by
  revert st
  decide

theorem writeMemPwr_taken {st : BitVec 2} (h : st ≠ 3) (hnew : (s.memory m).req ≠ pwrAsked st) (hq : s.memQuiet m true = true)
    (hway : ¬ ((s.memory m).now = .off ∧ st = 1)) : s.writeMemPwr m st = .ok (s.modMemory m fun y => y.toPower (pwrAsked st)) := by
  rw [writeMemPwr_eq s m h, if_neg hnew, if_neg]
  simpa [hq, pwrAsked_retain] using hway

theorem writeMemPwr_refused {st : BitVec 2} (h : st = 3 ∨ ((s.memory m).req ≠ pwrAsked st ∧ s.memQuiet m true = false)) :
    s.writeMemPwr m st = .error .werr := by
  by_cases h3 : st = 3
  · subst h3
    rfl
  · obtain ⟨hnew, hq⟩ := h.resolve_left h3
    rw [writeMemPwr_eq s m h3, if_neg hnew, if_pos (by simp [hq])]

theorem toPower_fields (x : MemRec) (t : MemPwr) : (x.toPower t).req = t ∧ (x.toPower t).now = t ∧
    (x.toPower t).cells = (if t = .off then [] else x.cells) ∧ (x.toPower t).poison = if t = .off then [] else x.poison := by
  cases t <;> exact ⟨rfl, rfl, rfl, rfl⟩

/-- EN alone. -/
theorem writeTestCtrl_en (s : State) (m : Nat) (en : Bool) : s.writeTestCtrl m (some en) none none =
    if decide (en ≠ (s.memory m).testEn) && !s.memQuiet m false then .error .werr
    else .ok (s.modMemory m fun y => { y with testEn := en, lane := (s.memory m).lane }) := by
  unfold State.writeTestCtrl
  simp [State.testOp]

/-- An OP alone acts under the EN that stands (R373). -/
theorem writeTestCtrl_op (s : State) (m : Nat) {op : Nat} (h : op ≠ 0) : s.writeTestCtrl m none (some op) none =
    if !(s.memory m).testEn || !s.testOpOk m then .error .werr
    else .ok ((s.modMemory m fun y => { y with testEn := (s.memory m).testEn, lane := (s.memory m).lane }).testOp m op) := by
  unfold State.writeTestCtrl
  simp [h]

end MemoryRules

/-! ### The accesses -/

section MemoryWrites

variable {s t : State}

/-- A write whose rule leaves LINK alone. -/
theorem busWrite_linkKept {L : Touch} {a : Nat} {v mask : Word} (h : s.serves a = true) (ha : a ≠ 0x61)
    (hput : s.actDropped.regPut a v mask = .ok t) (hk : Keeps L s.actDropped t) (hL : L.link = false) :
    s.busWrite a v mask = t.wrote .ok ∧ (t.wrote .ok).link = (s.wrote .ok).link := by
  have hlink : t.link = s.actDropped.link := hk.linkF hL
  refine ⟨busWrite_ok h ha hput (by rw [hlink]; rfl) (by rw [hlink]; exact serves_idle h), ?_⟩
  unfold State.wrote
  rw [hlink]
  rfl

@[simp] theorem actDropped_memory (s : State) (k : Nat) : s.actDropped.memory k = s.memory k := rfl

@[simp] theorem wrote_memory (t : State) (st : Status) (k : Nat) : (t.wrote st).memory k = t.memory k := rfl

theorem extract_setWidth_and (x : BitVec 20) : fieldOf ((x.setWidth 32 : Word) &&& 0xFFFFF) 0 20 = x.toNat := by
  have hx := x.isLt
  have hand : ((x.setWidth 32 : Word) &&& 0xFFFFF).toNat = x.toNat := by
    rw [BitVec.toNat_and, show (0xFFFFF : Word).toNat = 2 ^ 20 - 1 from rfl, Nat.and_two_pow_sub_one_eq_mod, BitVec.toNat_setWidth]
    omega
  rw [fieldOf_low, hand, Nat.mod_eq_of_lt hx]

theorem regPut_memRetire (s : State) (target : BitVec 20) :
    s.regPut 0x44 (target.setWidth 32) 0xFFFFF = s.writeMemRetire s.link.memSel.toNat target.toNat := by
  show s.writeMemRetire s.link.memSel.toNat (fieldOf ((target.setWidth 32 : Word) &&& 0xFFFFF) 0 20) = _
  rw [extract_setWidth_and]

theorem written_memPwr (cur : Word) (st : BitVec 2) : written cur (st.setWidth 32) 3 0 2 = some st.toNat := by
  have hfield : fieldOf (st.setWidth 32 : Word) 0 2 = st.toNat := by
    revert st
    decide
  rw [← hfield, ← fieldOf_merge_covered cur (st.setWidth 32) (mask := 3) (lo := 0) (w := 2) (by decide)]
  rfl

theorem regPut_memPwr (s : State) (st : BitVec 2) :
    s.regPut 0x41 (st.setWidth 32) 3 = s.writeMemPwr s.link.memSel.toNat st := by
  show s.writePwrState (st.setWidth 32) 3 = _
  unfold State.writePwrState
  rw [written_memPwr]
  simp

/-- The word that EN is written with. -/
def enWord (en : Bool) : Word := if en then 1 else 0

theorem regPut_memTestEn (s : State) (en : Bool) :
    s.regPut 0x45 (enWord en) 1 = s.writeTestCtrl s.link.memSel.toNat (some en) none none := by
  have hen (cur : Word) : (written cur (enWord en) 1 0 1).map (fun x => x != 0) = some en := by
    have hfield : (fieldOf (enWord en) 0 1 != 0) = en := by cases en <;> rfl
    have hmerge := fieldOf_merge_covered cur (enWord en) (mask := 1) (lo := 0) (w := 1) (by decide)
    show some (fieldOf (merge cur (enWord en) 1) 0 1 != 0) = some en
    rw [hmerge, hfield]
  show s.writeTestCtrl s.link.memSel.toNat ((written s.selMem.testWord (enWord en) 1 0 1).map fun x => x != 0) none none = _
  rw [hen]

/-- OP is written alone: the mask selects its two bits. -/
theorem regPut_memTestOp (s : State) {v : Word} {op : Nat} (hv : fieldOf (v &&& 6) 1 2 = op) :
    s.regPut 0x45 v 6 = s.writeTestCtrl s.link.memSel.toNat none (some op) none := by
  show s.writeTestCtrl s.link.memSel.toNat none (some (fieldOf (v &&& 6) 1 2)) none = _
  rw [hv]

/-- The state on which an OP acts: the control register stands as it does. -/
def State.testCtrlKept (s : State) (m : Nat) : State :=
  s.modMemory m fun y => { y with testEn := (s.memory m).testEn, lane := (s.memory m).lane }

theorem testCtrlKept_memory (s : State) (m : Nat) : (s.testCtrlKept m).memory m = s.memory m := modMemory_memory_same s m _

theorem busWrite_testOp {v : Word} {op : Nat} (h : s.serves 0x45 = true) (hv : fieldOf (v &&& 6) 1 2 = op) (hz : op ≠ 0)
    (hen : (s.memory s.link.memSel.toNat).testEn = true) (hok : s.testOpOk s.link.memSel.toNat = true) :
    s.busWrite 0x45 v 6 = ((s.actDropped.testCtrlKept s.link.memSel.toNat).testOp s.link.memSel.toNat op).wrote .ok := by
  have hrule := writeTestCtrl_op s.actDropped s.link.memSel.toNat hz
  rw [if_neg (by rw [show (s.actDropped.memory s.link.memSel.toNat).testEn = true from hen,
    show s.actDropped.testOpOk s.link.memSel.toNat = true from hok]; decide)] at hrule
  have hk : Keeps { mem := true, draws := true } s.actDropped
      ((s.actDropped.testCtrlKept s.link.memSel.toNat).testOp s.link.memSel.toNat op) :=
    keeps_testOp _ op (keeps_modMemory _ _ (Keeps.refl _ _) rfl) rfl rfl
  exact (busWrite_linkKept h (by decide) ((regPut_memTestOp _ hv).trans hrule) hk rfl).1

theorem busWrite_testOp_refused {v : Word} {op : Nat} (h : s.serves 0x45 = true) (hv : fieldOf (v &&& 6) 1 2 = op) (hz : op ≠ 0)
    (hno : (s.memory s.link.memSel.toNat).testEn = false ∨ s.testOpOk s.link.memSel.toNat = false) :
    s.busWrite 0x45 v 6 = s.wrote .werr := by
  have hrule := writeTestCtrl_op s.actDropped s.link.memSel.toNat hz
  rw [if_pos (by
    rcases hno with hno | hno
    · rw [show (s.actDropped.memory s.link.memSel.toNat).testEn = false from hno]; rfl
    · rw [show s.actDropped.testOpOk s.link.memSel.toNat = false from hno, Bool.or_comm]; rfl)] at hrule
  exact busWrite_error h (by decide) ((regPut_memTestOp _ hv).trans hrule)

/-- An OP can act where the memory is ON and the word exists. -/
theorem testOpOk_iff (s : State) (m : Nat) :
    s.testOpOk m = true ↔ (s.memory m).now = .on ∧ (s.memory m).addr.toNat < memWords m := by
  simp [State.testOpOk]

/-- A word that a test wrote is read as it was written. -/
theorem memRaw_listed {m a : Nat} {d : BitVec 512} {c : BitVec 64} (hmem : (a, MemCell.raw d c) ∈ (s.memory m).cells)
    (hget : tget (MemCell.coded 0) (s.memory m).cells a = .raw d c) : s.memRaw m a = (d, c) := by
  have hlisted : ((s.memory m).cells.any fun c => decide (c.1 = a)) = true := List.any_eq_true.mpr ⟨_, hmem, decide_eq_true rfl⟩
  unfold State.memRaw
  simp only [hlisted, hget, Bool.not_true, Bool.false_and, Bool.false_eq_true, if_false]

theorem testRead_memory (s : State) (m : Nat) : (s.testRead m).memory m = { s.memory m with
    stage := (s.memRaw m (s.memory m).addr.toNat).1, stageChk := (s.memRaw m (s.memory m).addr.toNat).2, testDone := true } :=
  modMemory_memory_same s m fun x => { x with
    stage := (s.memRaw m (s.memory m).addr.toNat).1, stageChk := (s.memRaw m (s.memory m).addr.toNat).2, testDone := true }

/-- A test write leaves its word, and marks it done. -/
theorem testWriteRaw_memory (s : State) (m : Nat) : ((s.testWriteRaw m).memory m).testDone = true ∧
    ((s.testWriteRaw m).memory m).cells = tset (MemCell.coded 0) (s.memory m).cells (s.memory m).addr.toNat
      (.raw ((s.memory m).stageData m) ((s.memory m).stageCheck m)) := by
  rw [State.testWriteRaw, modMemory_memory_same, memPut_memory]
  exact ⟨rfl, rfl⟩

theorem testWriteChecked_memory (s : State) (m : Nat) : ((s.testWriteChecked m).memory m).testDone = true ∧
    ((s.testWriteChecked m).memory m).cells = tset (MemCell.coded 0) (s.memory m).cells (s.memory m).addr.toNat
      (.coded ((s.memory m).stageData m)) := by
  rw [State.testWriteChecked, modMemory_memory_same, memPut_memory]
  exact ⟨rfl, rfl⟩

/-- The frame of a write that changes the memories alone. -/
theorem wrote_frame_mem (hk : Keeps { mem := true } s.actDropped t) :
    t.wrote .ok = { s with link := (t.wrote .ok).link, mem := (t.wrote .ok).mem } := by
  have hframe : t = { s.actDropped with mem := t.mem } := hk.frame
  rw [hframe]
  rfl

theorem wrote_frame_memDraws (hk : Keeps { mem := true, draws := true } s.actDropped t) :
    t.wrote .ok = { s with link := (t.wrote .ok).link, mem := (t.wrote .ok).mem, draws := (t.wrote .ok).draws } := by
  have hframe : t = { s.actDropped with mem := t.mem, draws := t.draws } := hk.frame
  rw [hframe]
  rfl

theorem wrote_frame_memHealth (hk : Keeps { mem := true, health := true } s.actDropped t) :
    t.wrote .ok = { s with link := (t.wrote .ok).link, mem := (t.wrote .ok).mem, health := (t.wrote .ok).health } := by
  have hframe : t = { s.actDropped with mem := t.mem, health := t.health } := hk.frame
  rw [hframe]
  rfl

theorem exec_memTestEnWrite {en : Bool} (h : s.serves 0x45 = true) (hq : s.memQuiet s.link.memSel.toNat false = true) :
    ∃ t, exec (.memTestEnWrite en) s = .next t ∧ t = { s with link := t.link, mem := t.mem } ∧ t.link.status = .ok ∧
      t.memory s.link.memSel.toNat = { s.memory s.link.memSel.toNat with testEn := en } := by
  have hquiet : ¬ (decide (en ≠ (s.actDropped.memory s.link.memSel.toNat).testEn) &&
      !s.actDropped.memQuiet s.link.memSel.toNat false) = true := by
    rw [show s.actDropped.memQuiet s.link.memSel.toNat false = true from hq, Bool.not_true, Bool.and_false]
    decide
  have hput : s.actDropped.regPut 0x45 (enWord en) 1 = .ok (s.actDropped.modMemory s.link.memSel.toNat fun y =>
      { y with testEn := en, lane := (s.memory s.link.memSel.toNat).lane }) :=
    (regPut_memTestEn s.actDropped en).trans ((writeTestCtrl_en s.actDropped s.link.memSel.toNat en).trans (if_neg hquiet))
  have hk : Keeps { mem := true } s.actDropped (s.actDropped.modMemory s.link.memSel.toNat fun y =>
      { y with testEn := en, lane := (s.memory s.link.memSel.toNat).lane }) := keeps_modMemory _ _ (Keeps.refl _ s.actDropped) rfl
  refine ⟨_, congrArg Host.Outcome.next (busWrite_linkKept h (by decide) hput hk rfl).1, wrote_frame_mem hk, rfl, ?_⟩
  rw [wrote_memory, modMemory_memory_same, actDropped_memory]

theorem exec_memTestEnWrite_refused {en : Bool} (h : s.serves 0x45 = true) (hnew : en ≠ (s.memory s.link.memSel.toNat).testEn)
    (hq : s.memQuiet s.link.memSel.toNat false = false) : exec (.memTestEnWrite en) s = .next (s.wrote .werr) := by
  have hbad : (decide (en ≠ (s.actDropped.memory s.link.memSel.toNat).testEn) &&
      !s.actDropped.memQuiet s.link.memSel.toNat false) = true := by
    rw [show s.actDropped.memQuiet s.link.memSel.toNat false = false from hq]
    exact Bool.and_eq_true_iff.mpr ⟨decide_eq_true hnew, rfl⟩
  have hput := (regPut_memTestEn s.actDropped en).trans ((writeTestCtrl_en s.actDropped s.link.memSel.toNat en).trans (if_pos hbad))
  exact congrArg Host.Outcome.next (busWrite_error h (by decide) hput)

theorem exec_memTestRead {d : BitVec 512} {c : BitVec 64} (h : s.serves 0x45 = true)
    (hen : (s.memory s.link.memSel.toNat).testEn = true) (hok : s.testOpOk s.link.memSel.toNat = true)
    (hmem : ((s.memory s.link.memSel.toNat).addr.toNat, MemCell.raw d c) ∈ (s.memory s.link.memSel.toNat).cells)
    (hget : tget (MemCell.coded 0) (s.memory s.link.memSel.toNat).cells (s.memory s.link.memSel.toNat).addr.toNat = .raw d c) :
    ∃ t, exec .memTestRead s = .next t ∧ t.link.status = .ok ∧
      t.memory s.link.memSel.toNat = { s.memory s.link.memSel.toNat with stage := d, stageChk := c, testDone := true } ∧
      t = { s with link := t.link, mem := t.mem, draws := t.draws } := by
  have hsame := testCtrlKept_memory s.actDropped s.link.memSel.toNat
  rw [actDropped_memory] at hsame
  refine ⟨_, congrArg Host.Outcome.next (busWrite_testOp (op := 1) h rfl (by decide) hen hok), rfl, ?_, wrote_frame_memDraws
    (keeps_testRead _ (keeps_modMemory _ _ (Keeps.refl _ _) rfl) rfl rfl)⟩
  rw [wrote_memory, State.testOp, testRead_memory, hsame]
  rw [memRaw_listed (by rw [hsame]; exact hmem) (by rw [hsame]; exact hget)]

theorem exec_memTestWriteRaw (h : s.serves 0x45 = true) (hen : (s.memory s.link.memSel.toNat).testEn = true)
    (hok : s.testOpOk s.link.memSel.toNat = true) :
    let x := s.memory s.link.memSel.toNat
    ∃ t, exec .memTestWriteRaw s = .next t ∧ t.link.status = .ok ∧ (t.memory s.link.memSel.toNat).testDone = true ∧
      t = { s with link := t.link, mem := t.mem } ∧
      tget (MemCell.coded 0) (t.memory s.link.memSel.toNat).cells x.addr.toNat =
        .raw (x.stageData s.link.memSel.toNat) (x.stageCheck s.link.memSel.toNat) ∧
      ∀ k, k ≠ x.addr.toNat → tget (MemCell.coded 0) (t.memory s.link.memSel.toNat).cells k = tget (MemCell.coded 0) x.cells k := by
  have hsame := testCtrlKept_memory s.actDropped s.link.memSel.toNat
  rw [actDropped_memory] at hsame
  obtain ⟨hdone, hcells⟩ := testWriteRaw_memory (s.actDropped.testCtrlKept s.link.memSel.toNat) s.link.memSel.toNat
  rw [hsame] at hcells
  refine ⟨_, congrArg Host.Outcome.next (busWrite_testOp (op := 2) h rfl (by decide) hen hok), rfl, hdone, wrote_frame_mem
    (keeps_testWriteRaw _ (keeps_modMemory _ _ (Keeps.refl _ _) rfl) rfl), ?_⟩
  rw [wrote_memory, State.testOp, hcells]
  exact ⟨tget_tset_same _ _ _ _, fun k hk => tget_tset_ne _ _ _ hk⟩

theorem exec_memTestWriteChecked (h : s.serves 0x45 = true) (hen : (s.memory s.link.memSel.toNat).testEn = true)
    (hok : s.testOpOk s.link.memSel.toNat = true) :
    let x := s.memory s.link.memSel.toNat
    ∃ t, exec .memTestWriteChecked s = .next t ∧ t.link.status = .ok ∧ (t.memory s.link.memSel.toNat).testDone = true ∧
      t = { s with link := t.link, mem := t.mem } ∧
      tget (MemCell.coded 0) (t.memory s.link.memSel.toNat).cells x.addr.toNat = .coded (x.stageData s.link.memSel.toNat) ∧
      ∀ k, k ≠ x.addr.toNat → tget (MemCell.coded 0) (t.memory s.link.memSel.toNat).cells k = tget (MemCell.coded 0) x.cells k := by
  have hsame := testCtrlKept_memory s.actDropped s.link.memSel.toNat
  rw [actDropped_memory] at hsame
  obtain ⟨hdone, hcells⟩ := testWriteChecked_memory (s.actDropped.testCtrlKept s.link.memSel.toNat) s.link.memSel.toNat
  rw [hsame] at hcells
  refine ⟨_, congrArg Host.Outcome.next (busWrite_testOp (op := 3) h rfl (by decide) hen hok), rfl, hdone, wrote_frame_mem
    (keeps_testWriteChecked _ (keeps_modMemory _ _ (Keeps.refl _ _) rfl) rfl), ?_⟩
  rw [wrote_memory, State.testOp, hcells]
  exact ⟨tget_tset_same _ _ _ _, fun k hk => tget_tset_ne _ _ _ hk⟩

end MemoryWrites

/-- Settles O22: each register's own rule, and the record of the selected memory that it leaves. -/
theorem memoryRegisters : Obligations.MemoryRegisters := by
  unfold Obligations.MemoryRegisters
  refine ⟨fun s target st => ⟨fun h => ⟨fun ht hnew hspare => ?_, fun ht hold => ?_, fun hno => ?_⟩, fun h => ⟨fun h3 hnew hq hway => ?_,
    fun hno => ?_⟩⟩, fun s en h => ⟨fun hnew hq => ?_, fun hnew hq => ?_, fun hen hon ha => ?_, fun hno => ?_⟩⟩
  · have hput : s.actDropped.regPut 0x44 (target.setWidth 32) 0xFFFFF = .ok (s.actDropped.retireOne s.link.memSel.toNat target.toNat) :=
      (regPut_memRetire s.actDropped target).trans (writeMemRetire_taken (s := s.actDropped) ht hnew hspare)
    have hk := keeps_retireOne_mem s.actDropped s.link.memSel.toNat target.toNat
    obtain ⟨hx, hlink⟩ := busWrite_linkKept h (by decide) hput hk rfl
    refine ⟨_, congrArg Host.Outcome.next hx, wrote_frame_memHealth hk, hlink, ?_, fun k hk => ?_⟩
    · rw [wrote_memory, retireOne_retired, actDropped_memory]
    · rw [wrote_memory, retireOne_memory_ne _ hk, actDropped_memory]
  · have hput := (regPut_memRetire s.actDropped target).trans (writeMemRetire_already (s := s.actDropped) ht hold)
    exact congrArg Host.Outcome.next (busWrite_leaves h (by decide) hput rfl (serves_idle h) rfl)
  · have hput := (regPut_memRetire s.actDropped target).trans (writeMemRetire_refused (s := s.actDropped) hno)
    exact congrArg Host.Outcome.next (busWrite_error h (by decide) hput)
  · have hput : s.actDropped.regPut 0x41 (st.setWidth 32) 3 =
        .ok (s.actDropped.modMemory s.link.memSel.toNat fun y => y.toPower (pwrAsked st)) :=
      (regPut_memPwr s.actDropped st).trans (writeMemPwr_taken (s := s.actDropped) h3 hnew hq hway)
    have hk : Keeps { mem := true } s.actDropped (s.actDropped.modMemory s.link.memSel.toNat fun y => y.toPower (pwrAsked st)) :=
      keeps_modMemory _ _ (Keeps.refl _ _) rfl
    obtain ⟨hx, hlink⟩ := busWrite_linkKept h (by decide) hput hk rfl
    obtain ⟨hreq, hnow, hcells, hpoison⟩ := toPower_fields (s.memory s.link.memSel.toNat) (pwrAsked st)
    refine ⟨_, congrArg Host.Outcome.next hx, wrote_frame_mem hk, hlink, ?_⟩
    simp only [wrote_memory, modMemory_memory_same, actDropped_memory]
    exact ⟨hreq, hnow, hcells, hpoison, fun k hk => modMemory_memory_ne _ _ _ hk⟩
  · have hput := (regPut_memPwr s.actDropped st).trans (writeMemPwr_refused (s := s.actDropped) hno)
    exact congrArg Host.Outcome.next (busWrite_error h (by decide) hput)
  · exact exec_memTestEnWrite h hq
  · exact exec_memTestEnWrite_refused h hnew hq
  · have hok := (testOpOk_iff s s.link.memSel.toNat).mpr ⟨hon, ha⟩
    exact ⟨fun d c => exec_memTestRead h hen hok, exec_memTestWriteRaw h hen hok, exec_memTestWriteChecked h hen hok⟩
  · have hrefused : (s.memory s.link.memSel.toNat).testEn = false ∨ s.testOpOk s.link.memSel.toNat = false := by
      refine hno.imp_right fun hno => Bool.eq_false_iff.mpr fun hok => ?_
      obtain ⟨hon, ha⟩ := (testOpOk_iff s s.link.memSel.toNat).mp hok
      exact hno.elim (· hon) (absurd ha ∘ Nat.not_lt.mpr)
    exact ⟨congrArg Host.Outcome.next (busWrite_testOp_refused h (op := 1) rfl (by decide) hrefused),
      congrArg Host.Outcome.next (busWrite_testOp_refused h (op := 2) rfl (by decide) hrefused),
      congrArg Host.Outcome.next (busWrite_testOp_refused h (op := 3) rfl (by decide) hrefused)⟩

end Sys2Proof.Machine

/-! # WICK_SUBMIT, WICK_DONE and the Cellar's base and size -/

namespace Sys2Proof.Machine
open Sys2Proof

/-! ### What WICK queues for itself (R418, R420) -/

section WickQueue

/-- From w to u descriptors of the Back core alone have joined the end of the queue, and WICK_SUBMIT.TAG stands. -/
def WickState.Joined (w u : WickState) : Prop := u.tag = w.tag ∧ ∃ own, u.queue = w.queue ++ own ∧ ∀ e ∈ own, e.who = .back

theorem WickState.Joined.refl (w : WickState) : w.Joined w := ⟨rfl, [], (List.append_nil _).symm, by simp⟩

theorem WickState.Joined.trans {w u x : WickState} (h : w.Joined u) (k : u.Joined x) : w.Joined x := by
  obtain ⟨htag, own, hq, hback⟩ := h
  obtain ⟨htag', own', hq', hback'⟩ := k
  refine ⟨htag'.trans htag, own ++ own', by rw [hq', hq, List.append_assoc], fun e he => ?_⟩
  exact (List.mem_append.mp he).elim (hback e) (hback' e)

theorem joined_push (w : WickState) (op sector : Nat) : w.Joined (w.push .back op sector) := by
  unfold WickState.push
  split
  · exact .refl w
  · exact ⟨rfl, _, rfl, by simp⟩

theorem joined_askErases (w : WickState) (xs : List Nat) : w.Joined (w.askErases xs) := by
  unfold WickState.askErases
  induction xs generalizing w with
  | nil => exact .refl w
  | cons x xs ih =>
    refine WickState.Joined.trans ?_ (ih _)
    dsimp only
    split
    · exact .refl w
    · exact joined_push w _ _

theorem joined_upkeep (w : WickState) : w.Joined w.upkeep := by
  unfold WickState.upkeep
  dsimp only
  split
  · exact (joined_askErases w _).trans (joined_push _ _ _)
  · exact joined_askErases w _

theorem joined_dropRotate (w : WickState) : w.Joined w.dropRotate := by
  unfold WickState.dropRotate
  split <;> exact .refl w

theorem joined_arm (w : WickState) : w.Joined w.arm := by
  have h := (joined_dropRotate w).trans (joined_upkeep _)
  unfold WickState.arm
  dsimp only
  split
  · exact h
  · split <;> exact h

end WickQueue

/-! ### WICK_SUBMIT and WICK_DONE (R374, R412) -/

section WickSubmit

variable {s : State} {tag : Byte}

/-- The descriptor that GO submits. -/
def State.goDesc (s : State) (tag : Byte) : WDesc :=
  { who := .hostSw, tag := tag, w0 := s.wick.desc0, w1 := s.wick.desc1, w2 := s.wick.desc2, status := none }

/-- The state in which the descriptor stands in the queue. -/
def State.goTaken (s : State) (tag : Byte) : State :=
  s.onWick fun w => ({ w with tag := tag, queue := w.queue ++ [s.goDesc tag] } : WickState).arm

/-- The word that GO is written with. -/
def goWord (tag : Byte) : Word := wordOf [(0, 1, 1), (8, 8, tag.toNat)]

theorem goWord_toNat (tag : Byte) : (goWord tag).toNat = 1 + 256 * tag.toNat := by
  have h := tag.isLt
  simp only [goWord, wordOf, List.foldl_cons, List.foldl_nil, BitVec.toNat_ofNat]
  omega

theorem fieldOf_goWord_tag (tag : Byte) : BitVec.ofNat 8 (fieldOf (goWord tag) 8 8) = tag := by
  have h := tag.isLt
  apply BitVec.eq_of_toNat_eq
  simp only [fieldOf, goWord_toNat, BitVec.toNat_ofNat]
  omega

theorem fieldOf_goWord_go (tag : Byte) : fieldOf (goWord tag &&& maskAll) 0 1 = 1 := by
  rw [show maskAll = BitVec.allOnes 32 from rfl, BitVec.and_allOnes]
  simp only [fieldOf, goWord_toNat]
  omega

theorem regPut_wickSubmit (s : State) (tag : Byte) : s.regPut 0x54 (goWord tag) maskAll = s.submitWick tag := by
  show s.writeSubmit (goWord tag) maskAll = _
  unfold State.writeSubmit
  simp only [merge_all, fieldOf_goWord_tag, fieldOf_goWord_go, if_true]

theorem submitWick_taken (hfree : s.wick.queue.length < 16) (hok : s.hostWickRefused (s.goDesc tag) = false) :
    s.submitWick tag = .ok (s.goTaken tag) := by
  have hno : ¬ (s.wick.free = 0 ∨ s.hostWickRefused (s.goDesc tag) = true) := by
    rw [hok]
    simp only [WickState.free, Bool.false_eq_true, or_false]
    omega
  exact if_neg hno

theorem submitWick_refused (hno : 16 ≤ s.wick.queue.length ∨ s.hostWickRefused (s.goDesc tag) = true) :
    s.submitWick tag = .error .werr := by
  refine if_pos (hno.imp_left fun h => ?_)
  unfold WickState.free
  omega

theorem keeps_goTaken (s : State) (tag : Byte) : Keeps { wick := true } s (s.goTaken tag) := keeps_onWick _ (Keeps.refl _ s) rfl

theorem goTaken_queue (s : State) (tag : Byte) : (s.goTaken tag).wick.tag = tag ∧
    ∃ own, (s.goTaken tag).wick.queue = s.wick.queue ++ s.goDesc tag :: own ∧ ∀ e ∈ own, e.who = .back := by
  obtain ⟨htag, own, hq, hback⟩ := joined_arm { s.wick with tag := tag, queue := s.wick.queue ++ [s.goDesc tag] }
  exact ⟨htag, own, hq.trans (List.append_assoc _ _ _), hback⟩

theorem exec_wickSubmit (h : s.serves 0x54 = true) (hfree : s.wick.queue.length < 16)
    (hok : s.hostWickRefused (s.goDesc tag) = false) :
    ∃ t own, exec (.wickSubmit tag) s = .next t ∧ t = { s with link := t.link, wick := t.wick } ∧ t.link = (s.wrote .ok).link ∧
      t.wick.queue = s.wick.queue ++ s.goDesc tag :: own ∧ t.wick.tag = tag ∧ ∀ e ∈ own, e.who = .back := by
  obtain ⟨htag, own, hq, hback⟩ := goTaken_queue s.actDropped tag
  obtain ⟨hx, hlink⟩ := busWrite_linkKept h (by decide)
    ((regPut_wickSubmit _ tag).trans (submitWick_taken (s := s.actDropped) hfree hok)) (keeps_goTaken _ tag) rfl
  exact ⟨_, own, congrArg Host.Outcome.next hx, rfl, hlink, hq, htag, hback⟩

theorem exec_wickSubmit_refused (h : s.serves 0x54 = true)
    (hno : 16 ≤ s.wick.queue.length ∨ s.hostWickRefused (s.goDesc tag) = true) :
    exec (.wickSubmit tag) s = .next (s.wrote .werr) :=
  congrArg Host.Outcome.next (busWrite_error h (by decide)
    ((regPut_wickSubmit _ tag).trans (submitWick_refused (s := s.actDropped) hno)))

theorem exec_wickDoneTake (h : s.serves 0x55 = true) : exec .wickDoneTake s = .next
    (State.wrote { s with wick := { s.wick with hostDone := s.wick.hostDone.drop 1 } } .ok) := by
  have hvalid : fieldOf (0x80000000 &&& maskAll) 31 1 = 1 := by decide
  have hput (u : State) : u.regPut 0x55 0x80000000 maskAll = .ok u.takeWickDone :=
    congrArg Except.ok (if_pos hvalid)
  exact congrArg Host.Outcome.next (busWrite_leaves h (by decide) (hput _) rfl (serves_idle h) rfl)

end WickSubmit

/-! ### The Cellar's base and size (R223, R225, R378) -/

section Cellar

variable {s : State} {hi : Word}

/-- A 64-bit value from its two words. -/
theorem ofNat_words (hi lo : Word) : BitVec.ofNat 64 (lo.toNat + 4294967296 * hi.toNat) = (hi ++ lo : BitVec 64) := by
  have hlo := lo.isLt
  have hhi := hi.isLt
  apply BitVec.eq_of_toNat_eq
  rw [BitVec.toNat_append, Nat.shiftLeft_eq, ← Nat.mul_comm (2 ^ 32), ← Nat.two_pow_add_eq_or_of_lt hlo, BitVec.toNat_ofNat]
  omega

theorem and_pageMask (x : BitVec 64) : (x &&& 0xFFF != 0) = decide (x.toNat % 4096 ≠ 0) := by
  have hand : (x &&& 0xFFF).toNat = x.toNat % 4096 := by
    rw [BitVec.toNat_and, show (0xFFF : BitVec 64).toNat = 2 ^ 12 - 1 from rfl, Nat.and_two_pow_sub_one_eq_mod]
  rw [Bool.eq_iff_iff, bne_iff_ne, decide_eq_true_iff, ← hand, ne_eq, ne_eq, BitVec.toNat_eq]
  rfl

/-- The state in which a base has been taken. -/
def State.cellBased (s : State) (b : BitVec 64) : State :=
  s.onPlace fun p => { p with cellBase := b, cellCur := [], cellFails := 0, cellOff := false }

/-- The state in which a size has been taken. -/
def State.cellSized (s : State) (n : BitVec 64) : State := s.onPlace fun p => { p with cellSize := n }

theorem writeCellBase_taken (h : (hi ++ s.place.cellBaseLo : BitVec 64) = 0 ∨
      ((hi ++ s.place.cellBaseLo : BitVec 64).toNat % 4096 = 0 ∧ s.place.cellSize.toNat = s.cellarNeed)) :
    s.writeCellar 1 hi = .ok (s.cellBased (hi ++ s.place.cellBaseLo)) := by
  show s.writeCellBase hi = _
  unfold State.writeCellBase
  rw [ofNat_words]
  refine if_neg fun hbad => ?_
  rw [and_pageMask] at hbad
  rcases h with h | ⟨hpage, hsize⟩
  · simp [h] at hbad
  · simp [hpage, hsize] at hbad

theorem writeCellBase_refused (hnew : (hi ++ s.place.cellBaseLo : BitVec 64) ≠ s.place.cellBase)
    (hz : (hi ++ s.place.cellBaseLo : BitVec 64) ≠ 0)
    (h : (hi ++ s.place.cellBaseLo : BitVec 64).toNat % 4096 ≠ 0 ∨ s.place.cellSize.toNat ≠ s.cellarNeed) :
    s.writeCellar 1 hi = .error .werr := by
  show s.writeCellBase hi = _
  unfold State.writeCellBase
  rw [ofNat_words]
  refine if_pos ⟨hnew, ?_⟩
  rw [and_pageMask, Bool.and_eq_true, Bool.or_eq_true, decide_eq_true_iff, decide_eq_true_iff, bne_iff_ne]
  exact ⟨hz, h⟩

theorem writeCellSize_taken (h : (hi ++ s.place.cellSizeLo : BitVec 64).toNat = s.cellarNeed) :
    s.writeCellar 3 hi = .ok (s.cellSized (hi ++ s.place.cellSizeLo)) := by
  show s.writeCellSize hi = _
  unfold State.writeCellSize
  rw [ofNat_words]
  exact if_neg fun hbad => hbad.2 h

theorem writeCellSize_refused (hnew : (hi ++ s.place.cellSizeLo : BitVec 64) ≠ s.place.cellSize)
    (h : (hi ++ s.place.cellSizeLo : BitVec 64).toNat ≠ s.cellarNeed) : s.writeCellar 3 hi = .error .werr := by
  show s.writeCellSize hi = _
  unfold State.writeCellSize
  rw [ofNat_words]
  exact if_pos ⟨hnew, h⟩

/-- The register file is where the words of the Cellar's area are written: k is the word. -/
def cellarAddr (k : Nat) : Word := BitVec.ofNat 32 (0x70000 + k)

/-- LINK holds the address of word k of the Cellar's area, after the access that wrote it. -/
def State.atCellar (s : State) (k : Nat) (x : Option (SnapArea × List Word)) : State :=
  s.onLink fun l => { l with indAddr := cellarAddr k, snap := x, status := .ok, rdata := [], act := .none }

/-! What LINK serves turns on its selection and its waiting execution alone. -/

section OnLink

variable {f : LinkState → LinkState}

theorem busOpen_onLink (hsel : ∀ l, (f l).selected = l.selected) (hawait : ∀ l, (f l).awaiting = l.awaiting)
    (hdead : ∀ l, (f l).dead = l.dead) (hrun : ∀ l, (f l).run = l.run) (hpaused : ∀ l, (f l).paused = l.paused)
    (hasleep : ∀ l, (f l).asleep = l.asleep) : (s.onLink f).busOpen = s.busOpen := by
  show (s.linkUp && (f s.link).selected && !(f s.link).awaiting && !(f s.link).dead && (f s.link).run.isNone &&
    (f s.link).paused.isNone && !(f s.link).asleep) = _
  rw [hsel, hawait, hdead, hrun, hpaused, hasleep]
  rfl

theorem noPower_onLink (o : Owner) (hrun : ∀ l, (f l).run = l.run) : o.noPower (s.onLink f) = o.noPower s := by
  show (o.main && (!s.clock.mainOn || (s.snuff.trigger.isSome && (f s.link).run.isNone))) = _
  rw [hrun]
  rfl

theorem held_onLink (o : Owner) : o.held (s.onLink f) = o.held s := by
  cases o <;> rfl

end OnLink

/-- What an access through IND_DATA leaves of a state: LINK's status, and IND_ADDR one further. -/
def State.ended (s : State) (st : Status) (y : Option (SnapArea × List Word)) : State :=
  s.onLink fun l => { l with indAddr := l.indAddr + 1, snap := y, status := st, rdata := [], act := .none }

theorem busWrite_indData {u : State} {st : Status} (h : s.serves 0x61 = true) (hw : s.actDropped.indWrite hi maskAll = (u.indNext, st))
    (hlink : u.link = s.actDropped.link) : ∃ y, s.busWrite 0x61 hi maskAll = u.ended st y := by
  obtain ⟨hopen, -, -⟩ := serves_indData h
  obtain ⟨y, hy⟩ := indNext_snapped u
  refine ⟨y, ?_⟩
  have hwrite : s.actDropped.regWrite 0x61 hi maskAll = (u.indNext, st) := (if_pos rfl).trans hw
  have hend : s.busWrite 0x61 hi maskAll = u.indNext.endAccess st [] 0x02 := by
    unfold State.busWrite
    rw [hopen]
    exact congrArg (fun r : State × Status => r.1.endAccess r.2 [] 0x02) hwrite
  have hpaused : u.link.paused = none := by
    rw [hlink]
    exact (busOpen_idle hopen).2
  have hact : u.link.act = .none := by
    rw [hlink]
    rfl
  rw [hend, hy, endAccess_idle _ _ _ (by exact hpaused) (by exact hact)]
  rfl

section IndWrite

variable {k : Nat} (harea : areaOf s.link.indAddr = .cellar) (hk : s.link.indAddr.toNat - 0x70000 = k)
  (hpower : Area.cellar.owner.noPower s = false) (hheld : Area.cellar.owner.held s = false)

include harea hk hpower hheld

theorem indWrite_cellar_taken {u : State} (h : s.writeCellar k hi = .ok u) : s.indWrite hi maskAll = (u.indNext, .ok) := by
  have hword : s.areaWrite .cellar k hi maskAll = .ok u := by
    show s.writeCellar k (merge (s.areaWord .cellar k) hi maskAll) = _
    rw [merge_all, h]
  unfold State.indWrite
  simp only [harea, hpower, hheld, Bool.false_eq_true, if_false]
  rw [show s.snapFor .cellar = s from rfl, show s.link.indAddr.toNat - Area.cellar.base = k from hk, hword]

theorem indWrite_cellar_refused {e : Status} (h : s.writeCellar k hi = .error e) : s.indWrite hi maskAll = (s.indNext, e) := by
  have hword : s.areaWrite .cellar k hi maskAll = .error e := by
    show s.writeCellar k (merge (s.areaWord .cellar k) hi maskAll) = _
    rw [merge_all, h]
  unfold State.indWrite
  simp only [harea, hpower, hheld, Bool.false_eq_true, if_false]
  rw [show s.snapFor .cellar = s from rfl, show s.link.indAddr.toNat - Area.cellar.base = k from hk, hword]

end IndWrite

theorem areaOf_cellarAddr {k : Nat} (h : k ≤ 3) : areaOf (cellarAddr k) = .cellar ∧ (cellarAddr k).toNat - 0x70000 = k := by
  have hk : k = 0 ∨ k = 1 ∨ k = 2 ∨ k = 3 := by omega
  rcases hk with rfl | rfl | rfl | rfl <;> decide

/-- FRONT answers for the Cellar's area as it does for DEV_CTRL (R377). -/
theorem serves_atCellar {k : Nat} (hk : k ≤ 3) (x : Option (SnapArea × List Word)) (h : s.serves 0x03 = true) :
    (s.atCellar k x).serves 0x61 = true ∧ Area.cellar.owner.noPower (s.atCellar k x).actDropped = false ∧
      Area.cellar.owner.held (s.atCellar k x).actDropped = false := by
  unfold State.serves at h
  simp only [Bool.and_eq_true, Bool.not_eq_true'] at h
  obtain ⟨⟨hopen, hpower⟩, hheld⟩ := h
  have hpower' : Area.cellar.owner.noPower (s.atCellar k x) = false := (noPower_onLink _ fun _ => rfl).trans hpower
  have hheld' : Area.cellar.owner.held (s.atCellar k x) = false := (held_onLink _).trans hheld
  refine ⟨?_, (noPower_onLink _ fun _ => rfl).trans hpower', (held_onLink _).trans hheld'⟩
  have howner : ownerOf (s.atCellar k x) 0x61 = Area.cellar.owner := congrArg Area.owner (areaOf_cellarAddr hk).1
  have hopen' : (s.atCellar k x).busOpen = true :=
    (busOpen_onLink (fun _ => rfl) (fun _ => rfl) (fun _ => rfl) (fun _ => rfl) (fun _ => rfl) (fun _ => rfl)).trans hopen
  unfold State.serves
  rw [howner, hopen', hpower', hheld']
  rfl

theorem atCellar_indAddr (k : Nat) (x : Option (SnapArea × List Word)) :
    (s.atCellar k x).actDropped.link.indAddr = cellarAddr k := rfl

/-- The Cellar's word that CELLAR_BASE_WRITE writes. -/
def cellarWord (size : Bool) : Nat := if size then 3 else 1

theorem cellarWord_le (size : Bool) : cellarWord size ≤ 3 := by cases size <;> decide

/-- The write goes through IND_ADDR and IND_DATA to FRONT's word. -/
theorem exec_cellarBaseWrite {size : Bool} (h60 : s.serves 0x60 = true) : ∃ x,
    exec (.cellarBaseWrite size hi) s = .next ((s.atCellar (cellarWord size) x).busWrite 0x61 hi maskAll) := by
  obtain ⟨x, hx, -⟩ := exec_indAddrWrite (v := cellarAddr (cellarWord size)) h60
  have hfirst : s.busWrite 0x60 (cellarAddr (cellarWord size)) maskAll = s.atCellar (cellarWord size) x := Host.Outcome.next.inj hx
  refine ⟨x, ?_⟩
  rw [← hfirst]
  cases size <;> rfl

theorem exec_cellarBaseWrite_taken {size : Bool} (h60 : s.serves 0x60 = true) (h03 : s.serves 0x03 = true) {f : State → State}
    (hput : ∀ u : State, u.place = s.place → u.writeCellar (cellarWord size) hi = .ok (f u)) (hf : ∀ u, (f u).link = u.link) :
    ∃ x y, exec (.cellarBaseWrite size hi) s = .next ((f (s.atCellar (cellarWord size) x).actDropped).ended .ok y) := by
  obtain ⟨x, hx⟩ := exec_cellarBaseWrite (size := size) (hi := hi) h60
  obtain ⟨hserves, hpower, hheld⟩ := serves_atCellar (cellarWord_le size) x h03
  obtain ⟨harea, hword⟩ := areaOf_cellarAddr (cellarWord_le size)
  obtain ⟨y, hy⟩ := busWrite_indData hserves
    (indWrite_cellar_taken (by rw [atCellar_indAddr, harea]) (by rw [atCellar_indAddr, hword]) hpower hheld
      (hput (s.atCellar (cellarWord size) x).actDropped rfl)) (hf _)
  exact ⟨x, y, hx.trans (congrArg Host.Outcome.next hy)⟩

theorem exec_cellarBaseWrite_refused {size : Bool} (h60 : s.serves 0x60 = true) (h03 : s.serves 0x03 = true)
    (hput : ∀ u : State, u.place = s.place → u.writeCellar (cellarWord size) hi = .error .werr) :
    ∃ x y, exec (.cellarBaseWrite size hi) s = .next ((s.atCellar (cellarWord size) x).actDropped.ended .werr y) := by
  obtain ⟨x, hx⟩ := exec_cellarBaseWrite (size := size) (hi := hi) h60
  obtain ⟨hserves, hpower, hheld⟩ := serves_atCellar (cellarWord_le size) x h03
  obtain ⟨harea, hword⟩ := areaOf_cellarAddr (cellarWord_le size)
  obtain ⟨y, hy⟩ := busWrite_indData hserves
    (indWrite_cellar_refused (by rw [atCellar_indAddr, harea]) (by rw [atCellar_indAddr, hword]) hpower hheld
      (hput (s.atCellar (cellarWord size) x).actDropped rfl)) rfl
  exact ⟨x, y, hx.trans (congrArg Host.Outcome.next hy)⟩

/-- The parts that a write of the Cellar's area may change. -/
def Touch.linkPlace : Touch := { link := true, place := true }

theorem keeps_atCellar (s : State) (k : Nat) (x : Option (SnapArea × List Word)) : Keeps .linkPlace s (s.atCellar k x).actDropped :=
  keeps_onLink _ (keeps_onLink _ (Keeps.refl _ s) rfl) rfl

theorem ended_frame {t : State} {st : Status} (y : Option (SnapArea × List Word)) (h : Keeps .linkPlace s t) :
    t.ended st y = { s with link := (t.ended st y).link, place := (t.ended st y).place } :=
  (keeps_onLink _ h rfl : Keeps .linkPlace s (t.ended st y)).frame

/-- The random region's share that a size must be, by the placement state alone. -/
theorem cellarNeed_of_place {u : State} (h : u.place = s.place) : u.cellarNeed = s.cellarNeed :=
  congrArg (fun p : PlaceState => p.randSize / 1024) h

end Cellar

/-- Settles O23: WICK's registers by their own rules, the Cellar's words through IND_DATA by what FRONT takes or refuses. -/
theorem wickAndCellarRegisters : Obligations.WickAndCellarRegisters := by
  unfold Obligations.WickAndCellarRegisters
  intro s tag hi
  extract_lets d base size
  refine ⟨exec_wickSubmit, exec_wickSubmit_refused, exec_wickDoneTake, fun h60 h03 => ⟨fun h => ?_, fun hnew hz h => ?_, fun h => ?_, fun hnew h => ?_⟩⟩
  · have hput (u : State) (hu : u.place = s.place) : u.writeCellar 1 hi = .ok (u.cellBased base) := by
      have hlo : (hi ++ u.place.cellBaseLo : BitVec 64) = base := by rw [hu]
      rw [← cellarNeed_of_place hu, ← hu, ← hlo] at h
      rw [writeCellBase_taken h, hlo]
    obtain ⟨x, y, hx⟩ := exec_cellarBaseWrite_taken (size := false) h60 h03 hput fun _ => rfl
    exact ⟨_, hx, rfl, rfl, rfl, rfl, ended_frame y (keeps_onPlace _ (keeps_atCellar s _ x) rfl)⟩
  · have hput (u : State) (hu : u.place = s.place) : u.writeCellar 1 hi = .error .werr := by
      have hlo : (hi ++ u.place.cellBaseLo : BitVec 64) = base := by rw [hu]
      rw [← cellarNeed_of_place hu, ← hu, ← hlo] at h
      rw [← hlo] at hz
      rw [← hu, ← hlo] at hnew
      exact writeCellBase_refused hnew hz h
    obtain ⟨x, y, hx⟩ := exec_cellarBaseWrite_refused (size := false) h60 h03 hput
    exact ⟨_, hx, rfl, rfl⟩
  · have hput (u : State) (hu : u.place = s.place) : u.writeCellar 3 hi = .ok (u.cellSized size) := by
      have hlo : (hi ++ u.place.cellSizeLo : BitVec 64) = size := by rw [hu]
      rw [← cellarNeed_of_place hu, ← hlo] at h
      rw [writeCellSize_taken h, hlo]
    obtain ⟨x, y, hx⟩ := exec_cellarBaseWrite_taken (size := true) h60 h03 hput fun _ => rfl
    exact ⟨_, hx, rfl, rfl, rfl⟩
  · have hput (u : State) (hu : u.place = s.place) : u.writeCellar 3 hi = .error .werr := by
      have hlo : (hi ++ u.place.cellSizeLo : BitVec 64) = size := by rw [hu]
      rw [← cellarNeed_of_place hu, ← hlo] at h
      rw [← hu, ← hlo] at hnew
      exact writeCellSize_refused hnew h
    obtain ⟨x, y, hx⟩ := exec_cellarBaseWrite_refused (size := true) h60 h03 hput
    exact ⟨_, hx, rfl, rfl⟩

end Sys2Proof.Machine

/-! # Credits, the Tun's acknowledgement, mirror writes and write-through -/

namespace Sys2Proof.Machine
open Sys2Proof

/-! ### What attention changes beside LINK (R311, R360) -/

section Attention

/-- From s to t a vector may have been signalled, attention bits set and the space conditions taken: nothing else. -/
def State.signalled (s t : State) : Prop := ∃ q p o, t = { s with
  link := { s.link with irqStatus := q }
  host := { s.host with pba := p, out := o } }

theorem State.signalled.refl (s : State) : s.signalled s := ⟨s.link.irqStatus, s.host.pba, s.host.out, rfl⟩

theorem State.signalled.trans {s t u : State} (h : s.signalled t) (k : t.signalled u) : s.signalled u := by
  obtain ⟨q, p, o, rfl⟩ := h
  obtain ⟨q', p', o', rfl⟩ := k
  exact ⟨q', p', o', rfl⟩

theorem signalled_signal (s : State) (v : Nat) : s.signalled (s.signal v) := by
  unfold State.signal
  split
  · exact .refl s
  · split
    · exact ⟨_, _, _, rfl⟩
    · exact ⟨_, _, _, rfl⟩

theorem signalled_raise (s : State) (a : Attn) : s.signalled (s.raise a) := by
  have hset : s.signalled (s.onLink fun l => { l with irqStatus := l.irqStatus ||| 1#20 <<< attnBit a }) := ⟨_, _, _, rfl⟩
  unfold State.raise
  dsimp only
  split
  · exact hset.trans (signalled_signal _ 32)
  · exact hset

/-- The space conditions turn on nothing that attention changes. -/
theorem spaceCheck_eq (s : State) : ∃ u low full, s.signalled u ∧ low = s.lowSpace ∧ full = s.noSpace ∧
    s.spaceCheck = u.onIntake fun i => { i with spaceLow := low, spaceFull := full } := by
  unfold State.spaceCheck
  refine ⟨_, _, _, ?_, rfl, rfl, rfl⟩
  have hlow : s.signalled (if s.lowSpace && !s.intake.spaceLow then s.raise .spaceLow else s) := by
    split
    · exact signalled_raise s _
    · exact .refl s
  split
  · exact hlow.trans (signalled_raise _ _)
  · exact hlow

theorem noSpace_congr {s t : State} (hheld : t.place.cHeld = s.place.cHeld) (hstreams : t.vStream = s.vStream) (hpend : t.bPend = s.bPend) :
    t.noSpace = s.noSpace := by
  unfold State.noSpace
  rw [hheld, hstreams, hpend]

theorem lowSpace_congr {s t : State} (hheld : t.place.cHeld = s.place.cHeld) (hstreams : t.vStream = s.vStream) :
    t.lowSpace = s.lowSpace := by
  unfold State.lowSpace
  rw [hheld, hstreams]

theorem bPend_congr {s t : State} (hcredits : t.intake.credits = s.intake.credits) (hreserved : t.intake.reserved = s.intake.reserved)
    (hplace : t.place = s.place) (hmedia : t.media = s.media) : t.bPend = s.bPend := by
  have hunit : ∀ slc, t.unitBytes slc = s.unitBytes slc := fun slc => by unfold State.unitBytes; rw [hmedia]
  unfold State.bPend State.accBytes
  simp only [hcredits, hreserved, hplace, hunit]

theorem State.signalled.place {s u : State} (h : s.signalled u) : u.place = s.place := by
  obtain ⟨q, p, o, rfl⟩ := h
  rfl

theorem State.signalled.intake {s u : State} (h : s.signalled u) : u.intake = s.intake := by
  obtain ⟨q, p, o, rfl⟩ := h
  rfl

theorem State.signalled.bPend {s u : State} (h : s.signalled u) : u.bPend = s.bPend := by
  obtain ⟨q, p, o, rfl⟩ := h
  exact bPend_congr rfl rfl rfl rfl

/-- The check of the space conditions moves no credit, no stream and nothing that B_pend counts. -/
theorem spaceCheck_keeps (s : State) : s.spaceCheck.intake.credits = s.intake.credits ∧
    s.spaceCheck.intake.hdrCredits = s.intake.hdrCredits ∧ s.spaceCheck.intake.streams = s.intake.streams ∧
    s.spaceCheck.place = s.place ∧ s.spaceCheck.bPend = s.bPend := by
  obtain ⟨u, low, full, hu, -, -, h⟩ := spaceCheck_eq s
  have hintake : s.spaceCheck.intake = { s.intake with spaceLow := low, spaceFull := full } := by rw [h, ← hu.intake]; rfl
  refine ⟨by rw [hintake], by rw [hintake], by rw [hintake], by rw [h, ← hu.place]; rfl, ?_⟩
  rw [← hu.bPend, h]
  exact bPend_congr rfl rfl rfl rfl

theorem spaceCheck_follows (s : State) :
    s.spaceCheck.intake.spaceLow = s.spaceCheck.lowSpace ∧ s.spaceCheck.intake.spaceFull = s.spaceCheck.noSpace := by
  obtain ⟨-, -, hstreams, hplace, hpend⟩ := spaceCheck_keeps s
  have hvalid : s.spaceCheck.vStream = s.vStream := by unfold State.vStream; rw [hstreams]
  rw [lowSpace_congr (by rw [hplace]) hvalid, noSpace_congr (by rw [hplace]) hvalid hpend]
  obtain ⟨u, low, full, -, hlow, hfull, h⟩ := spaceCheck_eq s
  rw [h, ← hlow, ← hfull]
  exact ⟨rfl, rfl⟩

end Attention

/-! ### Credits (R86, R201) -/

section Credits

variable {s : State}

theorem watchSpace_running (h : s.running = true) : s.watchSpace = s.spaceCheck := if_pos h

theorem watchSpace_keeps (s : State) : s.watchSpace.intake.credits = s.intake.credits ∧
    s.watchSpace.intake.hdrCredits = s.intake.hdrCredits ∧ s.watchSpace.intake.streams = s.intake.streams ∧ s.watchSpace.bPend = s.bPend := by
  unfold State.watchSpace
  split
  · obtain ⟨hcredits, hheader, hstreams, -, hpend⟩ := spaceCheck_keeps s
    exact ⟨hcredits, hheader, hstreams, hpend⟩
  · exact ⟨rfl, rfl, rfl, rfl⟩

/-- One step: 32 data credits and a header credit. -/
def State.stepGranted (s : State) : State := s.onIntake fun t => { t with credits := t.credits + 32, hdrCredits := t.hdrCredits + 1 }

theorem stepGranted_running (h : s.running = true) : s.stepGranted.running = true := h

theorem stepOk_bound {b : Nat} {gated : Bool} (h : s.stepOk b gated = true) : s.bPend + b ≤ 58720256 := by
  simp only [State.stepOk, Bool.and_eq_true, decide_eq_true_eq] at h
  exact h.1.1.1.2

theorem bPend_stepGranted (s : State) : s.stepGranted.bPend = s.bPend + 512 := by
  show 16 * (s.intake.credits + 32) + s.intake.reserved + sumBy Piece.tunBytes s.place.pieces + s.accBytes =
    16 * s.intake.credits + s.intake.reserved + sumBy Piece.tunBytes s.place.pieces + s.accBytes + 512
  omega

/-- The initial advertisement. -/
def State.advertised (s : State) : State :=
  s.onIntake fun t => { t with credits := t.credits + 2048, hdrCredits := t.hdrCredits + 64, advertised := true }

theorem bPend_advertised (s : State) : s.advertised.bPend = s.bPend + 32768 := by
  show 16 * (s.intake.credits + 2048) + s.intake.reserved + sumBy Piece.tunBytes s.place.pieces + s.accBytes =
    16 * s.intake.credits + s.intake.reserved + sumBy Piece.tunBytes s.place.pieces + s.accBytes + 32768
  omega

theorem advertise_cases (s : State) : (s.advertise = s.advertised ∧ s.bPend + 32768 ≤ 58720256) ∨ s.advertise = s := by
  unfold State.advertise
  dsimp only
  split
  · next h => exact Or.inl ⟨rfl, stepOk_bound h⟩
  · exact Or.inr rfl

theorem exec_creditGrant_off (h : (s.host.perst || s.stopped .host) = true) : exec .creditGrant s = .next s := if_pos h

theorem exec_creditGrant_training (h : (s.host.perst || s.stopped .host) = false) (hadv : s.intake.advertised = false) :
    exec .creditGrant s = .next (if s.host.training then s.advertise else s) := by
  show execCreditGrant s = _
  unfold execCreditGrant
  rw [h, hadv]
  cases s.host.training <;> rfl

theorem exec_creditGrant_step (h : (s.host.perst || s.stopped .host) = false) (hadv : s.intake.advertised = true)
    (hok : s.intake.credits + 32 ≤ 4032 ∧ s.stepOk 512 true = true) : exec .creditGrant s = .next s.stepGranted.watchSpace := by
  show execCreditGrant s = _
  unfold execCreditGrant
  rw [h, hadv]
  exact if_pos hok

theorem exec_creditGrant_none (h : (s.host.perst || s.stopped .host) = false) (hadv : s.intake.advertised = true)
    (hno : ¬ (s.intake.credits + 32 ≤ 4032 ∧ s.stepOk 512 true = true)) : exec .creditGrant s = .next s.watchSpace := by
  show execCreditGrant s = _
  unfold execCreditGrant
  rw [h, hadv]
  exact if_neg hno

/-- Whatever CREDIT_GRANT does, either no data credit is granted or B_pend stays within 56 MiB (R86). -/
theorem creditGrant_bounded {t : State} (hx : exec .creditGrant s = .next t) :
    t.intake.credits = s.intake.credits ∨ t.bPend ≤ 58720256 := by
  cases hoff : (s.host.perst || s.stopped .host) with
  | true =>
    rw [exec_creditGrant_off hoff] at hx
    exact Or.inl (by rw [← Host.Outcome.next.inj hx])
  | false =>
    cases hadv : s.intake.advertised with
    | false =>
      rw [exec_creditGrant_training hoff hadv] at hx
      rw [← Host.Outcome.next.inj hx]
      split
      · rcases advertise_cases s with ⟨h, hb⟩ | h <;> rw [h]
        · exact Or.inr (by rw [bPend_advertised]; exact hb)
        · exact Or.inl rfl
      · exact Or.inl rfl
    | true =>
      by_cases hok : s.intake.credits + 32 ≤ 4032 ∧ s.stepOk 512 true = true
      · rw [exec_creditGrant_step hoff hadv hok] at hx
        rw [← Host.Outcome.next.inj hx]
        exact Or.inr (by rw [(watchSpace_keeps _).2.2.2, bPend_stepGranted]; exact stepOk_bound hok.2)
      · rw [exec_creditGrant_none hoff hadv hok] at hx
        rw [← Host.Outcome.next.inj hx]
        exact Or.inl (watchSpace_keeps s).1

theorem keeps_watchSpace_intake {t : State} (h : Keeps { intake := true, link := true, host := true } s t) :
    Keeps { intake := true, link := true, host := true } s t.watchSpace := keeps_watchSpace h rfl rfl rfl

theorem keeps_stepGranted (s : State) : Keeps { intake := true, link := true, host := true } s s.stepGranted :=
  keeps_onIntake (s := s) _ (fun _ h => h) (Keeps.refl _ s) rfl

theorem exec_creditGrant_advertised (h : (s.host.perst || s.stopped .host) = false) (hadv : s.intake.advertised = true) :
    ∃ t, exec .creditGrant s = .next t ∧
      (s.intake.credits + 32 ≤ 4032 → s.stepOk 512 true = true →
        t.intake.credits = s.intake.credits + 32 ∧ t.intake.hdrCredits = s.intake.hdrCredits + 1) ∧
      (4032 < s.intake.credits + 32 ∨ s.stepOk 512 true = false →
        t.intake.credits = s.intake.credits ∧ t.intake.hdrCredits = s.intake.hdrCredits) ∧
      (s.running = true → t.intake.spaceLow = t.lowSpace ∧ t.intake.spaceFull = t.noSpace) ∧
      t.intake.streams = s.intake.streams ∧ t = { s with intake := t.intake, link := t.link, host := t.host } := by
  by_cases hok : s.intake.credits + 32 ≤ 4032 ∧ s.stepOk 512 true = true
  · obtain ⟨hcredits, hheader, hstreams, -⟩ := watchSpace_keeps s.stepGranted
    refine ⟨_, exec_creditGrant_step h hadv hok, fun _ _ => ⟨hcredits, hheader⟩, fun hno => ?_, fun hrun => ?_, hstreams, ?_⟩
    · rcases hno with hno | hno
      · exact absurd hok.1 (by omega)
      · exact absurd hok.2 (ne_true_of_eq_false hno)
    · rw [watchSpace_running (stepGranted_running hrun)]
      exact spaceCheck_follows _
    · exact (keeps_watchSpace_intake (keeps_stepGranted s)).frame
  · obtain ⟨hcredits, hheader, hstreams, -⟩ := watchSpace_keeps s
    refine ⟨_, exec_creditGrant_none h hadv hok, fun hle hstep => absurd ⟨hle, hstep⟩ hok, fun _ => ⟨hcredits, hheader⟩, fun hrun => ?_,
      hstreams, (keeps_watchSpace_intake (Keeps.refl _ s)).frame⟩
    rw [watchSpace_running hrun]
    exact spaceCheck_follows _

end Credits

/-! ### The Tun's acknowledgement (R78, R81, R109) -/

section Acknowledge

variable {s : State} {i : Nat}

/-- The writes of stream i that the Tun has not acknowledged, once it has acknowledged the oldest. -/
theorem dropFirst_filter (i : Nat) (l : List (Nat × Nat × Nat)) :
    (dropFirst i l).filter (fun w => decide (w.1 = i)) = (l.filter fun w => decide (w.1 = i)).drop 1 := by
  induction l with
  | nil => rfl
  | cons w l ih =>
    unfold dropFirst
    by_cases h : w.1 = i
    · simp [h]
    · simp [h, ih]

/-- Where the acknowledged bytes of stream i end, by the writes that are left. -/
def ackReach (left : List (Nat × Nat × Nat)) (front : Nat) : Nat :=
  match left with
  | w :: _ => w.2.1
  | [] => front

theorem ackedEnd_eq (s : State) (i : Nat) :
    s.ackedEnd i = ackReach (s.intake.unacked.filter fun w => decide (w.1 = i)) (s.stream i).front := by
  unfold State.ackedEnd ackReach
  rw [← List.head?_filter]
  cases s.intake.unacked.filter fun w => decide (w.1 = i) <;> rfl

/-- The state in which the oldest unacknowledged write of stream i has left the list. -/
def State.oldestAcked (s : State) (i : Nat) : State := s.onIntake fun t => { t with unacked := dropFirst i t.unacked }

/-- ST_ACCEPT moves up and never down; but for it and the mark of a mirror write the stream stands. -/
theorem moveAccept_stream (s : State) (i f : Nat) :
    ∃ due, (s.moveAccept i f).stream i = { s.stream i with accept := max (s.stream i).accept f, mirrorDue := due } := by
  unfold State.moveAccept
  dsimp only
  split
  · next h => exact ⟨(s.stream i).mirrorDue, by rw [Nat.max_eq_left h]⟩
  · next h =>
    have hmax : max (s.stream i).accept f = f := Nat.max_eq_right (by omega)
    split
    · obtain ⟨due, hdue⟩ := mirrorEvent_stream_same (s.modStream i fun e => { e with accept := f }) i
      exact ⟨due, by rw [hdue, modStream_stream_same, hmax]⟩
    · exact ⟨(s.stream i).mirrorDue, by rw [modStream_stream_same, hmax]⟩

theorem moveAccept_stream_ne {j : Nat} (f : Nat) (h : j ≠ i) : (s.moveAccept i f).stream j = s.stream j := by
  unfold State.moveAccept
  dsimp only
  split
  · rfl
  · split
    · exact (mirrorEvent_stream_ne _ i h).trans (modStream_stream_ne s i _ h)
    · exact modStream_stream_ne s i _ h

theorem mirrorEvent_unacked (s : State) (i : Nat) : (s.mirrorEvent i).intake.unacked = s.intake.unacked := by
  unfold State.mirrorEvent
  split <;> rfl

theorem moveAccept_unacked (s : State) (i f : Nat) : (s.moveAccept i f).intake.unacked = s.intake.unacked := by
  unfold State.moveAccept
  dsimp only
  split
  · rfl
  · split
    · exact mirrorEvent_unacked _ i
    · rfl

theorem tunAck_unacked (s : State) (i : Nat) : (s.tunAck i).intake.unacked = dropFirst i s.intake.unacked := by
  unfold State.tunAck
  dsimp only
  split
  · rfl
  · exact moveAccept_unacked _ i _

theorem tunAck_held (h : s.acceptHeld i = true) : s.tunAck i = s.oldestAcked i := if_pos h

theorem tunAck_free (h : s.acceptHeld i = false) :
    s.tunAck i = (s.oldestAcked i).moveAccept i ((s.oldestAcked i).ackedEnd i) := if_neg (ne_true_of_eq_false h)

theorem tunAck_stream_ne {j : Nat} (h : j ≠ i) : (s.tunAck i).stream j = s.stream j := by
  cases hheld : s.acceptHeld i with
  | true => rw [tunAck_held hheld]; rfl
  | false => rw [tunAck_free hheld, moveAccept_stream_ne _ h]; rfl

/-- ST_ACCEPT of stream i once the Tun has acknowledged its oldest write (R78, R109). -/
theorem tunAck_stream (s : State) (i : Nat) : ∃ due, (s.tunAck i).stream i = { s.stream i with
    accept := if s.acceptHeld i then (s.stream i).accept else
      max (s.stream i).accept (ackReach ((s.intake.unacked.filter fun w => decide (w.1 = i)).drop 1) (s.stream i).front)
    mirrorDue := due } := by
  cases hheld : s.acceptHeld i with
  | true => exact ⟨(s.stream i).mirrorDue, by rw [tunAck_held hheld, if_pos rfl]; rfl⟩
  | false =>
    obtain ⟨due, h⟩ := moveAccept_stream (s.oldestAcked i) i ((s.oldestAcked i).ackedEnd i)
    refine ⟨due, ?_⟩
    rw [tunAck_free hheld, h, ackedEnd_eq, if_neg Bool.false_ne_true]
    show _ = { s.stream i with
      accept := max (s.stream i).accept
        (ackReach ((s.intake.unacked.filter fun (w : Nat × Nat × Nat) => decide (w.1 = i)).drop 1) (s.stream i).front)
      mirrorDue := due }
    rw [← dropFirst_filter]
    rfl

end Acknowledge

/-! ### The RESUMEs that wait (R81) -/

section Carry

variable {s : State} {i : Nat}

/-- From s to t stream entries may have changed and requests have gone upstream: nothing else. -/
def State.mirroredTo (s t : State) : Prop := ∃ streams out, t = { s with
  intake := { s.intake with streams := streams }
  host := { s.host with out := out } }

theorem State.mirroredTo.refl (s : State) : s.mirroredTo s := ⟨s.intake.streams, s.host.out, rfl⟩

theorem State.mirroredTo.trans {s t u : State} (h : s.mirroredTo t) (k : t.mirroredTo u) : s.mirroredTo u := by
  obtain ⟨a, b, rfl⟩ := h
  obtain ⟨c, d, rfl⟩ := k
  exact ⟨c, d, rfl⟩

theorem resumeStream_mirroredTo (s : State) (i : Nat) : s.mirroredTo (s.resumeStream i) := by
  unfold State.resumeStream
  split
  · exact ⟨_, _, rfl⟩
  · exact ⟨_, _, rfl⟩

theorem carryResume_mirroredTo (s : State) (i : Nat) : s.mirroredTo (s.carryResume i) := by
  unfold State.carryResume
  dsimp only
  split
  · exact resumeStream_mirroredTo s i
  · exact .refl s

theorem carryResume_not_due (h : (s.stream i).resumeDue = false) : s.carryResume i = s := by
  unfold State.carryResume
  dsimp only
  rw [h]
  rfl

theorem resumeStream_stream_ne {j : Nat} (h : j ≠ i) : (s.resumeStream i).stream j = s.stream j := by
  unfold State.resumeStream
  rw [modStream_stream_ne _ _ _ h]
  split
  · exact modStream_stream_ne _ _ _ h
  · rfl

theorem carryResume_stream_ne {j : Nat} (h : j ≠ i) : (s.carryResume i).stream j = s.stream j := by
  unfold State.carryResume
  dsimp only
  split
  · exact resumeStream_stream_ne h
  · rfl

/-- One RESUME may wait in stream i alone: it stays, or the stream is OPEN with REPLAY and ST_ACCEPT stands. -/
theorem carryResume_accept (s : State) (i j : Nat) : ((s.carryResume i).stream j).accept = (s.stream j).accept := by
  by_cases hij : j = i
  · subst hij
    unfold State.carryResume
    dsimp only
    split
    · obtain ⟨seq, due, changed, h⟩ := resumeStream_stream s j
      rw [h]
    · rfl
  · rw [carryResume_stream_ne hij]

/-- The RESUMEs of a list of streams, in order. -/
def State.carried (s : State) (l : List Nat) : State := l.foldl State.carryResume s

theorem carryResumes_eq (s : State) : s.carryResumes = s.carried (s.intake.streams.map Prod.fst) := by
  unfold State.carryResumes State.carried
  rw [List.foldl_map]

theorem carried_mirroredTo (l : List Nat) (s : State) : s.mirroredTo (s.carried l) := by
  induction l generalizing s with
  | nil => exact .refl s
  | cons x l ih => exact (carryResume_mirroredTo s x).trans (ih _)

theorem carried_accept (l : List Nat) (s : State) (j : Nat) : ((s.carried l).stream j).accept = (s.stream j).accept := by
  induction l generalizing s with
  | nil => rfl
  | cons x l ih => exact (ih _).trans (carryResume_accept s x j)

theorem carried_not_due (l : List Nat) {s : State} {j : Nat} (h : (s.stream j).resumeDue = false) :
    (s.carried l).stream j = s.stream j := by
  induction l generalizing s with
  | nil => rfl
  | cons x l ih =>
    have hstep : (s.carryResume x).stream j = s.stream j := by
      by_cases hx : j = x
      · subst hx
        rw [carryResume_not_due h]
      · exact carryResume_stream_ne hx
    exact (ih (by rw [hstep]; exact h)).trans hstep

theorem canResume_mirroredTo {t : State} (h : s.mirroredTo t) (hi : t.stream i = s.stream i) (hc : s.canResume i) : t.canResume i := by
  obtain ⟨haccept, hintake, hport⟩ := hc
  have hm : t.mirrored i = s.mirrored i := by
    unfold State.mirrored
    rw [hi]
    obtain ⟨a, b, rfl⟩ := h
    rfl
  refine ⟨by rw [hi]; exact haccept, ?_, ?_⟩
  · obtain ⟨a, b, rfl⟩ := h
    exact hintake
  · rw [hm]
    obtain ⟨a, b, rfl⟩ := h
    exact hport

/-- A RESUME that may be carried out is, once its stream is reached. -/
theorem carried_due (l : List Nat) {s : State} (hdue : (s.stream i).resumeDue = true) (hrun : s.running = true) (hc : s.canResume i)
    (hi : i ∈ l) :
    ((s.carried l).stream i).st = .open ∧ ((s.carried l).stream i).replay = true ∧ ((s.carried l).stream i).resumeDue = false := by
  induction l generalizing s with
  | nil => exact absurd hi List.not_mem_nil
  | cons x l ih =>
    by_cases hx : i = x
    · subst hx
      obtain ⟨seq, due, changed, h⟩ := resumeStream_stream s i
      have hstep : (s.carried (i :: l)).stream i = (s.resumeStream i).stream i := by
        show ((s.carryResume i).carried l).stream i = _
        rw [carryResume_due hdue hrun hc]
        exact carried_not_due l (by rw [h])
      rw [hstep, h]
      exact ⟨rfl, rfl, rfl⟩
    · have hto := carryResume_mirroredTo s x
      have hstream : (s.carryResume x).stream i = s.stream i := carryResume_stream_ne hx
      refine ih (by rw [hstream]; exact hdue) ?_ (canResume_mirroredTo hto hstream hc) ((List.mem_cons.mp hi).resolve_left hx)
      obtain ⟨a, b, hab⟩ := hto
      rw [hab]
      exact hrun

theorem mem_streams_of_resumeDue (h : (s.stream i).resumeDue = true) : i ∈ s.intake.streams.map Prod.fst := by
  have hne : tget Stream.none s.intake.streams i ≠ Stream.none := fun he => by
    have hnone : (s.stream i).resumeDue = false := by
      show (tget Stream.none s.intake.streams i).resumeDue = false
      rw [he]
      rfl
    exact Bool.false_ne_true (hnone.symm.trans h)
  exact List.mem_map.mpr ⟨_, mem_of_tget_ne hne, rfl⟩

end Carry

/-! ### TUN_ACK and MIRROR_WRITE -/

section Commands

variable {s : State} {stream : BitVec 10}

theorem finishRun_idle (h : s.link.run = none) : s.finishRun = s := by
  unfold State.finishRun
  rw [h]

/-- What the flushes that wait for the acknowledged bytes then program (R18, R109). -/
def State.flushed (s : State) : State :=
  if s.running && s.snuff.trigger.isNone then s.intake.flushes.foldl State.flushProgram s else s

theorem flushed_frame (s : State) : ∃ media place, s.flushed = { s with media := media, place := place } := by
  have hk : Keeps { media := true, place := true } s s.flushed := by
    unfold State.flushed
    exact keeps_ite (keeps_foldl _ (fun t f h => keeps_flushProgram f h rfl rfl) _ (Keeps.refl _ s)) (Keeps.refl _ s)
  exact ⟨_, _, hk.frame⟩

theorem keeps_acknowledged (s : State) (i : Nat) :
    Keeps { intake := true, media := true, place := true, host := true } s (s.tunAck i).flushed.carryResumes := by
  have hacked : Keeps { intake := true, media := true, place := true, host := true } s (s.tunAck i) := keeps_tunAck i (Keeps.refl _ s) rfl
  refine keeps_carryResumes ?_ rfl rfl
  unfold State.flushed
  exact keeps_ite (keeps_foldl _ (fun t f h => keeps_flushProgram f h rfl rfl) _ hacked) hacked

theorem exec_tunAck (hmain : s.clock.mainOn = true) (htun : s.stopped .tun = false) :
    exec (.tunAck stream) s = .next ((s.tunAck stream.toNat).flushed.carryResumes).finishRun := by
  show execTunAck stream s = _
  unfold execTunAck
  rw [hmain, htun]
  rfl

/-- The Tun's acknowledgement in the terms of CreditsAndAcks: the writes of the stream that are left, and where they leave ST_ACCEPT. -/
theorem tunAck_acknowledges (hmain : s.clock.mainOn = true) (hidle : s.link.run = none) (htun : s.stopped .tun = false)
    {i : Nat} (hi : i = stream.toNat) {left : List (Nat × Nat × Nat)}
    (hleft : left = (s.intake.unacked.filter fun w => decide (w.1 = i)).drop 1) {reach : Nat} (hreach : reach = ackReach left (s.stream i).front) :
    ∃ t, exec (.tunAck stream) s = .next t ∧
      t = { s with intake := t.intake, media := t.media, place := t.place, host := t.host } ∧
      (t.intake.unacked.filter fun w => w.1 = i) = left ∧
      (s.acceptHeld i = false → (t.stream i).accept = max (s.stream i).accept reach) ∧
      (s.acceptHeld i = true → (t.stream i).accept = (s.stream i).accept) ∧
      (s.acceptHeld i = false → (s.stream i).resumeDue = true → s.running = true → s.stopped .intake = false →
        max (s.stream i).accept reach = (s.stream i).front → s.mirrored i = false ∨ s.upstreamOpen = true →
        (t.stream i).st = .open ∧ (t.stream i).replay = true ∧ (t.stream i).resumeDue = false) ∧
      ∀ j, j ≠ i → (s.stream j).resumeDue = false → t.stream j = s.stream j := by
  subst hi
  obtain ⟨due, hacked⟩ := tunAck_stream s stream.toNat
  rw [← hleft, ← hreach] at hacked
  have hk : Keeps { intake := true } s (s.tunAck stream.toNat) := keeps_tunAck stream.toNat (Keeps.refl _ s) rfl
  have hframe := hk.frame
  have hunacked := tunAck_unacked s stream.toNat
  have hother : ∀ j, j ≠ stream.toNat → (s.tunAck stream.toNat).stream j = s.stream j := fun j hj => tunAck_stream_ne hj
  have hexec := exec_tunAck (stream := stream) hmain htun
  have hfinal := (keeps_acknowledged s stream.toNat).frame
  generalize s.tunAck stream.toNat = u at hacked hframe hunacked hother hexec hfinal
  obtain ⟨media, place, hflushed⟩ := flushed_frame u
  have hstream : ∀ j, u.flushed.stream j = u.stream j := fun j => by rw [hflushed]; rfl
  rw [carryResumes_eq] at hexec hfinal
  have hto := carried_mirroredTo (u.flushed.intake.streams.map Prod.fst) u.flushed
  have haccept := carried_accept (u.flushed.intake.streams.map Prod.fst) u.flushed
  have hrest : ∀ j, (u.stream j).resumeDue = false →
      (u.flushed.carried (u.flushed.intake.streams.map Prod.fst)).stream j = u.stream j := fun j hj => by
    rw [carried_not_due _ (by rw [hstream]; exact hj), hstream]
  have hrun : u.flushed.running = s.running := by rw [hflushed, hframe]; rfl
  have hintake : u.flushed.stopped .intake = s.stopped .intake := by rw [hflushed, hframe]; rfl
  have hopen : u.flushed.upstreamOpen = s.upstreamOpen := by rw [hflushed, hframe]; rfl
  have hmirrored : u.flushed.mirrored stream.toNat = s.mirrored stream.toNat := by
    unfold State.mirrored
    rw [hstream, hacked, hflushed, hframe]
    rfl
  have hdue := fun h hr hc => carried_due (i := stream.toNat) (s := u.flushed) (u.flushed.intake.streams.map Prod.fst) h hr hc
    (mem_streams_of_resumeDue h)
  generalize hv : u.flushed.carried (u.flushed.intake.streams.map Prod.fst) = v at hexec hto haccept hrest hdue hfinal
  obtain ⟨streams, out, rfl⟩ := hto
  rw [finishRun_idle (by rw [hflushed, hframe]; exact hidle)] at hexec
  refine ⟨_, hexec, hfinal, ?_, fun hfree => ?_, fun hheld => ?_, fun hfree hd hr hs hmax hm => ?_, fun j hj hd => ?_⟩
  · rw [hleft, ← dropFirst_filter, ← hunacked, hflushed]
  · rw [haccept, hstream, hacked, hfree]
    rfl
  · rw [haccept, hstream, hacked, hheld]
    rfl
  · refine hdue (by rw [hstream, hacked]; exact hd) (hrun.trans hr) ⟨?_, hintake.trans hs, ?_⟩
    · rw [hstream, hacked, hfree]
      exact hmax
    · rw [hmirrored, hopen]
      exact hm
  · rw [hrest j (by rw [hother j hj]; exact hd), hother j hj]

theorem exec_mirrorWrite_due (hidle : s.link.run = none) (hdue : (s.stream stream.toNat).mirrorDue = true)
    (hresume : (s.stream stream.toNat).resumeDue = false) (hopen : s.upstreamOpen = true) (hbase : s.host.mirrorBase ≠ 0) :
    exec (.mirrorWrite stream) s =
      .next (s.issueMirror stream.toNat (s.stream stream.toNat).st (s.stream stream.toNat).replay) := by
  have hnone : ((s.issueMirror stream.toNat (s.stream stream.toNat).st (s.stream stream.toNat).replay).stream stream.toNat).resumeDue
      = false := by
    obtain ⟨seq, due, h⟩ := issueMirror_stream s stream.toNat (s.stream stream.toNat).st (s.stream stream.toNat).replay
    rw [h]
    exact hresume
  show execMirrorWrite stream s = _
  unfold execMirrorWrite
  dsimp only
  rw [hdue, hopen, if_pos (by simpa using hbase), carryResume_not_due hnone]
  exact congrArg _ (finishRun_idle hidle)

theorem exec_mirrorWrite_resume (hidle : s.link.run = none) (hdue : (s.stream stream.toNat).mirrorDue = false ∨ s.upstreamOpen = false) :
    exec (.mirrorWrite stream) s = .next (s.carryResume stream.toNat) := by
  obtain ⟨streams, out, hto⟩ := carryResume_mirroredTo s stream.toNat
  show execMirrorWrite stream s = _
  unfold execMirrorWrite
  dsimp only
  rw [if_neg (by rcases hdue with h | h <;> simp [h]), hto]
  exact congrArg _ (finishRun_idle hidle)

theorem mirrorBytes_accept (e : Stream) (seq : Word) (st : SState) (replay : Bool) :
    ∃ rest, rest.length = 8 ∧ e.mirrorBytes seq st replay = leBytes 8 e.accept ++ rest := by
  unfold Stream.mirrorBytes
  simp only [List.append_assoc]
  refine ⟨_, ?_, rfl⟩
  rfl

theorem issueMirror_out (s : State) (i : Nat) (st : SState) (replay : Bool) : ∃ rest, rest.length = 8 ∧
    (s.issueMirror i st replay).host.out =
      s.host.out ++ [.mirror (s.host.mirrorBase + 16 * BitVec.ofNat 64 i) (leBytes 8 (s.stream i).accept ++ rest)] := by
  obtain ⟨rest, hlen, h⟩ := mirrorBytes_accept (s.stream i) (s.stream i).mirrorSeq st replay
  exact ⟨rest, hlen, by rw [← h]; rfl⟩

end Commands

/-- Settles O26: the bound of B_pend is the admission test of a step; ST_ACCEPT follows the writes that are left; RESUMEs are carried
out in turn. -/
theorem creditsAndAcks : Obligations.CreditsAndAcks := by
  unfold Obligations.CreditsAndAcks
  refine ⟨fun s hperst hhost => ?_, ?_⟩
  · have hon : (s.host.perst || s.stopped .host) = false := by rw [hperst, hhost]; rfl
    refine ⟨exec_creditGrant_advertised hon, fun hadv htrain hok => ?_, fun t => creditGrant_bounded⟩
    rw [exec_creditGrant_training hon hadv, htrain]
    exact congrArg _ (if_pos hok)
  · intro s stream hmain hidle
    extract_lets i e left reach
    refine ⟨fun htun => tunAck_acknowledges hmain hidle htun rfl rfl rfl, fun hdue hresume hopen hbase => ?_,
      fun hdue hresume hfull hrun hintake hm hopen => ?_, fun hdue hresume => ?_⟩
    · obtain ⟨rest, hlen, hout⟩ := issueMirror_out s i e.st e.replay
      refine ⟨_, rest, exec_mirrorWrite_due hidle hdue hresume hopen hbase, rfl, hlen, hout, ?_, ?_⟩
      · rw [State.issueMirror, modStream_stream_same]
      · rw [State.issueMirror, modStream_stream_same]
        rfl
    · obtain ⟨seq, due, changed, h⟩ := resumeStream_stream s i
      have hgo := exec_mirrorWrite_resume (stream := stream) hidle (Or.inl hdue)
      rw [carryResume_due hresume hrun ⟨hfull, hintake, Or.inr hopen⟩] at hgo
      refine ⟨_, hgo, ?_, ?_, ?_, ?_, ?_⟩
      · obtain ⟨streams, out, hto⟩ := resumeStream_mirroredTo s i
        rw [hto]
      · rw [h]
      · rw [h]
      · rw [h]
      · obtain ⟨rest, -, hout⟩ := issueMirror_out s i .open true
        show (if s.mirrored i then s.issueMirror i .open true else s).host.out.length = _
        rw [if_pos hm, hout, List.length_append]
        rfl
    · rw [exec_mirrorWrite_resume hidle hdue, carryResume_not_due hresume]

end Sys2Proof.Machine

/-! # Write-through (R107 to R109) -/

namespace Sys2Proof.Machine
open Sys2Proof

/-! ### ST_ACCEPT does not fall -/

section AcceptRises

variable {s t u : State}

/-- No stream's ST_ACCEPT is lower in t than in s. -/
def State.acceptUp (s t : State) : Prop := ∀ j, (s.stream j).accept ≤ (t.stream j).accept

theorem State.acceptUp.trans (h : s.acceptUp t) (k : t.acceptUp u) : s.acceptUp u := fun j => Nat.le_trans (h j) (k j)

theorem acceptUp_of_streams (h : t.intake.streams = s.intake.streams) : s.acceptUp t := fun j => Nat.le_of_eq (by
  unfold State.stream
  rw [h])

theorem acceptUp_moveAccept (s : State) (i f : Nat) : s.acceptUp (s.moveAccept i f) := fun j => by
  by_cases hj : j = i
  · subst hj
    obtain ⟨due, h⟩ := moveAccept_stream s j f
    rw [h]
    exact Nat.le_max_left ..
  · exact Nat.le_of_eq (by rw [moveAccept_stream_ne f hj])

theorem acceptUp_foldl {β : Type} {f : State → β → State} (hf : ∀ (t : State) x, t.acceptUp (f t x)) (l : List β) (s : State) :
    s.acceptUp (l.foldl f s) := by
  induction l generalizing s with
  | nil => exact fun _ => Nat.le_refl _
  | cons x l ih => exact (hf s x).trans (ih _)

theorem acceptUp_settleAll (s : State) : s.acceptUp s.settleAll :=
  acceptUp_foldl (fun t x => by
    split
    · exact fun _ => Nat.le_refl _
    · exact acceptUp_moveAccept t _ _) _ s

/-- A change of every entry that turns none into the default: at a key it gives the changed entry, but where the default stood first. -/
theorem tget_tmap_of_iff {α : Type} [DecidableEq α] {d : α} {f : Nat → α → α} (hf : ∀ k v, f k v = d ↔ v = d) (m : Sparse α) (a : Nat) :
    tget d (tmap d f m) a = f a (tget d m a) ∨ tget d m a = d := by
  induction m with
  | nil => exact Or.inr rfl
  | cons x m ih =>
    obtain ⟨k, v⟩ := x
    by_cases hv : v = d
    · by_cases hk : k = a
      · exact Or.inr (by simp [tget, hk, hv])
      · simpa [tmap, tget, hk, (hf k v).mpr hv] using ih
    · have hkeep : tmap d f ((k, v) :: m) = (k, f k v) :: tmap d f m := if_neg fun h => hv ((hf k v).mp h)
      rw [hkeep]
      by_cases hk : k = a
      · subst hk
        exact Or.inl (by simp [tget])
      · simpa [tget, hk] using ih

/-- A drained stream, closed (R81). -/
def Stream.closedIfDrained (e : Stream) (due : Bool) : Stream :=
  if e.drained then { e with st := .closed, mirrorDue := e.mirrorDue || (e.mirrorEn && due) } else e

theorem closedIfDrained_accept (e : Stream) (due : Bool) : (e.closedIfDrained due).accept = e.accept := by
  unfold Stream.closedIfDrained
  split <;> rfl

theorem closedIfDrained_eq_none (e : Stream) (due : Bool) : e.closedIfDrained due = Stream.none ↔ e = Stream.none := by
  unfold Stream.closedIfDrained
  split
  · next h =>
    refine ⟨fun hc => absurd (congrArg Stream.st hc) SState.noConfusion, fun hn => ?_⟩
    rw [hn] at h
    exact absurd h (by decide)
  · exact Iff.rfl

theorem acceptUp_closeDrained (s : State) : s.acceptUp s.closeDrained := fun j => by
  show (tget Stream.none s.intake.streams j).accept ≤
    (tget Stream.none (tmap Stream.none (fun _ e => e.closedIfDrained (s.host.mirrorBase != 0)) s.intake.streams) j).accept
  rcases tget_tmap_of_iff (fun _ e => closedIfDrained_eq_none e (s.host.mirrorBase != 0)) s.intake.streams j with h | h
  · exact Nat.le_of_eq (by rw [h, closedIfDrained_accept])
  · rw [h]
    exact Nat.zero_le _

theorem acceptUp_carryResumes (s : State) : s.acceptUp s.carryResumes := fun j => Nat.le_of_eq (by
  rw [carryResumes_eq, carried_accept])

end AcceptRises

/-! ### Entry (R107, R108) -/

section Entry

variable {s : State}

theorem setDev_intake (s : State) (d : DevState) (h : d = .degraded) : (s.setDev d).intake = s.intake := by
  subst h
  unfold State.setDev
  split
  · rfl
  · exact (signalled_raise (s.onClock fun c => { c with dev := .degraded }) .stateChange).intake

/-- Write-through is entered: DEV_STATE is DEGRADED, the event raised and counted. -/
theorem wtUpdate_enters (hdev : s.clock.dev = .ready) (hcause : s.wtCause = true) :
    s.wtUpdate.clock.dev = .degraded ∧ s.wtUpdate.intake = { s.intake with wtPowerUp := false } := by
  have hgo : s.wtUpdate =
      (((s.setDev .degraded).raise .wtEnter).count32 0x46 1).onIntake fun i => { i with wtPowerUp := false } := if_pos ⟨hdev, hcause⟩
  rw [hgo]
  refine ⟨?_, ?_⟩
  · show ((s.setDev .degraded).raise .wtEnter).clock.dev = _
    rw [raise_clock, setDev_clock]
  · show { ((s.setDev .degraded).raise .wtEnter).intake with wtPowerUp := false } = _
    rw [(signalled_raise _ _).intake, setDev_intake s _ rfl]

/-- The shortfall becomes a cause of write-through (R107). -/
def State.short (s : State) : State := s.onIntake fun t => { t with wtEnergy := true }

theorem wtCause_short (s : State) : s.short.wtCause = true := by
  simp [State.wtCause, State.short, State.onIntake]

theorem exec_energyShortfall (hrun : s.running = true) (hvin : s.power.vin = true) (hshort : s.shortfall = true) :
    exec .energyShortfallTimeout s = .next s.short.wtUpdate := by
  show execEnergyShortfallTimeout s = _
  unfold execEnergyShortfallTimeout
  rw [hrun, hvin, hshort]
  rfl

end Entry

/-! ### Flushes and their notes (R109, R127) -/

section Flushes

variable {s : State} {f : Sparse Nat} {rest : List (Sparse Nat)}

theorem startFlush_frame (s : State) (f : Sparse Nat) : s.startFlush f = { s with
    intake := { s.intake with flushes := s.intake.flushes ++ [f] }
    media := (s.startFlush f).media
    place := (s.startFlush f).place } :=
  (keeps_flushProgram f (Keeps.refl { media := true, place := true } (s.onIntake fun t => { t with flushes := t.flushes ++ [f] }))
    rfl rfl).frame

theorem flushOnFlash_iff : s.flushOnFlash f = true ↔
    (∀ p ∈ s.place.pieces, p.inTun = true → covered f p = true → p.onFlash = true) ∧ ∀ w ∈ s.intake.unacked, tget 0 f w.1 ≤ w.2.1 := by
  simp [State.flushOnFlash]

/-- A flush's frontiers reach ST_ACCEPT of the streams that it covers. -/
theorem foldl_moveAccept (l : Sparse Nat) (s : State) :
    s.acceptUp (l.foldl (fun t x => if x.1 = randKey then t else t.moveAccept x.1 x.2) s) ∧
    ∀ x ∈ l, x.1 ≠ randKey → max (s.stream x.1).accept x.2 ≤
      ((l.foldl (fun t x => if x.1 = randKey then t else t.moveAccept x.1 x.2) s).stream x.1).accept := by
  induction l generalizing s with
  | nil => exact ⟨fun _ => Nat.le_refl _, nofun⟩
  | cons y l ih =>
    obtain ⟨hup, hreach⟩ := ih (if y.1 = randKey then s else s.moveAccept y.1 y.2)
    have hstep : s.acceptUp (if y.1 = randKey then s else s.moveAccept y.1 y.2) := by
      split
      · exact fun _ => Nat.le_refl _
      · exact acceptUp_moveAccept s _ _
    refine ⟨hstep.trans hup, fun x hx hne => ?_⟩
    rcases List.mem_cons.mp hx with rfl | hx
    · refine Nat.le_trans ?_ (hup x.1)
      obtain ⟨due, h⟩ := moveAccept_stream s x.1 x.2
      exact Nat.le_of_eq (by rw [if_neg hne, h])
    · refine Nat.le_trans ?_ (hreach x hx hne)
      have hrise := hstep x.1
      omega

/-- The state whose journal holds the notes of a flush, before ST_ACCEPT moves. -/
def State.noted (s : State) (f : Sparse Nat) : State :=
  let s1 := (s.flushCycles f).foldl (fun t c => t.record (.note (t.noteCask f c)) none) s
  (if (s.flushCycles f).isEmpty then s1 else s1.onJournal fun j => { j with frames := [] }).onIntake
    fun t => { t with wtTail := t.wtTail.filter fun w => tget 0 f w.1 < w.2 }

theorem noted_streams (s : State) (f : Sparse Nat) : (s.noted f).intake.streams = s.intake.streams := by
  have hk : Keeps { fault := true, media := true, place := true, journal := true, health := true } s
      ((s.flushCycles f).foldl (fun t c => t.record (.note (t.noteCask f c)) none) s) :=
    keeps_foldl _ (fun t c h => keeps_record _ none h rfl rfl rfl rfl rfl) _ (Keeps.refl _ s)
  rw [State.noted]
  refine Eq.trans ?_ (congrArg IntakeState.streams (hk.intakeF rfl))
  split <;> rfl

/-- The notes of a flush are programmed: no ST_ACCEPT falls, and those of its streams reach what they record (R109). -/
theorem programNotes_accept (s : State) (f : Sparse Nat) :
    ∀ x ∈ f, x.1 ≠ randKey → max (s.stream x.1).accept x.2 ≤ ((s.programNotes f).stream x.1).accept := fun x hx hne => by
  have hsame : (s.noted f).stream x.1 = s.stream x.1 := by unfold State.stream; rw [noted_streams]
  rw [← hsame]
  exact Nat.le_trans ((foldl_moveAccept f (s.noted f)).2 x hx hne) (acceptUp_settleAll _ x.1)

/-- What a programmed note leaves: its deltas noted and the flush done (R109, R307). -/
def State.flushDone (s : State) (f : Sparse Nat) (rest : List (Sparse Nat)) : State :=
  ((s.programNotes f).noteDeltas (tget 0 f randKey)).onIntake fun t => { t with flushes := rest }

theorem exec_throughNote_held (hf : s.intake.flushes = f :: rest) (h : s.flushOnFlash f = false) :
    exec .throughNoteProgrammed s = .next s := by
  show execThroughNoteProgrammed s = _
  unfold execThroughNoteProgrammed
  rw [hf]
  exact if_pos (by simp [h])

theorem exec_throughNote (hrun : s.running = true) (htrig : s.snuff.trigger = none) (hback : s.stopped .back = false)
    (hmedia : s.stopped .media = false) (hintake : s.stopped .intake = false) (hf : s.intake.flushes = f :: rest)
    (hflash : s.flushOnFlash f = true) (hroom : s.canRecord (s.notePages f) = true) :
    exec .throughNoteProgrammed s = .next (s.flushDone f rest).carryResumes.closeDrained.finishRun := by
  show execThroughNoteProgrammed s = _
  unfold execThroughNoteProgrammed
  rw [hf]
  dsimp only
  rw [if_neg (by simp [hrun, htrig, hback, hmedia, hintake, hflash]), if_neg (by simp [hroom])]
  rfl

theorem keeps_noteDone (s : State) (f : Sparse Nat) (rest : List (Sparse Nat)) :
    (s.flushDone f rest).carryResumes.closeDrained.link = s.link := by
  have hk : Keeps { fault := true, intake := true, media := true, place := true, journal := true, host := true, health := true } s
      (s.flushDone f rest).carryResumes.closeDrained :=
    keeps_closeDrained (keeps_carryResumes (keeps_onIntake (s := (s.programNotes f).noteDeltas (tget 0 f randKey)) _ (fun _ h => h)
      (keeps_noteDeltas _ (keeps_programNotes f (Keeps.refl _ s) rfl rfl rfl rfl rfl rfl) rfl) rfl) rfl rfl) rfl
  exact hk.linkF rfl

theorem flushes_carryResumes (s : State) : s.carryResumes.closeDrained.intake.flushes = s.intake.flushes := by
  show s.carryResumes.intake.flushes = _
  rw [carryResumes_eq]
  obtain ⟨streams, out, h⟩ := carried_mirroredTo (s.intake.streams.map Prod.fst) s
  rw [h]

theorem flushDone_accept (s : State) (f : Sparse Nat) (rest : List (Sparse Nat)) :
    ∀ x ∈ f, x.1 ≠ randKey →
      max (s.stream x.1).accept x.2 ≤ ((s.flushDone f rest).carryResumes.closeDrained.stream x.1).accept := fun x hx hne =>
  Nat.le_trans (programNotes_accept s f x hx hne)
    (((acceptUp_of_streams rfl).trans ((acceptUp_carryResumes (s.flushDone f rest)).trans (acceptUp_closeDrained _))) x.1)

end Flushes

/-- Settles O27: the shortfall is itself a cause of write-through; the frontiers of a flush are moved into ST_ACCEPT, which nothing
after that lowers. -/
theorem writeThrough : Obligations.WriteThrough := by
  unfold Obligations.WriteThrough
  intro s
  refine ⟨fun hdev hvin hshort => ?_, fun hdev htrig hopen hnew => ?_, fun f rest hrun htrig hback hmedia hintake hf hidle => ⟨?_, ?_⟩⟩
  · obtain ⟨henters, hin⟩ := wtUpdate_enters (s := s.short) hdev (wtCause_short s)
    refine ⟨_, exec_energyShortfall (by simp [State.running, hdev]) hvin hshort, by rw [hin]; rfl, henters, ?_⟩
    simp [State.writeThrough, henters]
  · have hgo : exec .wtFlushStart s = .next (s.startFlush s.openFrontiers) := by
      show execWtFlushStart s = _
      unfold execWtFlushStart
      simp [State.writeThrough, State.running, hdev, htrig, hopen, hnew]
    exact ⟨_, hgo, startFlush_frame s _⟩
  · intro hroom hflash hacked
    have hgo := exec_throughNote hrun htrig hback hmedia hintake hf (flushOnFlash_iff.mpr ⟨hflash, hacked⟩) hroom
    rw [finishRun_idle (by rw [keeps_noteDone]; exact hidle)] at hgo
    refine ⟨_, hgo, flushes_carryResumes (s.flushDone f rest), fun x hx hlt => flushDone_accept s f rest x hx fun he => ?_⟩
    rw [he] at hlt
    exact absurd hlt (by decide)
  · rintro ⟨p, hp, htun, hcov, hoff⟩
    refine exec_throughNote_held hf (Bool.eq_false_iff.mpr fun h => ?_)
    rw [(flushOnFlash_iff.mp h).1 p hp htun hcov] at hoff
    exact Bool.false_ne_true hoff.symm

end Sys2Proof.Machine

/-! # What placing pieces and submitting programs leaves of the lists of PLACE and MEDIA -/

namespace Sys2Proof.Machine
open Sys2Proof

/-! ### The parts that placing moves -/

/-- PLACE without what the forming of bands and groups and the placing of pieces change. -/
def PlaceState.lists (p : PlaceState) : PlaceState :=
  { p with pieces := [], bands := [], kd := [], groups := [], randBands := [], short := [] }

/-- MEDIA without what a submission changes. -/
def MediaState.lists (m : MediaState) : MediaState := { m with chans := [], tagNext := 0, orderNext := 0 }

/-- From s to t pieces may have been placed, bands and groups formed and closed, and descriptors submitted; the other lists of PLACE and
MEDIA stand. -/
structure State.Placed (s t : State) : Prop where
  place : t.place.lists = s.place.lists
  media : t.media.lists = s.media.lists

namespace State.Placed

variable {s t u : State}

theorem refl (s : State) : s.Placed s := ⟨rfl, rfl⟩

theorem trans (h : s.Placed t) (k : t.Placed u) : s.Placed u := ⟨k.place.trans h.place, k.media.trans h.media⟩

theorem runs (h : s.Placed t) : t.place.runs = s.place.runs := (congrArg PlaceState.runs h.place :)

theorem runPages (h : s.Placed t) : t.place.runPages = s.place.runPages := (congrArg PlaceState.runPages h.place :)

theorem moves (h : s.Placed t) : t.place.moves = s.place.moves := (congrArg PlaceState.moves h.place :)

theorem pageJobs (h : s.Placed t) : t.place.pageJobs = s.place.pageJobs := (congrArg PlaceState.pageJobs h.place :)

theorem rebuilds (h : s.Placed t) : t.media.rebuilds = s.media.rebuilds := (congrArg MediaState.rebuilds h.media :)

end State.Placed

/-- A piece as the close of its group leaves it: the spill copy, if it is on flash, becomes its only copy (R215). -/
def Piece.closedTo (x : Piece) (l : Loc) : Piece :=
  { x with loc := some l, spill := none, spillOk := false, done := x.spillOk, inTun := !(x.spillOk && x.noted) }

/-- A piece of s stands in t, or the close of its group has left it with its spill copy. -/
def State.piecesFrom (s t : State) : Prop :=
  ∀ p ∈ t.place.pieces, p ∈ s.place.pieces ∨ ∃ x ∈ s.place.pieces, ∃ l, x.spill = some l ∧ p = x.closedTo l

theorem piecesFrom_of_eq {s t : State} (h : t.place.pieces = s.place.pieces) : s.piecesFrom t := fun _ hp => Or.inl (h ▸ hp)

theorem State.piecesFrom.trans {s t u : State} (h : s.piecesFrom t) (k : t.piecesFrom u) : s.piecesFrom u := fun p hp => by
  rcases k p hp with hp | ⟨y, hy, l, hspill, rfl⟩
  · exact h p hp
  · rcases h y hy with hy | ⟨x, -, l', -, rfl⟩
    · exact Or.inr ⟨y, hy, l, hspill, rfl⟩
    · exact absurd hspill (Option.some_ne_none l).symm

/-- A piece that waits with no spill copy stands in t as it stands in s. -/
def State.piecesStay (s t : State) : Prop := ∀ p ∈ s.place.pieces, p.spill = none → p ∈ t.place.pieces

theorem piecesStay_of_eq {s t : State} (h : t.place.pieces = s.place.pieces) : s.piecesStay t := fun _ hp _ => h ▸ hp

/-- From s to t every completion that stands in a queue stands there still, every block in the grown-defect list is in it still, a descriptor
that has started keeps its place and its status, and the same units are stopped. -/
structure State.Queued (s t : State) : Prop where
  comps : ∀ n, ∀ e ∈ (s.chan n).queue, e.comp.isSome = true → ∃ x ∈ (t.chan n).queue, x.comp = e.comp ∧ x.d = e.d
  blocks : ∀ n, ∀ b ∈ (s.chan n).blocks, b ∈ (t.chan n).blocks
  started : ∀ n slot x, (s.chan n).entry slot = some x → x.phase ≠ .queued →
    ∃ y, (t.chan n).entry slot = some y ∧ y.phase ≠ .queued ∧ y.status = x.status
  stopped : ∀ u, t.stopped u = s.stopped u

namespace State.Queued

variable {s t u : State}

theorem of_eq (hchans : t.media.chans = s.media.chans) (hfault : t.fault = s.fault) (hclock : t.clock = s.clock) : s.Queued t := by
  have hchan : ∀ n, t.chan n = s.chan n := fun n => by unfold State.chan; rw [hchans]
  refine ⟨fun n e he _ => ⟨e, hchan n ▸ he, rfl, rfl⟩, fun n b hb => hchan n ▸ hb,
    fun n slot x hx hp => ⟨x, (hchan n).symm ▸ hx, hp, rfl⟩, fun u => ?_⟩
  unfold State.stopped State.unit State.clocked
  rw [hfault, hclock]

theorem refl (s : State) : s.Queued s := of_eq rfl rfl rfl

theorem trans (h : s.Queued t) (k : t.Queued u) : s.Queued u := by
  refine ⟨fun n e he hsome => ?_, fun n b hb => k.blocks n b (h.blocks n b hb), fun n slot e he hp => ?_,
    fun v => (k.stopped v).trans (h.stopped v)⟩
  · obtain ⟨x, hx, hcomp, hd⟩ := h.comps n e he hsome
    obtain ⟨y, hy, hcomp', hd'⟩ := k.comps n x hx (hcomp ▸ hsome)
    exact ⟨y, hy, hcomp'.trans hcomp, hd'.trans hd⟩
  · obtain ⟨x, hx, hpx, hst⟩ := h.started n slot e he hp
    obtain ⟨y, hy, hpy, hst'⟩ := k.started n slot x hx hpx
    exact ⟨y, hy, hpy, hst'.trans hst⟩

/-- A channel whose completions, blocks and started descriptors stand may be written. -/
theorem setChan {n : Nat} {c : Channel}
    (hcomps : ∀ e ∈ (s.chan n).queue, e.comp.isSome = true → ∃ x ∈ c.queue, x.comp = e.comp ∧ x.d = e.d)
    (hblocks : ∀ b ∈ (s.chan n).blocks, b ∈ c.blocks)
    (hstarted : ∀ slot x, (s.chan n).entry slot = some x → x.phase ≠ .queued →
      ∃ y, c.entry slot = some y ∧ y.phase ≠ .queued ∧ y.status = x.status) : s.Queued (s.setChan n c) := by
  have hsame : (s.setChan n c).chan n = c := tget_tset_same ..
  have hne : ∀ k, k ≠ n → (s.setChan n c).chan k = s.chan k := fun k hk => tget_tset_ne _ _ _ hk
  refine ⟨fun k => ?_, fun k => ?_, fun k => ?_, fun u => rfl⟩
  · by_cases hk : k = n
    · subst hk
      rw [hsame]
      exact hcomps
    · rw [hne k hk]
      exact fun e he _ => ⟨e, he, rfl, rfl⟩
  · by_cases hk : k = n
    · subst hk
      rw [hsame]
      exact hblocks
    · rw [hne k hk]
      exact fun b hb => hb
  · by_cases hk : k = n
    · subst hk
      rw [hsame]
      exact hstarted
    · rw [hne k hk]
      exact fun slot x hx hp => ⟨x, hx, hp, rfl⟩

/-- Entries may join the queue of a channel. -/
theorem appended {n : Nat} {c : Channel} (es : List QEntry) (hqueue : c.queue = (s.chan n).queue ++ es)
    (hblocks : c.blocks = (s.chan n).blocks) : s.Queued (s.setChan n c) :=
  setChan (fun e he _ => ⟨e, hqueue ▸ List.mem_append_left es he, rfl, rfl⟩) (fun _ hb => hblocks ▸ hb) fun slot x hx hp => by
    refine ⟨x, ?_, hp, rfl⟩
    unfold Channel.entry at hx ⊢
    rw [hqueue, List.find?_append, hx]
    rfl

end State.Queued

/-- What the forming and the close of groups, and submissions, leave of PLACE and MEDIA. -/
structure State.Grouped (s t : State) : Prop extends s.Placed t where
  pieces : s.piecesFrom t
  stay : s.piecesStay t
  queued : s.Queued t

namespace State.Grouped

variable {s t u : State}

/-- Only bands, groups and what else of PLACE the lists leave out may have changed. -/
theorem of_eq (hplace : t.place.lists = s.place.lists) (hmedia : t.media = s.media) (hpieces : t.place.pieces = s.place.pieces)
    (hfault : t.fault = s.fault) (hclock : t.clock = s.clock) : s.Grouped t :=
  ⟨⟨hplace, congrArg _ hmedia⟩, piecesFrom_of_eq hpieces, piecesStay_of_eq hpieces, .of_eq (congrArg _ hmedia) hfault hclock⟩

theorem refl (s : State) : s.Grouped s := of_eq rfl rfl rfl rfl rfl

theorem trans (h : s.Grouped t) (k : t.Grouped u) : s.Grouped u :=
  ⟨h.toPlaced.trans k.toPlaced, h.pieces.trans k.pieces, fun p hp hnone => k.stay p (h.stay p hp hnone) hnone, h.queued.trans k.queued⟩

theorem foldl {β : Type} {f : State → β → State} (hf : ∀ (t : State) x, t.Grouped (f t x)) (l : List β) (s : State) :
    s.Grouped (l.foldl f s) := by
  induction l generalizing s with
  | nil => exact refl s
  | cons x l ih => exact (hf s x).trans (ih _)

end State.Grouped

/-! ### Submissions (R164) -/

section Submissions

/-- Submitters may come to wait, or wait no more, for an entry of a channel. -/
theorem grouped_waits (s : State) (c : Nat) (f : List MDesc → List MDesc) :
    s.Grouped (s.modChan c fun c => { c with waits := f c.waits }) :=
  ⟨⟨rfl, rfl⟩, piecesFrom_of_eq rfl, piecesStay_of_eq rfl, .appended [] (List.append_nil _).symm rfl⟩

theorem grouped_modBand (s : State) (b : Nat) (f : Band → Band) : s.Grouped (s.modBand b f) := .of_eq rfl rfl rfl rfl rfl

theorem grouped_enter (s : State) (ch : Nat) (d : MDesc) : s.Grouped (s.enter ch d) := by
  unfold State.enter
  split
  · exact grouped_waits s ch fun w => w ++ [d]
  · next i hi =>
    have hentry : s.Queued (s.modChan ch fun c => { c with queue := c.queue ++ [newEntry i d s.media.orderNext] }) :=
      .appended [newEntry i d s.media.orderNext] rfl rfl
    exact ⟨⟨rfl, rfl⟩, piecesFrom_of_eq rfl, piecesStay_of_eq rfl, hentry.trans (.of_eq rfl rfl rfl)⟩

theorem grouped_submit (s : State) (ch : Nat) (d : MDesc) : s.Grouped (s.submit ch d) :=
  have hin : s.Grouped ((s.modChan ch fun c => { c with waits := c.waits ++ [d] }).letIn ch) :=
    (grouped_waits s ch fun w => w ++ [d]).trans ((grouped_waits _ ch fun _ => []).trans
      (State.Grouped.foldl (fun t d => grouped_enter t ch d) _ _))
  ⟨⟨hin.place, hin.media⟩, hin.pieces, hin.stay, hin.queued.trans (.of_eq rfl rfl rfl)⟩

theorem grouped_programUnit (s : State) (row b c : Nat) (cls : BitVec 3) : s.Grouped (s.programUnit row b c cls) := by
  unfold State.programUnit
  dsimp only
  split
  · exact .refl s
  · exact grouped_submit ..

theorem grouped_launch (s : State) (g : Group) (units : List Nat) (cls : BitVec 3) : s.Grouped (s.launch g units cls) :=
  State.Grouped.foldl (fun t u => by
    split
    · exact .refl t
    · exact grouped_programUnit ..) _ _

theorem grouped_issueParity (s : State) (b row : Nat) (cls : BitVec 3) : s.Grouped (s.issueParity b row cls) := by
  unfold State.issueParity
  dsimp only
  split
  · exact .refl s
  · split
    · exact .refl s
    · exact grouped_submit ..

end Submissions

/-! ### Bands and groups (R176, R203, R204, R212) -/

section Groups

theorem grouped_closeBand (s : State) (b : Nat) : s.Grouped (s.closeBand b) := by
  unfold State.closeBand
  dsimp only
  split
  · exact grouped_modBand ..
  · exact .refl s

theorem grouped_closeRows (s : State) (b : Nat) (cls : BitVec 3) : s.Grouped (s.closeRows b cls) :=
  (grouped_modBand s b _).trans ((State.Grouped.foldl (fun t (u : Nat × Nat) => grouped_programUnit t u.1 b u.2 cls) _ _).trans
    ((State.Grouped.foldl (fun t r => grouped_issueParity t b r cls) _ _).trans (grouped_closeBand _ b)))

/-- What the close of a group does to its pieces. -/
def State.groupLeft (s : State) (g : Group) : State :=
  let mine := fun (p : Piece) => match p.loc with
    | some l => decide (g.bands.head? = some l.band)
    | none => false
  s.onPlace fun p => { p with
    groups := p.groups.filter fun x => x.role ≠ g.role
    pieces := p.pieces.map fun x =>
      match x.spill with
      | some l => if mine x then x.closedTo l else x
      | none => x }

theorem grouped_groupLeft (s : State) (g : Group) : s.Grouped (s.groupLeft g) := by
  refine ⟨⟨rfl, rfl⟩, fun p hp => ?_, fun p hp hnone => ?_, .of_eq rfl rfl rfl⟩
  · obtain ⟨x, hx, rfl⟩ := List.mem_map.mp hp
    split
    · next l hl =>
      split
      · exact Or.inr ⟨x, hx, l, hl, rfl⟩
      · exact Or.inl hx
    · exact Or.inl hx
  · refine List.mem_map.mpr ⟨p, hp, ?_⟩
    rw [hnone]

theorem grouped_closeGroup (s : State) (g : Group) : s.Grouped (s.closeGroup g) := by
  have hleft := grouped_groupLeft s g
  unfold State.closeGroup
  refine State.Grouped.trans ?_ (State.Grouped.foldl (fun t b => grouped_closeRows t b _) _ _)
  dsimp only
  split
  · exact hleft.trans (grouped_launch _ g _ _)
  · exact hleft

theorem grouped_takeBlock (s : State) (d : Nat) (m : Nat × Nat) (b : Nat) (slc : Bool) (cls : BitVec 3) :
    s.Grouped (s.takeBlock d m b slc cls) := by
  unfold State.takeBlock
  refine State.Grouped.trans ?_ (grouped_submit ..)
  split
  · exact grouped_submit ..
  · exact .refl s

variable {s t : State}

theorem grouped_newBand {d b : Nat} {pool : Pool} {slc : Bool} (h : s.newBand d pool slc = some (t, b)) : s.Grouped t := by
  unfold State.newBand at h
  dsimp only at h
  split at h
  · cases h
  · cases h
    exact .of_eq rfl rfl rfl rfl rfl

theorem grouped_formBand {d b : Nat} {pool : Pool} {slc intake : Bool} (h : s.formBand d pool slc intake = some (t, b)) : s.Grouped t := by
  obtain ⟨⟨u, k⟩, hr, he⟩ := Option.map_eq_some_iff.mp h
  cases he
  exact (grouped_newBand hr).trans (State.Grouped.foldl (fun t m => grouped_takeBlock t d m _ slc _) _ _)

theorem grouped_formBands {pool : Pool} {slc intake : Bool} {ds bs : List Nat} (h : formBands pool slc intake s ds = some (t, bs)) :
    s.Grouped t := by
  induction ds generalizing s bs with
  | nil =>
    cases h
    exact .refl _
  | cons d ds ih =>
    unfold formBands at h
    split at h
    · cases h
    · next u b hu =>
      obtain ⟨r, hr, he⟩ := Option.map_eq_some_iff.mp h
      cases he
      exact (grouped_formBand hu).trans (ih hr)

theorem grouped_openGroup {role : GroupRole} {g : Group} (h : s.openGroup role = some (t, g)) : s.Grouped t := by
  unfold State.openGroup at h
  split at h
  · cases h
    exact .refl s
  · split at h
    · cases h
    · next u bs hu =>
      split at h
      · cases h
      · cases h
        have hform := grouped_formBands hu
        exact hform.trans (.of_eq rfl rfl rfl rfl rfl)

theorem grouped_allocate {role : GroupRole} {n : Nat} {g : Group} {l : Loc} {us : List Nat} (h : s.allocate role n = some (t, g, l, us)) :
    s.Grouped t := by
  unfold State.allocate at h
  split at h
  · cases h
  · next u g' hu =>
    have hopen := grouped_openGroup hu
    dsimp only at h
    split at h
    · cases h
    · next v g'' hv =>
      have hready : s.Grouped v := by
        split at hv
        · cases hv
          exact hopen
        · exact hopen.trans ((grouped_closeGroup u g').trans (grouped_openGroup hv))
      split at h
      · cases h
      · cases h
        exact hready.trans (.of_eq rfl rfl rfl rfl rfl)

theorem grouped_padGroup (s : State) (role : GroupRole) (cls : BitVec 3) : s.Grouped (s.padGroup role cls) := by
  unfold State.padGroup
  split
  · exact .refl s
  · dsimp only
    split
    · exact .refl s
    · split
      · exact .refl s
      · next h => exact (grouped_allocate h).trans (grouped_launch ..)

end Groups

end Sys2Proof.Machine

/-! # Background moves: verification, batches and rebuilds (R216, R227, R230, R231, R236) -/

namespace Sys2Proof.Machine
open Sys2Proof

/-! ### The moves of a batch (R207, R231) -/

section MovesOf

/-- A move covers a piece: its unit with its entry sequence, or the piece's bytes within the move's. -/
def Move.covers (m : Move) (p : Piece) : Bool :=
  match p.unit with
  | some u => m.stream == randKey && m.off == u && m.len == p.seq
  | none => m.stream == p.stream && decide (m.off ≤ p.off) && decide (p.off + p.data.length ≤ m.off + m.len)

theorem inMove_iff {s : State} {p : Piece} : s.inMove p = true ↔ ∃ m ∈ s.place.moves, m.covers p = true := by
  unfold State.inMove
  rw [List.any_eq_true]
  rfl

/-- The move of one piece copied to l. -/
def Piece.freshMove (p : Piece) (kind : Nat) (l : Loc) : Move :=
  { kind := kind
    stream := match p.unit with | some _ => randKey | none => p.stream
    off := p.unit.getD p.off
    len := match p.unit with | some _ => p.seq | none => p.data.length
    dest := l, checked := false, noted := false }

theorem freshMove_covers (p : Piece) (kind : Nat) (l : Loc) : (p.freshMove kind l).covers p = true := by
  unfold Move.covers Piece.freshMove
  cases p.unit <;> simp

/-- The move m with the bytes of a further piece. -/
def Move.grown (m : Move) (n : Nat) : Move := { m with len := m.len + n }

theorem grown_covers {m : Move} {p : Piece} {n : Nat} (hne : m.stream ≠ randKey) (h : m.covers p = true) : (m.grown n).covers p = true := by
  unfold Move.covers at h ⊢
  unfold Move.grown
  cases hu : p.unit with
  | some u => simp [hu, hne] at h
  | none =>
    simp only [hu, Bool.and_eq_true, beq_iff_eq, decide_eq_true_eq] at h ⊢
    exact ⟨h.1, by omega⟩

/-- What the next piece makes of the moves so far: it joins the newest, or has a move of its own. -/
theorem movesOf_cons (kind : Nat) (p : Piece) (ps : List Piece) (l : Loc) (acc : List Move) :
    movesOf kind (p :: ps) l acc = movesOf kind ps (l.plus 1) (p.freshMove kind l :: acc) ∨
    ∃ m ms, acc = m :: ms ∧ p.unit = none ∧ m.stream = p.stream ∧ m.stream ≠ randKey ∧ m.off + m.len = p.off ∧
      movesOf kind (p :: ps) l acc = movesOf kind ps (l.plus 1) (m.grown p.data.length :: ms) := by
  cases acc with
  | nil => exact Or.inl rfl
  | cons m ms =>
    rw [movesOf]
    cases hu : p.unit with
    | some u =>
      rw [if_neg (by simp)]
      left
      simp [Piece.freshMove, hu]
    | none =>
      simp only [true_and, Option.getD_none, Piece.freshMove, hu]
      split
      · next h =>
        obtain ⟨hstream, hne, hoff, -⟩ := h
        exact Or.inr ⟨m, ms, rfl, hstream, by rw [hstream]; exact hne, hoff, rfl⟩
      · exact Or.inl rfl

/-- Every piece of a batch, and every piece covered before, is covered by a move of the batch. -/
theorem movesOf_covers (kind : Nat) (batch : List Piece) (l : Loc) (acc : List Move) {p : Piece}
    (h : p ∈ batch ∨ ∃ m ∈ acc, m.covers p = true) : ∃ m ∈ movesOf kind batch l acc, m.covers p = true := by
  induction batch generalizing l acc with
  | nil => exact h.resolve_left List.not_mem_nil
  | cons q qs ih =>
    rcases movesOf_cons kind q qs l acc with hgo | ⟨m, ms, rfl, hunit, hstream, hne, hoff, hgo⟩
    · rw [hgo]
      refine ih _ _ ?_
      rcases h with h | ⟨m, hm, hc⟩
      · rcases List.mem_cons.mp h with rfl | h
        · exact Or.inr ⟨_, List.mem_cons_self, freshMove_covers p kind l⟩
        · exact Or.inl h
      · exact Or.inr ⟨m, List.mem_cons_of_mem _ hm, hc⟩
    · rw [hgo]
      refine ih _ _ ?_
      rcases h with h | ⟨x, hx, hc⟩
      · rcases List.mem_cons.mp h with rfl | h
        · refine Or.inr ⟨_, List.mem_cons_self, ?_⟩
          simp only [Move.covers, Move.grown, hunit, hstream, Bool.and_eq_true, beq_iff_eq, decide_eq_true_eq]
          exact ⟨⟨trivial, by omega⟩, by omega⟩
        · exact Or.inl h
      · rcases List.mem_cons.mp hx with rfl | hx
        · exact Or.inr ⟨_, List.mem_cons_self, grown_covers hne hc⟩
        · exact Or.inr ⟨x, List.mem_cons_of_mem _ hx, hc⟩

/-- A move of a kind that waits for its program and its verify, and for a tail. -/
def Move.newOf (kind : Nat) (v : Move) : Prop := v.kind = kind ∧ v.noted = false ∧ v.checked = false

theorem movesOf_new (kind : Nat) (batch : List Piece) (l : Loc) (acc : List Move) (h : ∀ v ∈ acc, v.newOf kind) :
    ∀ v ∈ movesOf kind batch l acc, v.newOf kind := by
  induction batch generalizing l acc with
  | nil => exact h
  | cons q qs ih =>
    rcases movesOf_cons kind q qs l acc with hgo | ⟨m, ms, rfl, -, -, -, -, hgo⟩
    · rw [hgo]
      exact ih _ _ (List.forall_mem_cons.mpr ⟨⟨rfl, rfl, rfl⟩, h⟩)
    · rw [hgo]
      exact ih _ _ (List.forall_mem_cons.mpr ⟨h m List.mem_cons_self, (List.forall_mem_cons.mp h).2⟩)

end MovesOf

/-! ### Batches (R231 steps 1 and 2) -/

section Batches

variable {s : State} {kind : Nat} {role : GroupRole} {cls : BitVec 3} {batch : List Piece} {m : MoveIn}

/-- From u to t a batch has been submitted as moves of a kind: the maps stand, and the moves that cover it are new. -/
def State.batchMoved (u t : State) (kind : Nat) (batch : List Piece) : Prop :=
  t.place.runs = u.place.runs ∧ t.place.runPages = u.place.runPages ∧ ∃ old new, t.place.moves = old ++ new ∧
    (∀ v ∈ new, v.newOf kind) ∧ ∀ p ∈ batch, t.inMove p = true

theorem copyBatch_moved (hne : batch ≠ []) (h : (s.allocate role batch.length).isSome = true) :
    s.batchMoved (s.copyBatch kind role cls batch) kind batch ∧ (s.copyBatch kind role cls batch).media.rebuilds = s.media.rebuilds := by
  obtain ⟨⟨t, g, l, us⟩, ht⟩ := Option.isSome_iff_exists.mp h
  have hgo : s.copyBatch kind role cls batch =
      ((t.launch g us cls).padGroup role cls).onPlace fun p => { p with moves := p.moves ++ (movesOf kind batch l []).reverse } := by
    unfold State.copyBatch
    rw [if_neg (by simpa using hne), ht]
  have hplaced : s.Placed ((t.launch g us cls).padGroup role cls) :=
    ((grouped_allocate ht).trans ((grouped_launch t g us cls).trans (grouped_padGroup _ role cls))).toPlaced
  rw [hgo]
  refine ⟨⟨hplaced.runs, hplaced.runPages, _, (movesOf kind batch l []).reverse, rfl, fun _ hv => ?_, fun p hp => ?_⟩, hplaced.rebuilds⟩
  · exact movesOf_new kind batch l [] nofun _ (List.mem_reverse.mp hv)
  · obtain ⟨v, hv, hc⟩ := movesOf_covers kind batch l [] (Or.inl hp)
    exact inMove_iff.mpr ⟨v, List.mem_append_right _ (List.mem_reverse.mpr hv), hc⟩

/-- With every read of a batch giving its data, the whole batch is copied. -/
theorem moveBatch_unread (h : m.reads = []) (f : State → List Piece → State) : s.moveBatch cls batch m f = f s batch := by
  have hall : (batch.zipIdx.filter fun x => ([] : List Nat).contains x.2 == false).map Prod.fst = batch := by
    have hkeep : (batch.zipIdx.filter fun x => ([] : List Nat).contains x.2 == false) = batch.zipIdx :=
      List.filter_eq_self.mpr fun _ _ => rfl
    rw [hkeep, List.zipIdx_map_fst]
  have hlost : (batch.zipIdx.filter fun x => ([] : List Nat).contains x.2 == true).map Prod.fst = [] := by
    simp
  unfold State.moveBatch State.lostPlaces State.readSources pick
  rw [h]
  simp only [List.filter_nil, List.map_nil, List.foldl_nil]
  rw [hall, hlost]
  rfl

theorem eraseDups_map_const {α β : Type} [BEq β] [LawfulBEq β] {f : α → β} {k : β} {l : List α} (hne : l ≠ []) (h : ∀ x ∈ l, f x = k) :
    (l.map f).eraseDups = [k] := by
  cases l with
  | nil => exact absurd rfl hne
  | cons x l =>
    have hrest : (l.map f).filter (fun b => !b == k) = [] := by
      simp only [List.filter_eq_nil_iff, List.mem_map]
      rintro _ ⟨y, hy, rfl⟩
      simp [h y (List.mem_cons_of_mem _ hy)]
    rw [List.map_cons, List.eraseDups_cons, h x List.mem_cons_self, hrest]
    rfl

/-- A batch from the stream pool alone is rewritten as one (R230). -/
theorem rewriteBatch_streams (hreads : m.reads = []) (hne : batch ≠ []) (hpool : ∀ p ∈ batch, s.poolOf p = some .stream) :
    s.rewriteBatch kind cls batch m = s.copyBatch kind (if kind = 1 then .fold else .sparge) cls batch := by
  have hto : ∀ p ∈ batch, s.rewriteTo kind p = (kind, if kind = 1 then GroupRole.fold else .sparge) := fun p hp => by
    unfold State.rewriteTo
    rw [hpool p hp]
  have hall : (batch.filter fun p => s.rewriteTo kind p = (kind, if kind = 1 then GroupRole.fold else .sparge)) = batch :=
    List.filter_eq_self.mpr fun p hp => decide_eq_true (hto p hp)
  unfold State.rewriteBatch
  rw [moveBatch_unread hreads, eraseDups_map_const hne hto]
  show s.copyBatch kind _ cls (batch.filter _) = _
  rw [hall]

theorem stagingCheck_place (s : State) : ∃ hi, s.stagingCheck.place = { s.place with stagingHi := hi } := by
  unfold State.stagingCheck
  split
  · exact ⟨s.place.stagingHi, rfl⟩
  · split
    · exact ⟨true, by show { (s.raise .stagingHigh).place with stagingHi := true } = _; rw [(signalled_raise s _).place]⟩
    · split
      · exact ⟨false, rfl⟩
      · exact ⟨s.place.stagingHi, rfl⟩

/-- Only the runs, the run pages and the moves of PLACE count for a batch. -/
theorem State.batchMoved.congr {u t v : State} (h : u.batchMoved t kind batch) (hruns : v.place.runs = t.place.runs)
    (hpages : v.place.runPages = t.place.runPages) (hmoves : v.place.moves = t.place.moves) : u.batchMoved v kind batch := by
  obtain ⟨hr, hp, old, new, hm, hnew, hin⟩ := h
  refine ⟨hruns.trans hr, hpages.trans hp, old, new, hmoves.trans hm, hnew, fun p hp => ?_⟩
  rw [inMove_iff, hmoves, ← inMove_iff]
  exact hin p hp

theorem State.batchMoved.marked {u t : State} (h : u.batchMoved t kind batch) (ls : List Loc) : u.batchMoved (t.markPages ls) kind batch :=
  h.congr rfl rfl rfl

end Batches

/-! ### Verification (R231 step 3, R236) -/

section Verify

variable {s : State} {m : MoveIn}

/-- A failed verify takes moves away and makes none; the run table stands. -/
def State.movesFewer (s t : State) : Prop := t.place.runs = s.place.runs ∧ ∀ v ∈ t.place.moves, v ∈ s.place.moves

theorem State.movesFewer.trans {t u : State} (h : s.movesFewer t) (k : t.movesFewer u) : s.movesFewer u :=
  ⟨k.1.trans h.1, fun v hv => h.2 v (k.2 v hv)⟩

theorem State.Placed.movesFewer {t : State} (h : s.Placed t) : s.movesFewer t := ⟨h.runs, fun _ hv => h.moves ▸ hv⟩

theorem movesFewer_refl (s : State) : s.movesFewer s := ⟨rfl, fun _ h => h⟩

theorem movesFewer_cutMember (s : State) (b c : Nat) : s.movesFewer (s.cutMember b c) := by
  unfold State.cutMember
  dsimp only
  split
  · exact movesFewer_refl s
  · split
    · split
      · exact ⟨rfl, fun _ h => h⟩
      · exact movesFewer_refl s
    · exact ⟨rfl, fun v hv => (List.mem_filter.mp hv).1⟩

theorem placed_replaceUnits (s : State) : s.Placed s.replaceUnits := by
  unfold State.replaceUnits
  dsimp only
  split
  · exact .refl s
  · split
    · exact .refl s
    · next t g l us h =>
      exact (grouped_allocate h).toPlaced.trans (State.Placed.trans (t := t.onPlace _) ⟨rfl, rfl⟩ (grouped_launch ..).toPlaced)

theorem placed_closeFull (s : State) (b : Nat) (cls : BitVec 3) : s.Placed (s.closeFull b cls) :=
  ((State.Grouped.foldl (fun t r => grouped_issueParity t b r cls) _ s).trans (grouped_closeBand _ b)).toPlaced

theorem placed_unaccUnit (s : State) (d : MDesc) (c : Nat) : s.Placed (s.unaccUnit d c) := by
  unfold State.unaccUnit
  dsimp only
  split
  · exact .refl s
  · exact (grouped_modBand ..).toPlaced

theorem relocate_place (s : State) (b c : Nat) : (s.relocate b c).place = s.place := by
  unfold State.relocate
  split <;> rfl

theorem movesFewer_verifyFailed (s : State) (l : Loc) : s.movesFewer (s.verifyFailed l) := by
  unfold State.verifyFailed
  split
  · exact movesFewer_refl s
  · next u hu =>
    have hacc := (placed_unaccUnit s (s.unitOp 0x02 6 u) u.2.2).movesFewer
    have hrel : (s.unaccUnit (s.unitOp 0x02 6 u) u.2.2).movesFewer ((s.unaccUnit (s.unitOp 0x02 6 u) u.2.2).relocate u.2.1 u.2.2) := by
      unfold State.movesFewer
      rw [relocate_place]
      exact ⟨rfl, fun _ h => h⟩
    exact hacc.trans (hrel.trans ((movesFewer_cutMember _ _ _).trans ((placed_replaceUnits _).movesFewer.trans
      (placed_closeFull _ _ _).movesFewer)))

/-- Nothing failed: the moves whose targets are programmed are verified. -/
theorem verifyMoves_passed (hread : s.canRead 6 ((targets s.toVerify).map Prod.snd) = true) (h : m.verify = []) :
    s.verifyMoves m = { s with place := { s.place with
      moves := s.place.moves.map fun v => { v with checked := v.checked || s.moveReady v } } } := by
  have hpassed : ∀ v ∈ s.place.moves, (v.checked || s.toVerify.contains v) = (v.checked || s.moveReady v) := fun v hv => by
    have hin : s.toVerify.contains v = (!v.checked && s.moveReady v) := by
      rw [Bool.eq_iff_iff, List.contains_iff_mem]
      simp [State.toVerify, hv]
    rw [hin]
    cases v.checked <;> rfl
  have hmap : (s.place.moves.map fun x => { x with checked := x.checked || s.toVerify.contains x }) =
      s.place.moves.map fun v => { v with checked := v.checked || s.moveReady v } :=
    List.map_congr_left fun v hv => by rw [hpassed v hv]
  have hkeep : ∀ {α : Type} (l : List α), l.filter (fun _ => true) = l := fun l => List.filter_eq_self.mpr fun _ _ => rfl
  rw [← hmap]
  unfold State.verifyMoves
  dsimp only
  rw [hread, h]
  simp only [Bool.not_true, List.filterMap_nil, List.filter_nil, List.map_nil, List.foldl_nil, List.contains_nil, Bool.not_false,
    hkeep]
  rfl

/-- A target that fails its verify: its move is no move any more, and its source is mapped as before. -/
theorem verifyMoves_failed {i : Nat} {r : ReadIn} {v : Move} {l : Loc} (hread : s.canRead 6 ((targets s.toVerify).map Prod.snd) = true)
    (h : m.verify = [(i, r)]) (hi : (targets s.toVerify)[i]? = some (v, l)) (hbad : s.verifies l r = false) :
    v ∉ (s.verifyMoves m).place.moves ∧ (s.verifyMoves m).place.runs = s.place.runs := by
  have hv : v ∈ s.toVerify := by
    have hmem := List.mem_of_getElem? hi
    obtain ⟨w, hw, hk⟩ := List.mem_flatMap.mp hmem
    obtain ⟨k, -, he⟩ := List.mem_map.mp hk
    cases he
    exact hw
  have hunchecked : v.checked = false := by
    simp only [State.toVerify, List.mem_filter, Bool.and_eq_true, Bool.not_eq_true'] at hv
    exact hv.2.1
  have hgo : s.verifyMoves m = (s.verifyFailed l).onPlace fun p => { p with
      moves := (p.moves.filter fun x => !(([v] : List Move).contains x)).map fun x =>
        { x with checked := x.checked || (s.toVerify.filter fun x => !(([v] : List Move).contains x)).contains x } } := by
    unfold State.verifyMoves
    dsimp only
    rw [hread, h]
    simp [hi, hbad]
  rw [hgo]
  refine ⟨fun hmem => ?_, (movesFewer_verifyFailed s l).1⟩
  obtain ⟨x, hx, he⟩ := List.mem_map.mp hmem
  have hsame : x.checked = false := by
    have hc := congrArg Move.checked he
    rw [hunchecked] at hc
    exact (Bool.or_eq_false_iff.mp hc).1
  have hxv : x = v := by
    rw [← he]
    have hc := congrArg Move.checked he
    rw [hunchecked] at hc
    show x = { x with checked := _ }
    rw [show (x.checked || _) = false from hc, ← hsame]
  have hne := (List.mem_filter.mp hx).2
  rw [hxv] at hne
  simp at hne

end Verify

/-! ### The commands -/

section Commands

variable {s : State} {m : MoveIn}

theorem exec_kilnBatch (hup : s.backUp = true) (hmay : s.mayIssue 2 false = true) (hne : (s.verifyMoves m).kilnBatch ≠ [])
    (hwaits : (s.verifyMoves m).rebuildWaits = false) (hread : (s.verifyMoves m).mayRead 6 (s.verifyMoves m).kilnBatch = true) :
    exec (.kilnBatch m) s = .next ((s.verifyMoves m).moveBatch 6 (s.verifyMoves m).kilnBatch m fun t good => t.copyBatch 1
      (if (s.verifyMoves m).kilnBatch.any fun p => p.unit.isSome then .random else .fold) 6 good).stagingCheck := by
  show execKilnBatch m s = _
  unfold execKilnBatch
  rw [hup, hmay]
  dsimp only
  rw [hwaits, hread, List.isEmpty_eq_false_iff.mpr hne]
  rfl

theorem exec_spargeCopy {band : BitVec 24} (hup : s.backUp = true) (hmay : s.mayIssue 3 (s.poolShort (s.band band.toNat).pool) = true)
    (hvictim : (s.verifyMoves m).victim (s.band band.toNat).pool = some band.toNat) (hwaits : (s.verifyMoves m).rebuildWaits = false)
    (hread : (s.verifyMoves m).mayRead (if (s.verifyMoves m).poolShort (s.band band.toNat).pool then 5 else 6)
      ((s.verifyMoves m).spargeBatch band.toNat) = true) :
    exec (.spargeCopy band m) s = .next (((s.verifyMoves m).moveBatch
      (if (s.verifyMoves m).poolShort (s.band band.toNat).pool then 5 else 6) ((s.verifyMoves m).spargeBatch band.toNat) m fun t good =>
        t.copyBatch 2 (if (s.band band.toNat).pool = .random then .spargeRandom else .sparge)
          (if (s.verifyMoves m).poolShort (s.band band.toNat).pool then 5 else 6) good).markPages ((s.verifyMoves m).pagesIn band.toNat)) := by
  show execSpargeCopy band m s = _
  unfold execSpargeCopy
  dsimp only
  rw [hup, hmay, hvictim, hwaits, hread]
  exact (if_neg (by decide)).trans (if_neg (by simp))

theorem exec_refreshRewrite {ch : BitVec 5} {band : BitVec 24} {x : Refresh}
    (hx : (s.media.refresh.find? fun y => y.band = band.toNat && y.chan = ch.toNat) = some x) (hup : s.backUp = true)
    (hmay : s.mayIssue 4 x.urgent = true)
    (hread : (s.verifyMoves m).mayRead (if x.urgent then 5 else 6) ((s.verifyMoves m).refreshBatch x) = true) :
    exec (.refreshRewrite ch band m) s = .next (((s.verifyMoves m).rewriteBatch x.kind (if x.urgent then 5 else 6)
      ((s.verifyMoves m).refreshBatch x) m).markPages ((s.verifyMoves m).listedPages x)) := by
  show execRefreshRewrite ch band m s = _
  unfold execRefreshRewrite
  dsimp only
  rw [hx]
  dsimp only
  rw [hup, hmay, hread]
  rfl

/-- With no further unit of its rows gone, a rebuild loses no row (R194). -/
theorem lostRows_none (ps : List Piece)
    (h : ∀ p ∈ ps, ∀ k, p.loc.bind s.unitAt = some k → s.matesGone k.2.1 k.1 k.2.2 = false) : s.lostRows ps = s := by
  induction ps with
  | nil => rfl
  | cons p ps ih =>
    obtain ⟨hp, hrest⟩ := List.forall_mem_cons.mp h
    unfold State.lostRows at ih ⊢
    rw [List.foldl_cons]
    split
    · next row b c hk =>
      have hmates : s.matesGone b row c = false := hp _ hk
      rw [if_neg (ne_true_of_eq_false hmates), ih hrest]
    · exact ih hrest

/-- The pages that lie on a failed die or channel. -/
def State.pagesOn (s : State) (x : Nat × Option Nat) : List Loc :=
  (s.place.runPages.map Prod.fst ++ s.place.mapPages.map Prod.fst).filter (s.locOn x.1 x.2)

theorem exec_rebuild {ch : BitVec 5} {x : Nat × Option Nat} (hx : (s.media.rebuilds.find? fun y => y.1 = ch.toNat) = some x)
    (hup : s.backUp = true)
    (hrows : ∀ p ∈ (s.verifyMoves m).toRebuild x, ∀ k, p.loc.bind (s.verifyMoves m).unitAt = some k →
      (s.verifyMoves m).matesGone k.2.1 k.1 k.2.2 = false) :
    exec (.rebuild ch m) s = .next (
      if ((s.verifyMoves m).toRebuild x).isEmpty && ((s.verifyMoves m).pagesOn x).isEmpty then
        (s.verifyMoves m).onMedia fun t => { t with rebuilds := t.rebuilds.filter fun y => y ≠ x }
      else if !(s.verifyMoves m).mayRead 5 (sortBy moveBefore (((s.verifyMoves m).toRebuild x).filter (s.verifyMoves m).movable)) then
        s.verifyMoves m
      else ((s.verifyMoves m).rewriteBatch 3 5
        (sortBy moveBefore (((s.verifyMoves m).toRebuild x).filter (s.verifyMoves m).movable)) m).markPages ((s.verifyMoves m).pagesOn x)) := by
  show execRebuild ch m s = _
  unfold execRebuild
  rw [hx]
  dsimp only
  rw [hup, lostRows_none _ hrows]
  unfold State.pagesOn
  simp only [Bool.not_true, Bool.false_eq_true, if_false]
  split
  · rfl
  · split <;> rfl

end Commands

/-- Settles O28: the moves of a batch cover each of its pieces, one by one or grown along a run; nothing that submits their programs
touches the maps. -/
theorem batchesAreMoved : Obligations.BatchesAreMoved := by
  unfold Obligations.BatchesAreMoved
  intro s m hup hreads
  extract_lets u ts moved
  refine ⟨verifyMoves_passed, fun i r v l hread h hi hbad => verifyMoves_failed hread h hi hbad, ?_, ?_, ?_, ?_⟩
  · intro hmay hne hwaits hread hroom
    obtain ⟨hmoved, -⟩ := copyBatch_moved (kind := 1) (cls := 6) hne hroom
    refine ⟨_, exec_kilnBatch hup hmay hne hwaits hread, ?_⟩
    rw [moveBatch_unread hreads]
    obtain ⟨hi, h⟩ := stagingCheck_place (u.copyBatch 1 (if u.kilnBatch.any fun p => p.unit.isSome then .random else .fold) 6 u.kilnBatch)
    exact hmoved.congr (by rw [h]) (by rw [h]) (by rw [h])
  · intro band
    extract_lets b pool batch
    intro hmay hvictim hne hwaits hread hroom
    obtain ⟨hmoved, -⟩ := copyBatch_moved (kind := 2) (cls := if u.poolShort pool then 5 else 6) hne hroom
    refine ⟨_, exec_spargeCopy hup hmay hvictim hwaits hread, ?_⟩
    rw [moveBatch_unread hreads]
    exact hmoved.marked _
  · intro ch band x hx hmay hne hpool hread hroom
    obtain ⟨hmoved, -⟩ := copyBatch_moved (kind := x.kind) (cls := if x.urgent then 5 else 6) hne hroom
    refine ⟨_, exec_refreshRewrite hx hup hmay hread, ?_⟩
    rw [rewriteBatch_streams hreads hne hpool]
    exact hmoved.marked _
  · intro ch x hx hrows
    extract_lets batch
    have hgo := exec_rebuild hx hup hrows
    refine ⟨fun hnone hruns hmaps => ?_, fun hne hpool hread hroom => ?_⟩
    · have hpages : u.pagesOn x = [] := by
        unfold State.pagesOn
        simp only [List.filter_eq_nil_iff, List.mem_append, List.mem_map]
        rintro l (⟨g, hg, rfl⟩ | ⟨g, hg, rfl⟩)
        · exact ne_true_of_eq_false (hruns g hg)
        · exact ne_true_of_eq_false (hmaps g hg)
      rw [if_pos (by rw [hpages, hnone]; rfl)] at hgo
      refine ⟨_, hgo, rfl, fun hmem => ?_⟩
      simpa using (List.mem_filter.mp hmem).2
    · have hsome : u.toRebuild x ≠ [] := fun hnil => hne (by show sortBy moveBefore ((u.toRebuild x).filter u.movable) = []; rw [hnil]; rfl)
      have hall : ¬ (!u.mayRead 5 batch) = true := fun h => Bool.false_ne_true (((Bool.not_eq_true' _).mp h).symm.trans hread)
      rw [if_neg (by simp [hsome, u]), if_neg hall] at hgo
      obtain ⟨hmoved, hrebuilds⟩ := copyBatch_moved (kind := 3) (cls := 5) hne hroom
      refine ⟨_, hgo, ?_⟩
      rw [rewriteBatch_streams hreads hne hpool]
      exact ⟨hmoved.marked _, hrebuilds⟩

end Sys2Proof.Machine

/-! # The journal tail and the lists of the Back core -/

namespace Sys2Proof.Machine
open Sys2Proof

/-! ### Accepted pieces (R114) -/

section Accepted

variable {s t : State} {p x : Piece}

/-- Every byte of a piece is accepted, of a unit once no note is awaited for it. -/
theorem allAccepted_iff : s.allAccepted p = true ↔
    match p.unit with
    | some _ => s.awaited p.seq = false
    | none => p.epoch ≠ (s.stream p.stream).epoch ∨ p.off + p.data.length ≤ (s.stream p.stream).accept := by
  unfold State.allAccepted State.acceptedPart
  cases p.unit with
  | some u => cases s.awaited p.seq <;> simp
  | none =>
    dsimp only
    split
    · next h => simp [h]
    · next h =>
      split
      · simp [h]
      · next hle =>
        refine iff_of_false (fun he => ?_) h
        have hdata : (p.data.take ((s.stream p.stream).accept - p.off)).length = p.data.length :=
          congrArg (fun q => q.data.length) (Option.some.inj (beq_iff_eq.mp he))
        rw [List.length_take] at hdata
        exact h (Or.inr (by omega))

/-- Two pieces of the same bytes. -/
structure Piece.SameBytes (p x : Piece) : Prop where
  unit : p.unit = x.unit
  seq : p.seq = x.seq
  stream : p.stream = x.stream
  epoch : p.epoch = x.epoch
  off : p.off = x.off
  data : p.data = x.data

theorem allAccepted_congr (h : p.SameBytes x) (hstream : t.stream p.stream = s.stream p.stream) (hawaited : t.awaited p.seq = s.awaited p.seq) :
    t.allAccepted p = s.allAccepted x := by
  rw [Bool.eq_iff_iff, allAccepted_iff, allAccepted_iff, ← h.unit, ← h.seq, ← h.stream, ← h.epoch, ← h.off, ← h.data, hstream, hawaited]

end Accepted

/-! ### A commit of the journal tail (R122, R123, R231) -/

section Commit

variable {s : State}

/-- The moves that a commit keeps, without the bytes below ST_TRIM (R235). -/
def State.keptMoves (s : State) : List Move :=
  (s.place.moves.filter fun m => !s.moveDropped m).map fun m => if m.noted then m else s.trimMove m

/-- A kept move enters the tail: verified and programmed, while the tail has room (R231, R276). -/
def State.entersTail (s : State) (m : Move) : Bool := !m.noted && m.checked && s.moveReady m && decide (s.tailBytes ≤ 3670016)

def State.freshMoves (s : State) : List Move := s.keptMoves.filter s.entersTail

/-- The state once the fresh moves have entered the tail. -/
def State.movesNoted (s : State) : State :=
  (s.freshMoves.filter fun m => m.stream = randKey).foldl (fun t m => t.touchEntry m.off m.len) (s.onPlace fun p => { p with
    moves := s.keptMoves.map fun m => { m with noted := m.noted || s.freshMoves.contains m }
    pieces := p.pieces.map fun x => s.freshMoves.foldl (fun y m => m.apply y) x })

/-- A piece that the tail states, as the commit leaves it: TUN keeps it only while it grows (R123). -/
def State.notePiece (s : State) (x : Piece) : Piece :=
  if x.onFlash && s.allAccepted x then { x with noted := true, inTun := x.inTun && (!x.done || s.openPiece x) } else x

/-- The state once the pieces on flash have entered the tail. -/
def State.piecesNoted (s : State) : State :=
  s.movesNoted.onPlace fun p => { p with
    runs := ((s.movesNoted.place.pieces.filter fun p => (p.onFlash && s.movesNoted.allAccepted p) &&
      (!p.noted || s.freshMoves.any fun m => m.stream = p.stream)).filterMap fun p => p.run 0).foldl addRun p.runs
    pieces := p.pieces.map s.movesNoted.notePiece }

theorem commitTail_eq (s : State) : s.commitTail = s.piecesNoted.replacePages.setTail := rfl

theorem touchEntry_moves (s : State) (u seq : Nat) : (s.touchEntry u seq).place.moves = s.place.moves := by
  unfold State.touchEntry
  dsimp only
  split <;> rfl

theorem movesNoted_moves (s : State) :
    s.movesNoted.place.moves = s.keptMoves.map fun m => { m with noted := m.noted || s.entersTail m } := by
  have hfold : ∀ (l : List Move) (t : State), (l.foldl (fun t m => t.touchEntry m.off m.len) t).place.moves = t.place.moves := fun l => by
    induction l with
    | nil => exact fun _ => rfl
    | cons m l ih => exact fun t => (ih _).trans (touchEntry_moves t _ _)
  unfold State.movesNoted
  rw [hfold]
  refine List.map_congr_left fun m hm => ?_
  have hin : s.freshMoves.contains m = s.entersTail m := by
    rw [Bool.eq_iff_iff, List.contains_iff_mem]
    simp [State.freshMoves, hm]
  rw [hin]

/-- A page that takes a codeword changes no move, and of the pieces only what the close of a group does. -/
theorem pageJob_kept (s : State) (body : State → PageBody) :
    (s.pageJob body).place.moves = s.place.moves ∧ s.piecesFrom (s.pageJob body) := by
  unfold State.pageJob
  split
  · exact ⟨rfl, piecesFrom_of_eq rfl⟩
  · next t g l us hgo =>
    have hroom := grouped_allocate hgo
    have hlaunch := fun u => grouped_launch u g us 4
    exact ⟨(hlaunch _).moves.trans hroom.moves, hroom.pieces.trans (hlaunch _).pieces⟩

theorem replacePage_kept (s : State) (x : Loc × RunPage) :
    (s.replacePage x).place.moves = s.place.moves ∧ s.piecesFrom (s.replacePage x) := by
  have hsame : s.place.moves = s.place.moves ∧ s.piecesFrom s := ⟨rfl, piecesFrom_of_eq rfl⟩
  unfold State.replacePage
  split
  · exact hsame
  · dsimp only
    split
    · exact hsame
    · generalize hu : State.onPlace s _ = u
      have hruns : u.place.moves = s.place.moves ∧ s.piecesFrom u := by
        subst hu
        exact ⟨rfl, piecesFrom_of_eq rfl⟩
      have hjob := pageJob_kept u
      have hpad := fun v => grouped_padGroup v .random 4
      exact ⟨(hpad _).moves.trans ((hjob _).1.trans hruns.1), hruns.2.trans ((hjob _).2.trans (hpad _).pieces)⟩

theorem replacePages_kept (s : State) : s.replacePages.place.moves = s.place.moves ∧ s.piecesFrom s.replacePages := by
  have hfold : ∀ (l : List (Loc × RunPage)) (t : State),
      (l.foldl State.replacePage t).place.moves = t.place.moves ∧ t.piecesFrom (l.foldl State.replacePage t) := fun l => by
    induction l with
    | nil => exact fun t => ⟨rfl, piecesFrom_of_eq rfl⟩
    | cons x l ih =>
      intro t
      obtain ⟨hmoves, hpieces⟩ := replacePage_kept t x
      exact ⟨(ih _).1.trans hmoves, hpieces.trans (ih _).2⟩
  exact hfold _ s

theorem commitTail_moves (s : State) :
    s.commitTail.place.moves = s.keptMoves.map fun m => { m with noted := m.noted || s.entersTail m } :=
  (replacePages_kept s.piecesNoted).1.trans (movesNoted_moves s)

/-- What a committed tail states of a piece (R122, R123). -/
def State.stated (s : State) (p : Piece) : Prop :=
  p.onFlash = true → s.allAccepted p = true → p.noted = true ∧ (p.done = true → s.openPiece p = false → p.inTun = false)

theorem stated_notePiece (s : State) (x : Piece) : s.stated (s.notePiece x) := by
  unfold State.notePiece
  split
  · refine fun _ _ => ⟨rfl, fun hdone hopen => ?_⟩
    have hdone' : x.done = true := hdone
    show (x.inTun && (!x.done || s.openPiece x)) = false
    rw [hdone']
    cases hx : s.openPiece x with
    | false => exact Bool.and_false _
    | true =>
      have hsame : { x with noted := true, inTun := x.inTun && (!x.done || s.openPiece x) } = { x with noted := true } := by
        rw [hx, Bool.or_true, Bool.and_true]
      rw [hsame] at hopen
      exact absurd hx (ne_true_of_eq_false hopen)
  · next h => exact fun hflash hall => absurd (by rw [hflash, hall]; rfl) h

/-- What the close of a group leaves of a stated piece is stated: its spill copy is on flash, and the Tun has let go of it. -/
theorem stated_closedTo {x : Piece} {l l' : Loc} (hspill : x.spill = some l') (h : s.stated x) : s.stated (x.closedTo l) := by
  intro hflash hall
  have hok : x.spillOk = true := by
    unfold Piece.onFlash at hflash
    simpa [Piece.closedTo] using hflash
  have hnoted : x.noted = true := (h (by simp [Piece.onFlash, hspill, hok])
    ((allAccepted_congr (p := x.closedTo l) (x := x) ⟨rfl, rfl, rfl, rfl, rfl, rfl⟩ rfl rfl).symm.trans hall)).1
  refine ⟨hnoted, fun _ _ => ?_⟩
  show (!(x.spillOk && x.noted)) = false
  rw [hok, hnoted]
  rfl

theorem stated_congr {t : State} {p : Piece} (hintake : t.intake = s.intake) (hhost : t.host = s.host) (h : s.stated p) : t.stated p := by
  have hstream : t.stream p.stream = s.stream p.stream := by unfold State.stream; rw [hintake]
  have hall : t.allAccepted p = s.allAccepted p :=
    allAccepted_congr ⟨rfl, rfl, rfl, rfl, rfl, rfl⟩ hstream (by unfold State.awaited; rw [hhost])
  have hopen : t.openPiece p = s.openPiece p := by unfold State.openPiece; rw [hstream]
  unfold State.stated
  rw [hall, hopen]
  exact h

theorem commitTail_stated (s : State) : ∀ p ∈ s.commitTail.place.pieces, s.commitTail.stated p := by
  have hk : Keeps { media := true, place := true } s.movesNoted s.piecesNoted.replacePages :=
    keeps_replacePages (keeps_onPlace _ (Keeps.refl _ s.movesNoted) rfl) rfl rfl
  have hall : ∀ p ∈ s.piecesNoted.place.pieces, s.movesNoted.stated p := fun p hp => by
    obtain ⟨x, -, rfl⟩ := List.mem_map.mp hp
    exact stated_notePiece _ x
  intro p hp
  refine stated_congr (s := s.movesNoted) (hk.intakeF rfl) (hk.hostF rfl) ?_
  rcases (replacePages_kept s.piecesNoted).2 p hp with hp | ⟨x, hx, l, hspill, rfl⟩
  · exact hall p hp
  · exact stated_closedTo hspill (hall x hx)

theorem commitTail_frame (s : State) : ∃ x, x.base = s.tailBase ∧ s.commitTail = { s with
    media := s.commitTail.media
    place := s.commitTail.place
    journal := { s.journal with tail := some x } } := by
  have hframe := (keeps_commitTail (L := { media := true, place := true, journal := true }) (Keeps.refl _ s) rfl rfl rfl).frame
  have hk : Keeps { media := true, place := true } s s.piecesNoted.replacePages := by
    refine keeps_replacePages (keeps_onPlace _ ?_ rfl) rfl rfl
    exact keeps_foldl _ (fun t m h => keeps_touchEntry _ _ h rfl) _ (keeps_onPlace _ (Keeps.refl _ s) rfl)
  have hjournal : s.piecesNoted.replacePages.journal = s.journal := hk.journalF rfl
  have htail : ∃ x : Tail, x.base = s.tailBase ∧ s.commitTail.journal = { s.journal with tail := some x } := by
    rw [← hjournal]
    refine ⟨_, ?_, rfl⟩
    show s.piecesNoted.replacePages.tailBase = s.tailBase
    unfold State.tailBase
    rw [hjournal]
  obtain ⟨x, hbase, hx⟩ := htail
  exact ⟨x, hbase, hframe.trans (by rw [← hx]; rfl)⟩

theorem exec_journalTailCommit (hup : s.backUp = true)
    (hroom : s.commitTail.place.runs.length ≤ 21504 ∨ s.commitTail.place.runs.length ≤ s.place.runs.length) :
    exec .journalTailCommit s = .next s.commitTail :=
  if_pos (by rw [hup]; simpa using hroom)

theorem exec_journalTailCommit_waits (hlong : 21504 < s.commitTail.place.runs.length)
    (hmore : s.place.runs.length < s.commitTail.place.runs.length) : exec .journalTailCommit s = .next s :=
  if_neg (by
    simp only [Bool.and_eq_true, Bool.or_eq_true, decide_eq_true_eq]
    omega)

/-- A move that enters the tail stays one whose target is programmed. -/
theorem entersTail_of_noted_false {m : Move} (h : (m.noted || s.entersTail m) = false) :
    m.checked = false ∨ s.moveReady m = false ∨ 3670016 < s.tailBytes := by
  obtain ⟨hnoted, hin⟩ := Bool.or_eq_false_iff.mp h
  simp only [State.entersTail, hnoted, Bool.not_false, Bool.true_and, Bool.and_eq_false_iff, decide_eq_false_iff_not] at hin
  rcases hin with (hin | hin) | hin
  · exact Or.inl hin
  · exact Or.inr (Or.inl hin)
  · exact Or.inr (Or.inr (by omega))

theorem noted_or_entersTail (s : State) (m : Move) :
    (m.noted || s.entersTail m) = (m.noted || (m.checked && s.moveReady m && decide (s.tailBytes ≤ 3670016))) := by
  unfold State.entersTail
  cases m.noted <;> simp [Bool.and_assoc]

end Commit

/-! ### Releases (R121, R232) -/

section Releases

variable {s : State} {band : BitVec 24}

theorem band_modBand_same (s : State) (b : Nat) (f : Band → Band) : (s.modBand b f).band b = f (s.band b) := tget_tset_same ..

theorem band_modBand_ne (s : State) {b k : Nat} (f : Band → Band) (h : k ≠ b) : (s.modBand b f).band k = s.band k := tget_tset_ne _ _ _ h

theorem band_freeBand_phase (s : State) (b : Nat) : ((s.freeBand b).band b).phase = .erasable := by
  show ((s.modBand b fun y => { y with phase := .erasable, accs := [], accBuf := [] }).band b).phase = _
  rw [band_modBand_same]

theorem band_freeBand_ne (s : State) {b k : Nat} (h : k ≠ b) : (s.freeBand b).band k = s.band k :=
  band_modBand_ne s (fun y => { y with phase := .erasable, accs := [], accBuf := [] }) h

theorem exec_bandRelease {h : Nat} (hmain : s.clock.mainOn = true) (hphase : (s.band band.toNat).phase = .released)
    (hhead : s.secondHead = some h) (hseq : (s.band band.toNat).relSeq < h) (hread : s.readsBand band.toNat = false) :
    exec (.bandRelease band) s = .next (s.freeBand band.toNat) := by
  show execBandRelease band s = _
  unfold execBandRelease
  dsimp only
  rw [hmain, hread, if_neg (by decide), if_pos (by simp [hphase, hhead, hseq])]

theorem exec_bandRelease_journal (hmain : s.clock.mainOn = true) (hphase : (s.band band.toNat).phase ≠ .released)
    (hpool : (s.band band.toNat).pool = .journal) (hdone : s.journalDone band.toNat = true) (hread : s.readsBand band.toNat = false) :
    exec (.bandRelease band) s = .next ((s.dropJournal band.toNat).freeBand band.toNat) := by
  show execBandRelease band s = _
  unfold execBandRelease
  dsimp only
  rw [hmain, hread, if_neg (by decide), if_neg (by simp [hphase]), if_pos (by simp [hpool, hdone])]

end Releases

/-! ### Placement (R213) -/

section Placement

variable {s t : State} {i : Nat} {p : Piece}

/-- A piece that has a place is not held. -/
theorem heldPiece_placed (h : p.loc.isSome = true) : s.heldPiece i p = false := by
  have hnone : p.loc.isNone = false := by rw [← Option.not_isSome, h]; rfl
  simp [State.heldPiece, State.completed, hnone]

theorem heldPiece_congr (h : t.intake = s.intake) : t.heldPiece i p = s.heldPiece i p := by
  unfold State.heldPiece State.completed State.tunHas State.ackedEnd State.stream
  rw [h]

/-- Every piece that is to have a place has one. -/
theorem assignLocs_places (f : Piece → Bool) (ps : List Piece) (l : Loc) :
    ∀ p ∈ assignLocs f ps l, (p ∈ ps ∧ f p = false) ∨ p.loc.isSome = true := by
  induction ps generalizing l with
  | nil => exact nofun
  | cons q ps ih =>
    unfold assignLocs
    split
    · refine List.forall_mem_cons.mpr ⟨Or.inr rfl, fun p hp => ?_⟩
      exact (ih _ p hp).imp_left fun h => ⟨List.mem_cons_of_mem _ h.1, h.2⟩
    · next hf =>
      refine List.forall_mem_cons.mpr ⟨Or.inl ⟨List.mem_cons_self, Bool.eq_false_iff.mpr hf⟩, fun p hp => ?_⟩
      exact (ih _ p hp).imp_left fun h => ⟨List.mem_cons_of_mem _ h.1, h.2⟩

theorem placeStream_none {staged : Bool} (h : ∀ p ∈ s.place.pieces, s.heldPiece i p = false) : s.placeStream i staged = s := by
  have hnil : (s.place.pieces.filter fun p => s.heldPiece i p && (s.goesStaged p == staged)) = [] :=
    List.filter_eq_nil_iff.mpr fun p hp => by simp [h p hp]
  unfold State.placeStream
  dsimp only
  rw [hnil]
  rfl

theorem placeStream_intake (s : State) (i : Nat) (staged : Bool) : (s.placeStream i staged).intake = s.intake :=
  (keeps_placeStream (L := { media := true, place := true }) i staged (Keeps.refl _ s) rfl rfl).intakeF rfl

/-- With room in the group, the held pieces of a stream whose class writes directly all have places (R213). -/
theorem placeStream_unheld (hdirect : ∀ p ∈ s.place.pieces, s.heldPiece i p = true → s.goesStaged p = false)
    (hroom : (s.allocate (s.roleFor i false) (s.place.pieces.filter (s.heldPiece i)).length).isSome = true) :
    ∀ p ∈ (s.placeStream i false).place.pieces, (s.placeStream i false).heldPiece i p = false := by
  intro p hp
  rw [heldPiece_congr (placeStream_intake s i false)]
  have hsame : (s.place.pieces.filter fun p => s.heldPiece i p && (s.goesStaged p == false)) = s.place.pieces.filter (s.heldPiece i) :=
    List.filter_congr fun q hq => by
      cases hh : s.heldPiece i q with
      | false => rfl
      | true => simp [hdirect q hq hh]
  by_cases hnone : ∀ q ∈ s.place.pieces, s.heldPiece i q = false
  · rw [placeStream_none hnone] at hp
    exact hnone p hp
  · obtain ⟨⟨t, g, l, us⟩, ht⟩ := Option.isSome_iff_exists.mp hroom
    have hlen : (s.place.pieces.filter (s.heldPiece i)).length ≠ 0 := fun hz => by
      refine hnone fun q hq => ?_
      simpa using (List.filter_eq_nil_iff.mp (List.length_eq_zero_iff.mp hz)) q hq
    have hgo : s.placeStream i false = (t.onPlace fun p => { p with
        pieces := assignLocs (fun p => s.heldPiece i p && (s.goesStaged p == false)) p.pieces l }).launch g us (roleClass g.role) := by
      unfold State.placeStream
      dsimp only
      rw [hsame, if_neg hlen, ht]
    rw [hgo] at hp
    have hclosed : ∀ q ∈ t.place.pieces, s.heldPiece i q = true → q ∈ s.place.pieces := fun q hq hh => by
      rcases (grouped_allocate ht).pieces q hq with hq | ⟨x, -, l', -, rfl⟩
      · exact hq
      · exact absurd hh (ne_true_of_eq_false (heldPiece_placed rfl))
    have hassigned : ∀ q ∈ assignLocs (fun p => s.heldPiece i p && (s.goesStaged p == false)) t.place.pieces l, s.heldPiece i q = false := by
      intro q hq
      rcases assignLocs_places _ _ _ q hq with ⟨hq, hf⟩ | hloc
      · cases hh : s.heldPiece i q with
        | false => rfl
        | true => simp [hh, hdirect q (hclosed q hq hh) hh] at hf
      · exact heldPiece_placed hloc
    rcases (grouped_launch _ g us (roleClass g.role)).pieces p hp with hp | ⟨x, -, l', -, rfl⟩
    · exact hassigned p hp
    · exact heldPiece_placed rfl

/-- A placement that is due, or that of a stream that writes a lane, leaves no held piece. -/
theorem placeHeld_unheld (hdue : s.inLane i = true ∨ s.placeDue i = true)
    (hdirect : ∀ p ∈ s.place.pieces, s.heldPiece i p = true → s.goesStaged p = false)
    (hroom : (s.allocate (s.roleFor i false) (s.place.pieces.filter (s.heldPiece i)).length).isSome = true) :
    ∀ p ∈ (s.placeHeld i).place.pieces, (s.placeHeld i).heldPiece i p = false := by
  have hunheld := placeStream_unheld hdirect hroom
  have hgo : s.placeHeld i = s.placeStream i false := by
    unfold State.placeHeld
    cases hlane : s.inLane i <;> cases hd : s.placeDue i
    · simp [hlane, hd] at hdue
    · exact placeStream_none hunheld
    · rfl
    · exact placeStream_none hunheld
  rw [hgo]
  exact hunheld

theorem exec_piecePlacement {stream : BitVec 10} (hup : s.backUp = true) (hseal : s.journal.sealing = none) :
    exec (.piecePlacement stream) s = .next (s.placeHeld stream.toNat) := by
  have hk : (s.placeHeld stream.toNat).journal = s.journal :=
    (keeps_placeHeld (L := { media := true, place := true }) stream.toNat (Keeps.refl _ s) rfl rfl).journalF rfl
  have hunits : (s.placeHeld stream.toNat).sealUnits = s.placeHeld stream.toNat := by
    unfold State.sealUnits
    rw [hk, hseal]
  show execPiecePlacement stream s = _
  unfold execPiecePlacement
  rw [if_pos hup, hunits]

end Placement

/-! ### Run pages and snuff bands (R208, R238) -/

section Pages

variable {s : State}

/-- A page takes the next codeword of the random group: its job is the last of the list, and the run table stands. -/
theorem pageJob_jobs (body : State → PageBody) (h : (s.allocate .random 1).isSome = true) : ∃ l u, u.journal = s.journal ∧
    (s.pageJob body).place.runs = s.place.runs ∧ (s.pageJob body).place.pageJobs = s.place.pageJobs ++ [(l, body u)] := by
  obtain ⟨⟨t, g, l, us⟩, ht⟩ := Option.isSome_iff_exists.mp h
  have hroom := grouped_allocate ht
  have hjournal : t.journal = s.journal :=
    (keepsP_out (keeps_allocate (L := { media := true, place := true }) .random 1 (Keeps.refl _ s) rfl rfl) ht).journalF rfl
  refine ⟨l, t, hjournal, ?_⟩
  unfold State.pageJob
  rw [ht]
  have hlaunch := fun u => grouped_launch u g us 4
  refine ⟨(hlaunch _).runs.trans hroom.runs, (hlaunch _).pageJobs.trans ?_⟩
  show t.place.pageJobs ++ _ = _
  rw [hroom.pageJobs]

theorem exec_runPageWrite {a : Run} {es : List Run} (hup : s.backUp = true) (hlong : 20480 < s.place.runs.length)
    (hentries : s.pageEntries = a :: es) (hpending : s.runPagePending = false) :
    exec .runPageWrite s = .next ((s.pageJob fun u => .run ⟨u.journal.nextSeq - 1, a.stream, s.runDepth a + 1, a :: es⟩ none).padGroup
      .random 4) := by
  show execRunPageWrite s = _
  unfold execRunPageWrite State.formRunPage
  rw [if_pos (by simp [hup, hlong, hpending]), hentries]

theorem keeps_runPage (s : State) (body : State → PageBody) :
    Keeps { media := true, place := true } s ((s.pageJob body).padGroup .random 4) :=
  keeps_padGroup .random 4 (keeps_pageJob body (Keeps.refl _ s) rfl rfl) rfl rfl

theorem checkSnuff_snuff (s : State) (b : Nat) (erased : Bool) :
    (s.checkSnuff b erased).place.snuff = s.place.snuff.map fun x => if x.1 = b then (b, erased) else x := by
  unfold State.checkSnuff
  dsimp only
  split
  · rfl
  · have hk : ∀ t : State, (t.eraseSnuff b).place = t.place := fun t =>
      (keeps_eraseSnuff (L := { media := true }) b (Keeps.refl _ t) rfl).placeF rfl
    rw [hk]
    rfl

theorem exec_snuffBandCheck {a b : Nat} {x y : Bool} (hup : s.backUp = true) (hsnuff : s.place.snuff = [(a, x), (b, y)]) (hab : a < b)
    (hread : s.canUse 0x01 1 ([a, b].flatMap fun n => ((s.band n).channels.filter fun c => !(s.band n).failedAt 0 c).map fun c =>
      (0, n, c)) = true) (first second : Bool) :
    exec (.snuffBandCheck first second) s = .next ((s.checkSnuff a first).checkSnuff b second) := by
  show execSnuffBandCheck first second s = _
  unfold execSnuffBandCheck
  rw [hsnuff]
  have hsort : sortBy (fun (a b : Nat) => decide (a ≤ b)) ([(a, x), (b, y)].map Prod.fst) = [a, b] := by
    simp [sortBy, insertBy, Nat.le_of_lt hab]
  rw [hsort, if_neg]
  have hread' : s.canUse 0x01 1 ([(a, x), (b, y)].flatMap fun x =>
      ((s.band x.1).channels.filter fun c => !(s.band x.1).failedAt 0 c).map fun c => (0, x.1, c)) = true := hread
  rw [hup, hread']
  decide

end Pages

/-- Settles O29: a commit only marks moves and pieces, and the pages that follow it take codewords of the random group, whose close leaves
stated pieces stated. -/
theorem backgroundWork : Obligations.BackgroundWork := by
  unfold Obligations.BackgroundWork
  refine ⟨fun s hup => ⟨fun hroom => ?_, exec_journalTailCommit_waits⟩, fun s => ⟨?_, ?_, ?_, ?_, ?_, ?_⟩⟩
  · obtain ⟨x, hbase, hframe⟩ := commitTail_frame s
    refine ⟨_, x, exec_journalTailCommit hup hroom, hframe, hbase, fun v hv hkeep => ?_, fun v hv => ?_, commitTail_stated s⟩
    · rw [commitTail_moves]
      refine List.mem_map.mpr ⟨if v.noted then v else s.trimMove v, ?_, ?_⟩
      · exact List.mem_map.mpr ⟨v, List.mem_filter.mpr ⟨hv, by rw [hkeep]; rfl⟩, rfl⟩
      · rw [noted_or_entersTail]
    · rw [commitTail_moves] at hv
      obtain ⟨m, -, rfl⟩ := List.mem_map.mp hv
      exact entersTail_of_noted_false
  · intro band h hmain hphase hhead hseq hread
    exact ⟨_, exec_bandRelease hmain hphase hhead hseq hread, rfl, band_freeBand_phase s _, fun k hk => band_freeBand_ne s hk⟩
  · intro band hmain hphase hpool hdone hread
    refine ⟨_, exec_bandRelease_journal hmain hphase hpool hdone hread, rfl, band_freeBand_phase _ _, rfl, fun r => ?_⟩
    show r ∈ s.journal.recs.filter (fun r => decide (r.addr.toNat / 16777216 ≠ band.toNat)) ↔ _
    rw [List.mem_filter, decide_eq_true_eq]
  · intro stream hup hseal hdue hdirect hroom
    exact ⟨_, exec_piecePlacement hup hseal, placeHeld_unheld hdue hdirect hroom⟩
  · intro a es hup hlong hentries hpending hroom
    extract_lets page
    obtain ⟨l, u, hjournal, hruns, hjobs⟩ := pageJob_jobs
      (fun u => .run ⟨u.journal.nextSeq - 1, a.stream, s.runDepth a + 1, a :: es⟩ none) hroom
    have hpad := grouped_padGroup (s.pageJob fun u => .run ⟨u.journal.nextSeq - 1, a.stream, s.runDepth a + 1, a :: es⟩ none) .random 4
    refine ⟨_, l, exec_runPageWrite hup hlong hentries hpending, (keeps_runPage s _).frame, hpad.runs.trans hruns,
      hpad.pageJobs.trans (hjobs.trans ?_)⟩
    rw [hjournal]
  · intro ch band
    refine ⟨_, rfl, rfl, fun x => ?_⟩
    show x ∈ s.media.refresh.map _ ↔ _
    rw [List.mem_map]
    simp only [Bool.and_eq_true, decide_eq_true_eq]
    exact exists_congr fun y => and_congr_right fun _ => eq_comm
  · intro a b x y hup hsnuff hab hread first second
    refine ⟨_, exec_snuffBandCheck hup hsnuff hab hread first second, ?_⟩
    rw [checkSnuff_snuff, checkSnuff_snuff, hsnuff]
    simp [Nat.ne_of_lt hab, Nat.ne_of_gt hab]

end Sys2Proof.Machine

/-! # The Grist and the Cellar (R220 to R226), and anchor pairs (R129 to R133, R422) -/

namespace Sys2Proof.Machine
open Sys2Proof

/-! ### A miss (R221, R222, R225) -/

section Misses

variable {s : State} {page : BitVec 32} {p : Nat}

/-- A frame without dirty lines, by what the page's programs have seen. -/
theorem frameState_nil (s : State) (p : Nat) : s.frameState p [] = if s.pageStale p then .unflushed else .clean := rfl

theorem frameState_eq (s : State) (p : Nat) (lines : List Nat) :
    s.frameState p lines = if lines ≠ [] then .dirty else if s.pageStale p then .unflushed else .clean := by
  unfold State.frameState
  cases lines <;> rfl

/-- The frame that a miss allocates. -/
def State.missFrame (s : State) (p : Nat) : GFrame :=
  let new : GFrame := { st := .fetching, used := s.place.useClock + 1, lines := [], seqs := [] }
  if s.fromCellar p then new else s.filled p new

theorem missFrame_fields (s : State) (p : Nat) : (s.missFrame p).lines = [] ∧
    (s.missFrame p).st = if s.fromCellar p then .fetching else if s.pageStale p then .unflushed else .clean := by
  unfold State.missFrame
  dsimp only
  split
  · exact ⟨rfl, rfl⟩
  · exact ⟨rfl, frameState_nil s p⟩

theorem exec_gristMiss (hmain : s.clock.mainOn = true) (hgrist : s.stopped .grist = false) (hpage : s.pageOk page.toNat = true)
    (hframe : s.hasFrame page.toNat = false) (hread : s.canRead 3 (s.entryReads page.toNat) = true) (hroom : s.place.frames.length < 4096) :
    exec (.gristMiss page) s = .next (s.onPlace fun x => { x with
      frames := tset frameNone x.frames page.toNat (s.missFrame page.toNat), useClock := x.useClock + 1 }) := by
  show execGristMiss page s = _
  unfold execGristMiss State.gristMiss State.freeFrame
  dsimp only
  rw [hmain, hgrist, hpage, hframe, hread, if_neg (by decide), if_pos hroom]
  rfl

/-- With every frame in use, and none CLEAN or UNFLUSHED, a miss waits (R222). -/
theorem exec_gristMiss_waits (hfull : 4096 ≤ s.place.frames.length) (hclean : s.oldestFrame .clean = none)
    (hunflushed : s.oldestFrame .unflushed = none) : exec (.gristMiss page) s = .next s := by
  have hnone : s.gristMiss page.toNat = none := by
    unfold State.gristMiss State.freeFrame
    rw [if_neg (by omega), hclean]
    rfl
  have hroom : s.makeRoom = s := by
    unfold State.makeRoom
    rw [hunflushed]
    split <;> rfl
  show execGristMiss page s = _
  unfold execGristMiss
  dsimp only
  rw [hnone, hroom]
  split <;> rfl

end Misses

/-! ### A page from the Cellar (R224 to R226) -/

section Fetches

variable {s : State} {page : BitVec 32} {p : Nat} {bs : List Byte}

/-- The state in which the frame of page p has the page. -/
def State.arrived (s : State) (p : Nat) (f : GFrame) : State :=
  s.onPlace fun x => { x with frames := tset frameNone x.frames p (s.filled p f) }

theorem arrived_frame (s : State) (p : Nat) (f : GFrame) : tget frameNone (s.arrived p f).place.frames p = s.filled p f := tget_tset_same ..

/-- What comes of a page turns on the programs and the pages on flash alone. -/
theorem filled_congr {t : State} (f : GFrame) (hpages : t.place.mapPages = s.place.mapPages) (hdue : t.place.pagesDue = s.place.pagesDue)
    (hjobs : t.place.pageJobs = s.place.pageJobs) : t.filled p f = s.filled p f := by
  unfold State.filled State.frameState State.pageStale State.pageOnFlash
  rw [hpages, hdue, hjobs]

/-- The state in which the slot of page p is current no more, and that is counted (R225). -/
def State.slotLost (s : State) (p : Nat) : State :=
  (s.onPlace fun t => { t with cellCur := t.cellCur.filter fun q => q ≠ p }).count32 0x2A 1

theorem cellarFail_lost (s : State) (p : Nat) : s.cellarFail p false = s.slotLost p := rfl

/-- A tag failure is counted, and the sixteenth ends the Cellar's use (R225). -/
theorem cellarFail_tag (s : State) (p : Nat) : (s.cellarFail p true).health = (s.slotLost p).health ∧
    ∃ off, (off = true ↔ s.place.cellOff = true ∨ 16 ≤ s.place.cellFails + 1) ∧
      (s.cellarFail p true).place = { (s.slotLost p).place with cellFails := s.place.cellFails + 1, cellOff := off } := by
  unfold State.cellarFail
  simp only [Bool.not_true, Bool.false_eq_true, if_false]
  split
  · next h =>
    refine ⟨(keeps_raise (L := { link := true, host := true }) .cellarOff (Keeps.refl _ _) rfl rfl).healthF rfl, true, by simp [h.1], ?_⟩
    rw [(signalled_raise _ _).place]
    rfl
  · next h =>
    refine ⟨rfl, s.place.cellOff, ?_, rfl⟩
    cases hoff : s.place.cellOff <;> simp_all

theorem cellCur_slotLost (s : State) (p : Nat) : p ∉ (s.slotLost p).place.cellCur := fun h => by
  simpa using (List.mem_filter.mp h).2

theorem hget_slotLost (s : State) (p : Nat) : (s.slotLost p).hget 0x2A = min (s.hget 0x2A + 1) 0xFFFFFFFF := hget_count32_same ..

theorem exec_cellarPageFetched_failed (hmain : s.clock.mainOn = true) (hst : (tget frameNone s.place.frames page.toNat).st = .fetching) :
    exec (.cellarPageFetched page .failed) s =
      .next ((s.slotLost page.toNat).arrived page.toNat (tget frameNone s.place.frames page.toNat)) := by
  show execCellarPageFetched page .failed s = _
  unfold execCellarPageFetched
  dsimp only
  rw [if_neg (by simp [hmain, hst])]
  rfl

theorem exec_cellarPageFetched_down (hmain : s.clock.mainOn = true) (hst : (tget frameNone s.place.frames page.toNat).st = .fetching)
    (hlen : bs.length = 4096) (hport : s.portUp = false) :
    exec (.cellarPageFetched page (.ok bs)) s = exec (.cellarPageFetched page .failed) s := by
  rw [exec_cellarPageFetched_failed hmain hst]
  show execCellarPageFetched page (.ok bs) s = _
  unfold execCellarPageFetched
  dsimp only
  rw [if_neg (by simp [hmain, hst]), if_neg (by simp [hlen]), if_pos (by simp [hport])]
  rfl

theorem exec_cellarPageFetched_ok (hmain : s.clock.mainOn = true) (hst : (tget frameNone s.place.frames page.toNat).st = .fetching)
    (hlen : bs.length = 4096) (hport : s.portUp = true) :
    exec (.cellarPageFetched page (.ok bs)) s = .next ((if s.cellarOk page.toNat bs then s else s.cellarFail page.toNat true).arrived
      page.toNat (tget frameNone s.place.frames page.toNat)) := by
  show execCellarPageFetched page (.ok bs) s = _
  unfold execCellarPageFetched
  dsimp only
  rw [if_neg (by simp [hmain, hst]), if_neg (by simp [hlen]), if_neg (by simp [hport])]
  rfl

theorem cellarOk_iff : s.cellarOk p bs = true ↔ (bs.drop 8).take 8 = s.cellarTag p (bs.take 8) (bs.drop 16) := beq_iff_eq

end Fetches

/-- Settles O30: a frame of a page that has come depends only on the pages on flash and their programs, which a lost slot leaves alone. -/
theorem gristAndCellar : Obligations.GristAndCellar := by
  unfold Obligations.GristAndCellar
  intro s page hmain
  extract_lets p f arrived
  refine ⟨fun hgrist hpage hframe hread hroom => ?_, fun hfull hclean hunflushed => exec_gristMiss_waits hfull hclean hunflushed,
    fun hst => ?_⟩
  · obtain ⟨hlines, hstate⟩ := missFrame_fields s p
    refine ⟨_, exec_gristMiss hmain hgrist hpage hframe hread hroom, rfl, ?_, ?_, fun q hq => tget_tset_ne _ _ _ hq⟩
    · show (tget frameNone (tset frameNone s.place.frames p (s.missFrame p)) p).lines = []
      rw [tget_tset_same, hlines]
    · show (tget frameNone (tset frameNone s.place.frames p (s.missFrame p)) p).st = _
      rw [tget_tset_same, hstate]
  · refine ⟨⟨rfl, frameState_eq s p f.lines⟩, fun bs hlen htag hport => ?_, ?_, fun bs hlen hport => ?_, fun bs hlen htag hport => ?_⟩
    · have hgo := exec_cellarPageFetched_ok hmain hst hlen hport
      rw [if_pos (cellarOk_iff.mpr htag)] at hgo
      exact ⟨_, hgo, rfl, arrived_frame s p f, rfl⟩
    · refine ⟨_, exec_cellarPageFetched_failed hmain hst, cellCur_slotLost s p, hget_slotLost s p, ?_, rfl, rfl⟩
      exact (arrived_frame _ p f).trans (filled_congr f rfl rfl rfl)
    · exact exec_cellarPageFetched_down hmain hst hlen hport
    · have hgo := exec_cellarPageFetched_ok hmain hst hlen hport
      rw [if_neg (fun h => htag (cellarOk_iff.mp h))] at hgo
      obtain ⟨hhealth, off, hoff, hplace⟩ := cellarFail_tag s p
      refine ⟨_, hgo, ?_, ?_, (arrived_frame _ p f).trans (filled_congr f ?_ ?_ ?_), ?_, ?_⟩
      · show p ∉ (s.cellarFail p true).place.cellCur
        rw [hplace]
        exact cellCur_slotLost s p
      · refine Eq.trans ?_ (hget_slotLost s p)
        show tget 0 (s.cellarFail p true).health.words 0x2A = tget 0 (s.slotLost p).health.words 0x2A
        rw [hhealth]
      · rw [hplace]; rfl
      · rw [hplace]; rfl
      · rw [hplace]; rfl
      · show (s.cellarFail p true).place.cellFails = _
        rw [hplace]
      · show (s.cellarFail p true).place.cellOff = true ↔ _
        rw [hplace]
        exact hoff

/-! ### What WICK's own upkeep moves (R133, R411, R418, R420) -/

section Upkeep

/-- From w to u the queue and the intent alone may have changed. -/
def WickState.upkept (w u : WickState) : Prop := ∃ q i o, u = { w with queue := q, intent := i, intentOn := o }

theorem WickState.upkept.refl (w : WickState) : w.upkept w := ⟨w.queue, w.intent, w.intentOn, rfl⟩

theorem WickState.upkept.trans {w u x : WickState} (h : w.upkept u) (k : u.upkept x) : w.upkept x := by
  obtain ⟨q, i, o, rfl⟩ := h
  obtain ⟨q', i', o', rfl⟩ := k
  exact ⟨q', i', o', rfl⟩

theorem upkept_push (w : WickState) (who : WickFrom) (op sector : Nat) : w.upkept (w.push who op sector) := by
  unfold WickState.push
  split
  · exact .refl w
  · exact ⟨_, _, _, rfl⟩

theorem upkept_askErases (w : WickState) (xs : List Nat) : w.upkept (w.askErases xs) := by
  unfold WickState.askErases
  induction xs generalizing w with
  | nil => exact .refl w
  | cons x xs ih =>
    refine WickState.upkept.trans ?_ (ih _)
    dsimp only
    split
    · exact .refl w
    · exact upkept_push w _ _ _

theorem upkept_arm (w : WickState) : w.upkept w.arm := by
  have hdrop : w.upkept w.dropRotate := by
    unfold WickState.dropRotate
    split
    · exact ⟨_, _, _, rfl⟩
    · exact .refl w
  have hup : w.dropRotate.upkept w.dropRotate.upkeep := by
    unfold WickState.upkeep
    dsimp only
    split
    · exact (upkept_askErases _ _).trans (upkept_push _ _ _ _)
    · exact upkept_askErases _ _
  refine (hdrop.trans hup).trans ?_
  unfold WickState.arm
  dsimp only
  split
  · exact .refl _
  · split
    · exact ⟨_, _, _, rfl⟩
    · exact .refl _

end Upkeep

/-! ### Anchor pairs (R129 to R133, R422) -/

section Pairs

variable {s : State} {aged blank : Bool}

/-- The override of the anchor window only admits more (R55). -/
theorem mayIssue_beyond {kind : Nat} (beyond : Bool) (h : s.mayIssue kind false = true) : s.mayIssue kind beyond = true := by
  cases beyond with
  | false => exact h
  | true => rfl

/-- The state once the pair that names the newest checkpoint is programmed. -/
def State.pairProgrammed (s : State) : State :=
  (s.writePair (s.topGen + 1) false (s.journal.newestCp.getD 0) none).onJournal fun j =>
    { j with sinceHead := s.bytesAfter (s.journal.newestCp.getD 0) }

theorem programPair_running (hrun : s.running = true) : s.programPair = s.pairProgrammed := by
  unfold State.programPair
  have hdev : s.clock.dev = .ready ∨ s.clock.dev = .degraded := by simpa [State.running] using hrun
  rcases hdev with h | h <;> rw [h] <;> rfl

theorem exec_anchorPairWrite (hrun : s.running = true) (hup : s.wickUp = true) (htokens : 0 < s.wick.tokens)
    (hdue : s.pairDue aged = true) (hmay : s.mayIssue 6 false = true) :
    exec (.anchorPairWrite aged false 0 0 blank) s = .next (s.pairProgrammed.onWick fun w =>
      ({ w with tokens := w.tokens - 1, slotsOk := blank } : WickState).arm) := by
  show execAnchorPairWrite aged false 0 0 blank s = _
  unfold execAnchorPairWrite
  dsimp only
  rw [if_pos (by simp [hup, htokens, hdue, mayIssue_beyond _ hmay])]
  show Host.Outcome.next (s.programPair.onWick _) = _
  rw [programPair_running hrun]

theorem useSlots_eq (w : WickState) (copyB : Bool) (n : Nat) :
    ∃ used a b, w.useSlots copyB n = { w with usedP := used, slotA := a, slotBp := b } := by
  unfold WickState.useSlots
  cases copyB
  · exact ⟨_, _, w.slotBp, rfl⟩
  · exact ⟨_, w.slotA, _, rfl⟩

/-- The copy B of an anchor: alike but for its place (R130, R131). -/
def Anchor.copy (a : Anchor) (place : Nat) : Anchor := { a with copyB := true, place := place }

/-- A programmed pair adds its two anchors, and takes slots; tokens and queue stand (R131). -/
theorem writePair_eq (s : State) (gen head : Nat) : ∃ used a b, s.writePair gen false head none = s.onWick fun w => { w with
    usedP := used, slotA := a, slotBp := b, intentOn := w.intent.isSome, doneSec := none, pairAged := false
    anchors := s.composeAnchor gen false false head none ::
      (s.composeAnchor gen false false head none).copy (w.slotPlace true) :: w.anchors } := by
  obtain ⟨used, a, b, h⟩ := useSlots_eq s.wick false 1
  obtain ⟨used', a', b', h'⟩ := useSlots_eq { s.wick with usedP := used, slotA := a, slotBp := b } true 1
  refine ⟨used', a', b', ?_⟩
  unfold State.writePair State.onWick
  dsimp only
  rw [h, h']
  rfl

theorem exec_anchorPairWrite_none (waited : Bool) (a b : Nat) (htokens : s.wick.tokens = 0) :
    exec (.anchorPairWrite aged waited a b blank) s = .next (if aged then s.onWick fun w => { w with pairAged := true } else s) := by
  show execAnchorPairWrite aged waited a b blank s = _
  unfold execAnchorPairWrite
  dsimp only
  rw [if_neg (by simp [htokens])]

end Pairs

/-- Settles O31: the two anchors are composed alike; what WICK queues for itself afterwards moves neither anchors nor tokens. -/
theorem anchorPairs : Obligations.AnchorPairs := by
  unfold Obligations.AnchorPairs
  refine fun s => ⟨fun aged blank hrun hup htokens hdue hmay => ?_, fun waited a b blank htokens => ?_, fun hmain => if_pos hmain⟩
  · have hgo := exec_anchorPairWrite (blank := blank) hrun hup htokens hdue hmay
    unfold State.pairProgrammed at hgo
    obtain ⟨used, x, y, hpair⟩ := writePair_eq s (s.topGen + 1) (s.journal.newestCp.getD 0)
    rw [hpair] at hgo
    generalize hA : s.composeAnchor (s.topGen + 1) false false (s.journal.newestCp.getD 0) none = A at hgo
    obtain ⟨q, i, o, hw⟩ := upkept_arm { s.wick with
      usedP := used, slotA := x, slotBp := y, intentOn := s.wick.intent.isSome, doneSec := none, pairAged := false
      anchors := A :: A.copy (s.wick.slotPlace true) :: s.wick.anchors, tokens := s.wick.tokens - 1, slotsOk := blank }
    have hwick := congrArg (fun w => Host.Outcome.next (φ := Fault) (ρ := Refusal) { s with
      wick := w, journal := { s.journal with sinceHead := s.bytesAfter (s.journal.newestCp.getD 0) } }) hw
    refine ⟨_, A, s.wick.slotPlace true, hgo.trans hwick, rfl, ?_, rfl, ?_, ?_, ?_, ?_, ?_, rfl, ?_, rfl⟩
    all_goals
      subst hA
      rfl
  · exact ⟨exec_anchorPairWrite_none waited a b htokens, exec_anchorPairWrite_none waited a b htokens⟩

end Sys2Proof.Machine

/-! # Discovery, training and retraining of the flash channels (R157 to R162) -/

namespace Sys2Proof.Machine
open Sys2Proof

/-! ### Channels -/

section Channels

variable {s : State} {n : Nat}

theorem chan_modChan_same (s : State) (n : Nat) (f : Channel → Channel) : (s.modChan n f).chan n = f (s.chan n) := tget_tset_same ..

theorem chan_modChan_ne (s : State) {n k : Nat} (f : Channel → Channel) (h : k ≠ n) : (s.modChan n f).chan k = s.chan k :=
  tget_tset_ne _ _ _ h

/-- A change of the first k channels, one after the other. -/
theorem chan_foldl_modChan (f : Nat → Channel → Channel) (s : State) (k n : Nat) :
    ((List.range k).foldl (fun t ch => t.modChan ch (f ch)) s).chan n = if n < k then f n (s.chan n) else s.chan n := by
  induction k with
  | zero => rfl
  | succ k ih =>
    rw [List.range_succ, List.foldl_append, List.foldl_cons, List.foldl_nil]
    by_cases h : n = k
    · subst h
      rw [chan_modChan_same, ih, if_neg (Nat.lt_irrefl _), if_pos (Nat.lt_succ_self _)]
    · rw [chan_modChan_ne _ _ h, ih]
      exact ite_congr (propext (by omega)) (fun _ => rfl) fun _ => rfl

end Channels

/-! ### Discovery (R157, R158, R161) -/

section Discovery

variable {s : State} {d : DiscoveryIn}

/-- The state in which every channel has left OFF (R157 step 1). -/
def State.discovering (s : State) : State := (List.range 32).foldl (fun t ch => t.modChan ch Channel.discover) s

theorem chan_discovering (s : State) (n : Nat) : s.discovering.chan n = if n < 32 then (s.chan n).discover else s.chan n :=
  chan_foldl_modChan (fun _ => Channel.discover) s 32 n

theorem discover_defects (c : Channel) : c.discover.retired = c.retired ∧ c.discover.retDies = c.retDies := by
  unfold Channel.discover
  split <;> exact ⟨rfl, rfl⟩

/-- The grown-defect list stands, and so do the dies that discovery operates. -/
theorem operated_discovering (s : State) (d : DiscoveryIn) : s.discovering.operated d = s.operated d := by
  have hdefects : ∀ n, (s.discovering.chan n).retired = (s.chan n).retired ∧ (s.discovering.chan n).retDies = (s.chan n).retDies :=
    fun n => by
      rw [chan_discovering]
      split
      · exact discover_defects _
      · exact ⟨rfl, rfl⟩
  unfold State.operated
  simp only [(hdefects _).1, (hdefects _).2]

/-- The state of a channel once its dies are identified. -/
theorem identified_st (c : Channel) (table : List Profile) (mag : Option Profile) (found : List FoundDie) (ch now draw : Nat) :
    (c.discover.identified table mag found ch now draw).st =
      if c.retired then .failed else if found.any (fun f => f.channel.toNat = ch) then .train else .absent := by
  unfold Channel.discover
  split
  · rfl
  · unfold Channel.identified
    rw [if_neg (fun h => h rfl)]
    cases found.any fun f => f.channel.toNat = ch <;> rfl

/-- The state once the dies are identified and profiled, and the channels with them (R157 steps 5 and 6). -/
def State.identifying (s : State) (d : DiscoveryIn) : State :=
  (List.range 32).foldl (fun t ch => t.modChan ch fun c =>
      c.identified d.table (magProfile d.table (s.discovering.operated d)) (s.discovering.operated d) ch s.nowS s.draws)
    (s.discovering.onMedia fun m => { m with profile := magProfile d.table (s.discovering.operated d) })

/-- What discovery leaves, with no training reported with it. -/
def State.found (s : State) (d : DiscoveryIn) : State :=
  (({ s.identifying d with draws := s.draws + 1 } : State).countGood).onLink fun l => { l with rawCode := d.rawGB10 }

theorem found_media (s : State) (d : DiscoveryIn) : (s.found d).media = (s.identifying d).media := rfl

theorem exec_mediaDiscovery (hup : s.mediaUp = true) (hoff : ∀ x ∈ s.media.chans, x.2.st = .off) (hpasses : d.passes = []) :
    exec (.mediaDiscovery d) s = .next (s.found d) := by
  have hnone : (s.media.chans.any fun x => x.2.st ≠ .off) = false := by
    simpa using fun a c hx => hoff (a, c) hx
  show execMediaDiscovery d s = _
  unfold execMediaDiscovery
  rw [hup, hnone, if_neg (by decide), hpasses]
  rfl

theorem found_profile (s : State) (d : DiscoveryIn) : (s.found d).media.profile = magProfile d.table (s.operated d) := by
  have hfold : ∀ (l : List Nat) (f : Nat → Channel → Channel) (t : State),
      (l.foldl (fun t ch => t.modChan ch (f ch)) t).media.profile = t.media.profile := fun l f => by
    induction l with
    | nil => exact fun _ => rfl
    | cons x l ih => exact fun t => ih _
  rw [found_media, State.identifying, hfold, operated_discovering]
  rfl

theorem found_st (s : State) (d : DiscoveryIn) {n : Nat} (h : n < 32) : ((s.found d).chan n).st =
    if (s.chan n).retired then .failed else if (s.operated d).any (fun f => f.channel.toNat = n) then .train else .absent := by
  have hchan : (s.found d).chan n = (s.identifying d).chan n := by unfold State.chan; rw [found_media]
  have hprofiled : ∀ (t : State) (p : Option Profile), (t.onMedia fun m => { m with profile := p }).chan n = t.chan n := fun _ _ => rfl
  rw [hchan, State.identifying, chan_foldl_modChan (fun ch c => c.identified _ _ _ ch _ _), if_pos h, hprofiled, chan_discovering,
    if_pos h, identified_st, operated_discovering]

end Discovery

/-! ### Training (R157 step 7, R161) -/

section Training

variable {s : State} {n : Nat} {pass : BitVec 4}

/-- Training ends at the highest rate that passes. -/
theorem trainedRate_eq {top r : Nat} (hr : 1 ≤ r) (hle : r ≤ min top 4) (hpass : pass.getLsbD (r - 1) = true)
    (hmax : ∀ k, r < k → k ≤ min top 4 → pass.getLsbD (k - 1) = false) : trainedRate top pass = r := by
  unfold trainedRate
  have hfind : (List.range' 1 (min top 4)).reverse.find? (fun r => pass.getLsbD (r - 1)) = some r := by
    have hsplit : List.range' 1 (min top 4) = List.range' 1 (r - 1) ++ r :: List.range' (r + 1) (min top 4 - r) := by
      have hcons : r :: List.range' (r + 1) (min top 4 - r) = List.range' r (min top 4 - r + 1) := rfl
      rw [hcons, show List.range' r (min top 4 - r + 1) = List.range' (1 + 1 * (r - 1)) (min top 4 - r + 1) by congr 1; omega,
        List.range'_append]
      congr 1
      omega
    rw [hsplit, List.reverse_append, List.reverse_cons, List.append_assoc, List.find?_append]
    have hnone : (List.range' (r + 1) (min top 4 - r)).reverse.find? (fun r => pass.getLsbD (r - 1)) = none := by
      refine List.find?_eq_none.mpr fun k hk => ?_
      obtain ⟨hlo, hhi⟩ := List.mem_range'_1.mp (List.mem_reverse.mp hk)
      exact ne_true_of_eq_false (hmax k (by omega) (by omega))
    rw [hnone, Option.none_or]
    exact List.find?_cons_of_pos hpass
  rw [hfind]
  rfl

theorem trainedRate_none {top : Nat} (h : ∀ k, 1 ≤ k → k ≤ min top 4 → pass.getLsbD (k - 1) = false) : trainedRate top pass = 0 := by
  unfold trainedRate
  rw [List.find?_eq_none.mpr fun k hk => ?_]
  · rfl
  · obtain ⟨hlo, hhi⟩ := List.mem_range'_1.mp (List.mem_reverse.mp hk)
    exact ne_true_of_eq_false (h k hlo (by omega))

theorem exec_channelTraining {ch : BitVec 5} (hup : s.mediaUp = true) :
    exec (.channelTraining ch pass) s = .next (s.endTraining ch.toNat pass) := if_pos hup

theorem endTraining_passed {r : Nat} (htrain : (s.chan n).st = .train) (hr : 1 ≤ r)
    (h : trainedRate ((s.media.profile.map Profile.topRate).getD 0) pass = r) :
    s.endTraining n pass = s.modChan n fun c => { c.go .active with rate := r, trainTemp := s.power.temp } := by
  unfold State.endTraining
  rw [if_neg (fun hne => hne htrain), h]
  exact if_neg (by omega)

theorem endTraining_failed (htrain : (s.chan n).st = .train)
    (h : trainedRate ((s.media.profile.map Profile.topRate).getD 0) pass = 0) : s.endTraining n pass = s.failChannel n := by
  unfold State.endTraining
  rw [if_neg (fun hne => hne htrain), h]
  rfl

theorem assertError_chan (s : State) (c : Cause) (d : BitVec 56) (n : Nat) : (s.assertError c d).chan n = s.chan n := by
  unfold State.chan
  rw [(keeps_assertError (L := { fault := true }) c d (Keeps.refl _ s) rfl).mediaF rfl]

/-- A failed channel is in the grown-defect list, with WP# low (R155, R161). -/
theorem failChannel_chan (h : (s.chan n).st ≠ .failed) :
    ((s.failChannel n).chan n).st = .failed ∧ ((s.failChannel n).chan n).wp = false ∧ ((s.failChannel n).chan n).retired = true := by
  unfold State.failChannel
  dsimp only
  rw [if_neg h, assertError_chan]
  have hchan : ∀ (t : State) (f : MediaState → MediaState), (f t.media).chans = t.media.chans →
      ((t.onMedia f).countGood.retiredWord).chan n = t.chan n := fun t f hf => congrArg (fun m => tget Channel.none m n) hf
  have hset : ∀ c, (s.setChan n c).chan n = c := fun c => tget_tset_same ..
  rw [hchan _ _ rfl, hset]
  exact ⟨rfl, rfl, rfl⟩

end Training

/-! ### Retraining and calibration (R161, R162) -/

section Retraining

variable {s : State} {ch : BitVec 5}

theorem exec_retrainCheck_failed (hup : s.mediaUp = true) (hst : (s.chan ch.toNat).st = .active) :
    ∃ t, exec (.retrainCheck ch false) s = .next t ∧ (t.chan ch.toNat).st = .quiesced ∧ (t.chan ch.toNat).trainFails = 0 := by
  have hgo : s.busCheck ch.toNat = (s.modChan ch.toNat fun c => { c.go .quiesced with trainFails := 0 }).assertError
      .mediaBusCheck (detail [(5, ch.toNat)]) := if_pos hst
  refine ⟨s.busCheck ch.toNat, if_pos (by rw [hup]; rfl), ?_⟩
  rw [hgo, assertError_chan, chan_modChan_same]
  exact ⟨rfl, rfl⟩

theorem exec_retrainCheck_passed : exec (.retrainCheck ch true) s = .next s := if_neg (by simp)

theorem exec_zqCalibrationShort (hup : s.mediaUp = true) (hst : (s.chan ch.toNat).st = .active) :
    exec (.zqCalibrationShort ch) s = .next (s.modChan ch.toNat fun c => { c with zqAt := s.nowS }) :=
  if_pos (by rw [hup, hst]; rfl)

theorem exec_zqCalibrationShort_off (hst : (s.chan ch.toNat).st ≠ .active) : exec (.zqCalibrationShort ch) s = .next s :=
  if_neg (by simp [hst])

theorem exec_tempRetrain {elapsed : Nat} (hup : s.mediaUp = true) (hst : (s.chan ch.toNat).st = .active)
    (hdue : 15 ≤ (s.power.temp - (s.chan ch.toNat).trainTemp).natAbs ∨ 600 ≤ elapsed) :
    exec (.tempRetrain ch elapsed) s = .next (s.modChan ch.toNat fun x => { x with trainTemp := s.power.temp }) :=
  if_pos (by simpa [hup, hst] using hdue)

theorem exec_channelRetrain {pass : Bool} (hup : s.mediaUp = true) (hst : (s.chan ch.toNat).st = .quiesced)
    (hidle : ∀ e ∈ (s.chan ch.toNat).queue, e.phase ≠ .started) : exec (.channelRetrain ch pass) s = .next (
      if pass then s.modChan ch.toNat fun x => { x.go .active with trainFails := 0, trainTemp := s.power.temp }
      else if (s.chan ch.toNat).trainFails = 0 then s.modChan ch.toNat fun x => { x with trainFails := 1 }
      else s.failChannel ch.toNat) := by
  show execChannelRetrain ch pass s = _
  unfold execChannelRetrain
  dsimp only
  rw [if_neg (by simpa [hup, hst] using hidle)]
  split
  · rfl
  · split <;> rfl

end Retraining

/-- Settles O32: a channel's state after each command is read off the entry that the command writes. -/
theorem channelsTrain : Obligations.ChannelsTrain := by
  unfold Obligations.ChannelsTrain
  intro s ch hinv hup
  extract_lets n c top
  refine ⟨fun d hoff hpasses => ?_, fun pass r htrain hr hle hpass hmax => ?_, fun pass htrain hnone => ?_,
    exec_retrainCheck_failed hup, exec_retrainCheck_passed, fun hst => ?_, exec_zqCalibrationShort_off, fun elapsed hst hdue => ?_,
    fun hst hidle => ⟨?_, ?_⟩⟩
  · refine ⟨_, exec_mediaDiscovery hup hoff hpasses, found_profile s d, rfl, (found_st s d ch.isLt).trans ?_⟩
    have hsame : ((s.operated d).any fun f => f.channel.toNat = n) = (s.operated d).any fun f => f.channel = ch :=
      congrArg _ (funext fun f => decide_eq_decide.mpr BitVec.toNat_inj)
    rw [hsame]
  · have hgo := exec_channelTraining (ch := ch) (pass := pass) hup
    rw [endTraining_passed htrain hr (trainedRate_eq hr hle hpass hmax)] at hgo
    refine ⟨_, hgo, ?_⟩
    rw [chan_modChan_same]
    exact ⟨rfl, rfl, rfl, rfl⟩
  · have hgo := exec_channelTraining (ch := ch) (pass := pass) hup
    rw [endTraining_failed htrain (trainedRate_none hnone)] at hgo
    refine ⟨_, hgo, failChannel_chan (fun h => ?_)⟩
    rw [htrain] at h
    cases h
  · exact ⟨_, exec_zqCalibrationShort hup hst, rfl, chan_modChan_same .., fun k hk => chan_modChan_ne s _ hk⟩
  · exact ⟨_, exec_tempRetrain hup hst hdue, rfl, chan_modChan_same .., fun k hk => chan_modChan_ne s _ hk⟩
  · refine ⟨_, exec_channelRetrain hup hst hidle, ?_⟩
    rw [if_pos rfl, chan_modChan_same]
    exact ⟨rfl, rfl⟩
  · refine ⟨_, exec_channelRetrain hup hst hidle, ?_⟩
    rw [if_neg Bool.false_ne_true]
    by_cases h : c.trainFails = 0
    · rw [if_pos h, if_pos h, chan_modChan_same]
      exact ⟨hst, fun _ => rfl⟩
    · rw [if_neg h, if_neg h]
      refine ⟨(failChannel_chan fun hf => ?_).1, fun hz => absurd hz h⟩
      rw [hst] at hf
      cases hf

end Sys2Proof.Machine

/-! # The life of a media descriptor (R164 to R168, R175, R188, R190, R195) -/

namespace Sys2Proof.Machine
open Sys2Proof

/-! ### Entries of a queue -/

section Entries

variable {s : State} {c : Channel} {n slot : Nat} {e : QEntry}

/-- A change of every entry that keeps their slots shows at a slot as the changed entry. -/
theorem find_slot_map {f : QEntry → QEntry} (hf : ∀ y, (f y).slot = y.slot) (q : List QEntry) :
    (q.map f).find? (fun e => decide (e.slot = slot)) = (q.find? fun e => decide (e.slot = slot)).map f := by
  rw [List.find?_map]
  have hsame : ((fun e => decide (e.slot = slot)) ∘ f) = fun e => decide (e.slot = slot) := funext fun y => by simp [hf y]
  rw [hsame]

theorem entry_slot (h : c.entry slot = some e) : e.slot = slot :=
  of_decide_eq_true (List.find?_some (p := fun e : QEntry => decide (e.slot = slot)) (l := c.queue) h)

theorem entry_modEntry {f : QEntry → QEntry} (hf : ∀ y, (f y).slot = y.slot) (h : c.entry slot = some e) :
    (c.modEntry slot f).entry slot = some (f e) := by
  have hmap := find_slot_map (slot := slot) (f := fun y => if y.slot = slot then f y else y)
    (fun y => by split <;> simp [hf]) c.queue
  have hgo : (c.modEntry slot f).entry slot = (c.entry slot).map fun y => if y.slot = slot then f y else y := hmap
  rw [hgo, h, Option.map_some, if_pos (entry_slot h)]

theorem entry_mem (h : c.entry slot = some e) : e ∈ c.queue := List.mem_of_find?_eq_some h

/-- An entry of a channel's queue stands in the table. -/
theorem mem_chans_of_entry (he : e ∈ (s.chan n).queue) : (n, s.chan n) ∈ s.media.chans := by
  refine mem_of_tget_ne fun hnone => ?_
  have hchan : s.chan n = Channel.none := hnone
  rw [hchan] at he
  exact absurd he List.not_mem_nil

end Entries

/-! ### A queue at rest: no completion waits, and no erase is suspended -/

section Rest

variable {s t : State} {n : Nat}

def State.atRest (s : State) : Prop := ∀ x ∈ s.media.chans, ∀ e ∈ x.2.queue, e.comp = none ∧ e.held = false

theorem foldl_of_fixed {α β : Type} {f : β → α → β} {b : β} {l : List α} (h : ∀ x ∈ l, f b x = b) : l.foldl f b = b := by
  induction l with
  | nil => rfl
  | cons x l ih =>
    obtain ⟨hx, hl⟩ := List.forall_mem_cons.mp h
    rw [List.foldl_cons, hx, ih hl]

theorem takeAll_atRest (h : s.atRest) : s.takeAll = s := by
  refine foldl_of_fixed fun x _ => ?_
  have hnone : ((s.chan x.1).queue.filter fun e => e.comp.isSome && s.takerRuns e.d) = [] :=
    List.filter_eq_nil_iff.mpr fun e he => by simp [(h _ (mem_chans_of_entry he) e he).1]
  unfold State.takeDone
  dsimp only
  rw [hnone]
  rfl

theorem resumeErases_atRest (h : ∀ x ∈ s.media.chans, ∀ e ∈ x.2.queue, e.held = false) : s.resumeErases = s :=
  foldl_of_fixed fun x hx => foldl_of_fixed fun e he => if_neg (ne_true_of_eq_false (h x hx e he))

/-- What stands in a table after a write stood there before, or is written. -/
theorem mem_of_mem_tset {α : Type} [DecidableEq α] {d : α} {m : Sparse α} {a : Nat} {v : α} {x : Nat × α} (h : x ∈ tset d m a v) :
    x = (a, v) ∨ x ∈ m := by
  unfold tset at h
  split at h
  · exact Or.inr (List.mem_filter.mp h).1
  · exact (mem_tins _ _ _ _ h).imp_right fun h => (List.mem_filter.mp h).1

/-- No erase is suspended. -/
def State.noneHeld (s : State) : Prop := ∀ x ∈ s.media.chans, ∀ e ∈ x.2.queue, e.held = false

theorem noneHeld_setChan {c : Channel} (h : s.noneHeld) (hc : ∀ e ∈ c.queue, e.held = false) : (s.setChan n c).noneHeld := fun x hx => by
  rcases mem_of_mem_tset hx with rfl | hx
  · exact hc
  · exact h x hx

theorem noneHeld_chan (h : s.noneHeld) (n : Nat) : ∀ e ∈ (s.chan n).queue, e.held = false := fun e he => h _ (mem_chans_of_entry he) e he

theorem noneHeld_enter (h : s.noneHeld) (ch : Nat) (d : MDesc) : (s.enter ch d).noneHeld := by
  unfold State.enter
  split
  · exact noneHeld_setChan h (noneHeld_chan h ch)
  · next i _ =>
    have hentry := noneHeld_setChan (n := ch) (c := { s.chan ch with queue := (s.chan ch).queue ++ [newEntry i d s.media.orderNext] }) h
      fun e he => (List.mem_append.mp he).elim (noneHeld_chan h ch e) fun he => by rw [List.mem_singleton.mp he]; rfl
    exact hentry

theorem noneHeld_submit (h : s.noneHeld) (ch : Nat) (d : MDesc) : (s.submit ch d).noneHeld := by
  have hfold : ∀ (l : List MDesc) (t : State), t.noneHeld → (l.foldl (fun t d => t.enter ch d) t).noneHeld := fun l => by
    induction l with
    | nil => exact fun _ ht => ht
    | cons x l ih => exact fun t ht => ih _ (noneHeld_enter ht ch x)
  have hwaits := noneHeld_setChan (n := ch) (c := { s.chan ch with waits := (s.chan ch).waits ++ [d] }) h (noneHeld_chan h ch)
  exact hfold _ _ (noneHeld_setChan hwaits (noneHeld_chan hwaits ch))

end Rest

/-! ### Submission (R164) -/

section Submission

variable {s : State} {n slot : Nat} {d : MDesc} {x : QEntry}

theorem enter_free {i : Nat} (h : (s.chan n).freeSlot (snuffDesc d) = some i) :
    ((s.enter n d).chan n) = { s.chan n with queue := (s.chan n).queue ++ [newEntry i d s.media.orderNext] } := by
  unfold State.enter
  rw [h]
  exact chan_modChan_same s n fun c => { c with queue := c.queue ++ [newEntry i d s.media.orderNext] }

theorem enter_full (h : (s.chan n).freeSlot (snuffDesc d) = none) :
    ((s.enter n d).chan n) = { s.chan n with waits := (s.chan n).waits ++ [d] } := by
  unfold State.enter
  rw [h]
  exact chan_modChan_same s n _

/-- The channel with no submitter waiting: what the submitters that waited enter. -/
def State.unwaited (s : State) (n : Nat) (d : MDesc) : State :=
  (s.modChan n fun c => { c with waits := c.waits ++ [d] }).modChan n fun c => { c with waits := [] }

theorem unwaited_chan (s : State) (n : Nat) (d : MDesc) : (s.unwaited n d).chan n = { s.chan n with waits := [] } := by
  unfold State.unwaited
  rw [chan_modChan_same, chan_modChan_same]

theorem submit_chan (s : State) (n k : Nat) (d : MDesc) :
    (s.submit n d).chan k = (((s.chan n).waits ++ [d]).foldl (fun t d => t.enter n d) (s.unwaited n d)).chan k := by
  have hwaits : ((s.modChan n fun c => { c with waits := c.waits ++ [d] }).chan n).waits = (s.chan n).waits ++ [d] := by
    rw [chan_modChan_same]
  unfold State.submit State.letIn State.unwaited
  rw [hwaits]
  rfl

/-- With no submitter waiting, a descriptor takes the lowest free entry. -/
theorem submit_free {i : Nat} (hwaits : (s.chan n).waits = []) (h : (s.chan n).freeSlot (snuffDesc d) = some i) :
    (s.submit n d).chan n = { s.chan n with queue := (s.chan n).queue ++ [newEntry i d s.media.orderNext], waits := [] } := by
  have hfree : ((s.unwaited n d).chan n).freeSlot (snuffDesc d) = some i := by rw [unwaited_chan]; exact h
  rw [submit_chan, hwaits, List.nil_append, List.foldl_cons, List.foldl_nil, enter_free hfree, unwaited_chan]
  rfl

theorem submit_full (hwaits : (s.chan n).waits = []) (h : (s.chan n).freeSlot (snuffDesc d) = none) :
    (s.submit n d).chan n = { s.chan n with waits := [d] } := by
  have hfree : ((s.unwaited n d).chan n).freeSlot (snuffDesc d) = none := by rw [unwaited_chan]; exact h
  rw [submit_chan, hwaits, List.nil_append, List.foldl_cons, List.foldl_nil, enter_full hfree, unwaited_chan]
  rfl

/-- An entry stays at its slot while others join. -/
theorem entry_enter (h : (s.chan n).entry slot = some x) (d : MDesc) : ((s.enter n d).chan n).entry slot = some x := by
  cases hi : (s.chan n).freeSlot (snuffDesc d) with
  | none =>
    rw [enter_full hi]
    exact h
  | some i =>
    rw [enter_free hi]
    show ((s.chan n).queue ++ _).find? _ = _
    rw [List.find?_append, show (s.chan n).queue.find? (fun e => decide (e.slot = slot)) = some x from h]
    rfl

/-- A descriptor that enters is queued, or its submitter waits. -/
theorem enter_has (s : State) (n : Nat) (d : MDesc) :
    (∃ y ∈ ((s.enter n d).chan n).queue, y.d = d ∧ y.phase = .queued) ∨ d ∈ ((s.enter n d).chan n).waits := by
  cases hi : (s.chan n).freeSlot (snuffDesc d) with
  | none =>
    rw [enter_full hi]
    exact Or.inr (List.mem_append_right _ List.mem_cons_self)
  | some i =>
    rw [enter_free hi]
    exact Or.inl ⟨_, List.mem_append_right _ List.mem_cons_self, rfl, rfl⟩

theorem submit_has (s : State) (n : Nat) (d : MDesc) :
    (∃ y ∈ ((s.submit n d).chan n).queue, y.d = d ∧ y.phase = .queued) ∨ d ∈ ((s.submit n d).chan n).waits := by
  rw [submit_chan, List.foldl_append]
  exact enter_has _ n d

theorem entry_submit (h : (s.chan n).entry slot = some x) (d : MDesc) : ((s.submit n d).chan n).entry slot = some x := by
  have hfold : ∀ (l : List MDesc) (t : State), (t.chan n).entry slot = some x →
      ((l.foldl (fun t d => t.enter n d) t).chan n).entry slot = some x := fun l => by
    induction l with
    | nil => exact fun _ ht => ht
    | cons y l ih => exact fun t ht => ih _ (entry_enter ht y)
  rw [submit_chan]
  refine hfold _ _ ?_
  rw [unwaited_chan]
  exact h

end Submission

/-! ### Starting (R166, R167, R188, R195) -/

section Starting

variable {s : State} {ch : BitVec 5} {slot : BitVec 8} {e : QEntry}

theorem exec_descriptorStart {subs : List MDesc} {ecc : Bool} (hup : s.mediaUp = true) (hon : (s.chan ch.toNat).st ≠ .off) (hrest : s.atRest) :
    exec (.descriptorStart ch subs slot ecc) s = .next (
      let s1 := ((subs.filter maySubmit).foldl (fun t d => t.submit ch.toNat d) s).resumeErases
      if ecc then s1.queueEcc ch.toNat slot.toNat else s1.startDesc ch.toNat slot.toNat) := by
  show execDescriptorStart ch subs slot ecc s = _
  unfold execDescriptorStart
  dsimp only
  rw [hup, if_neg (by simp [hon]), takeAll_atRest hrest]
  split <;> rfl

/-- One descriptor is submitted, and the slot that is to start is empty. -/
theorem exec_descriptorStart_submit {d : MDesc} (hup : s.mediaUp = true) (hon : (s.chan ch.toNat).st ≠ .off) (hrest : s.atRest)
    (hmay : maySubmit d = true) (hempty : ((s.submit ch.toNat d).chan ch.toNat).entry slot.toNat = none) :
    exec (.descriptorStart ch [d] slot false) s = .next (s.submit ch.toNat d) := by
  have hheld : s.noneHeld := fun x hx e he => (hrest x hx e he).2
  rw [exec_descriptorStart hup hon hrest, List.filter_cons_of_pos hmay, List.filter_nil, List.foldl_cons, List.foldl_nil,
    resumeErases_atRest (noneHeld_submit hheld _ d)]
  show Host.Outcome.next ((s.submit ch.toNat d).startDesc ch.toNat slot.toNat) = _
  unfold State.startDesc
  dsimp only
  rw [hempty]
  cases (s.submit ch.toNat d).media.profile <;> rfl

theorem exec_descriptorStart_none {ecc : Bool} (hup : s.mediaUp = true) (hon : (s.chan ch.toNat).st ≠ .off) (hrest : s.atRest) :
    exec (.descriptorStart ch [] slot ecc) s =
      .next (if ecc then s.queueEcc ch.toNat slot.toNat else s.startDesc ch.toNat slot.toNat) := by
  rw [exec_descriptorStart hup hon hrest]
  show Host.Outcome.next (if ecc then s.resumeErases.queueEcc _ _ else s.resumeErases.startDesc _ _) = _
  rw [resumeErases_atRest fun x hx e he => (hrest x hx e he).2]

theorem submit_frame (s : State) (n : Nat) (d : MDesc) : s.submit n d = { s with media := (s.submit n d).media } :=
  (keeps_submit (L := { media := true }) n d (Keeps.refl _ s) rfl).frame

theorem startDesc_frame (s : State) (n slot : Nat) : s.startDesc n slot = { s with media := (s.startDesc n slot).media } :=
  (keeps_startDesc (L := { media := true }) n slot (Keeps.refl _ s) rfl).frame

/-- The entry that starts: at its slot it runs. -/
theorem started_entry (c : Channel) (ch : Nat) {slot : Nat} (h : c.entry slot = some e) : ∃ x, (s.started c ch e).entry slot = some x ∧
    x.phase = .started ∧ x.d = e.d ∧ x.status = e.status := by
  unfold State.started
  dsimp only
  refine ⟨_, (find_slot_map (fun y => ?_) _).trans (congrArg _ h), ?_⟩
  · split
    · rfl
    · split <;> rfl
  · dsimp only
    rw [if_pos rfl]
    exact ⟨rfl, rfl, rfl⟩

theorem startDesc_starts {p : Profile} {n slot : Nat} (hp : s.media.profile = some p) (he : (s.chan n).entry slot = some e)
    (hvalid : descValid p (s.dieAt n e.d.die.toNat) e.d = true) (hbarred : (s.chan n).barred e = false)
    (hread : e.isRead = true ∨ ((s.chan n).st ≠ .failed ∧ tget DieCode.absent (s.chan n).dies e.d.die.toNat ≠ .retired))
    (hmay : s.mayStart p n e = true) (hnext : s.isNext p e = true) :
    s.startDesc n slot = s.setChan n (s.started (s.chan n) n e) := by
  have hphase : e.phase = .queued := by
    simp only [State.mayStart, Bool.and_eq_true, decide_eq_true_eq] at hmay
    exact hmay.1.1.1.1
  have hfailed : ((s.chan n).st = .failed && !e.isRead) = false := by
    rcases hread with h | h
    · simp [h]
    · simp [h.1]
  have hretired : (tget DieCode.absent (s.chan n).dies e.d.die.toNat = .retired && !e.isRead) = false := by
    rcases hread with h | h
    · simp [h]
    · simp [h.2]
  unfold State.startDesc
  dsimp only
  rw [hp, he]
  dsimp only
  rw [if_neg (fun h => h hphase), hfailed, hvalid, hbarred, hretired, hmay, hnext]
  rfl

theorem queueEcc_eq {n slot : Nat} (he : (s.chan n).entry slot = some e) : s.queueEcc n slot =
    ((s.modChan n fun c => c.modEntry slot fun e => e.end .aborted).submit n e.d).assertError .mediaQueueEcc
      (detail [(5, n), (8, slot)]) := by
  unfold State.queueEcc
  rw [he]

theorem queueEcc_entry {n slot : Nat} (he : (s.chan n).entry slot = some e) : ∃ x, ((s.queueEcc n slot).chan n).entry slot = some x ∧
    x.status = some 0x17 ∧ ((∃ y ∈ ((s.queueEcc n slot).chan n).queue, y.d = e.d ∧ y.phase = .queued) ∨
      e.d ∈ ((s.queueEcc n slot).chan n).waits) := by
  rw [queueEcc_eq he, assertError_chan]
  refine ⟨e.end .aborted, entry_submit ?_ e.d, rfl, submit_has _ n e.d⟩
  rw [chan_modChan_same]
  exact entry_modEntry (fun _ => rfl) he

end Starting

/-! ### What the end of a descriptor does to queues and defect lists (R174 to R178, R190 to R192) -/

section Endings

variable {s : State}

theorem queued_assertError (s : State) (c : Cause) (d : BitVec 56) : s.Queued (s.assertError c d) := by
  rw [assertError_eq]
  split
  · exact .refl s
  · refine ⟨fun n e he _ => ⟨e, he, rfl, rfl⟩, fun n b hb => hb, fun n slot x hx hp => ⟨x, hx, hp, rfl⟩, fun v => ?_⟩
    have hrestart : ∀ w : Report, ((s.modUnit (causeUnit c) fun r => r.hold w).unit v).restart = (s.unit v).restart := fun w => by
      by_cases hv : v = causeUnit c
      · rw [hv, modUnit_unit_same]
        unfold UnitFault.hold
        split <;> rfl
      · rw [State.modUnit, setUnit_unit_ne _ _ _ hv]
    exact congrArg (· || !s.clocked v) (hrestart _)

/-- A change of entries that the queue's bookkeeping allows: it keeps slot, descriptor and completion, and the status of a descriptor that has
started. -/
structure QEntry.KeptBy (f : QEntry → QEntry) (e : QEntry) : Prop where
  comp : (f e).comp = e.comp
  d : (f e).d = e.d
  slot : (f e).slot = e.slot
  started : e.phase ≠ .queued → (f e).phase ≠ .queued ∧ (f e).status = e.status

/-- A channel whose entries may have ended, with its block list grown. -/
theorem queued_setChan_map {n : Nat} {c : Channel} {f : QEntry → QEntry} (hf : ∀ e, QEntry.KeptBy f e)
    (hqueue : c.queue = (s.chan n).queue.map f) (hblocks : ∀ b ∈ (s.chan n).blocks, b ∈ c.blocks) : s.Queued (s.setChan n c) :=
  .setChan (fun e he _ => ⟨f e, hqueue ▸ List.mem_map_of_mem he, (hf e).comp, (hf e).d⟩) hblocks fun slot x hx hp => by
    refine ⟨f x, ?_, (hf x).started hp⟩
    unfold Channel.entry at hx ⊢
    rw [hqueue, find_slot_map fun e => (hf e).slot, hx]
    rfl

theorem keptBy_ite {P : QEntry → Prop} [DecidablePred P] {g : QEntry → QEntry} {e : QEntry} (h : P e → QEntry.KeptBy g e) :
    QEntry.KeptBy (fun e => if P e then g e else e) e := by
  by_cases hP : P e
  · obtain ⟨hcomp, hd, hslot, hst⟩ := h hP
    refine ⟨?_, ?_, ?_, ?_⟩ <;> rw [if_pos hP] <;> assumption
  · refine ⟨?_, ?_, ?_, ?_⟩ <;> rw [if_neg hP]
    exact fun hne => ⟨hne, rfl⟩

/-- Descriptors that have not started end, where something holds of them. -/
theorem keptBy_end {P : QEntry → Prop} [DecidablePred P] (hP : ∀ e, P e → e.phase = .queued) (st : MStatus) (e : QEntry) :
    QEntry.KeptBy (fun e => if P e then e.end st else e) e :=
  keptBy_ite (g := fun e => e.end st) fun h => ⟨rfl, rfl, rfl, fun hne => absurd (hP e h) hne⟩

theorem queued_failed (s : State) (x : Nat × Option Nat) (c : Cause) (d : BitVec 56) :
    s.Queued ((((s.onMedia fun m => { m with rebuilds := m.rebuilds ++ [x] }).countGood).retiredWord).assertError c d) := by
  have hlisted : s.Queued ((s.onMedia fun m => { m with rebuilds := m.rebuilds ++ [x] }).countGood).retiredWord := .of_eq rfl rfl rfl
  exact hlisted.trans (queued_assertError _ c d)

theorem queued_failDie (s : State) (ch die : Nat) : s.Queued (s.failDie ch die) := by
  unfold State.failDie
  dsimp only
  split
  · exact .refl s
  · refine State.Queued.trans ?_ (queued_failed (s.setChan ch _) _ _ _)
    exact queued_setChan_map (keptBy_end (P := fun e => e.d.die.toNat = die ∧ e.phase = .queued) (fun _ h => h.2) .dieRetired) rfl fun _ hb => hb

theorem queued_failChannel (s : State) (ch : Nat) : s.Queued (s.failChannel ch) := by
  unfold State.failChannel
  dsimp only
  split
  · exact .refl s
  · refine State.Queued.trans ?_ (queued_failed (s.setChan ch _) _ _ _)
    exact queued_setChan_map (keptBy_end (P := fun e => e.phase = .queued ∧ !e.isRead) (fun _ h => h.1) .channelFailed) rfl fun _ hb => hb

theorem queued_checkChannel (s : State) (ch : Nat) : s.Queued (s.checkChannel ch) := by
  unfold State.checkChannel
  dsimp only
  split
  · exact queued_failChannel s ch
  · exact .refl s

theorem queued_countFail (s : State) (ch : Nat) (erase : Bool) : s.Queued (s.countFail ch erase) := by
  have hcount : ∀ c : Channel, c.queue = (s.chan ch).queue → c.blocks = (s.chan ch).blocks → ∀ w,
      s.Queued ((s.setChan ch c).count32 w 1) := fun c hqueue hblocks w =>
    (State.Queued.appended (n := ch) [] (by rw [hqueue, List.append_nil]) hblocks).trans (.of_eq rfl rfl rfl)
  unfold State.countFail
  split
  · exact hcount { s.chan ch with eErase := min ((s.chan ch).eErase + 1) 15 } rfl rfl _
  · exact hcount { s.chan ch with eProg := min ((s.chan ch).eProg + 1) 15 } rfl rfl _

/-- A retired block is in the grown-defect list, and what stood there stands (R190). -/
theorem retireBlock_blocks (s : State) (ch die block : Nat) (factory : Bool) :
    s.Queued (s.retireBlock ch die block factory) ∧ (die, block) ∈ ((s.retireBlock ch die block factory).chan ch).blocks := by
  unfold State.retireBlock
  dsimp only
  split
  · next h =>
    refine ⟨.refl s, ?_⟩
    obtain ⟨b, hb, he⟩ := List.any_eq_true.mp h
    rw [decide_eq_true_eq] at he
    exact he ▸ hb
  · have hadd : s.Queued (s.modChan ch fun c => { c with blocks := c.blocks ++ [(die, block)] }) :=
      .setChan (fun e he _ => ⟨e, he, rfl, rfl⟩) (fun _ hb => List.mem_append_left _ hb) fun _ x hx hp => ⟨x, hx, hp, rfl⟩
    have hin : (die, block) ∈ ((s.modChan ch fun c => { c with blocks := c.blocks ++ [(die, block)] }).chan ch).blocks := by
      rw [chan_modChan_same]
      exact List.mem_append_right _ List.mem_cons_self
    generalize s.modChan ch (fun c => { c with blocks := c.blocks ++ [(die, block)] }) = u at hadd hin
    have hcount : u.Queued (if factory then u else u.count32 0x04 1).countGood := by
      split <;> exact .of_eq rfl rfl rfl
    have hall := hadd.trans hcount
    have hstill := hcount.blocks ch _ hin
    generalize State.countGood (if factory then u else u.count32 0x04 1) = v at hall hstill
    split
    · exact ⟨hall, hstill⟩
    · split
      · have hfail := (queued_failDie v ch die).trans (queued_checkChannel _ ch)
        exact ⟨hall.trans hfail, hfail.blocks ch _ hstill⟩
      · exact ⟨hall, hstill⟩

theorem queued_relocate (s : State) (b c : Nat) : s.Queued (s.relocate b c) := by
  unfold State.relocate State.listMove
  split
  · exact .refl s
  · refine .of_eq ?_ rfl rfl
    dsimp only [State.onMedia]
    split <;> rfl

theorem queued_cutMember (s : State) (b c : Nat) : s.Queued (s.cutMember b c) := by
  unfold State.cutMember
  dsimp only
  split
  · exact .refl s
  · split
    · split
      · exact .of_eq rfl rfl rfl
      · exact .refl s
    · have hend : (s.unplaceAll b c).Queued ((s.unplaceAll b c).modChan c fun y => { y with queue := y.queue.map fun e =>
          if e.phase = .queued ∧ e.d.band.toNat = b ∧ !e.isRead then (e.end .aborted) else e }) :=
        queued_setChan_map (keptBy_end (P := fun e => e.phase = .queued ∧ e.d.band.toNat = b ∧ !e.isRead) (fun _ h => h.1) .aborted) rfl
          fun _ hb => hb
      have hout : s.Queued (s.unplaceAll b c) := .of_eq rfl rfl rfl
      exact (hout.trans hend).trans (grouped_modBand _ b _).queued

theorem queued_replaceUnits (s : State) : s.Queued s.replaceUnits := by
  unfold State.replaceUnits
  dsimp only
  split
  · exact .refl s
  · split
    · exact .refl s
    · next t g l us h =>
      exact (grouped_allocate h).queued.trans (State.Queued.trans (t := t.onPlace _) (.of_eq rfl rfl rfl) (grouped_launch ..).queued)

theorem queued_closeFull (s : State) (b : Nat) (cls : BitVec 3) : s.Queued (s.closeFull b cls) :=
  ((State.Grouped.foldl (fun t r => grouped_issueParity t b r cls) _ s).trans (grouped_closeBand _ b)).queued

theorem queued_blockFailed (s : State) (ch : Nat) (d : MDesc) (factory : Bool) :
    s.Queued (s.blockFailed ch d factory) ∧ (d.die.toNat, d.block.toNat) ∈ ((s.blockFailed ch d factory).chan ch).blocks := by
  obtain ⟨hretire, hin⟩ := retireBlock_blocks s ch d.die.toNat d.block.toNat factory
  have hrest : (s.retireBlock ch d.die.toNat d.block.toNat factory).Queued (s.blockFailed ch d factory) :=
    (queued_relocate _ d.band.toNat ch).trans ((queued_cutMember _ d.band.toNat ch).trans ((queued_replaceUnits _).trans
      (queued_closeFull _ d.band.toNat d.cls)))
  exact ⟨hretire.trans hrest, hrest.blocks ch _ hin⟩

theorem queued_leaveBand (s : State) (b : Nat) (cls : BitVec 3) : s.Queued (s.leaveBand b cls) :=
  ((State.Grouped.foldl grouped_closeGroup _ s).trans (grouped_closeRows _ b cls)).queued

theorem queued_programLost (s : State) (ch : Nat) (d : MDesc) : s.Queued (s.programLost ch d) := by
  unfold State.programLost
  have hleft := (queued_cutMember s d.band.toNat ch).trans (queued_leaveBand _ d.band.toNat d.cls)
  dsimp only
  generalize State.leaveBand _ d.band.toNat d.cls = t at hleft ⊢
  exact hleft.trans (queued_replaceUnits t)

theorem queued_listMove (s : State) (kind : Nat) (row : Option Nat) (band ch rung : Nat) : s.Queued (s.listMove kind row band ch rung) := by
  refine .of_eq ?_ rfl rfl
  unfold State.listMove
  dsimp only [State.onMedia]
  split <;> rfl

theorem queued_foldl {β : Type} {f : State → β → State} (hf : ∀ (t : State) x, t.Queued (f t x)) (l : List β) (s : State) :
    s.Queued (l.foldl f s) := by
  induction l generalizing s with
  | nil => exact .refl s
  | cons x l ih => exact (hf s x).trans (ih _)

theorem queued_parityLost (s : State) (ch : Nat) (d : MDesc) : s.Queued (s.parityLost ch d) := by
  unfold State.parityLost
  refine ((grouped_modBand s d.band.toNat _).queued.trans (queued_leaveBand _ _ _)).trans (queued_foldl (fun t c => ?_) _ _)
  split
  · exact queued_listMove ..
  · exact .refl t

theorem queued_parityFailed (s : State) (ch : Nat) (d : MDesc) : s.Queued (s.parityFailed ch d) :=
  (queued_countFail s ch false).trans ((retireBlock_blocks _ ch _ _ false).1.trans ((queued_relocate _ _ ch).trans
    (queued_parityLost _ ch d)))

theorem queued_pageJob (s : State) (body : State → PageBody) : s.Queued (s.pageJob body) := by
  unfold State.pageJob
  split
  · exact .refl s
  · next t g l us h =>
    exact (grouped_allocate h).queued.trans (State.Queued.trans (t := t.onPlace _) (.of_eq rfl rfl rfl) (grouped_launch ..).queued)

theorem queued_landPage (s : State) (x : Loc × PageBody) : s.Queued (s.landPage x) := by
  unfold State.landPage
  dsimp only
  split
  · exact .of_eq rfl rfl rfl
  · split
    · split <;> exact .of_eq rfl rfl rfl
    · exact .of_eq rfl rfl rfl
  · split
    · exact .of_eq rfl rfl rfl
    · refine State.Queued.trans (State.Queued.trans ?_ (queued_pageJob _ _)) (grouped_padGroup _ _ _).queued
      exact .of_eq rfl rfl rfl

theorem queued_unitDone (s : State) (d : MDesc) (c : Nat) : s.Queued (s.unitDone d c) := by
  have hpieces : ∀ (u : State) f, u.Queued (u.onPlace f) := fun _ _ => .of_eq rfl rfl rfl
  exact (((hpieces s _).trans (queued_foldl queued_landPage _ _)).trans (hpieces _ _)).trans
    ((grouped_modBand _ _ _).trans ((grouped_issueParity _ _ _ _).trans (grouped_closeBand _ _))).queued

theorem queued_afterDesc (s : State) (ch : Nat) (e : QEntry) (st : Byte) : s.Queued (s.afterDesc ch e st) := by
  unfold State.afterDesc
  dsimp only
  split
  · repeat' split
    · exact queued_unitDone ..
    · exact .refl s
    · exact (queued_countFail ..).trans (queued_blockFailed ..).1
    · exact queued_programLost ..
    · exact (queued_cutMember ..).trans ((queued_replaceUnits _).trans (queued_closeFull ..))
  · repeat' split
    · exact ((grouped_modBand ..).trans (grouped_closeBand ..)).queued
    · exact queued_parityFailed ..
    · exact queued_parityLost ..
    · exact .refl s
  · repeat' split
    · exact (queued_countFail ..).trans (queued_blockFailed ..).1
    · unfold State.readFirst
      dsimp only
      split
      · exact (grouped_submit ..).queued
      · exact .refl s
    · exact .refl s
  · split
    · exact (queued_blockFailed ..).1
    · exact .refl s
  · unfold State.firstRead
    dsimp only
    repeat' split
    · exact .of_eq rfl rfl rfl
    · exact (grouped_submit ..).queued
    · exact .refl s
  all_goals exact .refl s

end Endings

/-! ### Waiting and completion (R164, R168, R188) -/

section Completions

variable {s : State} {n : Nat}

theorem done_enter (s : State) (ch : Nat) (d : MDesc) : (s.enter ch d).media.done = s.media.done := by
  unfold State.enter
  split <;> rfl

theorem done_foldl {β : Type} {f : State → β → State} (hf : ∀ t x, (f t x).media.done = t.media.done) (l : List β) (s : State) :
    (l.foldl f s).media.done = s.media.done := by
  induction l generalizing s with
  | nil => rfl
  | cons x l ih => exact (ih _).trans (hf s x)

/-- A completion that stands in a queue, and whose submitter runs, is taken from it (R164). -/
theorem takeDone_done {y : QEntry} {comp : Completion} (hy : y ∈ (s.chan n).queue) (hcomp : y.comp = some comp)
    (hruns : s.takerRuns y.d = true) : comp ∈ (s.takeDone n).media.done := by
  have hout : y ∈ (s.chan n).queue.filter fun e => e.comp.isSome && s.takerRuns e.d := List.mem_filter.mpr ⟨hy, by simp [hcomp, hruns]⟩
  unfold State.takeDone
  dsimp only
  rw [if_neg (by simpa [List.isEmpty_iff] using List.ne_nil_of_mem hout)]
  unfold State.letIn
  rw [done_foldl fun t d => done_enter t n d]
  exact List.mem_append_left _ (List.mem_reverse.mpr (List.mem_filterMap.mpr ⟨y, hout, hcomp⟩))

theorem takeDone_blocks {b : Nat × Nat} (hb : b ∈ (s.chan n).blocks) : b ∈ ((s.takeDone n).chan n).blocks := by
  unfold State.takeDone
  dsimp only
  split
  · exact hb
  · unfold State.letIn
    refine (queued_foldl (fun t d => (grouped_enter t n d).queued) _ _).blocks n b ?_
    rw [chan_modChan_same]
    show b ∈ ((s.modChan n fun c => { c with queue := c.queue.filter fun e => !(e.comp.isSome && s.takerRuns e.d) }).chan n).blocks
    rw [chan_modChan_same]
    exact hb

theorem queued_resumeErase (s : State) (ch slot : Nat) : s.Queued (s.resumeErase ch slot) := by
  unfold State.resumeErase
  dsimp only
  split
  · exact .refl s
  · split
    · exact queued_setChan_map (fun e => keptBy_ite (P := fun x => x.slot = slot) (g := fun x => { x with held := false }) fun _ =>
        ⟨rfl, rfl, rfl, fun hp => ⟨hp, rfl⟩⟩) rfl fun _ hb => hb
    · exact .refl s

theorem done_resumeErase (s : State) (ch slot : Nat) : (s.resumeErase ch slot).media.done = s.media.done := by
  unfold State.resumeErase
  dsimp only
  split
  · rfl
  · split <;> rfl

theorem queued_resumeErases (s : State) : s.Queued s.resumeErases := by
  refine queued_foldl (fun t x => queued_foldl (fun u e => ?_) _ _) _ _
  split
  · exact queued_resumeErase ..
  · exact .refl u

theorem done_resumeErases (s : State) : s.resumeErases.media.done = s.media.done := by
  refine done_foldl (fun t x => done_foldl (fun u e => ?_) _ _) _ _
  split
  · exact done_resumeErase ..
  · rfl

/-- After a descriptor's completion its submitter takes it, a suspended erase may resume, and the thresholds are looked at. -/
def State.settledDone (s : State) (n : Nat) : State := (s.takeDone n).resumeErases.stagingCheck.healthCheck

theorem settledDone_media (s : State) (n : Nat) : (s.settledDone n).media = (s.takeDone n).resumeErases.media :=
  (keeps_healthCheck (L := { link := true, place := true, host := true, health := true }) (keeps_stagingCheck (.refl _ _) rfl rfl rfl) rfl rfl rfl).mediaF rfl

theorem settledDone_band (s : State) (n b : Nat) : (s.settledDone n).band b = s.band b := by
  have hhealth : (s.settledDone n).place = (s.takeDone n).resumeErases.stagingCheck.place :=
    (keeps_healthCheck (L := { link := true, host := true, health := true }) (.refl _ _) rfl rfl rfl).placeF rfl
  have htaken : (s.takeDone n).resumeErases.place = s.place :=
    (keeps_resumeErases (L := { media := true }) (keeps_takeDone n (.refl _ s) rfl) rfl).placeF rfl
  obtain ⟨hi, hcheck⟩ := stagingCheck_place (s.takeDone n).resumeErases
  have hbands : (s.settledDone n).place.bands = s.place.bands := by rw [hhealth, hcheck, htaken]
  exact congrArg (tget bandNone · b) hbands

theorem settledDone_done {y : QEntry} {comp : Completion} (hy : y ∈ (s.chan n).queue) (hcomp : y.comp = some comp)
    (hruns : s.takerRuns y.d = true) : comp ∈ (s.settledDone n).media.done := by
  rw [settledDone_media, done_resumeErases]
  exact takeDone_done hy hcomp hruns

theorem settledDone_blocks {b : Nat × Nat} (hb : b ∈ (s.chan n).blocks) : b ∈ ((s.settledDone n).chan n).blocks := by
  unfold State.chan
  rw [settledDone_media]
  exact (queued_resumeErases _).blocks n b (takeDone_blocks hb)

theorem closeBand_lists (s : State) (b : Nat) :
    ((s.closeBand b).band b).units = (s.band b).units ∧ ((s.closeBand b).band b).parity = (s.band b).parity := by
  unfold State.closeBand
  dsimp only
  split
  · rw [band_modBand_same]
    exact ⟨rfl, rfl⟩
  · exact ⟨rfl, rfl⟩

theorem issueParity_band (s : State) (b row k : Nat) (cls : BitVec 3) : (s.issueParity b row cls).band k = s.band k := by
  have hplace : (s.issueParity b row cls).place = s.place := (keeps_issueParity (L := { media := true }) b row cls (.refl _ s) rfl).placeF rfl
  exact congrArg (fun p : PlaceState => tget bandNone p.bands k) hplace

/-- A program's unit is recorded (R175). -/
theorem unitDone_units (s : State) (d : MDesc) (c : Nat) : (d.wl.toNat, c) ∈ ((s.unitDone d c).band d.band.toNat).units := by
  unfold State.unitDone
  dsimp only
  rw [(closeBand_lists _ _).1, issueParity_band, band_modBand_same]
  unfold Band.addUnit
  split
  · next h => exact List.contains_iff_mem.mp h
  · exact List.mem_append_right _ List.mem_cons_self

/-- A parity's row is recorded (R175). -/
theorem parityDone_parity (s : State) (b row : Nat) : row ∈ ((s.parityDone b row).band b).parity := by
  unfold State.parityDone
  rw [(closeBand_lists _ _).2, band_modBand_same]
  dsimp only
  split
  · next h => exact List.contains_iff_mem.mp h
  · exact List.mem_append_right _ List.mem_cons_self

/-- The submitter runs as before. -/
theorem State.Queued.takerRuns {t : State} (h : s.Queued t) (d : MDesc) : t.takerRuns d = s.takerRuns d := by
  unfold State.takerRuns
  rw [h.stopped, h.stopped]

end Completions

section Settle

variable {s : State} {ch : BitVec 5} {slot : BitVec 8} {x : QEntry} {st : Byte}

theorem exec_descriptorComplete (hup : s.mediaUp = true) (hx : (s.chan ch.toNat).entry slot.toNat = some x) (hst : x.status = some st)
    (hcomp : x.comp = none) (e : DieEnd) : exec (.descriptorComplete ch slot e) s = .next (((s.modChan ch.toNat fun c =>
      c.modEntry slot.toNat fun y => { y with phase := .ended, comp := some (x.completion st e.elapsed e.status) }).afterDesc
        ch.toNat x st).settledDone ch.toNat) := by
  show execDescriptorComplete ch slot e s = _
  unfold execDescriptorComplete
  dsimp only
  rw [hx]
  dsimp only
  rw [hst]
  dsimp only
  rw [hup, hcomp]
  rfl

/-- An entry with its completion written. -/
theorem completed_entry {comp : Completion} (hx : (s.chan ch.toNat).entry slot.toNat = some x) :
    ∃ y ∈ ((s.modChan ch.toNat fun c => c.modEntry slot.toNat fun y => { y with phase := .ended, comp := some comp }).chan ch.toNat).queue,
      y.comp = some comp ∧ y.d = x.d := by
  rw [chan_modChan_same]
  exact ⟨_, entry_mem (entry_modEntry (fun _ => rfl) hx), rfl, rfl⟩

/-- Settles O33: each clause by the equation of its command; a completion stands in its queue through whatever follows from it. -/
theorem descriptorsLive : Obligations.DescriptorsLive := by
  unfold Obligations.DescriptorsLive
  intro s ch slot hup
  extract_lets n c still
  refine ⟨?_, ?_, ?_, ?_, ?_, ?_, ?_⟩
  · intro d i hstill hon hwaits hmay hfree hne hempty
    have hchan := submit_free hwaits hfree
    refine ⟨_, exec_descriptorStart_submit hup hon hstill hmay ?_, submit_frame .., congrArg Channel.queue hchan⟩
    rw [hchan]
    show (c.queue ++ [newEntry i d s.media.orderNext]).find? _ = none
    rw [List.find?_append, show c.queue.find? (fun e => decide (e.slot = slot.toNat)) = none from hempty]
    exact List.find?_cons_of_neg (p := fun e : QEntry => decide (e.slot = slot.toNat)) (ne_true_of_eq_false (decide_eq_false hne))
  · intro d hstill hon hwaits hmay hfree hempty
    have hchan := submit_full hwaits hfree
    refine ⟨_, exec_descriptorStart_submit hup hon hstill hmay ?_, submit_frame .., (congrArg Channel.queue hchan :),
      (congrArg Channel.waits hchan :)⟩
    rw [hchan]
    exact hempty
  · intro p e hstill hon hp he hvalid hbarred hread hmay hnext
    obtain ⟨x, hx, hphase, hd, hstatus⟩ := started_entry c n he
    refine ⟨_, x, exec_descriptorStart_none hup hon hstill, startDesc_frame .., ?_, hphase, hd, hstatus⟩
    rw [if_neg Bool.false_ne_true, startDesc_starts hp he hvalid hbarred hread hmay hnext]
    exact (congrArg (Channel.entry · slot.toNat) (tget_tset_same ..)).trans hx
  · intro e hstill hon hp he hphase
    refine ⟨_, e.end .refused, exec_descriptorStart_none hup hon hstill, startDesc_frame .., ?_, rfl, rfl⟩
    have hends : s.startDesc n slot.toNat = s.modChan n fun c => c.modEntry slot.toNat fun e => e.end .refused := by
      unfold State.startDesc
      dsimp only
      rw [hp, show (s.chan n).entry slot.toNat = some e from he]
      exact if_pos hphase
    rw [if_neg Bool.false_ne_true, hends, chan_modChan_same]
    exact entry_modEntry (fun _ => rfl) he
  · intro e hstill hon he
    obtain ⟨x, hx, hstatus, hagain⟩ := queueEcc_entry he
    exact ⟨_, x, exec_descriptorStart_none hup hon hstill, hx, hstatus, hagain⟩
  · intro e he hphase hcls
    refine ⟨_, rfl, rfl, ?_⟩
    show ((s.modChan n _).chan n).entry slot.toNat = _
    rw [chan_modChan_same, entry_modEntry (fun y => by split <;> rfl) he, if_pos ⟨hphase, hcls⟩]
  · intro x st e hx hst hnone
    obtain ⟨y, hy, hycomp, hyd⟩ := completed_entry (comp := x.completion st e.elapsed e.status) hx
    refine ⟨_, exec_descriptorComplete hup hx hst hnone e, ?_⟩
    have hstopped : ∀ d, (s.modChan ch.toNat fun c => c.modEntry slot.toNat fun y =>
      { y with phase := .ended, comp := some (x.completion st e.elapsed e.status) }).takerRuns d = s.takerRuns d := fun d => rfl
    generalize s.modChan ch.toNat _ = u at hy hstopped ⊢
    have hqueued := queued_afterDesc u ch.toNat x st
    obtain ⟨z, hz, hzcomp, hzd⟩ := hqueued.comps _ y hy (by rw [hycomp]; rfl)
    refine ⟨fun hruns => ?_, fun hop hzero => ?_, fun hop hzero => ?_, fun hop hfail => ?_⟩
    · exact settledDone_done hz (hzcomp.trans hycomp) (by rw [hqueued.takerRuns, hstopped, hzd, hyd]; exact hruns)
    · have hafter : u.afterDesc ch.toNat x st = u.unitDone x.d ch.toNat := by
        unfold State.afterDesc
        dsimp only
        rw [hop]
        exact if_pos hzero
      rw [settledDone_band, hafter]
      exact unitDone_units ..
    · have hafter : u.afterDesc ch.toNat x st = u.parityDone x.d.band.toNat x.d.wl.toNat := by
        unfold State.afterDesc
        dsimp only
        rw [hop]
        exact if_pos hzero
      rw [settledDone_band, hafter]
      exact parityDone_parity ..
    · have hafter : u.afterDesc ch.toNat x st = (u.countFail ch.toNat true).blockFailed ch.toNat x.d false := by
        unfold State.afterDesc
        dsimp only
        rw [hop]
        exact if_pos hfail
      refine settledDone_blocks ?_
      rw [hafter]
      exact (queued_blockFailed ..).2

end Settle

end Sys2Proof.Machine

/-! # Rails that trip, and a charge that takes too long (R254, R256, R261) -/

namespace Sys2Proof.Machine
open Sys2Proof

/-! ### Causes that are held while their condition stands (R448) -/

section Held

variable {s : State} {c : Cause} {d : BitVec 56}

theorem hold_held (r : UnitFault) (w : Report) : (r.hold w).held = r.held := by
  unfold UnitFault.hold
  split <;> rfl

theorem assertError_held (s : State) (c : Cause) (d : BitVec 56) (u : UnitId) : ((s.assertError c d).unit u).held = (s.unit u).held := by
  rw [assertError_eq]
  split
  · rfl
  · by_cases hu : u = causeUnit c
    · rw [hu, modUnit_unit_same, hold_held]
    · rw [State.modUnit, setUnit_unit_ne _ _ _ hu]

theorem holdCause_held (s : State) (c : Cause) (d : BitVec 56) : (c, d) ∈ ((s.holdCause c d).unit (causeUnit c)).held := by
  unfold State.holdCause
  dsimp only
  split
  · next h =>
    obtain ⟨⟨c', d'⟩, hmem, heq⟩ := List.any_eq_true.mp h
    simp only [Bool.and_eq_true, decide_eq_true_eq] at heq
    obtain ⟨rfl, rfl⟩ := heq
    exact hmem
  · rw [assertError_held, setUnit_unit_same]
    exact List.mem_append_right _ List.mem_cons_self

theorem dropCauseAt_held (s : State) (c : Cause) (d : BitVec 56) : (c, d) ∉ ((s.dropCauseAt c d).unit (causeUnit c)).held := by
  unfold State.dropCauseAt
  rw [modUnit_unit_same]
  intro h
  simpa using (List.mem_filter.mp h).2

end Held

/-! ### The state of one rail -/

section Rails

variable {s t : State} {r : Rail}

theorem railCode_injective : Function.Injective railCode := fun a b h => by
  revert h
  cases a <;> cases b <;> decide

theorem setRail_rail_same (s : State) (r : Rail) (x : RailRec) : (s.setRail r x).rail r = x := tget_tset_same ..

theorem setRail_rail_ne (s : State) {q r : Rail} (x : RailRec) (h : q ≠ r) : (s.setRail r x).rail q = s.rail q :=
  tget_tset_ne _ _ _ fun hcode => h (railCode_injective hcode)

/-- From s to t nothing but POWER and the collector changes, and of the rails only r, which then stands as x. -/
def State.railOnly (s : State) (r : Rail) (x : RailRec) (t : State) : Prop :=
  t = { s with power := t.power, fault := t.fault } ∧ (∀ q, q ≠ r → t.rail q = s.rail q) ∧ t.rail r = x

theorem railOnly_of_keeps {x : RailRec} (h : Keeps { fault := true } (s.setRail r x) t) : s.railOnly r x t := by
  have hpower : t.power = (s.setRail r x).power := h.powerF rfl
  have hrail : ∀ q, t.rail q = (s.setRail r x).rail q := fun q => congrArg (fun p : PowerState => tget railNone p.rails (railCode q)) hpower
  refine ⟨?_, fun q hq => (hrail q).trans (setRail_rail_ne s x hq), (hrail r).trans (setRail_rail_same s r x)⟩
  have hframe : t = { s.setRail r x with fault := t.fault } := h.frame
  rw [hpower]
  exact hframe

theorem railOnly_hold (s : State) (r : Rail) (x : RailRec) (c : Cause) (d : BitVec 56) :
    s.railOnly r x ((s.setRail r x).holdCause c d) := railOnly_of_keeps (keeps_holdCause c d (.refl _ _) rfl)

theorem railOnly_drop (s : State) (r : Rail) (x : RailRec) (c : Cause) (d : BitVec 56) :
    s.railOnly r x ((s.setRail r x).dropCauseAt c d) := railOnly_of_keeps (keeps_dropCauseAt c d (.refl _ _) rfl)

theorem railOnly_assert (s : State) (r : Rail) (x : RailRec) (c : Cause) (d : BitVec 56) :
    s.railOnly r x ((s.setRail r x).assertError c d) := railOnly_of_keeps (keeps_assertError c d (.refl _ _) rfl)

/-- A rail whose condition arises: it changes, and the cause is held. -/
theorem trips {x : RailRec} {c : Cause} {d : BitVec 56} {i : Instr} (h : exec i s = .next ((s.setRail r x).holdCause c d)) :
    ∃ t, exec i s = .next t ∧ (t = { s with power := t.power, fault := t.fault } ∧ ∀ q, q ≠ r → t.rail q = s.rail q) ∧ t.rail r = x ∧
      (c, d) ∈ (t.unit (causeUnit c)).held := by
  obtain ⟨hframe, hothers, hrail⟩ := railOnly_hold s r x c d
  exact ⟨_, h, ⟨hframe, hothers⟩, hrail, holdCause_held ..⟩

/-- A rail whose condition ends: it changes, and the cause is held no more. -/
theorem rail_recovers {x : RailRec} {c : Cause} {d : BitVec 56} {i : Instr} (h : exec i s = .next ((s.setRail r x).dropCauseAt c d)) :
    ∃ t, exec i s = .next t ∧ (t = { s with power := t.power, fault := t.fault } ∧ ∀ q, q ≠ r → t.rail q = s.rail q) ∧ t.rail r = x ∧
      (c, d) ∉ (t.unit (causeUnit c)).held := by
  obtain ⟨hframe, hothers, hrail⟩ := railOnly_drop s r x c d
  exact ⟨_, h, ⟨hframe, hothers⟩, hrail, dropCauseAt_held (s.setRail r x) c d⟩

theorem exec_railUv (below : Bool) (hpwr : s.clock.mainPwr = true) (hgood : (s.rail r).good = true) :
    exec (.railUv r below) s = .next (if below then (s.setRail r { s.rail r with uv := true }).holdCause .powerRailUv (railDetail r)
      else (s.setRail r { s.rail r with uv := false }).dropCauseAt .powerRailUv (railDetail r)) := by
  show execRailUv r below s = _
  unfold execRailUv
  dsimp only
  rw [hpwr, hgood]
  cases below <;> rfl

theorem exec_railOc (beyond : Bool) (hpwr : s.clock.mainPwr = true) (hgood : (s.rail r).good = true) :
    exec (.railOc r beyond) s = .next (if beyond then (s.setRail r { s.rail r with st := .limit }).holdCause .powerRailOc (railDetail r)
      else (s.setRail r { s.rail r with st := .on }).dropCauseAt .powerRailOc (railDetail r)) := by
  show execRailOc r beyond s = _
  unfold execRailOc
  dsimp only
  rw [hpwr, hgood]
  cases beyond <;> rfl

theorem exec_railOv (hpwr : s.clock.mainPwr = true) (hlow : (s.rail r).low = false) :
    exec (.railOv r) s = .next ((s.setRail r { st := .shut, uv := true, ov := true }).assertError .powerRailOv (railDetail r)) := by
  show execRailOv r s = _
  unfold execRailOv
  dsimp only
  rw [hpwr, hlow]
  rfl

theorem exec_chargeTimeout {v : Nat} (hup : s.powerUnitUp = true) (hcharging : s.power.charging = true) (hv : v < 27000) :
    exec (.chargeTimeout v) s =
      .next ((s.onPower fun p => { p with vbank := v }).holdCause .powerChargeTimeout (detail [(16, v / 100)])) := by
  show execChargeTimeout v s = _
  unfold execChargeTimeout
  exact if_pos (by simp [hup, hcharging, hv])

/-- Settles O36: each event writes its rail alone, and holds or drops its own cause. -/
theorem railsTrip : Obligations.RailsTrip := by
  unfold Obligations.RailsTrip
  intro s r
  extract_lets x only
  refine ⟨fun hpwr hgood => ⟨trips (exec_railUv true hpwr hgood), rail_recovers (exec_railUv false hpwr hgood),
    trips (exec_railOc true hpwr hgood), rail_recovers (exec_railOc false hpwr hgood)⟩, fun hpwr hlow => ?_, fun v hup hcharging hv => ?_⟩
  · obtain ⟨hframe, hothers, hrail⟩ := railOnly_assert s r { st := .shut, uv := true, ov := true } .powerRailOv (railDetail r)
    exact ⟨_, exec_railOv hpwr hlow, ⟨hframe, hothers⟩, hrail⟩
  · exact ⟨_, exec_chargeTimeout hup hcharging hv, (keeps_holdCause (L := { fault := true }) _ _ (.refl _ _) rfl).powerF rfl,
      _, holdCause_held ..⟩

end Rails

end Sys2Proof.Machine

/-! # The gauge and ENERGY_AVAIL (R262 to R265, R287) -/

namespace Sys2Proof.Machine
open Sys2Proof

section WriteThrough

variable {s : State}

theorem setDev_intake_running {d : DevState} (h : d = .ready ∨ d = .degraded) : (s.setDev d).intake = s.intake := by
  have hraise : ((s.onClock fun c => { c with dev := d }).raise .stateChange).intake = s.intake :=
    (signalled_raise (s.onClock fun c => { c with dev := d }) .stateChange).intake
  unfold State.setDev
  split
  · rfl
  · rcases h with rfl | rfl <;> exact hraise

/-- Of INTAKE, write-through sets its own flag and its tail alone. -/
theorem wtUpdate_intake (s : State) : ∃ up tail, s.wtUpdate.intake = { s.intake with wtPowerUp := up, wtTail := tail } := by
  have hraise : ∀ (d : DevState) (a : Attn), d = .ready ∨ d = .degraded → ((s.setDev d).raise a).intake = s.intake := fun d a hd => by
    rw [(signalled_raise _ a).intake, setDev_intake_running hd]
  unfold State.wtUpdate
  split
  · exact ⟨false, s.intake.wtTail, congrArg (fun i : IntakeState => { i with wtPowerUp := false }) (hraise .degraded .wtEnter (Or.inr rfl))⟩
  · split
    · exact ⟨false, s.owedFrontiers, congrArg (fun i : IntakeState => { i with wtPowerUp := false, wtTail := s.owedFrontiers })
        (hraise .ready .wtExit (Or.inl rfl))⟩
    · exact ⟨s.intake.wtPowerUp, s.intake.wtTail, rfl⟩

theorem wtUpdate_owed (s : State) : s.wtUpdate.intake.gaugeOwed = s.intake.gaugeOwed := by
  obtain ⟨up, tail, h⟩ := wtUpdate_intake s
  rw [h]

theorem wtUpdate_power (s : State) : s.wtUpdate.power = s.power :=
  (keeps_wtUpdate (Keeps.refl { clock := true, link := true, intake := true, host := true, health := true } s) rfl rfl rfl rfl rfl).powerF rfl

end WriteThrough

section Gauge

variable {s : State}

/-! ### GAUGE_NOW (R287) -/

/-- A measurement is asked for. -/
def State.gaugeAsked (s : State) : State := s.onPower fun p => { p with gaugeReq := true }

theorem regPut_gaugeNow (s : State) : s.regPut 0x2A 2 2 = .ok s.gaugeAsked.wtUpdate := by
  have hforce : (fieldOf (merge (s.regValue 0x2A) 2 2) 0 1 != 0) = s.power.forceWt := by
    show (fieldOf (merge (wordOf [(0, 1, bit s.power.forceWt)]) 2 2) 0 1 != 0) = s.power.forceWt
    cases s.power.forceWt <;> rfl
  have hrule : s.writeHoldup 2 2 = (s.onPower fun p => { p with
      forceWt := fieldOf (merge (s.regValue 0x2A) 2 2) 0 1 != 0, gaugeReq := p.gaugeReq || true }).wtUpdate := rfl
  show Except.ok (s.writeHoldup 2 2) = _
  rw [hrule, hforce]
  simp only [Bool.or_true]
  rfl

theorem exec_gaugeNow (h : s.serves 0x2A = true) : exec .gaugeNow s = .next (s.actDropped.gaugeAsked.wtUpdate.wrote .ok) :=
  congrArg Host.Outcome.next (busWrite_linkButIrq h (by decide) (regPut_gaugeNow _) (linkButIrq_wtUpdate s.actDropped.gaugeAsked))

/-! ### A measurement starts, fails or passes (R263, R264) -/

theorem gaugeStart_power (h : s.gaugeCan = true) : s.gaugeStart.power.gauge = .running ∧ s.gaugeStart.power.charging = false ∧
    s.gaugeStart.power.gaugeReq = false := by
  unfold State.gaugeStart
  rw [if_pos h]
  exact ⟨rfl, by simp [State.chargerUpdate, State.onPower], rfl⟩

theorem gaugeFails_power (s : State) (reason : Nat) :
    ∃ on, (s.gaugeFails reason).power = { s.power with gauge := .idle, gaugeReq := false, charging := on } := by
  unfold State.gaugeFails
  rw [wtUpdate_power]
  exact ⟨_, (keeps_assertError (L := { fault := true, health := true }) _ _
    (keeps_countLo _ _ (Keeps.refl _ _) rfl) rfl).powerF rfl⟩

theorem gaugeFails_owed (s : State) (reason : Nat) : (s.gaugeFails reason).intake.gaugeOwed = 3 := by
  unfold State.gaugeFails
  rw [wtUpdate_owed]
  exact congrArg IntakeState.gaugeOwed ((keeps_assertError (L := { fault := true, health := true }) _ _
    (keeps_countLo _ _ (Keeps.refl _ _) rfl) rfl).intakeF rfl)

theorem gaugePasses_power (s : State) (c e tenth : Nat) : ∃ on, (s.gaugePasses c e tenth).power =
    { s.power with gauge := .idle, gaugeReq := false, cap := c, esr := e, gauged := true, blind := false, charging := on } := by
  unfold State.gaugePasses
  dsimp only
  rw [wtUpdate_power]
  exact ⟨_, (keeps_hset (L := { health := true }) _ _ (keeps_hset _ _ (Keeps.refl _ _) rfl) rfl).powerF rfl⟩

theorem gaugePasses_owed (s : State) (c e tenth : Nat) : (s.gaugePasses c e tenth).intake.gaugeOwed = s.intake.gaugeOwed - 1 := by
  unfold State.gaugePasses
  dsimp only
  rw [wtUpdate_owed]
  exact congrArg IntakeState.gaugeOwed ((keeps_hset (L := { health := true }) _ _ (keeps_hset _ _ (Keeps.refl _ _) rfl) rfl).intakeF rfl)

theorem exec_gaugeDeferFail_idle (hup : s.powerUnitUp = true) (hidle : s.power.gauge = .idle) (hcan : s.gaugeCan = false)
    (hreq : s.power.gaugeReq = true) : exec .gaugeDeferFail s = .next (s.gaugeFails 2) := by
  show execGaugeDeferFail s = _
  unfold execGaugeDeferFail State.gaugeDue
  rw [hup, hidle, hcan, hreq]
  rfl

theorem exec_gaugeDeferFail_running (hup : s.powerUnitUp = true) (hrun : s.power.gauge = .running) :
    exec .gaugeDeferFail s = .next (s.gaugeFails 3) := by
  show execGaugeDeferFail s = _
  unfold execGaugeDeferFail
  exact if_pos (by simp [hup, hrun])

theorem exec_gaugeMeasurementDone {v0 v1 v2 : Nat} (hup : s.powerUnitUp = true) (hrun : s.power.gauge = .running) :
    exec (.gaugeMeasurementDone v0 v1 v2) s = if gaugeCap v1 v2 < 250 ∨ 12000 < gaugeCap v1 v2 ∨ 250 < gaugeEsr v0 v1 v2
      then .next (s.gaugeFails 1)
      else .next (s.gaugePasses (gaugeCap v1 v2) (gaugeEsr v0 v1 v2) (10 * gaugeEsr v0 v1 v2)) := by
  show execGaugeMeasurementDone v0 v1 v2 s = _
  unfold execGaugeMeasurementDone
  exact if_neg (by simp [hup, hrun])

/-! ### ENERGY_AVAIL (R265) -/

theorem exec_energyAvailUpdate_power {v : Nat} (hup : s.powerUnitUp = true) : ∃ t, exec (.energyAvailUpdate v) s = .next t ∧
    t.power = { s.power with vbank := v, avail := s.power.availNow v } := by
  have hrule : ∃ t, execEnergyAvailUpdate v s = .next t ∧ t.power = { s.power with vbank := v, avail := s.power.availNow v } := by
    unfold execEnergyAvailUpdate
    dsimp only
    rw [hup, if_neg (by decide)]
    refine ⟨_, rfl, ?_⟩
    generalize hw : (if 27000 ≤ v then _ else _ : State) = w
    have hpower : w.power = { s.power with vbank := v, avail := s.power.availNow v } := by
      rw [← hw]
      split <;> rfl
    split
    · rw [wtUpdate_power]
      exact hpower
    · exact hpower
  exact hrule

/-- Settles O38: what each command leaves of POWER and of the passes owed; write-through changes neither. -/
theorem gaugeMeasures : Obligations.GaugeMeasures := by
  unfold Obligations.GaugeMeasures
  intro s
  refine ⟨fun h => ⟨_, exec_gaugeNow h, rfl, wtUpdate_power _⟩, fun h => ⟨_, rfl, ?_, gaugeStart_power h⟩, fun h => ?_,
    fun hup hidle hcan hreq => ?_, fun hup hrun => ?_, fun v0 v1 v2 hup hrun => ?_, fun v hup => ?_⟩
  · exact (keeps_gaugeStart (Keeps.refl { power := true } s) rfl).frame
  · exact congrArg Host.Outcome.next (if_neg (ne_true_of_eq_false h))
  · obtain ⟨on, hpower⟩ := gaugeFails_power s 2
    exact ⟨_, exec_gaugeDeferFail_idle hup hidle hcan hreq, gaugeFails_owed s 2, by rw [hpower]⟩
  · obtain ⟨on, hpower⟩ := gaugeFails_power s 3
    exact ⟨_, exec_gaugeDeferFail_running hup hrun, gaugeFails_owed s 3, by rw [hpower], by rw [hpower]⟩
  · extract_lets c e
    rw [exec_gaugeMeasurementDone hup hrun]
    refine ⟨fun hlow hhigh hesr => ?_, fun hbad => ?_⟩
    · obtain ⟨on, hpower⟩ := gaugePasses_power s c e (10 * e)
      rw [if_neg (by omega)]
      exact ⟨_, rfl, by rw [hpower], by rw [hpower], by rw [hpower], by rw [hpower], by rw [hpower], gaugePasses_owed .., by rw [hpower]⟩
    · obtain ⟨on, hpower⟩ := gaugeFails_power s 1
      rw [if_pos hbad]
      exact ⟨_, rfl, by rw [hpower], gaugeFails_owed s 1, by rw [hpower]⟩
  · obtain ⟨t, ht, hpower⟩ := exec_energyAvailUpdate_power (v := v) hup
    refine ⟨t, ht, by rw [hpower], ?_⟩
    rw [hpower]
    simp [PowerState.availNow]

end Gauge

end Sys2Proof.Machine

/-! # The wires: removal, brown-out and VAUX (R268, R269, R271, R459) -/

namespace Sys2Proof.Machine
open Sys2Proof

/-! ### What the wires show stands through resets (R255) -/

/-- What POWER holds of the wires: VIN in its range, a brown-out, PRESENT# high, a removal. -/
def PowerState.wires (p : PowerState) : Bool × Bool × Bool × Bool := (p.vin, p.brown, p.absent, p.removal)

def State.wires (s : State) : Bool × Bool × Bool × Bool := s.power.wires

section Wires

variable {s : State}

theorem wires_of_power {t : State} (h : t.power = s.power) : t.wires = s.wires := congrArg PowerState.wires h

theorem wires_foldl {β : Type} {f : State → β → State} (hf : ∀ t x, (f t x).wires = t.wires) (l : List β) (s : State) :
    (l.foldl f s).wires = s.wires := by
  induction l generalizing s with
  | nil => rfl
  | cons x l ih => exact (ih _).trans (hf s x)

theorem railsDown_wires (s : State) : s.railsDown.wires = s.wires := by
  have hfold : ∀ (l : List (List Rail)) (a : State × Bool), (l.foldl (fun (a : State × Bool) g =>
      if a.2 then
        let t := g.foldl State.dropRail a.1
        (t, g.all fun r => (t.rail r).low)
      else a) a).1.wires = a.1.wires := fun l => by
    induction l with
    | nil => exact fun _ => rfl
    | cons g l ih =>
      intro a
      rw [List.foldl_cons, ih]
      split
      · exact wires_foldl (f := State.dropRail) (fun _ _ => rfl) g a.1
      · rfl
  exact hfold railSteps.reverse (s, true)

theorem mainDown_wires (s : State) : s.mainDown.wires = s.wires := by
  have hrails : (s.mainReset true).railsDown.wires = s.wires := railsDown_wires (s.mainReset true)
  unfold State.mainDown
  dsimp only
  generalize (s.mainReset true).railsDown = u at hrails ⊢
  exact hrails

theorem setDev_wires (s : State) (d : DevState) : (s.setDev d).wires = s.wires :=
  wires_of_power ((keeps_setDev d (Keeps.refl { clock := true, link := true, intake := true, host := true } s) rfl rfl rfl rfl).powerF rfl)

theorem vauxCheck_wires (s : State) : s.vauxCheck.wires = s.wires := by
  unfold State.vauxCheck
  split <;> rfl

theorem wtUpdate_wires (s : State) : s.wtUpdate.wires = s.wires := wires_of_power (wtUpdate_power s)

theorem trigger_wires (s : State) (b : Nat) (code : BitVec 3) (wire halt : Bool) : (s.trigger b code wire halt).wires = s.wires := by
  have hdown : ∀ (t : State) d, ((t.mainDown.setDev d).vauxCheck).wires = t.wires := fun t d => by
    rw [vauxCheck_wires, setDev_wires, mainDown_wires]
  unfold State.trigger
  dsimp only
  split
  · rfl
  · split
    · split <;> rfl
    · split
      · rfl
      · rfl
      · exact hdown ..
      · exact hdown ..
      · exact hdown ..
      · exact hdown ..
      · exact hdown ..
      · rfl

theorem armVin_wires (s : State) : s.armVin.wires = s.wires := by
  unfold State.armVin
  split <;> rfl

theorem react_wires (s : State) (level : Nat) (c : Cause) (d : BitVec 56) : (s.react .power level c d).wires = s.wires := by
  unfold State.react
  split
  · rfl
  · exact wires_of_power ((keeps_contain c d (Keeps.refl { lamp := true, intake := true, media := true } s) rfl rfl rfl).powerF rfl)
  · unfold State.restart
    split
    · rfl
    · have hshadow : ((s.resetSource (restartBit c)).openShadow .power).power = s.power :=
        (keeps_openShadow .power (keeps_resetSource _ (Keeps.refl { clock := true, fault := true } s) rfl) rfl).powerF rfl
      have hrestart : ∀ t : State, (t.restartEffect .power d).wires = t.wires := fun _ => rfl
      exact (hrestart _).trans (wires_of_power hshadow)
  · exact trigger_wires ..

theorem takeReport_wires (s : State) : (s.takeReport .power).wires = s.wires := by
  have hecho : ∀ (t : State) es, (t.lateEchoes .power es).wires = t.wires := fun t es =>
    wires_of_power ((keeps_lateEchoes .power es (Keeps.refl { fault := true } t) rfl).powerF rfl)
  have hraise : ∀ (t : State) (a : Attn), (t.raise a).wires = t.wires := fun t a =>
    wires_of_power ((keeps_raise a (Keeps.refl { link := true, host := true } t) rfl rfl).powerF rfl)
  unfold State.takeReport
  dsimp only
  split
  · split
    · rfl
    · rw [hecho, hraise]
      rfl
  · rw [hecho, wtUpdate_wires, react_wires, hraise]
    split <;> rfl

theorem reportOv_wires (s : State) : s.reportOv.wires = s.wires := by
  unfold State.reportOv
  split
  · rw [takeReport_wires]
    rfl
  · rfl

end Wires

/-! ### A wire starts a flush, or cuts a reset flush short (R271, R283, R462) -/

section Flush

variable {s : State} {b : Nat} {code : BitVec 3}

theorem trigger_running (hpwr : s.clock.mainPwr = true) (hrun : s.running = true) (hnone : s.snuff.trigger = none) :
    s.trigger b code true false = ((s.resetSource b).gaugeCut).beginFlush code false false none := by
  have hdev : s.clock.dev = .ready ∨ s.clock.dev = .degraded := by simpa [State.running] using hrun
  unfold State.trigger
  rw [hpwr, hnone]
  dsimp only
  rcases hdev with h | h
  · rw [show ((s.resetSource b).gaugeCut).clock.dev = .ready from h]
    rfl
  · rw [show ((s.resetSource b).gaugeCut).clock.dev = .degraded from h]
    rfl

/-- A wire in READY or DEGRADED leaves a trigger that waits for its flush, and the rest of the device runs on. -/
theorem trigger_starts (hpwr : s.clock.mainPwr = true) (hrun : s.running = true) (hnone : s.snuff.trigger = none) :
    (s.trigger b code true false).snuff =
        { after := none, trigger := some code, keepVin := false, endHalt := false, trigPos := s.lamp.tickPos } ∧
      (s.trigger b code true false).clock.dev = s.clock.dev ∧ (s.trigger b code true false).intake = s.intake ∧
      (s.trigger b code true false).place = s.place := by
  rw [trigger_running hpwr hrun hnone]
  exact ⟨rfl, rfl, rfl, rfl⟩

/-- A wire that meets a flush leaves it, and cuts short one that a reset follows. -/
theorem trigger_meets (hpwr : s.clock.mainPwr = true) (hsome : s.snuff.trigger ≠ none) :
    (s.trigger b code true false).place = s.place ∧ (s.trigger b code true false).wick = s.wick ∧
      (s.trigger b code true false).snuff =
        if s.snuff.after = none then s.snuff else { s.snuff with keepVin := false, after := none } := by
  have hmet : s.trigger b code true false = if s.snuff.after.isSome then s.cutReset b else s := by
    unfold State.trigger
    rw [hpwr, if_neg (by decide), if_pos (Option.isSome_iff_ne_none.mpr hsome), Bool.true_and]
  rw [hmet]
  cases hafter : s.snuff.after with
  | none =>
    rw [if_pos rfl]
    exact ⟨rfl, rfl, rfl⟩
  | some k =>
    rw [if_neg (Option.some_ne_none k)]
    exact ⟨rfl, rfl, rfl⟩

/-- The arming of VIN POR touches nothing that a trigger leaves. -/
theorem armVin_rest (s : State) : s.armVin.snuff = s.snuff ∧ s.armVin.clock.dev = s.clock.dev ∧ s.armVin.intake = s.intake ∧
    s.armVin.place = s.place ∧ s.armVin.wick = s.wick ∧ s.armVin.lamp = s.lamp := by
  unfold State.armVin
  split <;> exact ⟨rfl, rfl, rfl, rfl, rfl, rfl⟩

theorem trigger_lamp (s : State) (b : Nat) (code : BitVec 3) (wire halt : Bool) : (s.trigger b code wire halt).lamp = s.lamp :=
  (keeps_trigger b code wire halt (Keeps.refl
    { clock := true, link := true, fault := true, intake := true, media := true, place := true, journal := true, host := true
      power := true, snuff := true, wick := true, mem := true, health := true } s)
    rfl rfl rfl rfl rfl rfl rfl rfl rfl rfl rfl rfl rfl).lampF rfl

end Flush

section Settle

variable {s : State} {pos : Nat}

/-- PRESENT# has gone high. -/
def State.removed (s : State) (pos : Nat) : State := (s.atTick pos).onPower fun p => { p with absent := true, removal := true }

/-- VIN has left its range. -/
def State.browned (s : State) (pos : Nat) : State := (s.atTick pos).onPower fun p => { p with vin := false, brown := true }

theorem exec_removalDetect (hpor : s.clock.vauxPor = false) :
    exec (.removalDetect pos) s = .next ((s.removed pos).trigger 4 1 true false).armVin := if_neg (ne_true_of_eq_false hpor)

theorem exec_brownOut (hpor : s.clock.vauxPor = false) (beyond : Bool) : exec (.brownOut beyond pos) s = .next (
    if beyond then (((s.browned pos).holdCause .powerVinOv 0).reportOv).trigger 3 3 true false
    else (((s.browned pos).dropCause .powerVinOv).trigger 2 2 true false).armVin) := by
  show execBrownOut beyond pos s = _
  unfold execBrownOut
  rw [if_neg (ne_true_of_eq_false hpor)]
  cases beyond <;> rfl

/-- The states on which a wire's trigger acts differ from s in POWER, the collector and the tick position alone. -/
def State.wired (s : State) (pos : Nat) (u : State) : Prop :=
  u = { s with lamp := { s.lamp with tickPos := max s.lamp.tickPos pos }, power := u.power, fault := u.fault }

theorem wired_held (hrun : s.running = true) : s.wired pos ((s.browned pos).holdCause .powerVinOv 0).reportOv := by
  have hheld : (s.browned pos).holdCause .powerVinOv 0 = { s.browned pos with fault := ((s.browned pos).holdCause .powerVinOv 0).fault } :=
    (keeps_holdCause (L := { fault := true }) _ _ (.refl _ _) rfl).frame
  have hplain : ((s.browned pos).holdCause .powerVinOv 0).reportOv = (s.browned pos).holdCause .powerVinOv 0 := by
    have hrunning : ((s.browned pos).holdCause .powerVinOv 0).running = true := by
      rw [hheld]
      exact hrun
    unfold State.reportOv
    rw [hrunning, Bool.not_true, Bool.and_false]
    rfl
  unfold State.wired
  rw [hplain, hheld]
  rfl

/-- What a wire leaves, where it starts a flush and where it meets one. -/
theorem wire_starts {u t : State} {i : Instr} {b : Nat} {code : BitVec 3} (hu : s.wired pos u)
    (ht : exec i s = .next t) (hend : t = u.trigger b code true false ∨ t = (u.trigger b code true false).armVin) :
    (s.clock.mainPwr = true → s.running = true → s.snuff.trigger = none → ∃ t, exec i s = .next t ∧
      t.snuff = { after := none, trigger := some code, keepVin := false, endHalt := false, trigPos := max s.lamp.tickPos pos } ∧
      t.clock.dev = s.clock.dev ∧ t.intake = s.intake ∧ t.place = s.place) ∧
    (s.clock.mainPwr = true → s.running = true → s.snuff.trigger ≠ none → ∃ t, exec i s = .next t ∧ t.place = s.place ∧ t.wick = s.wick ∧
      t.snuff = if s.snuff.after = none then s.snuff else { s.snuff with keepVin := false, after := none }) := by
  obtain ⟨hsnuff, hdev, hintake, hplace, hwick, -⟩ := armVin_rest (u.trigger b code true false)
  have hsame : t.snuff = (u.trigger b code true false).snuff ∧ t.clock.dev = (u.trigger b code true false).clock.dev ∧
      t.intake = (u.trigger b code true false).intake ∧ t.place = (u.trigger b code true false).place ∧
      t.wick = (u.trigger b code true false).wick := by
    rcases hend with rfl | rfl
    · exact ⟨rfl, rfl, rfl, rfl, rfl⟩
    · exact ⟨hsnuff, hdev, hintake, hplace, hwick⟩
  obtain ⟨hsnuff, hdev, hintake, hplace, hwick⟩ := hsame
  unfold State.wired at hu
  have hclock : u.clock = s.clock := (congrArg State.clock hu :)
  have husnuff : u.snuff = s.snuff := (congrArg State.snuff hu :)
  refine ⟨fun hpwr hrun hnone => ⟨t, ht, ?_⟩, fun hpwr _ hsome => ⟨t, ht, ?_⟩⟩
  · have hrunning : u.running = true := by
      unfold State.running
      rw [hclock]
      exact hrun
    obtain ⟨h1, h2, h3, h4⟩ := trigger_starts (s := u) (b := b) (code := code) (hclock ▸ hpwr) hrunning (husnuff ▸ hnone)
    have hpos : u.lamp.tickPos = max s.lamp.tickPos pos := (congrArg (fun x : State => x.lamp.tickPos) hu :)
    rw [hsnuff, hdev, hintake, hplace, h1, h2, h3, h4, hpos, hclock]
    exact ⟨rfl, rfl, (congrArg State.intake hu :), (congrArg State.place hu :)⟩
  · obtain ⟨h1, h2, h3⟩ := trigger_meets (s := u) (b := b) (code := code) (hclock ▸ hpwr) (husnuff ▸ hsome)
    rw [hplace, hwick, hsnuff, h1, h2, h3, husnuff]
    exact ⟨(congrArg State.place hu :), (congrArg State.wick hu :), rfl⟩

/-- Settles O39: a wire's trigger acts on the state with the wire and the tick position taken, and no reset touches what the wires show. -/
theorem wiresTrigger : Obligations.WiresTrigger := by
  unfold Obligations.WiresTrigger
  intro s pos hpor
  extract_lets starts
  have hover := exec_brownOut (pos := pos) hpor true
  have hunder := exec_brownOut (pos := pos) hpor false
  rw [if_pos rfl] at hover
  rw [if_neg (by decide)] at hunder
  refine ⟨wire_starts (u := s.removed pos) rfl (exec_removalDetect hpor) (Or.inr rfl),
    wire_starts (u := (s.browned pos).dropCause .powerVinOv) rfl hunder (Or.inr rfl), ?_, ?_, fun b => ?_,
    if_neg (ne_true_of_eq_false hpor), rfl, rfl⟩
  · refine ⟨fun hpwr hrun => (wire_starts (wired_held hrun) hover (Or.inl rfl)).1 hpwr hrun,
      fun hpwr hrun => (wire_starts (wired_held hrun) hover (Or.inl rfl)).2 hpwr hrun⟩
  · have hwires := (armVin_wires _).trans (trigger_wires (s.removed pos) 4 1 true false)
    obtain ⟨-, -, -, -, -, hlamp⟩ := armVin_rest ((s.removed pos).trigger 4 1 true false)
    refine ⟨_, exec_removalDetect hpor, (congrArg (fun w => w.2.2.1) hwires :), (congrArg (fun w => w.2.2.2) hwires :), ?_⟩
    exact hlamp.trans (trigger_lamp ..)
  · have hwires : ∃ t, exec (.brownOut b pos) s = .next t ∧ t.wires = (s.browned pos).wires := by
      cases b with
      | false =>
        refine ⟨_, hunder, (armVin_wires _).trans ((trigger_wires ..).trans rfl)⟩
      | true =>
        have hheld : ((s.browned pos).holdCause .powerVinOv 0).wires = (s.browned pos).wires :=
          wires_of_power ((keeps_holdCause (L := { fault := true }) _ _ (.refl _ _) rfl).powerF rfl)
        exact ⟨_, hover, (trigger_wires ..).trans ((reportOv_wires _).trans hheld)⟩
    obtain ⟨t, ht, hwires⟩ := hwires
    exact ⟨t, ht, (congrArg (fun w => w.1) hwires :), (congrArg (fun w => w.2.1) hwires :)⟩

end Settle

end Sys2Proof.Machine

/-! # The flush and its end (R134, R272 to R282, R450) -/

namespace Sys2Proof.Machine
open Sys2Proof

/-! ### The ends of a flush (R272 steps 9 and 10, R450) -/

section Ends

variable {s : State}

/-- The parts that a change of DEV_STATE may write. -/
def Touch.devState : Touch := { clock := true, link := true, intake := true, host := true }

theorem setDev_keeps (s : State) (d : DevState) : Keeps .devState s (s.setDev d) := keeps_setDev d (Keeps.refl _ s) rfl rfl rfl rfl

/-- From s to t what a flush has written on flash stands, and FLUSH_BY; no trigger waits any more. -/
structure State.FlushKept (s t : State) : Prop where
  flushBy : t.clock.flushBy = s.clock.flushBy
  trigger : t.snuff.trigger = none
  snuff : t.journal.snuff = s.journal.snuff
  anchors : t.wick.anchors = s.wick.anchors

theorem mainDown_kept (s : State) : s.FlushKept s.mainDown ∧ s.mainDown.clock.mainPwr = false ∧ s.mainDown.clock.mainOn = false := by
  have hrails : (s.mainReset true).railsDown = { s.mainReset true with power := (s.mainReset true).railsDown.power } :=
    (keeps_railsDown (Keeps.refl { power := true } (s.mainReset true)) rfl).frame
  unfold State.mainDown
  dsimp only
  rw [hrails]
  exact ⟨⟨rfl, rfl, rfl, rfl⟩, rfl, rfl⟩

theorem vauxCheck_eq (s : State) : ∃ por, s.vauxCheck = s.onClock fun c => { c with vauxPor := por } := by
  unfold State.vauxCheck
  split
  · exact ⟨true, rfl⟩
  · exact ⟨s.clock.vauxPor, rfl⟩

theorem setDev_kept (s : State) (d : DevState) (h : s.snuff.trigger = none) : s.FlushKept (s.setDev d) := by
  have hk := setDev_keeps s d
  refine ⟨?_, (congrArg SnuffState.trigger (hk.snuffF rfl)).trans h, congrArg JournalState.snuff (hk.journalF rfl),
    congrArg WickState.anchors (hk.wickF rfl)⟩
  rw [setDev_clock]

theorem State.FlushKept.trans {t u : State} (h : s.FlushKept t) (k : t.FlushKept u) : s.FlushKept u :=
  ⟨k.flushBy.trans h.flushBy, k.trigger, k.snuff.trans h.snuff, k.anchors.trans h.anchors⟩

/-- The main domain has gone down: DEV_STATE shows SNUFFED. -/
theorem snuffed_ends {m : State} (hdown : s.FlushKept m) (hpwr : m.clock.mainPwr = false) (hon : m.clock.mainOn = false) :
    s.FlushKept (m.setDev .snuffed).vauxCheck ∧ (m.setDev .snuffed).vauxCheck.clock.dev = .snuffed ∧
      (m.setDev .snuffed).vauxCheck.clock.mainPwr = false ∧ (m.setDev .snuffed).vauxCheck.clock.mainOn = false := by
  have hdev := hdown.trans (setDev_kept m .snuffed hdown.trigger)
  have hclock : (m.setDev .snuffed).clock = { m.clock with dev := .snuffed } := setDev_clock _ _
  obtain ⟨por, hend⟩ := vauxCheck_eq (m.setDev .snuffed)
  rw [hend]
  generalize m.setDev .snuffed = u at hdev hclock ⊢
  exact ⟨⟨hdev.flushBy, hdev.trigger, hdev.snuff, hdev.anchors⟩, (congrArg ClockState.dev hclock :),
    (congrArg ClockState.mainPwr hclock :).trans hpwr, (congrArg ClockState.mainOn hclock :).trans hon⟩

/-- Steps 9 and 10: the main domain is off, and DEV_STATE shows SNUFFED. -/
theorem flushEnd_ends (s : State) : s.FlushKept (s.flushEnd false) ∧ (s.flushEnd false).clock.dev = .snuffed ∧
    (s.flushEnd false).clock.mainPwr = false ∧ (s.flushEnd false).clock.mainOn = false := by
  obtain ⟨hdown, hpwr, hon⟩ := mainDown_kept s
  have hflush : s.flushEnd false = (s.mainDown.setDev .snuffed).vauxCheck := congrArg State.vauxCheck (if_neg Bool.false_ne_true)
  rw [hflush]
  exact snuffed_ends hdown hpwr hon

/-- The recovery that a flush ends in where VIN stays. -/
theorem flushRecover_ends (s : State) : s.FlushKept s.flushRecover ∧ s.flushRecover.clock.dev = .recover ∧
    s.flushRecover.clock.mainPwr = s.clock.mainPwr ∧ s.flushRecover.clock.snuffMount = true := by
  have hreset : ∃ u : State, s.FlushKept u ∧ u.clock.mainPwr = s.clock.mainPwr ∧ u.clock.snuffMount = true ∧
      s.flushRecover = ((u.setDev .recover).unwrapKey).onHost fun h => { h with training := !h.perst } :=
    ⟨(s.mainReset false).onClock fun c => { c with
      mainOn := true, filled := true, snuffMount := true, phase := .done, step := 2, fwUp := true }, ⟨rfl, rfl, rfl, rfl⟩, rfl, rfl, rfl⟩
  obtain ⟨u, hkept, hpwr, hmount, hrecover⟩ := hreset
  have hkey : (u.setDev .recover).unwrapKey = { u.setDev .recover with intake := (u.setDev .recover).unwrapKey.intake } :=
    (keeps_unwrapKey (Keeps.refl { intake := true } (u.setDev .recover)) rfl).frame
  have hdev := hkept.trans (setDev_kept u .recover hkept.trigger)
  have hclock : (u.setDev .recover).clock = { u.clock with dev := .recover } := setDev_clock _ _
  rw [hrecover, hkey]
  generalize u.setDev .recover = v at hdev hclock ⊢
  refine ⟨⟨hdev.flushBy, hdev.trigger, hdev.snuff, hdev.anchors⟩, (congrArg ClockState.dev hclock :), ?_, ?_⟩
  · exact (congrArg ClockState.mainPwr hclock :).trans hpwr
  · exact (congrArg ClockState.snuffMount hclock :).trans hmount

end Ends

/-! ### What a flush writes (R277 to R279) -/

section Writes

variable {s : State} {b : Nat} {rest : List Nat}

/-- The state whose pending data a flush writes: s, with its first steps taken, and the wick array and the collector as failed copies left
them. -/
def State.flushing (s : State) (code : BitVec 3) (fault : FaultState) (wick : WickState) (power : PowerState) : State :=
  { s with
    clock := { s.clock with flushBy := code }, fault := fault, wick := wick, power := power
    intake := { s.intake with credits := 0, hdrCredits := 0, reserved := 0, unacked := [] } }

/-- A piece that a flush writes lies in the Tun, with the bytes accepted of it. -/
theorem acceptedPart_mem {p q : Piece} (h : s.acceptedPart p = some q) (hin : p.inTun = true) : q.inTun = true ∧
    (q.unit = none → q.epoch = (s.stream q.stream).epoch → q.off + q.data.length ≤ (s.stream q.stream).accept) := by
  unfold State.acceptedPart at h
  split at h
  · next u hu =>
    split at h
    · cases h
    · cases h
      exact ⟨hin, fun hnone => absurd (hu.symm.trans hnone) (Option.some_ne_none u)⟩
  · dsimp only at h
    split at h
    · next hall =>
      cases h
      exact ⟨hin, fun _ hepoch => hall.resolve_left (fun hne => hne hepoch)⟩
    · split at h
      · cases h
      · next hshort =>
        cases h
        refine ⟨hin, fun _ _ => ?_⟩
        dsimp only
        rw [List.length_take]
        omega

theorem snuffPending_mem {q : Piece} (h : q ∈ s.snuffPending) : q.inTun = true ∧
    (q.unit = none → q.epoch = (s.stream q.stream).epoch → q.off + q.data.length ≤ (s.stream q.stream).accept) := by
  obtain ⟨p, hp, hpart⟩ := List.mem_filterMap.mp (List.mem_filter.mp h).1
  exact acceptedPart_mem hpart (List.mem_filter.mp hp).2

theorem snuffPending_back (h : s.writeThrough = false) :
    s.snuffPending = (s.place.pieces.filter fun p => p.inTun).filterMap s.acceptedPart := by
  unfold State.snuffPending
  rw [h]
  exact List.filter_eq_self.mpr fun _ _ => rfl

/-- A programmed pair adds its two anchors, which are alike but for their places (R131). -/
theorem writePair_anchors (s : State) (gen head : Nat) (snuff : Bool) (band : Option Nat) :
    (s.writePair gen snuff head band).wick.anchors = s.composeAnchor gen false snuff head band ::
      (s.composeAnchor gen false snuff head band).copy (s.wick.slotPlace true) :: s.wick.anchors := by
  obtain ⟨used, a, b, h⟩ := useSlots_eq s.wick false 1
  obtain ⟨used', a', b', h'⟩ := useSlots_eq { s.wick with usedP := used, slotA := a, slotBp := b } true 1
  unfold State.writePair State.onWick
  dsimp only
  rw [h, h']
  rfl

theorem topGen_congr {s t : State} (h : t.wick = s.wick) : t.topGen = s.topGen := by
  unfold State.topGen
  rw [h]

/-- With a snuff band held, a flush writes its image, and an anchor pair of the next generation that names the band. -/
theorem flushing_writes {b : Nat} {rest : List Nat} {code : BitVec 3} {f : FlushIn} {wick : WickState} {fault : FaultState}
    {power : PowerState} {head : Nat} : ∃ t : State, ((((s.flushing code fault wick power).snuffRows f (s.snuffImage code f (b :: rest))).onJournal
        fun j => { j with snuff := some (s.snuffImage code f (b :: rest)) }).writePair
          ((s.flushing code fault wick power).topGen + 1) true head (some b)).onClock
            (fun c => { c with vauxAlt := c.vauxAlt && !c.vauxPin }) = t ∧
      t.clock.flushBy = code ∧ t.clock.mainPwr = s.clock.mainPwr ∧ t.journal.snuff = some (s.snuffImage code f (b :: rest)) ∧
      ∃ a p, t.wick.anchors = a :: a.copy p :: wick.anchors ∧ a.snuff = true ∧ a.copyB = false ∧
        a.gen = (s.flushing code fault wick power).topGen + 1 ∧ a.snuffLoc = some b := by
  have hrows := (keeps_snuffRows f (s.snuffImage code f (b :: rest)) (Keeps.refl { fault := true, media := true, place := true, health := true }
    (s.flushing code fault wick power)) rfl rfl rfl rfl).frame
  have hgo : (s.flushing code fault wick power).wick = wick ∧ (s.flushing code fault wick power).clock = { s.clock with flushBy := code } :=
    ⟨rfl, rfl⟩
  generalize s.snuffImage code f (b :: rest) = img at hrows ⊢
  generalize s.flushing code fault wick power = v at hrows hgo ⊢
  obtain ⟨hwick, hclock⟩ := hgo
  have hrowsWick : (v.snuffRows f img).wick = wick := (congrArg State.wick hrows :).trans hwick
  have hrowsClock : (v.snuffRows f img).clock = { s.clock with flushBy := code } := (congrArg State.clock hrows :).trans hclock
  generalize v.snuffRows f img = w at hrowsWick hrowsClock ⊢
  generalize hx : w.onJournal _ = x
  have hxJournal : x.journal.snuff = some img := by rw [← hx]; rfl
  have hxWick : x.wick = wick := by rw [← hx]; exact hrowsWick
  have hxClock : x.clock = { s.clock with flushBy := code } := by rw [← hx]; exact hrowsClock
  have hanchors := writePair_anchors x (v.topGen + 1) head true (some b)
  have hpair := (keeps_writePair (v.topGen + 1) true head (some b) (Keeps.refl { wick := true } x) rfl).frame
  rw [hxWick] at hanchors
  generalize x.writePair (v.topGen + 1) true head (some b) = y at hanchors hpair ⊢
  have hyClock : y.clock = { s.clock with flushBy := code } := (congrArg State.clock hpair :).trans hxClock
  have hyJournal : y.journal.snuff = some img := (congrArg (fun y : State => y.journal.snuff) hpair :).trans hxJournal
  exact ⟨_, rfl, (congrArg ClockState.flushBy hyClock :), (congrArg ClockState.mainPwr hyClock :), hyJournal, _, _, hanchors, rfl, rfl, rfl,
    rfl⟩

/-- What the flush of a state writes: FLUSH_BY, and with a snuff band held its image and an anchor pair of the next generation. -/
theorem flushWrite_writes {u : State} {code : BitVec 3} {f : FlushIn} {wick : WickState} {fault : FaultState} {power : PowerState}
    (hu : u = { s with fault := fault, wick := wick, power := power }) :
    (u.flushWrite code f).clock.flushBy = code ∧ (u.flushWrite code f).clock.mainPwr = s.clock.mainPwr ∧
    ∀ b rest, s.snuffBands = b :: rest → (u.flushWrite code f).journal.snuff = some (s.snuffImage code f (b :: rest)) ∧
      ∃ a p, (u.flushWrite code f).wick.anchors = a :: a.copy p :: wick.anchors ∧ a.snuff = true ∧ a.copyB = false ∧
        a.gen = u.topGen + 1 ∧ a.snuffLoc = some b := by
  have htop : (s.flushing code fault wick power).topGen = u.topGen := topGen_congr (s := u) (by rw [hu]; rfl)
  have hwrite : u.flushWrite code f = match s.snuffBands with
      | [] => s.flushing code fault wick power
      | b :: rest => ((((s.flushing code fault wick power).snuffRows f (s.snuffImage code f (b :: rest))).onJournal
          fun j => { j with snuff := some (s.snuffImage code f (b :: rest)) }).writePair
            ((s.flushing code fault wick power).topGen + 1) true
              (match (s.flushing code fault wick power).newestAnchor false with
                | some a => a.headSeq
                | none => (s.flushing code fault wick power).journal.newestCp.getD 0) (some b)).onClock
            fun c => { c with vauxAlt := c.vauxAlt && !c.vauxPin } := by
    subst hu
    rfl
  rw [hwrite]
  cases hbands : s.snuffBands with
  | nil => exact ⟨rfl, rfl, nofun⟩
  | cons b rest =>
    obtain ⟨t, ht, hby, hpwr, himage, a, p, hanchors, hsnuff, hcopy, hgen, hloc⟩ := flushing_writes (s := s) (b := b) (rest := rest)
      (code := code) (f := f) (wick := wick) (fault := fault) (power := power)
    dsimp only
    rw [ht]
    refine ⟨hby, hpwr, fun b' rest' heq => ?_⟩
    obtain ⟨rfl, rfl⟩ := List.cons.inj heq
    exact ⟨himage, a, p, hanchors, hsnuff, hcopy, hgen.trans (congrArg (· + 1) htop), hloc⟩

end Writes

section Settle

variable {s : State} {f : FlushIn}

theorem exec_snufferFlush {code : BitVec 3} (hcode : s.snuff.trigger = some code) (hstarts : s.flushStarts = true)
    (hidle : s.link.run = none) : exec (.snufferFlush f) s = .next (((s.failCopies false f.failA).failCopies true f.failB).flush f) := by
  show execSnufferFlush f s = _
  unfold execSnufferFlush
  rw [if_neg (by simp [hcode, hstarts]), finishRun_idle hidle]

/-- Failed copies of the anchor pair change the array and the collector alone (R424). -/
theorem failCopies_frame (s : State) (a b : Nat) : ∃ fault wick,
    (s.failCopies false a).failCopies true b = { s with fault := fault, wick := wick } := by
  have hk := keeps_failCopies _ true b (keeps_failCopies s false a (Keeps.refl { fault := true, wick := true } s) rfl rfl) rfl rfl
  exact ⟨_, _, hk.frame⟩

/-- The flush of a trigger that no reset follows and no halt ends. -/
theorem flush_eq {code : BitVec 3} (hcode : s.snuff.trigger = some code) (hhalt : s.snuff.endHalt = false) (hafter : s.snuff.after = none) :
    s.flush f = if s.snuff.keepVin then (s.flushWrite code f).flushRecover
      else ((s.onPower PowerState.onBank).flushWrite code f).flushEnd false := by
  unfold State.flush
  rw [hcode]
  dsimp only
  rw [hafter, hhalt]
  cases s.snuff.keepVin <;> simp

/-- What stands after a flush, whatever it ends in. -/
theorem flush_leaves {u t : State} {code : BitVec 3} {wick : WickState} {fault : FaultState} {power : PowerState}
    (hu : u = { s with fault := fault, wick := wick, power := power }) (hkept : (u.flushWrite code f).FlushKept t) :
    t.clock.flushBy = code ∧ t.snuff.trigger = none ∧
    (∀ b rest, s.snuffBands = b :: rest → (∃ img, t.journal.snuff = some img ∧ img.trigger = code ∧ img.cycle = s.lamp.cycle ∧
        img.tickPos = s.snuff.trigPos ∧ img.pieces = s.snuffPending ∧ img.dir = s.snuffDir (s.firstCap f b) ∧
        img.bands = (if s.snuffCodewords ≤ s.firstCap f b then [b] else b :: rest.take 1) ∧
        (∀ p ∈ img.pieces, p.inTun = true ∧ (p.unit = none → p.epoch = (s.stream p.stream).epoch →
          p.off + p.data.length ≤ (s.stream p.stream).accept)) ∧
        (s.writeThrough = false → img.pieces = (s.place.pieces.filter fun p => p.inTun).filterMap s.acceptedPart) ∧
        ∀ tail, s.journal.tail = some tail → img.tail = tail) ∧
      (wick = s.wick → ∃ a p, t.wick.anchors = a :: { a with copyB := true, place := p } :: s.wick.anchors ∧ a.snuff = true ∧
        a.copyB = false ∧ a.gen = s.topGen + 1 ∧ a.snuffLoc = some b)) := by
  obtain ⟨hby, -, hbands⟩ := flushWrite_writes (f := f) (code := code) hu
  refine ⟨hkept.flushBy.trans hby, hkept.trigger, fun b rest hb => ?_⟩
  obtain ⟨himage, a, p, hanchors, hsnuff, hcopy, hgen, hloc⟩ := hbands b rest hb
  refine ⟨⟨_, hkept.snuff.trans himage, rfl, rfl, rfl, rfl, rfl, rfl, fun _ => snuffPending_mem, snuffPending_back, fun tail htail => ?_⟩,
    fun hwick => ?_⟩
  · show s.journal.tail.getD _ = tail
    rw [htail]
    rfl
  · have htop : u.topGen = s.topGen := topGen_congr (by rw [hu, hwick])
    exact ⟨a, p, hwick ▸ hkept.anchors.trans hanchors, hsnuff, hcopy, htop ▸ hgen, hloc⟩

/-- Settles O40: the flush writes its image of the state, and either end keeps what is written. -/
theorem flushWrites : Obligations.FlushWrites := by
  unfold Obligations.FlushWrites
  refine fun s code f hcode hhalt hafter hidle => ⟨fun hstarts => ?_, fun hstarts => ?_, ?_⟩
  · show execSnufferFlush f s = _
    exact if_pos (by simp [hstarts])
  · rw [exec_snufferFlush hcode hstarts hidle]
    have hnone : f.failA = 0 → f.failB = 0 → (s.failCopies false f.failA).failCopies true f.failB = s := fun ha hb => by
      rw [ha, hb]
      rfl
    obtain ⟨fault, wick, hu⟩ := failCopies_frame s f.failA f.failB
    generalize (s.failCopies false f.failA).failCopies true f.failB = u at hu hnone ⊢
    have hsnuff : u.snuff = s.snuff := (congrArg State.snuff hu :)
    have hwick : u = s → wick = s.wick := fun h => (congrArg State.wick hu :).symm.trans (congrArg State.wick h)
    rw [flush_eq (f := f) (hsnuff ▸ hcode) (hsnuff ▸ hhalt) (hsnuff ▸ hafter), hsnuff]
    cases hkeep : s.snuff.keepVin with
    | true =>
      obtain ⟨hkept, hdev, hpwr, hmount⟩ := flushRecover_ends (u.flushWrite code f)
      have hu' : u = { s with fault := fault, wick := wick, power := s.power } := hu
      obtain ⟨hby, htrigger, hleft⟩ := flush_leaves hu' hkept
      obtain ⟨-, hwrite, -⟩ := flushWrite_writes (f := f) (code := code) hu'
      rw [if_pos rfl]
      exact ⟨_, rfl, hby, htrigger, fun b rest hb => ⟨(hleft b rest hb).1, fun ha hb' => (hleft b rest hb).2 (hwick (hnone ha hb'))⟩,
        nofun, fun _ => ⟨hdev, hpwr.trans hwrite, hmount⟩⟩
    | false =>
      obtain ⟨hkept, hdev, hpwr, hon⟩ := flushEnd_ends ((u.onPower PowerState.onBank).flushWrite code f)
      have hu' : u.onPower PowerState.onBank = { s with fault := fault, wick := wick, power := s.power.onBank } := by
        rw [hu]
        rfl
      obtain ⟨hby, htrigger, hleft⟩ := flush_leaves hu' hkept
      rw [if_neg Bool.false_ne_true]
      exact ⟨_, rfl, hby, htrigger, fun b rest hb => ⟨(hleft b rest hb).1, fun ha hb' => (hleft b rest hb).2 (hwick (hnone ha hb'))⟩,
        fun _ => ⟨hdev, hpwr, hon⟩, nofun⟩
  · have hend : s.flushAbort = (s.onClock fun c => { c with flushBy := code }).flushEnd false := by
      unfold State.flushAbort
      rw [hcode, hhalt]
    obtain ⟨hkept, hdev, hpwr, -⟩ := flushEnd_ends (s.onClock fun c => { c with flushBy := code })
    refine ⟨_, congrArg Host.Outcome.next hend, hdev, hpwr, hkept.flushBy, hkept.anchors, hkept.snuff⟩

end Settle

end Sys2Proof.Machine

/-! # Resets, power states and training of the port (R81, R294, R314 to R317) -/

namespace Sys2Proof.Machine
open Sys2Proof

/-! ### What a port reset and a Function Level Reset clear (R314) -/

section Resets

variable {s t : State}

/-- An OPEN stream drains, and keeps its frontier. -/
theorem drainOpen_stream (h : twf Stream.none s.intake.streams = true) (i : Nat) :
    (s.drainOpen.stream i).st = (if (s.stream i).st = .open then .draining else (s.stream i).st) ∧
      (s.drainOpen.stream i).front = (s.stream i).front := by
  have hmap : s.drainOpen.stream i = (fun (_ : Nat) (e : Stream) =>
      if e.st = .open then { e with st := .draining, mirrorDue := e.mirrorDue || (e.mirrorEn && s.host.mirrorBase != 0) } else e) i (s.stream i) :=
    tget_tmap Stream.none _ s.intake.streams i rfl h
  rw [hmap]
  dsimp only
  split <;> exact ⟨rfl, rfl⟩

/-- What both resets leave: configuration and BAR2 at their defaults, the set's mailbox values kept, OPEN streams drained. -/
structure State.PortCleared (s t : State) : Prop where
  config : t.host.mse = false ∧ t.host.bme = false ∧ t.host.ctl = DevCtl.reset ∧ t.host.mps = 128 ∧ t.host.mrrs = 512 ∧ t.host.msixOn = false
  setup : t.host.sqs = [] ∧ t.host.cqs = [] ∧ t.host.active = [] ∧ t.host.mirBase = 0 ∧ t.host.d3hot = false
  kept : t.host.mailbox = s.host.mailbox ∧ t.host.mp = s.host.mp
  streams : ∀ i, (t.stream i).st = (if (s.stream i).st = .open then .draining else (s.stream i).st) ∧ (t.stream i).front = (s.stream i).front

theorem portReset_cleared (h : twf Stream.none s.intake.streams = true) : s.PortCleared s.portReset :=
  ⟨⟨rfl, rfl, rfl, rfl, rfl, rfl⟩, ⟨rfl, rfl, rfl, rfl, rfl⟩, ⟨rfl, rfl⟩, fun i => drainOpen_stream (s := (s.onHost fun h => { h.configReset.setupClear with
    dlActive := false, training := false, d3hot := false, marksDue := [] }).onIntake fun i => { i with
      credits := 0, hdrCredits := 0, advertised := false, reserved := 0 }) h i⟩

theorem functionReset_cleared (h : twf Stream.none s.intake.streams = true) : s.PortCleared s.functionReset :=
  ⟨⟨rfl, rfl, rfl, rfl, rfl, rfl⟩, ⟨rfl, rfl, rfl, rfl, rfl⟩, ⟨rfl, rfl⟩, fun i => drainOpen_stream (s := (s.onHost fun h => { h.configReset.setupClear with
    d3hot := false, marksDue := [] }).onIntake fun i => { i with reserved := 0 }) h i⟩

/-- The clauses as the obligation lists them. -/
theorem State.PortCleared.all (h : s.PortCleared t) : t.host.mse = false ∧ t.host.bme = false ∧ t.host.ctl = DevCtl.reset ∧ t.host.mps = 128 ∧
    t.host.mrrs = 512 ∧ t.host.msixOn = false ∧ t.host.sqs = [] ∧ t.host.cqs = [] ∧ t.host.active = [] ∧ t.host.mirBase = 0 ∧
    t.host.d3hot = false ∧ t.host.mailbox = s.host.mailbox ∧ t.host.mp = s.host.mp ∧
    ∀ i, (t.stream i).st = (if (s.stream i).st = .open then .draining else (s.stream i).st) ∧ (t.stream i).front = (s.stream i).front := by
  obtain ⟨⟨hmse, hbme, hctl, hmps, hmrrs, hmsix⟩, ⟨hsqs, hcqs, hactive, hmir, hd3⟩, ⟨hmailbox, hmp⟩, hstreams⟩ := h
  exact ⟨hmse, hbme, hctl, hmps, hmrrs, hmsix, hsqs, hcqs, hactive, hmir, hd3, hmailbox, hmp, hstreams⟩

theorem exec_perstAssert (hpor : s.clock.vauxPor = false) (hmain : s.clock.mainOn = true) :
    exec .perstAssert s = .next ((s.onHost fun h => { h with perst := true }).resetSource 5).portReset := by
  show execPerstAssert s = _
  unfold execPerstAssert
  dsimp only
  rw [hpor, hmain]
  rfl

theorem exec_perstDeassert (hup : s.hostUp = true) (hperst : s.host.perst = true) :
    exec .perstDeassert s = .next { s with host := { s.host with perst := false, training := true } } := by
  show execPerstDeassert s = _
  unfold execPerstDeassert
  simp [State.onHost, hup, hperst]

/-- The reset of a lost link, which trains again where PERST# allows it. -/
def State.linkLost (s : State) : State := s.portReset.onHost fun h => { h with training := !h.perst }

theorem exec_surpriseDown {k : LinkLoss} (hup : s.hostUp = true) (hactive : s.host.dlActive = true) :
    exec (.surpriseDown k) s = .next ((s.linkLost.count32 0x2C 1).holdCause .hostLinkDown (detail [(2, lossCode k)])) := by
  show execSurpriseDown k s = _
  unfold execSurpriseDown
  rw [hup, hactive]
  rfl

end Resets

/-! ### The marks that wait, and training (R294, R313, R317) -/

section Training

variable {s : State}

/-- Requests that are issued join the port's output, one each. -/
theorem foldl_issue {β : Type} (f : State → β → Upstream) (l : List β) (s : State) :
    ∃ o, l.foldl (fun t m => t.issue (f t m)) s = s.onHost (fun h => { h with out := h.out ++ o }) ∧ o.length = l.length := by
  induction l generalizing s with
  | nil => exact ⟨[], by simp [State.onHost], rfl⟩
  | cons m l ih =>
    obtain ⟨o, ho, hlen⟩ := ih (s.issue (f s m))
    refine ⟨f s m :: o, ?_, congrArg (· + 1) hlen⟩
    rw [List.foldl_cons, ho]
    simp [State.issue, State.onHost]

/-- The marks are posted where the port may issue them, and only output and marks change. -/
theorem sendMarks_eq (s : State) : ∃ out marks, s.sendMarks = { s with host := { s.host with out := out, marksDue := marks } } ∧
    (s.upstreamOpen = true → marks = [] ∧ out.length = s.host.out.length + s.host.marksDue.length) := by
  unfold State.sendMarks
  split
  · obtain ⟨o, ho, hlen⟩ := foldl_issue (fun t (m : Nat × List Byte) =>
      .sealMark (tget 0 t.host.peerAddr m.1 + 0x3000 + 16 * BitVec.ofNat 64 t.link.member) m.2) s.host.marksDue s
    refine ⟨s.host.out ++ o, [], ?_, fun _ => ⟨rfl, by rw [List.length_append, hlen]⟩⟩
    rw [ho]
    rfl
  · next hclosed => exact ⟨s.host.out, s.host.marksDue, rfl, fun hopen => absurd hopen hclosed⟩

theorem exec_d0Return (hup : s.portUp = true) : exec .d0Return s = .next (s.onHost fun h => { h with d3hot := false }).sendMarks := if_pos hup

theorem exec_trainFail (hup : s.hostUp = true) (htraining : s.host.training = true) (hperst : s.host.perst = false) :
    exec .trainFail s = .next (s.assertError .hostTrainFail 0) := if_pos (by simp [hup, htraining, hperst])

theorem exec_dlActive (hup : s.hostUp = true) (htraining : s.host.training = true) (hperst : s.host.perst = false)
    (hadvertised : s.intake.advertised = true) (hcan : s.canTrain = true) : exec .dlActive s =
      .next ((s.onHost fun h => { h with dlActive := true, training := false }).dropCause .hostLinkDown).sendMarks :=
  if_pos (by simp [hup, htraining, hperst, hadvertised, hcan])

/-- An asserted error waits in its unit's record, where the unit has power. -/
theorem assertError_waiting {c : Cause} {d : BitVec 56} (h : s.clock.mainOn = true) :
    ((s.assertError c d).unit (causeUnit c)).waiting ≠ none := by
  rw [assertError_eq, if_neg (by simp [h]), modUnit_unit_same]
  unfold UnitFault.hold
  split
  · exact nofun
  · next hwait => rw [hwait]; exact nofun

theorem dropCause_held (s : State) (c : Cause) (d : BitVec 56) : (c, d) ∉ ((s.dropCause c).unit (causeUnit c)).held := by
  unfold State.dropCause
  rw [modUnit_unit_same]
  intro h
  simpa using (List.mem_filter.mp h).2

end Training

/-- Settles O41: both resets by what they clear, the link's loss with its count and its cause, and the marks by the one rule that posts
them. -/
theorem portResets : Obligations.PortResets := by
  unfold Obligations.PortResets
  intro s hinv hpor
  extract_lets cleared
  obtain ⟨hwf, -⟩ := hinv
  have hmainOf : s.hostUp = true → s.clock.mainOn = true := fun h => (Bool.and_eq_true_iff.mp h).1
  refine ⟨fun hmain => ?_, fun hup hperst => exec_perstDeassert hup hperst, fun k hup hactive => ?_, fun hup => ?_, fun hup => ⟨if_pos hup, ?_⟩,
    fun hup htraining hperst => ⟨?_, fun hadvertised hcan => ?_⟩⟩
  · have hcleared := portReset_cleared (s := (s.onHost fun h => { h with perst := true }).resetSource 5) hwf
    exact ⟨_, exec_perstAssert hpor hmain, hcleared.all, rfl, rfl, rfl, rfl⟩
  · have hcleared : s.PortCleared s.linkLost := by
      obtain ⟨hconfig, hsetup, hkept, hstreams⟩ := portReset_cleared hwf
      exact ⟨hconfig, hsetup, hkept, hstreams⟩
    have hheld := (keeps_holdCause (L := { fault := true }) .hostLinkDown (detail [(2, lossCode k)])
      (Keeps.refl _ (s.linkLost.count32 0x2C 1)) rfl).frame
    have hcause := holdCause_held (s.linkLost.count32 0x2C 1) .hostLinkDown (detail [(2, lossCode k)])
    have hcount : (s.linkLost.count32 0x2C 1).hget 0x2C = min (s.hget 0x2C + 1) 0xFFFFFFFF := hget_count32_same s.linkLost 0x2C 1
    have hgo := exec_surpriseDown (k := k) hup hactive
    generalize (s.linkLost.count32 0x2C 1).holdCause .hostLinkDown (detail [(2, lossCode k)]) = t at hheld hcause hgo
    have hhost : t.host = s.linkLost.host := (congrArg State.host hheld :)
    have hintake : t.intake = s.linkLost.intake := (congrArg State.intake hheld :)
    have hhealth : t.hget 0x2C = (s.linkLost.count32 0x2C 1).hget 0x2C := (congrArg (State.hget · 0x2C) hheld :)
    have hcleared' : s.PortCleared t := by
      obtain ⟨hconfig, hsetup, hkept, hstreams⟩ := hcleared
      refine ⟨hhost ▸ hconfig, hhost ▸ hsetup, hhost ▸ hkept, fun i => ?_⟩
      unfold State.stream
      rw [hintake]
      exact hstreams i
    exact ⟨t, hgo, hcleared'.all, hhost ▸ rfl, hhost ▸ rfl, hintake ▸ rfl, hhealth.trans hcount, _, hcause⟩
  · have hactive : s.host.dlActive = true := by
      simp only [State.portUp, Bool.and_eq_true] at hup
      exact hup.1.1.2
    exact ⟨_, if_pos hup, (functionReset_cleared hwf).all, hactive, rfl⟩
  · obtain ⟨out, marks, hsend, hopen⟩ := sendMarks_eq (s.onHost fun h => { h with d3hot := false })
    refine ⟨_, (exec_d0Return hup).trans (congrArg _ hsend), rfl, rfl, fun h => hopen h⟩
  · exact ⟨_, exec_trainFail hup htraining hperst, (keeps_assertError _ _ (Keeps.refl { fault := true } s) rfl).frame,
      assertError_waiting (hmainOf hup)⟩
  · obtain ⟨out, marks, hsend, -⟩ := sendMarks_eq ((s.onHost fun h => { h with dlActive := true, training := false }).dropCause .hostLinkDown)
    refine ⟨_, (exec_dlActive hup htraining hperst hadvertised hcan).trans (congrArg _ hsend), rfl, rfl, rfl, fun d => ?_⟩
    exact dropCause_held (s.onHost fun h => { h with dlActive := true, training := false }) .hostLinkDown d

end Sys2Proof.Machine

/-! # A head doorbell beyond its ring, and a submission ring that is in ERROR already -/

namespace Sys2Proof.Machine
open Sys2Proof

/-- A link at DL_Active with memory space enabled; completion ring 0 runs, and submission ring 0, which names it, was enabled with a base that
is not aligned: it is in ERROR with cause SETUP (R299, R302). -/
def setupFailed : State :=
  { State.reset with
    clock := { ClockState.reset with mainOn := true, mainPwr := true, vauxPor := false, pllFabric := ⟨true, false⟩, pllPcie := ⟨true, false⟩ }
    host := { HostState.reset with
      dlActive := true, mse := true
      sqs := [(0, { SRing.none with base := 0x800, entries := 16, cq := 0, enable := true, error := 1 })]
      cqs := [(0, { CRing.none with base := 0x1000, entries := 16, enable := true })] } }

/-- A head doorbell of 16, beyond the ring's entries, leaves the cause of the ring that is in ERROR already as it is. -/
theorem setupFailed_headDoorbell : ∃ t, exec (.headDoorbell 0 16) setupFailed = .next t ∧ (t.sq 0).error = 1 := ⟨_, rfl, by decide⟩

/-- Refutes O42: a head doorbell beyond the entries puts the rings that name the completion ring in ERROR with cause DOORBELL, but a ring that
is in ERROR already keeps the cause that it has. -/
theorem not_portWrites : ¬ Obligations.PortWrites := by
  unfold Obligations.PortWrites
  rintro ⟨h, -⟩
  obtain ⟨-, -, -, -, -, -, hhead, -⟩ := h setupFailed (by decide)
  obtain ⟨t, hx, -, -, hall⟩ := hhead 0 16 (by decide)
  obtain ⟨u, hu, herror⟩ := setupFailed_headDoorbell
  have htu : t = u := Host.Outcome.next.inj (hx.symm.trans hu)
  have hdoorbell := hall (by decide) 0 (by decide) (by decide) (by decide)
  rw [htu] at hdoorbell
  exact absurd (herror.symm.trans hdoorbell) (by decide)

end Sys2Proof.Machine

/-! # Rings fetch, complete and signal (R302, R304, R305, R308, R309) -/

namespace Sys2Proof.Machine
open Sys2Proof

section Rings

variable {s : State} {i : Nat}

/-! ### One rule per operation on the rings -/

theorem sq_modSq_same (s : State) (i : Nat) (f : SRing → SRing) : (s.modSq i f).sq i = f (s.sq i) := tget_tset_same ..

theorem cq_modCq_same (s : State) (j : Nat) (f : CRing → CRing) : (s.modCq j f).cq j = f (s.cq j) := tget_tset_same ..

/-- A signal changes pending bits and adds to the port's output alone. -/
theorem signal_eq (s : State) (v : Nat) :
    ∃ pba o, s.signal v = { s with host := { s.host with pba := pba, out := s.host.out ++ o } } := by
  unfold State.signal
  split
  · exact ⟨s.host.pba, [], by rw [List.append_nil]⟩
  · split
    · exact ⟨s.host.pba ||| (1#64 <<< v), [], by rw [List.append_nil]; rfl⟩
    · exact ⟨s.host.pba, [.vector v], rfl⟩

/-- A vector that is not masked is issued where the port may issue it. -/
theorem signal_open {v : Nat} (hopen : s.upstreamOpen = true) (hon : s.host.msixOn = true) (hmask : s.host.vectorMasked v = false) :
    s.signal v = s.issue (.vector v) := by
  have hmain : s.clock.mainOn = true := by
    simp only [State.upstreamOpen, Bool.and_eq_true] at hopen
    exact hopen.1.1.1
  unfold State.signal
  rw [hmain, hon, hmask, hopen]
  rfl

theorem sqError_error (s : State) (i : Nat) (cause : BitVec 4) : ((s.sqError i cause).sq i).error = cause := by
  obtain ⟨pba, o, h⟩ := signal_eq (s.modSq i fun r => { r with error := cause }) 33
  unfold State.sqError
  rw [h]
  exact congrArg SRing.error (sq_modSq_same s i fun r => { r with error := cause })

/-! ### Fetch (R304, R305) -/

/-- The descriptor that a ring's bytes give (R305). -/
def State.fetched (s : State) (i : Nat) (b : List Byte) : HDesc :=
  (descOf s.host.nextId i (s.sq i).cq (if (s.sq i).entries = 0 then 0 else ((s.sq i).head + 1) % (s.sq i).entries) b).screened

/-- The state that a fetch leaves. -/
def State.afterFetch (s : State) (i : Nat) (b : List Byte) : State :=
  (s.modSq i fun r => { r with head := if (s.sq i).entries = 0 then 0 else ((s.sq i).head + 1) % (s.sq i).entries }).onHost fun h =>
    { h with lastRing := i, active := h.active ++ [s.fetched i b], nextId := h.nextId + 1 }

variable {b : List Byte}

theorem exec_descriptorFetch (hopen : s.upstreamOpen = true) (hup : s.hostUp = true) (hstate : s.fetchState = true)
    (hroom : s.host.active.length < 256) (hnext : s.nextRing = some i) (hlen : b.length = 32) :
    exec (.descriptorFetch (.ok b) false) s = .next (s.afterFetch i b) := by
  show execDescriptorFetch (.ok b) false s = _
  unfold execDescriptorFetch
  rw [if_neg (by simp [hopen, hup, hstate, hroom]), hnext]
  exact if_neg (fun h => h hlen)

theorem exec_descriptorFetch_failed (hopen : s.upstreamOpen = true) (hup : s.hostUp = true) (hstate : s.fetchState = true)
    (hroom : s.host.active.length < 256) (hnext : s.nextRing = some i) :
    exec (.descriptorFetch .failed false) s = .next ((s.onHost fun h => { h with lastRing := i }).sqError i 3) := by
  show execDescriptorFetch .failed false s = _
  unfold execDescriptorFetch
  rw [if_neg (by simp [hopen, hup, hstate, hroom]), hnext]

/-- A descriptor is screened by its status alone (R308). -/
theorem screened_eq (d : HDesc) : d.screened = { d with status := d.screened.status } := by
  unfold HDesc.screened
  split <;> rfl

theorem screened_status {d : HDesc} (h : d.status = none) :
    (d.lenOk = false ∨ d.badRes = true → d.screened.status = some 0x10) ∧ (d.lenOk = true → d.badRes = false → d.screened.status = none) := by
  unfold HDesc.screened
  refine ⟨fun hbad => ?_, fun hlen hres => ?_⟩
  · rw [if_pos (by rcases hbad with hbad | hbad <;> simp [hbad])]
    rfl
  · rw [if_neg (by simp [hlen, hres])]
    exact h

theorem leNat_lt (l : List Byte) : leNat l < 256 ^ l.length := by
  induction l with
  | nil => exact Nat.one_pos
  | cons x l ih =>
    have hx := x.isLt
    show x.toNat + 256 * leNat l < 256 ^ (l.length + 1)
    rw [Nat.pow_succ]
    omega

/-- A field of w bits takes the whole value of n bytes that it has room for. -/
theorem ofNat_leNat (l : List Byte) (n : Nat) {w : Nat} (hw : w = 8 * n) :
    (BitVec.ofNat w (leNat (l.take n))).toNat = leNat (l.take n) := by
  have hlt : leNat (l.take n) < 256 ^ n := Nat.lt_of_lt_of_le (leNat_lt _) (Nat.pow_le_pow_right (by decide) (List.length_take_le n l))
  rw [BitVec.toNat_ofNat, hw, Nat.pow_mul]
  exact Nat.mod_eq_of_lt hlt

/-! ### Completion (R308, R309) -/

/-- What a ring's entry adds to the output, and what it leaves of the descriptors. -/
theorem postEntry_eq (s : State) (d : HDesc) (st : Byte) : ∃ host, s.postEntry d st = { s with host := host } ∧
    host.active = (s.host.active.filter fun x => x.id ≠ d.id) ∧
    ∃ rest, host.out = s.host.out ++ (.completion ((s.cq d.cq).base + 16 * BitVec.ofNat 64 (s.cq d.cq).post)
      (d.entry st (s.cq d.cq).phase)) :: rest := by
  unfold State.postEntry
  dsimp only
  split
  · unfold State.signalRing
    generalize hu : State.modCq _ d.cq (fun c => { c with since := 0 }) = u
    have hframe : u = { s with host := u.host } := by rw [← hu]; rfl
    have hactive : u.host.active = s.host.active.filter fun x => x.id ≠ d.id := by rw [← hu]; rfl
    have hout : u.host.out = s.host.out ++ [.completion ((s.cq d.cq).base + 16 * BitVec.ofNat 64 (s.cq d.cq).post)
      (d.entry st (s.cq d.cq).phase)] := by rw [← hu]; rfl
    obtain ⟨pba, o, h⟩ := signal_eq u d.cq
    rw [hframe] at h
    refine ⟨{ u.host with pba := pba, out := u.host.out ++ o }, ?_, hactive, o, ?_⟩
    · rw [hframe]
      exact h
    · show u.host.out ++ o = _
      rw [hout, List.append_assoc]
      rfl
  · exact ⟨_, rfl, rfl, [], rfl⟩

theorem hdesc_id {id : Nat} {d : HDesc} (h : s.hdesc id = some d) : d.id = id := by
  have hfound := List.find?_some h
  simpa using hfound

theorem exec_completionPost {id : Nat} {d : HDesc} {st : Byte} (hopen : s.upstreamOpen = true) (hup : s.hostUp = true)
    (hd : s.hdesc id = some d) (hst : d.status = some st) (hawaits : d.awaits = []) :
    exec (.completionPost id) s = .next (s.postEntry d st) := by
  show execCompletionPost id s = _
  unfold execCompletionPost
  rw [hd]
  dsimp only
  rw [hst]
  exact if_pos (by simp [hopen, hup, hawaits])

end Rings

/-- Settles O43: the fetch by the descriptor that it adds, the completion by the entry that it issues, the coalescing time by its signal. -/
theorem ringsRun : Obligations.RingsRun := by
  unfold Obligations.RingsRun
  refine fun s hopen hup => ⟨fun i b hstate hroom hnext hlen => ⟨?_, ?_⟩, fun id d st hd hst hawaits => ?_, fun ring htime hsince hon hmask => ?_⟩
  · refine ⟨_, s.fetched i b, exec_descriptorFetch hopen hup hstate hroom hnext hlen, rfl, rfl, ?_⟩
    obtain ⟨hbad, hgood⟩ := screened_status (d := descOf s.host.nextId i (s.sq i).cq
      (if (s.sq i).entries = 0 then 0 else ((s.sq i).head + 1) % (s.sq i).entries) b) rfl
    have hfields := screened_eq (descOf s.host.nextId i (s.sq i).cq
      (if (s.sq i).entries = 0 then 0 else ((s.sq i).head + 1) % (s.sq i).entries) b)
    have hd : s.fetched i b = _ := hfields
    generalize s.fetched i b = d at hd hbad hgood
    refine ⟨by rw [hd]; rfl, by rw [hd]; rfl, by rw [hd]; rfl, by rw [hd]; rfl, ?_, ?_, ?_, rfl, ?_, ?_, ?_⟩
    · rw [hd]
      exact ofNat_leNat (b.drop 4) 4 rfl
    · rw [hd]
      exact ofNat_leNat (b.drop 8) 8 rfl
    · rw [hd]
      exact ofNat_leNat (b.drop 24) 8 rfl
    · exact congrArg SRing.head (sq_modSq_same s i fun r =>
        { r with head := if (s.sq i).entries = 0 then 0 else ((s.sq i).head + 1) % (s.sq i).entries })
    · rw [hd]
      exact hbad
    · rw [hd]
      exact hgood
  · exact ⟨_, exec_descriptorFetch_failed hopen hup hstate hroom hnext, sqError_error _ i 3⟩
  · obtain ⟨host, hpost, hactive, hout⟩ := postEntry_eq s d st
    refine ⟨_, (exec_completionPost hopen hup hd hst hawaits).trans (congrArg _ hpost), hout, fun x hx => ?_, rfl⟩
    have hkept := (List.mem_filter.mp (hactive ▸ hx)).2
    rw [hdesc_id hd] at hkept
    simpa using hkept
  · have hsignal : s.signalRing ring.toNat = (s.modCq ring.toNat fun c => { c with since := 0 }).issue (.vector ring.toNat) :=
      signal_open (s := s.modCq ring.toNat fun c => { c with since := 0 }) hopen hon hmask
    refine ⟨_, if_pos (by simp [hup, htime, hsince]), ?_, ?_, ?_⟩
    · rw [hsignal]
      rfl
    · rw [hsignal]
      exact congrArg CRing.since (cq_modCq_same s ring.toNat fun c => { c with since := 0 })
    · rw [hsignal]
      rfl

end Sys2Proof.Machine

/-! # READ_STREAM, READ_RANDOM and CASK_QUERY (R91, R103, R151, R218, R306, R308) -/

namespace Sys2Proof.Machine
open Sys2Proof

section Answers

variable {s : State} {id : Nat} {d : HDesc}

theorem foldl_issue_all (l : List Upstream) (s : State) :
    l.foldl State.issue s = { s with host := { s.host with out := s.host.out ++ l } } := by
  induction l generalizing s with
  | nil => simp
  | cons u l ih =>
    rw [List.foldl_cons, ih]
    simp [State.issue, State.onHost]

theorem sendData_eq (s : State) (a : BitVec 64) (bs : List Byte) : s.sendData a bs =
    { s with host := { s.host with out := s.host.out ++ dataWrites s.host.mps s.host.ctl.relaxed bs.length a bs } } := foldl_issue_all _ s

/-- A change of a descriptor shows at its own id. -/
theorem hdesc_modDesc {f : HDesc → HDesc} (hf : ∀ x, (f x).id = x.id) (hd : s.hdesc id = some d) :
    (s.modDesc id f).hdesc id = some (f d) := by
  have hsame : ((fun x => x.id == id) ∘ fun x : HDesc => if x.id = id then f x else x) = fun x : HDesc => x.id == id :=
    funext fun x => by by_cases hx : x.id = id <;> simp [hx, hf]
  show (s.host.active.map fun x => if x.id = id then f x else x).find? (fun x => x.id == id) = _
  rw [List.find?_map, hsame, show s.host.active.find? (fun x => x.id == id) = some d from hd, Option.map_some, if_pos (hdesc_id hd)]

theorem hdesc_of_ready {op : Byte} (h : s.ready id op = some d) : s.hdesc id = some d := by
  unfold State.ready at h
  split at h
  · cases h
  · split at h
    · next x hx =>
      split at h
      · cases h
        exact hx
      · cases h
    · cases h

/-- A descriptor ends with data: the writes that carry it join the output, and the descriptor holds status and count. -/
theorem gives {u : State} (hhost : u.host = s.host) (hd : s.hdesc id = some d) (bs : List Byte) (st : HStatus) (n : Nat) :
    ((u.sendData d.buffer bs).endDesc id st n) = { u with host := ((u.sendData d.buffer bs).endDesc id st n).host } ∧
    ((u.sendData d.buffer bs).endDesc id st n).host.out =
      s.host.out ++ dataWrites s.host.mps s.host.ctl.relaxed bs.length d.buffer bs ∧
    ∃ x, ((u.sendData d.buffer bs).endDesc id st n).hdesc id = some x ∧ x.status = some (hstatusCode st) ∧ x.count = n := by
  have hdu : (u.sendData d.buffer bs).hdesc id = some d := by
    rw [sendData_eq]
    show u.host.active.find? _ = _
    rw [hhost]
    exact hd
  refine ⟨?_, ?_, _, hdesc_modDesc (fun _ => rfl) hdu, rfl, rfl⟩
  · rw [sendData_eq]
    rfl
  · rw [sendData_eq, ← hhost]
    rfl

/-- A descriptor ends with no data. -/
theorem gives_none (hd : s.hdesc id = some d) (st : HStatus) (n : Nat) :
    s.endDesc id st n = { s with host := (s.endDesc id st n).host } ∧
    (s.endDesc id st n).host.out = s.host.out ++ dataWrites s.host.mps s.host.ctl.relaxed ([] : List Byte).length d.buffer [] ∧
    ∃ x, (s.endDesc id st n).hdesc id = some x ∧ x.status = some (hstatusCode st) ∧ x.count = n :=
  ⟨rfl, (List.append_nil _).symm, _, hdesc_modDesc (fun _ => rfl) hd, rfl, rfl⟩

/-! ### The commands -/

variable {back : List (Nat × Option (List Byte))}

theorem exec_readStream_refused {st : HStatus} (hd : s.ready id 1 = some d) (hst : s.streamCheck d = some st) :
    exec (.readStream id back) s = .next (s.endDesc id st 0) := by
  show execReadStream id back s = _
  unfold execReadStream
  rw [hd]
  dsimp only
  rw [hst]

/-- The state on which a READ_STREAM delivers: the run pages that it looked up are held. -/
def State.lookedUp (s : State) (d : HDesc) : State :=
  s.cachePages (s.lookupPages d.stream.toNat d.start.toNat (d.start.toNat + d.len.toNat))

theorem exec_readStream (hd : s.ready id 1 = some d) (hst : s.streamCheck d = none)
    (hreads : s.hostReads (s.streamReads d.stream.toNat d.start.toNat (d.start.toNat + d.len.toNat)) = true) :
    exec (.readStream id back) s = .next (
      let bs := s.streamBytes d.stream.toNat d.start.toNat d.len.toNat back
      let k := (d.start.toNat + bs.length) / 4096 * 4096 - d.start.toNat
      if bs.length = d.len.toNat then ((s.lookedUp d).sendData d.buffer bs).endDesc id .ok d.len.toNat
      else ((s.lookedUp d).sendData d.buffer (bs.take k)).endDesc id .dataError k) := by
  show execReadStream id back s = _
  unfold execReadStream
  rw [hd]
  dsimp only
  rw [hst]
  dsimp only
  rw [hreads, if_neg (by decide)]
  split <;> rfl

/-- From s to t the frames of the Grist are used: pages and states stand. -/
def State.framesUsed (s t : State) : Prop := (∃ fs n, t = { s with place := { s.place with frames := fs, useClock := n } }) ∧
  (∀ q, t.hasFrame q = s.hasFrame q) ∧ ∀ q, t.fetching q = s.fetching q

theorem framesUsed_refl (s : State) : s.framesUsed s := ⟨⟨s.place.frames, s.place.useClock, rfl⟩, fun _ => rfl, fun _ => rfl⟩

theorem framesUsed_useFrame (s : State) (p : Nat) : s.framesUsed (s.useFrame p) := by
  refine ⟨⟨_, _, rfl⟩, fun q => ?_, fun q => ?_⟩
  · show (s.place.frames.map _).any _ = s.place.frames.any _
    rw [List.any_map]
    refine congrArg (List.any s.place.frames) (funext fun f => ?_)
    by_cases hf : f.1 = p <;> simp [hf]
  · have hst : ∀ l : Sparse GFrame, (tget frameNone (l.map fun f =>
        if f.1 = p then (p, { f.2 with used := s.place.useClock + 1 }) else f) q).st = (tget frameNone l q).st := fun l => by
      induction l with
      | nil => rfl
      | cons f l ih =>
        obtain ⟨k, v⟩ := f
        by_cases hk : k = p
        · subst hk
          simp only [List.map_cons, if_pos, tget]
          split
          · rfl
          · exact ih
        · simp only [List.map_cons, if_neg hk, tget]
          split
          · rfl
          · exact ih
    exact congrArg (fun st => decide (st = FrameState.fetching)) (hst s.place.frames)

theorem framesUsed_trans {t u : State} (h : s.framesUsed t) (k : t.framesUsed u) : s.framesUsed u := by
  obtain ⟨⟨fs, n, rfl⟩, hhas, hfetch⟩ := h
  obtain ⟨⟨gs, m, rfl⟩, hhas', hfetch'⟩ := k
  exact ⟨⟨gs, m, rfl⟩, fun q => (hhas' q).trans (hhas q), fun q => (hfetch' q).trans (hfetch q)⟩

/-- Pages that the Grist holds are looked up with no miss. -/
theorem lookUp_held {ps : List Nat} (h : ∀ p ∈ ps, s.hasFrame p = true) : ∃ t, s.lookUp ps = some t ∧ s.framesUsed t := by
  induction ps generalizing s with
  | nil => exact ⟨s, rfl, framesUsed_refl s⟩
  | cons p ps ih =>
    obtain ⟨hp, hps⟩ := List.forall_mem_cons.mp h
    have hused := framesUsed_useFrame s p
    obtain ⟨t, ht, hsame⟩ := ih (s := s.useFrame p) fun q hq => (hused.2.1 q).trans (hps q hq)
    refine ⟨t, ?_, framesUsed_trans hused hsame⟩
    unfold State.lookUp
    rw [hp]
    exact ht

theorem exec_readRandom_range (hd : s.ready id 2 = some d) (hbad : s.unitsOk d = false) :
    exec (.readRandom id back) s = .next (s.endDesc id .range 0) := by
  show execReadRandom id back s = _
  unfold execReadRandom
  rw [hd]
  dsimp only
  rw [hbad]
  rfl

/-- Where a codeword lies does not depend on the Grist's frames. -/
theorem framesUsed_unitAt {t : State} (h : s.framesUsed t) : t.unitAt = s.unitAt := by
  obtain ⟨⟨fs, n, rfl⟩, -, -⟩ := h
  have hfind : ∀ (bands : List Nat) (m row u : Nat),
      State.findUnit { s with place := { s.place with frames := fs, useClock := n } } bands m row u = s.findUnit bands m row u :=
    fun bands m => by
      induction m with
      | zero => exact fun _ _ => rfl
      | succ m ih =>
        intro row u
        unfold State.findUnit
        simp only [ih]
        rfl
  funext l
  unfold State.unitAt
  simp only [hfind]
  rfl

/-- The state after the lookups gives the same units, and may read the same codewords. -/
theorem framesUsed_units {t : State} (h : s.framesUsed t) (us : List Nat) :
    t.unitRun back us = s.unitRun back us ∧ t.hostReads (t.unitReads us) = s.hostReads (s.unitReads us) ∧ t.host = s.host ∧
      t.place.pieces = s.place.pieces := by
  have hat := framesUsed_unitAt h
  obtain ⟨⟨fs, n, rfl⟩, -, -⟩ := h
  refine ⟨?_, ?_, rfl, rfl⟩
  · induction us with
    | nil => rfl
    | cons u us ih =>
      unfold State.unitRun
      rw [ih]
      rfl
  · unfold State.hostReads State.canRead
    rw [hat]
    rfl

theorem exec_readRandom (hd : s.ready id 2 = some d) (hok : s.unitsOk d = true) (hgrist : s.stopped .grist = false)
    (hframes : ∀ u, d.start.toNat ≤ u → u < d.start.toNat + d.len.toNat → s.hasFrame (unitLine u).1 = true ∧ s.fetching (unitLine u).1 = false)
    (hreads : s.hostReads (s.unitReads (List.range' d.start.toNat d.len.toNat)) = true) :
    ∃ t, s.framesUsed t ∧ exec (.readRandom id back) s = .next (
      let got := s.unitRun back (List.range' d.start.toNat d.len.toNat)
      if got.length = d.len.toNat then (t.sendData d.buffer got.flatten).endDesc id .ok d.len.toNat
      else (t.sendData d.buffer got.flatten).endDesc id .dataError (4096 * got.length)) := by
  have hpages : ∀ p ∈ ((List.range' d.start.toNat d.len.toNat).map fun u => (unitLine u).1).eraseDups,
      s.hasFrame p = true ∧ s.fetching p = false := fun p hp => by
    obtain ⟨u, hu, rfl⟩ := List.mem_map.mp (List.mem_eraseDups.mp hp)
    obtain ⟨hlo, hhi⟩ := List.mem_range'_1.mp hu
    exact hframes u hlo hhi
  obtain ⟨t, ht, hused⟩ := lookUp_held fun p hp => (hpages p hp).1
  obtain ⟨hrun, hsame, -, -⟩ := framesUsed_units (back := back) hused (List.range' d.start.toNat d.len.toNat)
  have hnone : (((List.range' d.start.toNat d.len.toNat).map fun u => (unitLine u).1).eraseDups.any t.fetching) = false := by
    rw [List.any_eq_false]
    intro p hp
    rw [hused.2.2, (hpages p hp).2]
    decide
  refine ⟨t, hused, ?_⟩
  show execReadRandom id back s = _
  unfold execReadRandom
  rw [hd]
  dsimp only
  rw [hok, hgrist, ht]
  dsimp only
  rw [hnone, hsame, hreads, hrun]
  rfl

/-- A unit that no piece writes is never written. -/
theorem unitPiece_none {u : Nat} (h : ∀ p ∈ s.place.pieces, p.unit ≠ some u) : s.unitPiece u = none :=
  foldl_of_fixed fun p hp => if_neg (h p hp)

theorem exec_caskQuery_none (hd : s.ready id 4 = some d) (hnone : s.caskOf d.start = none) :
    exec (.caskQuery id) s = .next (s.endDesc id .notHeld 0) := by
  show execCaskQuery id s = _
  unfold execCaskQuery
  rw [hd]
  dsimp only
  rw [hnone]

theorem exec_caskQuery {c : Cask} (hd : s.ready id 4 = some d) (hc : s.caskOf d.start = some c) (hup : s.stopped .media = false)
    (hcan : s.canUse 0x01 3 (s.caskUnits c) = true) : exec (.caskQuery id) s = .next (
      (s.sendData d.buffer (c.answer.take d.len.toNat)).endDesc id
        (if c.answer.length ≤ d.len.toNat then .ok else .okShort) (min d.len.toNat c.answer.length)) := by
  have hlen : (c.answer.take d.len.toNat).length = c.answer.length ↔ c.answer.length ≤ d.len.toNat := by
    rw [List.length_take]
    omega
  show execCaskQuery id s = _
  unfold execCaskQuery
  rw [hd]
  dsimp only
  rw [hc]
  dsimp only
  rw [hup, hcan, if_neg (by decide), ← List.length_take]
  simp only [hlen]

end Answers

/-- Settles O44: every command ends its descriptor with the data that it gives, on a state whose pieces are those before it. -/
theorem readsAnswer : Obligations.ReadsAnswer := by
  unfold Obligations.ReadsAnswer
  intro s id d back
  extract_lets answers gives' a bs k _ got
  refine ⟨fun hd => ⟨fun st hst => ?_, fun hst hreads => ?_⟩, fun hd => ⟨fun hbad => ?_, fun hok hgrist hframes hreads => ?_⟩, fun u hu => ?_,
    fun hd => ⟨fun hnone => ?_, fun c hc hup hcan => ?_⟩⟩
  · exact ⟨_, exec_readStream_refused hd hst, gives_none (hdesc_of_ready hd) st 0⟩
  · have hgo := exec_readStream (back := back) hd hst hreads
    by_cases hlen : bs.length = d.len.toNat
    · obtain ⟨hframe, hout, hdesc⟩ := gives (u := s.lookedUp d) rfl (hdesc_of_ready hd) bs .ok d.len.toNat
      have hok : exec (.readStream id back) s = .next (((s.lookedUp d).sendData d.buffer bs).endDesc id .ok d.len.toNat) :=
        hgo.trans (congrArg _ (if_pos hlen))
      refine ⟨_, hok, ?_, fun _ => ⟨hout, hdesc⟩, fun hne => absurd hlen hne⟩
      rw [hframe]
      rfl
    · obtain ⟨hframe, hout, hdesc⟩ := gives (u := s.lookedUp d) rfl (hdesc_of_ready hd) (bs.take k) .dataError k
      have hbad : exec (.readStream id back) s = .next (((s.lookedUp d).sendData d.buffer (bs.take k)).endDesc id .dataError k) :=
        hgo.trans (congrArg _ (if_neg hlen))
      refine ⟨_, hbad, ?_, fun heq => absurd heq hlen, fun _ => ⟨hout, hdesc⟩⟩
      rw [hframe]
      rfl
  · exact ⟨_, exec_readRandom_range hd hbad, gives_none (hdesc_of_ready hd) .range 0⟩
  · obtain ⟨t, hused, hgo⟩ := exec_readRandom (back := back) hd hok hgrist hframes hreads
    obtain ⟨-, -, hhost, hpieces⟩ := framesUsed_units (back := back) hused []
    obtain ⟨⟨fs, n, ht⟩, -, -⟩ := hused
    have hend : ∀ st m, ((t.sendData d.buffer got.flatten).endDesc id st m) = { s with
        host := ((t.sendData d.buffer got.flatten).endDesc id st m).host
        place := ((t.sendData d.buffer got.flatten).endDesc id st m).place } ∧
        ((t.sendData d.buffer got.flatten).endDesc id st m).place.pieces = s.place.pieces := fun st m => by
      rw [sendData_eq]
      subst ht
      exact ⟨rfl, rfl⟩
    by_cases hlen : got.length = d.len.toNat
    · obtain ⟨-, hout, hdesc⟩ := gives hhost (hdesc_of_ready hd) got.flatten .ok d.len.toNat
      refine ⟨_, hgo.trans (congrArg _ (if_pos hlen)), (hend _ _).1, (hend _ _).2, hout, ?_⟩
      rw [if_pos hlen, if_pos hlen]
      exact hdesc
    · obtain ⟨-, hout, hdesc⟩ := gives hhost (hdesc_of_ready hd) got.flatten .dataError (4096 * got.length)
      refine ⟨_, hgo.trans (congrArg _ (if_neg hlen)), (hend _ _).1, (hend _ _).2, hout, ?_⟩
      rw [if_neg hlen, if_neg hlen]
      exact hdesc
  · unfold State.unitData
    rw [unitPiece_none hu]
  · exact ⟨_, exec_caskQuery_none hd hnone, gives_none (hdesc_of_ready hd) .notHeld 0⟩
  · obtain ⟨hframe, hout, x, hx, hst, hcount⟩ := gives (u := s) rfl (hdesc_of_ready hd) (c.answer.take d.len.toNat)
      (if c.answer.length ≤ d.len.toNat then .ok else .okShort) (min d.len.toNat c.answer.length)
    refine ⟨_, exec_caskQuery hd hc hup hcan, hframe, hout, x, hx, hst.trans ?_, hcount⟩
    split <;> rfl

end Sys2Proof.Machine

/-! # WRITE_RANDOM: admitted, reserved, accepted unit by unit (R307) -/

namespace Sys2Proof.Machine
open Sys2Proof

section Writes

variable {s : State} {id : Nat} {d : HDesc}

/-! ### The check and the reservation -/

theorem ready_none {op : Byte} (h : s.ready id op = some d) : d.status = none := by
  unfold State.ready at h
  split at h
  · cases h
  · split at h
    · split at h
      · next hok =>
        cases h
        exact hok.2.1
      · cases h
    · cases h

theorem exec_writeRandom_readOnly (hd : s.ready id 3 = some d) (hnew : d.reserved = 0) (hdev : s.clock.dev = .readOnly) :
    exec (.writeRandom id) s = .next (s.endDesc id .readOnly 0) := by
  show execWriteRandom id s = _
  unfold execWriteRandom
  rw [hd]
  exact if_pos ⟨hnew, hdev⟩

theorem exec_writeRandom_range (hd : s.ready id 3 = some d) (hnew : d.reserved = 0) (hdev : s.clock.dev ≠ .readOnly)
    (hbad : s.unitsOk d = false) : exec (.writeRandom id) s = .next (s.endDesc id .range 0) := by
  show execWriteRandom id s = _
  unfold execWriteRandom
  rw [hd]
  dsimp only
  rw [if_neg (fun h => hdev h.2), if_pos ⟨hnew, by rw [hbad]; rfl⟩]

/-- INTAKE admits reservations in READY and DEGRADED alone. -/
theorem reserveOk_running {u : Nat} (h : s.reserveOk u = true) : s.running = true := by
  unfold State.reserveOk at h
  simp only [Bool.and_eq_true] at h
  exact h.1.1.1.1.2

/-- The descriptor's first unit is reserved. -/
def State.firstReserved (s : State) (id : Nat) : State :=
  (s.onIntake fun i => { i with reserved := i.reserved + unitTun }).modDesc id fun x => { x with reserved := 1 }

theorem firstReserved_hdesc (hd : s.hdesc id = some d) : (s.firstReserved id).hdesc id = some { d with reserved := 1 } :=
  hdesc_modDesc (s := s.onIntake fun i => { i with reserved := i.reserved + unitTun }) (fun _ => rfl) hd

theorem exec_writeRandom (hd : s.ready id 3 = some d) (hnew : d.reserved = 0) (hok : s.unitsOk d = true) (hlen : d.len = 1)
    (hadmit : s.reserveOk d.start.toNat = true) (hframe : s.hasFrame (unitLine d.start.toNat).1 = true) :
    exec (.writeRandom id) s = .next (s.firstReserved id) := by
  have hdesc := hdesc_of_ready hd
  have hdev : s.clock.dev ≠ .readOnly := fun h => by
    have hrun := reserveOk_running hadmit
    simp [State.running, h] at hrun
  have hunit : s.reserveUnits d 1 0 = s.firstReserved id := by
    unfold State.reserveUnits State.reserveUnit
    dsimp only
    rw [Nat.add_zero, hadmit, hframe, hdesc_id hdesc]
    rfl
  have hlast : (s.firstReserved id).lacksFrame id = false := by
    unfold State.lacksFrame
    rw [firstReserved_hdesc hdesc]
    simp [hlen]
  show execWriteRandom id s = _
  unfold execWriteRandom
  rw [hd]
  dsimp only
  rw [if_neg (fun h => hdev h.2), if_neg (by simp [hok]), hnew, hlen]
  show Host.Outcome.next (if (s.reserveUnits d 1 0).lacksFrame id then _ else s.reserveUnits d 1 0) = _
  rw [hunit, hlast]
  rfl

/-! ### The data (R307 steps 3 and 4) -/

/-- A fetch of the descriptor's next unit is among those that may end now. -/
structure State.Fetching (s : State) (id : Nat) (d : HDesc) : Prop where
  desc : s.hdesc id = some d
  opcode : d.opcode = 3
  status : d.status = none
  count : d.count < d.reserved
  up : s.upstreamOpen = true
  host : s.hostUp = true
  issued : s.readIssued d = true
  intake : s.stopped .intake = false

theorem exec_dataFetchDone (h : s.Fetching id d) (r : HostRead) : exec (.dataFetchDone id r) s =
    match r with
    | .failed => .next ((s.onIntake fun i => { i with reserved := i.reserved - unitTun * (d.reserved - d.count) }).endDesc id .hostError
        d.count)
    | .ok data =>
      if data.length ≠ 4096 then .fault .illFormedCommand
      else if !s.unitTurn d (d.start.toNat + d.count) then .next s
      else .next (s.acceptUnit d data) := by
  show execDataFetchDone id r s = _
  unfold execDataFetchDone
  rw [h.desc]
  exact if_neg (by simp [h.opcode, h.status, h.up, h.host, h.issued, h.intake]; exact h.count)

/-- The accepted unit is held as a piece, and its line is dirty. -/
def State.unitHeld (s : State) (d : HDesc) (data : List Byte) : State :=
  ((((s.onIntake fun i => { i with entrySeq := s.intake.entrySeq + 1, reserved := i.reserved - unitTun }).onPlace fun p =>
    { p with pieces := p.pieces ++ [s.unitWritten (d.start.toNat + d.count) (s.intake.entrySeq + 1) data] }).takeEntry
      (d.start.toNat + d.count) (s.intake.entrySeq + 1)).modDesc d.id fun x => { x with
        count := x.count + 1
        status := if x.count + 1 = x.len.toNat then some (hstatusCode .ok) else none
        awaits := if s.writeThrough then x.awaits ++ [s.intake.entrySeq + 1] else x.awaits })

theorem acceptUnit_eq (s : State) (d : HDesc) (data : List Byte) :
    s.acceptUnit d data = if (s.unitHeld d data).backUp then (s.unitHeld d data).placeUnits false else s.unitHeld d data := rfl

/-- A piece that waits for its place gets it or waits on: all else of it stands. -/
theorem assignLocs_mem {f : Piece → Bool} {p : Piece} {ps : List Piece} (h : p ∈ ps) (l : Loc) :
    ∃ q ∈ assignLocs f ps l, ∃ loc, q = { p with loc := loc } := by
  induction ps generalizing l with
  | nil => exact absurd h List.not_mem_nil
  | cons x ps ih =>
    unfold assignLocs
    rcases List.mem_cons.mp h with rfl | h
    · split
      · exact ⟨_, List.mem_cons_self, _, rfl⟩
      · exact ⟨_, List.mem_cons_self, p.loc, rfl⟩
    · split
      · obtain ⟨q, hq, loc, rfl⟩ := ih h (l.plus 1)
        exact ⟨_, List.mem_cons_of_mem _ hq, loc, rfl⟩
      · obtain ⟨q, hq, loc, rfl⟩ := ih h l
        exact ⟨_, List.mem_cons_of_mem _ hq, loc, rfl⟩

theorem placeUnits_mem {p : Piece} (staged : Bool) (h : p ∈ s.place.pieces) (hnone : p.spill = none) :
    ∃ q ∈ (s.placeUnits staged).place.pieces, ∃ loc, q = { p with loc := loc } := by
  unfold State.placeUnits
  dsimp only
  split
  · exact ⟨p, h, p.loc, rfl⟩
  · split
    · exact ⟨p, h, p.loc, rfl⟩
    · next t g l us ht =>
      obtain ⟨q, hq, loc, rfl⟩ := assignLocs_mem (f := fun p => p.inTun && p.loc.isNone && p.unit.isSome && (p.staged == staged))
        ((grouped_allocate ht).stay p h hnone) l
      exact ⟨_, (grouped_launch (t.onPlace fun p => { p with pieces := assignLocs _ p.pieces l }) g us _).stay _ hq hnone, loc, rfl⟩

theorem hdesc_congr {t : State} (h : t.host = s.host) (id : Nat) : t.hdesc id = s.hdesc id := by
  unfold State.hdesc
  rw [h]

/-- What an accepted unit leaves: INTAKE's counts, its piece, and its descriptor. -/
theorem acceptUnit_leaves (hd : s.hdesc d.id = some d) (data : List Byte) :
    (s.acceptUnit d data).intake.entrySeq = s.intake.entrySeq + 1 ∧ (s.acceptUnit d data).intake.reserved = s.intake.reserved - 4112 ∧
    (∃ p ∈ (s.acceptUnit d data).place.pieces, p.unit = some (d.start.toNat + d.count) ∧ p.data = data ∧ p.inTun = true ∧
      p.seq = s.intake.entrySeq + 1) ∧
    ∃ x, (s.acceptUnit d data).hdesc d.id = some x ∧ x.count = d.count + 1 ∧ (x.status = some 0x00 ↔ d.count + 1 = d.len.toNat) := by
  have hin : s.unitWritten (d.start.toNat + d.count) (s.intake.entrySeq + 1) data ∈ (s.unitHeld d data).place.pieces :=
    List.mem_append_right _ List.mem_cons_self
  have hpiece : ∃ p ∈ (s.acceptUnit d data).place.pieces, ∃ loc,
      p = { s.unitWritten (d.start.toNat + d.count) (s.intake.entrySeq + 1) data with loc := loc } := by
    rw [acceptUnit_eq]
    split
    · exact placeUnits_mem false hin rfl
    · exact ⟨_, hin, none, rfl⟩
  have hk : Keeps { media := true, place := true } (s.unitHeld d data) (s.acceptUnit d data) := by
    rw [acceptUnit_eq]
    exact keeps_ite (keeps_placeUnits false (Keeps.refl _ _) rfl rfl) (Keeps.refl _ _)
  have hintake : (s.acceptUnit d data).intake = (s.unitHeld d data).intake := hk.intakeF rfl
  have hhost : (s.acceptUnit d data).host = (s.unitHeld d data).host := hk.hostF rfl
  have hreserved : (s.unitHeld d data).intake.reserved = s.intake.reserved - unitTun := rfl
  refine ⟨congrArg IntakeState.entrySeq hintake, ?_, ?_, ?_⟩
  · rw [hintake, hreserved]
    unfold unitTun
    rfl
  · obtain ⟨p, hp, loc, rfl⟩ := hpiece
    exact ⟨_, hp, rfl, rfl, rfl, rfl⟩
  · have hdesc : (s.unitHeld d data).hdesc d.id = some { d with
        count := d.count + 1
        status := if d.count + 1 = d.len.toNat then some (hstatusCode .ok) else none
        awaits := if s.writeThrough then d.awaits ++ [s.intake.entrySeq + 1] else d.awaits } := by
      unfold State.unitHeld
      generalize hw : State.onPlace _ _ = w
      have hheld : w.host = s.host := by rw [← hw, State.onPlace_host, State.onIntake_host]
      have hsame := ((keeps_takeEntry (d.start.toNat + d.count) (s.intake.entrySeq + 1) (Keeps.refl { place := true } w) rfl).hostF
        rfl).trans hheld
      generalize w.takeEntry (d.start.toNat + d.count) (s.intake.entrySeq + 1) = v at hsame ⊢
      exact hdesc_modDesc (fun _ => rfl) ((hdesc_congr hsame d.id).trans hd)
    refine ⟨_, (hdesc_congr hhost d.id).trans hdesc, rfl, ?_⟩
    dsimp only
    split
    · next h => exact ⟨fun _ => h, fun _ => rfl⟩
    · next h => exact ⟨nofun, fun heq => absurd heq h⟩

/-- Settles O45: the check, the reservation and the fetch, each by the equation of its command. -/
theorem writesAccept : Obligations.WritesAccept := by
  unfold Obligations.WritesAccept
  refine fun s id d => ⟨fun hd hnew => ⟨fun hdev => ?_, fun hdev hbad => ?_, fun hok hlen hadmit hframe => ?_⟩,
    fun hdesc hop hst hcount hup hhost hissued hintake => ⟨fun data hlen hturn => ?_, ?_⟩⟩
  · exact ⟨_, exec_writeRandom_readOnly hd hnew hdev, rfl, _, hdesc_modDesc (fun _ => rfl) (hdesc_of_ready hd), rfl⟩
  · exact ⟨_, exec_writeRandom_range hd hnew hdev hbad, rfl, _, hdesc_modDesc (fun _ => rfl) (hdesc_of_ready hd), rfl⟩
  · exact ⟨_, exec_writeRandom hd hnew hok hlen hadmit hframe, rfl, rfl, _, firstReserved_hdesc (hdesc_of_ready hd), rfl, (ready_none hd :)⟩
  · have hgo := exec_dataFetchDone ⟨hdesc, hop, hst, hcount, hup, hhost, hissued, hintake⟩ (.ok data)
    have haccept : exec (.dataFetchDone id (.ok data)) s = .next (s.acceptUnit d data) :=
      hgo.trans ((if_neg (fun h => h hlen)).trans (if_neg (by simp [hturn])))
    exact ⟨_, haccept, acceptUnit_leaves ((hdesc_id hdesc).symm ▸ hdesc) data⟩
  · have hgo := exec_dataFetchDone ⟨hdesc, hop, hst, hcount, hup, hhost, hissued, hintake⟩ .failed
    exact ⟨_, hgo, rfl, _, hdesc_modDesc (s := s.onIntake fun i => { i with reserved := i.reserved - unitTun * (d.reserved - d.count) })
      (fun _ => rfl) hdesc, rfl, rfl⟩

end Writes

end Sys2Proof.Machine

/-! # The link is selected, and its protocol chosen (R319 to R323, R337, R345, R348, R351) -/

namespace Sys2Proof.Machine
open Sys2Proof

section Selection

variable {s : State}

/-- The symbols of a byte give back the byte, in either mode. -/
theorem byteSymbols_read : ∀ b : Byte, byteOfWire 0 (byteSymbols 0 b) = b ∧ byteOfWire 1 (byteSymbols 1 b) = b ∧
    (byteSymbols 0 b).length = 8 ∧ (byteSymbols 1 b).length = 2 := by decide +kernel

theorem lanternString_length (s : State) : s.lanternString.length = 32 := by
  simp [State.lanternString, State.lanternHead, leBytes]

/-- The Lantern string does not depend on WSEL#. -/
theorem lanternString_selected (s : State) : (s.onLink fun l => { l with selected := true }).lanternString = s.lanternString := rfl

theorem exec_linkReset (hup : s.linkUp = true) (hread : s.clock.fuseRead = true) (hidle : s.link.run = none) :
    exec .linkReset s = .next ((s.onLink fun l => { l with selected := true }).linkReset) := by
  show execLinkReset s = _
  unfold execLinkReset
  rw [if_neg (by simp [hup, hread]), finishRun_idle hidle]

theorem countRepeats_link (s : State) (n : Nat) : (s.countRepeats n).link = s.link := by
  unfold State.countRepeats
  split <;> rfl

/-- A selection character ends the wait, or its fourth failure the selection. -/
theorem exec_protocolSelect {ch : Byte} {fails : Nat} (hup : s.linkUp = true) (hsel : s.link.selected = true) (hwait : s.link.awaiting = true)
    (hdead : s.link.dead = false) : ∃ t, exec (.protocolSelect ch fails) s = .next t ∧ t.link =
      if 4 ≤ fails then { s.link with dead := true }
      else if ch = 0xF1 then { s.link with awaiting := false }
      else { s.link with awaiting := false, novven := true, opSeen := some ch } := by
  have hlink := countRepeats_link s (min fails 3)
  refine ⟨(s.countRepeats (min fails 3)).onLink fun l =>
    if 4 ≤ fails then { l with dead := true }
    else if ch = 0xF1 then { l with awaiting := false }
    else { l with awaiting := false, novven := true, opSeen := some ch }, ?_, ?_⟩
  · show execProtocolSelect ch fails s = _
    unfold execProtocolSelect
    dsimp only
    rw [if_neg (by simp [hup, hsel, hwait, hdead])]
    split
    · rfl
    · split <;> rfl
  · unfold State.onLink
    dsimp only
    rw [hlink]

end Selection

/-- Settles O46: the link reset by its fields, the symbols of all bytes, and the selection character by its three outcomes. -/
theorem linkSelects : Obligations.LinkSelects := by
  unfold Obligations.LinkSelects
  intro s hup
  extract_lets l
  refine ⟨fun hread hidle => ?_, byteSymbols_read, rfl, fun hsel hwait hdead fails => ?_⟩
  · refine ⟨_, exec_linkReset hup hread hidle, rfl, rfl, rfl, rfl, rfl, rfl, rfl, rfl, rfl, ?_, ?_, lanternString_length s, rfl⟩
    · exact lanternString_selected s
    · exact congrArg (wireOf 0) (lanternString_selected s)
  · have hgo := fun ch => exec_protocolSelect (ch := ch) (fails := fails) hup hsel hwait hdead
    refine ⟨fun hfour ch => ?_, fun hfew => ?_, fun hfew ch hne => ?_⟩
    · obtain ⟨t, ht, hlink⟩ := hgo ch
      exact ⟨t, ht, hlink.trans (if_pos hfour)⟩
    · obtain ⟨t, ht, hlink⟩ := hgo 0xF1
      exact ⟨t, ht, hlink.trans ((if_neg (Nat.not_le.mpr hfew)).trans (if_pos rfl))⟩
    · obtain ⟨t, ht, hlink⟩ := hgo ch
      exact ⟨t, ht, hlink.trans ((if_neg (Nat.not_le.mpr hfew)).trans (if_neg hne))⟩

end Sys2Proof.Machine

/-! # The frames of the native protocol outside messages (R324 to R331, R339) -/

namespace Sys2Proof.Machine
open Sys2Proof

section Frames

variable {s : State}

/-- A 16-bit count in the low half of a word is read back as the least of the sum and 65,535. -/
theorem hget_countLo_low (s : State) (w n : Nat) : (s.countLo w n).hget w % 65536 = min (s.hget w % 65536 + n) 0xFFFF := by
  have hget : (s.countLo w n).hget w = min (s.hget w % 65536 + n) 0xFFFF + 65536 * (s.hget w / 65536) := tget_tset_same ..
  have hle : min (s.hget w % 65536 + n) 0xFFFF ≤ 0xFFFF := Nat.min_le_right ..
  rw [hget, Nat.add_mul_mod_self_left, Nat.mod_eq_of_lt (Nat.lt_succ_of_le hle)]

/-- Without a SWITCH in progress a valid frame commits nothing. -/
theorem commit_none {l : LinkState} (h : l.switching = none) : l.commit = l := by
  unfold LinkState.commit
  rw [h]

/-- Without a SWITCH in progress a frame finds LINK as it stands. -/
theorem onLink_commit (h : s.link.switching = none) (f : LinkState → LinkState) : (s.onLink fun l => f l.commit) = s.onLink f :=
  congrArg (fun l => { s with link := f l }) (commit_none h)

/-- A frame with a legal control byte and at most 254 bytes is valid to its receiver. -/
theorem receivedFrame_bytes {f : Frame} (hok : controlOk f.control = true) (hlen : f.info.length ≤ 254) :
    receivedFrame f.bytes = some (f.control, f.info) := by
  have hn : (BitVec.ofNat 8 f.info.length).toNat = f.info.length := by
    rw [BitVec.toNat_ofNat]; exact Nat.mod_eq_of_lt (by omega)
  have hne : BitVec.ofNat 8 f.info.length ≠ 255 := fun h => by
    have hval := congrArg BitVec.toNat h
    rw [hn] at hval
    have htop : (255 : Byte).toNat = 255 := rfl
    omega
  unfold Frame.bytes receivedFrame
  simp only [List.cons_append]
  rw [hn, List.take_left, List.drop_left, if_pos ⟨hne, by simp [Laws.leBytes_length], rfl, hok⟩]

variable (hup : s.nativeUp = true) (hawake : s.link.asleep = false)
include hup hawake

theorem exec_chainedIFrame {ns : BitVec 3} {info : List Byte} (hlen : info.length ≤ 254) (hsw : s.link.switching = none) :
    exec (.chainedIFrame ns info) s = .next (s.onLink fun l => l.chainFrame ns info) := by
  show execChainedIFrame ns info s = _
  unfold execChainedIFrame
  rw [if_neg (Nat.not_lt.mpr hlen), if_pos (by simp [hup, hawake]), onLink_commit hsw fun l => l.chainFrame ns info]

theorem exec_hostRFrame {nr : BitVec 3} {reason : Byte} (hsw : s.link.switching = none) :
    exec (.hostRFrame nr reason) s = .next (s.rFrame nr reason) := by
  have hsame : s.onLink LinkState.commit = s := onLink_commit hsw fun l => l
  show execHostRFrame nr reason s = _
  unfold execHostRFrame
  rw [if_pos (by simp [hup, hawake]), hsame]

end Frames

section Answers

variable {l : LinkState} {ns : BitVec 3} {info : List Byte}

theorem chainFrame_kept (hseq : l.matchOpen = true ∨ ns = l.vr) (hfew : l.chainN < 64) : l.chainFrame ns info =
    ({ l with chain := l.chain ++ info, chainN := l.chainN + 1, vr := ns + 1 } : LinkState).answerR 0 := by
  unfold LinkState.chainFrame
  rw [if_neg (by rcases hseq with h | h <;> simp [h]), if_neg (by simp [LinkState.chainFull, hfew])]

theorem chainFrame_full (hseq : l.matchOpen = true ∨ ns = l.vr) (hfull : 64 ≤ l.chainN) : l.chainFrame ns info = l.dropChain ns := by
  unfold LinkState.chainFrame
  rw [if_neg (by rcases hseq with h | h <;> simp [h]), if_pos (by simp [LinkState.chainFull, hfull])]

theorem chainFrame_outOfSequence (hclosed : l.matchOpen = false) (hne : ns ≠ l.vr) : l.chainFrame ns info = l.answerR 2 := by
  unfold LinkState.chainFrame
  rw [if_pos (by simp [hclosed, hne])]

/-- An R-frame with a reason brings the I-frame numbered N(R) again, in the mode now in force. -/
theorem resend_sent {f : Frame} {nr : BitVec 3} (hlast : l.lastI = some f) (hnr : f.control.toNat / 8 % 8 = nr.toNat) :
    (l.resend nr).sent = some { f with width := l.width } := by
  unfold LinkState.resend
  dsimp only
  rw [hlast, if_pos (by simp [hnr])]
  rfl

end Answers

/-- With no act asked for, the end of a response does nothing but what the act's clearing says already. -/
theorem doAct_idle {s : State} (h : s.link.act = .none) : s.doAct = s.onLink fun l => { l with act := .none } := by
  unfold State.doAct
  dsimp only
  rw [h]

/-- The next frame of a response that asks for no act. -/
theorem pump_idle {s : State} {f : List Byte} {fs : List (List Byte)} (hsend : s.link.toSend = f :: fs) (hact : s.link.act = .none) :
    ∃ t, s.pump = t ∧ t = { s with link := t.link } ∧
      t.link = { s.link with sent := t.link.sent, lastI := t.link.sent, toSend := fs, vs := s.link.vs + 1, act := .none } ∧
      t.link.sent = some { control := control (if fs.isEmpty then 0 else 1) s.link.vs.toNat s.link.vr.toNat, info := f, width := s.link.width } := by
  refine ⟨s.onLink fun l => { l.sendNext with act := .none }, ?_, rfl, ?_, ?_⟩
  · have hnext : (s.onLink LinkState.sendNext).link.act = .none := by
      show s.link.sendNext.act = .none
      unfold LinkState.sendNext
      rw [hsend]
      exact hact
    unfold State.pump
    dsimp only
    split
    · exact doAct_idle hnext
    · unfold State.onLink at hnext ⊢
      dsimp only at hnext ⊢
      rw [← hnext]
  · unfold State.onLink LinkState.sendNext
    dsimp only
    rw [hsend]
  · unfold State.onLink LinkState.sendNext
    dsimp only
    rw [hsend]

/-- Settles O47: each frame by what LINK makes of it, and the frame sent by its bytes read again. -/
theorem framesAnswer : Obligations.FramesAnswer := by
  unfold Obligations.FramesAnswer
  intro s hup hawake hsw
  extract_lets l frame
  have hopen : (s.nativeUp && !s.link.asleep) = true := by simp [hup, hawake]
  refine ⟨fun ns info hlen => ?_, fun f fs hsend hact => ?_, fun f nr reason hlast hnr hreason => ?_, fun f => receivedFrame_bytes, ?_, ?_, ?_, ?_, ?_, ?_⟩
  · refine ⟨_, exec_chainedIFrame hup hawake hlen hsw, rfl, fun hseq hfew => ?_, fun hseq hfull => ?_, fun hclosed hne => ?_⟩
    · have hnew : l.chainFrame ns info = _ := chainFrame_kept hseq hfew
      exact ⟨congrArg LinkState.sent hnew, congrArg LinkState.vr hnew, congrArg LinkState.chain hnew, congrArg LinkState.chainN hnew⟩
    · have hnew : l.chainFrame ns info = _ := chainFrame_full hseq hfull
      exact ⟨congrArg LinkState.sent hnew, congrArg LinkState.chain hnew, congrArg LinkState.chainN hnew⟩
    · have hnew : s.link.chainFrame ns info = _ := chainFrame_outOfSequence hclosed hne
      exact ⟨congrArg LinkState.sent hnew, (congrArg LinkState.chain hnew :), (congrArg LinkState.vr hnew :)⟩
  · obtain ⟨t, ht, hrest, hlink, hsent⟩ := pump_idle hsend hact
    refine ⟨t, (exec_hostRFrame hup hawake hsw).trans ?_, hrest, ?_, congrArg LinkState.toSend hlink, congrArg LinkState.vs hlink⟩
    · unfold State.rFrame
      rw [if_pos ⟨rfl, by rw [hsend]; exact List.cons_ne_nil _ _, rfl⟩, ht]
    · refine hsent.trans ?_
      cases fs <;> rfl
  · refine (exec_hostRFrame hup hawake hsw).trans ?_
    unfold State.rFrame
    rw [if_neg (fun h => hreason h.1)]
    exact congrArg (fun sent => Host.Outcome.next { s with link := { s.link with sent := sent } }) (resend_sent hlast hnr)
  · refine ⟨_, if_pos hopen, ?_, ?_, fun hon => ?_⟩
    · split <;> rfl
    · split <;> rfl
    · rw [if_pos hon]
      exact hget_countLo_low s 0x2D 1
  · exact ⟨_, if_pos hopen, rfl, rfl⟩
  · exact ⟨_, (if_pos hopen).trans (congrArg Host.Outcome.next (onLink_commit hsw fun l => ({ l.endChain with
      vr := 0, vs := 0, matchOpen := false, toSend := [], lastI := none, act := .none } : LinkState).answerS 1 [])),
      rfl, rfl, rfl, rfl, rfl, rfl, rfl, rfl⟩
  · exact ⟨_, (if_pos hopen).trans (congrArg Host.Outcome.next (onLink_commit hsw fun l =>
      ({ l.endChain with toSend := [], act := .none } : LinkState).answerS 3 [])), rfl, rfl, rfl, rfl, rfl, rfl⟩
  · intro pattern hlen
    exact ⟨_, (if_pos (by simp [hopen, hlen])).trans (congrArg Host.Outcome.next (onLink_commit hsw fun l =>
      l.checked.answerS 5 (pattern.map fun b => ~~~b))), rfl, rfl⟩
  · exact fun w r c => rfl

end Sys2Proof.Machine

/-! # A message is executed once and recorded; the same one again is answered from the record (R334, R335, R341 to R343) -/

namespace Sys2Proof.Machine
open Sys2Proof

section Responses

variable {s : State}

theorem chunks254_short {n : Nat} {bs : List Byte} (h : bs.length ≤ 254) : chunks254 n bs = [bs] := by
  cases n with
  | zero => rfl
  | succ n => exact if_pos h

theorem chunks254_cons (n : Nat) (bs : List Byte) : ∃ f fs, chunks254 n bs = f :: fs := by
  cases n with
  | zero => exact ⟨bs, [], rfl⟩
  | succ n =>
    unfold chunks254
    split
    · exact ⟨bs, [], rfl⟩
    · exact ⟨_, _, rfl⟩

/-- A response that asks for no act: its first frame goes out, the whole of it where it is short. -/
theorem respond_idle {resp : List Byte} (hact : s.link.act = .none) :
    ∃ t, s.respond resp = t ∧ t = { s with link := t.link } ∧ t.link.vr = s.link.vr ∧ t.link.last = s.link.last ∧
      (resp.length ≤ 254 → t.link.sent.map Frame.info = some resp) := by
  obtain ⟨f, fs, hchunks⟩ := chunks254_cons 64 resp
  obtain ⟨t, ht, hrest, hlink, hsent⟩ := pump_idle (s := s.onLink fun l => { l with toSend := chunks254 64 resp }) hchunks hact
  refine ⟨t, ht, hrest, (congrArg LinkState.vr hlink :), (congrArg LinkState.last hlink :), fun hshort => ?_⟩
  rw [hsent]
  exact congrArg some (List.cons.inj (hchunks.symm.trans (chunks254_short hshort))).1

/-- A frame that was executed is one of the journal tail's while the magazine is in service. -/
theorem noteFrame_eq (e : LinkLast) :
    s.noteFrame e = { s with journal := if s.running then { s.journal with frames := s.journal.frames ++ [e] } else s.journal } := by
  unfold State.noteFrame
  split <;> rfl

/-- What an executed message leaves: its record, the note of its frame, and the count of what comes next. -/
structure State.Answered (s t : State) (x : LinkLast) (vr : BitVec 3) : Prop where
  rest : t = { s with link := t.link, journal := t.journal }
  noted : t.journal = if s.running then { s.journal with frames := s.journal.frames ++ [x] } else s.journal
  next : t.link.vr = vr
  last : t.link.last = some x
  sent : x.response.length ≤ 254 → t.link.sent.map Frame.info = some x.response

/-- The end of a message whose execution asked for no act. -/
theorem endMessage_answered {ns : BitVec 3} {bs out : List Byte} {count : Nat} (hact : s.link.act = .none) :
    s.Answered (s.endMessage ns bs count out false) (lastRecord 1 (ns.setWidth 8) bs ([s.respFlags, 0] ++ leBytes 2 count ++ out)) s.link.vr := by
  unfold State.endMessage
  dsimp only
  rw [if_neg Bool.false_ne_true, noteFrame_eq]
  let resp := [s.respFlags, 0] ++ leBytes 2 count ++ out
  let u : State := { s with
    link := { s.link with modeSeen := none, run := none, last := some (lastRecord 1 (ns.setWidth 8) bs resp) }
    journal := if s.running then { s.journal with frames := s.journal.frames ++ [lastRecord 1 (ns.setWidth 8) bs resp] } else s.journal }
  obtain ⟨t, ht, hrest, hvr, hlast, hsent⟩ := respond_idle (s := u) (resp := resp) hact
  show s.Answered (u.respond resp) _ _
  rw [ht]
  have hjournal : t.journal = u.journal := (congrArg State.journal hrest :)
  exact ⟨hrest.trans (by rw [hjournal]), hjournal, hvr, hlast, hsent⟩

/-- A new message whose operations ask for no act and do not wait, and change nothing but LINK. -/
theorem newMessage_answered {ns vr : BitVec 3} {bs out : List Byte} {count : Nat}
    (hrun : s.runMessage bs = (count, s.onLink fun l => { l with act := .none, modeSeen := some l.modeWord }, out, none)) :
    s.Answered (s.newMessage ns vr bs) (lastRecord 1 (ns.setWidth 8) bs ([s.respFlags, 0] ++ leBytes 2 count ++ out)) vr := by
  unfold State.newMessage
  rw [hrun]
  dsimp only
  obtain ⟨hrest, hnoted, hnext, hlast, hsent⟩ := endMessage_answered (ns := ns) (bs := bs) (out := out) (count := count)
    (s := (s.onLink fun l => { l with act := .none, modeSeen := some l.modeWord }).onLink fun l =>
      { l.endChain with vr := vr, matchOpen := false }) rfl
  exact ⟨hrest.trans rfl, hnoted, hnext, hlast, hsent⟩

/-- A message that fails its check executes nothing. -/
theorem runMessage_badmsg {bs : List Byte} (h : checkMsg bs = none) :
    s.runMessage bs = (1, s.onLink fun l => { l with act := .none, modeSeen := some l.modeWord }, result 0 .badmsg [], none) := by
  unfold State.runMessage
  rw [h]

/-- The bytes of an ECHO are the one operation that they say. -/
theorem checkMsg_echo {data : List Byte} (h : data.length < 249) :
    checkMsg ([0x0A, BitVec.ofNat 8 data.length, 0] ++ data) = some [.echo data] := by
  have hnum : leNat [BitVec.ofNat 8 data.length, 0#8] = data.length := by
    have hlow : (BitVec.ofNat 8 data.length).toNat = data.length := by
      rw [BitVec.toNat_ofNat]; exact Nat.mod_eq_of_lt (by omega)
    show (BitVec.ofNat 8 data.length).toNat + 256 * (0 + 256 * 0) = _
    omega
  have hop : parseOp ([0x0A, BitVec.ofNat 8 data.length, 0] ++ data) = some (.echo data, []) := by
    simp [parseOp, hnum]
    omega
  have hops : parseOps ([0x0A, BitVec.ofNat 8 data.length, 0] ++ data).length ([0x0A, BitVec.ofNat 8 data.length, 0] ++ data) =
      some [.echo data] := by
    show (match parseOp ([0x0A, BitVec.ofNat 8 data.length, 0] ++ data) with
      | none => none
      | some (o, rest) =>
        match parseOps (data.length + 2) rest with
        | none => none
        | some os => some (o :: os)) = _
    rw [hop]
    rfl
  unfold checkMsg
  rw [hops]
  simp [LOp.inRange, placed, LOp.alone, responseLen, sumBy, LOp.dataLen]
  omega

theorem runMessage_echo {bs data : List Byte} (h : checkMsg bs = some [.echo data]) (hpaused : s.link.paused = none) :
    s.runMessage bs = (1, s.onLink fun l => { l with act := .none, modeSeen := some l.modeWord }, result 0x0A .ok data, none) := by
  unfold State.runMessage
  rw [h]
  simp [runOps, State.doOp, State.onLink, hpaused, LOp.code]

end Responses

section Decision

variable {s : State} {ns nr : BitVec 3} {info : List Byte}

theorem nativeUp_paused (h : s.nativeUp = true) : s.link.paused = none := by
  simp only [State.nativeUp, State.linkOpen, Bool.and_eq_true, Option.isNone_iff_eq_none] at h
  exact h.1.2

theorem exec_messageReceive (hup : s.nativeUp = true) (hawake : s.link.asleep = false) (hsw : s.link.switching = none)
    (hchain : s.link.chain = []) (hcount : s.link.chainN = 0) (hlen : info.length ≤ 254) :
    exec (.messageReceive ns nr info) s = .next (s.decide343 ns info) := by
  have hsame : s.onLink LinkState.commit = s := onLink_commit hsw fun l => l
  show execMessageReceive ns nr info s = _
  unfold execMessageReceive State.finalFrame
  rw [if_neg (Nat.not_lt.mpr hlen), if_pos hup, if_neg (by simp [hawake])]
  dsimp only
  rw [hsame, if_neg (by simp [LinkState.chainFull, hcount]), hchain, List.nil_append]

variable (hclosed : s.link.matchOpen = false)
include hclosed

theorem decide343_new (hns : ns = s.link.vr) : s.decide343 ns info = s.newMessage ns (ns + 1) info := by
  unfold State.decide343
  rw [if_neg (by simp [hclosed]), if_pos hns]

theorem decide343_again (hns : ns = s.link.vr - 1) (hdup : s.link.duplicate ns info = true) :
    s.decide343 ns info = s.sendReplay s.link.vr := by
  unfold State.decide343
  rw [if_neg (by simp [hclosed]), if_neg (by rw [hns]; bv_omega), if_pos ⟨hns, hdup⟩]

theorem decide343_outOfSequence (hne : ns ≠ s.link.vr) (hnp : ns ≠ s.link.vr - 1) :
    s.decide343 ns info = s.onLink fun l => l.answerR 2 := by
  unfold State.decide343
  rw [if_neg (by simp [hclosed]), if_neg hne, if_neg (fun h => hnp h.1)]

end Decision

/-- Settles O48: the complete message by the decision of R343, and each outcome by what it records and sends. -/
theorem messagesRunOnce : Obligations.MessagesRunOnce := by
  unfold Obligations.MessagesRunOnce
  intro s ns nr info hup hawake hsw hclosed hchain hcount hlen
  extract_lets flags _ noted
  have hflags : flags = s.respFlags := by
    show _ = BitVec.ofNat 8 (2 * bit (!s.clock.mainOn) + 4 * bit s.link.attnLow)
    simp only [flags]
    cases s.clock.mainOn <;> rfl
  have hgo : exec (.messageReceive ns nr info) s = .next (s.decide343 ns info) :=
    exec_messageReceive hup hawake hsw hchain hcount hlen
  refine ⟨fun hns hbad => ?_, fun data hshort hns hecho => ?_, fun x hns hlast hproto hxns hxlen hxcrc => ?_, fun hne hnp => ?_⟩
  · obtain ⟨hrest, hnoted, hnext, hlast, hsent⟩ := newMessage_answered (ns := ns) (vr := ns + 1) (runMessage_badmsg (s := s) hbad)
    refine ⟨_, _, hgo.trans (congrArg Host.Outcome.next (decide343_new hclosed hns)), ⟨hrest, hnoted⟩, hnext, hlast, rfl, rfl, rfl, rfl, ?_, ?_⟩
    · rw [hflags]; rfl
    · exact hsent (Nat.le_add_left 6 248)
  · obtain ⟨hrest, hnoted, hnext, hlast, hsent⟩ := newMessage_answered (ns := ns) (vr := ns + 1) (runMessage_echo (s := s)
      (hecho ▸ checkMsg_echo hshort) (nativeUp_paused hup))
    refine ⟨_, _, hgo.trans (congrArg Host.Outcome.next (decide343_new hclosed hns)), ⟨hrest, hnoted⟩, hlast, ?_, rfl⟩
    rw [hflags]; rfl
  · obtain ⟨t, ht, hrest, hvr, hkept, hsent⟩ := respond_idle (resp := s.link.replay)
      (s := s.onLink fun l => { l.endChain with vr := s.link.vr, matchOpen := false, act := .none }) rfl
    have hdup : s.link.duplicate ns info = true := by simp [LinkState.duplicate, hlast, hproto, hxns, hxlen, hxcrc]
    refine ⟨t, hgo.trans (congrArg Host.Outcome.next ((decide343_again hclosed hns hdup).trans ht)), hrest, hkept.trans hlast, hvr,
      fun f rest hresp hfits => ?_⟩
    have hreplay : s.link.replay = (f ||| 1) :: rest := by simp [LinkState.replay, hlast, hresp]
    rw [hreplay] at hsent
    exact hsent (by rw [hresp] at hfits; exact hfits)
  · exact ⟨_, hgo.trans (congrArg Host.Outcome.next (decide343_outOfSequence hclosed hne hnp)), rfl, rfl, rfl⟩

end Sys2Proof.Machine

/-! # What LINK holds of data after a register write by itself -/

namespace Sys2Proof.Machine
open Sys2Proof

/-- After the release of VAUX POR, with the native protocol selected and nothing else begun (R320, R323). -/
def nativeSelected : State :=
  { State.reset with
    clock := { ClockState.reset with vauxPor := false, vauxPin := true, pllTick := ⟨true, false⟩ }
    link := { LinkState.reset with selected := true, awaiting := false, dead := false } }

/-- WRITE_REG of one word leaves one word in place of read data, which is 0: the words of an access are counted for writes too. -/
theorem nativeSelected_writeReg : ∃ t, exec (.writeReg 0x7F [6]) nativeSelected = .next t ∧ t.link.rdata = [0] := ⟨_, rfl, by decide⟩

/-- Refutes O49: a WRITE_REG of LINK_ECHO is said to leave no read data, but the model leaves the one word 0. -/
theorem not_singleOperations : ¬ Obligations.SingleOperations := by
  unfold Obligations.SingleOperations
  intro h
  obtain ⟨-, -, hwrite, -⟩ := h nativeSelected (by decide)
  obtain ⟨t, ht, hdata⟩ := nativeSelected_writeReg
  have hkept := congrArg (fun u : State => u.link.rdata) (Host.Outcome.next.inj (ht.symm.trans (hwrite 6)))
  exact absurd (hdata.symm.trans hkept) (by decide)

end Sys2Proof.Machine

/-! # The Novven protocol (R345 to R349) -/

namespace Sys2Proof.Machine
open Sys2Proof

/-- No character is sent again, and none is lost. -/
def cleanChars : CharFails := { again := 0, lost := none }

/-- The symbols of a character give back the character. -/
theorem novvenSymbols_read : ∀ b : Byte, novvenByte (novvenSymbols b) = some b ∧ (novvenSymbols b).length = 12 := by decide +kernel

section Novven

variable {s : State} {c : NovvenCmd}

theorem countRepeats_zero (s : State) : s.countRepeats 0 = s := by simp [State.countRepeats]

/-- The repeats are counted in the health log alone. -/
theorem countRepeats_health (s : State) (n : Nat) : s.countRepeats n = { s with health := (s.countRepeats n).health } := by
  unfold State.countRepeats
  split <;> rfl

/-- The record of a Novven command (R349). -/
def novvenRecord (msg answer : List Byte) : LinkLast := lastRecord 2 0xFF msg answer

/-- A command that ends with every character taken at its first sending: its answer, its record and the note of its frame. -/
theorem novvenEnd_clean (msg answer : List Byte) : s.novvenEnd msg answer cleanChars =
    { s with
      link := { s.link with command := none, answer := answer, last := some (novvenRecord msg answer), modeSeen := none }
      journal := if s.running then { s.journal with frames := s.journal.frames ++ [novvenRecord msg answer] } else s.journal } := by
  unfold State.novvenEnd
  rw [show cleanChars.again = 0 from rfl, countRepeats_zero]
  dsimp only
  rw [noteFrame_eq]
  rfl

/-- What LINK takes of the Novven protocol while it is awake is what it takes of register accesses. -/
theorem novvenUp_busOpen (hup : s.novvenUp = true) (hawake : s.link.asleep = false) : s.busOpen = true := by
  unfold State.novvenUp at hup
  rw [Bool.and_eq_true] at hup
  simp [State.busOpen, hup.1, hawake]

theorem novvenUp_selected (hup : s.novvenUp = true) : s.link.selected = true := by
  simp only [State.novvenUp, State.linkOpen, Bool.and_eq_true] at hup
  exact hup.1.1.1.1.1.2

/-- LINK answers for LINK_ECHO wherever it takes accesses. -/
theorem serves_linkEcho (h : s.busOpen = true) : s.serves 0x7F = true := by
  have hheld : (s.unit .link).restart = false := by
    simp only [State.busOpen, State.linkOpen, State.linkUp, State.stopped, Bool.and_eq_true, Bool.not_eq_true', Bool.or_eq_false_iff] at h
    exact h.1.1.1.1.1.1.2.1
  simp [State.serves, h, ownerOf, Owner.noPower, Owner.main, Owner.held, unitVaux, hheld]

theorem novvenCommand_op {op : Byte} (hup : s.novvenUp = true) (hc : s.link.command = some c) (hop : c.op = op) :
    s.novvenCommand op = some c := by
  unfold State.novvenCommand
  rw [hc]
  simp [hup, hop]

/-! ### The header -/

section Header

variable {op addr count chk : Byte} {fails : HeaderFails} (hup : s.novvenUp = true) (hnone : s.link.command = none)
include hup hnone

theorem exec_novvenHeader_taken (hseen : s.link.opSeen = none) (hok : headerOk op count (chk == op ^^^ addr ^^^ count) = true) :
    exec (.novvenHeader op addr count chk ⟨cleanChars, cleanChars⟩) s = .next (s.onLink fun l => { l with
      opSeen := none, command := some { op := op, addr := addr, count := count, fails := cleanChars }, answer := [0x5A] }) := by
  show execNovvenHeader op addr count chk ⟨cleanChars, cleanChars⟩ s = _
  unfold execNovvenHeader
  rw [if_neg (by simp [hup, hnone]), hseen]
  refine (if_neg Bool.false_ne_true).trans ((if_pos hok).trans ((if_neg nofun).trans ?_))
  rw [show s.countRepeats cleanChars.again = s from countRepeats_zero s]
  rfl

theorem exec_novvenHeader_refused (hseen : s.link.opSeen = none) (hbad : headerOk op count (chk == op ^^^ addr ^^^ count) = false) :
    exec (.novvenHeader op addr count chk ⟨cleanChars, cleanChars⟩) s = .next
      ((s.onLink fun l => { l with opSeen := none, answer := [] }).novvenEnd [op, addr, count, chk] [novvenResult .badmsg] cleanChars) := by
  show execNovvenHeader op addr count chk ⟨cleanChars, cleanChars⟩ s = _
  unfold execNovvenHeader
  rw [if_neg (by simp [hup, hnone]), hseen]
  refine (if_neg Bool.false_ne_true).trans ((if_neg (ne_true_of_eq_false hbad)).trans ?_)
  rw [show s.countRepeats cleanChars.again = s from countRepeats_zero s]
  rfl

theorem exec_novvenHeader_lost {k : Nat} (hlost : fails.header.lost = some k) :
    exec (.novvenHeader op addr count chk fails) s =
      .next ((s.countRepeats fails.header.again).onLink fun l => { l with opSeen := none, answer := [] }) := by
  show execNovvenHeader op addr count chk fails s = _
  unfold execNovvenHeader
  rw [if_neg (by simp [hup, hnone])]
  exact if_pos (by simp [hlost])

end Header

/-! ### A read -/

/-- LINK as it stands while it executes a Novven READ: LINK_MODE shows the execution's beginning. -/
def State.reading (s : State) : State := s.onLink fun l => { l with act := .none, modeSeen := some l.modeWord }

/-- Beside LINK_MODE no register shows what LINK keeps of an execution. -/
theorem regValue_reading {a : Nat} (h : a ≠ 0x04) : s.reading.regValue a = s.regValue a := by
  unfold State.regValue
  split
  case h_5 => exact absurd rfl h
  all_goals rfl

theorem readEffect_reading (s : State) (a : Nat) : s.reading.readEffect a = (s.readEffect a).reading := by
  unfold State.readEffect
  split <;> rfl

theorem regRead_reading {a : Nat} (h : s.serves a = true) (hind : a ≠ 0x61) (hmode : a ≠ 0x04) :
    s.reading.regRead a = ((s.readEffect a).reading, .ok, s.regValue a) := by
  unfold State.serves at h
  simp only [Bool.and_eq_true, Bool.not_eq_true'] at h
  obtain ⟨⟨-, hpower⟩, hheld⟩ := h
  have hpower' : (ownerOf s.reading a).noPower s.reading = false := hpower
  have hheld' : (ownerOf s.reading a).held s.reading = false := hheld
  simp [State.regRead, hind, hpower', hheld', readEffect_reading, regValue_reading hmode]

theorem exec_novvenRead {addr : Byte} (hup : s.novvenUp = true) (hc : s.link.command = some ⟨0xA1, addr, 1, cleanChars⟩)
    (hserves : s.serves addr.toNat = true) (hlt : addr.toNat < 128) (hind : addr ≠ 0x61) (hmode : addr ≠ 0x04) :
    exec .novvenRead s = .next ((s.readEffect addr.toNat).reading.novvenEnd (NovvenCmd.header ⟨0xA1, addr, 1, cleanChars⟩)
      ([0x60] ++ leBytes 4 (s.regValue addr.toNat).toNat ++ [xorAll (leBytes 4 (s.regValue addr.toNat).toNat)]) cleanChars) := by
  have hread := regRead_reading hserves (fun e => hind (BitVec.eq_of_toNat_eq e)) (fun e => hmode (BitVec.eq_of_toNat_eq e))
  have hop : s.reading.doOp (.readReg addr 1) =
      ((s.readEffect addr.toNat).reading, .ok, leBytes 4 (s.regValue addr.toNat).toNat) := by
    have hreach : reaches addr 1 = true := by simp [reaches]; omega
    simp [State.doOp, hreach, readRegs, hread, wordBytes]
  show execNovvenRead s = _
  unfold execNovvenRead
  rw [novvenCommand_op hup hc rfl]
  exact congrArg (fun r : State × Status × List Byte => Host.Outcome.next (r.1.novvenEnd (NovvenCmd.header ⟨0xA1, addr, 1, cleanChars⟩)
    ([novvenResult r.2.1] ++ r.2.2 ++ [xorAll r.2.2]) cleanChars)) hop

/-! ### A write of LINK_ECHO -/

section Write

variable {v : Word} {chk : Byte} (hup : s.novvenUp = true) (hc : s.link.command = some ⟨0xA2, 0x7F, 1, cleanChars⟩)
include hup hc

theorem exec_novvenWrite_lost {f : CharFails} {k : Nat} (hlost : f.lost = some k) :
    exec (.novvenWrite ⟨[v], f⟩ chk) s = .next ((s.countRepeats f.again).onLink fun l => { l with command := none, answer := [] }) := by
  show execNovvenWrite ⟨[v], f⟩ chk s = _
  unfold execNovvenWrite
  rw [novvenCommand_op hup hc rfl]
  exact (if_neg (by simp)).trans (if_pos (by simp [hlost]))

theorem exec_novvenWrite_badXor (hchk : chk ≠ xorAll (leBytes 4 v.toNat)) : exec (.novvenWrite ⟨[v], cleanChars⟩ chk) s =
    .next (s.novvenEnd (NovvenCmd.header ⟨0xA2, 0x7F, 1, cleanChars⟩ ++ wordBytes [v] ++ [chk]) [novvenResult .badmsg] cleanChars) := by
  show execNovvenWrite ⟨[v], cleanChars⟩ chk s = _
  unfold execNovvenWrite
  rw [novvenCommand_op hup hc rfl]
  refine (if_neg (by simp)).trans ((if_neg Bool.false_ne_true).trans ((if_pos (by simpa [wordBytes] using hchk)).trans ?_))
  rw [show s.countRepeats cleanChars.again = s from countRepeats_zero s]
  rfl

theorem exec_novvenWrite_echo (hopen : s.busOpen = true) (hchk : chk = xorAll (leBytes 4 v.toNat)) :
    exec (.novvenWrite ⟨[v], cleanChars⟩ chk) s = .next ((s.onLink fun l => { l with act := .none, echoReg := v }).novvenEnd
      (NovvenCmd.header ⟨0xA2, 0x7F, 1, cleanChars⟩ ++ wordBytes [v] ++ [chk]) [0x60] cleanChars).doAct := by
  have hwrite : s.actDropped.regWrite 0x7F v maskAll = (s.onLink fun l => { l with act := .none, echoReg := v }, .ok) := by
    refine (regWrite_serves (serves_linkEcho hopen) (by decide)).trans ?_
    exact congrArg (fun w => ((s.onLink fun l => { l with act := .none, echoReg := w }), Status.ok)) (merge_all s.link.echoReg v)
  have hidle : s.link.paused = none := (busOpen_idle hopen).2
  have hop : s.actDropped.doOp (.writeReg 0x7F [v]) = (s.onLink fun l => { l with act := .none, echoReg := v }, .ok, []) := by
    show (writeRegs 1 [v] s.actDropped 0x7F |>.1, writeRegs 1 [v] s.actDropped 0x7F |>.2, ([] : List Byte)) = _
    unfold writeRegs
    simp [hwrite, writeRegs, hidle]
  show execNovvenWrite ⟨[v], cleanChars⟩ chk s = _
  unfold execNovvenWrite
  rw [novvenCommand_op hup hc rfl]
  refine (if_neg (by simp)).trans ((if_neg Bool.false_ne_true).trans ((if_neg (by simpa [wordBytes] using hchk)).trans ?_))
  have hzero : s.countRepeats cleanChars.again = s := countRepeats_zero s
  dsimp only
  rw [hzero]
  have hop' : (s.onLink fun l => { l with act := .none }).doOp (.writeReg 0x7F [v]) = _ := hop
  rw [hop']
  exact if_neg (by simp [hidle])

end Write

/-! ### The reset command -/

theorem doAct_resetLink (hact : s.link.act = .resetLink) (hsel : s.link.selected = true) :
    s.doAct = ((s.onLink fun l => { l with act := .none }).resetSource 6).linkReset := by
  unfold State.doAct
  dsimp only
  rw [hact]
  exact if_pos hsel

theorem exec_novvenReset_link (hup : s.novvenUp = true) (hc : s.link.command = some ⟨0xA4, 1, 0, cleanChars⟩) :
    exec .novvenReset s = .next ((s.onLink fun l => { l with act := .resetLink }).novvenEnd
      (NovvenCmd.header ⟨0xA4, 1, 0, cleanChars⟩) [0x60] cleanChars).doAct := by
  show execNovvenReset s = _
  unfold execNovvenReset
  rw [novvenCommand_op hup hc rfl]
  rfl

end Novven

/-- Settles O50: each command by the character at which it ends. -/
theorem novvenRuns : Obligations.NovvenRuns := by
  unfold Obligations.NovvenRuns
  intro s hup hawake
  extract_lets l ok
  have hopen := novvenUp_busOpen hup hawake
  refine ⟨novvenSymbols_read, fun hnone hseen op addr count chk => ⟨fun hop hone hcount hchk => ?_, fun again k f => ?_, fun hchk => ?_⟩,
    fun addr hc hlt hind hserves hmode => ?_, fun v chk hc => ?_, fun hc => ?_⟩
  · have hok : headerOk op count (chk == op ^^^ addr ^^^ count) = true := by
      rcases hop with rfl | rfl <;> simp [headerOk, hchk, hone, hcount]
    exact ⟨_, exec_novvenHeader_taken hup hnone hseen hok, rfl, rfl, rfl⟩
  · refine ⟨_, exec_novvenHeader_lost (fails := ⟨⟨again, some k⟩, f⟩) hup hnone rfl, ?_⟩
    rw [countRepeats_health]
    exact ⟨hnone, rfl, rfl, rfl⟩
  · have hbad : headerOk op count (chk == op ^^^ addr ^^^ count) = false := by simp [headerOk, hchk]
    exact ⟨_, (exec_novvenHeader_refused hup hnone hseen hbad).trans (congrArg Host.Outcome.next (novvenEnd_clean ..)), rfl, rfl, rfl⟩
  · exact ⟨_, (exec_novvenRead hup hc hserves hlt hind hmode).trans (congrArg Host.Outcome.next (novvenEnd_clean ..)), rfl, rfl, rfl⟩
  · extract_lets w
    refine ⟨fun hchk => ?_, fun hchk => ?_, fun again k => ?_⟩
    · refine ⟨_, (exec_novvenWrite_echo hup hc hopen hchk).trans (congrArg (fun t => Host.Outcome.next t.doAct) (novvenEnd_clean ..)), ?_⟩
      rw [doAct_idle rfl]
      exact ⟨rfl, rfl, rfl, rfl⟩
    · exact ⟨_, (exec_novvenWrite_badXor hup hc hchk).trans (congrArg Host.Outcome.next (novvenEnd_clean ..)), rfl, rfl, rfl⟩
    · refine ⟨_, exec_novvenWrite_lost hup hc rfl, ?_⟩
      rw [countRepeats_health]
      exact ⟨rfl, rfl, rfl, rfl⟩
  · have hend := novvenEnd_clean (s := s.onLink fun l => { l with act := .resetLink }) (NovvenCmd.header ⟨0xA4, 1, 0, cleanChars⟩) [0x60]
    have hact := doAct_resetLink (congrArg (fun t : State => t.link.act) hend)
      ((congrArg (fun t : State => t.link.selected) hend).trans (novvenUp_selected hup))
    exact ⟨_, (exec_novvenReset_link hup hc).trans (congrArg Host.Outcome.next (hact.trans
      (congrArg (fun t : State => ((t.onLink fun l => { l with act := .none }).resetSource 6).linkReset) hend))), rfl, rfl, rfl, rfl⟩

end Sys2Proof.Machine

/-! # What a RESTART reaction leaves, and what ends it (R439, R441, R442, R446, R449) -/

namespace Sys2Proof.Machine
open Sys2Proof

/-! ### A report that restarts its unit -/

section Restarted

variable {s : State} {c : Cause} {d : BitVec 56}

/-- A unit's own record once its shadow is open (R442, R446). -/
theorem openShadow_unit_same (s : State) (u : UnitId) : ((s.openShadow u).unit u).latched = (s.unit u).latched ∧
    ((s.openShadow u).unit u).level = (s.unit u).level ∧ ((s.openShadow u).unit u).restart = true ∧ ((s.openShadow u).unit u).shadow = true := by
  have hfold : ∀ (l : List UnitId) (t : State), u ∉ l →
      (l.foldl (fun t p => t.modUnit p fun r => { r with paired := true }) t).unit u = t.unit u := fun l => by
    induction l with
    | nil => exact fun _ _ => rfl
    | cons p l ih =>
      intro t hu
      obtain ⟨hp, hl⟩ := List.ne_and_not_mem_of_not_mem_cons hu
      exact (ih _ hl).trans (setUnit_unit_ne t p _ hp)
  have hown : (s.openShadow u).unit u = _ := (hfold _ _ (by simp [State.partners])).trans (modUnit_unit_same s u _)
  rw [hown]
  exact ⟨rfl, rfl, rfl, rfl⟩

theorem wtUpdate_clock (s : State) : ∃ dev, s.wtUpdate.clock = { s.clock with dev := dev } := by
  unfold State.wtUpdate
  split
  · exact ⟨.degraded, (raise_clock _ _).trans (setDev_clock _ _)⟩
  · split
    · exact ⟨.ready, (raise_clock _ _).trans (setDev_clock _ _)⟩
    · exact ⟨s.clock.dev, rfl⟩

/-- The state in which the collector begins the RESTART of a unit: the fault is latched, and the reset has its source. -/
structure State.RestartsFrom (s y : State) (u : UnitId) (bit : Nat) : Prop where
  latched : (y.unit u).latched = true
  level : (y.unit u).level = 2
  clock : y.clock = (s.resetSource bit).clock

/-- A report at RESTART that its unit's line gives alone, with nothing latched and no shadow over the unit. -/
theorem reported_restarts (hline : s.clock.mainOn = true ∨ unitVaux (causeUnit c) = true) (hwait : (s.unit (causeUnit c)).waiting = none)
    (hfree : (s.unit (causeUnit c)).latched = false) (hrun : (s.unit (causeUnit c)).restart = false)
    (hshadow : s.shadowsOver (causeUnit c) = []) (hbase : (s.unit (causeUnit c)).base ≤ 2) (hself : s.fault.self = false)
    (hlevel : causeLevel c = 2) : ∃ y, s.RestartsFrom y (causeUnit c) (restartBit c) ∧
      (s.reported c d).takeReport (causeUnit c) = ((y.openShadow (causeUnit c)).restartEffect (causeUnit c) d).wtUpdate := by
  have hunit := reported_unit (d := d) hline
  rw [hold_waiting_none hwait] at hunit
  have hecho : (s.freshReport c d).echo = false := (echo_eq_false_iff _).mpr (Or.inl hshadow)
  have hk := keeps_reported s c d
  have hself' := reported_self s c d
  generalize s.reported c d = q at hunit hk hself' ⊢
  have hacted : (q.unit (causeUnit c)).reports.filter (fun w => !w.echo) = [s.freshReport c d] := by
    rw [hunit]; simp [UnitFault.reports, hecho]
  have hes : (q.unit (causeUnit c)).reports.filter Report.echo = [] := by
    rw [hunit]; simp [UnitFault.reports, hecho]
  have hlatched : (q.unit (causeUnit c)).latched = false := (congrArg UnitFault.latched hunit).trans hfree
  have hlev : reportLevel (q.unit (causeUnit c)) q.fault.self c = 2 := by
    have hq : (q.unit (causeUnit c)).base = (s.unit (causeUnit c)).base := (congrArg UnitFault.base hunit :)
    rw [hself', hself, reportLevel_unlatched hlatched, hq, hlevel]
    exact Nat.max_eq_right hbase
  have hstill : (q.unit (causeUnit c)).restart = false := (congrArg UnitFault.restart hunit).trans hrun
  let x := ((q.unit (causeUnit c)).handOver []).take 2 (s.freshReport c d) c 1 q.lamp.cycle
  let v := (((q.setUnit (causeUnit c) x).count32 (0x48 + unitIdx (causeUnit c)) 1).count32 0x57 1).raise .fault
  have hkept : Keeps .besideFault (q.setUnit (causeUnit c) x) v :=
    keeps_raise .fault (keeps_count32 _ 1 (keeps_count32 _ 1 (Keeps.refl _ _) rfl) rfl) rfl rfl
  have hv : v.unit (causeUnit c) = x := (unit_of_fault _ (hkept.faultF rfl)).trans (setUnit_unit_same ..)
  have hx : x.restart = false ∧ x.latched = true ∧ x.level = 2 := by
    simp only [x]
    rw [take_unlatched (r := UnitFault.handOver _ _) hlatched]
    exact ⟨hstill, rfl, rfl⟩
  have hclock : v.clock = s.clock := (raise_clock _ _).trans (hk.clockF rfl)
  refine ⟨v.resetSource (restartBit c), ⟨(congrArg UnitFault.latched hv).trans hx.2.1, (congrArg UnitFault.level hv).trans hx.2.2,
    congrArg (fun k : ClockState => { k with cause := k.cause ||| (1#14 <<< restartBit c) }) hclock⟩, ?_⟩
  have hreact : v.react (causeUnit c) 2 c d = ((v.resetSource (restartBit c)).openShadow (causeUnit c)).restartEffect (causeUnit c) d :=
    if_neg (by rw [hv, hx.1]; exact Bool.false_ne_true)
  unfold State.takeReport
  dsimp only
  rw [hacted, hes]
  dsimp only [topReport, List.foldl_nil, List.length_nil]
  rw [hlev, hlatched, if_neg Bool.false_ne_true]
  exact congrArg State.wtUpdate hreact

end Restarted

section Restarts

variable {s y : State} {bit : Nat}

/-- A core's RESTART leaves the collector and RESET_CAUSE as they stand when its shadow opens. -/
theorem restarted_core {u : UnitId} {d : BitVec 56} (h : s.RestartsFrom y u bit)
    (hfault : ((y.openShadow u).restartEffect u d).fault = (y.openShadow u).fault)
    (hcause : ((y.openShadow u).restartEffect u d).clock.cause = (y.openShadow u).clock.cause) :
    let t := ((y.openShadow u).restartEffect u d).wtUpdate
    (t.unit u).latched = true ∧ (t.unit u).level = 2 ∧ (t.unit u).restart = true ∧ (t.unit u).shadow = true ∧
      t.clock.cause = s.clock.cause ||| (1#14 <<< bit) := by
  obtain ⟨hlatched, hlevel, hrestart, hshadow⟩ := openShadow_unit_same y u
  obtain ⟨dev, hclock⟩ := wtUpdate_clock ((y.openShadow u).restartEffect u d)
  have hopen : (y.openShadow u).clock = y.clock := (keeps_openShadow u (Keeps.refl { fault := true } y) rfl).clockF rfl
  intro t
  have hunit : t.unit u = (y.openShadow u).unit u := unit_of_fault u ((wtUpdate_fault _).trans hfault)
  rw [hunit]
  refine ⟨hlatched.trans h.latched, hlevel.trans h.level, hrestart, hshadow, ?_⟩
  exact (congrArg ClockState.cause hclock).trans (hcause.trans (congrArg ClockState.cause (hopen.trans h.clock)))

theorem pll_setPll (c : ClockState) (p : Pll) (x : PllState) : (c.setPll p x).pll p = x := by cases p <;> rfl

/-- The detail of a PLL names it (R499). -/
theorem pllOf_detail (p : Pll) : pllOf (detailBits (detail [(2, pllCode p)]) 0 2) = p := by cases p <;> decide

/-- CLOCK's RESTART stops the PLL that the report names. -/
theorem restarted_clock {p : Pll} (h : s.RestartsFrom y .clock bit) :
    let t := ((y.openShadow .clock).restartEffect .clock (detail [(2, pllCode p)])).wtUpdate
    (t.unit .clock).latched = true ∧ (t.unit .clock).restart = true ∧ t.clock.pll p = ⟨false, false⟩ ∧ t.fault.pllShad = some p := by
  obtain ⟨hlatched, -, hrestart, -⟩ := openShadow_unit_same y .clock
  intro t
  obtain ⟨dev, hclock⟩ := wtUpdate_clock ((y.openShadow .clock).restartEffect .clock (detail [(2, pllCode p)]))
  have hfault : t.fault = { (y.openShadow .clock).fault with pllShad := some p } :=
    (wtUpdate_fault _).trans (congrArg (fun q => { (y.openShadow .clock).fault with pllShad := some q }) (pllOf_detail p))
  have hunit : t.unit .clock = (y.openShadow .clock).unit .clock :=
    (congrArg (fun f : FaultState => tget UnitFault.none f.units (unitIdx .clock)) hfault :)
  refine ⟨(congrArg UnitFault.latched hunit).trans (hlatched.trans h.latched), (congrArg UnitFault.restart hunit).trans hrestart, ?_,
    congrArg FaultState.pllShad hfault⟩
  have hpll : ((y.openShadow .clock).restartEffect .clock (detail [(2, pllCode p)])).clock =
      (y.openShadow .clock).clock.setPll p ⟨false, false⟩ :=
    congrArg (fun q => (y.openShadow .clock).clock.setPll q ⟨false, false⟩) (pllOf_detail p)
  have hdev : ∀ c : ClockState, ({ c with dev := dev } : ClockState).pll p = c.pll p := fun c => by cases p <;> rfl
  have hstopped : t.clock.pll p = _ := (congrArg (fun c : ClockState => c.pll p) hclock).trans (hdev _)
  rw [hstopped, hpll, pll_setPll]

end Restarts

/-! ### Releases and the end of shadows -/

section Release

variable (s : State) (u : UnitId)

theorem chargerUpdate_fault : s.chargerUpdate.fault = s.fault := (keeps_chargerUpdate (Keeps.refl .besideFault s) rfl).faultF rfl

/-- The collector's record of the unit that is released, and of every other, at the release. -/
theorem releaseUnit_fault (hheld : (s.unit u).restart = true)
    (hlock : u ≠ .clock ∨ ∀ p, s.fault.pllShad = some p → (s.clock.pll p).up = true) :
    (s.releaseUnit u).fault = (s.modUnit u fun r => { r with restart := false }).fault := by
  have hpll : ¬((u = .clock && (s.fault.pllShad.any fun p => !(s.clock.pll p).up)) = true) := by
    intro h
    simp only [Bool.and_eq_true, decide_eq_true_eq, Option.any_eq_true, Bool.not_eq_true'] at h
    obtain ⟨hu, p, hp, hdown⟩ := h
    exact hlock.elim (fun hne => hne hu) fun hup => absurd (hup p hp) (ne_true_of_eq_false hdown)
  unfold State.releaseUnit
  rw [if_neg (by simp [hheld]), if_neg hpll]
  refine (wtUpdate_fault _).trans ((keeps_takeAll (Keeps.refl { media := true } _) rfl).faultF rfl |>.trans ?_)
  cases u
  case power => exact chargerUpdate_fault _
  all_goals rfl

/-! A shadow ends for its own unit alone. -/

theorem foldl_same {β γ : Type} {f : State → β → State} {g : State → γ} (hf : ∀ t x, g (f t x) = g t) (l : List β) (s : State) :
    g (l.foldl f s) = g s := by
  induction l generalizing s with
  | nil => rfl
  | cons x l ih => exact (ih (f s x)).trans (hf s x)

theorem assertError_shadow (s : State) (c : Cause) (d : BitVec 56) (v : UnitId) : ((s.assertError c d).unit v).shadow = (s.unit v).shadow := by
  rw [assertError_eq]
  split
  · rfl
  · by_cases hv : v = causeUnit c
    · rw [hv, modUnit_unit_same]
      unfold UnitFault.hold
      split <;> rfl
    · exact congrArg UnitFault.shadow (setUnit_unit_ne s _ _ hv)

theorem reportShadowed_shadow (s : State) (r u v : UnitId) : ((s.reportShadowed r u).unit v).shadow = (s.unit v).shadow := by
  unfold State.reportShadowed
  dsimp only
  refine (foldl_same (g := fun t => (t.unit v).shadow) (fun t (h : Cause × BitVec 56) => assertError_shadow t h.1 h.2 v) _ _).trans ?_
  by_cases hv : v = u
  · rw [hv, setUnit_unit_same]
  · exact congrArg UnitFault.shadow (setUnit_unit_ne s _ _ hv)

theorem endShadow_shadow (hopen : (s.unit u).shadow = true) (hreleased : (s.unit u).restart = false) (v : UnitId) :
    ((s.endShadow u).unit v).shadow = if v = u then false else (s.unit v).shadow := by
  unfold State.endShadow
  rw [if_neg (by simp [hopen, hreleased])]
  dsimp only
  refine (foldl_same (g := fun t => (t.unit v).shadow) (fun t w => reportShadowed_shadow t u w v) _ _).trans ?_
  have hpll : ∀ t : State, ((if u = .clock then t.onFault fun f => { f with pllShad := none } else t).unit v) = t.unit v := fun t => by
    split <;> rfl
  rw [hpll]
  by_cases hv : v = u
  · rw [if_pos hv, hv, modUnit_unit_same]
  · rw [if_neg hv]
    exact congrArg UnitFault.shadow (setUnit_unit_ne s _ _ hv)

end Release

/-! ### The collector's own fault -/

section Own

/-- What the collector keeps of its own fault (R449). -/
def FaultState.own (f : FaultState) : Bool × Byte × Word × Nat := (f.self, f.selfAddr, f.selfCyc, f.selfCnt)

variable (s : State)

/-- What lies beside the collector leaves its own fault as it is. -/
theorem own_of_keeps {s t : State} (h : Keeps .besideFault s t) : t.fault.own = s.fault.own := congrArg FaultState.own (h.faultF rfl)

/-- The main domain's reset is no reset of the collector. -/
theorem mainDown_own : s.mainDown.fault.own = s.fault.own := by
  have hrails := own_of_keeps (keeps_railsDown (Keeps.refl _ (s.mainReset true)) rfl)
  unfold State.mainDown
  dsimp only
  generalize (s.mainReset true).railsDown = u at hrails ⊢
  exact hrails

theorem trigger_own (bit : Nat) (code : BitVec 3) (wire halt : Bool) : (s.trigger bit code wire halt).fault.own = s.fault.own := by
  have hcut : Keeps .besideFault s (s.resetSource bit).gaugeCut := keeps_gaugeCut (keeps_resetSource bit (Keeps.refl _ s) rfl) rfl
  have hdown : ∀ d, (((s.resetSource bit).gaugeCut.mainDown.setDev d).vauxCheck).fault.own = s.fault.own := fun d =>
    (own_of_keeps (keeps_vauxCheck (keeps_setDev d (Keeps.refl _ _) rfl rfl rfl rfl) rfl)).trans ((mainDown_own _).trans (own_of_keeps hcut))
  have hflush := own_of_keeps (keeps_beginFlush code (!wire) halt none hcut rfl rfl)
  unfold State.trigger
  split
  · rfl
  split
  · split
    · exact own_of_keeps (keeps_cutReset bit (Keeps.refl _ s) rfl rfl rfl)
    · rfl
  dsimp only
  split
  · exact hflush
  · exact hflush
  · exact hdown .boot
  · exact hdown .boot
  · exact hdown .boot
  · exact hdown _
  · exact hdown _
  · exact own_of_keeps hcut

/-- A mismatch sets the collector's own fault, or counts in it. -/
theorem dupMismatch_own (a : Byte) (w : Word) (b : Bool) : (s.dupMismatch a w b).fault.own =
    if s.fault.self then (true, s.fault.selfAddr, s.fault.selfCyc, min 255 (s.fault.selfCnt + 1))
    else (true, a, BitVec.ofNat 32 s.lamp.cycle, 1) := by
  unfold State.dupMismatch
  dsimp only
  rw [wtUpdate_fault, trigger_own]
  refine (own_of_keeps (keeps_raise .fault (keeps_count32 _ 1 (keeps_count32 _ 1 (Keeps.refl _ _) rfl) rfl) rfl rfl)).trans ?_
  refine (foldl_same (g := fun t => t.fault.own) (fun t u => ?_) _ _).trans ?_
  · rfl
  · show FaultState.own (if s.fault.self = true then _ else _) = _
    split
    · next h => exact congrArg (fun x => (x, _, _, _)) h
    · rfl

end Own

/-- Settles O52: the watchdog and the lost lock by the reaction that their report has, and each end by the part of the record that it changes. -/
theorem reactionsRun : Obligations.ReactionsRun := by
  unfold Obligations.ReactionsRun
  intro s
  refine ⟨fun c => ?_, fun p hpor hup hfall hwait hfree hrun hshadow hbase hself => ?_, fun u hheld hlock => ?_, fun u hopen hreleased => ?_,
    fun a w b => ?_⟩
  · cases c with
    | front =>
      intro u bit hruns hwait hfree hshadow hbase hself
      obtain ⟨hon, hrun⟩ : s.clock.mainOn = true ∧ (s.unit .front).restart = false := by
        simp only [State.coreRuns, State.stopped, Bool.and_eq_true, Bool.not_eq_true', Bool.or_eq_false_iff] at hruns
        exact ⟨hruns.1.1, hruns.2.1⟩
      obtain ⟨y, hy, htake⟩ := reported_restarts (c := .frontWatchdog) (d := 0) (Or.inl hon) hwait hfree hrun hshadow hbase hself rfl
      exact ⟨_, (if_pos hruns).trans (congrArg Host.Outcome.next htake), restarted_core hy rfl rfl⟩
    | back =>
      intro u bit hruns hwait hfree hshadow hbase hself
      obtain ⟨hon, hrun⟩ : s.clock.mainOn = true ∧ (s.unit .back).restart = false := by
        simp only [State.coreRuns, State.stopped, Bool.and_eq_true, Bool.not_eq_true', Bool.or_eq_false_iff] at hruns
        exact ⟨hruns.1.1, hruns.2.1⟩
      obtain ⟨y, hy, htake⟩ := reported_restarts (c := .backWatchdog) (d := 0) (Or.inl hon) hwait hfree hrun hshadow hbase hself rfl
      exact ⟨_, (if_pos hruns).trans (congrArg Host.Outcome.next htake), restarted_core hy rfl rfl⟩
  · obtain ⟨y, hy, htake⟩ := reported_restarts (c := .clockPllUnlock) (d := detail [(2, pllCode p)]) (Or.inr rfl) hwait hfree hrun hshadow
      hbase hself rfl
    exact ⟨_, (if_neg (by simp [hpor, hup, hfall])).trans (congrArg Host.Outcome.next htake), restarted_clock hy⟩
  · have hfault := releaseUnit_fault s u hheld hlock
    have hunit : (s.releaseUnit u).unit u = { s.unit u with restart := false } := (unit_of_fault u hfault).trans (modUnit_unit_same ..)
    exact ⟨_, rfl, congrArg UnitFault.restart hunit, (congrArg UnitFault.shadow hunit :),
      fun v hv => (unit_of_fault v hfault).trans (setUnit_unit_ne s u _ hv)⟩
  · have hshadow := endShadow_shadow s u hopen hreleased
    exact ⟨_, rfl, (keeps_endShadow u (Keeps.refl { fault := true } s) rfl).frame, (hshadow u).trans (if_pos rfl),
      fun v hv => (hshadow v).trans (if_neg hv)⟩
  · have hown := dupMismatch_own s a w b
    have hset : (s.dupMismatch a w b).fault.self = true := (congrArg Prod.fst hown).trans (by split <;> rfl)
    refine ⟨_, rfl, hset, fun hnone => ?_, fun hself => ?_⟩
    · rw [hnone, if_neg Bool.false_ne_true] at hown
      obtain ⟨-, haddr, hcyc, hcnt⟩ := Prod.mk.inj hown |>.imp_right fun h => Prod.mk.inj h |>.imp_right Prod.mk.inj
      exact ⟨haddr, hcyc, hcnt⟩
    · rw [hself, if_pos rfl] at hown
      obtain ⟨-, haddr, -, hcnt⟩ := Prod.mk.inj hown |>.imp_right fun h => Prod.mk.inj h |>.imp_right Prod.mk.inj
      exact ⟨haddr, hcnt⟩

end Sys2Proof.Machine

/-! # The memories report, and their rows are retired (R372, R387, R393 to R397) -/

namespace Sys2Proof.Machine
open Sys2Proof

section Hits

variable {s : State} {h : EccHit}

theorem scrubTo_memory : ∃ k, (s.scrubTo h).memory h.mem.toNat = { s.memory h.mem.toNat with scrubAt := k } := by
  unfold State.scrubTo
  split
  · exact ⟨_, modMemory_memory_same ..⟩
  · exact ⟨_, rfl⟩

theorem eccLog_memory (recur : Bool) (m : Nat) : (s.eccLog h recur).memory m = s.memory m := by
  unfold State.eccLog
  dsimp only
  split <;> rfl

/-- The counts of MEM_ECC_STAT that a hit moves (R394). -/
def MemRec.counted (x : MemRec) (uncorr : Bool) : MemRec :=
  if uncorr then { x with uncorr := min (x.uncorr + 1) 255 } else { x with corr := min (x.corr + 1) 65535 }

theorem eccCount_memory : (s.eccCount h).memory h.mem.toNat = (s.memory h.mem.toNat).counted h.uncorr := by
  unfold State.eccCount MemRec.counted
  dsimp only
  split <;> exact tget_tset_same MemRec.none s.mem.mems h.mem.toNat _

/-- A hit that is counted and logged, before its word is poisoned or corrected. -/
def State.eccSeen (s : State) (h : EccHit) : State := ((s.scrubTo h).eccCount h).eccLog h ((s.memory h.mem.toNat).fixed.contains h.word.toNat)

theorem eccSeen_memory : ∃ k, (s.eccSeen h).memory h.mem.toNat = ({ s.memory h.mem.toNat with scrubAt := k } : MemRec).counted h.uncorr := by
  obtain ⟨k, hk⟩ := scrubTo_memory (s := s) (h := h)
  exact ⟨k, (eccLog_memory _ _).trans (eccCount_memory.trans (congrArg (fun x : MemRec => x.counted h.uncorr) hk))⟩

theorem keeps_eccSeen (s : State) (h : EccHit) : Keeps { mem := true, health := true } s (s.eccSeen h) :=
  keeps_eccLog h _ (keeps_eccCount h (keeps_scrubTo h (Keeps.refl _ s) rfl) rfl rfl) rfl

theorem eccHit_poisoned (hu : h.uncorr = true) (hp : h.word.toNat ∈ (s.memory h.mem.toNat).poison) : s.eccHit h = s.eccSeen h := by
  unfold State.eccHit
  dsimp only
  rw [if_pos hu, if_pos (by simpa using hp)]
  rfl

/-- An uncorrectable word that is new is poisoned, and its unit's line asserted (R387). -/
theorem eccHit_poisons (hu : h.uncorr = true) (hp : h.word.toNat ∉ (s.memory h.mem.toNat).poison) : s.eccHit h =
    ((s.eccSeen h).modMemory h.mem.toNat fun y => { y with poison := h.word.toNat :: y.poison }).assertError (uncorrCause h.mem.toNat)
      (memDetail h.word.toNat h.mem.toNat (some h)) := by
  unfold State.eccHit
  dsimp only
  rw [if_pos hu, if_neg (by simpa using hp)]
  rfl

/-- The scrubber's write back changes a memory's words alone (R391). -/
theorem scrubBack_memory (m w : Nat) (places : List Byte) : ∃ c, (s.scrubBack m w places).memory m = { s.memory m with cells := c } := by
  have hmem : (s.scrubBack m w places).memory m = _ := modMemory_memory_same ..
  rw [hmem]
  split
  · exact ⟨_, rfl⟩
  · exact ⟨_, rfl⟩

theorem eccHit_corrected (hu : h.uncorr = false) : ∃ c p, (s.eccHit h).memory h.mem.toNat =
    { (s.eccSeen h).memory h.mem.toNat with cells := c, fixed := p } := by
  unfold State.eccHit
  dsimp only
  rw [if_neg (by simp [hu])]
  split
  · obtain ⟨c, hc⟩ := scrubBack_memory (s := s.eccSeen h) h.mem.toNat h.word.toNat h.places
    exact ⟨c, _, (modMemory_memory_same ..).trans (congrArg (fun y : MemRec => { y with fixed := h.word.toNat :: y.fixed.filter fun k => k ≠ h.word.toNat }) hc)⟩
  · exact ⟨_, _, modMemory_memory_same ..⟩

theorem eccHit_corrected_fault (hu : h.uncorr = false) : (s.eccHit h).fault = s.fault := by
  unfold State.eccHit
  dsimp only
  rw [if_neg (by simp [hu])]
  have hseen := (keeps_eccSeen s h).faultF rfl
  split <;> exact hseen

end Hits

section Rows

variable {s : State} {m row : Nat} {h : Option EccHit}

theorem retireHard_spare (hm : m ≠ 0) (hfree : (s.memory m).retired.length < memSpares m) : s.retireHard m row h = s.retireOne m row := by
  unfold State.retireHard
  rw [if_neg (fun h => hm h.1), if_pos hfree]

theorem retireHard_noSpare (hm : m ≠ 0) (hnone : memSpares m ≤ (s.memory m).retired.length) :
    s.retireHard m row h = s.assertError (noSpareCause m) (memDetail row m h) := by
  unfold State.retireHard
  rw [if_neg (fun h => hm h.1), if_neg (Nat.not_lt.mpr hnone), if_neg hm]

end Rows

/-- The oldest entry that waits is examined no more (R395). -/
def State.entrySeen (s : State) (i : Nat) (e : EccEntry) : State :=
  s.onMem fun x => { x with log := tset EccEntry.none x.log i { e with waiting := false } }

theorem examine_row {s : State} {i : Nat} {e : EccEntry} (hfirst : s.mem.firstWaiting = some (i, e)) (hm : e.hit.mem ≠ 0) : s.examine =
    if e.recur || e.hit.uncorr then (s.entrySeen i e).retireHard e.hit.mem.toNat (e.hit.word.toNat / memRowWords e.hit.mem.toNat) (some e.hit)
    else s.entrySeen i e := by
  unfold State.examine
  rw [hfirst]
  exact if_neg fun hz => hm (BitVec.eq_of_toNat_eq hz)

/-- Settles O53: a hit by what it counts, an entry by its row, and a rebuilt word by its memory's record. -/
theorem memoriesReport : Obligations.MemoriesReport := by
  unfold Obligations.MemoriesReport
  intro s
  refine ⟨fun h k hok => ?_, fun k ms hup => ?_, fun i e hon hfirst hmem => ?_, fun k w hup hk hp => ?_⟩
  · extract_lets m x
    have hon : s.clock.mainOn = true := by
      simp only [State.hitOk, State.memUp, Bool.and_eq_true] at hok
      exact hok.1.1.1
    have hexec : exec (.scrubAccess (some h) k none) s = .next (s.eccHit h) := congrArg Host.Outcome.next (if_pos hok)
    obtain ⟨at_, hseen⟩ := eccSeen_memory (s := s) (h := h)
    have hkeeps := keeps_eccHit (L := { mem := true, fault := true, health := true }) h (Keeps.refl _ s) rfl rfl rfl
    refine ⟨_, hexec, hkeeps.frame, fun hu => ?_, fun hu => ?_⟩
    · rw [hu] at hseen
      by_cases hp : h.word.toNat ∈ x.poison
      · rw [eccHit_poisoned hu hp, hseen]
        exact ⟨rfl, rfl, hp, fun hn => absurd hp hn, fun _ => (keeps_eccSeen s h).faultF rfl⟩
      · obtain ⟨f, hassert, hwaits⟩ := assertError_waits
          ((s.eccSeen h).modMemory m fun y => { y with poison := h.word.toNat :: y.poison }) (uncorrCause m) (memDetail h.word.toNat m (some h))
          ((congrArg ClockState.mainOn ((keeps_eccSeen s h).clockF rfl)).trans hon)
        rw [eccHit_poisons hu hp, hassert]
        have hpoisoned := modMemory_memory_same (s.eccSeen h) m fun y => { y with poison := h.word.toNat :: y.poison }
        rw [hseen] at hpoisoned
        exact ⟨congrArg MemRec.uncorr hpoisoned, (congrArg MemRec.corr hpoisoned :), (congrArg (h.word.toNat ∈ MemRec.poison ·) hpoisoned).mpr
          List.mem_cons_self, fun _ => hwaits, fun hin => absurd hin hp⟩
    · obtain ⟨c, p, hfixed⟩ := eccHit_corrected (s := s) hu
      rw [hfixed, hseen, hu]
      exact ⟨rfl, rfl, eccHit_corrected_fault hu⟩
  · have hlap : s.endLap k.toNat ms = _ := if_pos hup
    refine ⟨_, rfl, (keeps_endLap _ _ (Keeps.refl { mem := true } s) rfl).frame, ?_⟩
    rw [hlap]
    exact congrArg MemRec.lap (modMemory_memory_same s k.toNat _)
  · extract_lets m row
    have hm : m ≠ 0 := fun hz => hmem (BitVec.eq_of_toNat_eq hz)
    have hseen : tget EccEntry.none (s.entrySeen i e).mem.log i = { e with waiting := false } := tget_tset_same ..
    have hkeeps := keeps_examine (L := { mem := true, fault := true, health := true }) (Keeps.refl _ s) rfl rfl rfl
    refine ⟨s.examine, if_pos hon, hkeeps.frame, ?_⟩
    rw [examine_row hfirst hmem]
    by_cases hhard : e.recur = true ∨ e.hit.uncorr = true
    · rw [if_pos (by simpa using hhard)]
      by_cases hfree : (s.memory m).retired.length < memSpares m
      · rw [retireHard_spare (s := s.entrySeen i e) hm hfree]
        exact ⟨hseen, fun hr hu => absurd hhard (by simp [hr, hu]), fun _ => ⟨fun _ => ⟨retireOne_retired _ _ _, rfl⟩, fun hle => absurd hfree (Nat.not_lt.mpr hle)⟩⟩
      · obtain ⟨f, hassert, hwaits⟩ := assertError_waits (s.entrySeen i e) (noSpareCause m) (memDetail row m (some e.hit)) hon
        rw [retireHard_noSpare (s := s.entrySeen i e) hm (Nat.not_lt.mp hfree), hassert]
        exact ⟨hseen, fun hr hu => absurd hhard (by simp [hr, hu]), fun _ => ⟨fun hlt => absurd hlt hfree, fun _ => ⟨rfl, hwaits⟩⟩⟩
    · rw [if_neg (by simpa using hhard)]
      exact ⟨hseen, fun _ _ => ⟨rfl, rfl⟩, fun h => absurd h hhard⟩
  · have hgo : (s.memUp k.toNat && (k.toNat == 1 || k.toNat == 2 || k.toNat == 3) && (s.memory k.toNat).poison.contains w.toNat) = true := by
      have hkind : (k.toNat == 1 || k.toNat == 2 || k.toNat == 3) = true := by rcases hk with rfl | rfl | rfl <;> rfl
      rw [hup, hkind]
      simpa using hp
    refine ⟨_, if_pos hgo, rfl, ?_, fun j hj => modMemory_memory_ne _ _ _ hj⟩
    rw [modMemory_memory_same]
    simp

end Sys2Proof.Machine

/-! # READ_MARGIN, PROGRAM and OTP_PROGRAM (R406, R410, R413, R430) -/

namespace Sys2Proof.Machine
open Sys2Proof

section Contents

variable {α : Type} [DecidableEq α]

/-- Consecutive values put into a table: the table below stands, and each value is read back at its place. -/
theorem tget_puts (dflt : α) (put : Sparse α → Nat → List α → Sparse α) (hnil : ∀ t k, put t k [] = t)
    (hcons : ∀ t k u us, put t k (u :: us) = put (tset dflt t k u) (k + 1) us) (us : List α) :
    ∀ t k, (∀ a, a < k → tget dflt (put t k us) a = tget dflt t a) ∧ ∀ j, j < us.length → tget dflt (put t k us) (k + j) = us.getD j dflt := by
  induction us with
  | nil => exact fun t k => ⟨fun a _ => by rw [hnil], fun j hj => absurd hj (Nat.not_lt_zero j)⟩
  | cons u us ih =>
    intro t k
    rw [hcons]
    obtain ⟨hbelow, hput⟩ := ih (tset dflt t k u) (k + 1)
    refine ⟨fun a ha => ?_, fun j hj => ?_⟩
    · rw [hbelow a (Nat.lt_succ_of_lt ha), tget_tset_ne _ _ _ (Nat.ne_of_lt ha)]
    · cases j with
      | zero => exact (hbelow k (by omega)).trans (tget_tset_same ..)
      | succ j =>
        have hthere := hput j (by simpa using hj)
        rw [show k + 1 + j = k + (j + 1) by omega] at hthere
        exact hthere

theorem tget_unitsPut (t : Sparse (List Byte)) (k : Nat) (us : List (List Byte)) {j : Nat} (hj : j < us.length) :
    tget [] (unitsPut t k us) (k + j) = us.getD j [] :=
  (tget_puts [] unitsPut (fun _ _ => rfl) (fun _ _ _ _ => rfl) us t k).2 j hj

theorem tget_otpPut (t : Sparse Byte) (k : Nat) (bs : List Byte) {j : Nat} (hj : j < bs.length) :
    tget 0xFF (otpPut t k bs) (k + j) = bs.getD j 0xFF :=
  (tget_puts 0xFF otpPut (fun _ _ => rfl) (fun _ _ _ _ => rfl) bs t k).2 j hj

theorem chunksOf_getD (k n : Nat) (bs : List Byte) {j : Nat} (hj : j < n) : (chunksOf k n bs).getD j [] = (bs.drop (k * j)).take k := by
  induction n generalizing bs j with
  | zero => exact absurd hj (Nat.not_lt_zero j)
  | succ n ih =>
    cases j with
    | zero => rfl
    | succ j =>
      have hthere := ih (bs.drop k) (Nat.lt_of_succ_lt_succ hj)
      rw [List.drop_drop, show k + k * j = k * (j + 1) by rw [Nat.mul_succ, Nat.add_comm]] at hthere
      exact hthere

/-- The bytes that a descriptor programs are those of its source where that has the descriptor's length. -/
theorem data_full (d : WDesc) {src : List Byte} (h : src.length = 32 * d.count) : d.data src = src := by
  unfold WDesc.data
  rw [List.take_append_of_le_length (Nat.le_of_eq h.symm), List.take_of_length_le (Nat.le_of_eq h)]

end Contents

/-! ### Failures -/

section Failures

variable (s : State)

/-- What becomes of the array's records on a failure: the lists of failed and of retired sectors alone change. -/
structure WickState.Failed (w v : WickState) : Prop where
  queue : v.queue = w.queue
  anchors : v.anchors = w.anchors
  blankL : v.blankL = w.blankL
  lUnits : v.lUnits = w.lUnits
  usedP : v.usedP = w.usedP

theorem WickState.Failed.refl (w : WickState) : w.Failed w := ⟨rfl, rfl, rfl, rfl, rfl⟩

theorem WickState.Failed.trans {w v u : WickState} (h : w.Failed v) (k : v.Failed u) : w.Failed u :=
  ⟨k.queue.trans h.queue, k.anchors.trans h.anchors, k.blankL.trans h.blankL, k.lUnits.trans h.lUnits, k.usedP.trans h.usedP⟩

theorem assertError_wick (c : Cause) (d : BitVec 56) : (s.assertError c d).wick = s.wick :=
  (keeps_assertError c d (Keeps.refl { fault := true } s) rfl).wickF rfl

theorem retireSector_failed (k : Nat) : s.wick.Failed (s.retireSector k).wick := by
  unfold State.retireSector
  dsimp only
  split
  · exact .refl _
  · split
    · rw [assertError_wick, assertError_wick]
      exact ⟨rfl, rfl, rfl, rfl, rfl⟩
    · rw [assertError_wick]
      exact ⟨rfl, rfl, rfl, rfl, rfl⟩

theorem progFail_failed (k : Nat) : s.wick.Failed (s.progFail k).wick := by
  unfold State.progFail
  dsimp only
  split
  · exact (show s.wick.Failed (s.onWick fun w => { w with progFails := tset 0 w.progFails k (tget 0 s.wick.progFails k + 1) }).wick from
      ⟨rfl, rfl, rfl, rfl, rfl⟩).trans (retireSector_failed _ k)
  · exact ⟨rfl, rfl, rfl, rfl, rfl⟩

theorem largeFail_failed (sector : Nat) : s.wick.Failed (s.largeFail sector).wick := by
  unfold State.largeFail
  rw [assertError_wick]
  exact ⟨rfl, rfl, rfl, rfl, rfl⟩

theorem largeFail_bad (sector : Nat) : sector ∈ (s.largeFail sector).wick.badL := by
  unfold State.largeFail
  rw [assertError_wick]
  show sector ∈ if s.wick.badL.contains sector then s.wick.badL else s.wick.badL ++ [sector]
  split
  · next h => simpa using h
  · simp

end Failures

/-! ### PROGRAM -/

section Program

variable {s : State} {i : Nat} {d : WDesc} {b v : Bool} {src : HostRead} {data : List Byte}

theorem exec_wickProgram (hnext : s.wickNext wopProgram = some (i, d)) :
    exec (.wickProgram b v src) s = .next (if s.sourceOpen d then s.wickProgram i d b v src else s) := by
  show execWickProgram b v src s = _
  unfold execWickProgram
  rw [hnext]

theorem exec_otpProgram (hnext : s.wickNext wopOtp = some (i, d)) :
    exec (.otpProgram v src) s = .next (if s.sourceOpen d then s.wickOtp i d v src else s) := by
  show execOtpProgram v src s = _
  unfold execOtpProgram
  rw [hnext]

theorem programmedL_rest (w : WickState) : (w.programmedL d data).queue = w.queue ∧ (w.programmedL d data).anchors = w.anchors ∧
    (w.programmedL d data).blankL = (w.blankL.filter fun k => k ≠ d.sector) ∧
    (w.programmedL d data).lUnits = unitsPut w.lUnits (8192 * d.sector + d.first) (chunksOf 32 d.count (d.data data)) := by
  unfold WickState.programmedL
  dsimp only
  split
  · exact ⟨rfl, rfl, rfl, rfl⟩
  · split
    · exact ⟨rfl, rfl, rfl, rfl⟩
    · exact ⟨rfl, rfl, rfl, rfl⟩

/-- What a PROGRAM that starts on a blank range leaves in the array before its verify. -/
def WickState.programmed (w : WickState) (d : WDesc) (data : List Byte) : WickState :=
  if d.sector < 16 then w.programmedL d data else w.useSector (w.phys (d.sector - 16))

theorem programmed_large (w : WickState) (h : d.sector < 16) : w.programmed d data = w.programmedL d data := if_pos h

theorem programmed_param (w : WickState) (h : 16 ≤ d.sector) : w.programmed d data = w.useSector (w.phys (d.sector - 16)) :=
  if_neg (Nat.not_lt.mpr h)

theorem programmed_rest (w : WickState) : (w.programmed d data).queue = w.queue ∧ (w.programmed d data).anchors = w.anchors := by
  obtain ⟨hqueue, hanchors, -, -⟩ := programmedL_rest (d := d) (data := data) w
  unfold WickState.programmed
  split
  · exact ⟨hqueue, hanchors⟩
  · exact ⟨rfl, rfl⟩

theorem wickProgram_passes (hvalid : d.valid = true) (hunused : s.wick.targetUsed d = false) :
    s.wickProgram i d true true (.ok data) = { s with wick := (s.wick.programmed d data).endAt i 0x00 } := by
  unfold State.wickProgram
  rw [if_neg (by simp [hvalid])]
  dsimp only
  rw [if_neg (by simp [hunused]), if_pos rfl]
  by_cases hl : d.sector < 16
  · rw [if_pos (decide_eq_true hl), programmed_large _ hl]
    rfl
  · rw [if_neg (by simpa using hl), programmed_param _ (Nat.not_lt.mp hl)]
    rfl

/-- The state in which a PROGRAM that did not verify is reported. -/
def State.unverified (s : State) (i : Nat) (d : WDesc) (data : List Byte) : State :=
  { s with wick := (s.wick.programmed d data).endAt i 0x03 }

theorem wickProgram_fails_large (hvalid : d.valid = true) (hunused : s.wick.targetUsed d = false) (hl : d.sector < 16) :
    s.wickProgram i d true false (.ok data) = (s.unverified i d data).largeFail d.sector := by
  unfold State.wickProgram State.unverified
  rw [if_neg (by simp [hvalid])]
  dsimp only
  rw [if_neg (by simp [hunused]), if_neg Bool.false_ne_true, if_pos (decide_eq_true hl), if_pos (decide_eq_true hl), programmed_large _ hl]
  rfl

theorem wickProgram_fails_param (hvalid : d.valid = true) (hunused : s.wick.targetUsed d = false) (hl : 16 ≤ d.sector) :
    s.wickProgram i d true false (.ok data) = (s.unverified i d data).progFail (s.wick.phys (d.sector - 16)) := by
  have hno : ¬(decide (d.sector < 16) = true) := by simpa using hl
  unfold State.wickProgram State.unverified
  rw [if_neg (by simp [hvalid])]
  dsimp only
  rw [if_neg (by simp [hunused]), if_neg Bool.false_ne_true, if_neg hno, if_neg hno, programmed_param _ hl]
  rfl

/-- A PROGRAM on a blank range: the array takes the data, and the descriptor ends by the verify. -/
theorem wickProgram_blank (hvalid : d.valid = true) (hunused : s.wick.targetUsed d = false) :
    ((s.wick.programmed d data).endAt i (if v then 0x00 else 0x03)).Failed (s.wickProgram i d true v (.ok data)).wick ∧
      (d.sector < 16 → v = false → d.sector ∈ (s.wickProgram i d true v (.ok data)).wick.badL) := by
  cases v with
  | true =>
    rw [wickProgram_passes hvalid hunused]
    exact ⟨.refl _, fun _ h => absurd h (Ne.symm Bool.false_ne_true)⟩
  | false =>
    by_cases hl : d.sector < 16
    · rw [wickProgram_fails_large hvalid hunused hl]
      exact ⟨largeFail_failed (s.unverified i d data) _, fun _ _ => largeFail_bad _ _⟩
    · rw [wickProgram_fails_param hvalid hunused (Nat.not_lt.mp hl)]
      exact ⟨progFail_failed (s.unverified i d data) _, fun h => absurd h hl⟩

/-- What the units of plane L hold after a PROGRAM, and which sectors are blank no more. -/
theorem wickProgram_contents (hvalid : d.valid = true) (hunused : s.wick.targetUsed d = false) :
    let w := (s.wickProgram i d true v (.ok data)).wick
    w.queue = (s.wick.endAt i (if v then 0x00 else 0x03)).queue ∧ w.anchors = s.wick.anchors ∧
      (d.sector < 16 → d.sector ∉ w.blankL ∧ ∀ j, j < d.count → data.length = 32 * d.count →
        tget [] w.lUnits (8192 * d.sector + d.first + j) = (data.drop (32 * j)).take 32) ∧
      (16 ≤ d.sector → s.wick.phys (d.sector - 16) ∈ w.usedP) := by
  obtain ⟨⟨hqueue, hanchors, hblank, hunits, hused⟩, -⟩ := wickProgram_blank (i := i) (v := v) (data := data) hvalid hunused
  obtain ⟨hq, ha⟩ := programmed_rest (d := d) (data := data) s.wick
  obtain ⟨-, -, hblankL, hlUnits⟩ := programmedL_rest (d := d) (data := data) s.wick
  intro w
  refine ⟨hqueue.trans (congrArg (fun q => q.modify i fun x => { x with status := some (if v then (0x00 : Byte) else 0x03) }) hq),
    hanchors.trans ha, fun hl => ⟨?_, fun j hj hlen => ?_⟩, fun hl => ?_⟩
  · have hnew : (s.wick.programmed d data).blankL = s.wick.blankL.filter fun k => k ≠ d.sector := by
      rw [programmed_large _ hl]
      exact hblankL
    rw [hblank, show ((s.wick.programmed d data).endAt i _).blankL = (s.wick.programmed d data).blankL from rfl, hnew]
    simp
  · have hnew : (s.wick.programmed d data).lUnits =
        unitsPut s.wick.lUnits (8192 * d.sector + d.first) (chunksOf 32 d.count (d.data data)) := by
      rw [programmed_large _ hl]
      exact hlUnits
    rw [hunits, show ((s.wick.programmed d data).endAt i _).lUnits = (s.wick.programmed d data).lUnits from rfl, hnew,
      tget_unitsPut _ _ _ (by rw [Laws.chunksOf_count]; exact hj), chunksOf_getD _ _ _ hj, data_full d hlen]
  · have hnew : (s.wick.programmed d data).usedP = (s.wick.useSector (s.wick.phys (d.sector - 16))).usedP := by
      rw [programmed_param _ hl]
    rw [hused, show ((s.wick.programmed d data).endAt i _).usedP = (s.wick.programmed d data).usedP from rfl, hnew]
    show _ ∈ if s.wick.usedP.contains _ then s.wick.usedP else _ :: s.wick.usedP
    split
    · next h => simpa using h
    · exact List.mem_cons_self

/-! ### OTP_PROGRAM -/

theorem wickOtp_again (hvalid : d.valid = true) (hdone : ∃ u ∈ d.units, u ∈ s.wick.otpDone) :
    s.wickOtp i d v (.ok data) = s.onWick fun w => w.endAt i 0x02 := by
  unfold State.wickOtp
  rw [if_neg (by simp [hvalid])]
  exact if_pos (by simpa using hdone)

theorem wickOtp_first (hvalid : d.valid = true) (hnew : ∀ u ∈ d.units, u ∉ s.wick.otpDone) :
    s.wickOtp i d true (.ok data) = s.onWick fun w =>
      ({ w with otp := otpPut w.otp (32 * d.first) (d.data data), otpDone := w.otpDone ++ d.units } : WickState).endAt i 0x00 := by
  unfold State.wickOtp
  rw [if_neg (by simp [hvalid])]
  exact if_neg (by simpa using hnew)

end Program

/-- Settles O54: each descriptor by what its start finds, and the array by the values put into it. -/
theorem wickPrograms : Obligations.WickPrograms := by
  unfold Obligations.WickPrograms
  intro s i d hvalid ends
  refine ⟨fun hnext => ?_, fun hnext hclosed b v src => ?_, fun hnext hclosed v src => ?_, fun hnext hopen => ?_, fun hnext hopen => ?_⟩
  · have hgo : ∀ pass, exec (.wickReadMargin pass) s = ends (if pass then 0x00 else 0x01) := fun pass => by
      show execWickReadMargin pass s = _
      unfold execWickReadMargin
      rw [hnext]
      dsimp only
      rw [if_neg (by simp [hvalid])]
      rfl
    exact ⟨hgo true, hgo false⟩
  · rw [exec_wickProgram hnext, if_neg (by simp [hclosed])]
  · rw [exec_otpProgram hnext, if_neg (by simp [hclosed])]
  · have hgo : ∀ b v src, exec (.wickProgram b v src) s = .next (s.wickProgram i d b v src) := fun b v src => by
      rw [exec_wickProgram hnext, if_pos hopen]
    have hno : ¬((!d.valid) = true) := by simp [hvalid]
    refine ⟨fun b v => (hgo ..).trans (congrArg Host.Outcome.next (if_neg hno)),
      fun v data => (hgo ..).trans (congrArg Host.Outcome.next ((if_neg hno).trans (if_pos rfl))),
      fun v data hused => (hgo ..).trans (congrArg Host.Outcome.next ((if_neg hno).trans (if_pos (by simp [hused])))),
      fun v data hunused => ?_⟩
    obtain ⟨-, hbad⟩ := wickProgram_blank (i := i) (v := v) (data := data) hvalid hunused
    obtain ⟨hqueue, hanchors, hlarge, hparam⟩ := wickProgram_contents (i := i) (v := v) (data := data) hvalid hunused
    exact ⟨_, hgo .., (keeps_wickProgram (L := { wick := true, fault := true }) i d true v (.ok data) (Keeps.refl _ s) rfl rfl).frame, hqueue, hanchors, fun hl => ⟨(hlarge hl).1, hbad hl, (hlarge hl).2⟩, hparam⟩
  · have hgo : ∀ v src, exec (.otpProgram v src) s = .next (s.wickOtp i d v src) := fun v src => by
      rw [exec_otpProgram hnext, if_pos hopen]
    refine ⟨fun v => (hgo ..).trans (congrArg Host.Outcome.next (if_neg (by simp [hvalid]))),
      fun hdone v data => (hgo ..).trans (congrArg Host.Outcome.next (wickOtp_again hvalid hdone)), fun hnew data hlen => ?_⟩
    refine ⟨_, (hgo ..).trans (congrArg Host.Outcome.next (wickOtp_first hvalid hnew)), rfl, rfl, rfl, fun k hk => ?_⟩
    show tget 0xFF (otpPut s.wick.otp (32 * d.first) (d.data data)) (32 * d.first + k) = _
    rw [data_full d hlen, tget_otpPut _ _ _ (by rw [hlen]; exact hk)]

end Sys2Proof.Machine

/-! # Erases and ROTATE (R133, R408, R410, R411, R413 to R416, R418, R419) -/

namespace Sys2Proof.Machine
open Sys2Proof

/-! ### Records that are written (R417, R419) -/

section Records

variable {w u : WickState}

/-- From w to u record copies have been written in the first n logical sectors, or wait; no copy has gone. -/
structure WickState.Written (n : Nat) (w u : WickState) : Prop where
  rest : u = { w with recs := u.recs, recsDue := u.recsDue, usedP := u.usedP, sinceWear := u.sinceWear }
  recs : ∀ y ∈ w.recs, y ∈ u.recs
  used : ∀ k ∈ u.usedP, k ∈ w.usedP ∨ ∃ l, l < n ∧ k = w.phys l

theorem WickState.Written.refl (n : Nat) (w : WickState) : w.Written n w := ⟨rfl, fun _ h => h, fun _ h => Or.inl h⟩

theorem WickState.Written.phys {n : Nat} (h : w.Written n u) (l : Nat) : u.phys l = w.phys l := by rw [h.rest]; rfl

theorem WickState.Written.trans {n : Nat} {v : WickState} (h : w.Written n u) (k : u.Written n v) : w.Written n v := by
  refine ⟨k.rest.trans (by rw [h.rest]), fun y hy => k.recs y (h.recs y hy), fun p hp => ?_⟩
  rcases k.used p hp with hu | ⟨l, hl, rfl⟩
  · exact h.used p hu
  · exact Or.inr ⟨l, hl, h.phys l⟩

theorem mem_useSector {k p : Nat} (h : p ∈ (w.useSector k).usedP) : p ∈ w.usedP ∨ p = k := by
  have hmem : p ∈ if w.usedP.contains k then w.usedP else k :: w.usedP := h
  split at hmem
  · exact Or.inl hmem
  · exact (List.mem_cons.mp hmem).symm

theorem written_placeRec {n l p : Nat} (r : WRec) (hl : l < n) (hp : p / 64 = w.phys l) : w.Written n (w.placeRec r p) :=
  ⟨rfl, fun _ hy => List.mem_cons_of_mem _ hy, fun _ hk => (mem_useSector hk).imp_right fun h => ⟨l, hl, h.trans hp⟩⟩

/-- A free place lies in one of the logical sectors that are looked at. -/
theorem freePlaceIn_sector {ls : List Nat} {kind p : Nat} {copyB : Bool} (h : w.freePlaceIn ls kind copyB = some p) :
    ∃ l ∈ ls, p / 64 = w.phys l := by
  unfold WickState.freePlaceIn at h
  obtain ⟨l, hl, hp⟩ := List.mem_flatMap.mp (List.mem_of_mem_head? h)
  refine ⟨l, hl, ?_⟩
  dsimp only at hp
  split at hp
  · exact absurd hp List.not_mem_nil
  · obtain ⟨hlow, hhigh⟩ := List.mem_range'_1.mp (List.mem_filter.mp hp).1
    omega

theorem written_due {n : Nat} (rs : List WRec) : w.Written n { w with recsDue := rs } := ⟨rfl, fun _ h => h, fun _ h => Or.inl h⟩

theorem written_putCopy {n : Nat} (hn : 8 ≤ n) (r : WRec) : w.Written n (w.putCopy r) := by
  unfold WickState.putCopy
  split
  · next p h =>
    obtain ⟨l, hl, hp⟩ := freePlaceIn_sector h
    have hsmall : l < 8 := by
      unfold copySectors at hl
      split at hl <;> simp at hl <;> omega
    exact written_placeRec r (Nat.lt_of_lt_of_le hsmall hn) hp
  · exact written_due _

theorem written_putRec {n : Nat} (hn : 8 ≤ n) (kind : Nat) (body : List Byte) : w.Written n (w.putRec kind body) :=
  (written_putCopy hn _).trans (written_putCopy hn _)

theorem written_putWear {n : Nat} (hn : 8 ≤ n) : w.Written n w.putWear :=
  (written_putRec hn recWear w.wearBody).trans ⟨rfl, fun _ h => h, fun _ h => Or.inl h⟩

theorem written_foldl {n : Nat} (hn : 8 ≤ n) (rs : List WRec) (w : WickState) : w.Written n (rs.foldl WickState.putCopy w) := by
  induction rs generalizing w with
  | nil => exact .refl n w
  | cons r rs ih => exact (written_putCopy hn r).trans (ih _)

theorem written_putDue {n : Nat} (hn : 8 ≤ n) : w.Written n w.putDue := (written_due []).trans (written_foldl hn _ _)

/-- The end of an erase writes at most a WEAR record. -/
theorem written_countErase : w.Written 8 w.countErase := by
  unfold WickState.countErase
  split
  · exact written_putWear (Nat.le_refl 8)
  · exact ⟨rfl, fun _ h => h, fun _ h => Or.inl h⟩

theorem countErase_young (h : w.sinceWear < 31) : w.countErase.usedP = w.usedP := by
  unfold WickState.countErase
  rw [if_neg (Nat.not_le.mpr h)]

/-! A ROTATE copies what is live in logical sector 0 (R418). -/

/-- What the copies of some records to logical sector 8 leave. -/
structure WickState.Rotates (w u : WickState) (rs : List WRec) : Prop where
  written : w.Written 9 u
  copied : w.phys 8 ∉ w.retired → ∀ y ∈ rs, { y with place := 64 * w.phys 8 + y.place % 64 } ∈ u.recs

theorem rotates_foldr (w : WickState) (rs : List WRec) : w.Rotates (rs.foldr (fun r u =>
    if u.retired.contains (u.phys 8) then
      match u.freePlaceIn (List.range' 1 7) r.kind r.copyB with
      | some p => u.placeRec r p
      | none => { u with recsDue := u.recsDue ++ [r] }
    else u.copyRec (u.phys 8) r) w) rs := by
  induction rs with
  | nil => exact ⟨.refl 9 w, fun _ _ h => absurd h List.not_mem_nil⟩
  | cons r rs ih =>
    rw [List.foldr_cons]
    generalize List.foldr _ w rs = u at ih ⊢
    obtain ⟨hwritten, hcopied⟩ := ih
    have hret : u.retired = w.retired := by rw [hwritten.rest]
    split
    · next hbad =>
      rw [hret, hwritten.phys] at hbad
      have hstep : ∀ v, u.Written 9 v → w.Rotates v (r :: rs) := fun v hv =>
        ⟨hwritten.trans hv, fun hok => absurd (by simpa using hbad) hok⟩
      split
      · next p hp =>
        obtain ⟨l, hl, hplace⟩ := freePlaceIn_sector hp
        have hsmall : l < 9 := by
          have hrange := (List.mem_range'_1.mp hl).2
          omega
        exact hstep _ (written_placeRec r hsmall hplace)
      · exact hstep _ (written_due _)
    · have hplace : (64 * u.phys 8 + r.place % 64) / 64 = u.phys 8 := by omega
      have hv : u.Written 9 (u.copyRec (u.phys 8) r) := written_placeRec r (by decide) hplace
      refine ⟨hwritten.trans hv, fun hok y hy => ?_⟩
      rcases List.mem_cons.mp hy with rfl | hy
      · rw [← hwritten.phys]
        exact List.mem_cons_self
      · exact hv.recs _ (hcopied hok y hy)

theorem zeroStale_mem {y : WRec} (hy : y ∈ w.recs) (hkind : y.kind ≠ recKey) : y ∈ w.zeroStale.recs := by
  refine List.mem_map.mpr ⟨y, hy, if_neg ?_⟩
  simp [hkind]

end Records

/-! ### ROTATE -/

section Rotate

variable {w : WickState}

theorem rotates_rotateRecs (w : WickState) : w.Rotates w.rotateRecs (w.recs.filter fun r => r.place / 64 == w.phys 0 && w.isLive r) :=
  rotates_foldr w _

/-- The window moved on from base, before the copies of the other records are written (R418). -/
def WickState.moved (w : WickState) (base : Nat) : WickState :=
  let w2 := { w with wbase := (w.wbase + 1) % 48, intent := none, intentOn := false, doneSec := some 23, erases := 0
                     slotA := (w.slotA + 1920) % 2048, slotBp := (w.slotBp + 1920) % 2048 }
  { w2 with suspect := w2.suspect.map (w2.resector base)
            queue := w2.queue.map fun d =>
              if d.who ≠ .hostSw ∧ d.op = wopErase then { d with w0 := BitVec.ofNat 32 (wopErase + 16 * w2.resector base d.sector) }
              else d }

theorem rotated_eq (w : WickState) : w.rotated = (w.rotateRecs.moved w.wbase).putWear.putDue.zeroStale := rfl

/-- A change of the entries that keeps who submitted them and how they ended. -/
theorem endAt_whoStatus {q : List WDesc} {f : WDesc → WDesc} (hf : ∀ d, (f d).who = d.who ∧ (f d).status = d.status) (i : Nat) (st : Byte) :
    ((q.map f).modify i fun d => { d with status := some st }).map (fun d => (d.who, d.status)) =
      (q.modify i fun d => { d with status := some st }).map fun d => (d.who, d.status) := by
  refine List.ext_getElem? fun k => ?_
  simp only [List.getElem?_map, List.getElem?_modify]
  cases q[k]? with
  | none => rfl
  | some d =>
    obtain ⟨hwho, hstatus⟩ := hf d
    split <;> simp [hwho, hstatus]

/-- What a ROTATE leaves beside the records. -/
theorem rotated_rest (w : WickState) : w.rotated.wbase = (w.wbase + 1) % 48 ∧ w.rotated.erases = 0 ∧ w.rotated.intent = none ∧
    w.rotated.anchors = w.anchors ∧ ∃ f : WDesc → WDesc, (∀ d, (f d).who = d.who ∧ (f d).status = d.status) ∧
      w.rotated.queue = w.queue.map f := by
  have hcopied := (rotates_rotateRecs w).written.rest
  have hafter := ((written_putWear (w := w.rotateRecs.moved w.wbase) (Nat.le_refl 8)).trans (written_putDue (Nat.le_refl 8))).rest
  rw [rotated_eq]
  generalize (w.rotateRecs.moved w.wbase).putWear.putDue = v at hafter ⊢
  generalize w.rotateRecs = u at hcopied hafter
  have hwbase : v.wbase = (u.wbase + 1) % 48 := by rw [hafter]; rfl
  have hubase : u.wbase = w.wbase := by rw [hcopied]
  have hqueue : v.queue = (u.moved w.wbase).queue := by rw [hafter]
  have huqueue : u.queue = w.queue := by rw [hcopied]
  refine ⟨hwbase.trans (by rw [hubase]), (congrArg WickState.erases hafter :), (congrArg WickState.intent hafter :),
    (congrArg WickState.anchors hafter :).trans (congrArg WickState.anchors hcopied :), ?_⟩
  refine ⟨_, fun d => ?_, hqueue.trans (congrArg (List.map _) huqueue)⟩
  split
  · exact ⟨rfl, rfl⟩
  · exact ⟨rfl, rfl⟩

/-- The live records of logical sector 0 stand in logical sector 8 (R418). -/
theorem rotated_copies (hok : w.phys 8 ∉ w.retired) {y : WRec} (hy : y ∈ w.recs) (hsec : y.place / 64 = w.phys 0) (hlive : w.isLive y = true)
    (hkind : y.kind ≠ recKey) : { y with place := 64 * w.phys 8 + y.place % 64 } ∈ w.rotated.recs := by
  have hcopied := (rotates_rotateRecs w).copied hok y (List.mem_filter.mpr ⟨hy, by simp [hsec, hlive]⟩)
  have hafter := ((written_putWear (w := w.rotateRecs.moved w.wbase) (Nat.le_refl 8)).trans (written_putDue (Nat.le_refl 8))).recs _ hcopied
  rw [rotated_eq]
  exact zeroStale_mem hafter hkind

end Rotate

/-! ### Completions -/

section Complete

variable {s : State} {i : Nat} {d : WDesc} {st : Byte} {b : Bool}

/-- A completion that is posted takes its descriptor off the queue, shows a host's, and lets WICK's own descriptors join (R413). -/
theorem postWick_wick : ∃ q more x y, (s.postWick i d st b).wick =
    { s.wick with queue := q, intent := x, intentOn := y
                  slotsOk := if d.plane = 1 ∧ d.op ≠ wopReadMargin then b else s.wick.slotsOk
                  hostDone := if d.who = .hostSw then s.wick.hostDone ++ [(d.tag, st)] else s.wick.hostDone } ∧
      q = s.wick.queue.eraseIdx i ++ more := by
  let w : WickState := { s.wick with
    queue := s.wick.queue.eraseIdx i
    slotsOk := if d.plane = 1 ∧ d.op ≠ wopReadMargin then b else s.wick.slotsOk
    hostDone := if d.who = .hostSw then s.wick.hostDone ++ [(d.tag, st)] else s.wick.hostDone }
  have hpost : (s.postWick i d st b).wick = w.arm := by
    have hraise : ∀ t : State, (t.raise .wickDone).wick = t.wick := fun t =>
      (keeps_raise .wickDone (Keeps.refl { link := true, host := true } t) rfl rfl).wickF rfl
    by_cases hw : d.who = .hostSw
    · exact (congrArg State.wick (if_pos hw)).trans (hraise _)
    · exact congrArg State.wick (if_neg hw)
  obtain ⟨q, x, y, harm⟩ := upkept_arm w
  obtain ⟨-, more, hqueue, -⟩ := joined_arm w
  exact ⟨q, more, x, y, hpost.trans harm, (congrArg WickState.queue harm).symm.trans hqueue⟩

/-- WICK as a large sector's erase leaves it, before the erase is counted. -/
def WickState.erasedL (w : WickState) (i : Nat) (d : WDesc) : WickState :=
  { w with erase := none, intent := none, intentOn := false, doneSec := some d.sector, suspect := w.suspect.filter fun x => x ≠ d.sector
           queue := (w.endAt i wkOk).queue
           wearL := tset 0 w.wearL d.sector (tget 0 w.wearL d.sector + 1)
           blankL := d.sector :: w.blankL.filter fun x => x ≠ d.sector
           lUnits := w.lUnits.filter fun x => x.1 / 8192 != d.sector }

/-- WICK as a parameter sector's erase leaves it, before the erase is counted. -/
def WickState.erasedP (w : WickState) (i : Nat) (d : WDesc) : WickState :=
  let k := w.phys (d.sector - 16)
  { w with erase := none, intent := none, intentOn := false, doneSec := some d.sector, suspect := w.suspect.filter fun x => x ≠ d.sector
           queue := (w.endAt i wkOk).queue
           wearP := tset 0 w.wearP k (tget 0 w.wearP k + 1), progFails := tset 0 w.progFails k 0
           erases := if 8 ≤ d.sector - 16 ∧ d.sector - 16 < 40 then w.erases + 1 else w.erases
           usedP := w.usedP.filter fun x => x ≠ k
           recs := w.recs.filter fun r => r.place / 64 != k, anchors := w.anchors.filter fun a => a.place / 128 != k }

theorem endErase_large (hl : d.sector < 16) : (s.endErase i d true).wick = (s.wick.erasedL i d).countErase := by
  unfold State.endErase
  rw [if_pos rfl]
  exact if_pos hl

theorem endErase_param (hl : 16 ≤ d.sector) : (s.endErase i d true).wick = (s.wick.erasedP i d).countErase := by
  unfold State.endErase
  rw [if_pos rfl]
  exact if_neg (Nat.not_lt.mpr hl)

/-- The record of a running erase that has verified, whatever its sector. -/
theorem endErase_rest : (s.endErase i d true).wick.erase = none ∧ (s.endErase i d true).wick.doneSec = some d.sector ∧
    (s.endErase i d true).wick.queue = (s.wick.endAt i wkOk).queue := by
  by_cases hl : d.sector < 16
  · rw [endErase_large hl, (written_countErase (w := s.wick.erasedL i d)).rest]
    exact ⟨rfl, rfl, rfl⟩
  · rw [endErase_param (Nat.not_lt.mp hl), (written_countErase (w := s.wick.erasedP i d)).rest]
    exact ⟨rfl, rfl, rfl⟩

/-- A large sector that has been erased is blank, and its erases are counted (R404). -/
theorem endErase_blank (hl : d.sector < 16) : d.sector ∈ (s.endErase i d true).wick.blankL ∧
    tget 0 (s.endErase i d true).wick.wearL d.sector = tget 0 s.wick.wearL d.sector + 1 := by
  rw [endErase_large hl, (written_countErase (w := s.wick.erasedL i d)).rest]
  exact ⟨List.mem_cons_self, tget_tset_same 0 s.wick.wearL d.sector (tget 0 s.wick.wearL d.sector + 1)⟩

/-- A parameter sector that has been erased is blank, but where the WEAR record that its erase writes may lie in it. -/
theorem endErase_unused (hl : 16 ≤ d.sector) (hapart : 24 ≤ d.sector ∨ s.wick.sinceWear < 31) :
    s.wick.phys (d.sector - 16) ∉ (s.endErase i d true).wick.usedP := by
  have hgone : s.wick.phys (d.sector - 16) ∉ (s.wick.erasedP i d).usedP := fun h => by
    have hne := (List.mem_filter.mp h).2
    simp at hne
  rw [endErase_param hl]
  intro hin
  rcases hapart with hfar | hyoung
  · rcases (written_countErase (w := s.wick.erasedP i d)).used _ hin with hused | ⟨l, hl8, hphys⟩
    · exact hgone hused
    · have hsec : d.sector < 64 := Nat.mod_lt _ (by decide)
      have hmod : (s.wick.wbase + (d.sector - 16)) % 48 = (s.wick.wbase + l) % 48 := hphys
      omega
  · rw [countErase_young (w := s.wick.erasedP i d) hyoung] at hin
    exact hgone hin

end Complete

/-! ### The host's suspensions -/

section Suspend

variable {s : State} {i : Nat} {d : WDesc} (hup : s.wickUp = true)
include hup

theorem exec_suspend (hlive : liveAt wopSuspend s.wick.queue 0 = some (i, d)) : exec .wickEraseSuspend s =
    match s.wick.erase with
    | some e =>
      if e.sector = d.sector ∧ !e.held then
        .next (s.onWick fun w => ({ w with erase := some { e with hostSus := true } } : WickState).endAt i wkOk)
      else .next (s.onWick fun w => w.endAt i wkRefused)
    | none => .next (s.onWick fun w => w.endAt i wkRefused) := by
  show execWickEraseSuspend s = _
  unfold execWickEraseSuspend
  rw [hup, hlive] <;> rfl

theorem exec_resume (hlive : liveAt wopResume s.wick.queue 0 = some (i, d)) : exec .wickEraseResume s =
    match s.wick.erase with
    | some e =>
      if e.sector = d.sector ∧ e.held then
        .next (s.onWick fun w => ({ w with erase := some { e with hostSus := false, autoSus := false } } : WickState).endAt i wkOk)
      else .next (s.onWick fun w => w.endAt i wkRefused)
    | none => .next (s.onWick fun w => w.endAt i wkRefused) := by
  show execWickEraseResume s = _
  unfold execWickEraseResume
  rw [hup, hlive] <;> rfl

end Suspend

/-- Settles O55: each command by the erase that runs and the descriptor that it finds. -/
theorem wickErases : Obligations.WickErases := by
  unfold Obligations.WickErases
  intro s w
  refine ⟨fun i d f hnext hvalid hret hfetch hnone => ?_, fun i d hup hlive => ⟨fun e herase hsec hheld => ?_, fun hother => ?_⟩,
    fun i d hup hlive => ⟨fun e herase hsec hheld => ?_, fun hother => ?_⟩, fun i d x hnext hready hon hintent => ?_,
    fun i d st e v b hon hrun hended hhdr => ?_, fun i d e v b hup hnone herase herasing hheld => ?_, fun e sec q herase hon => ⟨fun hsec => ?_, fun hne hplane => ?_⟩,
    fun e herase hup => ?_, fun i d e herase herasing hheld hon => ?_, rfl⟩
  · have hgo : exec (.wickErase f) s = .next (s.wickErase i d f) := by
      show execWickErase f s = _
      unfold execWickErase
      rw [hnext]
    have hbusy : ¬(d.sector < 16 ∧ (!s.wick.autoSus) = true ∧ f = true) := fun h =>
      (hfetch h.1).elim (fun ha => absurd h.2.1 (by simp [show s.wick.autoSus = true from ha])) fun hf => absurd h.2.2 (by simp [hf])
    have hkept : ¬(16 ≤ d.sector ∧ (s.wick.retired.contains (s.wick.phys (d.sector - 16))) = true) := fun h =>
      hret h.1 (by simpa using h.2)
    have hstart : s.wickErase i d f = _ := (if_neg (by simp [hvalid])).trans ((if_neg hbusy).trans (if_neg hkept))
    refine ⟨fun k hon hintent => ?_, fun hoff => ?_⟩
    · rw [hgo, hstart, if_neg (by simp [show s.wick.erase = none from hnone, show s.wick.intentOn = true from hon,
        show s.wick.intent = some (d.sector, k) from hintent])]
      rfl
    · rw [hgo, hstart, if_pos (Or.inr (by simp [show s.wick.intentOn = false from hoff]))]
  · exact (exec_suspend hup hlive).trans (by rw [show s.wick.erase = some e from herase]; exact if_pos ⟨hsec, by simp [hheld]⟩)
  · refine (exec_suspend hup hlive).trans ?_
    cases herase : s.wick.erase with
    | none => rfl
    | some e => exact if_neg fun h => (hother e herase).elim (fun hne => hne h.1) fun hh => absurd h.2 (by simp [hh])
  · exact (exec_resume hup hlive).trans (by rw [show s.wick.erase = some e from herase]; exact if_pos ⟨hsec, hheld⟩)
  · refine (exec_resume hup hlive).trans ?_
    cases herase : s.wick.erase with
    | none => rfl
    | some e => exact if_neg fun h => (hother e herase).elim (fun hne => hne h.1) fun hh => absurd h.2 (by simp [hh])
  · have hgo : exec .rotate s = .next (s.onWick fun w => w.rotated.endAt i wkOk) := by
      show execRotate s = _
      unfold execRotate
      rw [hnext]
      exact if_pos (by simp [show s.wick.rotateReady = true from hready, show s.wick.intentOn = true from hon,
        show s.wick.intent = some (x, 3) from hintent])
    obtain ⟨hwbase, herases, hint, hanchors, g, hg, hqueue⟩ := rotated_rest w
    refine ⟨_, hgo, rfl, hwbase, herases, hint, hanchors, ?_, fun hok y hy hsec hlive hkind => rotated_copies hok hy hsec hlive hkind⟩
    show ((s.wick.rotated.queue).modify i fun d => { d with status := some wkOk }).map _ = _
    rw [hqueue]
    exact endAt_whoStatus hg i wkOk
  · have hgo : exec (.wickDescComplete e v b) s = .next (s.postWick i d st b) := by
      refine (if_pos (by simp [hon, hrun])).trans (congrArg Host.Outcome.next ?_)
      unfold State.completeWick
      rw [show endedAt s.wick.queue 0 = _ from hended]
      exact if_neg (by simp [hhdr])
    obtain ⟨q, more, x, y, hwick, hqueue⟩ := postWick_wick (s := s) (i := i) (d := d) (st := st) (b := b)
    refine ⟨_, more, hgo, ?_, ?_, ?_⟩
    · rw [hwick]; exact hqueue
    · rw [hwick]
    · rw [hwick]
  · have hgo : exec (.wickDescComplete true v b) s = .next ((s.endErase i d true).postWick i d wkOk b) := by
      have hup' := hup
      simp only [State.wickUp, Bool.and_eq_true, Bool.not_eq_true'] at hup'
      refine (if_pos (by simp [hup'.1.1.1, hup'.1.1.2])).trans (congrArg Host.Outcome.next ?_)
      unfold State.completeWick
      rw [show endedAt s.wick.queue 0 = none from hnone, show s.wick.erase = some e from herase,
        show erasingAt s.wick s.wick.queue 0 = some (i, d) from herasing]
      exact if_neg (by simp [hheld, hup])
    obtain ⟨q, more, x, y, hwick, hqueue⟩ := postWick_wick (s := s.endErase i d true) (i := i) (d := d) (st := wkOk) (b := b)
    obtain ⟨hgone, hdone, hq⟩ := endErase_rest (s := s) (i := i) (d := d)
    refine ⟨_, more, hgo, ?_, ?_, ?_, fun hl => ?_, fun hl hapart => ?_⟩
    · rw [hwick]; exact hgone
    · rw [hwick]; exact hdone
    · rw [hwick]; exact hqueue.trans (by rw [hq]; rfl)
    · rw [hwick]; exact endErase_blank hl
    · rw [hwick]; exact endErase_unused hl hapart
  · have hgo : exec (.planeAccessSuspend sec q) s = .next (s.assertError .wickErasedAccess (detail [(4, q.toNat), (6, sec.toNat)])) := by
      show execPlaneAccessSuspend sec q s = _
      unfold execPlaneAccessSuspend
      rw [show s.wick.erase = some e from herase]
      exact (if_neg (by simp [hon])).trans (if_pos hsec)
    obtain ⟨x, hassert, hwaits⟩ := assertError_waits s .wickErasedAccess (detail [(4, q.toNat), (6, sec.toNat)]) hon
    exact ⟨_, hgo.trans (congrArg Host.Outcome.next hassert), rfl, hwaits⟩
  · show execPlaneAccessSuspend sec q s = _
    unfold execPlaneAccessSuspend
    rw [show s.wick.erase = some e from herase]
    exact (if_neg (by simp [hon])).trans ((if_neg hne).trans (if_pos hplane))
  · show execEraseAutoResume s = _
    unfold execEraseAutoResume
    rw [show s.wick.erase = some e from herase]
    exact if_pos hup
  · have hgo : exec (.wickBrownout true) s = .next ((s.onWick fun w => { w with tripped := true }).onWick fun w =>
        ({ w with erase := none, intent := none, intentOn := false, suspect := w.suspect ++ [e.sector] } : WickState).endAt i wkBrownout) := by
      show execWickBrownout true s = _
      unfold execWickBrownout
      rw [if_neg (show ¬(!true) = true from Bool.false_ne_true)]
      dsimp only
      rw [show s.wick.erase = some e from herase, show erasingAt s.wick s.wick.queue 0 = some (i, d) from herasing]
      exact if_pos (by simp [hon, hheld])
    exact ⟨_, hgo, rfl, rfl, rfl, rfl, rfl⟩

end Sys2Proof.Machine

/-! # VIN POR at the last count of the power-ups -/

namespace Sys2Proof.Machine
open Sys2Proof

/-- The part after 0xFFFFFFFF power-ups, VAUX POR released, the main domain off and VIN POR armed (R242, R460). -/
def lastPowerUp : State :=
  { State.reset with
    clock := { ClockState.reset with vauxPor := false, vauxPin := true, mainPwr := false, vinArmed := true }
    power := { PowerState.reset with absent := false }
    journal := { JournalState.reset with powerUps := 0xFFFFFFFF } }

/-- VIN POR brings the main domain up, and the count of its power-ups saturates (R242). -/
theorem lastPowerUp_vinPor : ∃ t, exec .vinPor lastPowerUp = .next t ∧ t.journal.powerUps = 0xFFFFFFFF := ⟨_, rfl, by decide⟩

/-- Refutes O56: VIN POR is said to have the count of power-ups always go up by one, but the 2^32th power-up leaves it at 0xFFFFFFFF, while
0xFFFFFFFF + 1 is 0 in the 32 bits that it has. -/
theorem not_powerComesUp : ¬ Obligations.PowerComesUp := by
  unfold Obligations.PowerComesUp
  intro h
  obtain ⟨-, -, -, hvin, -⟩ := h lastPowerUp
  obtain ⟨t, hx, -, -, -, -, -, -, -, -, hcount, -⟩ := hvin rfl rfl rfl rfl
  obtain ⟨u, hu, hfull⟩ := lastPowerUp_vinPor
  have htu : t = u := Host.Outcome.next.inj (hx.symm.trans hu)
  rw [htu, hfull] at hcount
  exact absurd hcount (by decide)

end Sys2Proof.Machine

/-! # The image and the firmware start (R101, R425, R427, R429, R432, R472, R473, R476, R477) -/

namespace Sys2Proof.Machine
open Sys2Proof

/-! ### A new version of a record is the live one (R419, R429) -/

section NewVersion

variable {w : WickState} {r : WRec} {pre post : List WRec}

theorem foldl_nextRec (kind : Nat) (rs : List WRec) (m : Nat) :
    m ≤ rs.foldl (fun m r => if r.kind = kind then max m (r.seq + 1) else m) m ∧
      ∀ x ∈ rs, x.kind = kind → x.seq < rs.foldl (fun m r => if r.kind = kind then max m (r.seq + 1) else m) m := by
  induction rs generalizing m with
  | nil => exact ⟨Nat.le_refl m, fun x hx => absurd hx List.not_mem_nil⟩
  | cons r rs ih =>
    rw [List.foldl_cons]
    obtain ⟨hle, hlt⟩ := ih (if r.kind = kind then max m (r.seq + 1) else m)
    refine ⟨Nat.le_trans (by split <;> omega) hle, fun x hx hk => ?_⟩
    rcases List.mem_cons.mp hx with rfl | hx
    · exact Nat.lt_of_lt_of_le (by rw [if_pos hk]; omega) hle
    · exact hlt x hx hk

/-- Every copy of a kind is older than the next version. -/
theorem seq_lt_nextRec {kind : Nat} {x : WRec} (hx : x ∈ w.recs) (hk : x.kind = kind) : x.seq < w.nextRec kind :=
  (foldl_nextRec kind (w.recs ++ w.recsDue) 1).2 x (List.mem_append_left _ hx) hk

/-- A copy that is no newer does not stand above, where the key generation says nothing. -/
theorem not_above_of_seq_le {x : WRec} (hx : x.kind ≠ recKey) (hr : r.kind ≠ recKey) (h : x.seq ≤ r.seq) : x.above r = false := by
  simp [WRec.above, WRec.rank, hx, hr, h]

/-- A copy that can be read, after which stand only older ones, is the one its side has. -/
theorem copyOf_of_recs (hrecs : w.recs = pre ++ r :: post) (hkind : r.kind ≠ recKey) (hreads : w.reads r = true)
    (hpre : ∀ x ∈ pre, x.copyB ≠ r.copyB) (hpost : ∀ x ∈ post, x.kind = r.kind → x.seq < r.seq) : w.copyOf r.kind r.copyB = some r := by
  have hnone : pre.filter (fun x => x.kind == r.kind && x.copyB == r.copyB && w.reads x) = [] :=
    List.filter_eq_nil_iff.mpr fun x hx => by simp [hpre x hx]
  unfold WickState.copyOf
  rw [hrecs, List.filter_append, hnone, List.nil_append, List.filter_cons_of_pos (by simp [hreads])]
  refine topRec_cons_of_not_above fun x hx => ?_
  simp only [List.mem_filter, Bool.and_eq_true, beq_iff_eq] at hx
  obtain ⟨hmem, ⟨hk, -⟩, -⟩ := hx
  exact not_above_of_seq_le (hk ▸ hkind) hkind (Nat.le_of_lt (hpost x hmem hk))

/-- Copy A of the newest version decides where copy B is no newer. -/
theorem liveRec_of_copyA (hA : w.copyOf r.kind false = some r) (hkind : r.kind ≠ recKey)
    (hB : ∀ x, w.copyOf r.kind true = some x → x.kind = r.kind ∧ x.seq ≤ r.seq) : w.liveRec r.kind = some r := by
  unfold WickState.liveRec
  rw [hA]
  cases hx : w.copyOf r.kind true with
  | none => rfl
  | some x =>
    obtain ⟨hk, hseq⟩ := hB x hx
    exact if_neg (ne_true_of_eq_false (not_above_of_seq_le (hk ▸ hkind) hkind hseq))

/-- A copy that stands on a side is one of the records. -/
theorem mem_of_copyOf {kind : Nat} {copyB : Bool} (h : w.copyOf kind copyB = some r) : r ∈ w.recs ∧ r.kind = kind := by
  have hmem := List.mem_filter.mp (topRec_eq_some h).1
  simp only [Bool.and_eq_true, beq_iff_eq] at hmem
  exact ⟨hmem.1, hmem.2.1.1⟩

/-- What the copies of a new version add to the records: copy A at its place, and copy B where it finds one. -/
theorem putRec_recs {kind p : Nat} (body : List Byte) (hp : w.freePlace kind false = some p) : ∃ pre,
    (w.putRec kind body).recs = pre ++ { kind := kind, copyB := false, seq := w.nextRec kind, body := body, intact := true, place := p } :: w.recs ∧
      ∀ x ∈ pre, x.copyB = true ∧ x.kind = kind ∧ x.seq = w.nextRec kind := by
  let r : WRec := { kind := kind, copyB := false, seq := w.nextRec kind, body := body, intact := true, place := 0 }
  have hput : w.putRec kind body = (w.placeRec r p).putCopy { r with copyB := true } :=
    congrArg (fun u : WickState => u.putCopy { r with copyB := true }) (putCopy_eq_placeRec (r := r) hp)
  rw [hput]
  unfold WickState.putCopy
  split
  · next q hq => exact ⟨[{ r with copyB := true, place := q }], rfl, by simp [r]⟩
  · exact ⟨[], rfl, by simp⟩

/-- The new version is the live one once copy A has its place. -/
theorem liveRec_putRec {kind p : Nat} (body : List Byte) (hkind : kind ≠ recKey) (hp : w.freePlace kind false = some p) :
    ((w.putRec kind body).liveRec kind).map WRec.body = some body := by
  obtain ⟨pre, hrecs, hpre⟩ := putRec_recs body hp
  let r : WRec := { kind := kind, copyB := false, seq := w.nextRec kind, body := body, intact := true, place := p }
  have hreads : (w.putRec kind body).reads r = true := by
    unfold WickState.putRec
    dsimp only
    rw [reads_putCopy, reads_putCopy]
    simp [WickState.reads, r, (freeAt_of_freePlace hp).unsuspected]
  have hA : (w.putRec kind body).copyOf r.kind r.copyB = some r := copyOf_of_recs hrecs hkind hreads
    (fun x hx => by simp [r, (hpre x hx).1]) fun x hx hk => seq_lt_nextRec hx hk
  have hlive : (w.putRec kind body).liveRec r.kind = some r := liveRec_of_copyA hA hkind fun x hx => by
    obtain ⟨hmem, hk⟩ := mem_of_copyOf hx
    refine ⟨hk, ?_⟩
    rw [hrecs] at hmem
    rcases List.mem_append.mp hmem with hin | hin
    · exact Nat.le_of_eq (hpre x hin).2.2
    · rcases List.mem_cons.mp hin with rfl | hold
      · exact Nat.le_refl _
      · exact Nat.le_of_lt (seq_lt_nextRec hold hk)
  exact congrArg (Option.map WRec.body) hlive

end NewVersion

section BootRecord

variable {w : WickState} {b : BootRec}

/-- A BOOT record's body says the record (R429). -/
theorem bootOf_body (h : b.starts < 256) : bootOf b.body = b := by
  have hword : ∀ v : Word, BitVec.ofNat 32 (leNat (leBytes 4 v.toNat)) = v := fun v => by
    rw [Laws.leNat_leBytes 4 v.toNat v.isLt, BitVec.ofNat_toNat, BitVec.setWidth_eq]
  have hstarts : (BitVec.ofNat 8 b.starts).toNat = b.starts := by rw [BitVec.toNat_ofNat]; exact Nat.mod_eq_of_lt h
  have hread : bootOf b.body = { active := (if b.active then 1#8 else 0) != 0, trial := (if b.trial then 1#8 else 0).getLsbD 0
                                 starts := (BitVec.ofNat 8 b.starts).toNat, verA := BitVec.ofNat 32 (leNat (leBytes 4 b.verA.toNat))
                                 verB := BitVec.ofNat 32 (leNat (leBytes 4 b.verB.toNat)) } := rfl
  have hactive : ∀ x : Bool, ((if x then 1#8 else 0) != 0) = x := by decide
  have htrial : ∀ x : Bool, (if x then 1#8 else 0).getLsbD 0 = x := by decide
  rw [hread, hword, hword, hstarts, hactive, htrial]

theorem boot_starts (h : w.boot = some b) : b.starts < 256 := by
  obtain ⟨r, -, rfl⟩ := Option.map_eq_some_iff.mp h
  exact (BitVec.isLt _ : (r.body.getD 2 0).toNat < 2 ^ 8)

theorem boot_putBoot (hs : b.starts < 256) (hp : w.freePlace recBoot false ≠ none) : (w.putBoot b).boot = some b := by
  obtain ⟨p, hp⟩ := Option.ne_none_iff_exists'.mp hp
  have hlive := liveRec_putRec b.body (show recBoot ≠ recKey by decide) hp
  have hmap : (w.putBoot b).boot = (((w.putRec recBoot b.body).liveRec recBoot).map WRec.body).map bootOf := by
    rw [Option.map_map]; rfl
  rw [hmap, hlive]
  exact congrArg some (bootOf_body hs)

end BootRecord

/-! ### The start record -/

section StartRecord

variable {w : WickState} {b : BootRec}

theorem startRecord_plain (hb : w.boot = some b) (h : b.trial = false) : w.startRecord = w := by
  unfold WickState.startRecord
  rw [hb]
  exact if_pos (by simp [h])

theorem startRecord_trial (hb : w.boot = some b) (h : b.trial = true) (hleft : 0 < b.starts) :
    w.startRecord = w.putBoot { b with starts := b.starts - 1 } := by
  unfold WickState.startRecord
  rw [hb]
  exact (if_neg (by simp [h])).trans (by rw [if_pos hleft])

/-- Beside the records a start's record leaves WICK as it is. -/
theorem startRecord_headers (w : WickState) : w.startRecord.hdrA = w.hdrA ∧ w.startRecord.hdrB = w.hdrB := by
  unfold WickState.startRecord
  split
  · exact ⟨rfl, rfl⟩
  · split
    · exact ⟨rfl, rfl⟩
    · have hrest := fun c : BootRec => (written_putRec (w := w) (Nat.le_refl 8) recBoot c.body).rest
      exact ⟨(congrArg WickState.hdrA (hrest _) :), (congrArg WickState.hdrB (hrest _) :)⟩

end StartRecord

/-! ### The boot ROM's slot -/

section Slot

variable {s : State} {a b : Bool}

theorem bootCheck_headers (s : State) (bad : List Nat) : (s.bootCheck bad).wick.hdrA = s.wick.hdrA ∧ (s.bootCheck bad).wick.hdrB = s.wick.hdrB := by
  unfold State.bootCheck
  split
  · exact ⟨rfl, rfl⟩
  · unfold State.takeAnchor State.onWick
    dsimp only
    split
    · exact ⟨rfl, rfl⟩
    · exact ⟨rfl, rfl⟩

/-- What the boot ROM leaves in WICK, but for the slot that runs. -/
theorem slotChosen_wick (s : State) : s.slotChosen.wick =
    if s.takenSrc = 0 then (s.bootCheck []).wick.startRecord else (s.bootCheck []).wick := by
  unfold State.slotChosen
  dsimp only
  split <;> rfl

theorem booted_wick (s : State) (a b : Bool) : ∃ slotB, (s.booted a b).wick = { s.slotChosen.wick with slotB := slotB } := by
  unfold State.booted
  cases s.bootSlot a b with
  | none =>
    exact ⟨s.slotChosen.wick.slotB, (keeps_setDev .download (Keeps.refl { clock := true, link := true, intake := true, host := true } _)
      rfl rfl rfl rfl).wickF rfl⟩
  | some slotB => exact ⟨slotB, rfl⟩

/-- The BOOT record names no running slot. -/
theorem boot_slotB (w : WickState) (slotB : Bool) : ({ w with slotB := slotB } : WickState).boot = w.boot := rfl

theorem booted_boot (s : State) (a b : Bool) : (s.booted a b).wick.boot =
    if s.takenSrc = 0 then (s.bootCheck []).wick.startRecord.boot else (s.bootCheck []).wick.boot := by
  obtain ⟨slotB, hwick⟩ := booted_wick s a b
  rw [hwick, boot_slotB, slotChosen_wick]
  split <;> rfl

/-- A slot that is picked starts. -/
theorem booted_starts {slotB : Bool} (h : s.bootSlot a b = some slotB) :
    (s.booted a b).clock.phase = .discovery ∧ (s.booted a b).clock.image = (if slotB then 1 else 0) ∧ (s.booted a b).wick.slotB = slotB ∧
      (s.booted a b).link.fwVersion = (if slotB then s.wick.hdrB else s.wick.hdrA) ∧ (s.booted a b).clock.dev = s.clock.dev := by
  have hheaders : s.slotChosen.wick.hdrA = s.wick.hdrA ∧ s.slotChosen.wick.hdrB = s.wick.hdrB := by
    obtain ⟨hA, hB⟩ := bootCheck_headers s []
    obtain ⟨hA', hB'⟩ := startRecord_headers (s.bootCheck []).wick
    rw [slotChosen_wick]
    split
    · exact ⟨hA'.trans hA, hB'.trans hB⟩
    · exact ⟨hA, hB⟩
  have hclock := (startSlot_clock s.slotChosen slotB).trans (by rw [slotChosen_clock])
  rw [booted_slot h]
  refine ⟨congrArg ClockState.phase hclock, congrArg ClockState.image hclock, rfl, ?_, (congrArg ClockState.dev hclock :)⟩
  show (if slotB then s.slotChosen.wick.hdrB else s.slotChosen.wick.hdrA) = _
  rw [hheaders.1, hheaders.2]

/-! Which slot BOOT_SRC gives, of those that can start (R476). -/

section Pick

variable {src : BitVec 2} {okA okB : Bool} (u : State)

theorem pickSlot_A (h : (src = 1 ∧ okA = true) ∨ (src = 0 ∧ okA = true ∧ (u.wick.namedSlot = false ∨ okB = false))) :
    u.pickSlot src okA okB = some false := by
  unfold State.pickSlot
  rcases h with ⟨rfl, rfl⟩ | ⟨rfl, rfl, hother⟩
  · rfl
  · cases hn : u.wick.namedSlot with
    | false => rfl
    | true =>
      rw [hn] at hother
      obtain rfl := hother.resolve_left Bool.noConfusion
      rfl

theorem pickSlot_B (h : (src = 2 ∧ okB = true) ∨ (src = 0 ∧ okB = true ∧ (u.wick.namedSlot = true ∨ okA = false))) :
    u.pickSlot src okA okB = some true := by
  unfold State.pickSlot
  rcases h with ⟨rfl, rfl⟩ | ⟨rfl, rfl, hother⟩
  · rfl
  · cases hn : u.wick.namedSlot with
    | true => rfl
    | false =>
      rw [hn] at hother
      obtain rfl := hother.resolve_left Bool.false_ne_true
      rfl

theorem pickSlot_none (h : src = 3 ∨ (okA = false ∧ okB = false) ∨ (src = 1 ∧ okA = false) ∨ (src = 2 ∧ okB = false)) :
    u.pickSlot src okA okB = none := by
  unfold State.pickSlot
  rcases h with rfl | ⟨rfl, rfl⟩ | ⟨rfl, rfl⟩ | ⟨rfl, rfl⟩
  · rfl
  · cases u.wick.namedSlot <;> simp
  · rfl
  · rfl

end Pick

end Slot

/-! ### The firmware's start -/

section Firmware

variable {s : State}

theorem setDev_recover_intake (s : State) : (s.setDev .recover).intake = s.intake := by
  unfold State.setDev
  split
  · rfl
  · exact (keeps_raise .stateChange (Keeps.refl { link := true, host := true } _) rfl rfl).intakeF rfl

/-- The key that INTAKE has once it has unwrapped the magazine key (R101). -/
theorem unwrapKey_intake (s : State) : s.unwrapKey.intake.keyGen = max s.wick.keyA s.wick.keyB ∧
    (max s.wick.keyA s.wick.keyB = 0 → s.unwrapKey.intake.keyReady = false) ∧
    ∀ k, 0 < max s.wick.keyA s.wick.keyB → keyUnwrap s.wick.wrapKey s.wick.liveKey = some k →
      s.unwrapKey.intake.keyReady = true ∧ s.unwrapKey.intake.key = k := by
  unfold State.unwrapKey
  dsimp only
  split
  · next hz => exact ⟨hz.symm, fun _ => rfl, fun k hpos => absurd hz (Nat.ne_of_gt hpos)⟩
  · next hz =>
    refine ⟨rfl, fun h => absurd h hz, fun k _ hk => ?_⟩
    exact ⟨congrArg Option.isSome hk, congrArg (fun o : Option (List Byte) => o.getD []) hk⟩

theorem exec_firmwareStart (hphase : s.clock.phase = .discovery) (hdisc : s.discovered = true) : exec .firmwareStart s =
    let s1 := s.onClock fun c => { c with phase := .done, fwUp := true }
    if s.wick.otpBad.contains 3 then .next (s1.setDev .halted)
    else
      let s2 := s1.unwrapKey.onWick WickState.zeroStale
      let s3 := s2.onIntake fun i => { i with streams := [] }
      let s4 := (s3.onPlace fun p => { p with cellKey := s3.draws }).onClock fun c => { c with step := 2 }
      .next (({ s4 with draws := s4.draws + 1 } : State).setDev .recover) :=
  if_neg (by simp [hphase, hdisc])

end Firmware

/-- Settles O58: the boot ROM by the slot it picks and the BOOT record it writes, the firmware by the key that INTAKE unwraps. -/
theorem imagesStart : Obligations.ImagesStart := by
  unfold Obligations.ImagesStart
  intro s
  refine ⟨fun a b hphase hhold hup => ?_, fun hphase hdisc => ⟨fun hgood => ?_, fun hbad => ?_⟩⟩
  · extract_lets w src okA okB
    refine ⟨_, exec_bootImageLoad hphase hhold hup, booted_bootAs00 s a b, fun hsrc => ?_, fun hsrc => ?_, fun h => ?_, fun h => ?_, fun h => ?_⟩
    · have hboot := (booted_boot s a b).trans (if_pos hsrc)
      refine ⟨hboot, fun c hc htrial => ?_, fun c hc htrial hleft hfree => ?_⟩
      · rw [hboot, startRecord_plain hc htrial]
        exact hc
      · rw [hboot, startRecord_trial hc htrial hleft]
        exact boot_putBoot (Nat.lt_of_le_of_lt (Nat.sub_le _ _) (boot_starts hc)) hfree
    · exact (booted_boot s a b).trans (if_neg hsrc)
    · exact booted_starts (slotB := false) (pickSlot_A _ h)
    · exact booted_starts (slotB := true) (pickSlot_B _ h)
    · have hnone : s.bootSlot a b = none := pickSlot_none _ h
      rw [booted_download hnone, enterDownload_clock]
      exact ⟨rfl, rfl⟩
  · obtain ⟨hgen, hzero, hkey⟩ := unwrapKey_intake (s.onClock fun c => { c with phase := .done, fwUp := true })
    refine ⟨_, (exec_firmwareStart hphase hdisc).trans (if_neg (by simpa using hgood)), ?_⟩
    rw [setDev_recover_intake, setDev_clock]
    have hclock : (s.onClock fun c => { c with phase := .done, fwUp := true }).unwrapKey.clock.fwUp = true := by
      unfold State.unwrapKey
      dsimp only
      split <;> rfl
    exact ⟨rfl, rfl, hclock, hgen, hzero, hkey, rfl⟩
  · refine ⟨_, (exec_firmwareStart hphase hdisc).trans (if_pos (by simpa using hbad)), congrArg ClockState.dev (setDev_clock _ _), ?_⟩
    exact (keeps_setDev .halted (Keeps.refl { clock := true, link := true, intake := true, host := true } _) rfl rfl rfl rfl).wickF rfl

end Sys2Proof.Machine

/-! # Recovery (R83, R101, R131, R135 to R145) -/

namespace Sys2Proof.Machine
open Sys2Proof

/-! ### The KEY records through the boot check and the pair of recovery (R419, R425, R426) -/

section KeyCopies

variable {w u : WickState}

/-- Which copy a side has rests on the records, the window and the SUSPECT sectors alone. -/
theorem copyOf_congr (hrecs : u.recs = w.recs) (hbase : u.wbase = w.wbase) (hsuspect : u.suspect = w.suspect) (kind : Nat) (copyB : Bool) :
    u.copyOf kind copyB = w.copyOf kind copyB := by
  unfold WickState.copyOf WickState.reads WickState.suspectP WickState.phys
  rw [hrecs, hbase, hsuspect]

/-- A copy of another kind decides nothing among the KEY records. -/
theorem copyOf_key_putCopy (w : WickState) {r : WRec} (hkind : r.kind ≠ recKey) (copyB : Bool) :
    (w.putCopy r).copyOf recKey copyB = w.copyOf recKey copyB := by
  unfold WickState.putCopy
  split
  · next p _ =>
    show topRec (List.filter (fun x => x.kind == recKey && x.copyB == copyB && w.reads x) ({ r with place := p } :: w.recs)) = _
    rw [List.filter_cons_of_neg (by simp [hkind])]
    rfl
  · rfl

theorem copyOf_key_trialDone (w : WickState) (copyB : Bool) : w.trialDone.copyOf recKey copyB = w.copyOf recKey copyB := by
  have hboot : ∀ b : BootRec, (w.putBoot b).copyOf recKey copyB = w.copyOf recKey copyB := fun b => by
    unfold WickState.putBoot WickState.putRec
    have hne : recBoot ≠ recKey := by decide
    exact (copyOf_key_putCopy _ (by exact hne) copyB).trans (copyOf_key_putCopy _ (by exact hne) copyB)
  unfold WickState.trialDone
  split
  · rfl
  · split
    · exact hboot _
    · rfl

theorem anchors_trialDone (w : WickState) : w.trialDone.anchors = w.anchors := by
  have hput : ∀ (v : WickState) r, (v.putCopy r).anchors = v.anchors := fun v r => by
    unfold WickState.putCopy
    split <;> rfl
  unfold WickState.trialDone
  split
  · rfl
  · split
    · exact (hput _ _).trans (hput _ _)
    · rfl

theorem suspectP_iff (k : Nat) : w.suspectP k = true ↔ ∃ x ∈ w.suspect, 16 ≤ x ∧ w.phys (x - 16) = k := by
  simp [WickState.suspectP]

/-- A parameter sector is renamed with the window, and stays the same sector (R417). -/
theorem resector_phys {base old x : Nat} (hx : 16 ≤ x) (hbase : w.wbase = base) :
    16 ≤ w.resector old x ∧ w.phys (w.resector old x - 16) = (old + (x - 16)) % 48 := by
  unfold WickState.resector WickState.relog WickState.phys
  rw [if_neg (Nat.not_lt.mpr hx), hbase]
  omega

theorem suspectP_atBase {k : Nat} (base : Nat) (h : w.suspectP k = true) : (w.atBase base).suspectP k = true := by
  obtain ⟨x, hx, hlarge, hk⟩ := (suspectP_iff k).mp h
  obtain ⟨hlarge', hk'⟩ := resector_phys (w := { w with wbase := base }) (old := w.wbase) hlarge rfl
  exact (suspectP_iff k).mpr ⟨_, List.mem_map_of_mem hx, hlarge', hk'.trans hk⟩

theorem suspectP_addSuspect {k : Nat} (x : Nat) (h : w.suspectP k = true) : (w.addSuspect x).suspectP k = true := by
  obtain ⟨y, hy, hk⟩ := (suspectP_iff k).mp h
  refine (suspectP_iff k).mpr ⟨y, ?_, hk⟩
  unfold WickState.addSuspect
  dsimp only
  split
  · exact hy
  · exact List.mem_append_left _ hy

/-- The boot check leaves the records and the anchors, and no SUSPECT sector is read again (R425). -/
theorem bootCheck_records (s : State) (bad : List Nat) : (s.bootCheck bad).wick.recs = s.wick.recs ∧
    ∀ k, s.wick.suspectP k = true → (s.bootCheck bad).wick.suspectP k = true := by
  unfold State.bootCheck
  split
  · exact ⟨rfl, fun _ h => h⟩
  · unfold State.takeAnchor State.onWick
    dsimp only
    split
    · exact ⟨rfl, fun _ h => suspectP_atBase _ h⟩
    · exact ⟨rfl, fun _ h => suspectP_addSuspect _ (suspectP_atBase _ h)⟩

theorem takeAnchor_anchors (s : State) (a : Anchor) : (s.takeAnchor a).wick.anchors = s.wick.anchors := by
  unfold State.takeAnchor State.onWick
  dsimp only
  split <;> rfl

/-- A blank magazine has no KEY record above generation 0 after the boot check either. -/
theorem bootCheck_keysUpTo {s : State} (bad : List Nat) (hA : s.wick.keyA = 0) (hB : s.wick.keyB = 0) :
    (s.bootCheck bad).wick.KeysUpTo 0 := by
  obtain ⟨hrecs, hsuspect⟩ := bootCheck_records s bad
  have hlow : s.wick.KeysUpTo 0 := keysUpTo_iff.mpr (by rw [hA, hB]; decide)
  intro r hr hkind hread
  simp only [WickState.reads, Bool.and_eq_true, Bool.not_eq_true'] at hread
  refine hlow r (hrecs ▸ hr) hkind ?_
  simp only [WickState.reads, Bool.and_eq_true, Bool.not_eq_true']
  exact ⟨hread.1, Bool.eq_false_iff.mpr fun h => Bool.eq_false_iff.mp hread.2 (hsuspect _ h)⟩

end KeyCopies
/-! ### Leaving RECOVER (R81, R142, R452) -/

section Exit

variable {s t u : State} {d : DevState} {code : BitVec 3} {ro : Bool}

/-- Every entry of the stream table is FREE, CLOSED or FAULTED, and its accepted bytes are durable (R83). -/
def Stream.Settled (e : Stream) : Prop := (e.st = .free ∨ e.st = .closed ∨ e.st = .faulted) ∧ e.durable = e.accept

/-- The same of a whole table. -/
def State.Settled (s : State) : Prop := ∀ e ∈ s.intake.streams, e.2.Settled

/-- A settled table is settled at every stream: one without an entry is FREE. -/
theorem settled_stream (h : s.Settled) (i : Nat) : (s.stream i).Settled := by
  by_cases hnone : s.stream i = Stream.none
  · rw [hnone]
    exact ⟨.inl rfl, rfl⟩
  · exact h _ (mem_of_tget_ne hnone)

/-- From s to t the state leaves RECOVER: a settled table gains no entry, and of the Wick array only a trial image's BOOT record is written. -/
structure State.Leaves (s t : State) (d : DevState) : Prop where
  clock : t.clock = { s.clock with dev := d }
  lamp : t.lamp = s.lamp
  wick : t.wick = s.wick ∨ t.wick = s.wick.trialDone
  keyGen : t.intake.keyGen = s.intake.keyGen
  streams : s.Settled → ∀ e ∈ t.intake.streams, e ∈ s.intake.streams

theorem mem_of_mem_tmap {α : Type} [DecidableEq α] {dflt : α} {f : Nat → α → α} {m : Sparse α} {e : Nat × α}
    (h : e ∈ tmap dflt f m) : ∃ x ∈ m, e = (x.1, f x.1 x.2) := by
  induction m with
  | nil => cases h
  | cons y m ih =>
    unfold tmap at h
    split at h
    · obtain ⟨x, hx, he⟩ := ih h
      exact ⟨x, List.mem_cons_of_mem _ hx, he⟩
    · rcases List.mem_cons.mp h with he | h
      · exact ⟨y, List.mem_cons_self, he⟩
      · obtain ⟨x, hx, he⟩ := ih h
        exact ⟨x, List.mem_cons_of_mem _ hx, he⟩

/-- No stream of a settled table is OPEN, so none drains (R81). -/
theorem drainOpen_streams (h : s.Settled) : ∀ e ∈ s.drainOpen.intake.streams, e ∈ s.intake.streams := by
  intro e he
  obtain ⟨x, hx, rfl⟩ := mem_of_mem_tmap he
  have hclosed : x.2.st ≠ .open := by
    obtain ⟨hst, -⟩ := h x hx
    rcases hst with hst | hst | hst <;> rw [hst] <;> decide
  rw [if_neg hclosed]
  exact hx

theorem leaves_setDev (s : State) (hd : d = .ready ∨ d = .degraded ∨ d = .readOnly) : s.Leaves (s.setDev d) d where
  clock := setDev_clock s d
  lamp := (setDev_keeps s d).lampF rfl
  wick := .inl ((setDev_keeps s d).wickF rfl)
  keyGen := by
    unfold State.setDev
    split
    · rfl
    · cases d <;> exact (congrArg IntakeState.keyGen ((keeps_raise .stateChange (Keeps.refl { link := true, host := true } _) rfl rfl).intakeF rfl) :)
  streams := by
    intro h e he
    rcases hd with hd | hd | rfl
    · exact setDev_intake_running (s := s) (.inl hd) ▸ he
    · exact setDev_intake_running (s := s) (.inr hd) ▸ he
    · unfold State.setDev at he
      split at he
      · exact he
      · have hin := (keeps_raise .stateChange (Keeps.refl { link := true, host := true } (s.onClock fun c => { c with dev := .readOnly })) rfl rfl).intakeF rfl
        have hset : ((s.onClock fun c => { c with dev := DevState.readOnly }).raise .stateChange).Settled := by
          unfold State.Settled
          rw [hin]
          exact h
        have hmem := drainOpen_streams hset e he
        rw [hin] at hmem
        exact hmem

/-- What moves neither clock, lamp nor Wick array, and of INTAKE neither the key's generation nor the table, changes nothing of it. -/
theorem State.Leaves.andThen (h : s.Leaves t d) (hclock : u.clock = t.clock) (hlamp : u.lamp = t.lamp) (hwick : u.wick = t.wick)
    (hgen : u.intake.keyGen = t.intake.keyGen) (hstreams : u.intake.streams = t.intake.streams) : s.Leaves u d where
  clock := hclock.trans h.clock
  lamp := hlamp.trans h.lamp
  wick := hwick ▸ h.wick
  keyGen := hgen.trans h.keyGen
  streams := hstreams ▸ h.streams

theorem leaves_enterRunning (s : State) : ∃ d, (d = .ready ∨ d = .degraded) ∧ s.Leaves s.enterRunning d := by
  have hgo : ∀ {d}, (d = .ready ∨ d = .degraded) → s.Leaves ((s.onWick WickState.trialDone).setDev d) d := fun {d} hd =>
    have hset := leaves_setDev (s.onWick WickState.trialDone) (hd.elim .inl fun h => .inr (.inl h))
    { clock := hset.clock, lamp := hset.lamp, keyGen := hset.keyGen, streams := hset.streams
      wick := .inr ((setDev_keeps (s.onWick WickState.trialDone) d).wickF rfl) }
  unfold State.enterRunning
  dsimp only
  split
  · exact ⟨.ready, .inl rfl, hgo (.inl rfl)⟩
  · refine ⟨.degraded, .inr rfl, ?_⟩
    have hdeg := (hgo (.inr rfl)).andThen (u := ((s.onWick WickState.trialDone).setDev .degraded).onIntake fun i =>
      { i with wtPowerUp := !(s.onWick WickState.trialDone).otherCause }) rfl rfl rfl rfl rfl
    split
    · have hk := keeps_count32 0x46 1 (keeps_raise .wtEnter (Keeps.refl { link := true, host := true, health := true }
        (((s.onWick WickState.trialDone).setDev .degraded).onIntake fun i =>
          { i with wtPowerUp := !(s.onWick WickState.trialDone).otherCause })) rfl rfl) rfl
      exact hdeg.andThen (hk.clockF rfl) (hk.lampF rfl) (hk.wickF rfl) (congrArg IntakeState.keyGen (hk.intakeF rfl))
        (congrArg IntakeState.streams (hk.intakeF rfl))
    · exact hdeg

/-- The space conditions are flags alone (R201). -/
theorem spaceCheck_intake (s : State) : s.spaceCheck.intake.keyGen = s.intake.keyGen ∧ s.spaceCheck.intake.streams = s.intake.streams := by
  have hraise : ∀ (b : Bool) (a : Attn) (t : State), (if b = true then t.raise a else t).intake = t.intake := fun b a t => by
    split
    · exact (signalled_raise t a).intake
    · rfl
  have hflags : ∀ (t : State) (lo no : Bool), (t.onIntake fun i => { i with spaceLow := lo, spaceFull := no }).intake.keyGen = t.intake.keyGen ∧
      (t.onIntake fun i => { i with spaceLow := lo, spaceFull := no }).intake.streams = t.intake.streams := fun _ _ _ => ⟨rfl, rfl⟩
  unfold State.spaceCheck
  obtain ⟨hgen, hstreams⟩ := hflags _ s.lowSpace s.noSpace
  dsimp only
  rw [hgen, hstreams, hraise, hraise]
  exact ⟨rfl, rfl⟩

/-- The checks of space and health that follow move none of it. -/
theorem leaves_checks (h : s.Leaves t d) : s.Leaves t.holdC.spaceCheck.healthCheck d := by
  obtain ⟨hgen, hstreams⟩ := spaceCheck_intake t.holdC
  have hk := keeps_spaceCheck (keeps_holdC (Keeps.refl { place := true, link := true, intake := true, host := true } t) rfl) rfl rfl rfl
  have hc := keeps_healthCheck (Keeps.refl { link := true, host := true, health := true } t.holdC.spaceCheck) rfl rfl rfl
  have hin := hc.intakeF rfl
  exact h.andThen ((hc.clockF rfl).trans (hk.clockF rfl)) ((hc.lampF rfl).trans (hk.lampF rfl)) ((hc.wickF rfl).trans (hk.wickF rfl))
    ((congrArg IntakeState.keyGen hin).trans hgen) ((congrArg IntakeState.streams hin).trans hstreams)

/-- RECOVER ends in READ_ONLY where the mount is one, and in READY, DEGRADED or READ_ONLY otherwise. -/
structure State.Left (s t : State) (code : BitVec 3) (ro : Bool) (ms : Nat) : Prop where
  dev : t.clock.dev = .readOnly ∨ ro = false ∧ (t.clock.dev = .ready ∨ t.clock.dev = .degraded)
  status : t.clock.step = 9 ∧ t.clock.recMs = BitVec.ofNat 16 (min ms 65535) ∧ t.clock.recCode = code
  lamp : t.lamp = s.lamp
  wick : t.wick = s.wick ∨ t.wick = s.wick.trialDone
  keyGen : t.intake.keyGen = s.intake.keyGen
  streams : s.Settled → ∀ e ∈ t.intake.streams, e ∈ s.intake.streams

theorem leaveRecover_left (s : State) (code : BitVec 3) (ro : Bool) (link : Option LinkLast) (ms : Nat) :
    s.Left (s.leaveRecover code ro link ms) code ro ms := by
  unfold State.leaveRecover
  extract_lets s1 s2 s3
  have hgo : ∃ d, (d = .readOnly ∨ ro = false ∧ (d = .ready ∨ d = .degraded)) ∧
      s3.Leaves (if (ro || s3.snuffLatched) = true then s3.setDev .readOnly else s3.enterRunning) d := by
    split
    · exact ⟨.readOnly, .inl rfl, leaves_setDev s3 (.inr (.inr rfl))⟩
    · next hro =>
      obtain ⟨d, hd, hleaves⟩ := leaves_enterRunning s3
      simp only [Bool.or_eq_true, not_or, Bool.not_eq_true] at hro
      exact ⟨d, .inr ⟨hro.1, hd⟩, hleaves⟩
  obtain ⟨d, hd, hleaves⟩ := hgo
  obtain ⟨hclock, hlamp, hwick, hgen, hstreams⟩ := leaves_checks hleaves
  exact
    { dev := by rw [hclock]; exact hd
      status := by rw [hclock]; exact ⟨rfl, rfl, rfl⟩
      lamp := hlamp, wick := hwick, keyGen := hgen, streams := hstreams }

end Exit

/-! ### The pair of recovery and what is installed before it (R83, R131, R135, R143) -/

section Install

variable {s t u : State}

/-- What installing, casks, bands and checkpoints of recovery may write: neither the clock, LAMP, INTAKE nor the Wick array. -/
def Touch.restoring : Touch :=
  { fault := true, media := true, place := true, journal := true, host := true, mem := true, health := true }

/-- The Wick array has one anchor pair of the next generation more, which names no snuff band, and the same KEY copies. -/
structure WickState.Paired (w u : WickState) (top : Nat) : Prop where
  anchors : ∃ x p, u.anchors = x :: { x with copyB := true, place := p } :: w.anchors ∧ x.gen = top + 1 ∧ x.snuff = false
  keys : ∀ copyB, u.copyOf recKey copyB = w.copyOf recKey copyB

/-- The pair is written with the sector that WICK arms, and spends a token (R131, R132). -/
theorem armed_pair (s : State) (head : Nat) : s.wick.Paired (((s.onWick WickState.arm).writePair (s.topGen + 1) false head none).onWick fun w =>
    { w with tokens := w.tokens - 1 }).wick s.topGen := by
  obtain ⟨q, i, o, harm⟩ := upkept_arm s.wick
  obtain ⟨used, a, b, hpair⟩ := writePair_eq (s.onWick WickState.arm) (s.topGen + 1) head
  have harmed : (s.onWick WickState.arm).wick = { s.wick with queue := q, intent := i, intentOn := o } := harm
  rw [hpair]
  refine ⟨⟨(s.onWick WickState.arm).composeAnchor (s.topGen + 1) false false head none, (s.onWick WickState.arm).wick.slotPlace true, ?_, rfl, rfl⟩, fun copyB => copyOf_congr ?_ ?_ ?_ _ _⟩
  · exact congrArg (fun l => _ :: _ :: l) (congrArg WickState.anchors harmed :)
  · exact (congrArg WickState.recs harmed :)
  · exact (congrArg WickState.wbase harmed :)
  · exact (congrArg WickState.suspect harmed :)

/-- The new checkpoint's pair is written after pages and checkpoint, and before the tail. -/
theorem anchorNew_eq (s : State) (r : RecoveryIn) : ∃ (t : State) (head : Nat) (f : JournalState → JournalState), Keeps .restoring s t ∧
    s.anchorNew r = ((((t.onWick WickState.arm).writePair (t.topGen + 1) false head none).onWick fun w =>
      { w with tokens := w.tokens - 1 }).onJournal f).setTail :=
  ⟨_, _, _, keeps_checkpoint (some r) (keeps_landAll 4 _ (keeps_submitPages (keeps_shrinkRuns s.place.runs.length s
    (Keeps.refl Touch.restoring s) rfl rfl) rfl rfl) rfl rfl) rfl rfl rfl rfl rfl, rfl⟩

theorem anchorNew_paired (s : State) (r : RecoveryIn) : s.wick.Paired (s.anchorNew r).wick s.topGen := by
  obtain ⟨t, head, f, hk, heq⟩ := anchorNew_eq s r
  have hwick : t.wick = s.wick := hk.wickF rfl
  have hpair := armed_pair t head
  rw [hwick, topGen_congr hwick] at hpair
  rw [heq, topGen_congr hwick]
  generalize hu : (((t.onWick WickState.arm).writePair (s.topGen + 1) false head none).onWick fun w =>
    { w with tokens := w.tokens - 1 }) = u at hpair ⊢
  exact hpair

/-- A restored entry is settled, once recovery casks record its bytes (R83). -/
theorem restored_settled (e : Stream) (len n : Nat) : (e.restored len n true).Settled := by
  unfold Stream.restored
  split
  · exact ⟨.inl rfl, rfl⟩
  · refine ⟨?_, rfl⟩
    cases e.st
    · exact .inl rfl
    · exact .inr (.inl rfl)
    · exact .inr (.inl rfl)
    · exact .inr (.inl rfl)
    · exact .inr (.inr rfl)

theorem table_settled (x : Snapshot) (lens : Sparse Nat) (first : Nat) : ∀ e ∈ x.table lens first true, e.2.Settled := by
  have hfold : ∀ (l : Sparse Stream) (t : Sparse Stream), (∀ e ∈ t, e.2.Settled) →
      ∀ e ∈ l.foldl (fun t e => tset Stream.none t e.1 (e.2.restored (tget 0 lens e.1) first true)) t, e.2.Settled := by
    intro l
    induction l with
    | nil => exact fun _ h => h
    | cons y l ih =>
      refine fun t h => ih _ fun e he => ?_
      rcases mem_of_mem_tset he with rfl | he
      · exact restored_settled _ _ _
      · exact h e he
  exact hfold x.streams [] fun _ h => absurd h List.not_mem_nil

/-- What is installed besides the stream table moves neither clock, LAMP nor Wick array. -/
theorem install_parts (s : State) (a : Anchor) (x : Snapshot) (ps : List Piece) (lens : Sparse Nat) (first last : Nat) :
    (s.install a x ps lens first last true).Settled ∧ (s.install a x ps lens first last true).clock = s.clock ∧
      (s.install a x ps lens first last true).lamp = s.lamp ∧ (s.install a x ps lens first last true).wick = s.wick := by
  have hk := keeps_install a x ps lens first last true (Keeps.refl { intake := true, place := true, mem := true, health := true } s) rfl rfl rfl rfl
  refine ⟨?_, hk.clockF rfl, hk.lampF rfl, hk.wickF rfl⟩
  unfold State.install
  extract_lets facts s1 s2 s2' s3
  have h3 : Keeps .restoring s2' s3 := keeps_foldl _ (fun _ _ h => keeps_modMemory _ _ h rfl) _ (keeps_countGood (Keeps.refl _ s2') rfl)
  have hall := keeps_recoveredWords (s.snuffRead a) (keeps_onHealth (fun h => { h with words := mergeWords x.health h.words }) h3 rfl) rfl
  unfold State.Settled
  rw [hall.intakeF rfl]
  exact table_settled x lens first

end Install

/-! ### Recovery from an anchor (R83, R135 to R142) -/

section FromAnchor

variable {s t : State} {a : Anchor} {c : AnchorChoice}

/-- The new pair, with the bands after it, leaves LAMP and the stream table, and adds its two anchors. -/
theorem paired_bands (s : State) (r : RecoveryIn) (hpre : s.wick.anchors = t.wick.anchors) :
    (((s.anchorNew r).spareJournal (some r)).restoreSnuff r).intake = s.intake ∧
    (((s.anchorNew r).spareJournal (some r)).restoreSnuff r).lamp = s.lamp ∧
    ∃ x p, (((s.anchorNew r).spareJournal (some r)).restoreSnuff r).wick.anchors = x :: { x with copyB := true, place := p } :: t.wick.anchors ∧
      x.gen = t.topGen + 1 ∧ x.snuff = false := by
  have hpair := keeps_anchorNew r (Keeps.refl { fault := true, media := true, place := true, journal := true, wick := true, health := true } s)
    rfl rfl rfl rfl rfl rfl
  have hlast := keeps_restoreSnuff r (keeps_spareJournal (some r) (Keeps.refl .restoring (s.anchorNew r)) rfl rfl rfl rfl rfl) rfl rfl rfl rfl
  obtain ⟨⟨x, p, hanchors, hgen, hsnuff⟩, -⟩ := anchorNew_paired s r
  refine ⟨(hlast.intakeF rfl).trans (hpair.intakeF rfl), (hlast.lampF rfl).trans (hpair.lampF rfl), x, p, ?_, ?_, hsnuff⟩
  · rw [hlast.wickF rfl, hanchors, hpre]
  · rw [hgen]
    unfold State.topGen
    rw [hpre]

/-- Without a tie, and with a journal to write, recovery leaves RECOVER on a state with the recovered streams and one anchor pair more. -/
theorem recoverFrom_leaves (r : RecoveryIn) (hties : c.tie = false) (hdies : s.tooFewDies = false) :
    ∃ (u : State) (code : BitVec 3) (ro : Bool) (link : Option LinkLast), s.recoverFrom a c r = u.leaveRecover code ro link r.ms ∧
      u.Settled ∧ u.lamp.cycle = s.lamp.cycle ∧
      ∃ x p, u.wick.anchors = x :: { x with copyB := true, place := p } :: s.wick.anchors ∧ x.gen = s.topGen + 1 ∧ x.snuff = false := by
  have htake := keeps_takeAnchor a (Keeps.refl { wick := true } s) rfl
  have hfew : (s.takeAnchor a).tooFewDies = false := by
    rw [htake.frame]
    exact hdies
  unfold State.recoverFrom
  extract_lets s0 x ws last_ known img ps0 cut lens ps sealed last cycles top s1 s2 link s3 s3' s4 s5 code s6
  have hsealed : sealed = true := by
    show (!s0.tooFewDies) = true
    rw [hfew]
    rfl
  rw [if_neg (by rw [hsealed]; decide), if_neg (by rw [hties]; decide)]
  have hinstall : s2 = s1.install a x ps lens s1.lamp.nextCycle last_ true :=
    congrArg (s1.install a x ps lens s1.lamp.nextCycle last_) hsealed
  obtain ⟨hsettled, -, hlamp, hwick⟩ := install_parts s1 a x ps lens s1.lamp.nextCycle last_
  rw [← hinstall] at hsettled hlamp hwick
  have hcasks : Keeps .restoring s2 (if cycles.isEmpty = true then s4 else s4.sealWords) :=
    have hs4 : Keeps .restoring s2 s4 := keeps_foldl _ (fun _ n h => keeps_writeRecoveryCask r x ps _ n h rfl rfl rfl rfl rfl rfl) _
      (keeps_onJournal _ (Keeps.refl _ s2) rfl)
    keeps_ite hs4 (keeps_sealWords hs4 rfl)
  obtain ⟨hin, hlampE, x', p, hpair⟩ := paired_bands (t := s) (if cycles.isEmpty = true then s4 else s4.sealWords) r
    (by rw [hcasks.wickF rfl, hwick]; exact takeAnchor_anchors s a)
  refine ⟨s5, code, _, link, rfl, ?_, ?_, x', p, hpair⟩
  · unfold State.Settled
    rw [hin, hcasks.intakeF rfl]
    exact hsettled
  · rw [hlampE, hcasks.lampF rfl, hlamp]
    exact (congrArg LampState.cycle (htake.lampF rfl) :)

end FromAnchor

/-! ### A blank magazine, and keys without an anchor (R101, R142, R144) -/

section Blank

variable {s t u : State} {code : BitVec 3} {ro : Bool}

/-- Leaving RECOVER writes no KEY record, and moves no anchor. -/
theorem State.Left.wickKeys {ms : Nat} (h : u.Left t code ro ms) :
    t.wick.keyA = u.wick.keyA ∧ t.wick.keyB = u.wick.keyB ∧ t.wick.anchors = u.wick.anchors := by
  unfold WickState.keyA WickState.keyB
  rcases h.wick with hw | hw
  · rw [hw]
    exact ⟨rfl, rfl, rfl⟩
  · rw [hw, copyOf_key_trialDone, copyOf_key_trialDone, anchors_trialDone]
    exact ⟨rfl, rfl, rfl⟩

/-- The first key is of generation 1, in both KEY records where both find a place. -/
theorem newKey_first (hlow : s.wick.KeysUpTo 0) (hA : s.wick.freePlace recKey false ≠ none) (hB : s.wick.freePlace recKey true ≠ none) :
    (s.newKey 1).wick.keyA = 1 ∧ (s.newKey 1).wick.keyB = 1 := by
  obtain ⟨hkeyA, hkeyB, -⟩ := storeKey_gives (g := 1) hlow (by decide) (by decide) (wrapKey_keyBytes_length s.wick s.draws) hA hB
  exact ⟨hkeyA, hkeyB⟩

theorem initMagazine_leaves (s : State) (r : RecoveryIn) (hA : s.wick.keyA = 0) (hB : s.wick.keyB = 0) (hdies : s.tooFewDies = false) :
    ∃ (u : State) (mount : Bool), s.initMagazine r = u.leaveRecover (if u.snuffHeld then 6 else 7) (!u.snuffHeld || mount) none r.ms ∧
      u.intake.streams = [] ∧ u.intake.keyGen = 1 ∧ u.lamp = s.lamp ∧
      ((s.bootCheck r.badSeqs).wick.freePlace recKey false ≠ none → (s.bootCheck r.badSeqs).wick.freePlace recKey true ≠ none →
        u.wick.keyA = 1 ∧ u.wick.keyB = 1) := by
  have hboot := keeps_countGood (keeps_bootCheck r.badSeqs (Keeps.refl { wick := true, place := true } s) rfl) rfl
  have hfew : (s.bootCheck r.badSeqs).countGood.tooFewDies = false := by
    rw [hboot.frame]
    exact hdies
  unfold State.initMagazine
  extract_lets s0 s1 size held s2 fresh s3 s4 s5
  rw [if_neg (by rw [hfew]; decide)]
  have hplaced : Keeps .restoring s1 s2 := keeps_onPlace _ (Keeps.refl _ s1) rfl
  have hwords : Keeps .restoring s1 s3 := keeps_firstWords (keeps_onJournal _ hplaced rfl) rfl
  have hbands : Keeps .restoring s1 s4 := keeps_restoreSnuff r (keeps_firstJournal r hwords rfl rfl rfl rfl rfl) rfl rfl rfl rfl
  have hpair := keeps_anchorNew r (Keeps.refl { fault := true, media := true, place := true, journal := true, wick := true, health := true } s4)
    rfl rfl rfl rfl rfl rfl
  have hin : s5.intake = s1.intake := (hpair.intakeF rfl).trans (hbands.intakeF rfl)
  have hkeys := (anchorNew_paired s4 r).keys
  rw [hbands.wickF rfl] at hkeys
  refine ⟨s5, s.clock.snuffMount, rfl, (congrArg IntakeState.streams hin :), (congrArg IntakeState.keyGen hin :), ?_, fun hfreeA hfreeB => ?_⟩
  · exact (hpair.lampF rfl).trans ((hbands.lampF rfl).trans (hboot.lampF rfl))
  · obtain ⟨hkeyA, hkeyB⟩ := newKey_first (s := s0) (bootCheck_keysUpTo r.badSeqs hA hB) hfreeA hfreeB
    unfold WickState.keyA WickState.keyB
    rw [hkeys, hkeys]
    exact ⟨hkeyA, hkeyB⟩

theorem exec_recovery_anchor {a : Anchor} {r : RecoveryIn} (hdev : s.clock.dev = .recover) (hup : s.recoverUp = true)
    (htok : 0 < s.wick.tokens) (ha : (s.chooseAnchor r.badSeqs).anchor = some a) :
    exec (.recovery r) s = .next (s.recoverFrom a (s.chooseAnchor r.badSeqs) r) := by
  show execRecovery r s = _
  unfold execRecovery
  rw [hdev, hup, if_neg (by decide)]
  dsimp only
  rw [ha]
  exact congrArg Host.Outcome.next (if_pos (by simp [State.pairToken, htok]))

theorem exec_recovery_blank {r : RecoveryIn} (hdev : s.clock.dev = .recover) (hup : s.recoverUp = true)
    (htok : 0 < s.wick.tokens) (hnone : (s.chooseAnchor r.badSeqs).anchor = none) (hA : s.wick.keyA = 0) (hB : s.wick.keyB = 0) :
    exec (.recovery r) s = .next (s.initMagazine r) := by
  show execRecovery r s = _
  unfold execRecovery
  rw [hdev, hup, if_neg (by decide)]
  dsimp only
  rw [hnone]
  exact (if_pos ⟨hA, hB⟩).trans (congrArg Host.Outcome.next (if_pos (by simp [State.pairToken, htok])))

theorem exec_recovery_keys {r : RecoveryIn} (hdev : s.clock.dev = .recover) (hup : s.recoverUp = true)
    (hnone : (s.chooseAnchor r.badSeqs).anchor = none) (hkeys : s.wick.keyA ≠ 0 ∨ s.wick.keyB ≠ 0) :
    exec (.recovery r) s =
      .next ((s.onClock fun k => { k with recCode := 5, recMs := BitVec.ofNat 16 (min r.ms 65535) }).setDev .halted) := by
  show execRecovery r s = _
  unfold execRecovery
  rw [hdev, hup, if_neg (by decide)]
  dsimp only
  rw [hnone]
  exact if_neg fun h => hkeys.elim (fun hA => hA h.1) fun hB => hB h.2

end Blank

/-- Settles O59: a recovery from an anchor and an initialization both leave RECOVER, on a settled table with one pair more and on an empty
one with the first key; keys without an anchor halt. -/
theorem recovers : Obligations.Recovers := by
  unfold Obligations.Recovers
  refine fun s r hdev hup => ⟨fun a ha htie hdies htok => ?_, fun hnone hA hB hdies htok => ?_, fun hnone hkeys => ?_⟩
  · obtain ⟨u, code, ro, link, heq, hsettled, hcycle, x, p, hanchors, hgen, hsnuff⟩ := recoverFrom_leaves (a := a) r htie hdies
    have hleft := leaveRecover_left u code ro link r.ms
    rw [← heq] at hleft
    obtain ⟨hstep, hms, -⟩ := hleft.status
    have hset : (s.recoverFrom a (s.chooseAnchor r.badSeqs) r).Settled := fun e he => hsettled e (hleft.streams hsettled e he)
    refine ⟨_, exec_recovery_anchor hdev hup htok ha, ⟨?_, hstep, hms, ?_⟩, fun i => settled_stream hset i, x, p, ?_, hgen, hsnuff⟩
    · exact hleft.dev.elim (fun h => .inr (.inr h)) fun h => h.2.imp_right .inl
    · exact (congrArg LampState.cycle hleft.lamp).trans hcycle
    · exact hleft.wickKeys.2.2.trans hanchors
  · obtain ⟨u, mount, heq, hstreams, hgen, hlamp, hkeys⟩ := initMagazine_leaves s r hA hB hdies
    have hleft := leaveRecover_left u (if u.snuffHeld then 6 else 7) (!u.snuffHeld || mount) none r.ms
    rw [← heq] at hleft
    obtain ⟨hstep, hms, hcode⟩ := hleft.status
    obtain ⟨hkeyA, hkeyB, -⟩ := hleft.wickKeys
    refine ⟨_, exec_recovery_blank hdev hup htok hnone hA hB, ⟨?_, hstep, hms, ?_⟩, ?_, fun hfreeA hfreeB => ?_, ?_, ?_⟩
    · exact hleft.dev.elim (fun h => .inr (.inr h)) fun h => h.2.imp_right .inl
    · exact congrArg LampState.cycle (hleft.lamp.trans hlamp)
    · have hempty : u.Settled := fun e he => absurd (hstreams ▸ he) List.not_mem_nil
      exact List.eq_nil_iff_forall_not_mem.mpr fun e he => absurd (hstreams ▸ hleft.streams hempty e he) List.not_mem_nil
    · exact ⟨hkeyA.trans (hkeys hfreeA hfreeB).1, hkeyB.trans (hkeys hfreeA hfreeB).2⟩
    · exact hleft.keyGen.trans hgen
    · cases hheld : u.snuffHeld with
      | true => exact .inl (hcode.trans (by rw [hheld]; rfl))
      | false =>
        refine .inr ⟨hcode.trans (by rw [hheld]; rfl), hleft.dev.elim id fun h => ?_⟩
        rw [hheld] at h
        cases h.1
  · have hkeep := setDev_keeps (s.onClock fun k => { k with recCode := 5, recMs := BitVec.ofNat 16 (min r.ms 65535) }) .halted
    have hclock := setDev_clock (s.onClock fun k => { k with recCode := 5, recMs := BitVec.ofNat 16 (min r.ms 65535) }) .halted
    refine ⟨_, exec_recovery_keys hdev hup hnone hkeys, ?_, ?_, hkeep.wickF rfl, hkeep.journalF rfl, hkeep.placeF rfl⟩
    · rw [hclock]
    · rw [hclock]
      rfl

end Sys2Proof.Machine

/-! # Die timeouts and scrub visits (R184, R185, R191) -/

namespace Sys2Proof.Machine
open Sys2Proof

/-! ### What the failure of a die and of a channel leaves (R161, R191, R242) -/

section DieFailures

variable {s t u : State} {n die : Nat}

/-- From s to t the dies of channel n stand as they stood, those recorded as retired are recorded still, started descriptors keep their
status, and the count of timeouts stands. -/
structure State.DiesStand (s t : State) (n : Nat) : Prop where
  queued : s.Queued t
  dies : (t.chan n).dies = (s.chan n).dies
  retDies : ∀ i, (s.chan n).retDies.getLsbD i = true → (t.chan n).retDies.getLsbD i = true
  count : t.hget 0x17 = s.hget 0x17

theorem State.DiesStand.refl (s : State) (n : Nat) : s.DiesStand s n := ⟨.refl s, rfl, fun _ h => h, rfl⟩

theorem State.DiesStand.trans (h : s.DiesStand t n) (k : t.DiesStand u n) : s.DiesStand u n :=
  ⟨h.queued.trans k.queued, k.dies.trans h.dies, fun i hi => k.retDies i (h.retDies i hi), k.count.trans h.count⟩

/-- The end of a failure, that of a die or a channel: the channel stands as it was written, and its word of the log counts (R242). -/
theorem failed_chan (s : State) (x : Nat × Option Nat) (c : Channel) (n : Nat) (cause : Cause) (d : BitVec 56) :
    (((((s.setChan n c).onMedia fun m => { m with rebuilds := m.rebuilds ++ [x] }).countGood).retiredWord).assertError cause d).chan n = c ∧
    (((((s.setChan n c).onMedia fun m => { m with rebuilds := m.rebuilds ++ [x] }).countGood).retiredWord).assertError cause d).hget 0x17 =
      s.hget 0x17 := by
  rw [assertError_chan]
  have hhealth := (keeps_assertError (L := { fault := true }) cause d (Keeps.refl _
    ((((s.setChan n c).onMedia fun m => { m with rebuilds := m.rebuilds ++ [x] }).countGood).retiredWord)) rfl).healthF rfl
  refine ⟨tget_tset_same .., ?_⟩
  unfold State.hget at hhealth ⊢
  rw [hhealth]
  exact hget_hset_ne _ (by decide)

/-- A die that fails is RETIRED, and recorded (R191). -/
theorem failDie_retires (hactive : tget DieCode.absent (s.chan n).dies die = .active) (hdie : die < 16) :
    tget DieCode.absent ((s.failDie n die).chan n).dies die = .retired ∧ ((s.failDie n die).chan n).retDies.getLsbD die = true := by
  unfold State.failDie
  dsimp only
  rw [if_neg (by rw [hactive]; decide), (failed_chan s (n, some die) _ n .mediaDieFail (detail [(5, n), (4, die)])).1]
  constructor
  · show tget DieCode.absent (tset DieCode.absent (s.chan n).dies die .retired) die = .retired
    exact tget_tset_same ..
  · simp [hdie]

theorem failDie_count (s : State) (n die : Nat) : (s.failDie n die).hget 0x17 = s.hget 0x17 := by
  unfold State.failDie
  dsimp only
  split
  · rfl
  · exact (failed_chan s (n, some die) _ n .mediaDieFail (detail [(5, n), (4, die)])).2

theorem diesStand_checkChannel (s : State) (n : Nat) : s.DiesStand (s.checkChannel n) n := by
  have hfail : s.DiesStand (s.failChannel n) n := by
    have hqueued := queued_failChannel s n
    unfold State.failChannel at hqueued ⊢
    dsimp only at hqueued ⊢
    split at hqueued
    · next h =>
      rw [if_pos h]
      exact .refl s n
    · next h =>
      rw [if_neg h]
      obtain ⟨hchan, hcount⟩ := failed_chan s (n, none) { (s.chan n).go .failed with
        retired := true, retDies := (s.chan n).retDies ||| (s.chan n).dieMask
        queue := (s.chan n).queue.map fun e => if e.phase = .queued ∧ !e.isRead then e.end .channelFailed else e } n .mediaChannelFail (detail [(5, n)])
      refine ⟨hqueued, (congrArg Channel.dies hchan :), fun i hi => ?_, hcount⟩
      rw [hchan]
      simp [hi]
  unfold State.checkChannel
  dsimp only
  split
  · exact hfail
  · exact .refl s n

/-- A channel that quiesces keeps its dies and its queue (R161). -/
theorem diesStand_busCheck (s : State) (n : Nat) : s.DiesStand (s.busCheck n) n := by
  unfold State.busCheck
  split
  · have hk := keeps_assertError (L := { fault := true }) .mediaBusCheck (detail [(5, n)])
      (Keeps.refl _ (s.modChan n fun c => { c.go .quiesced with trainFails := 0 })) rfl
    have hchan : ((s.modChan n fun c => { c.go .quiesced with trainFails := 0 }).assertError .mediaBusCheck (detail [(5, n)])).chan n =
        { (s.chan n).go .quiesced with trainFails := 0 } := by
      rw [assertError_chan, chan_modChan_same]
    have hquiesced : s.Queued (s.modChan n fun c => { c.go .quiesced with trainFails := 0 }) :=
      .appended (n := n) (c := { (s.chan n).go .quiesced with trainFails := 0 }) [] (List.append_nil _).symm rfl
    refine ⟨hquiesced.trans (queued_assertError _ _ _), (congrArg Channel.dies hchan :), fun i hi => ?_, ?_⟩
    · rw [hchan]
      exact hi
    · unfold State.hget
      rw [hk.healthF rfl]
      rfl
  · exact .refl s n

end DieFailures

/-! ### A timeout (R191) -/

section Timeouts

variable {s : State} {n die : Nat} {slot : Nat} {e : QEntry}

/-- A timeout as it is recorded: the descriptor ends TIMEOUT, and the die's timeouts of the last hour and the count go up. -/
def State.timedOut (s : State) (n slot die : Nat) : State :=
  ((s.setStatus n slot (mstatusCode .timeout)).modChan n fun c =>
    { c with timeouts := (die, s.nowS) :: c.timeouts.filter fun x => decide (s.nowS ≤ x.2 + 3600) }).count32 0x17 1

/-- What follows of a timeout for its die (R191). -/
def State.dieTimedOut (s : State) (n slot die : Nat) (ready id : Bool) : State :=
  if !ready || !id || decide (3 ≤ (s.timedOut n slot die).recentTimeouts n die) then ((s.timedOut n slot die).failDie n die).checkChannel n
  else s.timedOut n slot die

theorem exec_dieTimeout {ch : BitVec 5} {slot : BitVec 8} {ready id second : Bool} (hup : s.mediaUp = true)
    (he : (s.chan ch.toNat).entry slot.toNat = some e) (hphase : e.phase = .started) (hst : e.status = none) :
    exec (.dieTimeout ch slot ready id second) s = .next (if second then
      (s.dieTimedOut ch.toNat slot.toNat e.d.die.toNat ready id).busCheck ch.toNat else s.dieTimedOut ch.toNat slot.toNat e.d.die.toNat ready id) := by
  show execDieTimeout ch slot ready id second s = _
  unfold execDieTimeout
  dsimp only
  rw [he]
  dsimp only
  rw [if_neg (by simp [hup, hphase, hst])]
  rfl

theorem timedOut_chan (s : State) (n slot die : Nat) : (s.timedOut n slot die).chan n =
    { (s.chan n).modEntry slot fun e => { e with status := some (mstatusCode .timeout) } with
      timeouts := (die, s.nowS) :: (s.chan n).timeouts.filter fun x => decide (s.nowS ≤ x.2 + 3600) } := by
  have hcount : ∀ (t : State) (w k m : Nat), (t.count32 w k).chan m = t.chan m := fun _ _ _ _ => rfl
  unfold State.timedOut State.setStatus
  rw [hcount, chan_modChan_same]
  rw [chan_modChan_same]
  rfl

/-- The timeout itself is one more within the hour. -/
theorem timedOut_recent (s : State) (n slot die : Nat) : (s.timedOut n slot die).recentTimeouts n die = s.recentTimeouts n die + 1 := by
  have hnow : (s.timedOut n slot die).nowS = s.nowS := hget_hset_ne _ (by decide)
  unfold State.recentTimeouts
  rw [hnow, timedOut_chan]
  dsimp only
  rw [List.filter_cons_of_pos (by simp), List.length_cons, List.filter_filter]
  congr 3
  funext x
  simp

/-- The descriptor keeps its end, the count its word, and the die stands but where it fails. -/
theorem dieTimedOut_ends (ready id : Bool) (he : (s.chan n).entry slot = some e) (hphase : e.phase = .started) (hdie : die < 16) :
    (∃ x, ((s.dieTimedOut n slot die ready id).chan n).entry slot = some x ∧ x.phase ≠ .queued ∧ x.status = some 0x14) ∧
    (s.dieTimedOut n slot die ready id).hget 0x17 = min (s.hget 0x17 + 1) 0xFFFFFFFF ∧
    (ready = false ∨ id = false ∨ 3 ≤ s.recentTimeouts n die + 1 → tget DieCode.absent (s.chan n).dies die = .active →
      tget DieCode.absent ((s.dieTimedOut n slot die ready id).chan n).dies die = .retired ∧
        ((s.dieTimedOut n slot die ready id).chan n).retDies.getLsbD die = true) ∧
    (ready = true → id = true → s.recentTimeouts n die + 1 < 3 → ((s.dieTimedOut n slot die ready id).chan n).dies = (s.chan n).dies) := by
  have hchan := timedOut_chan s n slot die
  have hentry : ((s.timedOut n slot die).chan n).entry slot = some { e with status := some (mstatusCode .timeout) } := by
    rw [hchan]
    exact entry_modEntry (f := fun e => { e with status := some (mstatusCode .timeout) }) (fun _ => rfl) he
  have hdies : ((s.timedOut n slot die).chan n).dies = (s.chan n).dies := by rw [hchan]; rfl
  have hcount : (s.timedOut n slot die).hget 0x17 = min (s.hget 0x17 + 1) 0xFFFFFFFF := hget_count32_same ..
  have hcond : (!ready || !id || decide (3 ≤ (s.timedOut n slot die).recentTimeouts n die)) = true ↔
      ready = false ∨ id = false ∨ 3 ≤ s.recentTimeouts n die + 1 := by
    rw [timedOut_recent]
    simp [or_assoc]
  generalize hv : s.timedOut n slot die = v at hentry hdies hcount hcond
  unfold State.dieTimedOut
  rw [hv]
  by_cases hfail : ready = false ∨ id = false ∨ 3 ≤ s.recentTimeouts n die + 1
  · rw [if_pos (hcond.mpr hfail)]
    obtain ⟨hqueued, hsame, hret, hword⟩ := diesStand_checkChannel (v.failDie n die) n
    obtain ⟨x, hx, hnot, hstatus⟩ := ((queued_failDie v n die).trans hqueued).started n slot _ hentry (by rw [hphase]; decide)
    refine ⟨⟨x, hx, hnot, hstatus⟩, hword.trans ((failDie_count v n die).trans hcount), fun _ hactive => ?_, fun hready hid hfew => ?_⟩
    · obtain ⟨hretired, hbit⟩ := failDie_retires (s := v) (hdies ▸ hactive) hdie
      exact ⟨hsame ▸ hretired, hret die hbit⟩
    · rcases hfail with h | h | h
      · exact absurd (hready.symm.trans h) (by decide)
      · exact absurd (hid.symm.trans h) (by decide)
      · omega
  · rw [if_neg fun h => hfail (hcond.mp h)]
    exact ⟨⟨_, hentry, by rw [hphase]; decide, rfl⟩, hcount, fun h => absurd h hfail, fun _ _ _ => hdies⟩

/-- What quiesces the channel besides leaves all of it. -/
theorem State.DiesStand.timeout {t u : State} (h : t.DiesStand u n) {k : Nat} {P Q : Prop}
    (hends : (∃ x, (t.chan n).entry slot = some x ∧ x.phase ≠ .queued ∧ x.status = some 0x14) ∧ t.hget 0x17 = k ∧
      (P → Q → tget DieCode.absent (t.chan n).dies die = .retired ∧ (t.chan n).retDies.getLsbD die = true)) :
    (∃ x, (u.chan n).entry slot = some x ∧ x.status = some 0x14) ∧ u.hget 0x17 = k ∧
      (P → Q → tget DieCode.absent (u.chan n).dies die = .retired ∧ (u.chan n).retDies.getLsbD die = true) := by
  obtain ⟨⟨x, hx, hnot, hst⟩, hword, hret⟩ := hends
  obtain ⟨y, hy, -, hst'⟩ := h.queued.started n slot x hx hnot
  refine ⟨⟨y, hy, hst'.trans hst⟩, h.count.trans hword, fun hP hQ => ?_⟩
  rw [h.dies]
  exact ⟨(hret hP hQ).1, h.retDies die (hret hP hQ).2⟩

end Timeouts
/-! ### A scrub visit (R184, R185) -/

section Scrubs

variable {s t u : State} {p : Profile} {n b wl : Nat} {r : ReadIn}

/-- A ladder limited to rung 0 has that rung alone (R165, R182). -/
theorem ladder_zero (p : Profile) : ladder p 0 = [0] := by
  have hrest : (List.range' 1 (min p.retry.length 16) ++ [17, 18]).filter (fun k => decide (k ≤ 0)) = [] :=
    List.filter_eq_nil_iff.mpr fun k hk => by
      simp only [List.mem_append, List.mem_range'_1, List.mem_cons, List.not_mem_nil, or_false] at hk
      simp only [decide_eq_true_eq]
      omega
  unfold ladder
  rw [List.filter_cons_of_pos (by decide), hrest]

/-- How a scrub read of a wordline ends, at rung 0 alone. -/
def State.scrubEnd (s : State) (p : Profile) (n b wl : Nat) (r : ReadIn) : ReadEnd :=
  climb r (decodesAt r []) (s.expectHeaders p n (unitDesc 0x01 s.planes (b % 16) (s.memberBlock b n) wl b (s.cu (s.band b).slc)
    (s.band b).slc false 6 s.media.tagNext)) [0]

theorem scrubRead_eq (s : State) (p : Profile) (n b wl : Nat) (r : ReadIn) : s.scrubRead p n b wl r =
    if s.wantsRefresh (s.scrubEnd p n b wl r).status (s.scrubEnd p n b wl r).corr then
      (s.countRead n (s.scrubEnd p n b wl r).status).listRefresh b n (s.scrubEnd p n b wl r).rung
    else s.countRead n (s.scrubEnd p n b wl r).status := by
  unfold State.scrubRead
  dsimp only
  rw [show ladder p (ladderTop 2) = [0] from ladder_zero p]
  rfl

/-- From s to t channels, refresh list and health log alone have changed, the powered time apart, and what the refresh list names it names
still. -/
structure State.Scrubbed (s t : State) : Prop where
  frame : ∃ chans refresh words, t = { s with
    media := { s.media with chans := chans, refresh := refresh }, health := { s.health with words := words } }
  now : t.nowS = s.nowS
  listed : ∀ b n, (∃ x ∈ s.media.refresh, x.band = b ∧ x.chan = n) → ∃ x ∈ t.media.refresh, x.band = b ∧ x.chan = n

theorem State.Scrubbed.trans (h : s.Scrubbed t) (k : t.Scrubbed u) : s.Scrubbed u := by
  obtain ⟨⟨_, _, _, rfl⟩, hn, hl⟩ := h
  obtain ⟨⟨c, f, w, rfl⟩, kn, kl⟩ := k
  exact ⟨⟨c, f, w, rfl⟩, kn.trans hn, fun b n h => kl b n (hl b n h)⟩

theorem scrubbed_count (s : State) (n k : Nat) (f : Channel → Channel) {w : Nat} (hw : 0x02 ≠ w) : s.Scrubbed ((s.modChan n f).count32 w k) :=
  ⟨⟨_, _, _, rfl⟩, hget_count32_ne k hw, fun _ _ h => h⟩

theorem scrubbed_countRead (s : State) (n : Nat) (st : MStatus) : s.Scrubbed (s.countRead n st) := by
  have hsame : s.Scrubbed s := ⟨⟨_, _, _, rfl⟩, rfl, fun _ _ h => h⟩
  unfold State.countRead
  cases st
  case okRetry | okSoft | okRebuilt | uncorrectable => exact scrubbed_count s n 1 _ (by decide)
  case misplaced => exact ⟨⟨_, _, _, rfl⟩, hget_count32_ne 1 (by decide), fun _ _ h => h⟩
  all_goals exact hsame

/-- A block that goes on the refresh list stands on it, and so does what stood there (R184). -/
theorem listRefresh_scrubbed (s : State) (b n rung : Nat) : s.Scrubbed (s.listRefresh b n rung) ∧
    ∃ x ∈ (s.listRefresh b n rung).media.refresh, x.band = b ∧ x.chan = n := by
  unfold State.listRefresh State.listMove State.onMedia
  dsimp only
  split
  · next h =>
    obtain ⟨x, hx, hmatch⟩ := List.any_eq_true.mp h
    simp only [Bool.and_eq_true, decide_eq_true_eq] at hmatch
    obtain ⟨⟨hb, hn⟩, -⟩ := hmatch
    have hlisted : ∀ (f : Refresh → Refresh), (∀ y, (f y).band = y.band ∧ (f y).chan = y.chan) → ∀ b n,
        (∃ x ∈ s.media.refresh, x.band = b ∧ x.chan = n) → ∃ x ∈ s.media.refresh.map f, x.band = b ∧ x.chan = n :=
      fun f hf b n ⟨x, hx, hb, hn⟩ => ⟨f x, List.mem_map_of_mem hx, (hf x).1.trans hb, (hf x).2.trans hn⟩
    have hmap := hlisted (fun x => if x.band = b && x.chan = n && x.row == none then
      { x with rung := max x.rung rung, urgent := x.urgent || decide (17 ≤ rung) } else x) fun y => by split <;> exact ⟨rfl, rfl⟩
    exact ⟨⟨⟨_, _, _, rfl⟩, rfl, hmap⟩, hmap b n ⟨x, hx, hb, hn⟩⟩
  · refine ⟨⟨⟨_, _, _, rfl⟩, rfl, fun b n ⟨x, hx, h⟩ => ⟨x, List.mem_append_left _ hx, h⟩⟩, ?_⟩
    exact ⟨_, List.mem_append_right _ List.mem_cons_self, rfl, rfl⟩

theorem scrubbed_scrubRead (s : State) (p : Profile) (n b wl : Nat) (r : ReadIn) : s.Scrubbed (s.scrubRead p n b wl r) := by
  rw [scrubRead_eq]
  split
  · exact (scrubbed_countRead s n _).trans (listRefresh_scrubbed _ b n _).1
  · exact scrubbed_countRead s n _

/-- A codeword corrected beyond the threshold puts the block on the list. -/
theorem scrubRead_lists (hok : (s.scrubEnd p n b wl r).status = .ok) (hcorr : 320 * s.clock.refreshPct / 100 < (s.scrubEnd p n b wl r).corr) :
    ∃ x ∈ (s.scrubRead p n b wl r).media.refresh, x.band = b ∧ x.chan = n := by
  rw [scrubRead_eq, hok, if_pos (show s.wantsRefresh .ok _ = true from decide_eq_true hcorr)]
  exact (listRefresh_scrubbed _ b n _).2

/-- One that is corrected within it changes nothing. -/
theorem scrubRead_fine (hok : (s.scrubEnd p n b wl r).status = .ok) (hcorr : (s.scrubEnd p n b wl r).corr ≤ 320 * s.clock.refreshPct / 100) :
    s.scrubRead p n b wl r = s := by
  rw [scrubRead_eq, hok, if_neg (show ¬ s.wantsRefresh .ok _ = true from fun h => Nat.not_lt.mpr hcorr (of_decide_eq_true h))]
  rfl

/-- One that does not decode is counted. -/
theorem scrubRead_lost (hlost : (s.scrubEnd p n b wl r).status = .uncorrectable) :
    s.scrubRead p n b wl r = (s.modChan n fun c => { c with eUncorr := min (c.eUncorr + 1) 15 }).count32 0x13 1 := by
  rw [scrubRead_eq, hlost]
  rfl

/-- A change of every channel shows at one that has been written, unless it leaves nothing of it. -/
theorem tget_tmap_tset {α : Type} [DecidableEq α] {d v : α} (m : Sparse α) (a : Nat) (f : Nat → α → α) (hv : v ≠ d) (hf : f a v ≠ d) :
    tget d (tmap d f (tset d m a v)) a = f a v := by
  have hgo : ∀ t : Sparse α, (∀ e ∈ t, e.1 = a → e.2 = v) → (a, v) ∈ t → tget d (tmap d f t) a = f a v := by
    intro t
    induction t with
    | nil => exact fun _ h => absurd h List.not_mem_nil
    | cons e t ih =>
      intro hall hin
      obtain ⟨k, x⟩ := e
      by_cases hk : k = a
      · obtain rfl : x = v := hall (k, x) List.mem_cons_self hk
        subst hk
        unfold tmap
        rw [if_neg hf]
        exact if_pos rfl
      · have hin' : (a, v) ∈ t := (List.mem_cons.mp hin).resolve_left fun h => hk (congrArg Prod.fst h).symm
        have hrest := ih (fun e he => hall e (List.mem_cons_of_mem _ he)) hin'
        unfold tmap
        split
        · exact hrest
        · exact (if_neg hk).trans hrest
  refine hgo _ (fun e he hkey => ?_) ?_
  · unfold tset at he
    rw [if_neg hv] at he
    rcases mem_tins _ _ _ _ he with rfl | he
    · rfl
    · exact absurd hkey (by simpa [tdel] using (List.mem_filter.mp he).2)
  · have hget := tget_tset_same d m a v
    exact (congrArg (fun x => (a, x)) hget) ▸ mem_of_tget_ne (hget.symm ▸ hv)

/-- What the end of a lap leaves of MEDIA (R185). -/
theorem endScrub_media (s : State) : s.endScrub.media = { s.media with
    scrubLap := (s.nowS - s.media.lapStart) / 3600, visited := [], lapStart := s.nowS
    chans := tmap Channel.none (fun _ c => { c with rung17 := [] }) s.media.chans } := by
  unfold State.endScrub
  dsimp only
  split
  · exact (keeps_raise .scrubSlow (Keeps.refl { link := true, host := true } _) rfl rfl).mediaF rfl
  · rfl

theorem hget_endScrub_ne {k : Nat} (hk : k ≠ 0x47) : s.endScrub.hget k = s.hget k := by
  unfold State.endScrub
  dsimp only
  split
  · unfold State.hget
    rw [(keeps_raise .scrubSlow (Keeps.refl { link := true, host := true } _) rfl rfl).healthF rfl]
    exact hget_hset_ne (s := s) _ hk
  · exact hget_hset_ne (s := s) _ hk

/-- Where a unit lies rests on PLACE and the profile (R205). -/
theorem findUnit_congr (hplace : t.place = s.place) (bands : List Nat) (k row v : Nat) : t.findUnit bands k row v = s.findUnit bands k row v := by
  have hrows : t.rowUnits bands = s.rowUnits bands := by
    unfold State.rowUnits State.band
    rw [hplace]
  induction k generalizing row v with
  | zero => rfl
  | succ k ih =>
    unfold State.findUnit
    rw [hrows]
    dsimp only
    split
    · rfl
    · exact ih _ _

theorem unitAt_congr (hplace : t.place = s.place) (hprofile : t.media.profile = s.media.profile) : t.unitAt = s.unitAt := by
  funext l
  unfold State.unitAt State.wordlines State.cu State.groupBands State.band
  rw [hplace, hprofile]
  dsimp only
  rw [findUnit_congr hplace]

/-- Neither channels nor lists of MEDIA say which blocks hold valid data (R185). -/
theorem scrubBlocks_congr (m : MediaState) (h : HealthState) (hprofile : m.profile = s.media.profile) :
    State.scrubBlocks { s with media := m, health := h } = s.scrubBlocks := by
  unfold State.scrubBlocks
  rw [unitAt_congr (s := s) (t := { s with media := m, health := h }) rfl hprofile]
  rfl

/-- The key of the block that a visit reads, and the wordline that rotates. -/
def State.scrubKey (s : State) (n b : Nat) : Nat := wearKey n (b % 16) (s.memberBlock b n)

def State.scrubLine (s : State) (p : Profile) (n b : Nat) : Nat := tget 0 s.media.rotate (s.scrubKey n b) % max 1 p.wordlines

/-- Both reads of a visit. -/
def State.scrubReads (s : State) (p : Profile) (n b : Nat) (last further : ReadIn) : State :=
  (s.scrubRead p n b (s.lastWordline b n) last).scrubRead p n b (s.scrubLine p n b) further

/-- The block is visited, and its next wordline is noted. -/
def State.scrubbedBlock (s : State) (n b key wl lines : Nat) : State :=
  s.onMedia fun m => { m with
    rotate := tset 0 m.rotate key ((wl + 1) % lines), visited := (b, n) :: m.visited.filter fun v => v ≠ (b, n) }

/-- The lap ends once every block has been visited. -/
def State.lapped (s : State) (u : State) : State := if s.scrubBlocks.all u.media.visited.contains then u.endScrub else u

theorem scrubbed_scrubReads (s : State) (p : Profile) (n b : Nat) (last further : ReadIn) : s.Scrubbed (s.scrubReads p n b last further) :=
  (scrubbed_scrubRead s p n b (s.lastWordline b n) last).trans (scrubbed_scrubRead _ p n b (s.scrubLine p n b) further)

/-- A choice between two next states is the next state chosen. -/
theorem next_ite (c : Prop) [Decidable c] (t u : State) :
    (Host.Outcome.next (if c then t else u) : Host.Outcome State Fault Refusal) = if c then .next t else .next u := by
  split <;> rfl

theorem exec_scrubVisit {ch : BitVec 5} {band : BitVec 24} {last further : ReadIn} (hp : s.media.profile = some p)
    (hup : s.mediaUp = true) (hfw : s.clock.fwUp = true) (hsnuff : s.snuff.trigger = none) (hissue : s.mayIssue 5 false = true)
    (hblock : (band.toNat, ch.toNat) ∈ s.scrubBlocks) (hst : (s.chan ch.toNat).st = .active)
    (huse : s.canUse 0x01 6 [(0, band.toNat, ch.toNat)] = true) : exec (.scrubVisit ch band last further) s =
      .next (s.lapped ((s.scrubReads p ch.toNat band.toNat last further).scrubbedBlock ch.toNat band.toNat (s.scrubKey ch.toNat band.toNat)
        (s.scrubLine p ch.toNat band.toNat) (max 1 p.wordlines))) := by
  have hblocks : ((s.scrubReads p ch.toNat band.toNat last further).scrubbedBlock ch.toNat band.toNat (s.scrubKey ch.toNat band.toNat)
      (s.scrubLine p ch.toNat band.toNat) (max 1 p.wordlines)).scrubBlocks = s.scrubBlocks := by
    obtain ⟨c, f, w, hframe⟩ := (scrubbed_scrubReads s p ch.toNat band.toNat last further).frame
    rw [hframe]
    exact scrubBlocks_congr (s := s) (State.scrubbedBlock { s with
      media := { s.media with chans := c, refresh := f }, health := { s.health with words := w } } ch.toNat band.toNat
      (s.scrubKey ch.toNat band.toNat) (s.scrubLine p ch.toNat band.toNat) (max 1 p.wordlines)).media { s.health with words := w } rfl
  show execScrubVisit ch band last further s = _
  unfold execScrubVisit
  dsimp only
  rw [hp]
  dsimp only
  have hgo : (s.mediaUp && s.clock.fwUp && s.snuff.trigger.isNone && s.mayIssue 5 false && s.scrubBlocks.contains (band.toNat, ch.toNat) &&
      (s.chan ch.toNat).st = .active && s.canUse 0x01 6 [(0, band.toNat, ch.toNat)]) = true := by
    rw [huse]
    simp [hup, hfw, hsnuff, hissue, hblock, hst]
  rw [if_neg (by rw [hgo]; decide)]
  unfold State.lapped
  rw [← hblocks]
  exact (next_ite ..).symm

/-- The second read of a visit ends as it would have ended first. -/
theorem State.Scrubbed.scrubEnd (h : s.Scrubbed t) (p : Profile) (n b wl : Nat) (r : ReadIn) : t.scrubEnd p n b wl r = s.scrubEnd p n b wl r := by
  obtain ⟨c, f, w, rfl⟩ := h.frame
  rfl

theorem State.Scrubbed.limit (h : s.Scrubbed t) : t.clock = s.clock := by
  obtain ⟨c, f, w, rfl⟩ := h.frame
  rfl

/-- A codeword beyond the threshold in either read lists the block. -/
theorem scrubReads_lists {last further : ReadIn}
    (h : ((s.scrubEnd p n b (s.lastWordline b n) last).status = .ok ∧
        320 * s.clock.refreshPct / 100 < (s.scrubEnd p n b (s.lastWordline b n) last).corr) ∨
      ((s.scrubEnd p n b (s.scrubLine p n b) further).status = .ok ∧
        320 * s.clock.refreshPct / 100 < (s.scrubEnd p n b (s.scrubLine p n b) further).corr)) :
    ∃ x ∈ (s.scrubReads p n b last further).media.refresh, x.band = b ∧ x.chan = n := by
  have hfirst := scrubbed_scrubRead s p n b (s.lastWordline b n) last
  rcases h with ⟨hok, hcorr⟩ | ⟨hok, hcorr⟩
  · exact (scrubbed_scrubRead _ p n b (s.scrubLine p n b) further).listed b n (scrubRead_lists hok hcorr)
  · rw [← hfirst.scrubEnd] at hok hcorr
    rw [← hfirst.limit] at hcorr
    exact scrubRead_lists hok hcorr

/-- A last wordline that does not decode is counted, and with the other one fine nothing else happens. -/
theorem scrubReads_lost {last further : ReadIn} (hlost : (s.scrubEnd p n b (s.lastWordline b n) last).status = .uncorrectable)
    (hok : (s.scrubEnd p n b (s.scrubLine p n b) further).status = .ok)
    (hcorr : (s.scrubEnd p n b (s.scrubLine p n b) further).corr ≤ 320 * s.clock.refreshPct / 100) :
    s.scrubReads p n b last further = (s.modChan n fun c => { c with eUncorr := min (c.eUncorr + 1) 15 }).count32 0x13 1 := by
  have hfirst := scrubbed_scrubRead s p n b (s.lastWordline b n) last
  rw [← hfirst.scrubEnd] at hok hcorr
  rw [← hfirst.limit] at hcorr
  unfold State.scrubReads
  rw [scrubRead_fine hok hcorr, scrubRead_lost hlost]

/-- The end of a lap leaves what a visit has counted and listed. -/
theorem lapped_counted (hall : t.media.chans = tset Channel.none s.media.chans n { s.chan n with eUncorr := min ((s.chan n).eUncorr + 1) 15 }) :
    ((s.lapped t).chan n).eUncorr = min ((s.chan n).eUncorr + 1) 15 := by
  have hpos : min ((s.chan n).eUncorr + 1) 15 ≠ 0 := by omega
  have hne : ∀ c : Channel, c.eUncorr = min ((s.chan n).eUncorr + 1) 15 → c ≠ Channel.none := fun c hc h => by
    rw [h] at hc
    exact hpos hc.symm
  unfold State.lapped State.chan
  split
  · rw [endScrub_media]
    dsimp only
    rw [hall, tget_tmap_tset _ _ _ (hne _ rfl) (hne _ rfl)]
    rfl
  · rw [hall, tget_tset_same]
    rfl

theorem lapped_media (s t : State) : (s.lapped t).media.refresh = t.media.refresh ∧ (s.lapped t).media.rotate = t.media.rotate := by
  unfold State.lapped
  split
  · rw [endScrub_media]
    exact ⟨rfl, rfl⟩
  · exact ⟨rfl, rfl⟩

theorem hget_lapped_ne {k : Nat} (hk : k ≠ 0x47) : (s.lapped t).hget k = t.hget k := by
  unfold State.lapped
  split
  · exact hget_endScrub_ne hk
  · rfl

end Scrubs

/-- Settles O35: a timeout and what follows for its die by what they leave of the channel; a visit by the ends of its two reads. -/
theorem timeoutsAndScrub : Obligations.TimeoutsAndScrub := by
  unfold Obligations.TimeoutsAndScrub
  intro s ch slot hup n
  refine ⟨fun e ready id second he hphase hst => ?_, fun band last further p hfw hsnuff hissue hp hblock hactive huse => ?_⟩
  · obtain ⟨hends, hcount, hretired, hdies⟩ := dieTimedOut_ends (s := s) ready id he hphase e.d.die.isLt
    have hrest : (s.dieTimedOut n slot.toNat e.d.die.toNat ready id).DiesStand (if second then
        (s.dieTimedOut n slot.toNat e.d.die.toNat ready id).busCheck n else s.dieTimedOut n slot.toNat e.d.die.toNat ready id) n := by
      split
      · exact diesStand_busCheck _ n
      · exact .refl _ n
    obtain ⟨hend, hword, hret⟩ := hrest.timeout ⟨hends, hcount, hretired⟩
    exact ⟨_, exec_dieTimeout hup he hphase hst, hend, hword, hret, fun hready hid hfew => hrest.dies.trans (hdies hready hid hfew)⟩
  · obtain ⟨⟨c, f, w, hframe⟩, hnow, -⟩ := scrubbed_scrubReads s p n band.toNat last further
    refine ⟨_, exec_scrubVisit hp hup hfw hsnuff hissue hblock hactive huse, ?_, ?_, ?_, ?_, ?_⟩
    · intro h
      rw [(lapped_media ..).1]
      exact scrubReads_lists h
    · intro hlost hok hcorr
      have hread := scrubReads_lost hlost hok hcorr
      refine ⟨lapped_counted ?_, (hget_lapped_ne (by decide)).trans ?_, (lapped_media ..).1.trans ?_⟩
      all_goals rw [hread]
      · rfl
      · exact hget_count32_same (s.modChan n _) 0x13 1
      · rfl
    · rw [(lapped_media ..).2]
      exact tget_tset_same ..
    · rintro ⟨x, hx, hne, hnew⟩
      have hopen : ¬ s.scrubBlocks.all ((s.scrubReads p n band.toNat last further).scrubbedBlock n band.toNat (s.scrubKey n band.toNat)
          (s.scrubLine p n band.toNat) (max 1 p.wordlines)).media.visited.contains = true := fun hall => by
        have hmem := List.contains_iff_mem.mp (List.all_eq_true.mp hall x hx)
        rw [hframe] at hmem
        exact (List.mem_cons.mp hmem).elim hne fun h => hnew (List.mem_filter.mp h).1
      unfold State.lapped
      rw [if_neg hopen, hframe]
      exact ⟨List.mem_cons_self, rfl⟩
    · intro hall
      have hdone : s.scrubBlocks.all ((s.scrubReads p n band.toNat last further).scrubbedBlock n band.toNat (s.scrubKey n band.toNat)
          (s.scrubLine p n band.toNat) (max 1 p.wordlines)).media.visited.contains = true := by
        rw [hframe]
        refine List.all_eq_true.mpr fun x hx => List.contains_iff_mem.mpr (List.mem_cons.mpr ?_)
        by_cases hx' : x = (band.toNat, n)
        · exact .inl hx'
        · exact .inr (List.mem_filter.mpr ⟨(hall x hx).resolve_left hx', decide_eq_true hx'⟩)
      unfold State.lapped
      rw [if_pos hdone, endScrub_media]
      refine ⟨rfl, ?_⟩
      show ((s.scrubReads p n band.toNat last further).nowS - (s.scrubReads p n band.toNat last further).media.lapStart) / 3600 = _
      rw [hnow, hframe]

end Sys2Proof.Machine

/-! # The ends of media actions (R163, R169 to R187, R190 to R192) -/

namespace Sys2Proof.Machine
open Sys2Proof

/-! ### The rungs of a ladder (R180 to R183) -/

section Ladders

variable {p : Profile} {r : ReadIn} {decodes : Nat → Bool} {want : List (Option (List Byte))} {rungs : List Nat} {k : Nat}

/-- A ladder climbs (R182). -/
theorem ladder_ascends (p : Profile) (top : Nat) : (ladder p top).Pairwise (· < ·) := by
  refine List.Pairwise.filter _ (List.pairwise_cons.mpr ⟨fun k hk => ?_, List.pairwise_append.mpr
    ⟨List.pairwise_lt_range', by decide, fun a ha b hb => ?_⟩⟩)
  · simp only [List.mem_append, List.mem_range'_1, List.mem_cons, List.not_mem_nil, or_false] at hk
    omega
  · simp only [List.mem_range'_1, List.mem_cons, List.not_mem_nil, or_false] at ha hb
    omega

/-- It begins at rung 0. -/
theorem ladder_head (p : Profile) (top : Nat) : ∃ rest, ladder p top = 0 :: rest := ⟨_, List.filter_cons_of_pos (by simp)⟩

/-- Every codeword decodes at a rung with the header of its place. -/
def fits (r : ReadIn) (decodes : Nat → Bool) (want : List (Option (List Byte))) (k : Nat) : Prop :=
  decodes k = true ∧ (rungAt r k).headers.map (fun h => some (headerKey h)) = want

theorem fits_iff : (decodes k && decide ((rungAt r k).headers.map (fun h => some (headerKey h)) = want)) = true ↔ fits r decodes want k := by
  simp [fits]

theorem not_erased (hones : r.ones = false ∨ 0 ∉ rungs) : ¬ (rungs.head? = some 0 ∧ r.ones = true) := fun h =>
  hones.elim (fun hfalse => Bool.false_ne_true (hfalse.symm.trans h.2)) fun hzero => hzero (List.mem_of_mem_head? h.1)

/-- A climb stops at the first rung that fits. -/
theorem climb_stops (hones : r.ones = false ∨ 0 ∉ rungs) (hasc : rungs.Pairwise (· < ·)) (hk : k ∈ rungs)
    (hfits : fits r decodes want k) (hfirst : ∀ j ∈ rungs, j < k → ¬ fits r decodes want j) :
    (climb r decodes want rungs).status = rungStatus k := by
  have hfind : (rungs.find? fun k => decodes k && decide ((rungAt r k).headers.map (fun h => some (headerKey h)) = want)) = some k := by
    obtain ⟨as, bs, hsplit⟩ := List.append_of_mem hk
    refine List.find?_eq_some_iff_append.mpr ⟨fits_iff.mpr hfits, as, bs, hsplit, fun j hj => ?_⟩
    rw [hsplit] at hasc hfirst
    have hlt : j < k := (List.pairwise_append.mp hasc).2.2 j hj k List.mem_cons_self
    rw [Bool.not_eq_true', Bool.eq_false_iff]
    exact fun h => hfirst j (List.mem_append_left _ hj) hlt (fits_iff.mp h)
  unfold climb
  rw [if_neg (not_erased hones), hfind]

/-- With no rung that fits, a mismatch at every rung ends it MISPLACED, and a rung that has not decoded UNCORRECTABLE. -/
theorem climb_fails (hones : r.ones = false ∨ 0 ∉ rungs) (hnone : ∀ k ∈ rungs, ¬ fits r decodes want k) :
    (climb r decodes want rungs).status = if rungs.all decodes then .misplaced else .uncorrectable := by
  have hfind : (rungs.find? fun k => decodes k && decide ((rungAt r k).headers.map (fun h => some (headerKey h)) = want)) = none :=
    List.find?_eq_none.mpr fun j hj h => hnone j hj (fits_iff.mp h)
  unfold climb
  rw [if_neg (not_erased hones), hfind]
  dsimp only
  split <;> rfl

/-- Ones at rung 0 end it ERASED. -/
theorem climb_ones (hhead : rungs.head? = some 0) (hones : r.ones = true) : (climb r decodes want rungs).status = .erased := by
  unfold climb
  rw [if_pos ⟨hhead, hones⟩]

end Ladders

/-! ### What the end of a read leaves at its slot (R168, R169, R190) -/

section ReadEnds

variable {s : State} {p : Profile} {n slot : Nat} {e : QEntry} {r : ReadIn}

theorem queued_countRead (s : State) (n : Nat) (st : MStatus) : s.Queued (s.countRead n st) := by
  have hcount : ∀ (c : Channel) (w : Nat), c.queue = (s.chan n).queue → c.blocks = (s.chan n).blocks →
      s.Queued ((s.setChan n c).count32 w 1) := fun c w hqueue hblocks =>
    (State.Queued.appended (n := n) [] (by rw [hqueue, List.append_nil]) hblocks).trans (.of_eq rfl rfl rfl)
  unfold State.countRead
  cases st
  case okRetry => exact hcount { s.chan n with eRetry := min ((s.chan n).eRetry + 1) 255 } _ rfl rfl
  case okSoft => exact hcount { s.chan n with eSoft := min ((s.chan n).eSoft + 1) 63 } _ rfl rfl
  case okRebuilt => exact hcount { s.chan n with eRebuilt := min ((s.chan n).eRebuilt + 1) 63 } _ rfl rfl
  case uncorrectable => exact hcount { s.chan n with eUncorr := min ((s.chan n).eUncorr + 1) 15 } _ rfl rfl
  case misplaced => exact .of_eq rfl rfl rfl
  all_goals exact .refl s

theorem queued_noteRung (s : State) (n : Nat) (d : MDesc) (rung : Nat) : s.Queued (s.noteRung n d rung) := by
  have hrecord : s.Queued (s.recordRung n d.die.toNat d.block.toNat d.wl.toNat rung) := by
    refine .appended (n := n) [] ?_ ?_
    · rw [List.append_nil]
      dsimp only
      (repeat' split) <;> rfl
    · dsimp only
      (repeat' split) <;> rfl
  unfold State.noteRung
  dsimp only
  have htwice : s.Queued (if (decide (17 ≤ rung) && (s.chan n).rung17Twice d.die.toNat d.block.toNat d.wl.toNat) = true then
      (s.recordRung n d.die.toNat d.block.toNat d.wl.toNat rung).blockFailed n d false
    else s.recordRung n d.die.toNat d.block.toNat d.wl.toNat rung) := by
    split
    · exact hrecord.trans (queued_blockFailed _ n d false).1
    · exact hrecord
  generalize (if (decide (17 ≤ rung) && (s.chan n).rung17Twice d.die.toNat d.block.toNat d.wl.toNat) = true then
      (s.recordRung n d.die.toNat d.block.toNat d.wl.toNat rung).blockFailed n d false
    else s.recordRung n d.die.toNat d.block.toNat d.wl.toNat rung) = t at htwice ⊢
  split
  · exact htwice.trans ((queued_failDie t n d.die.toNat).trans (queued_checkChannel _ n))
  · exact htwice

theorem queued_stripeLost (s : State) (band row : Nat) : s.Queued (s.stripeLost band row) := by
  unfold State.stripeLost
  split
  · exact .refl s
  · have hcounted : s.Queued ((s.onMedia fun m => { m with stripes := m.stripes ++ [(band, row)] }).count32 0x18 1) := .of_eq rfl rfl rfl
    exact hcounted.trans (queued_assertError _ _ _)

theorem queued_healthCheck (s : State) : s.Queued s.healthCheck :=
  have hk := keeps_healthCheck (Keeps.refl { link := true, host := true, health := true } s) rfl rfl rfl
  .of_eq (congrArg MediaState.chans (hk.mediaF rfl)) (hk.faultF rfl) (hk.clockF rfl)

/-- The read has the status of its climb, whatever follows for block, die and stripe. -/
theorem endRead_status (he : (s.chan n).entry slot = some e) (hphase : e.phase = .started) :
    ∃ x, (((s.endRead p n slot e r).healthCheck).chan n).entry slot = some x ∧ x.status = some (mstatusCode (s.readEnd p n e r).status) := by
  unfold State.endRead
  extract_lets x only band s1 s2 s3
  let s0 := s.modChan n fun c => c.modEntry slot fun y =>
    { y with status := some (mstatusCode x.status), rung := x.rung, corr := x.corr, soft := if 17 ≤ x.rung then softStep r else y.soft }
  have hentry : (s0.chan n).entry slot = some { e with
      status := some (mstatusCode x.status), rung := x.rung, corr := x.corr, soft := if 17 ≤ x.rung then softStep r else e.soft } := by
    rw [chan_modChan_same]
    exact entry_modEntry (f := fun y => { y with
      status := some (mstatusCode x.status), rung := x.rung, corr := x.corr, soft := if 17 ≤ x.rung then softStep r else y.soft }) (fun _ => rfl) he
  have h1 : s0.Queued s1 := queued_countRead s0 n x.status
  have h2 : s1.Queued s2 := by
    show s1.Queued (if _ then _ else _)
    split
    · exact queued_listMove ..
    · exact .refl s1
  have h3 : s2.Queued s3 := by
    show s2.Queued (if _ then _ else _)
    split
    · exact .refl s2
    · exact queued_noteRung ..
  have h4 : s3.Queued (if x.status = .uncorrectable ∧ x.rung = 18 then s3.stripeLost band e.d.wl.toNat else s3) := by
    split
    · exact queued_stripeLost ..
    · exact .refl s3
  obtain ⟨y, hy, -, hstatus⟩ := ((((h1.trans h2).trans h3).trans h4).trans (queued_healthCheck _)).started n slot _ hentry
    (by rw [hphase]; decide)
  exact ⟨y, hy, hstatus⟩

end ReadEnds

/-! ### MEDIA_READ (R163, R170, R182, R186) -/

section Reads

variable {s : State} {p : Profile} {n : Nat} {ch : BitVec 5} {slot : BitVec 8} {e : QEntry} {r : ReadIn} {op : MOp} {rungs : List Nat} {k : Nat}

/-- The hypotheses that an action's statement makes of its descriptor. -/
structure State.RunsAt (s : State) (n slot : Nat) (op : MOp) (e : QEntry) : Prop where
  up : s.mediaUp = true
  entry : (s.chan n).entry slot = some e
  phase : e.phase = .started
  status : e.status = none
  held : e.held = false
  op : mopOf e.d.op = some op

theorem State.RunsAt.startedOp {slot : Nat} (h : s.RunsAt n slot op e) : s.startedOp n slot op = some e := by
  unfold State.startedOp
  rw [h.entry]
  exact if_pos (by simp [h.up, h.phase, h.status, h.op])

theorem State.RunsAt.runningOp {slot : Nat} (h : s.RunsAt n slot op e) : s.runningOp n slot op = some e := by
  unfold State.runningOp
  rw [h.startedOp]
  simp [h.held]

/-- A read that a flush does not end: it climbs to rung 18, waits for its tokens, or ends. -/
theorem exec_mediaRead (h : s.RunsAt ch.toNat slot.toNat .read e) (hflush : s.snuff.trigger = none ∨ e.d.submitter = 11)
    (hp : s.media.profile = some p) : exec (.mediaRead ch slot r) s =
      if s.mustClimb p ch.toNat e r then
        if s.affords (tset Channel.none s.media.chans ch.toNat (s.climbed ch.toNat slot.toNat e)) then
          .next (s.setChan ch.toNat (s.climbed ch.toNat slot.toNat e)) else .next s
      else .next (s.endRead p ch.toNat slot.toNat e r).healthCheck := by
  have hgo : ¬ (s.snuff.trigger.isSome && !snuffDesc e.d) = true := by
    rcases hflush with h | h <;> simp [h, snuffDesc]
  show execMediaRead ch slot r s = _
  unfold execMediaRead
  rw [h.runningOp]
  dsimp only
  rw [if_neg hgo, hp]

/-- At a rung every codeword decodes: for rung 18 the row's other units decode and none of them is gone (R182, R183, R194). -/
def State.rungDecodes (s : State) (n : Nat) (e : QEntry) (r : ReadIn) (k : Nat) : Bool :=
  decodesAt r (s.mates e.d.band.toNat e.d.wl.toNat n) k && !(k == 18 && s.matesGone e.d.band.toNat e.d.wl.toNat n)

theorem readOver_eq (rungs : List Nat) : s.readOver p n e r rungs = climb r (s.rungDecodes n e r) (s.expectHeaders p n e.d) rungs := rfl

theorem rungDecodes_iff : s.rungDecodes n e r k = true ↔ decodesAt r (s.mates e.d.band.toNat e.d.wl.toNat n) k = true ∧
    (k = 18 → s.matesGone e.d.band.toNat e.d.wl.toNat n = false) := by
  unfold State.rungDecodes
  by_cases hk : k = 18 <;> simp [hk]

/-- A rung fits the read. -/
def State.rungFits (s : State) (p : Profile) (n : Nat) (e : QEntry) (r : ReadIn) (k : Nat) : Prop :=
  fits r (s.rungDecodes n e r) (s.expectHeaders p n e.d) k

/-- Where a rung below 18 is the first that fits, or rung 18 has been reached, the read ends there. -/
theorem readEnd_stops (hones : r.ones = false ∨ 0 ∉ rungs) (hrungs : s.rungsOf p n e = rungs) (hasc : rungs.Pairwise (· < ·))
    (hk : k ∈ rungs) (h18 : k = 18 → e.climbed = true) (hfits : s.rungFits p n e r k) (hfirst : ∀ j ∈ rungs, j < k → ¬ s.rungFits p n e r j) :
    s.mustClimb p n e r = false ∧ (s.readEnd p n e r).status = rungStatus k := by
  constructor
  · unfold State.mustClimb
    dsimp only
    rw [hrungs, readOver_eq]
    by_cases hk18 : k = 18
    · rw [h18 hk18]
      rfl
    · have hend : (climb r (s.rungDecodes n e r) (s.expectHeaders p n e.d) (rungs.filter fun k => k ≠ 18)).status = rungStatus k := by
        refine climb_stops (hones.imp_right fun hzero h => hzero (List.mem_filter.mp h).1) (hasc.filter _)
          (List.mem_filter.mpr ⟨hk, decide_eq_true hk18⟩) hfits fun j hj => hfirst j (List.mem_filter.mp hj).1
      rw [hend]
      have hgood : goodRead (rungStatus k) = true := by
        unfold rungStatus
        (repeat' split) <;> rfl
      rw [hgood]
      simp
  · unfold State.readEnd
    rw [hrungs]
    exact climb_stops hones hasc hk hfits hfirst

/-- Where no rung fits, the read fails: MISPLACED where every rung decodes. -/
theorem readEnd_fails (hones : r.ones = false ∨ 0 ∉ rungs) (hrungs : s.rungsOf p n e = rungs) (hnone : ∀ k ∈ rungs, ¬ s.rungFits p n e r k) :
    (s.readEnd p n e r).status = if rungs.all (s.rungDecodes n e r) then .misplaced else .uncorrectable := by
  unfold State.readEnd
  rw [hrungs]
  exact climb_fails hones hnone

/-- A read that no rung below 18 has ended must climb there (R182). -/
theorem mustClimb_of_none (hones : r.ones = false) (hrungs : s.rungsOf p n e = rungs) (hclimbed : e.climbed = false) (h18 : 18 ∈ rungs)
    (hnone : ∀ k ∈ rungs, k ≠ 18 → ¬ s.rungFits p n e r k) : s.mustClimb p n e r = true := by
  have hend := climb_fails (r := r) (decodes := s.rungDecodes n e r) (want := s.expectHeaders p n e.d) (rungs := rungs.filter fun k => k ≠ 18)
    (.inl hones) fun k hk => hnone k (List.mem_filter.mp hk).1 (of_decide_eq_true (List.mem_filter.mp hk).2)
  unfold State.mustClimb
  dsimp only
  rw [hrungs, readOver_eq, hend]
  (repeat' split) <;> simp [hclimbed, h18, goodRead]

theorem mustClimb_of_climbed (h : e.climbed = true ∨ 18 ∉ s.rungsOf p n e) : s.mustClimb p n e r = false := by
  unfold State.mustClimb
  rcases h with h | h <;> simp [h]

/-- A read that need not climb ends with the status of its climb. -/
theorem exec_mediaRead_ends (h : s.RunsAt ch.toNat slot.toNat .read e) (hflush : s.snuff.trigger = none ∨ e.d.submitter = 11)
    (hp : s.media.profile = some p) (hstay : s.mustClimb p ch.toNat e r = false) : ∃ t, exec (.mediaRead ch slot r) s = .next t ∧
      ∃ x, (t.chan ch.toNat).entry slot.toNat = some x ∧ x.status = some (mstatusCode (s.readEnd p ch.toNat e r).status) := by
  refine ⟨_, (exec_mediaRead h hflush hp).trans (if_neg (ne_true_of_eq_false hstay)), endRead_status h.entry h.phase⟩

theorem climbed_entry {slot : Nat} (he : (s.chan n).entry slot = some e) : ((s.setChan n (s.climbed n slot e)).chan n).entry slot =
    some { e with climbed := true, fan := s.mates e.d.band.toNat e.d.wl.toNat n } := by
  have hchan : (s.setChan n (s.climbed n slot e)).chan n = s.climbed n slot e := tget_tset_same ..
  rw [hchan]
  exact entry_modEntry (f := fun y => { y with climbed := true, fan := s.mates e.d.band.toNat e.d.wl.toNat n }) (fun _ => rfl) he

theorem rungFits_iff : s.rungFits p n e r k ↔ (decodesAt r (s.mates e.d.band.toNat e.d.wl.toNat n) k = true ∧
    (k = 18 → s.matesGone e.d.band.toNat e.d.wl.toNat n = false)) ∧
      (rungAt r k).headers.map (fun h => some (headerKey h)) = s.expectHeaders p n e.d := and_congr rungDecodes_iff Iff.rfl

/-- The rungs of a read that its own die answers. -/
theorem rungsOf_ladder (h : (s.chan n).rebuilds e = false) : s.rungsOf p n e = ladder p (ladderTop e.d.ladder) := by
  unfold State.rungsOf
  rw [h]
  rfl

/-- A read that its die does not answer takes rung 18 alone. -/
theorem rungsOf_rebuild (h : (s.chan n).rebuilds e = true) : s.rungsOf p n e = [18] := by
  unfold State.rungsOf
  rw [h]
  rfl

/-- Ones at rung 0 end the read of a die ERASED. -/
theorem readEnd_ones (hrungs : (s.chan n).rebuilds e = false) (hones : r.ones = true) :
    s.mustClimb p n e r = false ∧ (s.readEnd p n e r).status = .erased := by
  obtain ⟨rest, hhead⟩ := ladder_head p (ladderTop e.d.ladder)
  constructor
  · unfold State.mustClimb
    dsimp only
    rw [rungsOf_ladder hrungs, readOver_eq, climb_ones (by rw [hhead]; rfl) hones]
    simp
  · unfold State.readEnd
    rw [rungsOf_ladder hrungs]
    exact climb_ones (by rw [hhead]; rfl) hones

theorem mstatusCode_rungStatus (k : Nat) : mstatusCode (rungStatus k) =
    if k = 0 then 0x00 else if k ≤ 16 then 0x01 else if k = 17 then 0x02 else 0x03 := by
  unfold rungStatus
  (repeat' split) <;> rfl

/-- A flush discards a started read (R170). -/
theorem exec_mediaRead_aborts (h : s.RunsAt ch.toNat slot.toNat .read e) (hflush : s.snuff.trigger ≠ none) (hsub : e.d.submitter ≠ 11) :
    exec (.mediaRead ch slot r) s = .next (s.setStatus ch.toNat slot.toNat (mstatusCode .aborted)) := by
  have hother : snuffDesc e.d = false := beq_false_of_ne hsub
  have hgo : (s.snuff.trigger.isSome && !snuffDesc e.d) = true := by rw [hother, Option.isSome_iff_ne_none.mpr hflush]; rfl
  show execMediaRead ch slot r s = _
  unfold execMediaRead
  rw [h.runningOp]
  dsimp only
  rw [if_pos hgo]

end Reads

/-! ### Programs, erases and the other actions (R160, R166, R170, R174, R187, R191) -/

section Actions

variable {s : State} {n slot : Nat} {e : QEntry}

/-- The action ends with its status at its slot. -/
theorem setStatus_entry (st : Byte) (he : (s.chan n).entry slot = some e) :
    ((s.setStatus n slot st).chan n).entry slot = some { e with status := some st } := by
  unfold State.setStatus
  rw [chan_modChan_same]
  exact entry_modEntry (f := fun e => { e with status := some st }) (fun _ => rfl) he

/-- With every member erased, the check of a band's first wordlines leaves its mark alone (R174). -/
theorem checkBand_nil (s : State) (b : Nat) : s.checkBand b [] = s.modBand b fun x => { x with checked := true } := by
  have hnone : (s.band b).members.filter (fun m => ([] : List Nat).contains m.1) = [] := List.filter_eq_nil_iff.mpr fun _ _ => by simp
  unfold State.checkBand
  dsimp only
  rw [hnone]
  rfl

/-- The band's state before a program's confirm: its first wordlines have been checked. -/
def State.checkedFor (s : State) (b : Nat) : State := if (s.band b).checked then s else s.checkBand b []

theorem checkedFor_band (s : State) (b : Nat) : ((s.checkedFor b).band b).checked = true := by
  unfold State.checkedFor
  split
  · assumption
  · rw [checkBand_nil, band_modBand_same]

theorem checkedFor_place (s : State) (b : Nat) : ∃ place, s.checkedFor b = { s with place := place } := by
  unfold State.checkedFor
  split
  · exact ⟨s.place, rfl⟩
  · rw [checkBand_nil]
    exact ⟨_, rfl⟩

/-- The accumulator of a program that succeeds (R173). -/
def State.accFor (s : State) (d : MDesc) (n : Nat) (failed : Bool) : State := if d.acc && !failed then s.accUnit d n else s

theorem accFor_checked {d : MDesc} (failed : Bool) (h : (s.band d.band.toNat).checked = true) :
    ((s.accFor d n failed).band d.band.toNat).checked = true := by
  unfold State.accFor
  split
  · unfold State.accUnit
    dsimp only
    rw [band_modBand_same]
    have hheads : ∀ (x : Band) row c seq kinds, (x.addHeads row c seq kinds).checked = x.checked := fun x _ _ _ _ => by
      unfold Band.addHeads
      split <;> rfl
    have hxor : ∀ (x : Band) row u, (x.xorUnit row u).checked = x.checked := fun x _ _ => by
      unfold Band.xorUnit
      split <;> rfl
    exact (hxor ..).trans ((hheads ..).trans h)
  · exact h

theorem accFor_place (s : State) (d : MDesc) (n : Nat) (failed : Bool) : ∃ place, s.accFor d n failed = { s with place := place } := by
  unfold State.accFor
  split
  · exact ⟨_, rfl⟩
  · exact ⟨s.place, rfl⟩

/-- A program that its band and the tokens let through ends by its success or failure. -/
theorem exec_mediaProgram {ch : BitVec 5} {slot : BitVec 8} {bad : List (BitVec 5)} {failed : Bool}
    (h : s.RunsAt ch.toNat slot.toNat .program e)
    (hgood : (s.band e.d.band.toNat).checked = true ∨ ∀ c ∈ (s.band e.d.band.toNat).channels, ∀ x ∈ bad, x.toNat ≠ c)
    (hcheck : s.mayCheck e.d.band.toNat e.d.cls = true) (hconfirm : s.mayConfirm ch.toNat slot.toNat = true) :
    exec (.mediaProgram ch slot bad failed) s = .next (((s.checkedFor e.d.band.toNat).accFor e.d ch.toNat failed).setStatus ch.toNat slot.toNat
      (mstatusCode (if failed then .programFail else .ok))) := by
  have hstart : ¬ (!(s.band e.d.band.toNat).checked && (s.band e.d.band.toNat).channels.any fun c => bad.any fun x => x.toNat = c) = true := by
    rcases hgood with hgood | hgood
    · simp [hgood]
    · simp only [Bool.and_eq_true, List.any_eq_true, decide_eq_true_eq, not_and, not_exists]
      exact fun _ c hc x hx => hgood c hc x hx
  obtain ⟨place, hplace⟩ := checkedFor_place s e.d.band.toNat
  have hstill : (s.checkedFor e.d.band.toNat).mayConfirm ch.toNat slot.toNat = true := by
    rw [hplace]
    exact hconfirm
  show execMediaProgram ch slot bad failed s = _
  unfold execMediaProgram
  rw [h.runningOp]
  dsimp only
  rw [if_neg (by rw [hcheck]; decide), if_neg hstart]
  exact if_neg (by rw [show (if (s.band e.d.band.toNat).checked = true then s else s.checkBand e.d.band.toNat []).mayConfirm ch.toNat slot.toNat =
    true from hstill]; decide)

/-- Where a member of the band is not erased, its first program waits for the erase. -/
theorem exec_mediaProgram_waits {ch : BitVec 5} {slot : BitVec 8} {bad : List (BitVec 5)} {failed : Bool}
    (h : s.RunsAt ch.toNat slot.toNat .program e) (hnew : (s.band e.d.band.toNat).checked = false)
    (hbad : ∃ c ∈ (s.band e.d.band.toNat).channels, ∃ x ∈ bad, x.toNat = c) (hcheck : s.mayCheck e.d.band.toNat e.d.cls = true) :
    exec (.mediaProgram ch slot bad failed) s =
      .next ((s.checkBand e.d.band.toNat (bad.map BitVec.toNat)).unstart e.d.band.toNat ch.toNat) := by
  show execMediaProgram ch slot bad failed s = _
  unfold execMediaProgram
  rw [h.runningOp]
  dsimp only
  rw [if_neg (by rw [hcheck]; decide)]
  exact if_pos (by
    simp only [hnew, Bool.not_false, Bool.true_and, List.any_eq_true, decide_eq_true_eq]
    exact hbad)

/-- At a slot a program of a band, whose unit has not been transferred, runs or waits. -/
def State.pendingAt (s : State) (n slot b : Nat) : Prop :=
  ∃ x, (s.chan n).entry slot = some x ∧ x.d.band.toNat = b ∧ mopOf x.d.op = some .program ∧ x.status = none ∧
    (x.phase = .started ∨ x.phase = .queued)

theorem chan_submit_ne {k : Nat} (hk : k ≠ n) (d : MDesc) : (s.submit n d).chan k = s.chan k := by
  have henter : ∀ (t : State) d, (t.enter n d).chan k = t.chan k := fun t d => by
    unfold State.enter
    split
    · exact chan_modChan_ne _ _ hk
    · next i _ => exact chan_modChan_ne t (fun c => { c with queue := c.queue ++ [newEntry i d t.media.orderNext] }) hk
  have hfold : ∀ (l : List MDesc) (t : State), (l.foldl (fun t d => t.enter n d) t).chan k = t.chan k := fun l => by
    induction l with
    | nil => exact fun _ => rfl
    | cons y l ih => exact fun t => (ih _).trans (henter t y)
  rw [submit_chan, hfold]
  unfold State.unwaited
  rw [chan_modChan_ne _ _ hk, chan_modChan_ne _ _ hk]

/-- An erase that goes first leaves the other entries at their slots (R174). -/
theorem entry_eraseFirst {x : QEntry} (b : Nat) (m : Nat × Nat) (cls : BitVec 3) (he : (s.chan n).entry slot = some x) :
    ((s.eraseFirst b m cls).chan n).entry slot = some x := by
  unfold State.eraseFirst
  dsimp only
  split
  · by_cases hm : n = m.1
    · subst hm
      exact entry_submit he _
    · rw [chan_submit_ne hm]
      exact he
  · next i hfree =>
    let f : Channel → Channel := fun c => { c with
      queue := newEntry i (eraseDesc s.planes (b % 16) m.2 b (s.band b).slc cls s.media.tagNext) 0 :: c.queue }
    by_cases hm : n = m.1
    · subst hm
      have hne : i ≠ slot := fun h => by
        have hnone := List.find?_some hfree
        rw [h, he] at hnone
        cases hnone
      refine (congrArg (fun c => Channel.entry c slot) (chan_modChan_same s m.1 f)).trans ?_
      exact (List.find?_cons_of_neg (by simp [newEntry, hne])).trans he
    · exact (congrArg (fun c => Channel.entry c slot) (chan_modChan_ne s f hm)).trans he

/-- A program that runs stands in the queue again, and one that waits waits. -/
theorem unstart_entry {x : QEntry} (b k : Nat) (he : (s.chan n).entry slot = some x) : ∃ y, ((s.unstart b k).chan n).entry slot = some y ∧
    y.d = x.d ∧ (x.status = none → y.status = none) ∧ (y.phase = x.phase ∨ y.phase = .queued) ∧
    (k = n → x.d.band.toNat = b → mopOf x.d.op = some .program → x.status = none → x.phase = .started → y.phase = .queued) := by
  unfold State.unstart
  by_cases hk : n = k
  · subst hk
    rw [chan_modChan_same]
    refine ⟨_, (find_slot_map (fun y => by split <;> rfl) _).trans (congrArg (Option.map _) he), ?_⟩
    dsimp only
    split
    · exact ⟨rfl, id, .inr rfl, fun _ _ _ _ _ => rfl⟩
    · next h => exact ⟨rfl, id, .inl rfl, fun _ hb hop hst hphase => absurd ⟨hb, hop, hphase, by rw [hst]; rfl⟩ h⟩
  · rw [chan_modChan_ne _ _ hk]
    exact ⟨x, he, rfl, id, .inl rfl, fun h => absurd h.symm hk⟩

theorem pendingAt_unstart {b k c : Nat} (h : s.pendingAt n slot b) : (s.unstart c k).pendingAt n slot b := by
  obtain ⟨x, hx, hband, hop, hst, hphase⟩ := h
  obtain ⟨y, hy, hd, hst', hphase', -⟩ := unstart_entry c k hx
  refine ⟨y, hy, hd ▸ hband, hd ▸ hop, hst' hst, ?_⟩
  rcases hphase' with h | h
  · rw [h]
    exact hphase
  · exact .inr h

/-- The check of a band with members that are not erased, and its program back in the queue (R174). -/
theorem checkBand_pending {b : Nat} (bad : List Nat) (h : s.pendingAt n slot b) : (s.checkBand b bad).pendingAt n slot b := by
  have hfold : ∀ (cls : BitVec 3) (l : List (Nat × Nat)) (t : State), t.pendingAt n slot b →
      (l.foldl (fun t m => (t.unstart b m.1).eraseFirst b m cls) t).pendingAt n slot b := fun cls l => by
    induction l with
    | nil => exact fun _ ht => ht
    | cons m l ih =>
      intro t ht
      obtain ⟨x, hx, hrest⟩ := pendingAt_unstart (c := b) (k := m.1) ht
      exact ih _ ⟨x, entry_eraseFirst b m cls hx, hrest⟩
  exact hfold _ _ _ h

/-- At its slot it then waits, with no status. -/
theorem unstart_waits {b : Nat} (h : s.pendingAt n slot b) : ∃ x, ((s.unstart b n).chan n).entry slot = some x ∧ x.phase = .queued ∧
    x.status = none := by
  obtain ⟨x, hx, hband, hop, hst, hphase⟩ := h
  obtain ⟨y, hy, -, hst', hphase', hback⟩ := unstart_entry b n hx
  refine ⟨y, hy, ?_, hst' hst⟩
  rcases hphase with h | h
  · exact hback rfl hband hop hst h
  · exact hphase'.elim (fun hy => hy.trans h) id

theorem checkBand_checked (s : State) (b : Nat) (bad : List Nat) : ((s.checkBand b bad).band b).checked = true := by
  unfold State.checkBand
  dsimp only
  rw [band_modBand_same]

section Commands

variable {ch : BitVec 5} {slot : BitVec 8} {failed : Bool}

theorem exec_mediaParity (h : s.RunsAt ch.toNat slot.toNat .parity e) (hconfirm : s.mayConfirm ch.toNat slot.toNat = true) :
    exec (.mediaParity ch slot failed) s =
      .next (s.setStatus ch.toNat slot.toNat (mstatusCode (if failed then .programFail else .ok))) := by
  show execMediaParity ch slot failed s = _
  unfold execMediaParity
  rw [h.runningOp]
  exact if_neg (by rw [hconfirm]; decide)

/-- The state after the wear of an erase of every plane (R171). -/
def State.wornBy (s : State) (n : Nat) (d : MDesc) : State := if d.planes = s.planes then s.wearBlock n d.die.toNat d.block.toNat else s

theorem exec_mediaErase (h : s.RunsAt ch.toNat slot.toNat .erase e) (hflush : s.snuff.trigger = none ∨ e.d.submitter = 11) :
    exec (.mediaErase ch slot failed) s =
      .next ((s.wornBy ch.toNat e.d).setStatus ch.toNat slot.toNat (mstatusCode (if failed then .eraseFail else .ok))) := by
  have hgo : ¬ (s.snuff.trigger.isSome && !snuffDesc e.d) = true := by
    rcases hflush with h | h <;> simp [h, snuffDesc]
  show execMediaErase ch slot failed s = _
  unfold execMediaErase
  rw [h.startedOp]
  dsimp only
  rw [if_neg hgo, if_neg (by rw [h.held]; decide)]
  rfl

theorem exec_mediaErase_aborts (he : s.startedOp ch.toNat slot.toNat .erase = some e) (hflush : s.snuff.trigger ≠ none)
    (hsub : e.d.submitter ≠ 11) : exec (.mediaErase ch slot failed) s = .next (s.setStatus ch.toNat slot.toNat (mstatusCode .aborted)) := by
  have hother : snuffDesc e.d = false := beq_false_of_ne hsub
  show execMediaErase ch slot failed s = _
  unfold execMediaErase
  rw [he]
  exact if_pos (by rw [hother, Option.isSome_iff_ne_none.mpr hflush]; rfl)

/-- An entry found by its opcode stands at its slot. -/
theorem entry_of_startedOp {op : MOp} (he : s.startedOp n slot.toNat op = some e) : (s.chan n).entry slot.toNat = some e := by
  unfold State.startedOp at he
  split at he
  · next x hx =>
    split at he
    · rw [hx, he]
    · cases he
  · cases he

theorem wornBy_wear (s : State) (n : Nat) (d : MDesc) : ∃ chans : Sparse Nat, s.wornBy n d = s.onMedia (fun m => { m with wear := chans }) ∧
    tget 0 chans (wearKey n d.die.toNat d.block.toNat) =
      tget 0 s.media.wear (wearKey n d.die.toNat d.block.toNat) + (if d.planes = s.planes then 1 else 0) := by
  unfold State.wornBy
  split
  · exact ⟨_, rfl, tget_tset_same ..⟩
  · exact ⟨s.media.wear, rfl, rfl⟩

theorem exec_markRead {marked : Bool} (h : s.RunsAt ch.toNat slot.toNat .markRead e) : exec (.markRead ch slot marked) s =
    .next (s.setStatus ch.toNat slot.toNat (mstatusCode (if marked then .badMark else .ok))) := by
  show execMarkRead ch slot marked s = _
  unfold execMarkRead
  rw [h.runningOp]

/-- The die with its feature set, and the value drawn (R166). -/
def State.featured (s : State) (n die : Nat) : State :=
  { s.modChan n (fun c => { c with feats := tset 0 c.feats die (Config.dieFeature s.draws n die) }) with draws := s.draws + 1 }

theorem exec_feature (h : s.RunsAt ch.toNat slot.toNat .feature e) : exec (.feature ch slot) s =
    .next ((s.featured ch.toNat e.d.die.toNat).setStatus ch.toNat slot.toNat (mstatusCode .ok)) := by
  show execFeature ch slot s = _
  unfold execFeature
  rw [h.runningOp]
  rfl

theorem featured_chan (s : State) (n die : Nat) : (s.featured n die).chan n =
    { s.chan n with feats := tset 0 (s.chan n).feats die (Config.dieFeature s.draws n die) } :=
  chan_modChan_same s n fun c => { c with feats := tset 0 c.feats die (Config.dieFeature s.draws n die) }

theorem exec_resetDie_matches (h : s.RunsAt ch.toNat slot.toNat .resetDie e) : exec (.resetDie ch slot true) s =
    .next (s.setStatus ch.toNat slot.toNat (mstatusCode .ok)) := by
  show execResetDie ch slot true s = _
  unfold execResetDie
  rw [h.runningOp]
  rfl

/-- An ID that does not match ends it with the free status, which stays whatever becomes of the die (R191). -/
theorem exec_resetDie_differs (h : s.RunsAt ch.toNat slot.toNat .resetDie e) : ∃ t, exec (.resetDie ch slot false) s = .next t ∧
    ∃ x, (t.chan ch.toNat).entry slot.toNat = some x ∧ x.status = some (Config.resetDieStatus s.draws) := by
  let u : State := { s.setStatus ch.toNat slot.toNat (Config.resetDieStatus s.draws) with draws := s.draws + 1 }
  have hentry : (u.chan ch.toNat).entry slot.toNat = some { e with status := some (Config.resetDieStatus s.draws) } := setStatus_entry _ h.entry
  have hexec : exec (.resetDie ch slot false) s = if (s.chan ch.toNat).timeouts.any fun x => x.1 = e.d.die.toNat then
      .next ((u.failDie ch.toNat e.d.die.toNat).checkChannel ch.toNat) else .next u := by
    show execResetDie ch slot false s = _
    unfold execResetDie
    rw [h.runningOp]
    rfl
  rw [hexec]
  split
  · obtain ⟨x, hx, -, hst⟩ := ((queued_failDie u ch.toNat e.d.die.toNat).trans (queued_checkChannel _ ch.toNat)).started ch.toNat slot.toNat _
      hentry (by rw [h.phase]; decide)
    exact ⟨_, rfl, x, hx, hst⟩
  · exact ⟨_, rfl, _, hentry, rfl⟩

end Commands

end Actions

/-! ### The clauses of a read (R180 to R183, R186) -/

section ReadClauses

variable {s : State} {p : Profile} {ch : BitVec 5} {slot : BitVec 8} {e : QEntry} {r : ReadIn}

/-- The read ends with a status at its slot. -/
def State.readEndsWith (s : State) (ch : BitVec 5) (slot : BitVec 8) (r : ReadIn) (code : Byte) : Prop :=
  ∃ t, exec (.mediaRead ch slot r) s = .next t ∧ ∃ x, (t.chan ch.toNat).entry slot.toNat = some x ∧ x.status = some code

variable (h : s.RunsAt ch.toNat slot.toNat .read e) (hflush : s.snuff.trigger = none ∨ e.d.submitter = 11) (hp : s.media.profile = some p)

include h hflush hp

theorem mediaRead_ones (hdie : (s.chan ch.toNat).rebuilds e = false) (hones : r.ones = true) : s.readEndsWith ch slot r 0x04 := by
  obtain ⟨hstay, hst⟩ := readEnd_ones (p := p) hdie hones
  have hgo := exec_mediaRead_ends h hflush hp hstay
  rwa [hst] at hgo

/-- A read ends at the first rung that fits it. -/
theorem mediaRead_stops {rungs : List Nat} {k : Nat} (hones : r.ones = false ∨ 0 ∉ rungs) (hrungs : s.rungsOf p ch.toNat e = rungs)
    (hasc : rungs.Pairwise (· < ·)) (hk : k ∈ rungs) (h18 : k = 18 → e.climbed = true) (hfits : s.rungFits p ch.toNat e r k)
    (hfirst : ∀ j ∈ rungs, j < k → ¬ s.rungFits p ch.toNat e r j) :
    s.readEndsWith ch slot r (if k = 0 then 0x00 else if k ≤ 16 then 0x01 else if k = 17 then 0x02 else 0x03) := by
  obtain ⟨hstay, hst⟩ := readEnd_stops hones hrungs hasc hk h18 hfits hfirst
  have hgo := exec_mediaRead_ends h hflush hp hstay
  rwa [hst, mstatusCode_rungStatus] at hgo

/-- Where no rung fits, a mismatch at every rung ends it MISPLACED, and a rung that has not decoded UNCORRECTABLE. -/
theorem mediaRead_fails {rungs : List Nat} (hones : r.ones = false ∨ 0 ∉ rungs) (hrungs : s.rungsOf p ch.toNat e = rungs)
    (hlast : e.climbed = true ∨ 18 ∉ rungs) (hnone : ∀ k ∈ rungs, ¬ s.rungFits p ch.toNat e r k) :
    s.readEndsWith ch slot r (if rungs.all (s.rungDecodes ch.toNat e r) then 0x11 else 0x10) := by
  have hgo := exec_mediaRead_ends h hflush hp (mustClimb_of_climbed (r := r) (hrungs.symm ▸ hlast))
  rw [readEnd_fails hones hrungs hnone] at hgo
  refine Eq.mp (congrArg (s.readEndsWith ch slot r) ?_) hgo
  split <;> rfl

/-- A read that no rung below 18 has ended goes on there, once the tokens allow it. -/
theorem mediaRead_climbs {rungs : List Nat} (hones : r.ones = false) (hrungs : s.rungsOf p ch.toNat e = rungs) (hclimbed : e.climbed = false)
    (h18 : 18 ∈ rungs) (hnone : ∀ k ∈ rungs, k ≠ 18 → ¬ s.rungFits p ch.toNat e r k)
    (htokens : s.affords (tset Channel.none s.media.chans ch.toNat (s.climbed ch.toNat slot.toNat e)) = true) :
    exec (.mediaRead ch slot r) s = .next (s.setChan ch.toNat (s.climbed ch.toNat slot.toNat e)) :=
  (exec_mediaRead h hflush hp).trans ((if_pos (mustClimb_of_none hones hrungs hclimbed h18 hnone)).trans (if_pos htokens))

end ReadClauses

/-- Settles O34: a read by the rungs that fit it, every other action by the equation of its command. -/
theorem actionsEnd : Obligations.ActionsEnd := by
  unfold Obligations.ActionsEnd
  intro s ch slot p n ends runs
  have hruns : ∀ {op : MOp} {e : QEntry}, runs op e → s.RunsAt n slot.toNat op e := fun ⟨hup, he, hphase, hst, hheld, hop⟩ =>
    ⟨hup, he, hphase, hst, hheld, hop⟩
  have hends : ∀ {t : State} {e : QEntry} (st : Byte), (t.chan n).entry slot.toNat = some e → ends st (t.setStatus n slot.toNat st) :=
    fun st he => ⟨_, setStatus_entry st he, rfl⟩
  have hread : ∀ {r : ReadIn} {code : Byte}, s.readEndsWith ch slot r code → ∃ t, exec (.mediaRead ch slot r) s = .next t ∧ ends code t := id
  refine ⟨fun e r h hflush hp => ?_, fun e r h hflush hsub => ?_, fun e bad failed h hgood hcheck hconfirm => ?_,
    fun e bad failed h hnew hbad hcheck => ?_, fun e failed h hconfirm => ?_, fun e failed h hflush => ?_, fun e failed he hflush hsub => ?_,
    fun e marked h => ?_, fun e h => ?_, fun e h => ?_⟩
  · have hrun := hruns h
    refine ⟨fun hdie => ⟨fun hones => ?_, fun hones herrors hnamed => ?_, fun hones hclimbed h18 hnone htokens => ?_,
      fun hones hlast hnone => ?_, fun hones k hk h18 hdecodes hnamed hfirst => ?_⟩, fun hdie hclimbed => ?_⟩
    · exact hread (mediaRead_ones hrun hflush hp hdie hones)
    · have hzero : decodesAt r (s.mates e.d.band.toNat e.d.wl.toNat n) 0 = true := by simp [decodesAt, herrors]
      exact hread (mediaRead_stops hrun hflush hp (.inl hones) (rungsOf_ladder hdie) (ladder_ascends _ _) (k := 0)
        (by obtain ⟨rest, hhead⟩ := ladder_head p (ladderTop e.d.ladder); rw [hhead]; exact List.mem_cons_self) (fun h => absurd h (by decide))
        (rungFits_iff.mpr ⟨⟨hzero, fun h => absurd h (by decide)⟩, hnamed⟩) fun j _ hj => absurd hj (Nat.not_lt_zero j))
    · refine ⟨_, mediaRead_climbs hrun hflush hp hones (rungsOf_ladder hdie) hclimbed h18 (fun k hk hne hfits => ?_) htokens, rfl,
        climbed_entry hrun.entry⟩
      exact hnone k hk hne (rungFits_iff.mp hfits)
    · obtain ⟨t, hexec, hend⟩ := mediaRead_fails hrun hflush hp (.inl hones) (rungsOf_ladder hdie) hlast fun k hk hfits =>
        hnone k hk (rungFits_iff.mp hfits)
      refine ⟨t, hexec, fun hall => ?_, fun ⟨k, hk, hfail⟩ => ?_⟩
      · rwa [if_pos (List.all_eq_true.mpr fun k hk => rungDecodes_iff.mpr (hall k hk))] at hend
      · rwa [if_neg fun hall => hfail (rungDecodes_iff.mp (List.all_eq_true.mp hall k hk))] at hend
    · exact hread (mediaRead_stops hrun hflush hp (.inl hones) (rungsOf_ladder hdie) (ladder_ascends _ _) hk h18 (rungFits_iff.mpr ⟨hdecodes, hnamed⟩)
        fun j hj hlt hfits => hfirst j hj hlt (rungFits_iff.mp hfits))
    · by_cases hfits : s.rungFits p n e r 18
      · obtain ⟨t, hexec, hend⟩ := mediaRead_stops hrun hflush hp (.inr (by decide)) (rungsOf_rebuild hdie) (List.pairwise_singleton _ _)
          List.mem_cons_self (fun _ => hclimbed) hfits fun j hj hlt => absurd hlt (by rw [List.mem_singleton.mp hj]; decide)
        obtain ⟨hdecodes, hnamed⟩ := rungFits_iff.mp hfits
        exact ⟨t, hexec, fun _ _ => hend, fun _ hother => absurd hnamed hother, fun hfail => absurd hdecodes hfail⟩
      · obtain ⟨t, hexec, hend⟩ := mediaRead_fails hrun hflush hp (.inr (by decide)) (rungsOf_rebuild hdie) (.inl hclimbed) fun k hk =>
          List.mem_singleton.mp hk ▸ hfits
        refine ⟨t, hexec, fun hdecodes hnamed => absurd (rungFits_iff.mpr ⟨hdecodes, hnamed⟩) hfits, fun hdecodes _ => ?_, fun hfail => ?_⟩
        · rwa [if_pos (List.all_eq_true.mpr fun k hk => List.mem_singleton.mp hk ▸ rungDecodes_iff.mpr hdecodes)] at hend
        · rwa [if_neg fun hall => hfail (rungDecodes_iff.mp (List.all_eq_true.mp hall 18 List.mem_cons_self))] at hend
  · exact ⟨_, exec_mediaRead_aborts (hruns h) hflush hsub, hends _ (hruns h).entry, rfl⟩
  · obtain ⟨place, hplace⟩ := checkedFor_place s e.d.band.toNat
    obtain ⟨place', hplace'⟩ := accFor_place (s.checkedFor e.d.band.toNat) e.d n failed
    refine ⟨_, exec_mediaProgram (hruns h) hgood hcheck hconfirm, ?_, ?_, ?_⟩
    · rw [hplace', hplace]
      cases failed <;> exact hends _ (hruns h).entry
    · exact accFor_checked failed (checkedFor_band s e.d.band.toNat)
    · rw [hplace', hplace]
      rfl
  · obtain ⟨hup, he, hphase, hst, hheld, hop⟩ := h
    have hpending := checkBand_pending (bad.map BitVec.toNat) (b := e.d.band.toNat) ⟨e, he, rfl, hop, hst, .inl hphase⟩
    obtain ⟨x, hx, hqueued, hnone⟩ := unstart_waits hpending
    refine ⟨_, x, exec_mediaProgram_waits ⟨hup, he, hphase, hst, hheld, hop⟩ hnew hbad hcheck, hx, hqueued, hnone,
      checkBand_checked s e.d.band.toNat (bad.map BitVec.toNat), ?_⟩
    exact (keeps_unstart _ _ (keeps_checkBand _ _ (Keeps.refl { media := true, place := true } s) rfl rfl) rfl).frame
  · refine ⟨_, exec_mediaParity (hruns h) hconfirm, ?_, rfl⟩
    cases failed <;> exact hends _ (hruns h).entry
  · obtain ⟨wear, hworn, hcount⟩ := wornBy_wear s n e.d
    refine ⟨_, exec_mediaErase (hruns h) hflush, ?_, ?_, ?_⟩
    all_goals rw [hworn]
    · cases failed <;> exact hends _ (hruns h).entry
    · rfl
    · exact hcount
  · exact ⟨_, exec_mediaErase_aborts he hflush hsub, hends _ (entry_of_startedOp he), rfl⟩
  · refine ⟨_, exec_markRead (hruns h), ?_, rfl⟩
    cases marked <;> exact hends _ (hruns h).entry
  · have hentry : ((s.featured n e.d.die.toNat).chan n).entry slot.toNat = some e := by
      rw [featured_chan]
      exact (hruns h).entry
    refine ⟨_, exec_feature (hruns h), hends _ hentry, rfl, ?_⟩
    unfold State.setStatus
    rw [chan_modChan_same, featured_chan]
    exact tget_tset_same ..
  · exact ⟨⟨_, exec_resetDie_matches (hruns h), hends _ (hruns h).entry, rfl⟩, exec_resetDie_differs (hruns h)⟩

end Sys2Proof.Machine
